-- ==== Sys2Proof/Word.lean ====
section
/-! DEFINITION. The words of the Filgon: bytes, 32-bit registers, 64-bit pairs and lane masks (spec/00_scope.md R5, R7). -/
namespace Sys2Proof

/-- One byte of memory. -/
abbrev Byte := BitVec 8

/-- One 32-bit register of one lane (R2). -/
abbrev Word := BitVec 32

/-- A 64-bit value: a register pair, an address, a latch value. -/
abbrev Dword := BitVec 64

/-- A set of lanes of one group: bit `L` stands for lane `L` (R98). -/
abbrev Lanes := BitVec 32

/-- One register of all 32 lanes of a group. -/
abbrev Row := Vector Word 32

/-- One 64-bit value for each of the 32 lanes: a latch, the lane PCs. -/
abbrev Row64 := Vector Dword 32

/-- A sparse table: pairs of a key and a value, keys strictly rising, no value equal to what an unlisted key reads as.
Memory is such a table of bytes. -/
abbrev Tab (β : Type) := List (Nat × β)

end Sys2Proof
end

