-- ==== Sys2Proof/Config.lean ====
section
/-! DEFINITION. What the Filgon fixes (spec/00_scope.md R2 to R4 and the figures of the other files) and the free values
that the spec leaves open. A free value is an opaque function: nothing in Lean can evaluate it. -/
namespace Sys2Proof.Config

/-- Dies per package (R2). -/
def dies : Nat := 4
/-- Cores per die, a 12 by 12 mesh (R2, R76). -/
def cores : Nat := 144
/-- Columns and rows of the mesh (R76). -/
def mesh : Nat := 12
/-- Quads per die (R2). -/
def quads : Nat := 36
/-- Issue slots per core (R2). -/
def slots : Nat := 4
/-- Lanes per group (R1). -/
def lanes : Nat := 32
/-- Group contexts per slot (R95). -/
def groupsPerSlot : Nat := 32
/-- Register bands per slot, of 16 registers each (R81). -/
def bands : Nat := 128
/-- Scratchpad units of 4 KiB per core (R77). -/
def units : Nat := 192
/-- Memory slices per die (R13). -/
def slices : Nat := 16
/-- Control cores per die (R52). -/
def harts : Nat := 4
/-- Launch queues of the package and launches per queue (R56). -/
def queues : Nat := 64
def queueDepth : Nat := 256
/-- Handle-table entries per die (R62). -/
def handles : Nat := 4096
/-- Context-table entries (R54). -/
def contexts : Nat := 4096
/-- Result-cache entries of a slice and of a launch unit (R43, R36), and keys of a directory (R43). -/
def cacheEntries : Nat := 4096
def launchCacheEntries : Nat := 1024
def directoryKeys : Nat := 65536
/-- The requester's window (R40). -/
def window : Nat := 1024
/-- Holding-buffer entries and overflow-log entries per slice (R221). -/
def holding : Nat := 16
def overflowLog : Nat := 65536
/-- Declared counted lines per slice (R380). -/
def countedLines : Nat := 256
/-- Fault-log records per die (R67). -/
def logRecords : Nat := 4096
/-- Monitors and access counts per die (R160, R134). -/
def monitors : Nat := 4096
def accessCounts : Nat := 1024
/-- Operand-buffer granules and reservations of a quad (R357). -/
def granules : Nat := 448
def reservations : Nat := 64
/-- Entries of a quad's reservation table (R88). -/
def engineTable : Nat := 32
/-- Spare columns of a matrix engine (R229). -/
def spares : Nat := 2
/-- Bundles of a quantum and of a yield period (R91, R93). -/
def quantum : Nat := 64
def yieldPeriod : Nat := 256
/-- Cycles after which a ready group that has not issued is chosen (R91). -/
def starvation : Nat := 2048
/-- Vectors of a channel queue (R343). -/
def queueVectors : Nat := 8
/-- Chunks of a relaunch store buffer (R240). -/
def holdChunks : Nat := 8192
/-- Ndenath ports (R31). -/
def ports : Nat := 32
/-- Oldest AGE a package accepts, in microseconds (R35). -/
def maxAge : Nat := 250
/-- The largest Ethernet frame (R19). -/
def maxFrame : Nat := 9216
/-- Package power, in watts (R4, R23). -/
def maxPower : Nat := 2800

/-- Bits of a value the spec leaves open, drawn by a counter of State. -/
opaque freeBits : Nat → Dword

/-- A choice between two outcomes that the spec leaves open, drawn by a counter of State. -/
opaque freeBool : Nat → Bool

/-- The port-selection hash of R35 over DSTPKG and ADDR[47:12]: any function of those two values. -/
opaque portHash : BitVec 16 → BitVec 36 → Nat

/-- CXL bytes that hold another value after a warm reset (R28), drawn by a counter of State: address and value. -/
opaque freeCells : Nat → List (Nat × Byte)

/-- The bank of a memory line (R29): the geometry of the parts, which the spec does not give. -/
opaque bankOf : Nat → Nat

/-- The rank that a check record counts for a rounding that reported none (R212): by the factors and the deckle's first word. -/
opaque unreportedRank : List (List Nat) → List (List Nat) → Nat → Nat

/-- The runtime's limit on the frames of its active list (R143). -/
opaque frameLimit : Nat

/-- Whether stage 0x2 multiplies the signature equation by the cofactor: RFC 8032 allows either (assumption 24). -/
opaque cofactored : Bool

end Sys2Proof.Config
end

