-- ==== Sys2Proof/Fields.lean ====
section
/-! DEFINITION. The field records of the instruction layouts (spec/12_formats_and_opcode_map.md R256 to R267), the
packets of the fabric (spec/02_fabric_and_exactly_once.md R33, R34, R413) and the records that event rows carry. -/
namespace Sys2Proof

/-- The T form's fields (R256). -/
structure TF where
  dst : BitVec 8
  nw : Bool
  sa : BitVec 9
  sb : BitVec 9
  sc : BitVec 9
  ua : Bool
  ub : Bool
  uc : Bool
  rnd : BitVec 3
  guard : BitVec 7
  mod : BitVec 4
  deriving DecidableEq, Repr

/-- The I form's fields (R261). -/
structure IF where
  w : BitVec 2
  dst : BitVec 8
  sa : BitVec 9
  imm : Word
  nw : Bool
  ua : Bool
  deriving DecidableEq, Repr

/-- The fields of one half of a P word (R262), its opcode apart. -/
structure HF where
  hdst : BitVec 7
  hsrc : BitVec 9
  hmod : BitVec 4
  himm : BitVec 4
  deriving DecidableEq, Repr

/-- The P-opcodes (R263). -/
inductive POp where
  | iadd | isub | imin | imax | and | or | xor | andn | shl | shr | sar | mov | icmp | fadd | fmul | fmin | fmax
  deriving DecidableEq, Repr

/-- The XM layout's fields (R265). -/
structure XM where
  data : BitVec 8
  addr : BitVec 8
  offs : BitVec 16
  scope : BitVec 3
  ord : BitVec 2
  width : BitVec 3
  pln : BitVec 2
  rb : Bool
  guard : BitVec 7
  deriving DecidableEq, Repr

/-- The XB layout's fields (R266), the reserved ones apart. -/
structure XB where
  breg : BitVec 8
  mask : BitVec 4
  boff : BitVec 20
  guard : BitVec 7
  deriving DecidableEq, Repr

/-- The XE layout's fields (R267). -/
structure XE where
  e0 : BitVec 8
  e1 : BitVec 8
  e2 : BitVec 8
  e3 : BitVec 8
  e4 : BitVec 8
  flags : BitVec 3
  guard : BitVec 7
  deriving DecidableEq, Repr

/-- The optimiser parameter record as a request carries it (R377). -/
structure OptParams where
  eta : Dword
  lambda : Dword
  beta1 : Dword
  beta2 : Dword
  eps : Dword
  c1 : Dword
  c2 : Dword
  seed : Word
  step : Word
  deriving DecidableEq, Repr

/-- What a request asks its owner to do (R36, R332, R379, R381, R382, R384). -/
inductive OwnerOp where
  /-- A load of `n` bytes (R41); narrower than 4 bytes it is zero- or sign-extended (R320). -/
  | load (n : Nat) (signed : Bool := false)
  /-- A store of `n` bytes to a remote page (R320). -/
  | store (n : Nat)
  /-- The stores of one lane of an engine or tile operation, each of `n` bytes: operand words give each one's offset from the lane's
  address, then its value (R38, R413). `tile` says which counter the operation belongs to. -/
  | stores (n : Nat) (tile : Bool)
  /-- `ATOM`: operation code, 64-bit, signed, rounding. -/
  | atom (code : BitVec 5) (w64 signed : Bool) (rnd : BitVec 3)
  /-- `RED`; `held` in a deterministic launch (R222). -/
  | red (code : BitVec 5) (w64 signed : Bool) (rnd : BitVec 3) (held : Bool)
  /-- `ATOMV` of 16 or 32 bytes, returning or not. -/
  | atomv (code : BitVec 5) (w64 signed : Bool) (rnd : BitVec 3) (len32 ret : Bool)
  /-- `OSGD` or `OADAM` with plane stride `stride` bytes. -/
  | opt (adam f64 : Bool) (rnd : BitVec 3) (stride : Nat) (par : OptParams)
  /-- `CCON` to a slot. -/
  | ccon (slot : Nat)
  /-- `CLINE`: line word, generation, mode; travels as a load (R381). -/
  | cline (word gen : Word) (mode : BitVec 3)
  /-- `LAUNCH` of the record at a virtual address in a context (R384). -/
  | launch (ctx : BitVec 16) (va : Dword)
  deriving DecidableEq, Repr

/-- One lane of a request or of a reply: its number, physical address, lane check and operand or result words (R413).
`va` is the requester's own note of the untranslated address; it does not travel. -/
structure LaneRec where
  lane : Nat
  pa : BitVec 48
  check : BitVec 16
  data : List Word
  va : Dword
  deriving DecidableEq, Repr

/-- A Ndenath packet (R33). `op`, `recs`, `bytes` and the reply fields stand for the payload. -/
structure Packet where
  dst : BitVec 16
  src : BitVec 16
  kind : BitVec 4
  retx : Bool
  age : Nat
  lhandle : Word
  key : BitVec 48
  serial : Word
  ackpt : Word
  incarn : BitVec 16
  addr : BitVec 48
  opchk : BitVec 16
  lanes : Lanes
  oper : Word
  /-- Owner: slice `16 * die + s`, or `64 + die` for a launch unit. -/
  owner : Nat
  op : OwnerOp
  recs : List LaneRec
  /-- Flags of a result reply (R43). -/
  flags : BitVec 6
  /-- Lanes named by a poisoned result (R237). -/
  bad : Lanes
  /-- Reason of an unknown reply (R42). -/
  reason : Nat
  /-- Copy bytes, for kinds 7 to 9, and the copy and chunk that they belong to. -/
  bytes : List Byte
  gid : Nat
  copyId : Nat
  chunk : Nat
  /-- A release notice that carries LHANDLE alone (R34). -/
  alone : Bool
  /-- When a packet of the package to itself was sent: its age (R35). -/
  sent : Nat
  deriving DecidableEq, Repr

/-- An Ethernet frame as the MAC passes it (R19): source address, EtherType, IEEE 802.1Q tag, payload. -/
structure EthFrame where
  srcMac : BitVec 48
  dstMac : BitVec 48
  tag : Option (BitVec 16)
  etherType : BitVec 16
  payload : List Byte
  deriving DecidableEq, Repr

/-- What firmware fixes when it starts its services (R412, R70, R71): where its structures lie. -/
structure FwBoot where
  capPa : Dword
  capVa : Dword
  rootPa : Dword
  ctxTable : Dword
  logBase : List Dword
  stepping : BitVec 16
  recordBox : Dword
  expansion : Dword
  services : List (BitVec 16 × Dword)
  /-- The translation tables that firmware builds for the runtime: address and bytes (R412). -/
  tables : List (Nat × List Byte)
  /-- Where the runtime and the supervisor start on each hart of the die (R52). -/
  entries : List Dword
  /-- The M-mode trap handler of each hart of the die. -/
  vectors : List Dword
  deriving DecidableEq, Repr

/-- What the governor's sensors give of one die in one window (R23). -/
structure DieMeas where
  /-- Draw of the die, in watts. -/
  power : Nat
  /-- Junction temperature, in degrees Celsius. -/
  temp : Nat
  deriving DecidableEq, Repr

/-- What the slices of another package tell the unit of a deterministic launch (R223, R225): counts of the report, and the team and the
address of an update that a full log could not take. -/
structure SliceReport where
  spills : Nat
  dups : Nat
  held : Nat
  flags : BitVec 6
  full : Option (Nat × Dword)
  deriving DecidableEq, Repr

/-- A CXL device as a root port finds it (R16): its type, whether its memory is of the host-only coherent kind, whether it
needs back-invalidate, and the levels of switch before it. -/
structure CxlDevice where
  type : Nat := 3
  hdmH : Bool := true
  backInvalidate : Bool := false
  switches : Nat := 0
  deriving DecidableEq, Repr

/-- What a background clear has finished (R79, R362). -/
inductive Cleared where
  | band (slot band : Nat)
  | unit (core unit : Nat)
  | granule (quad granule : Nat)
  deriving DecidableEq, Repr

/-- The empty packet: every field zero. -/
def Packet.zero : Packet :=
  { dst := 0, src := 0, kind := 0, retx := false, age := 0, lhandle := 0, key := 0, serial := 0, ackpt := 0, incarn := 0,
    addr := 0, opchk := 0, lanes := 0, oper := 0, owner := 0, op := .load 0, recs := [], flags := 0, bad := 0, reason := 0,
    bytes := [], gid := 0, copyId := 0, chunk := 0, alone := false, sent := 0 }

def FwBoot.zero : FwBoot :=
  { capPa := 0, capVa := 0, rootPa := 0, ctxTable := 0, logBase := [], stepping := 0, recordBox := 0, expansion := 0,
    services := [], tables := [], entries := [], vectors := [] }

/-- What a step that no word encodes is given: which agent acts, and what the environment gives it (assumption 4). Each
event's meaning says which fields it reads. (DESIGN CHOICE: assumption 10.) -/
structure Input where
  die : Nat := 0
  /-- The second die of a link. -/
  peer : Nat := 0
  port : Nat := 0
  owner : Nat := 0
  gid : Nat := 0
  /-- A cluster. -/
  ck : Nat := 0
  hart : Nat := 0
  quad : Nat := 0
  /-- Slot `4 * core + slot`. -/
  slot : Nat := 0
  lane : Nat := 0
  line : Nat := 0
  copyId : Nat := 0
  chunk : Nat := 0
  idx : Nat := 0
  handle : Word := 0
  serial : Word := 0
  faultId : Word := 0
  pkg : BitVec 16 := 0
  mac : BitVec 48 := 0
  payload : List Byte := []
  pkt : Packet := Packet.zero
  /-- The CRC-32C that a packet carries, and the symbol errors of its flit's two codewords. -/
  crc : Word := 0
  errs0 : Nat := 0
  errs1 : Nat := 0
  frame : EthFrame := { srcMac := 0, dstMac := 0, tag := none, etherType := 0, payload := [] }
  fw : FwBoot := FwBoot.zero
  meas : List DieMeas := []
  v : Dword := 0
  addr : Dword := 0
  lanes : Lanes := 0
  /-- A physical outcome: trained, up, supported, intact. -/
  ok : Bool := true
  /-- A late transition in the repeat cycle. -/
  bad : Bool := false
  /-- Residue mismatches, one after another. -/
  mismatches : Nat := 0
  /-- Channels that fail, at each data rate. -/
  bads : List (List Nat) := []
  width : Nat := 0
  rate : Nat := 0
  temp : Nat := 0
  /-- Ports that train, root ports that lose their last device. -/
  mask : BitVec 32 := 0
  /-- The device behind a root port. -/
  device : CxlDevice := {}
  /-- Lines found in error: corrected, uncorrectable; corrected errors elsewhere: source, die, unit. -/
  corrected : List Nat := []
  correctedAt : List (Nat × Nat × Nat) := []
  uncorrectable : List Nat := []
  /-- Source and unit of an uncorrectable error (R236). -/
  source : Nat := 0
  unit : Nat := 0
  cleared : Cleared := .band 0 0
  report : Option SliceReport := none
  deriving DecidableEq, Repr

end Sys2Proof
end

