-- ==== Sys2Proof/Syntax.lean ====
section
/-! DEFINITION. The instructions and the indivisible steps of the Filgon: one constructor per row of spec/opcode_table.json.
An instruction carries the fields of its word; a P-half row carries the word whose half 0 is that operation, half 1 being any
P operation. A row that no word encodes is a step of another agent: what names the agent, and what the environment gives it,
stands in the state (`State.inp`, assumption 4). -/
namespace Sys2Proof

inductive Instr where
  /-- IADD (R281): T-form integer add, wrapping or saturating. -/
  | iadd (f : TF)
  /-- ISUB (R281): T-form integer subtract, wrapping or saturating. -/
  | isub (f : TF)
  /-- IMUL (R281): Low w bits of the product. -/
  | imul (f : TF)
  /-- IMULH (R281): Upper w bits of the 2w-bit product. -/
  | imulh (f : TF)
  /-- IMAD (R281): a × b + c, low w bits. -/
  | imad (f : TF)
  /-- IMIN (R281): Integer minimum under the type. -/
  | imin (f : TF)
  /-- IMAX (R281): Integer maximum under the type. -/
  | imax (f : TF)
  /-- IABS (R281): Signed absolute value, wrapping or saturating. -/
  | iabs (f : TF)
  /-- INEG (R281): Integer negation, wrapping or saturating. -/
  | ineg (f : TF)
  /-- IDIV (R282): Truncating integer division with fixed results at the limits. -/
  | idiv (f : TF)
  /-- IREM (R282): Truncating integer remainder. -/
  | irem (f : TF)
  /-- LEA (R281): 64-bit address plus scaled extended index. -/
  | lea (f : TF)
  /-- AND (R283): Bitwise and. -/
  | and (f : TF)
  /-- OR (R283): Bitwise or. -/
  | or (f : TF)
  /-- XOR (R283): Bitwise exclusive or. -/
  | xor (f : TF)
  /-- ANDN (R283): a and not b. -/
  | andn (f : TF)
  /-- ORN (R283): a or not b. -/
  | orn (f : TF)
  /-- SHL (R283): Left shift. -/
  | shl (f : TF)
  /-- SHR (R283): Logical right shift. -/
  | shr (f : TF)
  /-- SAR (R283): Arithmetic right shift. -/
  | sar (f : TF)
  /-- ROTL (R283): Rotate left by n mod w. -/
  | rotl (f : TF)
  /-- FUNSH (R283): Funnel shift of a:b, right or left. -/
  | funsh (f : TF)
  /-- BFX (R284): Bit-field extract, zero- or sign-extended. -/
  | bfx (f : TF)
  /-- BFI (R284): Bit-field insert. -/
  | bfi (f : TF)
  /-- POPC (R283): Population count. -/
  | popc (f : TF)
  /-- CLZ (R283): Count leading zeros. -/
  | clz (f : TF)
  /-- CTZ (R283): Count trailing zeros. -/
  | ctz (f : TF)
  /-- BREV (R283): Bit reversal. -/
  | brev (f : TF)
  /-- ICMP (R285): Integer compare writing 0 or 1. -/
  | icmp (f : TF)
  /-- SEL (R286): Select a or b by bit 0 of c. -/
  | sel (f : TF)
  /-- MOV (R286): Move a value. -/
  | mov (f : TF)
  /-- MOVX (R287): Read a register indexed per lane. -/
  | movx (f : TF)
  /-- MOVXW (R287): Write a register indexed per lane. -/
  | movxw (f : TF)
  /-- SHFL (R289): Move a value between lanes by index, up, down or xor. -/
  | shfl (f : TF)
  /-- XPERM (R290): Collective permutation through a pattern slot row. -/
  | xperm (f : TF)
  /-- VOTE (R291): All, any or uniform vote over the active set. -/
  | vote (f : TF)
  /-- BALLOT (R291): Mask of active lanes whose bit 0 is set. -/
  | ballot (f : TF)
  /-- MATCH (R291): Mask of active lanes with an equal value. -/
  | matchv (f : TF)
  /-- SCAN (R292): Inclusive or exclusive prefix reduction over the active set. -/
  | scan (f : TF)
  /-- FADD (R301): Floating-point add, rounded once. -/
  | fadd (f : TF)
  /-- FSUB (R301): Floating-point subtract. -/
  | fsub (f : TF)
  /-- FMUL (R301): Floating-point multiply. -/
  | fmul (f : TF)
  /-- FFMA (R301): Fused multiply-add. -/
  | ffma (f : TF)
  /-- FFMS (R301): Fused multiply-subtract. -/
  | ffms (f : TF)
  /-- FMIN (R302): IEEE minimumNumber. -/
  | fmin (f : TF)
  /-- FMAX (R302): IEEE maximumNumber. -/
  | fmax (f : TF)
  /-- FMINM (R302): IEEE minimum, NaN-propagating. -/
  | fminm (f : TF)
  /-- FMAXM (R302): IEEE maximum, NaN-propagating. -/
  | fmaxm (f : TF)
  /-- FABS (R303): Clear the sign bit. -/
  | fabs (f : TF)
  /-- FNEG (R303): Invert the sign bit. -/
  | fneg (f : TF)
  /-- FCPYS (R303): Copy, negate or xor the sign of b. -/
  | fcpys (f : TF)
  /-- FCMP (R304): Floating-point compare writing 0 or 1. -/
  | fcmp (f : TF)
  /-- FCLASS (R305): One-hot class mask. -/
  | fclass (f : TF)
  /-- FRINT (R306): Round to an integral value in the same format. -/
  | frint (f : TF)
  /-- FSCL (R301): a × 2ⁿ, rounded once. -/
  | fscl (f : TF)
  /-- FGETE (R307): Unbiased exponent as a signed integer. -/
  | fgete (f : TF)
  /-- FDIV (R308): Correctly rounded division. -/
  | fdiv (f : TF)
  /-- FSQRT (R308): Correctly rounded square root. -/
  | fsqrt (f : TF)
  /-- FRCP (R308): Correctly rounded reciprocal. -/
  | frcp (f : TF)
  /-- FRSQ (R308): Correctly rounded reciprocal square root. -/
  | frsq (f : TF)
  /-- FEXP (R308): Correctly rounded eᵃ. -/
  | fexp (f : TF)
  /-- FEXP2 (R308): Correctly rounded 2ᵃ. -/
  | fexp2 (f : TF)
  /-- FLOG (R308): Correctly rounded natural logarithm. -/
  | flog (f : TF)
  /-- FLOG2 (R308): Correctly rounded base-2 logarithm. -/
  | flog2 (f : TF)
  /-- FSIN (R308): Correctly rounded sine. -/
  | fsin (f : TF)
  /-- FCOS (R308): Correctly rounded cosine. -/
  | fcos (f : TF)
  /-- FTAN (R308): Correctly rounded tangent. -/
  | ftan (f : TF)
  /-- FATAN (R308): Correctly rounded arctangent. -/
  | fatan (f : TF)
  /-- FTANH (R308): Correctly rounded hyperbolic tangent. -/
  | ftanh (f : TF)
  /-- FERF (R308): Correctly rounded error function. -/
  | ferf (f : TF)
  /-- FCVT (R311): Convert between binary formats, widening exactly or narrowing with rounding. -/
  | fcvt (f : TF)
  /-- FCVTI (R312): Convert a binary value to an integer. -/
  | fcvti (f : TF)
  /-- ICVTF (R313): Convert an integer to a binary format. -/
  | icvtf (f : TF)
  /-- PLSPLIT (R314): Round to K planes and write one plane per register. -/
  | plsplit (f : TF)
  /-- PLJOIN (R315): Join K plane registers into a full-width value. -/
  | pljoin (f : TF)
  /-- BPACK (R316): Pack lane values into one DE block. -/
  | bpack (f : TF)
  /-- BUNPK (R317): Decode one DE element per lane at k planes. -/
  | bunpk (f : TF)
  /-- IADD_I (R261): I-form IADD with a 32-bit immediate as operand B. -/
  | iaddI (f : IF)
  /-- ISUB_I (R261): I-form ISUB. -/
  | isubI (f : IF)
  /-- IMUL_I (R261): I-form IMUL. -/
  | imulI (f : IF)
  /-- IMULH_I (R261): I-form IMULH. -/
  | imulhI (f : IF)
  /-- IMAD_I (R261): I-form IMAD, with the destination as C. -/
  | imadI (f : IF)
  /-- IMIN_I (R261): I-form IMIN. -/
  | iminI (f : IF)
  /-- IMAX_I (R261): I-form IMAX. -/
  | imaxI (f : IF)
  /-- IABS_I (R261): I-form IABS of the immediate. -/
  | iabsI (f : IF)
  /-- INEG_I (R261): I-form INEG of the immediate. -/
  | inegI (f : IF)
  /-- IDIV_I (R261): I-form IDIV. -/
  | idivI (f : IF)
  /-- IREM_I (R261): I-form IREM. -/
  | iremI (f : IF)
  /-- LEA_I (R261): I-form LEA. -/
  | leaI (f : IF)
  /-- AND_I (R261): I-form AND. -/
  | andI (f : IF)
  /-- OR_I (R261): I-form OR. -/
  | orI (f : IF)
  /-- XOR_I (R261): I-form XOR. -/
  | xorI (f : IF)
  /-- ANDN_I (R261): I-form ANDN. -/
  | andnI (f : IF)
  /-- ORN_I (R261): I-form ORN. -/
  | ornI (f : IF)
  /-- SHL_I (R261): I-form SHL. -/
  | shlI (f : IF)
  /-- SHR_I (R261): I-form SHR. -/
  | shrI (f : IF)
  /-- SAR_I (R261): I-form SAR. -/
  | sarI (f : IF)
  /-- ROTL_I (R261): I-form ROTL. -/
  | rotlI (f : IF)
  /-- FUNSH_I (R261): I-form FUNSH. -/
  | funshI (f : IF)
  /-- BFX_I (R261): I-form BFX with an immediate field descriptor. -/
  | bfxI (f : IF)
  /-- BFI_I (R261): I-form BFI, with the destination as the inserted value. -/
  | bfiI (f : IF)
  /-- POPC_I (R261): I-form POPC of the immediate. -/
  | popcI (f : IF)
  /-- CLZ_I (R261): I-form CLZ. -/
  | clzI (f : IF)
  /-- CTZ_I (R261): I-form CTZ. -/
  | ctzI (f : IF)
  /-- BREV_I (R261): I-form BREV. -/
  | brevI (f : IF)
  /-- ICMP_I (R261): I-form ICMP, .eq only. -/
  | icmpI (f : IF)
  /-- SEL_I (R261): I-form SEL, with the destination as C. -/
  | selI (f : IF)
  /-- MOV_I (R261): I-form MOV of an immediate. -/
  | movI (f : IF)
  /-- MOVX_I (R261): I-form MOVX with an immediate index offset. -/
  | movxI (f : IF)
  /-- MOVXW_I (R261): I-form MOVXW with an immediate index offset. -/
  | movxwI (f : IF)
  /-- FADD_I (R261): I-form FADD with a binary32 immediate. -/
  | faddI (f : IF)
  /-- FMUL_I (R261): I-form FMUL with a binary32 immediate. -/
  | fmulI (f : IF)
  /-- FFMA_I (R261): I-form FFMA, with the destination as c. -/
  | ffmaI (f : IF)
  /-- IADD_P (R262): P-half IADD at 32 bits on a register of fixed parity. -/
  | iaddP (h0 : HF) (op1 : POp) (h1 : HF)
  /-- ISUB_P (R262): P-half ISUB. -/
  | isubP (h0 : HF) (op1 : POp) (h1 : HF)
  /-- IMIN_P (R262): P-half IMIN, unsigned. -/
  | iminP (h0 : HF) (op1 : POp) (h1 : HF)
  /-- IMAX_P (R262): P-half IMAX, unsigned. -/
  | imaxP (h0 : HF) (op1 : POp) (h1 : HF)
  /-- AND_P (R262): P-half AND. -/
  | andP (h0 : HF) (op1 : POp) (h1 : HF)
  /-- OR_P (R262): P-half OR. -/
  | orP (h0 : HF) (op1 : POp) (h1 : HF)
  /-- XOR_P (R262): P-half XOR. -/
  | xorP (h0 : HF) (op1 : POp) (h1 : HF)
  /-- ANDN_P (R262): P-half ANDN. -/
  | andnP (h0 : HF) (op1 : POp) (h1 : HF)
  /-- SHL_P (R262): P-half SHL. -/
  | shlP (h0 : HF) (op1 : POp) (h1 : HF)
  /-- SHR_P (R262): P-half SHR. -/
  | shrP (h0 : HF) (op1 : POp) (h1 : HF)
  /-- SAR_P (R262): P-half SAR. -/
  | sarP (h0 : HF) (op1 : POp) (h1 : HF)
  /-- MOV_P (R262): P-half MOV. -/
  | movP (h0 : HF) (op1 : POp) (h1 : HF)
  /-- ICMP_P (R262): P-half ICMP, unsigned. -/
  | icmpP (h0 : HF) (op1 : POp) (h1 : HF)
  /-- FADD_P (R262): P-half FADD.f32 with .rne. -/
  | faddP (h0 : HF) (op1 : POp) (h1 : HF)
  /-- FMUL_P (R262): P-half FMUL.f32 with .rne. -/
  | fmulP (h0 : HF) (op1 : POp) (h1 : HF)
  /-- FMIN_P (R262): P-half FMIN.f32. -/
  | fminP (h0 : HF) (op1 : POp) (h1 : HF)
  /-- FMAX_P (R262): P-half FMAX.f32. -/
  | fmaxP (h0 : HF) (op1 : POp) (h1 : HF)
  /-- LD (R320): Load 1 to 16 bytes per lane. -/
  | ld (f : XM)
  /-- ST (R320): Store 1 to 16 bytes per lane. -/
  | st (f : XM)
  /-- LDP (R323): Read K planes of an element, truncating or rounding. -/
  | ldp (f : XM)
  /-- STP (R324): Write the leading K planes of an element, rounded. -/
  | stp (f : XM)
  /-- LDFE (R325): Wait for full, read the word and mark it empty; begins a region. -/
  | ldfe (f : XM)
  /-- STFE (R325): Wait for empty, write the word and mark it full; begins a region. -/
  | stfe (f : XM)
  /-- FEINIT (R326): Set the full/empty state of a range of words. -/
  | feinit (f : XM)
  /-- SPTEST (R327): Write the address class of each lane's address. -/
  | sptest (f : XM)
  /-- SPCAST (R328): Convert between scratchpad and cluster address forms. -/
  | spcast (f : XM)
  /-- FENCE (R329): Make an acquire, release or full fence event at a scope. -/
  | fence (f : XM)
  /-- ATOM (R332): Atomic read-modify-write returning the old value. -/
  | atom (f : XM)
  /-- RED (R332): Atomic reduction without return, counted in .rem. -/
  | red (f : XM)
  /-- ATOMV (R332): Atomic operation on 16 or 32 bytes, optionally returning. -/
  | atomv (f : XM)
  /-- WAITA (R337): Park until a read of the address satisfies the condition. -/
  | waita (f : XM)
  /-- BAR (R338): Barrier arrival and wait at team or cluster scope. -/
  | bar (f : XE)
  /-- BARA (R338): Barrier arrival only. -/
  | bara (f : XE)
  /-- BARW (R338): Barrier wait and departure. -/
  | barw (f : XE)
  /-- REGN (R339): Begin a region with a live range and write the checkpoint. -/
  | regn (f : XE)
  /-- COMMIT (R241): Release held stores at .fab, clear HOLD and begin a region. -/
  | commit (f : XE)
  /-- ORDWAIT (R342): Wait for a lower-indexed team of a deterministic launch to end. -/
  | ordwait (f : XE)
  /-- QSND (R344): Send a vector to quad members' queues or an operand-buffer row. -/
  | qsnd (f : XE)
  /-- QRCV (R345): Take the oldest vector of the launch from a member's queue. -/
  | qrcv (f : XE)
  /-- BRA (R293): PC-relative branch. -/
  | bra (f : XB)
  /-- BRX (R293): Branch to a register address. -/
  | brx (f : XB)
  /-- CALL (R293): PC-relative call writing a link. -/
  | call (f : XB)
  /-- CALLX (R293): Call through a register. -/
  | callx (f : XB)
  /-- RET (R294): Return through a link register. -/
  | ret (f : XB)
  /-- EXIT (R97): The lane exits and leaves the PC table and all masks. -/
  | exit (f : XB)
  /-- YIELD (R295): End the quantum and make the next bundle a yield bundle. -/
  | yield (f : XB)
  /-- JOIN (R98): Enrol lanes in a mask. -/
  | join (f : XB)
  /-- LEAVE (R98): Withdraw lanes from a mask. -/
  | leave (f : XB)
  /-- WAITM (R98): Arrive at a mask and wait until all enrolled lanes have arrived. -/
  | waitm (f : XB)
  /-- MKRD (R296): Read a mask's two words. -/
  | mkrd (f : XB)
  /-- MKWR (R296): Write a mask's ENROLLED word. -/
  | mkwr (f : XB)
  /-- NOP (R293): No operation. -/
  | nop (f : XB)
  /-- BRK (R297): Raise BREAKPOINT. -/
  | brk (f : XB)
  /-- TRAP (R297): Raise USER_TRAP with a code and a value. -/
  | trap (f : XB)
  /-- CPY (R349): Linear copy. -/
  | cpy (f : XE)
  /-- CPY2 (R349): Two-dimensional strided copy. -/
  | cpy2 (f : XE)
  /-- CPYX (R349): Expansion copy decoding an entropy-coded stream into own scratchpad. -/
  | cpyx (f : XE)
  /-- CPYP (R350): Copy leading planes of a plane-form tensor into full-width layout. -/
  | cpyp (f : XE)
  /-- CTLD (R353): Load a code table into a core slot. -/
  | ctld (f : XE)
  /-- PTLD (R354): Load a pattern slot. -/
  | ptld (f : XE)
  /-- WAITC (R355): Park until at most n operations of a class remain. -/
  | waitc (f : XE)
  /-- CNTRD (R356): Read the group's outstanding counts. -/
  | cntrd (f : XE)
  /-- OBRES (R362): Reserve an operand-buffer range and its save area. -/
  | obres (f : XE)
  /-- OBREL (R362): Release a reservation after its operations complete. -/
  | obrel (f : XE)
  /-- OBSET (R362): Set a reservation's record. -/
  | obset (f : XE)
  /-- MMA (R363): Matrix multiply-accumulate into an operand-buffer range. -/
  | mma (f : XE)
  /-- MRD (R366): Read rows of a range into registers. -/
  | mrd (f : XE)
  /-- MWR (R366): Write rows of a range from registers. -/
  | mwr (f : XE)
  /-- MWR_MEM (R366): Write a range's elements to memory with a column stride. -/
  | mwrMem (f : XE)
  /-- MZERO (R366): Zero a range's shape. -/
  | mzero (f : XE)
  /-- MPRI (R362): Lower the group's engine base priority. -/
  | mpri (f : XE)
  /-- TPOOL (R373): Add an extent to a tile pool. -/
  | tpool (f : XE)
  /-- TPOOL_EMPTY (R373): Wait for the team's tile operations, then empty a tile pool. -/
  | tpoolEmpty (f : XE)
  /-- TZERO (R371): Make a tile zero, optionally freeing its blocks. -/
  | tzero (f : XE)
  /-- TMAC (R370): C ← C ± A·B on tiles. -/
  | tmac (f : XE)
  /-- TADD (R370): C ← C ± A on tiles. -/
  | tadd (f : XE)
  /-- TRND (R371): Round a low-rank tile's rank. -/
  | trnd (f : XE)
  /-- TDENSE (R371): Convert a tile to dense. -/
  | tdense (f : XE)
  /-- TCOMP (R371): Compress a dense tile to low rank. -/
  | tcomp (f : XE)
  /-- TLU (R372): LU-factorise a dense square tile in place. -/
  | tlu (f : XE)
  /-- TTRS (R372): Triangular solve of a tile against a factor. -/
  | ttrs (f : XE)
  /-- TINFO (R374): Read a deckle's state and pool information. -/
  | tinfo (f : XE)
  /-- TSAMP (R375): Arm, clear or disarm the group's check record. -/
  | tsamp (f : XE)
  /-- OSGD (R379): Memory-side SGD update of a plane-form weight. -/
  | osgd (f : XE)
  /-- OADAM (R379): Memory-side Adam update of a weight and its moments. -/
  | oadam (f : XE)
  /-- CLINE (R381): Declare a counted line and receive its status. -/
  | cline (f : XE)
  /-- CCON (R382): Contribute a vector to a slot of a counted line. -/
  | ccon (f : XE)
  /-- LAUNCH (R384): Enter a launch from a kernel as a watermarked request. -/
  | launch (f : XE)
  /-- RDSR (R386): Read special state. -/
  | rdsr (f : XE)
  /-- WRSR (R386): Write FPFLAGS, or raise PRIVILEGE for read-only state. -/
  | wrsr (f : XE)
  /-- SVC (R387): Call a firmware service through its mailbox. -/
  | svc (f : XE)
  /-- TRET (R388): Leave the trap handler with retry or skip. -/
  | tret (f : XE)
  /-- KLN_LAUNCH (R58): Enters a launch record in a context through the die's launch unit and returns the launch result. -/
  | klnLaunch (rd rs1 rs2 : BitVec 5)
  /-- KLN_CANCEL (R64): Cancels a queued or running launch and returns 0, 1 or 2. -/
  | klnCancel (rd rs1 rs2 : BitVec 5)
  /-- KLN_PREEMPT (R83): Pre-empts the cluster of a named team of a launch. -/
  | klnPreempt (rd rs1 rs2 : BitVec 5)
  /-- KLN_STATUS (R65): Returns the completion word, or the queued or running status, of a launch. -/
  | klnStatus (rd rs1 rs2 : BitVec 5)
  /-- POWER_GOOD (R25): On power-good, control core 0 of each die starts its boot ROM and stage 0x1 begins, with the port 0 management responder up. -/
  | powerGood
  /-- IMAGE_VERIFY (R24): Stage 0x2 checks the slot A image header, signature, key slot and rollback counter, and falls back to slot B if slot A fails. -/
  | imageVerify
  /-- SHEET_SELF_CALIBRATE (R11): Stage 0x3 self-calibrates sheet memory and sets the placed/cache split from PLACED. -/
  | sheetSelfCalibrate
  /-- D2D_LINK_TRAIN (R25): Stage 0x4 trains the die-to-die links, and each die reports to die 0. -/
  | d2dLinkTrain
  /-- LPDDR_TRAIN (R14): Stage 0x5 runs the five training steps on all channels, retraining the whole package at the next lower rate when any channel fails. -/
  | lpddrTrain
  /-- LPDDR_INIT (R15): Stage 0x6 zeroes all LPDDR-6 together with its codes, then reads back the first and last line of each bank. -/
  | lpddrInit
  /-- NDENATH_LINK_TRAIN (R25): Stage 0x7 trains the Ndenath links; links that fail stay down and are counted in FABUP. -/
  | ndenathLinkTrain
  /-- FIRMWARE_SERVICES_START (R412): Stage 0x8 starts firmware services, writes the context table with context 0, builds the capability list and writes the live payloads. -/
  | firmwareServicesStart
  /-- READY_SET (R26): Die 0 sets READY once all four dies have completed stage 0x8. -/
  | readySet
  /-- STAGE_LIMIT_EXCEEDED (R25): A bring-up stage that overruns its limit stops the package in stage 0xF with error code 0x07. -/
  | stageLimitExceeded
  /-- THERMAL_TRIP (R23): At 115 °C on any die, arithmetic and memory power are removed from the whole package and error code 0x08 is set. -/
  | thermalTrip
  /-- COOLANT_OUT_OF_RANGE (R27): Coolant or supply out of range fails bring-up with error code 0x09. -/
  | coolantOutOfRange
  /-- ROLLBACK_RAISE (R24): Within 1 s after READY, die 0 firmware raises the fuse rollback counter to ROLLVER when MGMT[1] is 1 and ROLLVER is above the counter. -/
  | rollbackRaise
  /-- LPDDR_DQ_RETRAIN (R14): After READY, firmware retrains DQ timing on one channel whose temperature has moved by 10 °C since its last training. -/
  | lpddrDqRetrain
  /-- D2D_RETRY (R10): A die-to-die packet that is not delivered is retried at link level. -/
  | d2dRetry
  /-- DIE_LINK_FAILURE (R10): After 64 consecutive retries a die-link failure is reported; after READY it ends every running launch with UNCORRECTABLE. -/
  | dieLinkFailure
  /-- MGMT_QUERY (R20): A management query frame on port 0 is answered with the package status word, sampled at reply time. -/
  | mgmtQuery
  /-- MGMT_WARM_RESET (R20): A management warm-reset frame resets the package when the verified image permits it, and is otherwise dropped. -/
  | mgmtWarmReset
  /-- MGMT_DROP (R20): A management frame with any other payload is dropped. -/
  | mgmtDrop
  /-- RESET_REGISTER_WRITE (R28): A control core writing 1 to bit 0 of the reset register requests a warm reset. -/
  | resetRegisterWrite
  /-- GOVERNOR_WINDOW (R227): Every 1 ms window the governor evaluates replay rate and power and moves dies between operating points. -/
  | governorWindow
  /-- OPERATING_POINT_CHANGE_DONE (R22): A change of operating point completes within 20 µs, with issue continuing throughout and no architectural result changed. -/
  | operatingPointChangeDone
  /-- FIELD_RECORD_FLUSH (R29): Every 60 s, and at orderly shutdown, firmware flushes the lifetime field records to non-volatile storage. -/
  | fieldRecordFlush
  /-- SCRUB (R234): Firmware scrubs all sheet memory and LPDDR-6 once every 24 hours. -/
  | scrub
  /-- ETH_FRAME_RECEIVE (R19): A received Ethernet frame is timestamped and checksum-checked; frames above 9,216 bytes are dropped and counted. -/
  | ethFrameReceive
  /-- ETH_FRAME_TRANSMIT (R19): A frame from control-core buffers is transmitted, with checksum offload and a transmit timestamp. -/
  | ethFrameTransmit
  /-- CXL_LINK_TRAIN (R16): A CXL root port trains at the highest width and rate that both ends support; an unsupported device is left untrained and reported to the runtime. -/
  | cxlLinkTrain
  /-- CXL_DEVICE_REMOVED (R18): After removal of a CXL device, every access to its range returns poison. -/
  | cxlDeviceRemoved
  /-- NDENATH_PORT_STATE_CHANGE (R71): An Ndenath port goes up or down, and firmware updates capability 0x0005. -/
  | ndenathPortStateChange
  /-- FLIT_RECEIVE (R31): A received flit is corrected by its two RS codewords, or is discarded together with its packet. -/
  | flitReceive
  /-- LOAD_REQUEST (R41): An owner executes a remote load request each time it arrives and sends a load reply. -/
  | loadRequest
  /-- LOAD_REPLY (R42): A load reply arrives at the requester and writes the destination registers of its lanes. -/
  | loadReply
  /-- WATERMARKED_REQUEST (R44): An owner handles a watermarked request by key and serial, answering it from the result cache or executing it exactly once. -/
  | watermarkedRequest
  /-- RESULT_REPLY (R40): A result reply completes the outstanding request at the requester and delivers its values, flags and any poison. -/
  | resultReply
  /-- BUSY_REPLY (R41): A busy reply cancels the pending wait and schedules a resend 16 µs later with a fresh schedule. -/
  | busyReply
  /-- UNKNOWN_REPLY (R42): An unknown reply marks the lanes concerned for OUTCOME_UNKNOWN at the next delivery instruction. -/
  | unknownReply
  /-- RELEASE_NOTICE (R44): A release notice carrying KEY and ACKPT raises the key's floor and retires acknowledged entries. -/
  | releaseNotice
  /-- RELEASE_NOTICE_LAUNCH_END (R45): A release notice carrying LHANDLE alone retires every entry of the launch and marks the launch as ended. -/
  | releaseNoticeLaunchEnd
  /-- COPY_WRITE_CHUNK (R36): A received copy write chunk is written at its destination and acknowledged. -/
  | copyWriteChunk
  /-- COPY_READ_REQUEST (R34): A received copy read request is answered with its read data. -/
  | copyReadRequest
  /-- COPY_ACK (R36): A copy acknowledgement or read data arrives, completing a chunk or a release notice. -/
  | copyAck
  /-- REQUEST_RETRANSMIT (R41): The wait of a request without its complete reply expires, and the request is retransmitted with RETX set on the next port that is up. -/
  | requestRetransmit
  /-- SCHEDULE_EXHAUSTED (R41): At 3,008 µs after transmission 1 without a complete reply, the group raises OUTCOME_UNKNOWN. -/
  | scheduleExhausted
  /-- BUSY_RESEND (R41): 16 µs after a busy reply, the request is resent as transmission 1 of a new schedule. -/
  | busyResend
  /-- REQUESTER_RELEASE_NOTICE (R45): Within 4 µs of getting a reply, the requester sends the owner a release notice with its ACKPT. -/
  | requesterReleaseNotice
  /-- RELEASE_NOTICE_RESEND (R45): An unacknowledged launch release notice is resent on the schedule, then every 1,000 µs, counting resends beyond the eighth. -/
  | releaseNoticeResend
  /-- LAUNCH_END_MARK_EXPIRY (R45): 250 to 500 µs after processing a launch-ending notice, the owner forgets the launch-ended mark. -/
  | launchEndMarkExpiry
  /-- OWNER_RESTART (R46): After a fault in its service group or slice, an owner slice stops answering and drops every arriving packet for at least 250 µs. -/
  | ownerRestart
  /-- OWNER_RESTORE (R46): After the silent period, the slice increments its incarnation and restores its cache and directory, or starts empty in quarantine. -/
  | ownerRestore
  /-- QUARANTINE_END (R46): 3,500 µs after quarantine began, the slice stops answering RETX requests without entries as unknown. -/
  | quarantineEnd
  /-- CLINE_REQUEST (R381): An owner handles a counted-line declaration and replies with status 0 to 3. -/
  | clineRequest
  /-- HELD_DRAIN (R224): After every team of a deterministic launch has ended, each slice merges and applies the launch's held entries in key order. -/
  | heldDrain
  /-- LAUNCH_DISPATCH (R61): The eligible head launch of highest priority is dispatched, and its clusters enter the pending list. -/
  | launchDispatch
  /-- DEPENDENCE_ANSWER (R62): The unit of the named die answers a dependence query when the named launch ends or is absent. -/
  | dependenceAnswer
  /-- LAUNCH_END (R63): When every team has ended, the unit retires the watermarks, writes the completion word with release at .node and marks the handle ended. -/
  | launchEnd
  /-- WATCHDOG_EXPIRY (R64): When the resident time reaches WATCHDOG, every group of the launch stops and the launch ends with LAUNCH_STALL. -/
  | watchdogExpiry
  /-- FAULT_LOG_CONSUME (R67): A write of LOGCONS advances the consumer index and frees log records for waiting producers. -/
  | faultLogConsume
  /-- COPY_FAULT_RETRY (R69): A VERDICT 0 write for an outstanding FAULTID resumes the parked copy at CHUNK. -/
  | copyFaultRetry
  /-- COPY_FAULT_FAIL (R69): A VERDICT 1 write for an outstanding FAULTID ends the parked copy with COPY_FAILED. -/
  | copyFaultFail
  /-- INVALIDATE_PAGE (R136): GO with INVOP 0 starts an invalidation, on all four dies, of every entry that covers INVVA in INVCTX. -/
  | invalidatePage
  /-- INVALIDATE_CONTEXT (R136): GO with INVOP 1 starts an invalidation of every entry of INVCTX. -/
  | invalidateContext
  /-- INVALIDATE_ALL (R136): GO with INVOP 2 starts an invalidation of every cached translation. -/
  | invalidateAll
  /-- INVALIDATE_COMPLETE (R136): An invalidation completes, BUSY reads 0, and no access that starts afterwards uses a covered entry. -/
  | invalidateComplete
  /-- ORDSIZE_WRITE (R129): A write of ORDSIZE within its maximum sets PENDING until no system-pool allocation lies below the new boundary. -/
  | ordsizeWrite
  /-- ORDSIZE_TAKE_EFFECT (R129): A pending ORDSIZE takes effect, and PENDING clears. -/
  | ordsizeTakeEffect
  /-- REGISTER_WRITE (R9): A control-core write to a register without behaviour of its own updates its RW fields and clears its W1C bits. -/
  | registerWrite
  /-- CLUSTER_PLACE (R76): The placer places a fitting cluster on the first fitting rectangle, allocates its resources, restores resumed state and gang-starts it. -/
  | clusterPlace
  /-- CLUSTER_BLOCKING (R73): A cluster pending for 20 µs becomes blocking and holds back the clusters behind it. -/
  | clusterBlocking
  /-- VICTIM_PREEMPT (R84): After 30 µs of blocking, lower-priority running clusters are chosen on one die and pre-empted for the pending cluster. -/
  | victimPreempt
  /-- CLUSTER_MOVE (R85): Up to four migratable clusters are pre-empted and re-placed so that a blocking cluster fits. -/
  | clusterMove
  /-- DETERMINISTIC_PREEMPT (R74): After 50 µs pending, a resumed deterministic cluster pre-empts the highest same-launch clusters parked in ORDWAIT. -/
  | deterministicPreempt
  /-- CLUSTER_PREEMPT (R86): Each group stops at an instruction boundary, drains, closes its checkpoint, and saves its team state. -/
  | clusterPreempt
  /-- PREEMPT_RELEASE (R86): After saving, the cluster's bands and units are released and the cluster re-enters the pending list. -/
  | preemptRelease
  /-- BACKGROUND_CLEAR_DONE (R79): A released band, scratchpad unit or operand-buffer granule finishes clearing to zero and becomes free. -/
  | backgroundClearDone
  /-- ENGINE_PASS_GRANT (R89): With no pass in force, the arbiter grants the pass to the entry of highest effective priority. -/
  | enginePassGrant
  /-- PASS_IDLE_END (R89): A pass ends when no engine instruction of the group has been ready for 64 cycles. -/
  | passIdleEnd
  /-- QUANTUM_EXPIRY (R91): After 64 consecutive bundles, the slot chooses the ready group that has waited longest. -/
  | quantumExpiry
  /-- STARVATION_SWITCH (R91): A ready group that has not issued for 2,048 cycles is chosen. -/
  | starvationSwitch
  /-- YIELD_BUNDLE (R93): After 256 bundles, with two or more runs, the next bundle goes to the yield run and YLANE advances. -/
  | yieldBundle
  /-- REGISTER_WRITEBACK (R107): A delayed result lands in its register, or is discarded if a younger write has already landed. -/
  | registerWriteback
  /-- PRESENCE_WAKE (R123): A group parked on an absent scratchpad line resumes when the line becomes present. -/
  | presenceWake
  /-- FULL_EMPTY_WAKE (R325): A lane parked in LDFE or STFE takes its step once the word reaches the needed state. -/
  | fullEmptyWake
  /-- BARRIER_DEPARTURE (R338): Once every group of the scope instance has arrived, a waiting group departs as an acquire at the barrier's scope. -/
  | barrierDeparture
  /-- WAITC_RELEASE (R355): A parked WAITC completes once at most n operations of its class remain, delivering deferred causes. -/
  | waitcRelease
  /-- QUEUE_VECTOR_WAKE (R345): A QRCV waiting for a vector of its launch takes the vector when it arrives. -/
  | queueVectorWake
  /-- QSND_ROOM_WAKE (R344): A QSND waiting for room appends its vector once every target queue has room. -/
  | qsndRoomWake
  /-- ORDWAIT_RELEASE (R219): A group parked in ORDWAIT continues once team t's end count equals GROUPS. -/
  | ordwaitRelease
  /-- WAITA_MONITOR_REREAD (R160): A monitor re-reads its line when a write reaches the owner, completing the lanes whose condition holds. -/
  | waitaMonitorReread
  /-- WAITA_POLL (R160): Every 512 cycles, lanes without a monitor, or waiting on remote lines, re-read their address. -/
  | waitaPoll
  /-- SVC_REPLY (R387): A firmware service's reply is written to the parked group's reply pair with acquire at .node. -/
  | svcReply
  /-- OBREL_COMPLETE (R362): Once every operation naming the handle has completed, the reservation and its save area are freed. -/
  | obrelComplete
  /-- MATRIX_PASS_RETIRE (R229): A pass's staged results are committed and its locked ranges unlocked when it retires. -/
  | matrixPassRetire
  /-- TILE_OP_EXECUTE (R214): The sequencer executes one tile operation: reads, settles, allocates, writes blocks and the deckle, frees old blocks and updates the check record. -/
  | tileOpExecute
  /-- COPY_CHUNK_LAND (R137): A copy translates and writes one 4 KiB chunk of destination bytes, updating presence counts. -/
  | copyChunkLand
  /-- COPY_COMPLETE (R348): A copy retires in issue order, and the group's .copy counter decreases. -/
  | copyComplete
  /-- GLINT_REPLAY (R226): A late transition holds the stage's result and repeats the cycle at half clock. -/
  | glintReplay
  /-- UNCORRECTABLE_CONSUME (R235): A group consumes poisoned data; the instruction has no effect and the cluster freezes within 2 µs. -/
  | uncorrectableConsume
  /-- SUPERVISOR_DECISION (R236): Within 100 µs of the snapshot, the supervisor relaunches the frozen cluster or ends the launch with UNCORRECTABLE. -/
  | supervisorDecision
  /-- CONTROL_CORE_HW_ERROR (R239): A control core that consumes an uncorrectable error takes the RISC-V hardware-error exception. -/
  | controlCoreHwError
  /-- POWER_LOSS (R29): Loss of package power ends all work and loses field-record increments since the last flush; only a power cycle clears a thermal trip. -/
  | powerLoss
  /-- ETH_LINK_STATE_CHANGE (R20): An Ethernet port's link comes up or goes down, and the management responder on port 0 answers from the moment its link is up. -/
  | ethLinkStateChange
  /-- CXL_LINK_DOWN (R71): A CXL root-port link goes down, and capability 0x0004 is rewritten to clear the affected ports. -/
  | cxlLinkDown
  /-- COPY_CHUNK_RETRANSMIT (R36): The wait of an unacknowledged copy write chunk expires, and the chunk is resent on the schedule of R41, or the copy ends with COPY_FAILED once the schedule is exhausted. -/
  | copyChunkRetransmit
  deriving DecidableEq, Repr

end Sys2Proof
end

