-- ==== Sys2Proof/Machine/Shape.lean ====
section
/-! DEFINITION. What each encoding asks of its fields (spec/12_formats_and_opcode_map.md R256 to R270): how an instruction
reads its operands, which modifier, rounding, scope, order, width, plane and flag codes it accepts, and which fields it must
leave zero. -/
namespace Sys2Proof

/-- An instruction as its word shows it: the class, the opcode numbers and the field record (R254). -/
inductive View where
  | t (opc : Nat) (f : TF)
  | i (opc : Nat) (f : IF)
  | p (op0 : POp) (h0 : HF) (op1 : POp) (h1 : HF)
  | xm (grp op : Nat) (f : XM)
  | xb (op : Nat) (f : XB)
  | xe (grp op : Nat) (f : XE)
  | kln (fn : Nat) (rd rs1 rs2 : BitVec 5)
  /-- A step that no word encodes. -/
  | event
  deriving DecidableEq, Repr

namespace Shape

/-- How an operand is read (R257): not at all, at 32 or 64 bits, or as `n` consecutive registers whose first is even when
`even` holds. -/
inductive Src where
  | no | w32 | w64
  | run (n : Nat) (even : Bool)
  deriving DecidableEq, Repr

/-- What a T form does with its fields: whether MOD is defined, its operands, its destination registers and whether the first
must be even, and the largest rounding code that it accepts (0: it does not round). -/
structure TShape where
  ok : Bool
  a : Src := .no
  b : Src := .no
  c : Src := .no
  dn : Nat := 1
  deven : Bool := false
  rmax : Nat := 0
  deriving DecidableEq, Repr

def src (w64 : Bool) : Src := if w64 then .w64 else .w32

/-- A result at the width: one register, or an even pair. -/
def TShape.at (s : TShape) (w64 : Bool) : TShape := { s with dn := if w64 then 2 else 1, deven := w64 }

/-- The integer, logic and compare-and-move blocks (R278 to R287): type code `ty`, variant `v`. -/
def intShape (opc ty v : Nat) : TShape :=
  let q := ty % 2 == 1
  let w := src q
  match opc with
  | 0x000 | 0x001 => (TShape.mk (v ≤ 1) w w .no 1 false 0).at q
  | 0x002 | 0x003 | 0x005 | 0x006 | 0x009 | 0x00A => (TShape.mk (v == 0) w w .no 1 false 0).at q
  | 0x004 => (TShape.mk (v == 0) w w w 1 false 0).at q
  | 0x007 => (TShape.mk (2 ≤ ty && v ≤ 1) w .no .no 1 false 0).at q
  | 0x008 => (TShape.mk (v == 0 || (v == 1 && 2 ≤ ty)) w .no .no 1 false 0).at q
  | 0x00B => (TShape.mk q .w64 .w32 .no 1 false 0).at true
  | 0x010 | 0x011 | 0x012 | 0x013 | 0x014 => (TShape.mk (v == 0) w w .no 1 false 0).at q
  | 0x015 | 0x016 | 0x017 | 0x018 | 0x01A => (TShape.mk (v == 0) w .w32 .no 1 false 0).at q
  | 0x019 => (TShape.mk (v ≤ 1) w w .w32 1 false 0).at q
  | 0x01B => (TShape.mk (v == 0) w .w32 w 1 false 0).at q
  | 0x01C | 0x01D | 0x01E => TShape.mk (v == 0) w .no .no 1 false 0
  | 0x01F => (TShape.mk (v == 0) w .no .no 1 false 0).at q
  | 0x020 => TShape.mk true w w .no 1 false 0
  | 0x021 => (TShape.mk (v == 0) w w .w32 1 false 0).at q
  | 0x022 => (TShape.mk (v == 0) w .no .no 1 false 0).at q
  -- MOVX and MOVXW: DST is the destination, or the value register read at the width
  | 0x023 | 0x024 => (TShape.mk (v == 0) .w32 .w32 .no 1 false 0).at q
  | _ => TShape.mk false .no .no .no 1 false 0

/-- The cross-lane block (R288 to R292). -/
def laneShape (opc m : Nat) : TShape :=
  let b2 := m / 4 % 2 == 1
  match opc with
  | 0x030 => (TShape.mk (m < 8) (src b2) .w32 .no 1 false 0).at b2
  | 0x031 => (TShape.mk true (src (8 ≤ m)) .w32 .no 1 false 0).at (8 ≤ m)
  | 0x032 => TShape.mk (m == 0 || m == 1 || m == 2 || m == 6) (src b2) .no .no 1 false 0
  | 0x033 => TShape.mk (m == 0) .w32 .no .no 1 false 0
  | 0x034 => TShape.mk (m ≤ 1) (src (m == 1)) .no .no 1 false 0
  | 0x035 => (TShape.mk true (src b2) .no .no 1 false 0).at b2
  | _ => TShape.mk false .no .no .no 1 false 0

/-- The arithmetic and function blocks (R299 to R308): format code `ty`, variant `v`. -/
def fpShape (opc ty v : Nat) : TShape :=
  let q := ty == 1
  let w := src q
  match opc with
  | 0x040 | 0x041 | 0x042 | 0x060 => (TShape.mk (v == 0) w w .no 1 false 4).at q
  | 0x043 | 0x044 => (TShape.mk (v == 0) w w w 1 false 4).at q
  | 0x045 | 0x046 | 0x047 | 0x048 => (TShape.mk (v == 0) w w .no 1 false 0).at q
  | 0x049 | 0x04A => (TShape.mk (v == 0) w .no .no 1 false 0).at q
  | 0x04B => (TShape.mk (v ≤ 2) w w .no 1 false 0).at q
  | 0x04C => TShape.mk true w w .no 1 false 0
  | 0x04D | 0x050 => TShape.mk (v == 0) w .no .no 1 false 0
  | 0x04E => (TShape.mk (v ≤ 1) w .no .no 1 false 4).at q
  | 0x04F => (TShape.mk (v == 0) w .w32 .no 1 false 4).at q
  | _ => (TShape.mk (0x061 ≤ opc && opc ≤ 0x06D && v == 0) w .no .no 1 false 4).at q

/-- A conversion to format `dst` from format `src` that is exact (R311). -/
def widens (dst src : Nat) : Bool := (dst == 1 && src != 1) || (dst == 0 && 2 ≤ src)

/-- The conversion block (R310 to R317); `rnd` is the word's rounding code. -/
def cvtShape (opc m rnd : Nat) : TShape :=
  let lo := m % 4
  let hi := m / 4
  let key : Src := if rnd == 5 then .run 4 true else .no
  match opc with
  | 0x070 => (TShape.mk (lo != hi) (src (hi == 1)) .no key 1 false (if widens lo hi then 0 else 5)).at (lo == 1)
  | 0x071 => (TShape.mk true (src (lo == 1)) .no .no 1 false 4).at (hi % 2 == 1)
  | 0x072 => (TShape.mk true (src (hi % 2 == 1)) .no .no 1 false 4).at (lo == 1)
  | 0x073 => TShape.mk (lo < 2 && (lo == 1 || hi < 2)) (src (lo == 1)) .no .no (hi + 1) false 4
  | 0x074 => (TShape.mk (lo < 2 && (lo == 1 || hi < 2)) (if hi == 0 then .w32 else .run (hi + 1) false) .no .no 1 false 0).at
      (lo == 1)
  | 0x075 => TShape.mk (lo < 3) (src (m / 4 % 2 == 1)) .w32 key 2 true 5
  | 0x076 => (TShape.mk (!(m / 4 % 2 == 1 && lo == 3)) .w32 .w32 .no 1 false 0).at (8 ≤ m)
  | _ => TShape.mk false .no .no .no 1 false 0

/-- The shape of a T form (R268): opcode, MOD, rounding code. -/
def tShape (opc m rnd : Nat) : TShape :=
  if opc < 0x030 then intShape opc (m % 4) (m / 4)
  else if opc < 0x040 then laneShape opc m
  else if opc < 0x070 then fpShape opc (m % 4) (m / 4)
  else cvtShape opc m rnd

/-- A source code that names something (R257). -/
def srcCode (f : BitVec 9) : Bool :=
  f.toNat < 0x104 || (0x110 ≤ f.toNat && f.toNat ≤ 0x11C)

/-- An operand field obeys the way it is read: an unused one is zero with its reuse bit clear, a pair is even, a run of
registers is named by a register (R256, R257, R270, R311, R315). -/
def operandOk (s : Src) (f : BitVec 9) (u : Bool) : Bool :=
  match s with
  | .no => f == 0 && !u
  | .w32 => srcCode f
  | .w64 => srcCode f && (256 ≤ f.toNat || f.toNat % 2 == 0)
  | .run _ even => f.toNat < 256 && (!even || f.toNat % 2 == 0)

def guardOk (g : BitVec 7) : Bool := g != 0x40

/-- A T word's fields are ones that its instruction accepts (R270). -/
def tOk (opc : Nat) (f : TF) : Bool :=
  let s := tShape opc f.mod.toNat f.rnd.toNat
  s.ok && operandOk s.a f.sa f.ua && operandOk s.b f.sb f.ub && operandOk s.c f.sc f.uc
    && f.rnd.toNat ≤ s.rmax && guardOk f.guard && (!s.deven || f.dst.toNat % 2 == 0)
    && !(opc == 0x024 && f.nw)

/-- The shape of an I form: the T form's with MOD = {0b00, W} and the immediate in the place of its last source (R261). -/
def iShape (opc : Nat) (w : Nat) : TShape := tShape opc w 0

/-- An I word's fields are ones that its instruction accepts (R261, R270). (DEDUCED: assumption 14.) -/
def iOk (opc : Nat) (f : IF) : Bool :=
  let s := iShape opc f.w.toNat
  s.ok && (opc < 0x040 || f.w.toNat ≤ 1)
    && (if s.b == .no then f.sa == 0 && !f.ua else operandOk s.a f.sa f.ua)
    && (!s.deven || f.dst.toNat % 2 == 0) && !(opc == 0x024 && f.nw)

/-- The T-form opcode of a P-opcode (R263). -/
def pOpc : POp → Nat
  | .iadd => 0x000 | .isub => 0x001 | .imin => 0x005 | .imax => 0x006 | .and => 0x010 | .or => 0x011 | .xor => 0x012
  | .andn => 0x013 | .shl => 0x015 | .shr => 0x016 | .sar => 0x017 | .mov => 0x022 | .icmp => 0x020
  | .fadd => 0x040 | .fmul => 0x042 | .fmin => 0x045 | .fmax => 0x046

/-- A half's fields are ones that its operation accepts; `odd` holds for half 1 (R262, R270). -/
def halfOk (odd : Bool) (op : POp) (h : HF) : Bool :=
  let imm := h.hsrc == 0x11F
  h.hmod.toNat % 4 == 0 && (tShape (pOpc op) h.hmod.toNat 0).ok
    && (if imm then pOpc op < 0x040 else srcCode h.hsrc && h.himm == 0)
    && (256 ≤ h.hsrc.toNat || decide (h.hsrc.toNat % 2 = if odd then 1 else 0))

def even (r : BitVec 8) : Bool := r.toNat % 2 == 0

/-- A plane count that does not pass the element's (R322): 2 for FP32, 4 for FP64, and 1, 2 and 4 for DE4, DE8 and DE16; `.rnd` below the
full count of an IEEE element only. -/
def planesOk (width pln : Nat) (rnd : Bool) : Bool :=
  match width with
  | 2 => pln < 2 && !(rnd && pln == 1)
  | 3 => !(rnd && pln == 3)
  | 5 => pln == 0 && !rnd
  | 6 => pln < 2 && !rnd
  | 7 => !rnd
  | _ => false

/-- The fields of group 0x01 inside OFFS (R330): rounding code, operation code. -/
def atomRnd (f : XM) : Nat := f.offs.toNat / 2 ^ 13
def atomCode (f : XM) : Nat := f.offs.toNat / 2 ^ 8 % 32

/-- Operation codes of `RED` and `ATOMV`: no exchange and no compare-and-swap (R330). -/
def redCode (c : Nat) : Bool := c ≤ 0x0A && c != 0x06 && c != 0x07

/-- What `ATOM`, `RED` and `ATOMV` share: width, rounding with `.fadd` alone, no sign with an FP code (R330, R331). -/
def atomOk (f : XM) : Bool :=
  (f.width == 2 || f.width == 3)
    && (if atomCode f == 8 then atomRnd f ≤ 4 else atomRnd f == 0)
    && !(8 ≤ atomCode f && f.pln.toNat % 2 == 1)

/-- An XM word's fields are ones that its operation accepts (R319, R322, R330). -/
def xmOk (grp op : Nat) (f : XM) : Bool :=
  let d := f.data.toNat
  let relaxed := f.ord == 0
  let acq := relaxed || f.ord == 1
  let rel := relaxed || f.ord == 2
  let w := f.width.toNat
  guardOk f.guard && even f.addr &&
  match grp, op with
  | 0, 0 => w ≤ 4 && f.pln.toNat < 2 && !(f.pln == 1 && 2 ≤ w) && !f.rb && acq
      && (w != 3 || d % 2 == 0) && (w != 4 || d % 4 == 0)
  | 0, 1 => w ≤ 4 && f.pln == 0 && !f.rb && rel && (w != 3 || d % 2 == 0) && (w != 4 || d % 4 == 0)
  | 0, 2 => planesOk w f.pln.toNat f.rb && acq && (w != 3 || d % 2 == 0)
  | 0, 3 => (w == 2 || w == 3) && planesOk w f.pln.toNat false && !f.rb && rel && (w != 3 || d % 2 == 0)
      && f.offs.toNat / 2 ^ 13 ≤ 5
  | 0, 4 => w == 2 && f.pln == 0 && !f.rb && f.ord == 1
  | 0, 5 => w == 2 && f.pln == 0 && !f.rb && f.ord == 2
  | 0, 6 => w == 2 && f.pln == 0 && rel
  | 0, 7 => w == 0 && f.pln == 0 && !f.rb && relaxed && f.scope == 0
  | 0, 8 => w == 0 && f.pln == 0 && relaxed && f.scope == 0 && d % 2 == 0
  | 0, 9 => w == 0 && f.pln == 0 && !f.rb && f.data == 0 && f.addr == 0 && f.offs == 0
  | 1, 0 => atomOk f && atomCode f ≤ 0x0A && f.pln.toNat < 2 && !f.rb && (w != 3 || d % 2 == 0)
  | 1, 1 => atomOk f && redCode (atomCode f) && f.pln.toNat < 2 && !f.rb && rel && (w != 3 || d % 2 == 0)
  | 1, 2 => atomOk f && redCode (atomCode f) && (f.rb || rel) && d % 4 == 0
  | 1, 3 => (w == 2 || w == 3) && atomCode f ≤ 7 && atomRnd f == 0 && f.pln.toNat < 2 && !f.rb && acq
      && (w != 3 || d % 2 == 0)
  | _, _ => false

/-- An XB word's fields are ones that its operation accepts (R293, R298). -/
def xbOk (op : Nat) (f : XB) : Bool :=
  let no := f.breg == 0
  let pair := even f.breg
  let m0 := f.mask == 0
  let b0 := f.boff == 0
  guardOk f.guard && f.mask.toNat < 12 &&
  match op with
  | 0x00 => no && m0
  | 0x01 | 0x04 => pair && m0 && b0
  | 0x02 => pair && m0
  | 0x03 => pair && m0 && f.boff.toNat < 256 && f.boff.toNat % 2 == 0
  | 0x05 | 0x06 | 0x0C => no && m0 && b0
  | 0x07 | 0x08 | 0x09 => no && b0
  | 0x0A | 0x0B => pair && b0
  | 0x0D => no && m0
  | 0x0E => m0
  | _ => false

/-- The width of a special state, or none when the number names nothing (R385). -/
def stateWidth (n : Nat) : Option Nat :=
  match n with
  | 0x00 | 0x03 | 0x05 | 0x06 | 0x07 | 0x0A => some 32
  | 0x01 | 0x02 | 0x04 | 0x08 | 0x09 => some 64
  | _ => none

/-- The fields from `En` upward are zero. -/
def zeroFrom (n : Nat) (f : XE) : Bool :=
  (0 < n || f.e0 == 0) && (1 < n || f.e1 == 0) && (2 < n || f.e2 == 0) && (3 < n || f.e3 == 0) && (4 < n || f.e4 == 0)

/-- An XE word's fields are ones that its operation accepts: the tables of R338 to R345, R347, R360, R368, R376, R383. -/
def xeOk (grp op : Nat) (f : XE) : Bool :=
  let fl := f.flags.toNat
  guardOk f.guard &&
  match grp, op with
  | 0x02, 0 | 0x02, 1 | 0x02, 2 => zeroFrom 0 f && fl ≤ 1
  | 0x02, 3 => zeroFrom 2 f && fl ≤ 1 && (if fl == 1 then f.e0 == 0 && f.e1 == 0 else f.e0.toNat ≤ f.e1.toNat)
  | 0x02, 4 => zeroFrom 0 f && fl == 0
  | 0x02, 5 => zeroFrom 1 f && fl == 0
  | 0x02, 6 => zeroFrom 4 f && fl == 0
  | 0x02, 7 => zeroFrom 1 f && fl ≤ 3
  | 0x20, 0 | 0x20, 1 | 0x20, 3 => even f.e0 && even f.e1 && zeroFrom 3 f && fl ≤ 1
  | 0x20, 2 => even f.e0 && even f.e1 && zeroFrom 3 f
  | 0x20, 4 | 0x20, 5 => even f.e0 && zeroFrom 1 f
  | 0x20, 6 => zeroFrom 1 f && fl ≤ 3
  | 0x20, 7 => zeroFrom 1 f && fl == 0
  | 0x28, 0 => zeroFrom 2 f && fl == 0
  | 0x28, 1 | 0x28, 6 | 0x28, 7 => zeroFrom 1 f && fl == 0
  | 0x28, 2 => even f.e1 && zeroFrom 2 f && fl == 0
  | 0x28, 3 => even f.e0 && f.e4.toNat ≤ 4 && fl ≤ 1
  | 0x28, 4 => even f.e0 && zeroFrom 3 f && fl == 0
  | 0x28, 5 => if fl == 0 then even f.e1 && zeroFrom 3 f else fl == 1 && even f.e0 && zeroFrom 4 f
  | 0x30, 0 => if fl ≤ 1 then even f.e0 && zeroFrom 2 f else fl ≤ 3 && zeroFrom 0 f
  | 0x30, 1 | 0x30, 10 => even f.e0 && zeroFrom 1 f && fl ≤ 1
  | 0x30, 2 => even f.e0 && even f.e1 && even f.e2 && zeroFrom 3 f && fl ≤ 3
  | 0x30, 3 | 0x30, 8 => even f.e0 && even f.e1 && zeroFrom 2 f && fl ≤ 3
  | 0x30, 4 | 0x30, 5 | 0x30, 6 | 0x30, 7 => even f.e0 && zeroFrom 1 f && fl == 0
  | 0x30, 9 => even f.e0 && even f.e1 && zeroFrom 2 f && fl == 0
  | 0x34, 0 | 0x34, 1 => even f.e0 && even f.e2 && f.e3 == 0 && f.e4.toNat ≤ 5 && fl ≤ 1 && (fl == 0 || even f.e1)
  | 0x34, 2 => even f.e0 && f.e4.toNat ≤ 4 && fl == 0
  | 0x34, 3 => even f.e0 && even f.e2 && zeroFrom 3 f && fl == 0
  | 0x38, 0 => even f.e1 && zeroFrom 2 f && fl == 0
  | 0x38, 1 => zeroFrom 2 f && fl == 0 &&
      (match stateWidth f.e1.toNat with
       | some w => w == 32 || even f.e0
       | none => false)
  | 0x38, 2 => zeroFrom 2 f && fl == 0 && (stateWidth f.e0.toNat).isSome
  | 0x38, 3 => even f.e0 && even f.e1 && zeroFrom 3 f && fl == 0
  | 0x38, 4 => zeroFrom 0 f && fl ≤ 1 && f.guard == 0
  | _, _ => false

/-- The static field rules of an instruction (R270). A step that no word encodes has none. -/
def viewOk : View → Bool
  | .t opc f => tOk opc f
  | .i opc f => iOk opc f
  | .p op0 h0 op1 h1 => halfOk false op0 h0 && halfOk true op1 h1
  | .xm g o f => xmOk g o f
  | .xb o f => xbOk o f
  | .xe g o f => xeOk g o f
  | .kln _ _ _ _ => true
  | .event => true

end Shape
end Sys2Proof
end

