-- ==== Sys2Proof/WellFormed.lean ====
section
/-! DEFINITION. Which instructions are well formed: their fields are ones that the encoding of their row accepts
(spec/12_formats_and_opcode_map.md R270). -/
namespace Sys2Proof

/-- The class, opcode numbers and fields of an instruction (R254, R268, R269). -/
def Instr.view : Instr → View
  | .powerGood => .event
  | .imageVerify => .event
  | .sheetSelfCalibrate => .event
  | .d2dLinkTrain => .event
  | .lpddrTrain => .event
  | .lpddrInit => .event
  | .ndenathLinkTrain => .event
  | .firmwareServicesStart => .event
  | .readySet => .event
  | .stageLimitExceeded => .event
  | .thermalTrip => .event
  | .coolantOutOfRange => .event
  | .rollbackRaise => .event
  | .lpddrDqRetrain => .event
  | .d2dRetry => .event
  | .dieLinkFailure => .event
  | .mgmtQuery => .event
  | .mgmtWarmReset => .event
  | .mgmtDrop => .event
  | .resetRegisterWrite => .event
  | .governorWindow => .event
  | .operatingPointChangeDone => .event
  | .fieldRecordFlush => .event
  | .scrub => .event
  | .ethFrameReceive => .event
  | .ethFrameTransmit => .event
  | .cxlLinkTrain => .event
  | .cxlDeviceRemoved => .event
  | .ndenathPortStateChange => .event
  | .flitReceive => .event
  | .loadRequest => .event
  | .loadReply => .event
  | .watermarkedRequest => .event
  | .resultReply => .event
  | .busyReply => .event
  | .unknownReply => .event
  | .releaseNotice => .event
  | .releaseNoticeLaunchEnd => .event
  | .copyWriteChunk => .event
  | .copyReadRequest => .event
  | .copyAck => .event
  | .requestRetransmit => .event
  | .scheduleExhausted => .event
  | .busyResend => .event
  | .requesterReleaseNotice => .event
  | .releaseNoticeResend => .event
  | .launchEndMarkExpiry => .event
  | .ownerRestart => .event
  | .ownerRestore => .event
  | .quarantineEnd => .event
  | .clineRequest => .event
  | .heldDrain => .event
  | .klnLaunch rd rs1 rs2 => .kln 0 rd rs1 rs2
  | .klnCancel rd rs1 rs2 => .kln 1 rd rs1 rs2
  | .klnPreempt rd rs1 rs2 => .kln 2 rd rs1 rs2
  | .klnStatus rd rs1 rs2 => .kln 3 rd rs1 rs2
  | .launchDispatch => .event
  | .dependenceAnswer => .event
  | .launchEnd => .event
  | .watchdogExpiry => .event
  | .faultLogConsume => .event
  | .copyFaultRetry => .event
  | .copyFaultFail => .event
  | .invalidatePage => .event
  | .invalidateContext => .event
  | .invalidateAll => .event
  | .invalidateComplete => .event
  | .ordsizeWrite => .event
  | .ordsizeTakeEffect => .event
  | .registerWrite => .event
  | .clusterPlace => .event
  | .clusterBlocking => .event
  | .victimPreempt => .event
  | .clusterMove => .event
  | .deterministicPreempt => .event
  | .clusterPreempt => .event
  | .preemptRelease => .event
  | .backgroundClearDone => .event
  | .enginePassGrant => .event
  | .passIdleEnd => .event
  | .quantumExpiry => .event
  | .starvationSwitch => .event
  | .yieldBundle => .event
  | .registerWriteback => .event
  | .presenceWake => .event
  | .fullEmptyWake => .event
  | .barrierDeparture => .event
  | .waitcRelease => .event
  | .queueVectorWake => .event
  | .qsndRoomWake => .event
  | .ordwaitRelease => .event
  | .waitaMonitorReread => .event
  | .waitaPoll => .event
  | .svcReply => .event
  | .obrelComplete => .event
  | .matrixPassRetire => .event
  | .tileOpExecute => .event
  | .copyChunkLand => .event
  | .copyComplete => .event
  | .glintReplay => .event
  | .uncorrectableConsume => .event
  | .supervisorDecision => .event
  | .controlCoreHwError => .event
  | .iadd f => .t 0x000 f
  | .isub f => .t 0x001 f
  | .imul f => .t 0x002 f
  | .imulh f => .t 0x003 f
  | .imad f => .t 0x004 f
  | .imin f => .t 0x005 f
  | .imax f => .t 0x006 f
  | .iabs f => .t 0x007 f
  | .ineg f => .t 0x008 f
  | .idiv f => .t 0x009 f
  | .irem f => .t 0x00A f
  | .lea f => .t 0x00B f
  | .and f => .t 0x010 f
  | .or f => .t 0x011 f
  | .xor f => .t 0x012 f
  | .andn f => .t 0x013 f
  | .orn f => .t 0x014 f
  | .shl f => .t 0x015 f
  | .shr f => .t 0x016 f
  | .sar f => .t 0x017 f
  | .rotl f => .t 0x018 f
  | .funsh f => .t 0x019 f
  | .bfx f => .t 0x01A f
  | .bfi f => .t 0x01B f
  | .popc f => .t 0x01C f
  | .clz f => .t 0x01D f
  | .ctz f => .t 0x01E f
  | .brev f => .t 0x01F f
  | .icmp f => .t 0x020 f
  | .sel f => .t 0x021 f
  | .mov f => .t 0x022 f
  | .movx f => .t 0x023 f
  | .movxw f => .t 0x024 f
  | .shfl f => .t 0x030 f
  | .xperm f => .t 0x031 f
  | .vote f => .t 0x032 f
  | .ballot f => .t 0x033 f
  | .matchv f => .t 0x034 f
  | .scan f => .t 0x035 f
  | .fadd f => .t 0x040 f
  | .fsub f => .t 0x041 f
  | .fmul f => .t 0x042 f
  | .ffma f => .t 0x043 f
  | .ffms f => .t 0x044 f
  | .fmin f => .t 0x045 f
  | .fmax f => .t 0x046 f
  | .fminm f => .t 0x047 f
  | .fmaxm f => .t 0x048 f
  | .fabs f => .t 0x049 f
  | .fneg f => .t 0x04A f
  | .fcpys f => .t 0x04B f
  | .fcmp f => .t 0x04C f
  | .fclass f => .t 0x04D f
  | .frint f => .t 0x04E f
  | .fscl f => .t 0x04F f
  | .fgete f => .t 0x050 f
  | .fdiv f => .t 0x060 f
  | .fsqrt f => .t 0x061 f
  | .frcp f => .t 0x062 f
  | .frsq f => .t 0x063 f
  | .fexp f => .t 0x064 f
  | .fexp2 f => .t 0x065 f
  | .flog f => .t 0x066 f
  | .flog2 f => .t 0x067 f
  | .fsin f => .t 0x068 f
  | .fcos f => .t 0x069 f
  | .ftan f => .t 0x06A f
  | .fatan f => .t 0x06B f
  | .ftanh f => .t 0x06C f
  | .ferf f => .t 0x06D f
  | .fcvt f => .t 0x070 f
  | .fcvti f => .t 0x071 f
  | .icvtf f => .t 0x072 f
  | .plsplit f => .t 0x073 f
  | .pljoin f => .t 0x074 f
  | .bpack f => .t 0x075 f
  | .bunpk f => .t 0x076 f
  | .iaddI f => .i 0x000 f
  | .isubI f => .i 0x001 f
  | .imulI f => .i 0x002 f
  | .imulhI f => .i 0x003 f
  | .imadI f => .i 0x004 f
  | .iminI f => .i 0x005 f
  | .imaxI f => .i 0x006 f
  | .iabsI f => .i 0x007 f
  | .inegI f => .i 0x008 f
  | .idivI f => .i 0x009 f
  | .iremI f => .i 0x00A f
  | .leaI f => .i 0x00B f
  | .andI f => .i 0x010 f
  | .orI f => .i 0x011 f
  | .xorI f => .i 0x012 f
  | .andnI f => .i 0x013 f
  | .ornI f => .i 0x014 f
  | .shlI f => .i 0x015 f
  | .shrI f => .i 0x016 f
  | .sarI f => .i 0x017 f
  | .rotlI f => .i 0x018 f
  | .funshI f => .i 0x019 f
  | .bfxI f => .i 0x01A f
  | .bfiI f => .i 0x01B f
  | .popcI f => .i 0x01C f
  | .clzI f => .i 0x01D f
  | .ctzI f => .i 0x01E f
  | .brevI f => .i 0x01F f
  | .icmpI f => .i 0x020 f
  | .selI f => .i 0x021 f
  | .movI f => .i 0x022 f
  | .movxI f => .i 0x023 f
  | .movxwI f => .i 0x024 f
  | .faddI f => .i 0x040 f
  | .fmulI f => .i 0x042 f
  | .ffmaI f => .i 0x043 f
  | .iaddP h0 op1 h1 => .p .iadd h0 op1 h1
  | .isubP h0 op1 h1 => .p .isub h0 op1 h1
  | .iminP h0 op1 h1 => .p .imin h0 op1 h1
  | .imaxP h0 op1 h1 => .p .imax h0 op1 h1
  | .andP h0 op1 h1 => .p .and h0 op1 h1
  | .orP h0 op1 h1 => .p .or h0 op1 h1
  | .xorP h0 op1 h1 => .p .xor h0 op1 h1
  | .andnP h0 op1 h1 => .p .andn h0 op1 h1
  | .shlP h0 op1 h1 => .p .shl h0 op1 h1
  | .shrP h0 op1 h1 => .p .shr h0 op1 h1
  | .sarP h0 op1 h1 => .p .sar h0 op1 h1
  | .movP h0 op1 h1 => .p .mov h0 op1 h1
  | .icmpP h0 op1 h1 => .p .icmp h0 op1 h1
  | .faddP h0 op1 h1 => .p .fadd h0 op1 h1
  | .fmulP h0 op1 h1 => .p .fmul h0 op1 h1
  | .fminP h0 op1 h1 => .p .fmin h0 op1 h1
  | .fmaxP h0 op1 h1 => .p .fmax h0 op1 h1
  | .ld f => .xm 0x00 0x00 f
  | .st f => .xm 0x00 0x01 f
  | .ldp f => .xm 0x00 0x02 f
  | .stp f => .xm 0x00 0x03 f
  | .ldfe f => .xm 0x00 0x04 f
  | .stfe f => .xm 0x00 0x05 f
  | .feinit f => .xm 0x00 0x06 f
  | .sptest f => .xm 0x00 0x07 f
  | .spcast f => .xm 0x00 0x08 f
  | .fence f => .xm 0x00 0x09 f
  | .atom f => .xm 0x01 0x00 f
  | .red f => .xm 0x01 0x01 f
  | .atomv f => .xm 0x01 0x02 f
  | .waita f => .xm 0x01 0x03 f
  | .bar f => .xe 0x02 0x00 f
  | .bara f => .xe 0x02 0x01 f
  | .barw f => .xe 0x02 0x02 f
  | .regn f => .xe 0x02 0x03 f
  | .commit f => .xe 0x02 0x04 f
  | .ordwait f => .xe 0x02 0x05 f
  | .qsnd f => .xe 0x02 0x06 f
  | .qrcv f => .xe 0x02 0x07 f
  | .bra f => .xb 0x00 f
  | .brx f => .xb 0x01 f
  | .call f => .xb 0x02 f
  | .callx f => .xb 0x03 f
  | .ret f => .xb 0x04 f
  | .exit f => .xb 0x05 f
  | .yield f => .xb 0x06 f
  | .join f => .xb 0x07 f
  | .leave f => .xb 0x08 f
  | .waitm f => .xb 0x09 f
  | .mkrd f => .xb 0x0A f
  | .mkwr f => .xb 0x0B f
  | .nop f => .xb 0x0C f
  | .brk f => .xb 0x0D f
  | .trap f => .xb 0x0E f
  | .cpy f => .xe 0x20 0x00 f
  | .cpy2 f => .xe 0x20 0x01 f
  | .cpyx f => .xe 0x20 0x02 f
  | .cpyp f => .xe 0x20 0x03 f
  | .ctld f => .xe 0x20 0x04 f
  | .ptld f => .xe 0x20 0x05 f
  | .waitc f => .xe 0x20 0x06 f
  | .cntrd f => .xe 0x20 0x07 f
  | .obres f => .xe 0x28 0x00 f
  | .obrel f => .xe 0x28 0x01 f
  | .obset f => .xe 0x28 0x02 f
  | .mma f => .xe 0x28 0x03 f
  | .mrd f => .xe 0x28 0x04 f
  | .mwr f => .xe 0x28 0x05 f
  | .mwrMem f => .xe 0x28 0x05 f
  | .mzero f => .xe 0x28 0x06 f
  | .mpri f => .xe 0x28 0x07 f
  | .tpool f => .xe 0x30 0x00 f
  | .tpoolEmpty f => .xe 0x30 0x00 f
  | .tzero f => .xe 0x30 0x01 f
  | .tmac f => .xe 0x30 0x02 f
  | .tadd f => .xe 0x30 0x03 f
  | .trnd f => .xe 0x30 0x04 f
  | .tdense f => .xe 0x30 0x05 f
  | .tcomp f => .xe 0x30 0x06 f
  | .tlu f => .xe 0x30 0x07 f
  | .ttrs f => .xe 0x30 0x08 f
  | .tinfo f => .xe 0x30 0x09 f
  | .tsamp f => .xe 0x30 0x0A f
  | .osgd f => .xe 0x34 0x00 f
  | .oadam f => .xe 0x34 0x01 f
  | .cline f => .xe 0x34 0x02 f
  | .ccon f => .xe 0x34 0x03 f
  | .launch f => .xe 0x38 0x00 f
  | .rdsr f => .xe 0x38 0x01 f
  | .wrsr f => .xe 0x38 0x02 f
  | .svc f => .xe 0x38 0x03 f
  | .tret f => .xe 0x38 0x04 f
  | .powerLoss => .event
  | .ethLinkStateChange => .event
  | .cxlLinkDown => .event
  | .copyChunkRetransmit => .event

/-- The static field rules of R270, and for the two rows that share an operation code the flag that tells them apart. -/
def Instr.wellFormed (i : Instr) : Bool :=
  Shape.viewOk i.view &&
  match i with
  | .mwr f => f.flags == 0
  | .mwrMem f => f.flags == 1
  | .tpool f => f.flags.toNat ≤ 1
  | .tpoolEmpty f => 2 ≤ f.flags.toNat
  | _ => true

end Sys2Proof
end

