-- ==== Sys2Proof/Decode.lean ====
section
/-! DEFINITION. From bits to instructions and back (spec/12_formats_and_opcode_map.md R254 to R271, R58). The decoder is total:
a word is an instruction, or is unassigned, or breaks a field rule. -/
namespace Sys2Proof

/-- Why a word is no instruction (R270). -/
inductive DecErr where
  | illegalOpcode
  | reservedField
  deriving DecidableEq, Repr

/-- Bits `lo + n - 1` to `lo` of a word (R5). -/
def fld (w : BitVec 64) (lo n : Nat) : BitVec n := BitVec.ofNat n (w.toNat / 2 ^ lo)

/-- The T-form instruction of an opcode (R268). -/
def tInstr (opc : Nat) (f : TF) : Option Instr :=
  match opc with
  | 0x000 => some (.iadd f)
  | 0x001 => some (.isub f)
  | 0x002 => some (.imul f)
  | 0x003 => some (.imulh f)
  | 0x004 => some (.imad f)
  | 0x005 => some (.imin f)
  | 0x006 => some (.imax f)
  | 0x007 => some (.iabs f)
  | 0x008 => some (.ineg f)
  | 0x009 => some (.idiv f)
  | 0x00A => some (.irem f)
  | 0x00B => some (.lea f)
  | 0x010 => some (.and f)
  | 0x011 => some (.or f)
  | 0x012 => some (.xor f)
  | 0x013 => some (.andn f)
  | 0x014 => some (.orn f)
  | 0x015 => some (.shl f)
  | 0x016 => some (.shr f)
  | 0x017 => some (.sar f)
  | 0x018 => some (.rotl f)
  | 0x019 => some (.funsh f)
  | 0x01A => some (.bfx f)
  | 0x01B => some (.bfi f)
  | 0x01C => some (.popc f)
  | 0x01D => some (.clz f)
  | 0x01E => some (.ctz f)
  | 0x01F => some (.brev f)
  | 0x020 => some (.icmp f)
  | 0x021 => some (.sel f)
  | 0x022 => some (.mov f)
  | 0x023 => some (.movx f)
  | 0x024 => some (.movxw f)
  | 0x030 => some (.shfl f)
  | 0x031 => some (.xperm f)
  | 0x032 => some (.vote f)
  | 0x033 => some (.ballot f)
  | 0x034 => some (.matchv f)
  | 0x035 => some (.scan f)
  | 0x040 => some (.fadd f)
  | 0x041 => some (.fsub f)
  | 0x042 => some (.fmul f)
  | 0x043 => some (.ffma f)
  | 0x044 => some (.ffms f)
  | 0x045 => some (.fmin f)
  | 0x046 => some (.fmax f)
  | 0x047 => some (.fminm f)
  | 0x048 => some (.fmaxm f)
  | 0x049 => some (.fabs f)
  | 0x04A => some (.fneg f)
  | 0x04B => some (.fcpys f)
  | 0x04C => some (.fcmp f)
  | 0x04D => some (.fclass f)
  | 0x04E => some (.frint f)
  | 0x04F => some (.fscl f)
  | 0x050 => some (.fgete f)
  | 0x060 => some (.fdiv f)
  | 0x061 => some (.fsqrt f)
  | 0x062 => some (.frcp f)
  | 0x063 => some (.frsq f)
  | 0x064 => some (.fexp f)
  | 0x065 => some (.fexp2 f)
  | 0x066 => some (.flog f)
  | 0x067 => some (.flog2 f)
  | 0x068 => some (.fsin f)
  | 0x069 => some (.fcos f)
  | 0x06A => some (.ftan f)
  | 0x06B => some (.fatan f)
  | 0x06C => some (.ftanh f)
  | 0x06D => some (.ferf f)
  | 0x070 => some (.fcvt f)
  | 0x071 => some (.fcvti f)
  | 0x072 => some (.icvtf f)
  | 0x073 => some (.plsplit f)
  | 0x074 => some (.pljoin f)
  | 0x075 => some (.bpack f)
  | 0x076 => some (.bunpk f)
  | _ => none

/-- The I-form instruction of an opcode (R261, R268). -/
def iInstr (opc : Nat) (f : IF) : Option Instr :=
  match opc with
  | 0x000 => some (.iaddI f)
  | 0x001 => some (.isubI f)
  | 0x002 => some (.imulI f)
  | 0x003 => some (.imulhI f)
  | 0x004 => some (.imadI f)
  | 0x005 => some (.iminI f)
  | 0x006 => some (.imaxI f)
  | 0x007 => some (.iabsI f)
  | 0x008 => some (.inegI f)
  | 0x009 => some (.idivI f)
  | 0x00A => some (.iremI f)
  | 0x00B => some (.leaI f)
  | 0x010 => some (.andI f)
  | 0x011 => some (.orI f)
  | 0x012 => some (.xorI f)
  | 0x013 => some (.andnI f)
  | 0x014 => some (.ornI f)
  | 0x015 => some (.shlI f)
  | 0x016 => some (.shrI f)
  | 0x017 => some (.sarI f)
  | 0x018 => some (.rotlI f)
  | 0x019 => some (.funshI f)
  | 0x01A => some (.bfxI f)
  | 0x01B => some (.bfiI f)
  | 0x01C => some (.popcI f)
  | 0x01D => some (.clzI f)
  | 0x01E => some (.ctzI f)
  | 0x01F => some (.brevI f)
  | 0x020 => some (.icmpI f)
  | 0x021 => some (.selI f)
  | 0x022 => some (.movI f)
  | 0x023 => some (.movxI f)
  | 0x024 => some (.movxwI f)
  | 0x040 => some (.faddI f)
  | 0x042 => some (.fmulI f)
  | 0x043 => some (.ffmaI f)
  | _ => none

/-- The P-opcode numbered `n` (R263). -/
def popOf (n : Nat) : Option POp :=
  match n with
  | 0x00 => some .iadd
  | 0x01 => some .isub
  | 0x02 => some .imin
  | 0x03 => some .imax
  | 0x04 => some .and
  | 0x05 => some .or
  | 0x06 => some .xor
  | 0x07 => some .andn
  | 0x08 => some .shl
  | 0x09 => some .shr
  | 0x0A => some .sar
  | 0x0B => some .mov
  | 0x0C => some .icmp
  | 0x0D => some .fadd
  | 0x0E => some .fmul
  | 0x0F => some .fmin
  | 0x10 => some .fmax
  | _ => none

/-- The number of a P-opcode (R263). -/
def popNum : POp → Nat
  | .iadd => 0x00
  | .isub => 0x01
  | .imin => 0x02
  | .imax => 0x03
  | .and => 0x04
  | .or => 0x05
  | .xor => 0x06
  | .andn => 0x07
  | .shl => 0x08
  | .shr => 0x09
  | .sar => 0x0A
  | .mov => 0x0B
  | .icmp => 0x0C
  | .fadd => 0x0D
  | .fmul => 0x0E
  | .fmin => 0x0F
  | .fmax => 0x10

/-- The instruction of a P word: the row of its half 0 (R262). -/
def pInstr (op0 : POp) (h0 : HF) (op1 : POp) (h1 : HF) : Instr :=
  match op0 with
  | .iadd => .iaddP h0 op1 h1
  | .isub => .isubP h0 op1 h1
  | .imin => .iminP h0 op1 h1
  | .imax => .imaxP h0 op1 h1
  | .and => .andP h0 op1 h1
  | .or => .orP h0 op1 h1
  | .xor => .xorP h0 op1 h1
  | .andn => .andnP h0 op1 h1
  | .shl => .shlP h0 op1 h1
  | .shr => .shrP h0 op1 h1
  | .sar => .sarP h0 op1 h1
  | .mov => .movP h0 op1 h1
  | .icmp => .icmpP h0 op1 h1
  | .fadd => .faddP h0 op1 h1
  | .fmul => .fmulP h0 op1 h1
  | .fmin => .fminP h0 op1 h1
  | .fmax => .fmaxP h0 op1 h1

/-- The XM instruction of a group and operation (R269). -/
def xmInstr (grp op : Nat) (f : XM) : Option Instr :=
  match grp, op with
  | 0x00, 0x00 => some (.ld f)
  | 0x00, 0x01 => some (.st f)
  | 0x00, 0x02 => some (.ldp f)
  | 0x00, 0x03 => some (.stp f)
  | 0x00, 0x04 => some (.ldfe f)
  | 0x00, 0x05 => some (.stfe f)
  | 0x00, 0x06 => some (.feinit f)
  | 0x00, 0x07 => some (.sptest f)
  | 0x00, 0x08 => some (.spcast f)
  | 0x00, 0x09 => some (.fence f)
  | 0x01, 0x00 => some (.atom f)
  | 0x01, 0x01 => some (.red f)
  | 0x01, 0x02 => some (.atomv f)
  | 0x01, 0x03 => some (.waita f)
  | _, _ => none

/-- The XE instruction of a group and operation (R269). -/
def xeInstr (grp op : Nat) (f : XE) : Option Instr :=
  match grp, op with
  | 0x02, 0x00 => some (.bar f)
  | 0x02, 0x01 => some (.bara f)
  | 0x02, 0x02 => some (.barw f)
  | 0x02, 0x03 => some (.regn f)
  | 0x02, 0x04 => some (.commit f)
  | 0x02, 0x05 => some (.ordwait f)
  | 0x02, 0x06 => some (.qsnd f)
  | 0x02, 0x07 => some (.qrcv f)
  | 0x20, 0x00 => some (.cpy f)
  | 0x20, 0x01 => some (.cpy2 f)
  | 0x20, 0x02 => some (.cpyx f)
  | 0x20, 0x03 => some (.cpyp f)
  | 0x20, 0x04 => some (.ctld f)
  | 0x20, 0x05 => some (.ptld f)
  | 0x20, 0x06 => some (.waitc f)
  | 0x20, 0x07 => some (.cntrd f)
  | 0x28, 0x00 => some (.obres f)
  | 0x28, 0x01 => some (.obrel f)
  | 0x28, 0x02 => some (.obset f)
  | 0x28, 0x03 => some (.mma f)
  | 0x28, 0x04 => some (.mrd f)
  | 0x28, 0x05 => some (if f.flags.toNat % 2 == 0 then .mwr f else .mwrMem f)
  | 0x28, 0x06 => some (.mzero f)
  | 0x28, 0x07 => some (.mpri f)
  | 0x30, 0x00 => some (if f.flags.toNat / 2 % 2 == 0 then .tpool f else .tpoolEmpty f)
  | 0x30, 0x01 => some (.tzero f)
  | 0x30, 0x02 => some (.tmac f)
  | 0x30, 0x03 => some (.tadd f)
  | 0x30, 0x04 => some (.trnd f)
  | 0x30, 0x05 => some (.tdense f)
  | 0x30, 0x06 => some (.tcomp f)
  | 0x30, 0x07 => some (.tlu f)
  | 0x30, 0x08 => some (.ttrs f)
  | 0x30, 0x09 => some (.tinfo f)
  | 0x30, 0x0A => some (.tsamp f)
  | 0x34, 0x00 => some (.osgd f)
  | 0x34, 0x01 => some (.oadam f)
  | 0x34, 0x02 => some (.cline f)
  | 0x34, 0x03 => some (.ccon f)
  | 0x38, 0x00 => some (.launch f)
  | 0x38, 0x01 => some (.rdsr f)
  | 0x38, 0x02 => some (.wrsr f)
  | 0x38, 0x03 => some (.svc f)
  | 0x38, 0x04 => some (.tret f)
  | _, _ => none

/-- The XB instruction of an operation (R269). -/
def xbInstr (op : Nat) (f : XB) : Option Instr :=
  match op with
  | 0x00 => some (.bra f)
  | 0x01 => some (.brx f)
  | 0x02 => some (.call f)
  | 0x03 => some (.callx f)
  | 0x04 => some (.ret f)
  | 0x05 => some (.exit f)
  | 0x06 => some (.yield f)
  | 0x07 => some (.join f)
  | 0x08 => some (.leave f)
  | 0x09 => some (.waitm f)
  | 0x0A => some (.mkrd f)
  | 0x0B => some (.mkwr f)
  | 0x0C => some (.nop f)
  | 0x0D => some (.brk f)
  | 0x0E => some (.trap f)
  | _ => none

/-- The Xkelren instruction of a function code (R58). -/
def klnInstr (fn : Nat) (rd rs1 rs2 : BitVec 5) : Option Instr :=
  match fn with
  | 0 => some (.klnLaunch rd rs1 rs2)
  | 1 => some (.klnCancel rd rs1 rs2)
  | 2 => some (.klnPreempt rd rs1 rs2)
  | 3 => some (.klnStatus rd rs1 rs2)
  | _ => none

/-- The T fields of a word (R256). -/
def tFields (w : BitVec 64) : TF :=
  { dst := fld w 45 8, nw := fld w 44 1 == 1, sa := fld w 35 9, sb := fld w 26 9, sc := fld w 17 9,
    ua := fld w 16 1 == 1, ub := fld w 15 1 == 1, uc := fld w 14 1 == 1, rnd := fld w 11 3, guard := fld w 4 7,
    mod := fld w 0 4 }

/-- The I fields of a word (R261). -/
def iFields (w : BitVec 64) : IF :=
  { w := fld w 60 2, dst := fld w 45 8, sa := fld w 36 9, imm := fld w 4 32, nw := fld w 3 1 == 1, ua := fld w 2 1 == 1 }

/-- The fields of the half whose bit 0 is word bit `lo` (R262). -/
def hFields (w : BitVec 64) (lo : Nat) : HF :=
  { hdst := fld w (lo + 17) 7, hsrc := fld w (lo + 8) 9, hmod := fld w (lo + 4) 4, himm := fld w lo 4 }

/-- The XM fields of a word (R265). -/
def xmFields (w : BitVec 64) : XM :=
  { data := fld w 42 8, addr := fld w 34 8, offs := fld w 18 16, scope := fld w 15 3, ord := fld w 13 2, width := fld w 10 3,
    pln := fld w 8 2, rb := fld w 7 1 == 1, guard := fld w 0 7 }

/-- The XB fields of a word (R266). -/
def xbFields (w : BitVec 64) : XB :=
  { breg := fld w 42 8, mask := fld w 38 4, boff := fld w 12 20, guard := fld w 0 7 }

/-- The XE fields of a word (R267). -/
def xeFields (w : BitVec 64) : XE :=
  { e0 := fld w 42 8, e1 := fld w 34 8, e2 := fld w 26 8, e3 := fld w 18 8, e4 := fld w 10 8, flags := fld w 7 3,
    guard := fld w 0 7 }

/-- The instruction that a word's class and opcode select, before any field rule (R268, R269). -/
def select (w : BitVec 64) : Option Instr :=
  match (fld w 62 2).toNat with
  | 0 => tInstr (fld w 53 9).toNat (tFields w)
  | 1 =>
    match popOf (fld w 55 7).toNat, popOf (fld w 24 7).toNat with
    | some op0, some op1 => some (pInstr op0 (hFields w 31) op1 (hFields w 0))
    | _, _ => none
  | 2 => iInstr (fld w 53 7).toNat (iFields w)
  | _ =>
    let grp := (fld w 56 6).toNat
    let op := (fld w 50 6).toNat
    if grp < 2 then xmInstr grp op (xmFields w)
    else if grp == 0x10 then xbInstr op (xbFields w)
    else xeInstr grp op (xeFields w)

/-- The reserved bits that belong to no field record are zero: I [1:0], XB [37:32] and [11:7] (R270). -/
def reservedClear (w : BitVec 64) : Bool :=
  match (fld w 62 2).toNat with
  | 2 => fld w 0 2 == 0
  | 3 => fld w 56 6 != 0x10 || (fld w 32 6 == 0 && fld w 7 5 == 0)
  | _ => true

/-- The instruction of a 64-bit word, or why it is none (R270). -/
def decode (w : BitVec 64) : Except DecErr Instr :=
  match select w with
  | none => .error .illegalOpcode
  | some i => if reservedClear w && i.wellFormed then .ok i else .error .reservedField

/-- A 32-bit control-core word of Xkelren (R58): major opcode custom-0, funct7 zero, funct3 0 to 3. Any other custom-0 word,
and any other word, is not one. -/
def decodeHart (w : BitVec 32) : Option Instr :=
  let n := w.toNat
  if n % 2 ^ 7 == 0x0B && n / 2 ^ 25 == 0 then
    klnInstr (n / 2 ^ 12 % 8) (BitVec.ofNat 5 (n / 2 ^ 7)) (BitVec.ofNat 5 (n / 2 ^ 15)) (BitVec.ofNat 5 (n / 2 ^ 20))
  else none

/-- The instruction read from the `nbits` of a table row: a control-core word of 32 bits or a Filgon word of 64. Both are one
little-endian word (R254), so its bits stand as the table numbers them. -/
def decodeTableWord (nbits w : Nat) : Option Instr :=
  if nbits ≤ 32 then decodeHart (BitVec.ofNat 32 w)
  else
    match decode (BitVec.ofNat 64 w) with
    | .ok i => some i
    | .error _ => none

def b1 (b : Bool) : Nat := if b then 1 else 0

def encT (opc : Nat) (f : TF) : Nat :=
  opc * 2 ^ 53 + f.dst.toNat * 2 ^ 45 + b1 f.nw * 2 ^ 44 + f.sa.toNat * 2 ^ 35 + f.sb.toNat * 2 ^ 26 + f.sc.toNat * 2 ^ 17
    + b1 f.ua * 2 ^ 16 + b1 f.ub * 2 ^ 15 + b1 f.uc * 2 ^ 14 + f.rnd.toNat * 2 ^ 11 + f.guard.toNat * 2 ^ 4 + f.mod.toNat

def encI (opc : Nat) (f : IF) : Nat :=
  2 * 2 ^ 62 + f.w.toNat * 2 ^ 60 + opc * 2 ^ 53 + f.dst.toNat * 2 ^ 45 + f.sa.toNat * 2 ^ 36 + f.imm.toNat * 2 ^ 4
    + b1 f.nw * 2 ^ 3 + b1 f.ua * 2 ^ 2

def encH (op : POp) (h : HF) : Nat :=
  popNum op * 2 ^ 24 + h.hdst.toNat * 2 ^ 17 + h.hsrc.toNat * 2 ^ 8 + h.hmod.toNat * 2 ^ 4 + h.himm.toNat

def encXM (grp op : Nat) (f : XM) : Nat :=
  3 * 2 ^ 62 + grp * 2 ^ 56 + op * 2 ^ 50 + f.data.toNat * 2 ^ 42 + f.addr.toNat * 2 ^ 34 + f.offs.toNat * 2 ^ 18
    + f.scope.toNat * 2 ^ 15 + f.ord.toNat * 2 ^ 13 + f.width.toNat * 2 ^ 10 + f.pln.toNat * 2 ^ 8 + b1 f.rb * 2 ^ 7
    + f.guard.toNat

def encXB (op : Nat) (f : XB) : Nat :=
  3 * 2 ^ 62 + 0x10 * 2 ^ 56 + op * 2 ^ 50 + f.breg.toNat * 2 ^ 42 + f.mask.toNat * 2 ^ 38 + f.boff.toNat * 2 ^ 12
    + f.guard.toNat

def encXE (grp op : Nat) (f : XE) : Nat :=
  3 * 2 ^ 62 + grp * 2 ^ 56 + op * 2 ^ 50 + f.e0.toNat * 2 ^ 42 + f.e1.toNat * 2 ^ 34 + f.e2.toNat * 2 ^ 26
    + f.e3.toNat * 2 ^ 18 + f.e4.toNat * 2 ^ 10 + f.flags.toNat * 2 ^ 7 + f.guard.toNat

/-- The bits of an instruction: how many, and their value (R254 to R267, R58). None for a step that no word encodes. -/
def encode (i : Instr) : Option (Nat × Nat) :=
  match i.view with
  | .t opc f => some (64, encT opc f)
  | .i opc f => some (64, encI opc f)
  | .p op0 h0 op1 h1 => some (64, 2 ^ 62 + encH op0 h0 * 2 ^ 31 + encH op1 h1)
  | .xm grp op f => some (64, encXM grp op f)
  | .xb op f => some (64, encXB op f)
  | .xe grp op f => some (64, encXE grp op f)
  | .kln fn rd rs1 rs2 =>
    some (32, rs2.toNat * 2 ^ 20 + rs1.toNat * 2 ^ 15 + fn * 2 ^ 12 + rd.toNat * 2 ^ 7 + 0x0B)
  | .event => none

end Sys2Proof
end

