-- ==== Sys2Proof/Machine/Float.lean ====
section
/-! DEFINITION. Binary floating point (spec/08_number_formats.md R163 to R175, spec/14_isa_float_and_blocks.md R301 to R313):
exact values, one rounding, flags. A format with fewer fraction bits than its element is the set of values that a plane write
may store (R175). -/
namespace Sys2Proof.Machine

/-- A binary format: exponent and fraction bits (R163). -/
structure Fmt where
  eb : Nat
  fb : Nat
  deriving DecidableEq, Repr

def f64 : Fmt := ⟨11, 52⟩
def f32 : Fmt := ⟨8, 23⟩
def f16 : Fmt := ⟨5, 10⟩
def bf16 : Fmt := ⟨8, 7⟩

/-- The format of a format code (R299). -/
def fmtOf (code : Nat) : Fmt :=
  match code with
  | 0 => f32
  | 1 => f64
  | 2 => f16
  | _ => bf16

def Fmt.bits (F : Fmt) : Nat := 1 + F.eb + F.fb
def Fmt.bias (F : Fmt) : Nat := 2 ^ (F.eb - 1) - 1
def Fmt.inf (F : Fmt) : Nat := (2 ^ F.eb - 1) * 2 ^ F.fb
def Fmt.max (F : Fmt) : Nat := F.inf - 1
def Fmt.nan (F : Fmt) : Nat := F.inf + 2 ^ (F.fb - 1)
def Fmt.sign (F : Fmt) (neg : Bool) : Nat := if neg then 2 ^ (F.eb + F.fb) else 0
/-- The exponent of the least subnormal, and of the least normal. -/
def Fmt.qmin (F : Fmt) : Int := 1 - (F.bias : Int) - F.fb
def Fmt.emin (F : Fmt) : Int := 1 - (F.bias : Int)

/-- Flags in the layout of `FPFLAGS` (R168). -/
abbrev Flags := BitVec 6
def flNX : Flags := 1
def flUF : Flags := 2
def flOF : Flags := 4
def flDZ : Flags := 8
def flNV : Flags := 16
def flSAT : Flags := 32

/-- A value of a format: a NaN, an infinity, or sign, magnitude and exponent of a finite number, exact. -/
inductive FVal where
  | nan (signalling : Bool)
  | inf (neg : Bool)
  | fin (neg : Bool) (m : Nat) (e : Int)
  deriving DecidableEq, Repr

/-- The value of an encoding (R163). -/
def fdecode (F : Fmt) (x : Nat) : FVal :=
  let neg := x / 2 ^ (F.eb + F.fb) % 2 == 1
  let ex := x / 2 ^ F.fb % 2 ^ F.eb
  let fr := x % 2 ^ F.fb
  if ex == 2 ^ F.eb - 1 then (if fr == 0 then .inf neg else .nan (fr < 2 ^ (F.fb - 1)))
  else if ex == 0 then .fin neg fr F.qmin
  else .fin neg (2 ^ F.fb + fr) (F.qmin + (ex - 1 : Nat))

def FVal.isSnan : FVal → Bool
  | .nan s => s
  | _ => false

def FVal.isNan : FVal → Bool
  | .nan _ => true
  | _ => false

/-- A rounding mode (R165), with the 32 hash bits of R167 for `.rsh`. -/
structure Rnd where
  code : Nat
  hash : Nat := 0
  deriving DecidableEq, Repr

/-- HashBits of R167. -/
def hashBits (a : Dword) (t s : Word) : Nat :=
  let h := (a ^^^ (t.setWidth 64 <<< 32 ||| s.setWidth 64)) + 0x9E3779B97F4A7C15#64
  let h := (h ^^^ (h >>> 30)) * 0xBF58476D1CE4E5B9#64
  let h := (h ^^^ (h >>> 27)) * 0x94D049BB133111EB#64
  let h := h ^^^ (h >>> 31)
  h.toNat / 2 ^ 32

/-- The number of bits of `n`: the least `k` with `n < 2 ^ k`. -/
def bitLen (n : Nat) : Nat := if n = 0 then 0 else Nat.log2 n + 1

/-- Whether the magnitude `n + r / 2 ^ sh` is rounded away from zero to an integer (R165, R167). -/
def roundsUp (mode : Rnd) (neg : Bool) (n r sh : Nat) : Bool :=
  if r == 0 then false
  else
    match mode.code with
    | 0 => 2 ^ sh < 2 * r || (2 * r == 2 ^ sh && n % 2 == 1)
    | 1 => false
    | 2 => !neg
    | 3 => neg
    | 4 => 2 ^ sh ≤ 2 * r
    | _ => mode.hash * 2 ^ sh < r * 2 ^ 32

/-- The magnitude `m * 2 ^ e` rounded to a multiple of `2 ^ q`: the multiple, and whether it is inexact. -/
def roundAt (mode : Rnd) (neg : Bool) (m : Nat) (e q : Int) : Nat × Bool :=
  if q ≤ e then (m * 2 ^ (e - q).toNat, false)
  else
    let sh := (q - e).toNat
    let n := m / 2 ^ sh
    let r := m % 2 ^ sh
    (if roundsUp mode neg n r sh then n + 1 else n, r != 0)

/-- The overflow results of R166. -/
def overflow (F : Fmt) (mode : Rnd) (neg : Bool) : Nat × Flags :=
  let big :=
    match mode.code with
    | 0 | 4 => F.inf
    | 1 => F.max
    | 2 => if neg then F.max else F.inf
    | 3 => if neg then F.inf else F.max
    | _ => F.max
  (F.sign neg + big, flOF ||| flNX ||| (if mode.code = 5 then flSAT else 0))

/-- A non-zero magnitude `m * 2 ^ e` rounded once to a format (R164 to R167): encoding and flags. Far outside the format's
range the exponent is first brought near it, which changes no decision. -/
def roundMag (F : Fmt) (mode : Rnd) (neg : Bool) (m : Nat) (e : Int) : Nat × Flags :=
  let top := e + bitLen m - 1
  if F.bias + 2 < top then overflow F mode neg
  else
    let far := top < F.qmin - 64
    let m := if far then 1 else m
    let e := if far then F.qmin - 64 else e
    let top := if far then F.qmin - 64 else top
    let q := max (top - F.fb) F.qmin
    let (n, inexact) := roundAt mode neg m e q
    let bits := (q - F.qmin).toNat * 2 ^ F.fb + n
    if F.inf ≤ bits then overflow F mode neg
    else
      let tiny := top < F.emin &&
        !(top + 1 == F.emin && (roundAt mode neg m e (top - F.fb)).1 == 2 ^ (F.fb + 1))
      (F.sign neg + bits, if inexact then (if tiny then flUF ||| flNX else flNX) else 0)

/-- An exact value rounded once (R164); a zero keeps its sign. -/
def fround (F : Fmt) (mode : Rnd) : FVal → Nat × Flags
  | .nan s => (F.nan, if s then flNV else 0)
  | .inf neg => (F.sign neg + F.inf, 0)
  | .fin neg m e => if m = 0 then (F.sign neg, 0) else roundMag F mode neg m e

/-- The exact sum of two values; the sign of a zero sum is the mode's (R301). `none` when it is `∞ - ∞`. -/
def fsum (mode : Rnd) (a b : FVal) : Option FVal :=
  match a, b with
  | .inf s, .inf t => if s == t then some (.inf s) else none
  | .inf s, _ => some (.inf s)
  | _, .inf t => some (.inf t)
  | .fin s m e, .fin t n f =>
    let q := min e f
    let x : Int := (m * 2 ^ (e - q).toNat : Nat)
    let y : Int := (n * 2 ^ (f - q).toNat : Nat)
    let z := (if s then -x else x) + (if t then -y else y)
    if z = 0 then some (.fin (if m = 0 && n = 0 && s == t then s else mode.code == 3) 0 q)
    else some (.fin (z < 0) z.natAbs q)
  | .nan s, _ => some (.nan s)
  | _, .nan t => some (.nan t)

/-- The exact product of two values that are not NaNs; `none` when it is `0 × ∞`. -/
def fprod (a b : FVal) : Option FVal :=
  match a, b with
  | .inf s, .inf t => some (.inf (s != t))
  | .inf s, .fin t n _ => if n = 0 then none else some (.inf (s != t))
  | .fin s m _, .inf t => if m = 0 then none else some (.inf (s != t))
  | .fin s m e, .fin t n f => some (.fin (s != t) (m * n) (e + f))
  | .nan s, _ => some (.nan s)
  | _, .nan t => some (.nan t)

/-- The flag of signalling operands (R164). -/
def snanFlag (l : List FVal) : Flags := if l.any FVal.isSnan then flNV else 0

/-- A result that is the canonical NaN with the invalid flag. -/
def invalid (F : Fmt) : Nat × Flags := (F.nan, flNV)

def fnegV : FVal → FVal
  | .nan s => .nan s
  | .inf n => .inf !n
  | .fin n m e => .fin (!n) m e

/-- Round(a + b) (R301). -/
def faddV (F : Fmt) (mode : Rnd) (a b : FVal) : Nat × Flags :=
  if a.isNan || b.isNan then (F.nan, snanFlag [a, b])
  else
    match fsum mode a b with
    | none => invalid F
    | some v => fround F mode v

/-- Round(a × b) (R301). -/
def fmulV (F : Fmt) (mode : Rnd) (a b : FVal) : Nat × Flags :=
  if a.isNan || b.isNan then (F.nan, snanFlag [a, b])
  else
    match fprod a b with
    | none => invalid F
    | some v => fround F mode v

/-- Round(a × b + c), one rounding; `0 × ∞` is invalid even when c is a quiet NaN (R301). -/
def ffmaV (F : Fmt) (mode : Rnd) (a b c : FVal) : Nat × Flags :=
  if a.isNan || b.isNan then (F.nan, snanFlag [a, b, c])
  else
    match fprod a b with
    | none => invalid F
    | some p =>
      if c.isNan then (F.nan, snanFlag [c])
      else
        match fsum mode p c with
        | none => invalid F
        | some v => fround F mode v

/-- Round(a × 2 ^ n) (R301). -/
def fsclV (F : Fmt) (mode : Rnd) (a : FVal) (n : Int) : Nat × Flags :=
  match a with
  | .fin s m e => fround F mode (.fin s m (e + n))
  | v => fround F mode v

/-- Round(a / b) (R308, R309): the quotient to more bits than the format holds, with a sticky bit. -/
def fdivV (F : Fmt) (mode : Rnd) (a b : FVal) : Nat × Flags :=
  match a, b with
  | .nan _, _ | _, .nan _ => (F.nan, snanFlag [a, b])
  | .inf _, .inf _ => invalid F
  | .inf s, .fin t _ _ => (F.sign (s != t) + F.inf, 0)
  | .fin s _ _, .inf t => (F.sign (s != t), 0)
  | .fin s m e, .fin t n f =>
    if n = 0 then (if m = 0 then invalid F else (F.sign (s != t) + F.inf, flDZ))
    else if m = 0 then (F.sign (s != t), 0)
    else
      let k := F.fb + 4 + bitLen n - bitLen m
      let x := m * 2 ^ k
      let st := if x % n = 0 then 0 else 1
      roundMag F mode (s != t) (2 * (x / n) + st) (e - f - k - 1)

/-- The integer square root, one bit at a time from bit `i - 1`. -/
def isqrtFrom (n : Nat) : Nat → Nat → Nat
  | 0, r => r
  | i + 1, r =>
    let c := r + 2 ^ i
    isqrtFrom n i (if c * c ≤ n then c else r)

def isqrt (n : Nat) : Nat := isqrtFrom n (bitLen n / 2 + 1) 0

/-- Round(√a) (R308, R309). -/
def fsqrtV (F : Fmt) (mode : Rnd) (a : FVal) : Nat × Flags :=
  match a with
  | .nan _ => (F.nan, snanFlag [a])
  | .inf s => if s then invalid F else (F.inf, 0)
  | .fin s m e =>
    if m = 0 then (F.sign s, 0)
    else if s then invalid F
    else
      let k0 := 2 * (F.fb + 4)
      let k := if (e - k0) % 2 = 0 then k0 else k0 + 1
      let x := m * 2 ^ k
      let r := isqrt x
      let st := if r * r = x then 0 else 1
      roundMag F mode false (2 * r + st) ((e - k) / 2 - 1)

/-- Round(1 / √a) (R308, R309). -/
def frsqV (F : Fmt) (mode : Rnd) (a : FVal) : Nat × Flags :=
  match a with
  | .nan _ => (F.nan, snanFlag [a])
  | .inf s => if s then invalid F else (0, 0)
  | .fin s m e =>
    if m = 0 then (F.sign s + F.inf, flDZ)
    else if s then invalid F
    else
      let m := if e % 2 = 0 then m else 2 * m
      let e := if e % 2 = 0 then e else e - 1
      let k := F.fb + 4 + bitLen m
      let r := isqrt (2 ^ (2 * k) / m)
      let st := if r * r * m = 2 ^ (2 * k) then 0 else 1
      roundMag F mode false (2 * r + st) (-(e / 2) - k - 1)

/-- Order of encodings with −0 < +0; no NaN (R302, R333). -/
def fordLt (F : Fmt) (x y : Nat) : Bool :=
  let h := 2 ^ (F.eb + F.fb)
  let kx : Int := if h ≤ x then -((x - h : Nat) : Int) - 1 else x
  let ky : Int := if h ≤ y then -((y - h : Nat) : Int) - 1 else y
  kx < ky

/-- Minimum or maximum by the order of R302; `num` picks the number when one operand is a NaN. -/
def fminmax (F : Fmt) (max num : Bool) (x y : Nat) : Nat × Flags :=
  let a := fdecode F x
  let b := fdecode F y
  let fl := snanFlag [a, b]
  if a.isNan && b.isNan then (F.nan, fl)
  else if a.isNan then (if num then y else F.nan, fl)
  else if b.isNan then (if num then x else F.nan, fl)
  else (if fordLt F x y != max then x else y, fl)

/-- Numeric comparison of values that are not NaNs: is a below b, is a equal to b. -/
def fcmpV (a b : FVal) : Bool × Bool :=
  let key : FVal → FVal → Int × Int := fun a b =>
    match a, b with
    | .fin s m e, .fin t n f =>
      let q := min e f
      let x : Int := (m * 2 ^ (e - q).toNat : Nat)
      let y : Int := (n * 2 ^ (f - q).toNat : Nat)
      (if s then -x else x, if t then -y else y)
    | .inf s, .inf t => (if s then -1 else 1, if t then -1 else 1)
    | .inf s, _ => (if s then -1 else 1, 0)
    | _, .inf t => (0, if t then -1 else 1)
    | _, _ => (0, 0)
  let (x, y) := key a b
  (x < y, x == y)

/-- `FCMP` (R304). -/
def fcompare (F : Fmt) (cond x y : Nat) : Nat × Flags :=
  let a := fdecode F x
  let b := fdecode F y
  let un := a.isNan || b.isNan
  let (lt, eq) := fcmpV a b
  match cond with
  | 0 => (if !un && eq then 1 else 0, snanFlag [a, b])
  | 1 => (if !un && lt then 1 else 0, if un then flNV else 0)
  | 2 => (if !un && (lt || eq) then 1 else 0, if un then flNV else 0)
  | _ => (if un then 1 else 0, snanFlag [a, b])

/-- `FCLASS` (R305). -/
def fclassify (F : Fmt) (x : Nat) : Nat :=
  match fdecode F x with
  | .nan s => if s then 2 ^ 8 else 2 ^ 9
  | .inf n => if n then 1 else 2 ^ 7
  | .fin n m _ =>
    if m = 0 then (if n then 2 ^ 3 else 2 ^ 4)
    else if m < 2 ^ F.fb then (if n then 2 ^ 2 else 2 ^ 5)
    else (if n then 2 ^ 1 else 2 ^ 6)

/-- `FRINT` (R306). -/
def frint (F : Fmt) (mode : Rnd) (exact : Bool) (x : Nat) : Nat × Flags :=
  match fdecode F x with
  | .nan s => (F.nan, if s then flNV else 0)
  | .inf _ => (x, 0)
  | .fin neg m e =>
    if m = 0 then (x, 0)
    else
      let (n, inexact) := roundAt mode neg m e 0
      let r := if n = 0 then F.sign neg else (roundMag F mode neg n 0).1
      (r, if exact && inexact then flNX else 0)

/-- `FGETE` (R307). -/
def fgete (F : Fmt) (x : Nat) : Nat × Flags :=
  match fdecode F x with
  | .fin _ m e =>
    if m = 0 then (0x80000000, flNV)
    else ((BitVec.ofInt 32 (e + bitLen m - 1)).toNat, 0)
  | _ => (0x7FFFFFFF, flNV)

/-- A value of one format converted to another (R311): the canonical NaN of the destination. -/
def fconvert (dst src : Fmt) (mode : Rnd) (x : Nat) : Nat × Flags :=
  let v := fdecode src x
  match v with
  | .nan s => (dst.nan, if s then flNV else 0)
  | _ => fround dst mode v

/-- The range of an integer type code (R278). -/
def intMin (ty : Nat) : Int := if ty = 2 then -(2 ^ 31) else if ty = 3 then -(2 ^ 63) else 0
def intMax (ty : Nat) : Int :=
  if ty = 0 then 2 ^ 32 - 1 else if ty = 1 then 2 ^ 64 - 1 else if ty = 2 then 2 ^ 31 - 1 else 2 ^ 63 - 1

/-- A binary value converted to an integer type (R171, R312): round first, then test the range. -/
def ftoint (F : Fmt) (mode : Rnd) (ty : Nat) (x : Nat) : Int × Flags :=
  match fdecode F x with
  | .nan _ => (0, flNV)
  | .inf neg => (if neg then intMin ty else intMax ty, flNV)
  | .fin neg m e =>
    -- a magnitude of 2 ^ 65 or more lies outside every type
    if m ≠ 0 && 65 < e + bitLen m then (if neg then intMin ty else intMax ty, flNV)
    else
      let (n, inexact) := roundAt mode neg m e 0
      let z : Int := if neg then -(n : Int) else n
      if z < intMin ty then (intMin ty, flNV)
      else if intMax ty < z then (intMax ty, flNV)
      else (z, if inexact then flNX else 0)

/-- An integer converted to a binary format (R171, R313). -/
def fofint (F : Fmt) (mode : Rnd) (z : Int) : Nat × Flags :=
  if z = 0 then (0, 0) else roundMag F mode (z < 0) z.natAbs 0

/-- The value set of a plane write: the element's exponent, the fraction bits of `k` planes of 16 bits (R172, R175). -/
def planeFmt (F : Fmt) (k : Nat) : Fmt := ⟨F.eb, 16 * k - 1 - F.eb⟩

/-- The element that a write of the leading `k` planes stores: rounded, its lower planes zero (R175). A write of every plane
stores the bits. -/
def planeRound (F : Fmt) (k : Nat) (mode : Rnd) (x : Nat) : Nat × Flags :=
  if F.bits ≤ 16 * k then (x, 0)
  else
    let G := planeFmt F k
    let (r, fl) :=
      match fdecode F x with
      | .nan s => (G.nan, if s then flNV else 0)
      | v => fround G mode v
    (r * 2 ^ (F.bits - 16 * k), fl)

/-- A truncating read of `k` planes (R173). -/
def planeTrunc (F : Fmt) (k : Nat) (x : Nat) : Nat :=
  if F.bits ≤ 16 * k then x
  else
    let cut := 2 ^ (F.bits - 16 * k)
    let y := x / cut * cut
    if (fdecode F x).isNan then (if y / 2 ^ (F.fb - 1) % 2 = 1 then y else y + 2 ^ (F.fb - 1)) else y

/-- A rounding read of `k` planes: plane `k` decides, the planes below it are never read (R174). -/
def planeNear (F : Fmt) (k : Nat) (x : Nat) : Nat :=
  if F.bits ≤ 16 * k then x
  else if x / 2 ^ F.fb % 2 ^ F.eb = 2 ^ F.eb - 1 then planeTrunc F k x
  else
    let drop := F.bits - 16 * k
    let sgn := x / 2 ^ (F.bits - 1)
    let n := x % 2 ^ (F.bits - 1) / 2 ^ drop
    let g := x / 2 ^ (drop - 16) % 2 ^ 16
    let n := if 0x8000 < g || (g == 0x8000 && n % 2 == 1) then n + 1 else n
    sgn * 2 ^ (F.bits - 1) + n * 2 ^ drop

end Sys2Proof.Machine
end

