-- ==== Sys2Proof/Machine/Flags.lean ====
section
/-! DEFINITION. Flag computations (spec/08_number_formats.md R168 to R171): the word `FPFLAGS`, its merge, and saturation. -/
namespace Sys2Proof.Machine

/-- `FPFLAGS` with the flags raised ORed in; its reserved bits stay zero (R168, R169). -/
def mergeFlags (w : Word) (f : Flags) : Word := w ||| f.setWidth 32

/-- What a write of `FPFLAGS` stores: bits [31:6] are ignored (R386). -/
def writeFlags (x : Word) : Word := x &&& 0x3F

/-- A saturating result: clamped to the type, with SAT when it clamps (R170, R281). -/
def saturate (ty : Nat) (x : Int) : Int × Flags :=
  if intMax ty < x then (intMax ty, flSAT)
  else if x < intMin ty then (intMin ty, flSAT)
  else (x, 0)

end Sys2Proof.Machine
end

