-- ==== Sys2Proof/Machine/State.lean ====
section
/-! DEFINITION. The state of a Filgon package: plain data, every piece the spec names (INVENTORY.md '## State' lists each
with its rule), the two stops of a step, and the machine at reset. Keys: a team is `handle * 2^24 + team`, a group
`handle * 2^29 + team * 2^5 + group`, a cluster `handle * 2^24 + cluster`, a core `die * 144 + core`, a slot
`core * 4 + slot`, a quad `die * 36 + quad`, an owner `die * 16 + slice` or `64 + die` for a launch unit. -/
namespace Sys2Proof.Machine

/-- Why the machine stops. -/
inductive Fault where
  /-- Raised by `step` for a control core whose fetch, load or store reaches a physical address that nothing backs (R125), or where the
  control-core range has no register (R53): the spec gives that access no effect. Safe: the model stops. -/
  | hartUnbacked
  deriving DecidableEq, Repr

/-- Why the model gives no meaning. -/
inductive Refusal where
  /-- Raised by an arm of `exec` for an instruction that has no meaning yet. Safe. -/
  | notModelled (mnemonic : String)
  deriving DecidableEq, Repr

/-- An integer as the spec counts it, an address or a handle. -/
abbrev GroupId := Nat

/-- One reconvergence mask (R98). -/
structure Mask where
  enrolled : Lanes := 0
  arrived : Lanes := 0
  deriving DecidableEq, Repr

/-- The trap state of a group (R385). -/
structure TrapState where
  cause : Nat := 0
  pc : Dword := 0
  addr : Dword := 0
  lanes : Lanes := 0
  info : Dword := 0
  deriving DecidableEq, Repr

/-- What a trap handler's entry saved (R117): lane PCs, WAITING, the lanes that each mask's `WAITM` held last, the latches, and the lanes
that entered. -/
structure Handler where
  pcs : Row64
  waiting : Lanes
  stood : List Lanes
  latches : List Row64
  lvalid : BitVec 4
  entered : Lanes
  deriving DecidableEq, Repr

/-- A request without its complete reply (R40, R41): the checkpoint's entry and what its delivery needs. -/
structure OutReq where
  serial : Word
  opkg : BitVec 16
  owner : Nat
  lanes : Lanes
  tries : Nat
  /-- First-try flag: no earlier transmission was made. -/
  first : Bool
  /-- 1 on every transmission (R47, R48). -/
  replay : Bool
  watermarked : Bool
  /-- Not yet sent: an older request to the line has no reply (R39). -/
  held : Bool
  /-- Times of transmission 1 and of the end of the wait in force, and whether a busy reply set that wait. -/
  start : Nat
  next : Nat
  busy : Bool
  pc : Dword
  packet : Packet
  /-- Numbers the requests of the group in the order of their sending, and in the order of their instructions. -/
  seq : Nat
  order : Nat
  /-- The port of its last transmission (R35). -/
  port : Option Nat
  /-- An entry that a resume restored: its re-execution sends it again (R47). -/
  restored : Bool
  /-- Lanes whose access is an acquire event (R148). -/
  acq : Lanes
  deriving DecidableEq, Repr

/-- A result that has not landed (R107): the registers and lanes still to be written, and the rows once they arrived. -/
structure Late where
  /-- Serial of the request, or number of the operation. -/
  serial : Word
  owner : Option Nat
  /-- Destination registers in the order of the result's words. -/
  dst : List Nat
  regs : List (Nat × Lanes)
  rows : List (Nat × Row)
  ready : Bool
  deriving DecidableEq, Repr

/-- An operation whose outcome is unknown, not yet delivered (R42). -/
structure Unknown where
  serial : Word
  /-- The serial or the number that matches its requests with their replies, and whether they are watermarked. -/
  op : Word
  wm : Bool
  reason : Nat
  lanes : Lanes
  pc : Dword
  va : Dword
  /-- Destination registers of the operation. -/
  regs : List (Nat × Lanes)
  /-- Its class of R355 and its place among the operations of that class, when it has one. -/
  cls : Option (Nat × Nat)
  /-- Its instruction's number. -/
  seq : Nat
  /-- The bytes that an atomic names: package, first address, length (R335). -/
  data : List (BitVec 16 × Nat × Nat)
  deriving DecidableEq, Repr

/-- An operation counted in a class that retires in issue order, `.rem` or `.mat` (R355). -/
structure RemOp where
  /-- Its serial; none for one that sends no request. -/
  serial : Option Word
  /-- Its place among the group's operations of the class. -/
  seq : Nat
  done : Bool
  /-- Of a `.mat` operation: its number, and the handles that it names. -/
  id : Nat := 0
  names : List Word := []
  deriving DecidableEq, Repr

/-- A code table (R139). -/
structure CodeTable where
  nibble : Bool
  maxLen : Nat
  counts : List Nat
  syms : List Nat
  deriving DecidableEq, Repr

/-- Where a copy stands (R69, R137). -/
inductive CopyState where
  | running
  | parked (fault : Word)
  /-- Ended with COPY_FAILED at an untranslated address. -/
  | failed (addr : Dword)
  | done
  deriving DecidableEq, Repr

/-- A packet of a copy that its peer has not answered (R36): write chunk or read request, transmissions, the end of the wait in
force, the start of the schedule. -/
structure CopyMsg where
  packet : Packet
  tries : Nat
  next : Nat
  start : Nat
  /-- The port of its last transmission (R35). -/
  port : Option Nat
  deriving DecidableEq, Repr

/-- A copy in flight (R110, R348 to R351). `kind`: 0 `CPY`, 1 `CPY2`, 2 `CPYX`, 3 `CPYP`. -/
structure Copy where
  id : Nat
  /-- Its place among the group's copies. -/
  seq : Nat
  kind : Nat
  ob : Bool
  handle : Word
  dst : Dword
  src : Dword
  /-- Length, element count, or row bytes of `CPY2`. -/
  len : Nat
  rows : Nat
  dstride : Dword
  sstride : Dword
  /-- Planes and type of `CPYP`. -/
  planes : Nat
  elem : Nat
  slot : Nat
  table : Option CodeTable
  lane : Nat
  run : Lanes
  pc : Dword
  /-- Next chunk (R137), the address of its stream block (R141), and the bytes of a `CPYP` block that its last chunk has left (R350). -/
  chunk : Nat
  spos : Dword
  rest : List Byte
  state : CopyState
  /-- Packets not answered. -/
  unacked : List CopyMsg
  /-- Bytes that read requests of this chunk have brought: package, physical address, bytes. -/
  got : List (BitVec 16 × Nat × List Byte)
  /-- The chunk's bytes are written; its remote parts wait for their acknowledgements. -/
  written : Bool
  /-- Scratchpad lines (team, line of the team's scratchpad) whose count this copy still holds (R123). -/
  lines : List (Nat × Nat)
  /-- Orders the copies of all groups by their issue. -/
  born : Nat
  deriving DecidableEq, Repr

/-- A failure that waits for its `WAITC` (R116, R352): cause, address, the operation's PC and lanes, and its place among the
group's copies or tile operations. -/
structure Deferred where
  seq : Nat
  cause : Nat
  addr : Dword
  pc : Dword
  lanes : Lanes
  deriving DecidableEq, Repr

/-- A place that an engine operation writes, translated at its issue: as `Place`. -/
structure Target where
  kind : Nat
  core : Nat
  pa : Nat
  pkg : BitVec 16
  va : Dword
  pf : Bool
  stride : Nat
  order : Nat
  deriving DecidableEq, Repr

/-- An engine operation issued and not retired (R88, R363, R366): its sizes, the register rows that its issue collected, the
places that `MWR.mem` writes, row by row. -/
inductive MatKind where
  | mma (m n k : Nat) (rnd : BitVec 3) (rows : List Row)
  | mrd (vd : Nat) (m n : Nat)
  | mwr (m n : Nat) (rows : List Row)
  | mwrMem (m n : Nat) (places : List Target)
  | mzero
  deriving DecidableEq, Repr

/-- One `.mat` operation: the handles and records that it read at its issue. -/
structure MatOp where
  id : Nat
  kind : MatKind
  b : Word
  c : Word
  recB : Dword
  recC : Dword
  pc : Dword
  /-- The serial that it took, when it writes another package (R38), and its place in the group's order. -/
  serial : Option Word
  order : Nat
  deriving DecidableEq, Repr

/-- The tile operations that need a pass (R368). -/
inductive TileKind where
  | tzero | tmac | tadd | trnd | tdense | tcomp | tlu | ttrs | tsamp
  deriving DecidableEq, Repr

/-- A page that a tile operation translated (R213): its number, where it lies (on package, CXL, another package), its base, its
package, the plane stride, the PF bit and its page kind. -/
structure TilePage where
  page : Nat
  kind : Nat
  pa : Nat
  pkg : BitVec 16
  stride : Nat
  pf : Bool
  order : Nat
  deriving DecidableEq, Repr

/-- One `.tile` operation: its deckles, its flags, the physical places that its issue translated, the armed record. -/
structure TileOp where
  id : Nat
  /-- Its place among the group's tile operations. -/
  seq : Nat
  kind : TileKind
  c : Dword
  a : Dword
  b : Dword
  flags : BitVec 3
  pages : List TilePage
  armed : Dword
  pc : Dword
  /-- The serial that it took, when it may write another package (R38), and its place in the group's order. -/
  serial : Option Word
  order : Nat
  deriving DecidableEq, Repr

/-- A step that a lane of a parked `LDFE` or `STFE` has taken (R325): the word, by core and address, its data before the step; whether the
word's state has changed since, so that the step cannot be undone (R108). -/
structure FeStep where
  lane : Nat
  core : Nat
  pa : Nat
  data : Word
  seen : Bool
  deriving DecidableEq, Repr

/-- A parked instruction (R92): the lanes that have not taken their step; whether it has not begun, because a scratchpad
line was absent (R123). -/
structure Wait where
  i : Instr
  run : Lanes
  pc : Dword
  left : Lanes
  absent : Bool
  /-- When it parked, or last polled (R160). -/
  since : Nat
  /-- Of an `LDFE` or `STFE`: the steps taken. -/
  taken : List FeStep := []
  deriving DecidableEq, Repr

/-- A group's checkpoint (R109). (DESIGN CHOICE: assumption 15.) -/
structure Ckpt where
  pcs : Row64
  exited : Lanes
  waiting : Lanes
  masks : List Mask
  stand : List Lanes
  first : Nat
  last : Nat
  /-- The live range is empty. -/
  none : Bool
  ycount : Nat
  ylane : Nat
  /-- The next bundle is a yield bundle (R295). -/
  yforce : Bool
  fpflags : Word
  trap : TrapState
  wserial : Word
  rstart : Word
  tstart : Word
  hold : Bool
  outs : List OutReq
  replay : Word
  regs : Tab Row
  /-- The lanes stand at a `BAR` whose arrival is made (R108). -/
  bar : Bool
  /-- Tile operations, copies and requests issued before the region, and the unknown outcomes that it found. -/
  nTile : Nat
  nCopy : Nat
  nReq : Nat
  unknowns : List Unknown
  /-- Failures of copies and of tile operations issued before the region, delivered in it (R113, R116). -/
  copyFails : List Deferred := []
  tileFail : Option Deferred := Option.none
  /-- Steps of an `LDFE` or `STFE` that a pre-emption could not undo: PC, lane, data (R108). -/
  steps : List (Dword × Nat × Word) := []
  deriving DecidableEq, Repr

/-- The A operand that a group holds for a chain of `MMA` (R365). -/
structure HeldA where
  gid : GroupId
  va : Nat
  fmt : Nat
  k : Nat
  rows : List Row
  deriving DecidableEq, Repr

def zeroRow : Row := Vector.replicate 32 0
def zeroRow64 : Row64 := Vector.replicate 32 0

/-- A group context (R95, R97, R98, R100, R104, R338). -/
structure Group where
  live : Bool := false
  team : Nat := 0
  ck : Nat := 0
  /-- Slot that hosts it, first band, bands. -/
  slot : Nat := 0
  band : Nat := 0
  nbands : Nat := 0
  regs : Tab Row := []
  pcs : Row64 := zeroRow64
  exited : Lanes := 0
  waiting : Lanes := 0
  masks : List Mask := []
  /-- For each mask, the lanes whose latest wait was at it. -/
  stand : List Lanes := []
  latches : List Row64 := []
  lvalid : BitVec 4 := 0
  ycount : Nat := 0
  ylane : Nat := 31
  /-- The next bundle is a yield bundle (R295). -/
  yforce : Bool := false
  fpflags : Word := 0
  trap : TrapState := {}
  handler : Option Handler := none
  wserial : Word := 0
  rstart : Word := 0
  tstart : Word := 0
  hold : Bool := false
  replay : Word := 0
  outs : List OutReq := []
  rem : List RemOp := []
  first : Nat := 0
  last : Nat := 0
  noLive : Bool := true
  ckpt : Option Ckpt := none
  /-- The lanes stand at a `BAR` whose arrival is made. -/
  inBar : Bool := false
  copies : List Copy := []
  copyFails : List Deferred := []
  mats : List MatOp := []
  /-- The `.mat` operations counted (R355): those of `mats`, and older or younger ones until every older one is complete. -/
  matOps : List RemOp := []
  tiles : List TileOp := []
  tileFail : Option Deferred := none
  late : List Late := []
  unknowns : List Unknown := []
  wait : Option Wait := none
  /-- Arrival and departure counts at `.team` and at `.cluster` (R338). -/
  arT : Word := 0
  dpT : Word := 0
  arC : Word := 0
  dpC : Word := 0
  prio : Nat := 0
  /-- When it last issued, in which step, and when its team was placed or resumed (R91). -/
  lastIssue : Nat := 0
  lastStep : Nat := 0
  placedAt : Nat := 0
  /-- Parked for relocation until this time (R82). -/
  movingTill : Nat := 0
  /-- Stopped for a pre-emption, a freeze or an end (R64, R86, R235). -/
  stopped : Bool := false
  /-- Numbers copies, engine operations and loads. -/
  nextOp : Nat := 1
  /-- Copies, tile, `.mat` and `.rem` operations issued so far (R355). -/
  nCopy : Nat := 0
  nTile : Nat := 0
  nMat : Nat := 0
  nRem : Nat := 0
  nReq : Nat := 0
  /-- Owners that a release notice is due to: package, owner, since when (R45). -/
  notices : List (BitVec 16 × Nat × Nat) := []
  /-- The launch unit that each `LAUNCH` not yet acknowledged asked, by its serial (R384). -/
  units : List (Word × Nat) := []
  /-- Steps that its replay's `LDFE` or `STFE` does not take again: PC, lane, data (R108). -/
  steps : List (Dword × Nat × Word) := []
  deriving DecidableEq, Repr

/-- One chunk of a store buffer (R240): location (on package, CXL or a remote package), physical address, byte mask. -/
structure Chunk where
  loc : Nat
  pa : Nat
  mask : BitVec 16
  bytes : List Byte
  /-- The pages by which its stores reached it: page number and shift (R136). -/
  pages : List (Nat × Nat)
  deriving DecidableEq, Repr

/-- An extent of a tile pool (R204, R373): base, top class, units, and the address of its allocation state, 2 bits per block
of class 0. -/
structure Extent where
  base : Dword
  top : Nat
  units : Nat
  die : Nat
  area : Nat
  /-- Some page of it lay in another package when `TPOOL` checked it. -/
  far : Bool
  /-- Free and allocated blocks: class, address. -/
  free : List (Nat × Nat)
  used : List (Nat × Nat)
  deriving DecidableEq, Repr

/-- What a system-pool allocation is for (R127). -/
inductive AreaKind where
  | checkpoint (group : Nat) | team | save (handle : Word) | tile (pool : Nat) | store
  deriving DecidableEq, Repr

/-- A system-pool allocation: team, die, physical base, bytes (R127). -/
structure Area where
  kind : AreaKind
  team : Nat
  die : Nat
  base : Nat
  size : Nat
  deriving DecidableEq, Repr

/-- A reservation of the operand buffer (R357, R358). -/
structure Resv where
  handle : Word
  launch : Word
  team : Nat
  granule : Nat
  count : Nat
  record : Dword
  save : Nat
  /-- Contents while the team is not resident. -/
  saved : List Byte
  deriving DecidableEq, Repr

/-- A vector in a channel queue (R343): sending member, launch, words. -/
structure QVec where
  sender : Nat
  launch : Word
  words : Row
  deriving DecidableEq, Repr

/-- A team (R72, R79, R110, R121, R219). -/
structure Team where
  live : Bool := false
  handle : Word := 0
  index : Nat := 0
  ck : Nat := 0
  /-- Core that hosts it while resident, and its physical scratchpad units (R79). -/
  core : Nat := 0
  resident : Bool := false
  units : List Nat := []
  started : Bool := false
  pbase : Dword := 0
  psize : Nat := 0
  ends : Nat := 0
  ended : Bool := false
  committed : Bool := false
  buffer : List Chunk := []
  pools : List (List Extent) := []
  /-- Armed check records: group, address (R211). -/
  armed : List (Nat × Dword) := []
  lastResv : Nat := 0
  resvs : List Resv := []
  /-- Scratchpad while not resident: bytes, full words, pending counts (R86). -/
  pad : Tab Byte := []
  full : Tab Bool := []
  pend : Tab Nat := []
  queues : List QVec := []
  deriving DecidableEq, Repr

/-- Where a cluster stands. -/
inductive ClusterState where
  | none | pending | placed
  /-- A pre-emption has begun; then its state is saved while its resources are still its own (R86). -/
  | saving | saved
  | frozen | ended
  deriving DecidableEq, Repr

/-- The snapshot of a consumption (R235, R238). -/
structure Snapshot where
  gid : GroupId
  source : Nat
  die : Nat
  unit : Nat
  pc : Dword
  lanes : Lanes
  addr : Dword
  time : Nat
  deriving DecidableEq, Repr

/-- A cluster (R72, R73, R85, R236). -/
structure Cluster where
  state : ClusterState := .none
  handle : Word := 0
  index : Nat := 0
  die : Nat := 0
  origin : Nat := 0
  since : Nat := 0
  /-- When it became blocking (R73), once told. -/
  blocking : Option Nat := none
  resumed : Bool := false
  /-- The step of its placement (R84). -/
  placedAt : Nat := 0
  movedAt : Option Nat := none
  /-- Die and origin that a move found for it, and clusters moved for it since it became pending (R85). -/
  target : Option (Nat × Nat) := none
  moves : Nat := 0
  relaunches : Nat := 0
  barred : List Nat := []
  snap : Option Snapshot := none
  deriving DecidableEq, Repr

/-- Where a launch stands (R61 to R65). -/
inductive LaunchState where
  | none | queued | running | ending | ended
  deriving DecidableEq, Repr

/-- A handle-table entry (R59, R62): the record's fields and what the launch unit keeps. -/
structure Launch where
  state : LaunchState := .none
  handle : Word := 0
  ctx : BitVec 16 := 0
  entry : Dword := 0
  param : Dword := 0
  handler : Dword := 0
  done : Dword := 0
  teams : Nat := 0
  groups : Nat := 0
  regs : Nat := 0
  cw : Nat := 0
  ch : Nat := 0
  scratch : Nat := 0
  prio : Nat := 0
  queue : Nat := 0
  lease : Nat := 0
  migratable : Bool := false
  relaunch : Bool := false
  determ : Bool := false
  watchdog : Nat := 0
  /-- Dependences whose answer has not arrived, and the answers under way: a dependence with its cause (R62). -/
  deps : List Word := []
  answers : List (Word × Nat) := []
  accepted : Nat := 0
  /-- Orders the dispatches; 0 before its own. -/
  dispatched : Nat := 0
  /-- Time during which some team was resident, in ns (R64). -/
  resident : Nat := 0
  cause : Nat := 0
  team : Nat := 0
  /-- The step of its end (R62). -/
  endedAt : Nat := 0
  /-- Packages that it addressed (R45). -/
  pkgs : List (BitVec 16) := []
  /-- Die of its last placed cluster (R75). -/
  lastDie : Option Nat := none
  report : Dword := 0
  spills : Nat := 0
  dups : Nat := 0
  held : Nat := 0
  flags : BitVec 6 := 0
  /-- Other packages whose slices have drained it (R224). -/
  reported : List (BitVec 16) := []
  deriving DecidableEq, Repr

/-- A result-cache entry (R43). -/
structure Entry where
  src : BitVec 16
  handle : Word
  key : BitVec 48
  serial : Word
  lanes : Lanes
  /-- Lane, lane check, returned words, poison mark. -/
  recs : List (Nat × BitVec 16 × List Word × Bool)
  flags : BitVec 6
  /-- Its backing has an uncorrectable error (R46). -/
  lost : Bool
  deriving DecidableEq, Repr

/-- A key-directory record (R43). -/
structure DirRec where
  src : BitVec 16
  handle : Word
  key : BitVec 48
  floor : Word
  newest : Word
  deriving DecidableEq, Repr

/-- A held update (R221): package and launch, address, operation, operand, issuer index. -/
structure HeldOp where
  src : BitVec 16
  launch : Word
  pa : Nat
  code : BitVec 5
  w64 : Bool
  signed : Bool
  rnd : BitVec 3
  operand : Dword
  team : Nat
  group : Nat
  lane : Nat
  serial : Word
  /-- The context and the address by which it was reached (R136). -/
  ctx : BitVec 16
  va : Dword
  deriving DecidableEq, Repr

/-- A counted line (R49, R380 to R382). -/
structure CLine where
  pa : Nat
  word : Word
  gen : Word
  rnd : BitVec 3
  slots : List (Option (List Dword))
  error : Bool
  deriving DecidableEq, Repr

/-- What an owner's restart has left (R46). -/
inductive Phase where
  | serving
  /-- Restarting: until when, whether the backing is lost, and the end of a quarantine that was under way. -/
  | silent (till : Nat) (lost : Bool) (quarantine : Option Nat)
  | quarantine (till : Nat)
  deriving DecidableEq, Repr

/-- The mark that a launch has ended (R44, R45): package, handle, when the notice was processed; a forgotten one stays without force while a
duplicate of the notice can still come, which is known as one by it: until 750 µs after the last. -/
structure EndMark where
  src : BitVec 16
  handle : Word
  since : Nat
  live : Bool
  last : Nat
  deriving DecidableEq, Repr

/-- An owner: a memory slice's service group, or a launch unit (R36, R43, R46, R221, R380). -/
structure Owner where
  cache : List Entry := []
  dir : List DirRec := []
  ended : List EndMark := []
  incarn : BitVec 16 := 0
  phase : Phase := .serving
  hold : List HeldOp := []
  log : List (List HeldOp) := []
  lines : List CLine := []
  deriving DecidableEq, Repr

/-- An access count (R134): context, leaf page base and size, value. -/
structure AccCount where
  ctx : BitVec 16
  page : Nat
  count : Nat
  deriving DecidableEq, Repr

/-- A monitor (R160): group, lane, 128-byte line, and the line's value when it was last read. -/
structure Monitor where
  gid : GroupId
  lane : Nat
  line : Nat
  value : Nat
  deriving DecidableEq, Repr

/-- A fault-log record before it is written (R68). -/
structure LogRec where
  kind : Nat
  handle : Word
  id : Dword
  code : Word
  flags : Word := 0
  pc : Dword := 0
  addr : Dword := 0
  lanes : Lanes := 0
  chunk : Word := 0
  info : Dword := 0
  deriving DecidableEq, Repr

/-- A die (R10, R21, R25, R67, R69, R129, R134, R160). -/
structure Die where
  stage : Nat := 0
  slot : Nat := 0
  stageAt : Nat := 0
  /-- Operating point, clock in MHz, windows below the threshold, time until which it stays at N (R227). -/
  point : Nat := 0
  mhz : Nat := 850
  quiet : Nat := 0
  holdN : Nat := 0
  /-- Of the governor's window (R227): glint replays, and whether a residue mismatch or an uncorrectable error occurred. -/
  winReplays : Nat := 0
  winError : Bool := false
  /-- A change of point under way ends by this time (R22). -/
  changing : Option Nat := none
  cappedHot : Option Nat := none
  cycles : Dword := 0
  logBase : Dword := 0
  logProd : BitVec 12 := 0
  logCons : BitVec 12 := 0
  logWait : List LogRec := []
  /-- Unanswered copy faults: FAULTID, group, copy (R69). -/
  copyFaults : List (Word × GroupId × Nat) := []
  nextFault : Word := 1
  invVa : BitVec 44 := 0
  invCtx : BitVec 16 := 0
  invOp : BitVec 2 := 0
  /-- An invalidation under way: its operation, page and context (R136). BUSY reads 1. -/
  inval : Option (BitVec 2 × BitVec 44 × BitVec 16) := none
  acThresh : Word := 0
  ordSize : BitVec 9 := 0
  ordPending : Option (BitVec 9) := none
  counts : List AccCount := []
  areas : List Area := []
  monitors : List Monitor := []
  nextSeq : Nat := 16
  /-- Quads removed from placement (R231). -/
  quadsOut : List Nat := []
  /-- Channel temperatures at their last training (R14). -/
  trained : Tab Nat := []
  deriving DecidableEq, Repr

/-- A core (R79, R123, R124, R142, R290, R343): physical scratchpad bytes, full words, pending counts of lines. -/
structure CoreSt where
  pad : Tab Byte := []
  full : Tab Bool := []
  pend : Tab Nat := []
  clearing : List Nat := []
  tables : Tab (Option CodeTable) := []
  pats : Tab Byte := []
  /-- Inbound vectors, oldest first; each names its sending member. -/
  queue : List QVec := []
  deriving DecidableEq, Repr

/-- An issue slot (R91, R95, R103, R365). -/
structure Slot where
  cur : Option GroupId := none
  quantum : Nat := 0
  /-- The quantum has ended (R91, R295). -/
  expired : Bool := false
  ocache : List Nat := []
  heldA : Option HeldA := none
  clearing : List Nat := []
  /-- Bundles issued in the governor's window (R227). -/
  issued : Nat := 0
  deriving DecidableEq, Repr

/-- An entry of a quad's reservation table (R88, R89). -/
structure PassReq where
  gid : GroupId
  base : Nat
  arrival : Nat
  lost : Nat
  deriving DecidableEq, Repr

/-- A pass (R89, R229, R230): its group, the operations left of its lease, when an engine instruction of the group was last ready, the
numbers of the operations issued in it, the ranges that it locks. -/
structure Pass where
  gid : GroupId
  left : Nat
  readyAt : Nat
  ops : List Nat
  locked : List Word
  deriving DecidableEq, Repr

/-- A quad (R88, R229, R357). -/
structure Quad where
  ob : Tab Byte := []
  resvs : List Resv := []
  clearing : List Nat := []
  table : List PassReq := []
  admission : List PassReq := []
  /-- The pass in force, and those that have ended and not retired, oldest first. -/
  pass : Option Pass := none
  past : List Pass := []
  spares : Nat := 0
  deriving DecidableEq, Repr

/-- The privilege modes of a hart (R58). -/
inductive HartMode where
  | m | s | u | vs | vu
  deriving DecidableEq, Repr

/-- A hart (R2, R52, R58, R239): an RV64GC core with the supervisor and the hypervisor extension (assumption 9). -/
structure Hart where
  regs : Tab Dword := []
  fregs : Tab Dword := []
  /-- Accrued flags and rounding mode. -/
  fcsr : Nat := 0
  pc : Dword := 0
  mode : HartMode := .m
  mstatus : Dword := 0
  mtvec : Dword := 0
  mepc : Dword := 0
  mcause : Dword := 0
  mtval : Dword := 0
  medeleg : Dword := 0
  hedeleg : Dword := 0
  stvec : Dword := 0
  sepc : Dword := 0
  scause : Dword := 0
  stval : Dword := 0
  vstvec : Dword := 0
  vsepc : Dword := 0
  vscause : Dword := 0
  vstval : Dword := 0
  vsstatus : Dword := 0
  hstatus : Dword := 0
  satp : Dword := 0
  /-- The other control and status registers that hold what is written, by number. -/
  csrs : Tab Dword := []
  /-- The reservation of an LR: a 128-byte line of memory. -/
  reserved : Option Nat := none
  deriving DecidableEq, Repr

/-- An Ethernet port (R19, R20): frames received, each with its buffer's address, its timestamp and the outcome of the
checksum offload; frames sent, each with its timestamp. -/
structure EthPort where
  up : Bool := false
  rx : List (EthFrame × Nat × Nat × Bool) := []
  tx : List (EthFrame × Nat) := []
  replies : List EthFrame := []
  dropped : Nat := 0
  deriving DecidableEq, Repr

/-- A CXL root port (R16). -/
structure CxlPort where
  trained : Bool := false
  width : Nat := 0
  rate : Nat := 0
  /-- Devices that the runtime enumerated behind it and that are present (R71). -/
  devices : Nat := 0
  /-- The device that training found, and whether its kind is unsupported. -/
  device : CxlDevice := {}
  unsupported : Bool := false
  deriving DecidableEq, Repr

/-- A host-managed decoder (R17): its range, the root ports that it interleaves, its granularity. -/
structure Decoder where
  base : Nat
  size : Nat
  ports : List Nat
  gran : Nat
  deriving DecidableEq, Repr

/-- A capability entry (R70, R71). -/
structure Cap where
  id : BitVec 16
  version : BitVec 16
  payload : Dword
  deriving DecidableEq, Repr

/-- The verified image's header fields (R24). -/
structure Image where
  pkgnum : BitVec 16 := 0
  placed : Nat := 0
  mgmt : Byte := 0
  version : Dword := 0
  rollver : Dword := 0
  ok : Bool := false
  deriving DecidableEq, Repr

/-- The fuses (R24). -/
structure Fuses where
  digest0 : List Byte := []
  digest1 : List Byte := []
  revoked0 : Bool := false
  revoked1 : Bool := false
  rollback : Dword := 0
  deriving DecidableEq, Repr

/-- A runtime extent (R143). -/
structure RtExtent where
  ctx : BitVec 16
  va : Nat
  pa : Nat
  frames : Nat
  deriving DecidableEq, Repr

/-- A cached translation (R135): context, virtual page, page shift, entry. -/
structure TlbEntry where
  die : Nat
  ctx : BitVec 16
  page : Nat
  shift : Nat
  entry : Dword
  deriving DecidableEq, Repr

/-- A request in a firmware service's mailbox (R387): the service, what the request names, the step of its posting. -/
structure SvcReq where
  service : BitVec 16
  ctx : BitVec 16
  gid : GroupId
  pc : Dword
  wserial : Word
  addr : Dword
  posted : Nat
  deriving DecidableEq, Repr

/-- A release notice that waits for its acknowledgement (R45). -/
structure Release where
  handle : Word
  pkg : BitVec 16
  sends : Nat
  next : Nat
  port : Option Nat
  deriving DecidableEq, Repr

/-- The counted records (R29, R30, R242). -/
inductive Rec where
  /-- A lane column: slot and lane. -/
  | glintSlot (slot lane : Nat) | glintEngine (quad : Nat)
  | residue (quad : Nat) | sparesUsed (quad : Nat)
  /-- Storage: a source code of R236, its die, and its unit: a slot of the die for a register file, a core, a quad's lowest core, a
  memory bank. -/
  | ecc (source die unit : Nat) (uncorrectable : Bool)
  | crcFail (port : Nat) | retransmits (port : Nat)
  /-- Kept in windows of 1 ms, read in seconds. -/
  | temperature (die bin : Nat) | residency (die point : Nat)
  | freezes (die : Nat) | relaunches (die : Nat) | uncorrectableEnds (die : Nat)
  | spills (slice : Nat) | logFull (slice : Nat)
  | monitorOverflow (die : Nat) | noticeResends (die : Nat)
  | duplicates (owner : Nat) | stale (owner : Nat) | discarded
  deriving DecidableEq, Repr

/-- Which agent moves next (assumption 4). -/
inductive Turn where
  /-- The slot `4 * core + slot` issues a bundle. -/
  | slot (slot : Nat)
  /-- The hart fetches and executes. -/
  | hart (hart : Nat)
  /-- A step that no word encodes. -/
  | event (i : Instr) (inp : Input)
  /-- Time passes: nanoseconds, and what the governor measures in each window that must end meanwhile (R23). -/
  | tick (ns : Nat) (meas : List (List DieMeas) := [])
  /-- A translation of a context enters the caches (R135). -/
  | fill (die : Nat) (ctx : BitVec 16) (va : Dword)
  /-- The firmware service answers a control core's request for a record (R29, R30): a live counter, or a field record, into `rd`. -/
  | record (hart : Nat) (rd : BitVec 5) (live : Bool) (r : Rec)
  /-- The runtime reclaims the extent at the tail of its inactive list (R143). -/
  | reclaim
  /-- The runtime enumerates CXL (R17): its decoders, the devices that it finds behind each root port. -/
  | enumerate (decoders : List Decoder) (devices : List Nat)
  deriving DecidableEq, Repr, Inhabited

/-- The turn that comes when the schedule names none: any (assumption 4). -/
opaque freeTurn : Nat → Turn

/-- The issue stage (R95): the group and the run that issue, their PC; the hart for a control-core word. -/
structure Issue where
  gid : GroupId := 0
  run : Lanes := 0
  pc : Dword := 0
  hart : Nat := 0
  /-- The bundle is a yield bundle, and YLANE after it (R93). -/
  yield : Bool := false
  yend : Nat := 0
  /-- The word was a `YIELD` that leaves two or more runs (R295). -/
  yielded : Bool := false
  /-- The word in hand issued; it did not stall or trap. -/
  issued : Bool := false
  deriving DecidableEq, Repr

/-- The package. -/
structure State where
  now : Nat
  sched : List Turn
  fresh : Nat
  iss : Issue
  inp : Input
  powered : Bool
  tripped : Bool
  fuses : Fuses
  flash : Tab Byte
  image : Image
  errCode : Byte
  errDie : BitVec 4
  ready : Bool
  readyAt : Nat
  warm : Bool
  rate : Nat
  capPa : Dword
  capVa : Dword
  caps : List Cap
  ctxBase : Dword
  fabUp : BitVec 32
  links : List (Nat × Nat)
  retries : Tab Nat
  eth : List EthPort
  cxl : List CxlPort
  decoders : List Decoder
  removed : List (Nat × Nat)
  mem : List Host.Cell
  poison : Tab Bool
  tlb : List TlbEntry
  net : List Packet
  fieldNow : List (Rec × Nat)
  fieldSaved : List (Rec × Nat)
  live : List (Rec × Nat)
  /-- When the field records were last flushed (R29). -/
  flushedAt : Nat
  /-- The end of the governor's last window (R23, R227). -/
  windowAt : Nat
  active : List RtExtent
  inactive : List RtExtent
  dies : Tab Die
  owners : Tab Owner
  cores : Tab CoreSt
  slots : Tab Slot
  quads : Tab Quad
  harts : Tab Hart
  launches : Tab Launch
  queues : Tab (List Word)
  clusters : Tab Cluster
  teams : Tab Team
  groups : Tab Group
  releases : List Release
  retired : List (Word × Nat)
  /-- The services' mailboxes (R387), oldest request first. -/
  mailbox : List SvcReq
  deriving DecidableEq, Repr

/-- What an unlisted byte of physical memory reads as: zero. LPDDR-6 holds zero when READY rises (R15); for the placed
region and CXL memory the spec gives no value (assumption 2). -/
def State.emptyByte : Byte := 0

/-- The package as power is applied, before power-good (R25): READY 0, no error, no image verified, every die before stage
0x1 and at point N, nothing in flight. The spec gives no value for the rest (assumption 1). -/
def State.reset : State :=
  { now := 0, sched := [], fresh := 0, iss := {}, inp := {}, powered := true, tripped := false, fuses := {}, flash := [],
    image := {}, errCode := 0, errDie := 0, ready := false, readyAt := 0, warm := false, rate := 0, capPa := 0, capVa := 0,
    caps := [], ctxBase := 0, fabUp := 0, links := [], retries := [], eth := [{}, {}], cxl := [{}, {}, {}, {}],
    decoders := [], removed := [], mem := [], poison := [], tlb := [], net := [], fieldNow := [], fieldSaved := [],
    live := [], flushedAt := 0, windowAt := 0, active := [], inactive := [], dies := [], owners := [], cores := [], slots := [],
    quads := [], harts := [], launches := [], queues := [], clusters := [], teams := [], groups := [], releases := [],
    retired := [], mailbox := [] }

end Sys2Proof.Machine
end

