-- ==== Sys2Proof/Machine/Tab.lean ====
section
/-! DEFINITION. Sparse tables: pairs of key and value, keys strictly rising, no value equal to the default `d` that an
unlisted key reads as. One canonical form, so that equal tables are equal data. -/
namespace Sys2Proof.Machine

/-- The value at a key. -/
def tabGet {β : Type} (d : β) : Tab β → Nat → β
  | [], _ => d
  | (a, v) :: t, k => if k = a then v else if k < a then d else tabGet d t k

/-- A table without its leading entries up to a key: in a table that follows that key, all of it. -/
def tabSkip {β : Type} (k : Nat) : Tab β → Tab β
  | [] => []
  | (a, x) :: t => if a ≤ k then tabSkip k t else (a, x) :: t

/-- The table with the value at one key replaced; a default removes the entry. -/
def tabSet {β : Type} [DecidableEq β] (d : β) : Tab β → Nat → β → Tab β
  | [], k, v => if v = d then [] else [(k, v)]
  | (a, x) :: t, k, v =>
    if k < a then (if v = d then (a, x) :: t else (k, v) :: (a, x) :: t)
    else if k = a then (if v = d then tabSkip k t else (k, v) :: tabSkip k t)
    else (a, x) :: tabSet d t k v

/-- Keys rise strictly above `lo`, and no value is the default. -/
def tabFrom {β : Type} [DecidableEq β] (d : β) : Nat → Tab β → Bool
  | _, [] => true
  | lo, (a, v) :: t => lo ≤ a && v != d && tabFrom d (a + 1) t

/-- The canonical form. -/
def tabWf {β : Type} [DecidableEq β] (d : β) (t : Tab β) : Bool := tabFrom d 0 t

/-- Every entry at or above `lo` and below `hi` reads as the default. -/
def tabClear {β : Type} (t : Tab β) (lo hi : Nat) : Tab β := t.filter fun e => e.1 < lo || hi ≤ e.1

end Sys2Proof.Machine
end

