-- ==== Sys2Proof/Machine/Ops.lean ====
section
/-! DEFINITION. The named operations over the state: tables, bytes, registers, the fault log, and taking a trap and returning
from one (spec/05_cores_and_execution.md R114 to R118, spec/03_control_cores_and_launch.md R67, R68). -/
namespace Sys2Proof.Machine

/-! ### Tables -/

def State.group (s : State) (k : Nat) : Group := tabGet {} s.groups k
def State.team (s : State) (k : Nat) : Team := tabGet {} s.teams k
def State.cluster (s : State) (k : Nat) : Cluster := tabGet {} s.clusters k
def State.launch (s : State) (h : Word) : Launch := tabGet {} s.launches h.toNat
def State.die (s : State) (d : Nat) : Die := tabGet {} s.dies d
def State.owner (s : State) (o : Nat) : Owner := tabGet {} s.owners o
def State.core (s : State) (c : Nat) : CoreSt := tabGet {} s.cores c
def State.slot (s : State) (n : Nat) : Slot := tabGet {} s.slots n
def State.quad (s : State) (q : Nat) : Quad := tabGet {} s.quads q
def State.hart (s : State) (h : Nat) : Hart := tabGet {} s.harts h

def State.setGroup (s : State) (k : Nat) (g : Group) : State := { s with groups := tabSet {} s.groups k g }
def State.setTeam (s : State) (k : Nat) (t : Team) : State := { s with teams := tabSet {} s.teams k t }
def State.setCluster (s : State) (k : Nat) (c : Cluster) : State := { s with clusters := tabSet {} s.clusters k c }
def State.setLaunch (s : State) (h : Word) (l : Launch) : State := { s with launches := tabSet {} s.launches h.toNat l }
def State.setDie (s : State) (d : Nat) (x : Die) : State := { s with dies := tabSet {} s.dies d x }
def State.setOwner (s : State) (o : Nat) (x : Owner) : State := { s with owners := tabSet {} s.owners o x }
def State.setCore (s : State) (c : Nat) (x : CoreSt) : State := { s with cores := tabSet {} s.cores c x }
def State.setSlot (s : State) (n : Nat) (x : Slot) : State := { s with slots := tabSet {} s.slots n x }
def State.setQuad (s : State) (q : Nat) (x : Quad) : State := { s with quads := tabSet {} s.quads q x }
def State.setHart (s : State) (h : Nat) (x : Hart) : State := { s with harts := tabSet {} s.harts h x }

/-- The group that issues, and the state with it replaced. -/
def State.cur (s : State) : Group := s.group s.iss.gid
def State.setCur (s : State) (g : Group) : State := s.setGroup s.iss.gid g

/-- Keys: a team's of a launch, a group's of a team, and back (see State.lean). -/
def teamKey (h : Word) (t : Nat) : Nat := h.toNat * 2 ^ 24 + t
def groupKey (tk g : Nat) : Nat := tk * 2 ^ 5 + g
def groupTeam (gid : Nat) : Nat := gid / 2 ^ 5
def groupIndex (gid : Nat) : Nat := gid % 2 ^ 5
def teamIndex (tk : Nat) : Nat := tk % 2 ^ 24
def keyHandle (tk : Nat) : Word := BitVec.ofNat 32 (tk / 2 ^ 24)

/-- The launch of a group. -/
def State.launchOf (s : State) (gid : Nat) : Launch := s.launch (keyHandle (groupTeam gid))

/-- Where a slot, a core and a quad stand. -/
def slotCore (sl : Nat) : Nat := sl / 4
def coreDie (c : Nat) : Nat := c / 144
def coreNum (c : Nat) : Nat := c % 144
def coreQuad (c : Nat) : Nat := coreDie c * 36 + coreNum c / 12 / 2 * 6 + coreNum c % 12 / 2

/-- The member number of a core within its quad (R343). -/
def coreMember (c : Nat) : Nat := coreNum c % 2 + 2 * (coreNum c / 12 % 2)

/-- Core `k` of the quad that holds core `c` (R343). -/
def quadCore (c k : Nat) : Nat :=
  let n := coreNum c
  coreDie c * 144 + (n / 12 / 2 * 2 + k / 2) * 12 + n % 12 / 2 * 2 + k % 2

/-! ### Free choices -/

/-- A choice that the spec leaves open (assumption 6): a fresh one for each step and each number. -/
def State.choose (s : State) (k : Nat) : Bool := Config.freeBool (s.fresh * 2 ^ 16 + k)
def State.freeBits (s : State) (k : Nat) : Dword := Config.freeBits (s.fresh * 2 ^ 16 + k)

/-! ### Physical bytes (R7: little-endian) -/

def State.rd (s : State) (pa : Nat) : Byte := tabGet State.emptyByte s.mem pa
def State.wr (s : State) (pa : Nat) (b : Byte) : State := { s with mem := tabSet State.emptyByte s.mem pa b }

/-- The little-endian value of bytes, and the bytes of a value. -/
def leVal : List Byte → Nat
  | [] => 0
  | b :: bs => b.toNat + 256 * leVal bs

def leBytes : Nat → Nat → List Byte
  | 0, _ => []
  | n + 1, x => BitVec.ofNat 8 x :: leBytes n (x / 256)

def State.rdBytes (s : State) (pa : Nat) : Nat → List Byte
  | 0 => []
  | n + 1 => s.rd pa :: s.rdBytes (pa + 1) n

def State.wrBytes (s : State) (pa : Nat) : List Byte → State
  | [] => s
  | b :: bs => (s.wr pa b).wrBytes (pa + 1) bs

def State.rdLe (s : State) (pa n : Nat) : Nat := leVal (s.rdBytes pa n)
def State.wrLe (s : State) (pa n x : Nat) : State := s.wrBytes pa (leBytes n x)

/-- A poison mark on the 128-byte line of a physical address (R234). -/
def State.poisoned (s : State) (pa : Nat) : Bool := tabGet false s.poison (pa / 128)
def State.setPoison (s : State) (line : Nat) (b : Bool) : State := { s with poison := tabSet false s.poison line b }

/-- Poison marks of the lines that one write's pieces cover whole go; a partial write leaves its line's mark (R234). (DEDUCED:
assumption 67.) -/
def State.clearCovered (s : State) (ps : List (Nat × List Byte)) : State :=
  if s.poison.isEmpty then s
  else
    ((ps.map fun p => p.1 / 128).eraseDups).foldl (fun s l =>
      if s.poisoned (l * 128) && (List.range 128).all fun b => ps.any fun p => p.1 ≤ l * 128 + b && l * 128 + b < p.1 + p.2.length then
        s.setPoison l false
      else s) s

/-! ### Rows and registers -/

def laneAt (r : Row) (l : Nat) : Word := r.toArray.getD l 0
def laneAt64 (r : Row64) (l : Nat) : Dword := r.toArray.getD l 0

/-- The row with the lanes of a mask replaced. -/
def rowSet (r : Row) (m : Lanes) (f : Nat → Word) : Row := Vector.ofFn fun i => if m.getLsbD i.val then f i.val else r[i]
def rowSet64 (r : Row64) (m : Lanes) (f : Nat → Dword) : Row64 :=
  Vector.ofFn fun i => if m.getLsbD i.val then f i.val else r[i]

/-- A set of lanes given by a test. -/
def lanesOf (p : Nat → Bool) : Lanes :=
  BitVec.ofNat 32 ((List.range 32).foldl (fun n l => if p l then n + 2 ^ l else n) 0)

/-- The lanes of a set in ascending order, and its lowest one. -/
def lanesList (m : Lanes) : List Nat := (List.range 32).filter fun l => m.getLsbD l
def lowestLane (m : Lanes) : Option Nat := (List.range 32).find? fun l => m.getLsbD l

def allLanes : Lanes := 0xFFFFFFFF

/-- Registers of the allocation (R100). -/
def Group.nregs (g : Group) : Nat := 16 * g.nbands

def Group.reg (g : Group) (r : Nat) : Row := tabGet zeroRow g.regs r
def Group.v (g : Group) (l r : Nat) : Word := laneAt (g.reg r) l
/-- A pair read as 64 bits (R100). -/
def Group.v64 (g : Group) (l r : Nat) : Dword := g.v l (r + 1) ++ g.v l r

/-- A younger write of register `r` in lanes `m` takes them from every older result still to land (R107), and from the
registers of unknown outcomes. -/
def dropRegs (r : Nat) (m : Lanes) (regs : List (Nat × Lanes)) : List (Nat × Lanes) :=
  (regs.map fun p => if p.1 = r then (p.1, p.2 &&& ~~~m) else p).filter fun p => p.2 != 0

def Group.supersede (g : Group) (r : Nat) (m : Lanes) : Group :=
  { g with
    late := g.late.map fun x => { x with regs := dropRegs r m x.regs }
    unknowns := g.unknowns.map fun u => { u with regs := dropRegs r m u.regs } }

/-- A younger operation's destination registers, which it is still to write: no older unknown outcome is read through them
any more (R107). -/
def Group.claim (g : Group) (regs : List (Nat × Lanes)) : Group :=
  { g with unknowns := g.unknowns.map fun u => { u with regs := regs.foldl (fun rs p => dropRegs p.1 p.2 rs) u.regs } }

/-- A register write that lands at once (R107, R258). -/
def Group.setReg (g : Group) (r : Nat) (m : Lanes) (f : Nat → Word) : Group :=
  { g.supersede r m with regs := tabSet zeroRow g.regs r (rowSet (g.reg r) m f) }

def Group.setReg64 (g : Group) (r : Nat) (m : Lanes) (f : Nat → Dword) : Group :=
  (g.setReg r m fun l => (f l).setWidth 32).setReg (r + 1) m fun l => (f l >>> 32).setWidth 32

/-- Every lane of a set moves to PC + 8 (R97). -/
def Group.advance (g : Group) (m : Lanes) : Group :=
  { g with pcs := rowSet64 g.pcs m fun l => laneAt64 g.pcs l + 8 }

def Group.setPcs (g : Group) (m : Lanes) (pc : Nat → Dword) : Group := { g with pcs := rowSet64 g.pcs m pc }

/-- The word in hand issued. -/
def State.markIssued (s : State) : State := { s with iss := { s.iss with issued := true } }

/-- The whole run advances: the word issued. -/
def State.advance (s : State) : State := (s.setCur (s.cur.advance s.iss.run)).markIssued

/-! ### Reconvergence masks (R98) -/

def Group.mask (g : Group) (k : Nat) : Mask := g.masks.getD k {}
def Group.setMask (g : Group) (k : Nat) (m : Mask) : Group :=
  { g with masks := (List.range 12).map fun i => if i = k then m else g.mask i }

/-- The lanes whose saved WAITING state is a wait at mask `k`. -/
def Handler.stands (h : Handler) (k : Nat) : Lanes := h.waiting &&& h.stood.getD k 0

/-- The saved PCs and WAITING bits of lanes of `m` that wait at mask `k`: they go on after their `WAITM` once the handler returns (R98,
R118). -/
def Handler.release (h : Handler) (k : Nat) (m : Lanes) : Handler :=
  let w := m &&& h.stands k
  { h with pcs := rowSet64 h.pcs w fun l => laneAt64 h.pcs l + 8, waiting := h.waiting &&& ~~~w }

/-- The lanes that wait at mask `k` now. -/
def Group.stands (g : Group) (k : Nat) : Lanes := g.waiting &&& g.stand.getD k 0

/-- The lanes of `w` begin to wait at mask `k`. -/
def Group.waitAt (g : Group) (k : Nat) (w : Lanes) : Group :=
  { g with
    waiting := g.waiting ||| w
    stand := (List.range 12).map fun j => if j = k then g.stand.getD j 0 ||| w else g.stand.getD j 0 &&& ~~~w }

/-- The lanes of `m` that wait at mask `k`, now or in their saved state, go on at the PC after their `WAITM`. -/
def Group.goOn (g : Group) (k : Nat) (m : Lanes) : Group :=
  let w := m &&& g.stands k
  { g.advance w with waiting := g.waiting &&& ~~~w, handler := g.handler.map fun h => h.release k m }

/-- R98's release test for one mask: the arrived lanes go on after their `WAITM`. -/
def Group.releaseMask (g : Group) (k : Nat) : Group :=
  let m := g.mask k
  if m.arrived != 0 && m.enrolled &&& ~~~m.arrived == 0 then (g.goOn k m.arrived).setMask k {} else g

def Group.releaseMasks (g : Group) : Group := (List.range 12).foldl Group.releaseMask g

/-! ### Counters that only record (R29, R30, R242) -/

/-- Residency is kept in windows of 1 ms, of which 1,000 make the unit of its record; every other record counts events. -/
def Rec.unit : Rec → Nat
  | .temperature _ _ | .residency _ _ => 1000
  | _ => 1

/-- Every record saturates at 64 bits (R29). -/
def Rec.cap (r : Rec) : Nat := 2 ^ 64 * r.unit - 1

def bump (l : List (Rec × Nat)) (r : Rec) (n : Nat) : List (Rec × Nat) :=
  match l with
  | [] => [(r, min n r.cap)]
  | (a, k) :: t => if a = r then (a, min (k + n) r.cap) :: t else (a, k) :: bump t r n

def recCount (l : List (Rec × Nat)) (r : Rec) : Nat := ((l.find? fun p => p.1 = r).map (·.2)).getD 0

/-- A record as it is read (R29). -/
def recRead (l : List (Rec × Nat)) (r : Rec) : Nat := recCount l r / r.unit

/-- An event counted in the live counters, and in the field records. -/
def State.countLive (s : State) (r : Rec) (n : Nat := 1) : State := { s with live := bump s.live r n }
def State.count (s : State) (r : Rec) (n : Nat := 1) : State :=
  { s with live := bump s.live r n, fieldNow := bump s.fieldNow r n }

/-- A residue mismatch or an uncorrectable error on a die, for the governor (R227). -/
def State.dieError (s : State) (d : Nat) : State := s.setDie d { s.die d with winError := true }

/-! ### The fault log (R67, R68) -/

/-- The 64 bytes of a record (R68). -/
def LogRec.bytes (r : LogRec) : List Byte :=
  leBytes 4 r.kind ++ leBytes 4 r.handle.toNat ++ leBytes 8 r.id.toNat ++ leBytes 4 r.code.toNat ++ leBytes 4 r.flags.toNat
    ++ leBytes 8 r.pc.toNat ++ leBytes 8 r.addr.toNat ++ leBytes 4 r.lanes.toNat ++ leBytes 4 r.chunk.toNat
    ++ leBytes 8 r.info.toNat ++ leBytes 8 0

def Die.logFull (d : Die) : Bool := d.logProd + 1 == d.logCons

/-- A record goes to its die's log; when the log is full its producer waits with it (R67). -/
def State.log (s : State) (d : Nat) (r : LogRec) : State :=
  let x := s.die d
  if x.logFull || !x.logWait.isEmpty then s.setDie d { x with logWait := x.logWait ++ [r] }
  else (s.wrBytes (x.logBase.toNat + 64 * x.logProd.toNat) r.bytes).setDie d { x with logProd := x.logProd + 1 }

/-- The ID field: context, team, group, die, core (R68). -/
def logId (ctx : BitVec 16) (team group die core : Nat) : Dword :=
  BitVec.ofNat 64 (ctx.toNat * 2 ^ 48 + team * 2 ^ 24 + group * 2 ^ 19 + die * 2 ^ 17 + core * 2 ^ 9)

def State.logIdOf (s : State) (gid : Nat) : Dword :=
  let c := slotCore (s.group gid).slot
  logId (s.launchOf gid).ctx (teamIndex (groupTeam gid)) (groupIndex gid) (coreDie c) (coreNum c)

/-! ### Words that an instruction reads from another package (assumption 20) -/

/-- Register numbers above every allocation: a remote table load or a `WAITA` read leaves its words under them until its
instruction takes them. -/
def hiddenReg (w : Nat) : Nat := 0x1000 + w

def Late.isHidden (x : Late) : Bool := x.regs.any fun p => 0x1000 ≤ p.1

/-- The words that the instruction in hand asked for are dropped, with the requests that still bring some. -/
def Group.dropHidden (g : Group) : Group :=
  let gone := (g.late.filter Late.isHidden).map (·.serial)
  { g with
    late := g.late.filter fun x => !x.isHidden
    outs := g.outs.filter fun o => o.watermarked || !gone.contains o.serial
    unknowns := g.unknowns.filter fun u => !u.regs.any fun p => 0x1000 ≤ p.1 }

/-! ### Parking and passes -/

/-- The quad of a group. -/
def State.quadOf (s : State) (gid : Nat) : Nat := coreQuad (slotCore (s.group gid).slot)

/-- Waiting requests enter the free entries of the reservation table, first in, first out (R88). -/
def Quad.letIn (x : Quad) (now : Nat) : Quad :=
  let n := Config.engineTable - x.table.length
  { x with
    table := x.table ++ (x.admission.take n).map fun r => { r with arrival := now }
    admission := x.admission.drop n }

/-- The pass in force ends: it takes no more operations, its entry is freed, and the engine is free for the next grant (R89). What it
issued retires later, in the order of the passes; one that issued nothing is over. (DESIGN CHOICE: assumption 72.) -/
def Quad.endTurn (x : Quad) (p : Pass) (now : Nat) : Quad :=
  Quad.letIn { x with
    pass := none
    past := if p.ops.isEmpty then x.past else x.past ++ [p]
    table := x.table.filter fun e => e.gid != p.gid } now

/-- Passes that have not retired, oldest first. -/
def Quad.passes (x : Quad) : List Pass := x.past ++ x.pass.toList

/-- The group's pass ends. -/
def State.closePass (s : State) (gid : Nat) : State :=
  let q := s.quadOf gid
  let x := s.quad q
  match x.pass with
  | some p => if p.gid = gid then s.setQuad q (x.endTurn p s.now) else s
  | none => s

/-- The group parks at the instruction in hand, whose bundle counts when it completes; `left` names the lanes that have not
taken their step (R92). -/
def State.park (s : State) (i : Instr) (left : Lanes) : State :=
  (s.setCur { s.cur with wait := some { i, run := s.iss.run, pc := s.iss.pc, left, absent := false, since := s.now } }).closePass s.iss.gid

/-- The slot's held A operand is released when it is the group's (R365). -/
def State.releaseA (s : State) (gid : Nat) : State :=
  let n := (s.group gid).slot
  let x := s.slot n
  match x.heldA with
  | some h => if h.gid = gid then s.setSlot n { x with heldA := none } else s
  | none => s

/-! ### The end of a launch (R63, R64, R68) -/

/-- Every group of the launch stops at its next instruction boundary. -/
def stopGroups (h : Word) (gs : Tab Group) : Tab Group :=
  gs.map fun p => if keyHandle (groupTeam p.1) = h && p.2.live then (p.1, { p.2 with stopped := true }) else p

/-- A copy parked on a fault (R69). -/
def Copy.parked (c : Copy) : Bool :=
  match c.state with
  | .parked _ => true
  | _ => false

/-- The parked copies of a launch are discarded, and their FAULTIDs released without a verdict (R69). -/
def State.discardParked (s : State) (h : Word) : State :=
  let mine (gid : Nat) : Bool := keyHandle (groupTeam gid) = h
  { s with
    groups := s.groups.map fun p => if mine p.1 then (p.1, { p.2 with copies := p.2.copies.filter fun c => !c.parked }) else p
    dies := s.dies.map fun p => (p.1, { p.2 with copyFaults := p.2.copyFaults.filter fun f => !mine f.2.1 }) }

/-- The first end decides CAUSE and TEAM; a later one finds the launch ended (R64). A queued launch leaves its queue. A launch whose teams
have all ended and that has not drained still ends with the cause of an error of its held updates or of its memory (R223, R236). -/
def State.endLaunch (s : State) (h : Word) (cause team : Nat) : State :=
  let l := s.launch h
  match l.state with
  | .queued | .running =>
    let s := s.discardParked h
    { s.setLaunch h { l with state := .ending, cause, team } with
      groups := stopGroups h s.groups
      queues := tabSet [] s.queues l.queue ((tabGet [] s.queues l.queue).filter (· != h)) }
  | .ending => if l.cause = 0 then s.setLaunch h { l with cause, team } else s
  | _ => s

/-- The fatal record of a group's trap (R68), in the log of the die on which the group runs. (DESIGN CHOICE: assumption 80.) -/
def State.fatal (s : State) (gid : Nat) (t : TrapState) : State :=
  s.log (coreDie (slotCore (s.group gid).slot))
    { kind := 1, handle := keyHandle (groupTeam gid), id := s.logIdOf gid, code := BitVec.ofNat 32 t.cause, pc := t.pc,
      addr := t.addr, lanes := t.lanes, info := t.info }

/-! ### Taking a trap, and returning from one (R117, R118) -/

/-- The group in hand takes a trap with the instruction in hand: it enters the launch's handler, or the launch ends with a
fatal record when there is none, when the trap is raised inside the handler, or when the cause is imposed (R117, R68). -/
def State.takeTrap (s : State) (cause : Nat) (lanes : Lanes) (addr info : Dword) : State :=
  let gid := s.iss.gid
  let g := s.cur.dropHidden
  let l := s.launchOf gid
  let t : TrapState := { cause, pc := s.iss.pc, addr, lanes, info }
  if l.handler == 0 || g.handler.isSome || cause == 0x15 || cause == 0x16 then
    (((s.setCur { g with trap := t }).fatal gid t).endLaunch (keyHandle (groupTeam gid)) cause
      (teamIndex (groupTeam gid))).closePass gid
  else
    let s := s.setCur
      { g with
        trap := t
        handler := some
          { pcs := g.pcs, waiting := g.waiting, stood := g.stand, latches := g.latches, lvalid := g.lvalid
            entered := ~~~g.exited }
        pcs := rowSet64 g.pcs (~~~g.exited) fun _ => l.handler
        waiting := 0
        lvalid := 0 }
    (s.releaseA gid).closePass gid

/-- The distance in words from an operation back to the delivering instruction, in [23:0] (R42, R116). -/
def distance (op tpc : Dword) : Nat :=
  let d := (tpc - op).toNat / 8
  if (tpc - op).toNat % 8 = 0 && d < 0xFFFFFF then d else 0xFFFFFF

/-- Where the lanes of TLANES resume (R118). -/
def resumePc (t : TrapState) (skip : Bool) : Dword :=
  if skip then t.pc + 8
  else if t.cause == 0x0F || t.cause == 0x12 || (t.cause != 0x10 && t.info != 0 && (t.cause == 0x0A || t.cause == 0x0B)) then
    let d := t.info.toNat % 2 ^ 24
    if d = 0xFFFFFF then t.pc else t.pc - BitVec.ofNat 64 (8 * d)
  else t.pc

/-! ### Exceptions of a control core (R58, R239; the RISC-V registers are assumption 9) -/

/-- A register of a hart; `x0` reads as zero and discards writes. -/
def Hart.reg (h : Hart) (r : BitVec 5) : Dword := if r = 0 then 0 else tabGet 0 h.regs r.toNat
def Hart.setReg (h : Hart) (r : BitVec 5) (x : Dword) : Hart := if r = 0 then h else { h with regs := tabSet 0 h.regs r.toNat x }

/-- A field of a status word: `n` bits from bit `i`. -/
def setField (w : Dword) (i n v : Nat) : Dword := (w &&& ~~~(BitVec.ofNat 64 ((2 ^ n - 1) * 2 ^ i))) ||| BitVec.ofNat 64 (v % 2 ^ n * 2 ^ i)
def getField (w : Dword) (i n : Nat) : Nat := w.toNat / 2 ^ i % 2 ^ n

def HartMode.virt : HartMode → Bool
  | .vs | .vu => true
  | _ => false

/-- The privilege of a mode within its level: machine 3, supervisor 1, user 0. -/
def HartMode.level : HartMode → Nat
  | .m => 3
  | .s | .vs => 1
  | .u | .vu => 0

/-- A handler's address: the base of a trap vector register. -/
def vecBase (v : Dword) : Dword := v &&& ~~~3

/-- A register other than the named ones, and a write of one. -/
def Hart.other (h : Hart) (n : Nat) : Dword := tabGet 0 h.csrs n
def Hart.setOther (h : Hart) (c v : Nat) : Hart := { h with csrs := tabSet 0 h.csrs c (BitVec.ofNat 64 v) }

/-- A hart enters the handler of a mode: the PC, the cause and the value saved, the mode and the interrupt enable put away; `vec` is
the handler's place in a vector, and `gva` says that the value is a guest's virtual address. Outside a guest the trap writes the
guest-physical address `gpa` and the instruction `inst` of a guest-page fault, or 0. -/
def Hart.enter (h : Hart) (target : HartMode) (cause tval : Dword) (vec : Nat) (gva : Bool) (gpa : Nat := 0) (inst : Nat := 0) : Hart :=
  let virt := h.mode.virt
  let lvl := h.mode.level
  let at_ (v : Dword) : Dword := vecBase v + (if v.getLsbD 0 then BitVec.ofNat 64 vec else 0)
  match target with
  | .vs | .vu =>
    let st := setField (setField (setField h.vsstatus 8 1 lvl) 5 1 (getField h.vsstatus 1 1)) 1 1 0
    { h with vsepc := h.pc, vscause := cause, vstval := tval, vsstatus := st, mode := .vs, pc := at_ h.vstvec }
  | .s | .u =>
    let st := setField (setField (setField h.mstatus 8 1 lvl) 5 1 (getField h.mstatus 1 1)) 1 1 0
    let hs := setField (setField h.hstatus 7 1 (if virt then 1 else 0)) 6 1 (if gva then 1 else 0)
    let hs := if virt then setField hs 8 1 lvl else hs
    { (h.setOther 0x643 (gpa / 4)).setOther 0x64A inst with
      sepc := h.pc, scause := cause, stval := tval, mstatus := st, hstatus := hs, mode := .s, pc := at_ h.stvec }
  | .m =>
    let st := setField (setField (setField h.mstatus 11 2 lvl) 7 1 (getField h.mstatus 3 1)) 3 1 0
    let st := setField (setField st 39 1 (if virt then 1 else 0)) 38 1 (if gva then 1 else 0)
    { (h.setOther 0x34B (gpa / 4)).setOther 0x34A inst with
      mepc := h.pc, mcause := cause, mtval := tval, mstatus := st, mode := .m, pc := at_ h.mtvec }

/-- Where an exception goes: into VS-mode when it is delegated twice from a guest, into HS-mode when it is delegated, and otherwise
into M-mode. -/
def Hart.handlerMode (h : Hart) (cause : Nat) : HartMode :=
  if h.mode = .m || !h.medeleg.getLsbD cause then .m
  else if h.mode.virt && h.hedeleg.getLsbD cause then .vs
  else .s

/-- A hart takes an exception; its value is no guest address. -/
def Hart.takeException (h : Hart) (cause : Nat) (tval : Dword) : Hart :=
  h.enter (h.handlerMode cause) (BitVec.ofNat 64 cause) tval 0 false

/-- A region's checkpoint keeps the failure of an older copy that leaves the pending ones, so that a replay finds it again (R113). -/
def Ckpt.keepCopy (c : Ckpt) (d : Deferred) : Ckpt := if d.seq < c.nCopy then { c with copyFails := c.copyFails ++ [d] } else c

/-- A failed copy whose failure is dropped retires as a complete one (R352). -/
def Copy.forgive (c : Copy) : Copy :=
  match c.state with
  | .failed _ => { c with state := .done, unacked := [], got := [] }
  | _ => c

/-- A trap return of a group: each lane that entered and has not exited goes back to its saved PC and WAITING state, the lanes of TLANES
as R118's table says; the latches are restored, and R98's release test runs. A retry of a failed copy drops the failures
of every younger copy that still wait (R352). (DEDUCED: assumption 43.) -/
def Group.trapReturn (g : Group) (h : Handler) (skip : Bool) : Group :=
  let back := h.entered &&& ~~~g.exited
  let g := { g with
    pcs := rowSet64 (rowSet64 g.pcs back fun l => laneAt64 h.pcs l) (g.trap.lanes &&& back) fun _ => resumePc g.trap skip
    waiting := h.waiting &&& ~~~g.exited &&& ~~~g.trap.lanes
    stand := h.stood
    latches := h.latches
    lvalid := h.lvalid
    handler := none
    ckpt := if g.trap.cause = 0x12 && !skip then g.ckpt.map fun c => g.copyFails.foldl Ckpt.keepCopy c else g.ckpt
    copyFails := if g.trap.cause = 0x12 && !skip then [] else g.copyFails
    copies := if g.trap.cause = 0x12 && !skip then g.copies.map Copy.forgive else g.copies }
  g.releaseMasks

end Sys2Proof.Machine
end

