-- ==== Sys2Proof/Machine/Address.lean ====
section
/-! DEFINITION. Address windows and classes, translation, owners (spec/06_address_spaces.md R119 to R135, R126). -/
namespace Sys2Proof.Machine

/-! ### The physical map (R125 to R127) -/

def lpddrBase : Nat := 0x010000000000
def lpddrSize : Nat := 0x6000000000
def sheetBase : Nat := 0x040000000000
def cxlBase : Nat := 0x100000000000
def mib2 : Nat := 0x200000

def inLpddr (pa : Nat) : Bool := lpddrBase ≤ pa && pa < lpddrBase + 4 * lpddrSize
def lpddrDie (pa : Nat) : Nat := (pa - lpddrBase) / lpddrSize
def sheetDie (pa : Nat) : Nat := (pa - sheetBase) / 2 ^ 30
def sheetOff (pa : Nat) : Nat := (pa - sheetBase) % 2 ^ 30

/-- The placed bytes of every die's sheet memory (R11, R127). -/
def State.placedBytes (s : State) : Nat := s.image.placed * 32 * 2 ^ 20
/-- The largest ORDSIZE (R129). -/
def State.ordMax (s : State) : Nat := (s.placedBytes - 64 * 2 ^ 20) / mib2

def State.inSheet (s : State) (pa : Nat) : Bool :=
  sheetBase ≤ pa && pa < sheetBase + 4 * 2 ^ 30 && sheetOff pa < s.placedBytes
def State.inOrdinary (s : State) (pa : Nat) : Bool :=
  s.inSheet pa && sheetOff pa < (s.die (sheetDie pa)).ordSize.toNat * mib2
def inCxl (pa : Nat) : Bool := cxlBase ≤ pa && pa < 2 * cxlBase

/-- A range of a removed CXL device (R18). -/
def State.isRemoved (s : State) (pa : Nat) : Bool := s.removed.any fun r => r.1 ≤ pa && pa < r.1 + r.2

/-- A decoder of R17 leads a CXL address to its device. -/
def Decoder.covers (d : Decoder) (pa : Nat) : Bool := d.base ≤ pa && pa < d.base + d.size

/-- An address behind which there is memory (R125): LPDDR-6, the placed region, and CXL memory through its decoders; a removed
device answers with poison (R18). (DEDUCED: assumption 17.) -/
def State.backed (s : State) (pa : Nat) : Bool :=
  inLpddr pa || s.inSheet pa || (inCxl pa && (s.decoders.any (·.covers pa) || s.isRemoved pa))

/-- A byte of memory as a core or a copy reads it: behind an address of the CXL window that no decoder covers there is no byte, and the
read gives a free value (R125). (DEDUCED: assumption 17.) -/
def State.cell (s : State) (pa : Nat) : Byte := if s.backed pa then s.rd pa else (s.freeBits (3 * 2 ^ 14 + pa % 2 ^ 14)).setWidth 8

/-- Every byte of a range is backed. -/
def State.backedRange (s : State) (pa n : Nat) : Bool := (List.range n).all fun i => s.backed (pa + i)

/-- The fixed system area of a die's placed region: its last 64 MiB (R127). -/
def State.inFixed (s : State) (d pa n : Nat) : Bool :=
  sheetBase + d * 2 ^ 30 + (s.placedBytes - 64 * 2 ^ 20) ≤ pa && pa + n ≤ sheetBase + d * 2 ^ 30 + s.placedBytes

/-- The hash of R126. -/
def sliceHash (a : Nat) : Nat := (a / 2 ^ 8 % 16) ^^^ (a / 2 ^ 16 % 16) ^^^ (a / 2 ^ 24 % 16) ^^^ (a / 2 ^ 32 % 16)

/-- The owner slice `die * 16 + s` of a physical line; `stride` is the plane stride of a page with PF set, and 0 otherwise
(R126). -/
def ownerOf (pa stride : Nat) : Nat :=
  let h := if stride = 0 then pa else pa % stride
  let die :=
    if inLpddr pa then lpddrDie pa
    else if inCxl pa then (h / 2 ^ 12 % 4) ^^^ (h / 2 ^ 20 % 4)
    else sheetDie pa % 4
  die * 16 + sliceHash h

/-! ### Contexts and page tables (R54, R130, R131) -/

def State.ctxEntry (s : State) (ctx : BitVec 16) : Nat := s.ctxBase.toNat + 32 * ctx.toNat
/-- An installed context: VALID (R54). An entry whose CTX differs from its index is not installed. (DESIGN CHOICE: assumption 79.) -/
def State.ctxValid (s : State) (ctx : BitVec 16) : Bool :=
  ctx.toNat < Config.contexts && (s.rd (s.ctxEntry ctx + 16)).toNat % 2 == 1 && s.rdLe (s.ctxEntry ctx) 2 == ctx.toNat
def State.ctxRoot (s : State) (ctx : BitVec 16) : Nat := s.rdLe (s.ctxEntry ctx + 8) 8
def State.ctxGrant (s : State) (ctx : BitVec 16) (q : Nat) : Bool := s.rdLe (s.ctxEntry ctx + 24) 8 / 2 ^ q % 2 == 1

/-- Fields of a page-table entry (R131). -/
def pteP (e : Nat) : Bool := e % 2 == 1
def pteSize (e : Nat) : Nat := e / 2 % 4
def pteCA (e : Nat) : Bool := e / 2 ^ 3 % 2 == 1
def pteW (e : Nat) : Bool := e / 2 ^ 4 % 2 == 1
def pteKind (e : Nat) : Nat := e / 2 ^ 5 % 4
def pteLoc (e : Nat) : Nat := e / 2 ^ 7 % 4
def ptePF (e : Nat) : Bool := e / 2 ^ 9 % 2 == 1
def pteAC (e : Nat) : Bool := e / 2 ^ 10 % 2 == 1
def ptePA (e : Nat) : Nat := e / 2 ^ 12 % 2 ^ 36 * 2 ^ 12
def pteStride (e : Nat) : Nat := 2 ^ (16 + e / 2 ^ 48 % 16)
def ptePkg (e : Nat) : BitVec 16 := BitVec.ofNat 16 (e / 2 ^ 48)

/-- Page shift of a level's leaf. -/
def levelShift (level : Nat) : Nat := 12 + 9 * (level - 1)

/-- A leaf breaks R131 at its level. -/
def State.leafBad (s : State) (level e : Nat) : Bool :=
  let pa := ptePA e
  let size := 2 ^ levelShift level
  (3 < level) || (pteSize e == 2 && level != 1) || pteLoc e == 3 || pteKind e == 3
    || (pteSize e == 1 && pa % size != 0)
    || (ptePF e && pteLoc e == 2)
    || (pteLoc e == 0 && !((inLpddr pa && inLpddr (pa + size - 1)) || (s.inOrdinary pa && s.inOrdinary (pa + size - 1))))
    || (pteLoc e == 1 && !(inCxl pa && inCxl (pa + size - 1)))

/-- What a walk finds: an absent entry, a malformed one (with its CA bit), or a leaf with its level. -/
inductive Walk where
  | absent
  | malformed (ca : Bool)
  | leaf (level : Nat) (e : Nat)
  deriving DecidableEq, Repr

/-- The walk from the table at `table`, level `level` down to 1 (R130 to R132). -/
def State.walk (s : State) (va : Nat) : Nat → Nat → Walk
  | 0, _ => .malformed true
  | level + 1, table =>
    if !(inLpddr table || s.inOrdinary table) then .malformed true
    else
      let e := s.rdLe (table + 8 * (va / 2 ^ levelShift (level + 1) % (if level + 1 = 5 then 256 else 512))) 8
      if !pteP e then .absent
      else if pteSize e == 3 then .malformed true
      else if pteSize e == 0 then (if level = 0 then .malformed true else s.walk va level (ptePA e))
      else if s.leafBad (level + 1) e then .malformed (pteCA e)
      else .leaf (level + 1) e

/-- The walk of a context's virtual address; an invalid context has no tables. -/
def State.walkCtx (s : State) (ctx : BitVec 16) (va : Dword) : Walk :=
  if s.ctxValid ctx then s.walk va.toNat 5 (s.ctxRoot ctx) else .absent

/-- The cached translation that covers an address on a die (R135). -/
def State.cached (s : State) (die : Nat) (ctx : BitVec 16) (va : Dword) : Option TlbEntry :=
  s.tlb.find? fun t => t.die = die && t.ctx = ctx && t.page = va.toNat / 2 ^ t.shift

/-- A cached entry as a walk's answer. -/
def TlbEntry.asWalk (t : TlbEntry) : Walk := .leaf ((t.shift - 12) / 9 + 1) t.entry.toNat

/-- The translation that an access uses: the tables' answer, or, while a cached entry differs from it, either of the two
(R135). (DESIGN CHOICE: assumption 11.) -/
def State.translate (s : State) (die : Nat) (ctx : BitVec 16) (va : Dword) (k : Nat) : Walk :=
  let w := s.walkCtx ctx va
  match s.cached die ctx va with
  | none => w
  | some t => if t.asWalk = w then w else if s.choose k then t.asWalk else w

/-! ### Classes (R119, R120) -/

/-- The rectangle size of a group's cluster. -/
def State.clusterSize (s : State) (gid : Nat) : Nat := (s.launchOf gid).cw * (s.launchOf gid).ch

/-- The class of an address for a group (R120). -/
def State.classOf (s : State) (gid : Nat) (a : Dword) : Nat :=
  let n := a.toNat
  let core := slotCore (s.group gid).slot
  let low := n / 2 ^ 20 % 2 ^ 12 == 0
  match n / 2 ^ 56 with
  | 0x00 => 0
  | 0xFE => if n / 2 ^ 32 % 2 ^ 24 == 0 then 1 else 7
  | 0xFD =>
    if n / 2 ^ 42 % 2 ^ 14 == 0 && low then
      let die := n / 2 ^ 40 % 4
      let c := n / 2 ^ 32 % 256
      if die = coreDie core && c = coreNum core then 2 else if c < 144 then 3 else 7
    else 7
  | 0xFC => if n / 2 ^ 36 % 2 ^ 20 == 0 && low && n / 2 ^ 32 % 16 < s.clusterSize gid then 4 else 7
  | _ => 7

/-- The group's index within its cluster's rectangle (`%member`). -/
def State.member (s : State) (gid : Nat) : Nat := teamIndex (groupTeam gid) % max 1 (s.clusterSize gid)

/-- The team that is member `m` of a group's cluster. -/
def State.sibling (s : State) (gid m : Nat) : Nat :=
  let t := teamIndex (groupTeam gid)
  teamKey (keyHandle (groupTeam gid)) (t - s.member gid + m)

/-! ### Places -/

/-- Where an address lies: on-package memory (0), CXL (1), another package (2), a scratchpad (3), with its page. -/
structure Place where
  kind : Nat
  core : Nat := 0
  pa : Nat
  pkg : BitVec 16 := 0
  pf : Bool := false
  stride : Nat := 0
  /-- Access counting: page base and shift, when AC is set (R134). -/
  ac : Option Nat := none
  /-- Page kind: 0 RC, 1 SO, 2 UN (R148). -/
  order : Nat := 0
  /-- Global virtual address that was translated, and the page shift of its leaf. -/
  va : Dword := 0
  shift : Nat := 12
  deriving DecidableEq, Repr

/-- The place that a leaf gives an address. -/
def leafPlace (level e : Nat) (va : Dword) : Place :=
  let sh := if pteSize e = 2 then 12 else levelShift level
  { kind := pteLoc e, pa := ptePA e + va.toNat % 2 ^ sh, pkg := ptePkg e, pf := ptePF e,
    stride := if ptePF e then pteStride e else 0,
    ac := if pteAC e then some (va.toNat / 2 ^ sh * 2 ^ sh) else none, order := pteKind e, va, shift := sh }

/-- A core access to a global address: the place, or the trap code (R132). -/
def State.coreAccess (s : State) (gid : Nat) (va : Dword) (write : Bool) (k : Nat) : Except Nat Place :=
  let die := coreDie (slotCore (s.group gid).slot)
  match s.translate die (s.launchOf gid).ctx va k with
  | .absent => .error 0x0A
  | .malformed ca => .error (if ca then 0x0B else 0x0A)
  | .leaf level e =>
    if !pteCA e then .error 0x0A
    else if write && !pteW e then .error 0x0B
    else .ok (leafPlace level e va)

/-- The private window's alias (R121): the global address, or STACK_BOUNDS. -/
def State.privateVa (s : State) (gid l : Nat) (a : Dword) (width : Nat) : Except Nat Dword :=
  let t := s.team (groupTeam gid)
  let o := a.toNat % 2 ^ 32
  let id := (teamIndex (groupTeam gid) * (s.launchOf gid).groups + groupIndex gid) * 32 + l
  let va := t.pbase.toNat + id * t.psize + o
  if t.psize < o + width then .error 0x14
  else if 2 ^ 56 < va + width then .error 0x14
  else .ok (BitVec.ofNat 64 va)

/-- A scratchpad offset of a team: the place, or SCRATCH_BOUNDS (R79, R120). -/
def State.scratchPlace (s : State) (tk off width : Nat) : Except Nat Place :=
  let t := s.team tk
  let l := s.launch (keyHandle tk)
  if l.scratch * 4096 < off + width then .error 0x09
  else .ok { kind := 3, core := t.core, pa := t.units.getD (off / 4096) 0 * 4096 + off % 4096 }

/-- An access of a lane to `width` bytes: the faults of the address's class, then alignment to `align`, then translation
(R318, R120, R132). -/
def State.resolve (s : State) (gid l : Nat) (a : Dword) (width align : Nat) (write : Bool) : Except Nat Place :=
  let aligned : Except Nat Unit := if a.toNat % align = 0 then .ok () else .error 0x06
  match s.classOf gid a with
  | 0 => do aligned; s.coreAccess gid a write l
  | 1 => do
    let va ← s.privateVa gid l a width
    aligned
    s.coreAccess gid va write l
  | 2 => do
    let p ← s.scratchPlace (groupTeam gid) (a.toNat % 2 ^ 20) width
    aligned
    .ok p
  | 3 => .error 0x08
  | 4 => do
    let p ← s.scratchPlace (s.sibling gid (a.toNat / 2 ^ 32 % 16)) (a.toNat % 2 ^ 20) width
    aligned
    .ok p
  | _ => .error 0x07

/-! ### Access counting (R134) -/

/-- One access count incremented; at ACTHRESH a kind-3 record is written and the count restarts. The list runs from the
least recently incremented. The count is one of the issuing core's die, and a count that ACTHRESH has been lowered below does not reach
it. (DESIGN CHOICE: assumption 95.) -/
def State.countPage (s : State) (gid page : Nat) : State :=
  let d := coreDie (slotCore (s.group gid).slot)
  let x := s.die d
  let ctx := (s.launchOf gid).ctx
  if x.acThresh == 0 || x.logFull then s
  else
    let old := x.counts.find? fun c => c.ctx = ctx && c.page = page
    let rest := x.counts.filter fun c => !(c.ctx = ctx && c.page = page)
    let n := (old.map (·.count)).getD 0 + 1
    let rest := if old.isNone && Config.accessCounts ≤ rest.length then rest.drop 1 else rest
    let hit := n = x.acThresh.toNat
    let s := s.setDie d { x with counts := rest ++ [{ ctx, page, count := if hit then 0 else n }] }
    if hit then
      s.log d { kind := 3, handle := keyHandle (groupTeam gid), id := s.logIdOf gid, code := BitVec.ofNat 32 n,
                addr := BitVec.ofNat 64 page }
    else s

/-- One instruction instance touches pages: each distinct counted page once, less those that it has counted already. -/
def State.countPages (s : State) (gid : Nat) (ps : List Place) (done : List Place := []) : State :=
  ((ps.filterMap (·.ac)).eraseDups.filter fun p => !(done.filterMap (·.ac)).contains p).foldl (fun s p => s.countPage gid p) s

end Sys2Proof.Machine
end

