-- ==== Sys2Proof/Machine/Operands.lean ====
section
/-! DEFINITION. Operands: sources, guards, latches, the tests before a word acts, and the run of a T, I or P word
(spec/12_formats_and_opcode_map.md R257 to R263, spec/05_cores_and_execution.md R99 to R107). -/
namespace Sys2Proof.Machine

/-! ### Sources (R257) -/

/-- A special source of a lane, zero-extended. -/
def State.special (s : State) (gid l : Nat) (code : Nat) : Dword :=
  let g := s.group gid
  let c := slotCore g.slot
  let x := s.launchOf gid
  let n : Nat :=
    match code with
    | 0x10 => 0
    | 0x11 => l
    | 0x12 => groupIndex gid
    | 0x13 => teamIndex (groupTeam gid)
    | 0x14 => (s.cluster g.ck).index
    | 0x15 => s.member gid
    | 0x16 => coreNum c
    | 0x17 => coreDie c
    | 0x18 => x.teams
    | 0x19 => x.groups
    | 0x1A => x.param.toNat % 2 ^ 32
    | 0x1B => x.param.toNat / 2 ^ 32
    | _ => (s.die (coreDie c)).cycles.toNat % 2 ^ 32
  BitVec.ofNat 64 n

/-- Src(L, f, w) of R257. -/
def State.src (s : State) (gid l : Nat) (f : BitVec 9) (w64 : Bool) : Dword :=
  let g := s.group gid
  let n := f.toNat
  if n < 256 then (if w64 then g.v64 l n else (g.v l n).setWidth 64)
  else if n ≤ 0x103 then
    let x := laneAt64 (g.latches.getD (n - 256) zeroRow64) l
    if w64 then x else (x.setWidth 32).setWidth 64
  else s.special gid l (n - 256)

/-- The registers that an operand field covers. -/
def srcRegs (r : Shape.Src) (f : BitVec 9) : List Nat :=
  if 256 ≤ f.toNat then []
  else
    match r with
    | .no => []
    | .w32 => [f.toNat]
    | .w64 => [f.toNat, f.toNat + 1]
    | .run n _ => (List.range n).map (f.toNat + ·)

/-- The latches that an operand field reads. -/
def srcLatches (r : Shape.Src) (f : BitVec 9) : List Nat :=
  match r with
  | .no => []
  | _ => if 0x100 ≤ f.toNat && f.toNat ≤ 0x103 then [f.toNat - 0x100] else []

/-- An operand read by its shape; a run of registers is read register by register instead. -/
def State.operand (s : State) (gid l : Nat) (r : Shape.Src) (f : BitVec 9) : Dword :=
  match r with
  | .no => 0
  | .w32 => s.src gid l f false
  | .w64 => s.src gid l f true
  | .run _ _ => s.src gid l f false

/-! ### Guards (R259) -/

def guardRegs (gd : BitVec 7) : List Nat := if gd.toNat % 64 = 0 then [] else [gd.toNat % 64]

/-- Active(L) for the lanes of a run. -/
def Group.active (g : Group) (run : Lanes) (gd : BitVec 7) : Lanes :=
  if gd = 0 then run
  else lanesOf fun l => run.getLsbD l && (g.v l (gd.toNat % 64)).getLsbD 0 == !(gd.getLsbD 6)

/-! ### The tests before a word acts -/

/-- What stands before a word's effect: it stalls with no change, traps, delivers an unknown outcome, or goes on with its
active lanes. -/
inductive Pre where
  | stall
  | trap (cause : Nat) (lanes : Lanes) (addr info : Dword)
  | unknown (u : Unknown)
  | go (act : Lanes)
  deriving DecidableEq, Repr

/-- What a word asks of those tests: registers that its fields cover, those among them that it reads, whose results it waits
for, latches that it reads, whether it is collective (R99), whether it begins a region (R341), whether it delivers every
unknown outcome (R42), and whether it waits for every older result (R101, R386). -/
structure Needs where
  regs : List Nat := []
  reads : List Nat := []
  latches : List Nat := []
  coll : Bool := false
  region : Bool := false
  /-- A PRIVILEGE that the state raises (R386, R388). -/
  priv : Bool := false
  deliver : Bool := false
  drain : Bool := false
  /-- The word makes memory events, which wait for older acquire events; every older event of its lanes is ordered before its own; it
  issues a `.rem` operation, which only R39 orders behind others; it makes a release event (R151, R153, R320). -/
  mem : Bool := false
  after : Bool := false
  issues : Bool := false
  rel : Bool := false
  /-- Registers whose values the latches take in the lanes that do not execute (R104). -/
  fills : List Nat := []
  /-- Registers that it reads in lane 0 when some lane is active (R344), and the unknown outcomes that it delivers besides (R335). -/
  lane0 : List Nat := []
  about : Unknown → Bool := fun _ => false
  guard : BitVec 7 := 0
  /-- Registers whose values make the word a reserved one, and its TINFO2 when they do (R271, R375, R381). -/
  keys : List Nat := []
  reserved : Option Dword := none

/-- Some result for one of the registers, in one of the lanes, has not landed (R107). -/
def Group.awaits (g : Group) (regs : List Nat) (m : Lanes) : Bool :=
  g.late.any fun x => x.regs.any fun p => regs.contains p.1 && p.2 &&& m != 0

/-! ### The order of memory events (R149, R151, R153, R154)

An access to this package's memory or to a scratchpad acts in the step that issues it; a request acts at its owner, later. So a
word whose events come after older requests' waits for their replies. -/

/-- A request of a lane's own event; engine operations have their own order (R151). -/
def OutReq.demand (o : OutReq) : Bool :=
  !o.restored && (match o.packet.op with
    | .stores _ _ => false
    | _ => true)

/-- An operation counted in `.rem` (R320, R335, R355). -/
def opCounted : OwnerOp → Bool
  | .store _ | .red _ _ _ _ _ | .opt _ _ _ _ _ | .ccon _ | .launch _ _ => true
  | .atomv _ _ _ _ _ ret => !ret
  | .load _ _ | .stores _ _ | .atom _ _ _ _ | .cline _ _ _ => false

/-- An older event of one of the lanes has not taken effect; one that is no `.rem` operation's has not; an older acquire event has not. -/
def Group.pending (g : Group) (m : Lanes) : Bool := g.outs.any fun o => o.demand && o.lanes &&& m != 0
def Group.opening (g : Group) (m : Lanes) : Bool := g.outs.any fun o => o.demand && !opCounted o.packet.op && o.lanes &&& m != 0
def Group.acquiring (g : Group) (m : Lanes) : Bool := g.outs.any fun o => o.demand && o.acq &&& m != 0

/-- A store of the group to a remote page still lacks its reply (R320). -/
def Group.storesOut (g : Group) : Bool :=
  g.outs.any fun o =>
    !o.restored && (match o.packet.op with
      | .store _ => true
      | _ => false)

/-- The requests of the group's engine operations, or of its tile operations, that lack their replies: their serials. -/
def Group.engineOut (g : Group) (tile : Bool) : List Word :=
  ((g.outs.filter fun o =>
    !o.restored && (match o.packet.op with
      | .stores _ t => t == tile
      | _ => false)).map (·.serial)).eraseDups

/-- What a word's memory events wait for (R151, R153, R320). (DEDUCED: assumption 41.) -/
def Group.mustFollow (g : Group) (n : Needs) (act : Lanes) : Bool :=
  (n.mem && g.acquiring act) || (n.issues && g.opening act) || ((n.after || n.rel) && g.pending act) || (n.rel && act != 0 && g.storesOut)

/-- An unknown outcome of which the registers bring a result in the lanes. -/
def Unknown.fills (u : Unknown) (regs : List Nat) (m : Lanes) : Bool := u.regs.any fun p => regs.contains p.1 && p.2 &&& m != 0

/-- The oldest unknown outcome that a read of registers delivers (R42). (DEDUCED: assumption 44.) -/
def Group.unknownFor (g : Group) (regs : List Nat) (m : Lanes) : Option Unknown := g.unknowns.find? fun u => u.fills regs m

/-- A word with active lanes `m` delivers an unknown outcome: by a register that it reads, or as one of the delivery points of R42 and
R335. -/
def Needs.delivers (n : Needs) (m : Lanes) (u : Unknown) : Bool :=
  u.fills n.reads m || (m != 0 && (n.deliver || n.about u || u.fills n.lane0 1))

/-- Some result that the word reads, latches, or waits for has not landed (R101, R104, R107, R386). -/
def Group.lacks (g : Group) (n : Needs) (m : Lanes) : Bool :=
  g.awaits n.reads m || g.awaits n.fills (~~~m) || (m != 0 && g.awaits n.lane0 1) || (n.drain && g.late.any fun x => !x.isHidden)

/-- An operation of which some request is still unanswered: its trap names all its lanes, so that the delivery waits (R42). -/
def Group.unanswered (g : Group) (u : Unknown) : Bool := g.outs.any fun o => o.watermarked == u.wm && o.serial = u.op

/-- What stands before a word that delivers an unknown outcome. -/
def Group.delivers (g : Group) (u : Unknown) : Pre := if g.unanswered u then .stall else .unknown u

/-- The tests in the order of R114: reserved values, register fields, convergence, latches, region starts in a handler; then results that have
not landed, older memory events, and unknown outcomes. An encoding-and-state cause is raised whatever the guard holds. (DEDUCED: assumption 8.) -/
def State.pre (s : State) (n : Needs) : Pre :=
  let g := s.cur
  let run := s.iss.run
  let gr := guardRegs n.guard
  let keyed := !n.keys.isEmpty && n.keys.all (· < g.nregs)
  if keyed && g.awaits n.keys run then .stall
  else if keyed && n.reserved.isSome then .trap 0x02 run 0 (n.reserved.getD 0)
  else if (n.regs ++ gr).any (g.nregs ≤ ·) then .trap 0x05 run 0 0
  else if g.awaits gr run then .stall
  else
    match g.unknownFor gr run with
    | some u => g.delivers u
    | none =>
      let act := g.active run n.guard
      if n.priv then .trap 0x17 run 0 0
      else if n.coll && (run != allLanes || (act != 0 && act != allLanes)) then .trap 0x03 run 0 0
      else if n.latches.any fun b => !g.lvalid.getLsbD b then .trap 0x04 run 0 0
      else if n.region && g.handler.isSome then .trap 0x13 run 0 0
      else if g.lacks n act || g.mustFollow n act then .stall
      else
        match g.unknowns.find? (n.delivers act) with
        | some u => g.delivers u
        | none => .go act

/-- An unknown outcome in its place among others. -/
def Unknown.insert (u : Unknown) (us : List Unknown) : List Unknown :=
  (us.takeWhile fun x => x.seq < u.seq) ++ [u] ++ us.dropWhile fun x => x.seq < u.seq

/-- A region's checkpoint keeps the unknown outcome of an older operation, so that a replay finds it again (R113). -/
def Ckpt.keepUnknown (c : Ckpt) (u : Unknown) : Ckpt :=
  if u.seq < c.nReq && !c.unknowns.any (fun x => x.seq = u.seq) then { c with unknowns := u.insert c.unknowns } else c

/-- An unknown outcome leaves the pending ones. -/
def Group.give (g : Group) (u : Unknown) : Group :=
  { g with unknowns := g.unknowns.erase u, ckpt := g.ckpt.map fun c => c.keepUnknown u }

/-- The trap OUTCOME_UNKNOWN, which takes its outcome from the pending ones (R42). -/
def State.trapUnknown (s : State) (u : Unknown) : State :=
  let info := u.serial.toNat * 2 ^ 32 + u.reason * 2 ^ 24 + distance u.pc s.iss.pc
  (s.setCur (s.cur.give u)).takeTrap 0x10 u.lanes u.va (BitVec.ofNat 64 info)

/-- The word acts when nothing stands before it. -/
def State.afterPre (s : State) (p : Pre) (act : Lanes → State) : State :=
  match p with
  | .stall => s
  | .trap c m a i => s.takeTrap c m a i
  | .unknown u => s.trapUnknown u
  | .go m => act m

/-- Among per-lane faults, the lowest code, its lanes, and the address of its lowest lane (R114). -/
def pickFault (act : Lanes) (fault : Nat → Option (Nat × Dword)) : Option (Nat × Lanes × Dword) :=
  let fs := (lanesList act).filterMap fun l => (fault l).map fun f => (l, f)
  match fs with
  | [] => none
  | (_, f0) :: rest =>
    let c := rest.foldl (fun c x => min c x.2.1) f0.1
    let hit := fs.filter fun x => x.2.1 = c
    some (c, lanesOf fun l => hit.any fun x => x.1 = l, (hit.head?.map fun x => x.2.2).getD 0)

/-- The word acts unless a lane faults (R114, data class). -/
def State.dataFault (s : State) (act : Lanes) (fault : Nat → Option (Nat × Dword)) (go : State) : State :=
  match pickFault act fault with
  | some (c, m, a) => s.takeTrap c m a 0
  | none => go

/-! ### Latches and the operand cache (R103, R104) -/

/-- One shift of the latches, with a value for every lane placed in b0. -/
def Group.shiftLatch (g : Group) (x : Nat → Dword) : Group :=
  let row : Row64 := Vector.ofFn fun i => x i.val
  { g with latches := row :: (List.range 3).map fun i => g.latches.getD i zeroRow64, lvalid := g.lvalid <<< 1 ||| 1 }

/-- The slot's operand cache after a word: the registers whose reuse bit it sets, less those that it writes. -/
def State.setCache (s : State) (keep written : List Nat) : State :=
  let n := s.cur.slot
  let c := keep.filter fun r => r < 256 && !written.contains r
  if (s.slot n).ocache = c then s else s.setSlot n { s.slot n with ocache := c }

/-- An X word invalidates the latches of its group (R105). -/
def State.dropLatches (s : State) : State := s.setCur { s.cur with lvalid := 0 }

/-! ### Results -/

/-- A lane's result: the words for consecutive registers, and the flags raised. -/
structure LaneRes where
  words : List Word
  flags : Flags := 0
  deriving DecidableEq, Repr

def res32 (x : Dword) (f : Flags := 0) : LaneRes := { words := [x.setWidth 32], flags := f }
def res64 (x : Dword) (f : Flags := 0) : LaneRes := { words := [x.setWidth 32, (x >>> 32).setWidth 32], flags := f }
def resAt (w64 : Bool) (r : Dword × Flags) : LaneRes := if w64 then res64 r.1 r.2 else res32 r.1 r.2

/-- The value that a latch receives: the register, or the pair when the result is 64 bits (R104). -/
def latchOf (pair : Bool) (ws : List Word) : Dword :=
  if pair then ws.getD 1 0 ++ ws.getD 0 0 else (ws.getD 0 0).setWidth 64

/-- Registers `d`, `d + 1`, … written with the words of each lane. -/
def Group.setRegs (g : Group) (d : Nat) (m : Lanes) (f : Nat → List Word) : Nat → Group
  | 0 => g
  | n + 1 => (g.setRegs d m f n).setReg (d + n) m fun l => (f l).getD n 0

def flagsOf (m : Lanes) (f : Nat → Flags) : Flags := (lanesList m).foldl (fun x l => x ||| f l) 0

/-- A T or I word's result: registers unless NW, flags, latches, the operand cache, the PCs (R104, R169, R258). A pair of registers that is
no 64-bit result (`BPACK`) goes to b0 as one. (DESIGN CHOICE: assumption 86.) -/
def State.deliver (s : State) (act : Lanes) (dst dn : Nat) (pair nw : Bool) (keep : List Nat) (r : Nat → LaneRes) : State :=
  let g := s.cur
  let g1 := if nw then g else g.setRegs dst act (fun l => (r l).words) dn
  let g1 := { g1 with fpflags := mergeFlags g1.fpflags (flagsOf act fun l => (r l).flags) }
  let g2 := g1.shiftLatch fun l =>
    if act.getLsbD l then latchOf pair (r l).words
    else if pair then g1.v64 l dst else (g1.v l dst).setWidth 64
  ((s.setCur g2).setCache keep (if nw then [] else (List.range dn).map (dst + ·))).advance

def range' (a n : Nat) : List Nat := (List.range n).map (a + ·)

/-- The two registers of a pair. -/
def pairRegs (r : BitVec 8) : List Nat := [r.toNat, r.toNat + 1]

/-- The registers whose values a latch takes in a lane that does not execute (R104). -/
def fillRegs (dst : BitVec 8) (pair : Bool) : List Nat := if pair then pairRegs dst else [dst.toNat]

/-- The registers that a T word's operands cover, and what the word needs: its operands' and destination's registers, its
latches, its guard. Of the T words only `XPERM` (0x031) is collective (R99). -/
def tReads (opc : Nat) (f : TF) : List Nat :=
  let sh := Shape.tShape opc f.mod.toNat f.rnd.toNat
  srcRegs sh.a f.sa ++ srcRegs sh.b f.sb ++ srcRegs sh.c f.sc

def tNeeds (opc : Nat) (f : TF) : Needs :=
  let sh := Shape.tShape opc f.mod.toNat f.rnd.toNat
  { regs := tReads opc f ++ range' f.dst.toNat sh.dn, reads := tReads opc f
    latches := srcLatches sh.a f.sa ++ srcLatches sh.b f.sb ++ srcLatches sh.c f.sc, coll := opc == 0x031
    fills := fillRegs f.dst (sh.deven && sh.dn == 2), guard := f.guard }

/-- The operand fields whose reuse bits a word sets. -/
def tKeep (f : TF) : List Nat :=
  (if f.ua then [f.sa.toNat] else []) ++ (if f.ub then [f.sb.toNat] else []) ++ (if f.uc then [f.sc.toNat] else [])

/-- A T word (R256 to R260): `op` gives each active lane's result from the operands of all lanes. -/
def State.runT (s : State) (opc : Nat) (f : TF) (op : Lanes → (Nat → Dword) → (Nat → Dword) → (Nat → Dword) → Nat → LaneRes) :
    State :=
  let gid := s.iss.gid
  let sh := Shape.tShape opc f.mod.toNat f.rnd.toNat
  s.afterPre (s.pre (tNeeds opc f)) fun act =>
    s.deliver act f.dst.toNat sh.dn (sh.deven && sh.dn == 2) f.nw (tKeep f)
      (op act (fun l => s.operand gid l sh.a f.sa) (fun l => s.operand gid l sh.b f.sb) (fun l => s.operand gid l sh.c f.sc))

/-- A T word whose lanes do not look at each other. -/
def State.runLane (s : State) (opc : Nat) (f : TF) (op : Dword → Dword → Dword → LaneRes) : State :=
  s.runT opc f fun _ a b c l => op (a l) (b l) (c l)

/-- The immediate at the width of the operand in whose place it stands (R261, R279). -/
def immAt (r : Shape.Src) (imm : Word) : Dword :=
  match r with
  | .w64 => imm.signExtend 64
  | _ => imm.setWidth 64

/-- What an I word reads, and needs. C is the destination's current value. -/
def iReads (opc : Nat) (f : IF) : List Nat :=
  let sh := Shape.iShape opc f.w.toNat
  (if sh.b == .no then [] else srcRegs sh.a f.sa) ++ srcRegs sh.c (f.dst.setWidth 9)

def iNeeds (opc : Nat) (f : IF) : Needs :=
  let sh := Shape.iShape opc f.w.toNat
  { regs := iReads opc f ++ range' f.dst.toNat sh.dn, reads := iReads opc f
    latches := if sh.b == .no then [] else srcLatches sh.a f.sa
    fills := fillRegs f.dst (sh.deven && sh.dn == 2) }

/-- An I word (R261): `imm` is the immediate as the operation takes it; an instruction that reads only A takes it as A. -/
def State.runI (s : State) (opc : Nat) (f : IF) (imm : Shape.Src → Word → Dword) (op : Dword → Dword → Dword → LaneRes) : State :=
  let gid := s.iss.gid
  let sh := Shape.iShape opc f.w.toNat
  let one := sh.b == .no
  s.afterPre (s.pre (iNeeds opc f)) fun act =>
    s.deliver act f.dst.toNat sh.dn (sh.deven && sh.dn == 2) f.nw (if f.ua then [f.sa.toNat] else []) fun l =>
      op (if one then imm sh.a f.imm else s.operand gid l sh.a f.sa) (imm sh.b f.imm) (s.operand gid l sh.c (f.dst.setWidth 9))

/-- A P half's source at 32 bits: the immediate, or an operand (R262). -/
def State.halfSrc (s : State) (gid l : Nat) (h : HF) : Dword :=
  if h.hsrc == 0x11F then (h.himm.signExtend 32).setWidth 64 else s.src gid l h.hsrc false

/-- The destinations of a P word's halves: an even register and an odd one (R262). -/
def lowReg (h : HF) : Nat := 2 * h.hdst.toNat
def highReg (h : HF) : Nat := 2 * h.hdst.toNat + 1

def pNeeds (op0 : POp) (h0 : HF) (op1 : POp) (h1 : HF) : Needs :=
  let srcs := srcRegs .w32 h0.hsrc ++ srcRegs .w32 h1.hsrc
  { regs := [lowReg h0, highReg h1] ++ srcs
    reads := (if op0 = .mov then [] else [lowReg h0]) ++ (if op1 = .mov then [] else [highReg h1]) ++ srcs
    latches := srcLatches .w32 h0.hsrc ++ srcLatches .w32 h1.hsrc
    fills := [lowReg h0, highReg h1] }

/-- A P word (R262): both halves read before either writes; b0 takes half 1's result and b1 half 0's. `op` computes a half
from its operation, its MOD, its destination's value and its source. -/
def State.runP (s : State) (op0 : POp) (h0 : HF) (op1 : POp) (h1 : HF) (op : POp → Nat → Dword → Dword → LaneRes) : State :=
  let gid := s.iss.gid
  s.afterPre (s.pre (pNeeds op0 h0 op1 h1)) fun act =>
    let g := s.cur
    let half (o : POp) (h : HF) (d l : Nat) : LaneRes := op o h.hmod.toNat ((g.v l d).setWidth 64) (s.halfSrc gid l h)
    let r0 := half op0 h0 (lowReg h0)
    let r1 := half op1 h1 (highReg h1)
    let g1 := (g.setRegs (lowReg h0) act (fun l => (r0 l).words) 1).setRegs (highReg h1) act (fun l => (r1 l).words) 1
    let g1 := { g1 with fpflags := mergeFlags g1.fpflags (flagsOf act fun l => (r0 l).flags ||| (r1 l).flags) }
    let g1 := (g1.shiftLatch fun l => (g1.v l (lowReg h0)).setWidth 64).shiftLatch fun l => (g1.v l (highReg h1)).setWidth 64
    ((s.setCur g1).setCache [] []).advance

/-- A data fault of a word: cause, lanes, TADDR, TINFO2. -/
structure DataFault where
  cause : Nat
  lanes : Lanes
  addr : Dword := 0
  info : Dword := 0
  deriving DecidableEq, Repr

/-- The faults of the lanes, as one (R114). -/
def laneFaults (act : Lanes) (fault : Nat → Option (Nat × Dword)) : Option DataFault :=
  (pickFault act fault).map fun x => { cause := x.1, lanes := x.2.1, addr := x.2.2 }

/-- What every X word that issues does besides its own effect: the latches of its group and the operand cache of its slot fall
(R103, R105). -/
def State.afterX (s : State) : State := s.dropLatches.setCache [] []

/-- An X word (R264): its tests, its data faults, then its effect; when it issued, the latches and the operand cache fall. A stall of the effect leaves the state as it was: the effect answers `none`. (DESIGN CHOICE: assumption 49.) -/
def State.runX (s : State) (n : Needs) (fault : Lanes → Option DataFault) (act : State → Lanes → Option State) : State :=
  s.afterPre (s.pre n) fun m =>
    match fault m with
    | some d => s.takeTrap d.cause d.lanes d.addr d.info
    | none =>
      match act s m with
      | some t => if t.iss.issued then t.afterX else t
      | none => s

def noFault : Lanes → Option DataFault := fun _ => none

end Sys2Proof.Machine
end

