-- ==== Sys2Proof/Machine/Lifecycle.lean ====
section
/-! DEFINITION. Ends: the commit of held stores, the end of a group, a team, a cluster and a launch's last team
(spec/04_scheduler.md R80, spec/10_determinism_and_reliability.md R219, R240, R241, spec/07_memory_model.md R159). -/
namespace Sys2Proof.Machine

/-! ### The store buffer (R159, R240) -/

/-- The held bytes of a team over a physical byte. -/
def Team.heldByte (t : Team) (pa : Nat) : Option Byte :=
  match t.buffer.find? fun c => c.pa = pa / 16 with
  | some c => if c.mask.getLsbD (pa % 16) then some (c.bytes.getD (pa % 16) 0) else none
  | none => none

/-- A store of bytes within one 16-byte chunk, by a page, merges into the buffer; `none` when it needs a chunk and all are in use. -/
def Team.holdBytes (t : Team) (pa : Nat) (page : Nat × Nat) (bs : List Byte) : Option Team :=
  let k := pa / 16
  let o := pa % 16
  let put (c : Chunk) : Chunk :=
    { c with
      mask := c.mask ||| BitVec.ofNat 16 ((2 ^ bs.length - 1) * 2 ^ o)
      pages := if c.pages.contains page then c.pages else c.pages ++ [page]
      bytes := (List.range 16).map fun i => if o ≤ i && i < o + bs.length then bs.getD (i - o) 0 else c.bytes.getD i 0 }
  if t.buffer.any fun c => c.pa = k then
    some { t with buffer := t.buffer.map fun c => if c.pa = k then put c else c }
  else if Config.holdChunks ≤ t.buffer.length then none
  else some { t with buffer := t.buffer ++ [put { loc := 0, pa := k, mask := 0, bytes := [], pages := [] }] }

/-- The held stores reach memory (R159, R241). -/
def State.flushHeld (s : State) (tk : Nat) : State :=
  let t := s.team tk
  let s := t.buffer.foldl (fun s c =>
    (List.range 16).foldl (fun s i => if c.mask.getLsbD i then s.wr (c.pa * 16 + i) (c.bytes.getD i 0) else s) s) s
  (s.setTeam tk { s.team tk with buffer := [] }).clearCovered
    (t.buffer.flatMap fun c => (List.range 16).filterMap fun i =>
      if c.mask.getLsbD i then some (c.pa * 16 + i, [c.bytes.getD i 0]) else none)

/-! ### Groups of a team, teams of a cluster -/

def State.groupsOf (s : State) (tk : Nat) : List Nat := (List.range (s.launch (keyHandle tk)).groups).map (groupKey tk)
def State.teamsOf (s : State) (ck : Nat) : List Nat :=
  let c := s.cluster ck
  let l := s.launch c.handle
  (List.range (l.cw * l.ch)).map fun i => teamKey c.handle (c.index * (l.cw * l.ch) + i)

/-- Nothing of the group is in flight. -/
def Group.idle (g : Group) : Bool := g.copies.isEmpty && g.mats.isEmpty && g.tiles.isEmpty && g.outs.all (·.restored)

/-- An engine operation of the group that is not complete names a handle (R362). -/
def Group.opNames (g : Group) (h : Word) : Bool :=
  (g.mats.any fun m => m.b = h || m.c = h) || g.matOps.any fun r => !r.done && r.names.contains h

/-- An engine operation of some group of the launch on a team's quad names a reservation of the team (R357). -/
def State.named (s : State) (tk : Nat) : Bool :=
  let q := coreQuad (s.team tk).core
  (s.quad q).resvs.any fun r => r.team = tk && s.groups.any fun p =>
    keyHandle (groupTeam p.1) = r.launch && coreQuad (slotCore p.2.slot) = q && p.2.opNames r.handle

/-- Nothing of the team is in flight, and no engine operation works on its reservations. -/
def State.teamIdle (s : State) (tk : Nat) : Bool := ((s.groupsOf tk).all fun g => (s.group g).idle) && !s.named tk

/-- A group's entry leaves its quad's reservation table and admission queue (R86, R89). -/
def State.dropEngine (s : State) (gid : Nat) : State :=
  let q := s.quadOf gid
  let x := s.quad q
  (s.setQuad q (Quad.letIn { x with
    table := x.table.filter fun e => e.gid != gid
    admission := x.admission.filter fun e => e.gid != gid } s.now)).closePass gid

/-- A group's bands start to clear, and its context is free (R79, R80). -/
def State.freeBands (s : State) (gid : Nat) : State :=
  let g := s.group gid
  let x := s.slot g.slot
  (s.setSlot g.slot { x with
    cur := if x.cur = some gid then none else x.cur
    clearing := x.clearing ++ range' g.band g.nbands }).setGroup gid { g with live := false, nbands := 0, regs := [] }

/-- Physical scratchpad units of a core start to clear: their bytes and bits are already unreachable (R79). -/
def State.freeUnits (s : State) (core : Nat) (us : List Nat) : State :=
  let x := s.core core
  let clr {β : Type} (t : Tab β) (size : Nat) : Tab β := us.foldl (fun t u => tabClear t (u * size) ((u + 1) * size)) t
  s.setCore core { x with pad := clr x.pad 4096, full := clr x.full 1024, pend := clr x.pend 32, clearing := x.clearing ++ us }

/-- A reservation's granules start to clear, and its save area is free (R362). -/
def State.freeResv (s : State) (q : Nat) (r : Resv) : State :=
  let x := s.quad q
  let s := s.setQuad q { x with
    resvs := x.resvs.filter fun y => !(y.handle = r.handle && y.launch = r.launch)
    ob := tabClear x.ob (r.granule * 4096) ((r.granule + r.count) * 4096)
    clearing := x.clearing ++ range' r.granule r.count }
  (List.range 4).foldl (fun s d =>
    s.setDie d { s.die d with areas := (s.die d).areas.filter fun a => !(a.team = r.team && a.kind = .save r.handle) }) s

/-- The system-pool allocations of a team are free (R109, R110, R240, R373). -/
def State.freeAreas (s : State) (tk : Nat) : State :=
  (List.range 4).foldl (fun s d => s.setDie d { s.die d with areas := (s.die d).areas.filter fun a => a.team != tk }) s

/-- An ended team with nothing in flight gives back its reservations and areas (R357, R127). -/
def State.tidyTeam (s : State) (tk : Nat) : State :=
  let t := s.team tk
  if t.ended && t.live && s.teamIdle tk then
    let q := coreQuad t.core
    let mine := (s.quad q).resvs.filter fun r => r.team = tk
    let s := mine.foldl (fun s r => s.freeResv q r) s
    (s.freeAreas tk).setTeam tk { s.team tk with resvs := [], pools := [], armed := [] }
  else s

/-- When every team of a cluster has ended and nothing is in flight, its scratchpad units are released (R80), and the cluster
has ended; when every cluster has, the launch's own end begins with cause 0 (R63). -/
def State.tidyCluster (s : State) (ck : Nat) : State :=
  let c := s.cluster ck
  let ts := s.teamsOf ck
  if c.state = .placed && ts.all fun t => (s.team t).ended && s.teamIdle t then
    let s := ts.foldl (fun s t =>
      (s.freeUnits (s.team t).core (s.team t).units).setTeam t { s.team t with units := [], resident := false, live := false }) s
    let s := s.setCluster ck { c with state := .ended }
    let l := s.launch c.handle
    let done := (s.clusters.filter fun p => p.2.handle = c.handle && p.2.state = .ended).length
    if l.state = .running && done = l.teams / (l.cw * l.ch) then
      s.setLaunch c.handle { l with state := .ending, cause := 0, team := 0 }
    else s
  else s

/-- Nothing of the group is in flight but parked copies. -/
def Group.quiet (g : Group) : Bool := g.copies.all Copy.parked && g.mats.isEmpty && g.tiles.isEmpty && g.outs.all (·.restored)

/-- Every team of a launch has ended, and nothing of it is in flight but parked copies. -/
def State.over (s : State) (h : Word) : Bool :=
  (List.range (s.launch h).teams).all fun t =>
    (s.team (teamKey h t)).ended && (s.groupsOf (teamKey h t)).all fun g => (s.group g).quiet

/-- The groups of a launch that hold a copy. -/
def State.copying (s : State) (h : Word) : List Nat :=
  (s.groups.filter fun p => keyHandle (groupTeam p.1) = h && !p.2.copies.isEmpty).map (·.1)

/-- A team and its cluster give back what they hold, when they have ended; a launch whose teams have all ended discards its
parked copies first. -/
def State.tidy (s : State) (gid : Nat) : State :=
  let tk := groupTeam gid
  let h := keyHandle tk
  let s := (s.tidyTeam tk).tidyCluster (s.team tk).ck
  let cs := s.copying h
  if cs.isEmpty || !s.over h then s
  else
    let s := s.discardParked h
    cs.foldl (fun s g => (s.tidyTeam (groupTeam g)).tidyCluster (s.team (groupTeam g)).ck) s

/-- A group's last lane has exited: the end count grows (R219), its engine entries go, and with the team's last group the
team ends: its held stores reach memory, its contexts and bands are released (R80, R159). -/
def State.endGroup (s : State) (gid : Nat) : State :=
  let tk := groupTeam gid
  let s := (s.dropEngine gid).releaseA gid
  let s := s.setTeam tk { s.team tk with ends := (s.team tk).ends + 1 }
  if (s.groupsOf tk).all fun g => (s.group g).exited = allLanes then
    let s := s.flushHeld tk
    let s := s.setTeam tk { s.team tk with ended := true }
    let s := (s.groupsOf tk).foldl (fun s g => if (s.group g).live then s.freeBands g else s) s
    s.tidy gid
  else s

/-! ### Commit (R241) -/

/-- `COMMIT`'s release of the held stores, and HOLD cleared, for the team of the group in hand. -/
def State.commitTeam (s : State) (tk : Nat) : State :=
  let s := s.flushHeld tk
  let s := s.setTeam tk { s.team tk with committed := true }
  (s.groupsOf tk).foldl (fun s g => s.setGroup g { s.group g with hold := false }) s

/-! ### Consumption of an uncorrectable error (R235) -/

/-- Every group of the consuming group's cluster freezes, and the snapshot goes to the supervisor. A pre-emption under way is
cancelled. -/
def State.freeze (s : State) (gid source die unit : Nat) (addr : Dword) (lanes : Lanes) : State :=
  let ck := (s.group gid).ck
  let c := s.cluster ck
  if c.state = .frozen || c.state = .ended then s
  else
    let snap : Snapshot := { gid, source, die, unit, pc := s.iss.pc, lanes, addr, time := s.now }
    let s := s.setCluster ck { c with state := .frozen, snap := some snap }
    let s := ((s.teamsOf ck).flatMap s.groupsOf).foldl (fun s g => s.setGroup g { s.group g with stopped := true }) s
    s.countLive (.freezes c.die)

/-- The same of an error on a die of this package, whose governor sees it (R227). -/
def State.consume (s : State) (gid source die unit : Nat) (addr : Dword) (lanes : Lanes) : State :=
  let c := s.cluster (s.group gid).ck
  if c.state = .frozen || c.state = .ended then s else (s.dieError die).freeze gid source die unit addr lanes

/-- The source code, die and unit of an error at a physical address (R236, R238); `stride` as in R126. -/
def errorAt (pa stride : Nat) : Nat × Nat × Nat :=
  let o := ownerOf pa stride
  (if inLpddr pa then 5 else if inCxl pa then 6 else 4, o / 16, o % 16)

end Sys2Proof.Machine
end

