-- ==== Sys2Proof/Machine/Select.lean ====
section
/-! DEFINITION. Runs of a group and the count of bundles (spec/04_scheduler.md R91, R93; spec/05_cores_and_execution.md R97,
R105). -/
namespace Sys2Proof.Machine

/-- The lanes that take part in run selection. -/
def Group.part (g : Group) : Lanes := ~~~(g.exited ||| g.waiting)

/-- The lanes of a set that stand at a PC. -/
def Group.lanesAt (g : Group) (m : Lanes) (pc : Dword) : Lanes := lanesOf fun l => m.getLsbD l && laneAt64 g.pcs l == pc

/-- The lowest PC of the lanes that take part. -/
def Group.headPc (g : Group) : Option Dword :=
  (lanesList g.part).foldl (fun p l =>
    let x := laneAt64 g.pcs l
    match p with
    | none => some x
    | some y => if x.toNat < y.toNat then some x else some y) none

/-- The head run: the run with the lowest PC; no lanes when none takes part. -/
def Group.headRun (g : Group) : Lanes :=
  match g.headPc with
  | none => 0
  | some pc => g.lanesAt g.part pc

/-- The lanes that take part and are not in the head run. -/
def Group.eligible (g : Group) : Lanes := g.part &&& ~~~g.headRun

/-- The group has two or more runs. -/
def Group.split (g : Group) : Bool := g.eligible != 0

/-- The lane at which the yield run is found. -/
def Group.yieldLane (g : Group) : Nat :=
  match (lanesList g.eligible).find? (g.ylane < ·) with
  | some l => l
  | none => (lowestLane g.eligible).getD 0

/-- The yield run. -/
def Group.yieldRun (g : Group) : Lanes := g.lanesAt g.part (laneAt64 g.pcs g.yieldLane)

/-- YLANE after the yield bundle: the end of the stretch of the yield run that begins at its lane. -/
def Group.yieldEnd (g : Group) : Nat :=
  let l := g.yieldLane
  ((List.range 32).foldl (fun (p : Nat × Bool) j =>
    if j < l || p.2 then p
    else if g.eligible.getLsbD j && !g.yieldRun.getLsbD j then (p.1, true)
    else (j, false)) (l, false)).1

/-- The next bundle is a yield bundle. -/
def Group.yields (g : Group) : Bool := g.split && (g.yforce || Config.yieldPeriod ≤ g.ycount)

/-- The run that issues next. -/
def Group.nextRun (g : Group) : Lanes := if g.yields then g.yieldRun else g.headRun

end Sys2Proof.Machine
end

