-- ==== Sys2Proof/Machine/Requests.lean ====
section
/-! DEFINITION. The requester's side of the fabric: serials, the window, regions and checkpoints, and the requests of an
instruction (spec/02_fabric_and_exactly_once.md R33 to R42, R413, spec/05_cores_and_execution.md R108, R109,
spec/10_determinism_and_reliability.md R240, R241). -/
namespace Sys2Proof.Machine

/-! ### CRC-32C (R31, R413; assumption 16) -/

def crcStep (c : Nat) : Nat := if c % 2 = 1 then (c / 2) ^^^ 0x82F63B78 else c / 2
def crcByte (c : Nat) (b : Byte) : Nat := (List.range 8).foldl (fun c _ => crcStep c) (c ^^^ b.toNat)
def crc32c (bs : List Byte) : Nat := bs.foldl crcByte 0xFFFFFFFF ^^^ 0xFFFFFFFF

/-- The lane check of R413. -/
def laneCheck (oper : Word) (pa : Nat) : BitVec 16 := BitVec.ofNat 16 (crc32c (leBytes 4 oper.toNat ++ leBytes 6 pa))

/-! ### Serials (R38, R40) -/

/-- Later(a, b) of R44: the signed difference is positive. -/
def later (a b : Word) : Bool := decide (0 < (a - b).toInt)

/-- The older and the newer of two serials. -/
def older (a b : Word) : Word := if later a b then b else a
def newer (a b : Word) : Word := if later a b then a else b

/-- Serials that the group's engine and tile operations took and have not sent all their stores under. -/
def Group.engineSerials (g : Group) : List Word := g.mats.filterMap (·.serial) ++ g.tiles.filterMap (·.serial)

/-- The oldest outstanding watermarked serial; an entry that a resume restored is not yet sent again. -/
def Group.oldestOut (g : Group) : Option Word :=
  ((g.outs.filter fun o => o.watermarked && !o.restored).map (·.serial) ++ g.engineSerials).foldl
    (fun a x => some (match a with | none => x | some y => older y x)) none

/-- ACKPT (R40). -/
def Group.ackpt (g : Group) : Word :=
  let a := if g.hold then older g.rstart g.tstart else g.rstart
  match g.oldestOut with
  | none => a
  | some x => older a x

/-- Why the window of 1,024 serials is full, if it is (R40). -/
inductive Window where
  | free | outstanding | region | commit
  deriving DecidableEq, Repr

def Group.window (g : Group) : Window :=
  if (g.wserial - g.ackpt).toNat < Config.window then .free
  else if g.oldestOut = some g.ackpt then .outstanding
  else if g.hold && g.ackpt == g.tstart then .commit
  else .region

/-! ### Regions (R108, R109) -/

/-- The checkpoint of the group as it stands. -/
def Group.checkpoint (g : Group) (bar : Bool) : Ckpt :=
  { pcs := g.pcs, exited := g.exited, waiting := g.waiting, masks := g.masks, stand := g.stand, first := g.first, last := g.last,
    none := g.noLive, ycount := g.ycount, ylane := g.ylane, yforce := g.yforce, fpflags := g.fpflags, trap := g.trap, wserial := g.wserial,
    rstart := g.wserial, tstart := g.tstart, hold := g.hold, outs := [], replay := g.wserial,
    regs := if g.noLive then [] else g.regs.filter fun p => g.first ≤ p.1 && p.1 ≤ g.last, bar,
    nTile := g.nTile, nCopy := g.nCopy, nReq := g.nReq, unknowns := g.unknowns }

/-- The checkpoint can be written: every watermarked request has its complete reply, and the live range has landed. -/
def Group.canBegin (g : Group) : Bool :=
  g.oldestOut.isNone && !(!g.noLive && g.awaits (range' g.first (g.last + 1 - g.first)) allLanes)

/-- The bundle count and YLANE after the bundle in hand (R93, R295). -/
def Group.counted (g : Group) (i : Issue) : Group :=
  { g with
    ycount := if i.yield || i.yielded then 0 else min Config.yieldPeriod (g.ycount + 1)
    ylane := if i.yield then i.yend else g.ylane
    yforce := i.yielded || (g.yforce && !i.yield) }

/-- A region begins before the instruction in hand (R108): checkpoint, RSTART. -/
def Group.beginBefore (g : Group) : Group := { g with ckpt := some (g.checkpoint false), rstart := g.wserial, inBar := false, steps := [] }

/-- A region begins after the instruction in hand, whose bundle the checkpoint counts. -/
def Group.beginAfter (g : Group) (i : Issue) : Group :=
  { g with ckpt := some ((g.counted i).checkpoint false), rstart := g.wserial, inBar := false, steps := [] }

/-- A region begins between the arrival and the wait of a `BAR` (R108): the lanes stand at it, its arrival made. -/
def Group.beginBar (g : Group) : Group := { g with ckpt := some (g.checkpoint true), rstart := g.wserial, inBar := true, steps := [] }

/-- The group in hand begins a region before or after the instruction in hand; a held A is released (R365). -/
def State.regionBefore (s : State) : State := (s.setCur s.cur.beginBefore).releaseA s.iss.gid
def State.regionAfter (s : State) : State := (s.setCur (s.cur.beginAfter s.iss)).releaseA s.iss.gid

/-- The group in hand begins a region before the instruction in hand, or waits. -/
def State.beginRegion (s : State) : Option State := if s.cur.canBegin then some s.regionBefore else none

/-- The older events of a group have taken effect, so that a commit's release may (R151, R159, R320). -/
def Group.mayCommit (g : Group) : Bool := g.canBegin && !g.pending allLanes && !g.storesOut

/-- An implicit commit (R40, R240, R241): exactly the effect of `COMMIT`. -/
def State.implicitCommit (s : State) : Option State :=
  if s.cur.mayCommit then (s.commitTeam (groupTeam s.iss.gid)).beginRegion else none

/-- The window opens for one more serial, or the instruction waits. -/
def State.openWindow (s : State) : Option State :=
  match s.cur.window with
  | .free => some s
  | .outstanding => none
  | .region => s.beginRegion
  | .commit => s.implicitCommit

/-- What an instruction begins before it acts: an implicit commit, then room for a serial; none while it must wait (R40, R240). -/
def State.opened (s : State) (commit serial : Bool) : Option State :=
  (if commit then s.implicitCommit else some s).bind fun s => if serial then s.openWindow else some s

/-- A serial would begin a region (R40, R341). -/
def Group.windowRegion (g : Group) : Bool := g.window == .region || g.window == .commit

/-! ### Requests (R33, R39, R413) -/

/-- OPER (assumption 7): the operation, its type, rounding, scope and order. -/
def operWord (op : OwnerOp) (scope : BitVec 3) (ord : BitVec 2) : Word :=
  let b (x : Bool) : Nat := if x then 1 else 0
  let pack (kind code : Nat) (w s : Bool) (r : BitVec 3) (l ret : Bool) (n : Nat) : Word :=
    BitVec.ofNat 32 (kind + code * 2 ^ 4 + b w * 2 ^ 9 + b s * 2 ^ 10 + r.toNat * 2 ^ 11 + b l * 2 ^ 14 + b ret * 2 ^ 15
      + scope.toNat * 2 ^ 16 + ord.toNat * 2 ^ 19 + n * 2 ^ 21)
  match op with
  | .load n sg => pack 0 0 false sg 0 false true n
  | .store n => pack 1 0 false false 0 false false n
  | .stores n _ => pack 9 0 false false 0 false false n
  | .atom c w s r => pack 2 c.toNat w s r false true 0
  | .red c w s r h => pack 3 c.toNat w s r false false (b h)
  | .atomv c w s r l ret => pack 4 c.toNat w s r l ret 0
  | .opt adam f64 r st _ => pack 5 (b adam) f64 false r false false (Nat.log2 st)
  | .ccon slot => pack 6 slot false false 0 false false 0
  | .cline _ _ m => pack 7 m.toNat false false 0 false true 0
  | .launch _ _ => pack 8 0 false false 0 false true 0

/-- The requester key (R37). -/
def requesterKey (ctx : BitVec 16) (gid : Nat) : BitVec 48 :=
  BitVec.ofNat 48 (ctx.toNat * 2 ^ 32 + teamIndex (groupTeam gid) * 2 ^ 8 + groupIndex gid * 2 ^ 3)

/-- The group that a key of a launch names. -/
def keyGroup (h : Word) (key : BitVec 48) : Nat :=
  groupKey (teamKey h (key.toNat / 2 ^ 8 % 2 ^ 24)) (key.toNat / 2 ^ 3 % 2 ^ 5)

/-- One lane of a request: lane, place, the address that it named, operand words. -/
structure ReqLane where
  lane : Nat
  place : Place
  va : Dword
  data : List Word := []

/-- The owner of a lane: package and slice. -/
def State.laneOwner (s : State) (p : Place) : BitVec 16 × Nat :=
  if p.kind = 2 then (p.pkg, ownerOf p.pa 0) else (s.image.pkgnum, ownerOf p.pa p.stride)

/-- The access of a lane is a release event, an acquire event (R148). -/
def isRelease (ord : BitVec 2) (p : Place) : Bool := p.order = 1 || (p.order = 0 && 2 ≤ ord.toNat)
def isAcquire (ord : BitVec 2) (p : Place) : Bool := p.order = 1 || (p.order = 0 && ord.toNat % 2 = 1)

/-- How a request is matched with its reply: package, owner, and whether it is watermarked. -/
def replyKey (pkg : BitVec 16) (owner : Nat) (wm : Bool) : Nat := (if wm then 0 else 2 ^ 24) + pkg.toNat * 128 + owner

/-- The packet of one request. -/
def State.request (s : State) (op : OwnerOp) (oper : Word) (wm : Bool) (serial : Word) (pkg : BitVec 16) (owner : Nat)
    (ls : List ReqLane) : Packet :=
  let g := s.cur
  let recs := ls.map fun x : ReqLane =>
    { lane := x.lane, pa := BitVec.ofNat 48 x.place.pa, check := laneCheck oper x.place.pa, data := x.data, va := x.va : LaneRec }
  { Packet.zero with
    dst := pkg, src := s.image.pkgnum, kind := if wm then 2 else 0
    retx := wm && later g.replay serial
    lhandle := keyHandle (groupTeam s.iss.gid), key := requesterKey (s.launchOf s.iss.gid).ctx s.iss.gid
    serial, ackpt := g.ackpt, addr := ((recs.head?.map (·.pa)).getD 0), opchk := ((recs.head?.map (·.check)).getD 0)
    lanes := lanesOf fun l => ls.any fun x => x.lane = l
    oper, owner, op, recs, gid := s.iss.gid }

/-- The stores of a lane record (see `OwnerOp.stores`): offset and value, `k` operand words each. -/
def storesOf (k : Nat) : Nat → List Word → List (Nat × Nat)
  | 0, _ => []
  | fuel + 1, ws =>
    match ws with
    | [] => []
    | o :: t => (o.toNat, leVal ((t.take k).flatMap fun w => leBytes 4 w.toNat)) :: storesOf k fuel (t.drop k)

/-- Words that a store of `n` bytes takes. -/
def storeWords (n : Nat) : Nat := (n + 3) / 4

/-- Planes that an optimiser update touches (R378). -/
def optPlanes (adam f64 : Bool) : Nat := (if f64 then 4 else 2) + if adam then 4 else 0

/-- The stride and the untranslated address that a lane's operand words carry behind its gradient. -/
def optStride (ws : List Word) : Nat := ((ws.drop (ws.length - 3)).getD 0 0).toNat
def optVa (ws : List Word) : Dword := (ws.drop (ws.length - 3)).getD 2 0 ++ (ws.drop (ws.length - 3)).getD 1 0

/-- The ranges of bytes that a lane of a request names: first address and length. -/
def opRanges (op : OwnerOp) (pa : Nat) (ws : List Word) : List (Nat × Nat) :=
  match op with
  | .load n _ | .store n => [(pa, n)]
  | .stores n _ => (storesOf (storeWords n) ws.length ws).map fun x => (pa + x.1, n)
  | .atom _ w _ _ | .red _ w _ _ _ => [(pa, if w then 8 else 4)]
  | .atomv _ _ _ _ l _ => [(pa, if l then 32 else 16)]
  | .opt adam wide _ _ _ => (List.range (optPlanes adam wide)).map fun j => (pa + j * optStride ws, 2)
  | .ccon _ | .cline _ _ _ => [(pa, 256)]
  | .launch _ _ => []

/-- The 128-byte lines of a range. -/
def rangeLines (r : Nat × Nat) : List Nat := (List.range ((r.1 + r.2 + 127) / 128 - r.1 / 128)).map (r.1 / 128 + ·)

/-- The lines that a request touches (R39), with its package: every line of every byte that it names. (DEDUCED: assumption 91.) -/
def OutReq.lines (o : OutReq) : List (BitVec 16 × Nat) :=
  match o.packet.op with
  | .launch _ _ => o.packet.recs.map fun r => (o.opkg, r.pa.toNat / 128)
  | op => ((o.packet.recs.flatMap fun r => (opRanges op r.pa.toNat r.data).flatMap rangeLines).map fun n => (o.opkg, n)).eraseDups

/-- An older watermarked request to one of the same lines has no reply (R39). An entry that a resume restored waits to be sent
itself. -/
def mustHold (older : List OutReq) (o : OutReq) : Bool :=
  o.watermarked && older.any fun p => p.watermarked && !p.restored && p.lines.any fun x => o.lines.contains x

/-- A package that a launch addressed (R45). -/
def State.addressed (s : State) (h : Word) (pkg : BitVec 16) : State :=
  let l := s.launch h
  if pkg = s.image.pkgnum || l.pkgs.contains pkg then s else s.setLaunch h { l with pkgs := l.pkgs ++ [pkg] }

/-- Microseconds to the time base. -/
def us (n : Nat) : Nat := n * 1000

/-- Ports that are up, in ascending order. -/
def State.portsUp (s : State) : List Nat := (List.range Config.ports).filter fun i => s.fabUp.getLsbD i

/-- The port of a packet's next transmission (R35): for the first one by the hash of its destination and its address, for a later
one the next port that is up, in ascending order with wrap. A packet within the package takes none. -/
def State.portFor (s : State) (p : Packet) (last : Option Nat) : Option Nat :=
  let ups := s.portsUp
  if p.dst = s.image.pkgnum then none
  else
    match last with
    | none => if ups.isEmpty then none else ups[Config.portHash p.dst (BitVec.ofNat 36 (p.addr.toNat / 2 ^ 12)) % ups.length]?
    | some k => (ups.find? fun i => k < i).orElse fun _ => ups.head?

/-- A packet leaves: through the package itself, where its age counts from now, or through a port, when one is up (R35). -/
def State.emit (s : State) (p : Packet) : State :=
  if p.dst != s.image.pkgnum && s.fabUp == 0 then s else { s with net := s.net ++ [{ p with sent := s.now }] }

/-- The notices due, when a request that tells the owner the ACKPT leaves (R45). -/
def Group.told (g : Group) (wm : Bool) (pkg : BitVec 16) (owner : Nat) : Group :=
  { g with notices := g.notices.filter fun n => !(wm && n.1 = pkg && n.2.1 = owner) }

/-- One request enters the outstanding list, which has no bound (assumption 82), and travels unless it must wait. `dst` names the
registers that its reply fills; `order` is the place of its instruction, when that issued earlier. -/
def State.sendOne (s : State) (op : OwnerOp) (oper : Word) (wm : Bool) (serial : Word) (dst : List Nat)
    (pkg : BitVec 16) (owner : Nat) (ls : List ReqLane) (order : Option Nat := none) : State :=
  let p := s.request op oper wm serial pkg owner ls
  let accLanes (t : ReqLane → Bool) : Lanes := lanesOf fun l => ls.any fun x => x.lane = l && t x
  let g := s.cur
  let o : OutReq :=
    { serial, opkg := pkg, owner, lanes := p.lanes, tries := 1, first := !p.retx, replay := p.retx, watermarked := wm,
      held := false, start := s.now, next := s.now + us 16, busy := false, pc := s.iss.pc, packet := p,
      seq := g.nReq, order := order.getD g.nReq, port := s.portFor p none, restored := false, acq := accLanes fun x => isAcquire (BitVec.ofNat 2 (oper.toNat / 2 ^ 19)) x.place }
  let o := { o with held := mustHold g.outs o }
  let mine (x : OutReq) : Bool := wm && x.restored && x.serial = serial && x.opkg = pkg && x.owner = owner
  let late : List Late :=
    if dst.isEmpty then []
    else [{ serial, owner := some (replyKey pkg owner wm), dst, regs := dst.map fun r => (r, p.lanes), rows := [], ready := false }]
  let g := g.claim (dst.map fun r => (r, p.lanes))
  let s := s.setCur { g with
    outs := (g.outs.filter fun x => !mine x) ++ [o], late := g.late ++ late, nReq := g.nReq + 1 }
  let s := s.addressed p.lhandle pkg
  if o.held then s else (s.setCur (s.cur.told wm pkg owner)).emit p

/-- The requests of one instance: one for each owner (R413), under one serial. A watermarked instance takes the group's
serial; a load is matched by a number of its own. -/
def State.sendAll (s : State) (op : OwnerOp) (scope : BitVec 3) (ord : BitVec 2) (wm : Bool) (dst : List Nat)
    (ls : List ReqLane) : State :=
  if ls.isEmpty then s
  else
    let g := s.cur
    let serial := if wm then g.wserial else BitVec.ofNat 32 g.nextOp
    let oper := operWord op scope ord
    let own (x : ReqLane) : BitVec 16 × Nat := s.laneOwner x.place
    let owners := (ls.map own).eraseDups
    let s := s.setCur (if wm then { g with wserial := g.wserial + 1 } else { g with nextOp := g.nextOp + 1 })
    owners.foldl (fun s o => s.sendOne op oper wm serial dst o.1 o.2 (ls.filter fun x => own x = o)) s

/-- The group in hand takes one serial (R38). -/
def State.takeSerial (s : State) : State := s.setCur { s.cur with wserial := s.cur.wserial + 1 }

/-- Bytes of a lane record with its operands in a payload (R413). -/
def ReqLane.size (x : ReqLane) : Nat := 8 + 4 * x.data.length

/-- Lanes split so that no payload passes 4,096 bytes (R32). -/
def splitLanes (room : Nat) : List ReqLane → List (List ReqLane)
  | [] => []
  | x :: t =>
    match splitLanes room t with
    | [] => [[x]]
    | l :: ls => if (((x :: l).map ReqLane.size).sum ≤ room) then (x :: l) :: ls else [x] :: l :: ls

/-- A store of an engine or tile operation to another package: its lane, its place, the address that it named, its value. -/
structure FarStore where
  lane : Nat
  place : Place
  va : Dword
  value : Nat

/-- The stores of `n` bytes of one operation under the serial and in the place that it took: one request for each owner, or several when a
payload would be too long; each lane's stores at an owner travel in its lane record (R38, R413). (DESIGN CHOICE: assumption 21.) -/
def State.sendStores (s : State) (gid : Nat) (pc : Dword) (serial : Word) (order n : Nat) (tile : Bool) (xs : List FarStore) : State :=
  let keep := s.iss
  let s := { s with iss := { keep with gid, pc } }
  let op : OwnerOp := .stores n tile
  let own (x : FarStore) : BitVec 16 × Nat := s.laneOwner x.place
  let owners := (xs.map own).eraseDups
  let s := owners.foldl (fun s o =>
    let mine := xs.filter fun x => own x = o
    let rec_ (l : Nat) : Option ReqLane :=
      match mine.filter fun x => x.lane = l with
      | [] => none
      | a :: t =>
        let low := t.foldl (fun (b : FarStore) x => if x.place.pa < b.place.pa then x else b) a
        some { lane := l, place := low.place, va := low.va
               data := (a :: t).flatMap fun x => BitVec.ofNat 32 (x.place.pa - low.place.pa) ::
                 (List.range (storeWords n)).map fun k => BitVec.ofNat 32 (x.value / 2 ^ (32 * k)) }
    (splitLanes 4096 ((List.range 32).filterMap rec_)).foldl (fun s ls =>
      s.sendOne op (operWord op 5 0) true serial [] o.1 o.2 ls (some order)) s) s
  { s with iss := keep }

/-- An operation counted in `.rem` (R355). -/
def Group.addRem (g : Group) (serial : Word) : Group :=
  { g with rem := g.rem ++ [{ serial := some serial, seq := g.nRem, done := false }], nRem := g.nRem + 1 }

/-- The class retires in issue order (R355). -/
def remRetire (l : List RemOp) : List RemOp := l.dropWhile fun r => r.done

/-- One that took effect at its core is counted, and complete (R335). -/
def Group.nearRem (g : Group) : Group :=
  { g with rem := remRetire (g.rem ++ [{ serial := none, seq := g.nRem, done := true }]), nRem := g.nRem + 1 }

/-- A watermarked instance of a deterministic launch would take the last serial: DETERMINISM (R218). -/
def State.lastSerial (s : State) : Bool := (s.launchOf s.iss.gid).determ && s.cur.wserial == 0xFFFFFFFF

end Sys2Proof.Machine
end

