-- ==== Sys2Proof/Machine/Access.lean ====
section
/-! DEFINITION. Accesses to places: bytes, presence, poison, held stores, and what the memory words share
(spec/15_isa_memory_atomics_sync.md R318 to R321, spec/06_address_spaces.md R123, R124, R133,
spec/07_memory_model.md R159). -/
namespace Sys2Proof.Machine

/-! ### Bytes of a place -/

/-- A byte of a scratchpad. -/
def State.padByte (s : State) (core pa : Nat) : Byte := tabGet 0 (s.core core).pad pa

/-- A team's read of byte `i` of a place: held bytes first (R159). -/
def State.placeByte (s : State) (tk : Nat) (p : Place) (i : Nat) : Byte :=
  if p.kind = 3 then s.padByte p.core (p.pa + i) else ((s.team tk).heldByte (p.pa + i)).getD (s.cell (p.pa + i))

def State.readPlace (s : State) (tk : Nat) (p : Place) (n : Nat) : Nat := leVal ((List.range n).map fun i => s.placeByte tk p i)

/-- Bytes written to a core's scratchpad. -/
def State.padWrite (s : State) (core pa : Nat) (bs : List Byte) : State :=
  let x := s.core core
  s.setCore core { x with pad := (bs.foldl (fun (p : Tab Byte × Nat) b => (tabSet 0 p.1 p.2 b, p.2 + 1)) (x.pad, pa)).1 }

/-- A write of memory takes away the reservations of its lines, whatever it leaves (R2). -/
def State.loseReserved (s : State) (pa n : Nat) : State :=
  { s with harts := s.harts.map fun p =>
      if p.2.reserved.any fun l => pa / 128 ≤ l && l * 128 < pa + n then (p.1, { p.2 with reserved := none }) else p }

/-- Bytes written to memory; a write to a removed range, or to where nothing is, is lost (assumptions 17 and 19). -/
def State.memWrite (s : State) (pa : Nat) (bs : List Byte) : State :=
  if s.isRemoved pa || !s.backed pa then s else (s.wrBytes pa bs).loseReserved pa bs.length

/-- A write of a place; a held one enters the team's buffer, and does not happen when the buffer has no chunk for it. -/
def State.writePlace (s : State) (tk : Nat) (held : Bool) (p : Place) (bs : List Byte) : Option State :=
  if p.kind = 3 then some (s.padWrite p.core p.pa bs)
  else if held then ((s.team tk).holdBytes p.pa (p.va.toNat / 2 ^ p.shift, p.shift) bs).map fun t => s.setTeam tk t
  else some (s.memWrite p.pa bs)

/-! ### Presence, poison, full words -/

/-- The line of a scratchpad place is absent (R123). -/
def State.absent (s : State) (p : Place) : Bool := p.kind = 3 && tabGet 0 (s.core p.core).pend (p.pa / 128) != 0

/-- A read of the place consumes an uncorrectable error (R18, R234). -/
def State.bad (s : State) (p : Place) : Bool := (p.kind = 0 || p.kind = 1) && (s.poisoned p.pa || s.isRemoved p.pa)

/-- The full/empty state of a word (R124). -/
def State.isFull (s : State) (p : Place) : Bool := tabGet false (s.core p.core).full (p.pa / 4)

/-- The state of a word changes: a step that a parked `LDFE` or `STFE` has taken at the word can no longer be undone (R108). -/
def Wait.note (w : Wait) (core pa : Nat) : Wait :=
  { w with taken := w.taken.map fun t => if t.core = core && t.pa = pa then { t with seen := true } else t }

def State.setFull (s : State) (p : Place) (b : Bool) : State :=
  let x := s.core p.core
  { s.setCore p.core { x with full := tabSet false x.full (p.pa / 4) b } with
    groups := s.groups.map fun q => (q.1, { q.2 with wait := q.2.wait.map fun w => w.note p.core p.pa }) }

/-! ### The lanes of an XM word -/

/-- The address of a lane (R318). -/
def State.xmAddr (s : State) (gid l : Nat) (addr : BitVec 8) (off : Dword) : Dword := (s.group gid).v64 l addr.toNat + off

/-- The offsets of R265: whole, `STP`'s 13 bits, group 0x01's 8 bits. -/
def offWhole (f : XM) : Dword := f.offs.signExtend 64
def offStp (f : XM) : Dword := (f.offs.setWidth 13).signExtend 64
def offAtom (f : XM) : Dword := (f.offs.setWidth 8).signExtend 64

/-- A lane's access: its address and its place. -/
structure LaneAcc where
  lane : Nat
  va : Dword
  place : Place
  deriving DecidableEq, Repr

/-- How the lanes of a word resolve their addresses. -/
abbrev Resolver := Nat → Dword × Except Nat Place

/-- A plain access of `n` bytes at an alignment. -/
def State.plainRes (s : State) (addr : BitVec 8) (off : Dword) (n align : Nat) (write : Bool) : Resolver := fun l =>
  let a := s.xmAddr s.iss.gid l addr off
  (a, s.resolve s.iss.gid l a n align write)

def resFaults (act : Lanes) (r : Resolver) : Option DataFault :=
  laneFaults act fun l =>
    match r l with
    | (a, .error c) => some (c, a)
    | _ => none

/-- The accesses of the lanes that resolve. -/
def lanePlaces (act : Lanes) (r : Resolver) : List LaneAcc :=
  (lanesList act).filterMap fun l =>
    match r l with
    | (a, .ok p) => some { lane := l, va := a, place := p }
    | _ => none

def accLanes (xs : List LaneAcc) : Lanes := lanesOf fun l => xs.any fun x => x.lane = l

/-- The lanes' scratchpad lines are present; otherwise the group parks at the word, and its pass ends (R123, R89). -/
def State.present (s : State) (i : Instr) (act : Lanes) (xs : List LaneAcc) (go : State → Option State) : Option State :=
  if xs.any fun x => s.absent x.place then
    some ((s.setCur { s.cur with wait := some { i, run := s.iss.run, pc := s.iss.pc, left := act, absent := true, since := s.now } }).closePass
      s.iss.gid)
  else go s

/-- A load of the group's of `n` bytes takes a poisoned value: one of the bytes is not held by the team (R159, R234). -/
def State.badRead (s : State) (n : Nat) (p : Place) : Bool :=
  s.bad p && (List.range n).any fun i => ((s.team (groupTeam s.iss.gid)).heldByte (p.pa + i)).isNone

/-- No lane reads a place whose value is poisoned; otherwise the group consumes the error (R235). -/
def State.intact (s : State) (bad : Place → Bool) (xs : List LaneAcc) (go : State → Option State) : Option State :=
  match xs.filter fun x => bad x.place with
  | [] => go s
  | x :: rest =>
    let pa := x.place.pa
    let e := errorAt pa x.place.stride
    some (s.consume s.iss.gid e.1 e.2.1 e.2.2 (BitVec.ofNat 64 (pa / 128 * 128)) (accLanes (x :: rest)))

/-- Bytes of a WIDTH code 0 to 4. -/
def widthBytes (w : BitVec 3) : Nat := 2 ^ w.toNat

/-- The data registers of a WIDTH code, and of an access. -/
def widthRegs (w : BitVec 3) : Nat := if w.toNat ≤ 2 then 1 else 2 ^ (w.toNat - 2)
def dataRegs (f : XM) : List Nat := range' f.data.toNat (widthRegs f.width)

/-- Words of a lane's registers, and the words of a value. -/
def Group.words (g : Group) (l : Nat) (rs : List Nat) : List Word := rs.map fun r => g.v l r
def wordsVal : List Word → Nat
  | [] => 0
  | w :: ws => w.toNat + 2 ^ 32 * wordsVal ws
def valWords : Nat → Nat → List Word
  | 0, _ => []
  | n + 1, x => BitVec.ofNat 32 x :: valWords n (x / 2 ^ 32)

/-- Registers of each lane written with words. -/
def Group.setWords (g : Group) (rs : List Nat) (l : Nat) (ws : List Word) : Group :=
  ((List.range rs.length).foldl (fun g i => g.setReg (rs.getD i 0) (BitVec.ofNat 32 (2 ^ l)) fun _ => ws.getD i 0) g)

/-! ### Coherence with requests in flight (R154) -/

/-- A lane's access meets a byte that an older request of the lane still touches: the lane's events at one location keep their order.
Two watermarked requests to a line keep it by R39. -/
def State.clash (s : State) (wm : LaneAcc → Bool) (n : Nat) (xs : List LaneAcc) : Bool :=
  s.cur.outs.any fun o => o.demand && o.packet.recs.any fun r => xs.any fun x =>
    x.lane = r.lane && x.place.kind != 3 && !(wm x && o.watermarked)
      && (if x.place.kind = 2 then x.place.pkg else s.image.pkgnum) = o.opkg
      && (opRanges o.packet.op r.pa.toNat r.data).any fun q => q.1 < x.place.pa + n && x.place.pa < q.1 + q.2

/-- An unknown outcome is that of an atomic on data that an access of `n` bytes reads (R335). (DEDUCED: assumption 44.) -/
def State.updatedBy (s : State) (n : Nat) (xs : List LaneAcc) (u : Unknown) : Bool :=
  u.data.any fun q => xs.any fun x =>
    x.place.kind != 3 && (if x.place.kind = 2 then x.place.pkg else s.image.pkgnum) = q.1
      && q.2.1 < x.place.pa + n && x.place.pa < q.2.1 + q.2.2

/-- The word is a delivery point of R42: release order at `.fab`. -/
def releaseFab (scope : BitVec 3) (ord : BitVec 2) : Bool := 2 ≤ ord.toNat && scope == 7

/-! ### Plane places (R133, R322) -/

/-- The bytes that hold a place's planes stay in the range of its die. -/
def State.planesFit (s : State) (pa last : Nat) : Bool :=
  if inLpddr pa then inLpddr last && lpddrDie last == lpddrDie pa
  else if inCxl pa then inCxl last
  else s.inSheet last && sheetDie last == sheetDie pa

/-- A plane access: a global page with PF = 1, `k` planes of `n` bytes (R133, R322). -/
def State.planeRes (s : State) (addr : BitVec 8) (off : Dword) (k n align : Nat) (write : Bool) : Resolver := fun l =>
  let a := s.xmAddr s.iss.gid l addr off
  (a,
    match s.classOf s.iss.gid a with
    | 0 | 1 =>
      match s.resolve s.iss.gid l a n align write with
      | .error c => .error c
      | .ok p => if p.pf && s.planesFit p.pa (p.pa + (k - 1) * p.stride + n - 1) then .ok p else .error 0x0B
    | _ => .error 0x0B)

def Place.plane (p : Place) (j : Nat) : Place := { p with pa := p.pa + j * p.stride }

end Sys2Proof.Machine
end

