-- ==== Sys2Proof/Machine/Blocks.lean ====
section
/-! DEFINITION. Dual-exponent blocks (spec/08_number_formats.md R176 to R180). -/
namespace Sys2Proof.Machine

/-- Planes stored and magnitude bits by tag (R176, R177). -/
def deStored (tag : Nat) : Nat := if tag = 0 then 1 else if tag = 1 then 2 else if tag = 2 then 4 else 0
def deBits (planes : Nat) : Nat := 4 * planes - 2

/-- The tag of a header (R176). -/
def deTag (h : Nat) : Nat := h / 2 ^ 16 % 4

/-- The nibble of plane `j` of an element with sign, selector and magnitude of `q` bits (R177). -/
def deNibble (s sel : Bool) (m q j : Nat) : Nat :=
  if j = 0 then (if s then 8 else 0) + (if sel then 4 else 0) + m / 2 ^ (q - 2) % 4
  else m / 2 ^ (q - 4 * j - 2) % 16

/-- The element word of the `.elem` layout: plane j in bits [4j + 3 : 4j] (R316). -/
def deWord (s sel : Bool) (m planes : Nat) : Nat :=
  (List.range planes).foldl (fun w j => w + deNibble s sel m (deBits planes) j * 16 ^ j) 0

/-- An element read at `k` planes from its nibble word and its block's header (R177, R178, R317): sign, magnitude and exponent
of the value. -/
def deValue (h w k : Nat) (rnd : Bool) : Bool × Nat × Int :=
  let c := deStored (deTag h)
  if c = 0 then (false, 0, 0)
  else
    let n := min k c
    let q := deBits n
    let s := w / 8 % 2 == 1
    let ex := if w / 4 % 2 == 1 then h / 2 ^ 8 % 256 else h % 256
    let m := (List.range (n - 1)).foldl (fun m j => m * 16 + w / 16 ^ (j + 1) % 16) (w % 4)
    let g := w / 16 ^ n % 16
    let m :=
      if rnd && n < c && (8 < g || (g == 8 && m % 2 == 1)) then (if m + 1 < 2 ^ q then m + 1 else 2 ^ q - 1) else m
    (s, m, (ex : Int) - 127 - q)

/-- The smallest exponent code above every magnitude of the list, each given by `e + bitLen m` (R180). -/
def deExp (tops : List Int) : Nat :=
  match tops with
  | [] => 0
  | t :: ts => (min 255 (ts.foldl max t + 127)).toNat

/-- One packed element: sign, selector, magnitude. -/
structure DeElem where
  s : Bool
  sel : Bool
  m : Nat
  deriving DecidableEq, Repr

/-- A packed block: header, elements, stored planes, flags. -/
structure DeBlock where
  header : Nat
  elems : List DeElem
  planes : Nat
  flags : Flags
  deriving DecidableEq, Repr

/-- Packing (R180): the elements in order, `none` for padding; the mode of element `i`. -/
def dePack (xs : List (Option FVal)) (planes : Nat) (mode : Nat → Rnd) : DeBlock :=
  let zero : Option FVal → Bool
    | some (.fin _ m _) => m == 0
    | some _ => false
    | none => true
  if xs.all zero then { header := 3 * 2 ^ 16, elems := xs.map fun _ => ⟨false, false, 0⟩, planes := 0, flags := 0 }
  else
    let q := deBits planes
    let d := if planes = 1 then 4 else if planes = 2 then 6 else 8
    let top : FVal → Option Int
      | .fin _ m e => if m = 0 then none else some (e + bitLen m)
      | _ => none
    let tops := xs.filterMap fun x => x.bind top
    let e0 := deExp tops
    let small : FVal → Bool := fun v =>
      match top v with
      | some t => t ≤ (e0 : Int) - 127 - d
      | none => false
    let smalls := xs.filterMap fun x => if (x.map small).getD false then x.bind top else none
    let e1 := if smalls.isEmpty then e0 - d else deExp smalls
    let code (x : Option FVal) (i : Nat) : DeElem × Flags :=
      match x with
      | none => (⟨false, false, 0⟩, 0)
      | some (.nan _) => (⟨false, false, 0⟩, flNV ||| flNX)
      | some (.inf s) => (⟨s, false, 2 ^ q - 1⟩, flNV ||| flNX)
      | some (.fin s m e) =>
        let sel := small (.fin s m e)
        let ex := if sel then e1 else e0
        let (n, inexact) := roundAt (mode i) s m (e + q + 127 - ex) 0
        if 2 ^ q ≤ n then (⟨s, sel, 2 ^ q - 1⟩, flSAT ||| flNX)
        else (⟨s, sel, n⟩, if inexact then (if n = 0 then flNX ||| flUF else flNX) else 0)
    let rs := xs.zipIdx.map fun (x, i) => code x i
    let tag := if planes = 1 then 0 else if planes = 2 then 1 else 2
    { header := tag * 2 ^ 16 + e1 * 2 ^ 8 + e0, elems := rs.map (·.1), planes, flags := rs.foldl (fun f r => f ||| r.2) 0 }

end Sys2Proof.Machine
end

