-- ==== Sys2Proof/Machine/IntOps.lean ====
section
/-! DEFINITION. What the integer, logic and compare-and-move blocks compute in one lane
(spec/13_isa_integer_control_lanes.md R278 to R286). Operands and results are 64-bit values whose low 32 bits count at width
32. -/
namespace Sys2Proof.Machine

/-- The width of a type code (R278). -/
def tyWidth (ty : Nat) : Nat := if ty % 2 = 1 then 64 else 32

/-- A value read under a type code: unsigned for 0 and 1, two's complement for 2 and 3 (R278). -/
def tyVal (ty : Nat) (x : Dword) : Int :=
  let w := tyWidth ty
  let n := x.toNat % 2 ^ w
  if 2 ≤ ty && 2 ^ (w - 1) ≤ n then (n : Int) - 2 ^ w else n

/-- The low `w` bits of an exact integer. -/
def lowBits (w : Nat) (x : Int) : Dword := BitVec.ofNat 64 (x % 2 ^ w).toNat

/-- Delivery of an exact integer: wrapped, or saturated (R281). -/
def deliver (ty : Nat) (sat : Bool) (x : Int) : Dword × Flags :=
  if sat then
    let (y, f) := saturate ty x
    (lowBits (tyWidth ty) y, f)
  else (lowBits (tyWidth ty) x, 0)

/-- Division with truncation, and its fixed results (R282). -/
def divQ (ty : Nat) (a b : Int) : Int :=
  if b = 0 then -1
  else if 2 ≤ ty && b = -1 && a = intMin ty then a
  else Int.tdiv a b

def divR (ty : Nat) (a b : Int) : Int :=
  if b = 0 then a
  else if 2 ≤ ty && b = -1 && a = intMin ty then 0
  else Int.tmod a b

/-- The field of `BFX` and `BFI`: position and length, or none when it is empty (R284). -/
def bitField (w : Nat) (b : Dword) : Option (Nat × Nat) :=
  let p := b.toNat % 256
  let n := b.toNat / 256 % 256
  if w ≤ p || n = 0 then none else some (p, min n (w - p))

def signFrom (n : Nat) (x : Nat) : Int := if 2 ^ (n - 1) ≤ x then (x : Int) - 2 ^ n else x

/-- One bits among the low `w`. -/
def ones (w x : Nat) : Nat := (List.range w).foldl (fun k i => k + x / 2 ^ i % 2) 0

/-- Trailing zeros at width `w` (R283). -/
def trailing (w x : Nat) : Nat := ((List.range w).find? fun i => x / 2 ^ i % 2 == 1).getD w

def reversed (w x : Nat) : Nat := (List.range w).foldl (fun r i => r + x / 2 ^ i % 2 * 2 ^ (w - 1 - i)) 0

/-- The integer block (R281), by opcode 0x000 to 0x00B. -/
def arithOp (opc ty v : Nat) (a b c : Dword) : Dword × Flags :=
  let w := tyWidth ty
  let x := tyVal ty a
  let y := tyVal ty b
  match opc with
  | 0x000 => deliver ty (v = 1) (x + y)
  | 0x001 => deliver ty (v = 1) (x - y)
  | 0x002 => deliver ty false (x * y)
  | 0x003 => deliver ty false (x * y / 2 ^ w)
  | 0x004 => deliver ty false (x * y + tyVal ty c)
  | 0x005 => deliver ty false (min x y)
  | 0x006 => deliver ty false (max x y)
  | 0x007 => deliver ty (v = 1) x.natAbs
  | 0x008 => deliver ty (v = 1) (-x)
  | 0x009 => deliver ty false (divQ ty x y)
  | 0x00A => deliver ty false (divR ty x y)
  | _ => deliver 1 false (tyVal 1 a + tyVal (if ty = 3 then 2 else 0) b * 2 ^ v)

/-- The logic and bit block (R283, R284), by opcode 0x010 to 0x01F. -/
def logicOp (opc ty v : Nat) (a b c : Dword) : Dword :=
  let w := tyWidth ty
  let m : Dword := BitVec.ofNat 64 (2 ^ w - 1)
  let x := a.toNat % 2 ^ w
  let n := b.toNat % 2 ^ 32
  let nat (y : Nat) : Dword := BitVec.ofNat 64 (y % 2 ^ w)
  match opc with
  | 0x010 => a &&& b &&& m
  | 0x011 => (a ||| b) &&& m
  | 0x012 => (a ^^^ b) &&& m
  | 0x013 => a &&& ~~~b &&& m
  | 0x014 => (a ||| ~~~b) &&& m
  | 0x015 => if w ≤ n then 0 else nat (x * 2 ^ n)
  | 0x016 => if w ≤ n then 0 else nat (x / 2 ^ n)
  | 0x017 => lowBits w (signFrom w x / 2 ^ min n w)
  | 0x018 => nat (x * 2 ^ (n % w) + x / 2 ^ (w - n % w))
  | 0x019 =>
    let y := x * 2 ^ w + b.toNat % 2 ^ w
    let s := c.toNat % 2 ^ 32 % w
    if v = 0 then nat (y / 2 ^ s) else nat (y * 2 ^ s / 2 ^ w)
  | 0x01A =>
    match bitField w b with
    | none => 0
    | some (p, k) =>
      let f := x / 2 ^ p % 2 ^ k
      if 2 ≤ ty then lowBits w (signFrom k f) else nat f
  | 0x01B =>
    match bitField w b with
    | none => nat x
    | some (p, k) => nat (x - x / 2 ^ p % 2 ^ k * 2 ^ p + c.toNat % 2 ^ k * 2 ^ p)
  | 0x01C => nat (ones w x)
  | 0x01D => nat (w - bitLen x)
  | 0x01E => nat (trailing w x)
  | _ => nat (reversed w x)

/-- `ICMP`, `SEL`, `MOV` (R285, R286), by opcode 0x020 to 0x022. -/
def moveOp (opc ty v : Nat) (a b c : Dword) : Dword :=
  let w := tyWidth ty
  let x := tyVal ty a
  let y := tyVal ty b
  match opc with
  | 0x020 =>
    let t := if v = 0 then x = y else if v = 1 then x ≠ y else if v = 2 then x < y else x ≤ y
    if t then 1 else 0
  | 0x021 => lowBits w (if c.toNat % 2 = 1 then x else y)
  | _ => lowBits w x

/-- One lane of the three integer blocks. -/
def intOp (opc ty v : Nat) (a b c : Dword) : Dword × Flags :=
  if opc < 0x010 then arithOp opc ty v a b c
  else if opc < 0x020 then (logicOp opc ty v a b c, 0)
  else (moveOp opc ty v a b c, 0)

end Sys2Proof.Machine
end

