-- ==== Sys2Proof/Machine/Transc.lean ====
section
/-! DEFINITION. The function block beyond division and square roots (spec/14_isa_float_and_blocks.md R308, R309): each
function is enclosed between two rational bounds, at rising precision, until both round to one result; that result is the
correctly rounded one. Fixed-point values carry `p` fraction bits. Where no precision of the list decides, the result is what
one of the two bounds of the last enclosure rounds to (assumption 12). -/
namespace Sys2Proof.Machine

/-- Arctangents of 1 / d: the sum of `sgn^i t_i / (2 i + 1)` from term `t` with ratio 1 / d². -/
def arcSum (alternate : Bool) (d : Nat) : Nat → Int → Nat → Int → Int
  | 0, _, _, acc => acc
  | k + 1, t, i, acc =>
    arcSum alternate d k (t / (d * d : Nat)) (i + 1)
      (acc + (if alternate && i % 2 == 1 then -(t / (2 * i + 1 : Nat)) else t / (2 * i + 1 : Nat)))

/-- ln 2 = 2 artanh (1/3). -/
def fixLn2 (p : Nat) : Int := 2 * arcSum false 3 (p / 3 + 4) (2 ^ p / 3) 0 0

/-- π = 16 arctan (1/5) − 4 arctan (1/239). -/
def fixPi (p : Nat) : Int :=
  16 * arcSum true 5 (p / 4 + 4) (2 ^ p / 5) 0 0 - 4 * arcSum true 239 (p / 15 + 4) (2 ^ p / 239) 0 0

/-- The sum of `t (r^2)^i / (a (a+1) …)`: the common loop of the exponential, sine and cosine series. -/
def powSum (p : Nat) (r : Int) (step : Nat) : Nat → Int → Nat → Int → Int
  | 0, _, _, acc => acc
  | k + 1, t, i, acc =>
    let den : Nat := if step = 1 then i else i * (i + 1)
    let t' := t * r / (2 ^ p : Nat) / (den : Nat)
    powSum p r step k t' (i + step) (acc + t')

def fixExp (p : Nat) (r : Int) : Int := powSum p r 1 (p / 4 + 16) (2 ^ p) 1 (2 ^ p)

def fixSin (p : Nat) (r : Int) : Int := powSum p (-(r * r / (2 ^ p : Nat))) 2 (p / 6 + 16) r 2 r

def fixCos (p : Nat) (r : Int) : Int := powSum p (-(r * r / (2 ^ p : Nat))) 2 (p / 6 + 16) (2 ^ p) 1 (2 ^ p)

/-- Odd powers over odd numbers: artanh z, or arctan z when `alternate`. -/
def oddSum (p : Nat) (z2 : Int) : Nat → Int → Nat → Int → Int
  | 0, _, _, acc => acc
  | k + 1, t, i, acc => oddSum p z2 k (t * z2 / (2 ^ p : Nat)) (i + 1) (acc + t / (2 * i + 1 : Nat))

def fixArtanh (p : Nat) (z : Int) : Int := oddSum p (z * z / (2 ^ p : Nat)) (p / 4 + 8) z 0 0
def fixArctan (p : Nat) (z : Int) : Int := oddSum p (-(z * z / (2 ^ p : Nat))) (p / 4 + 8) z 0 0

/-- The magnitude `m * 2 ^ e` in fixed point, rounded down. -/
def toFix (p : Nat) (m : Nat) (e : Int) : Int :=
  if 0 ≤ e + p then ((m * 2 ^ (e + p).toNat : Nat) : Int) else ((m / 2 ^ (-(e + p)).toNat : Nat) : Int)

/-- The nearest integer to `x / y`, for `y > 0`. -/
def nearest (x y : Int) : Int := (2 * x + y) / (2 * y)

/-- An enclosure: the value lies within `err` of `a`, in units of `2 ^ ex`; the sign is `neg`. -/
structure Encl where
  neg : Bool
  a : Int
  err : Nat
  ex : Int

/-- What the two ends of an enclosure round to. -/
def Encl.ends (F : Fmt) (mode : Rnd) (c : Encl) : (Nat × Flags) × (Nat × Flags) :=
  let neg := if c.a < 0 then !c.neg else c.neg
  let m := c.a.natAbs
  (roundMag F mode neg (m - c.err) c.ex, roundMag F mode neg (m + c.err) c.ex)

/-- The rounded value when both ends of an enclosure round alike. -/
def settle (F : Fmt) (mode : Rnd) (c : Encl) : Option (Nat × Flags) :=
  let r := c.ends F mode
  if c.err < c.a.natAbs && r.1 = r.2 then some r.1 else none

/-- The first precision that decides. -/
def firstSettled (F : Fmt) (mode : Rnd) (f : Nat → Encl) : List Nat → Option (Nat × Flags)
  | [] => none
  | p :: ps =>
    match settle F mode (f p) with
    | some r => some r
    | none => firstSettled F mode f ps

/-- The precisions that are tried, in fraction bits: at last 2^40 beyond the format's. -/
def precisions (F : Fmt) : List Nat := ([96, 320, 1500, 6000] ++ (List.range 28).map fun i => 2 ^ (13 + i)).map (F.fb + ·)

/-- A value just above or just below `m * 2 ^ e`, nearer than any rounding boundary. -/
def justBeside (F : Fmt) (mode : Rnd) (neg above : Bool) (m : Nat) (e : Int) : Nat × Flags :=
  let k := F.fb + 66
  roundMag F mode neg (if above then m * 2 ^ k + 1 else m * 2 ^ k - 1) (e - k)

/-- A quotient's enclosure from numerator and denominator, each within `err`. -/
def ratio (p : Nat) (neg : Bool) (n d : Int) (err : Nat) : Encl :=
  let neg := if (n < 0) != (d < 0) then !neg else neg
  let n := n.natAbs
  let d := d.natAbs
  if d ≤ err then { neg, a := 0, err := 1, ex := 0 }
  else
    let lo := (n - err) * 2 ^ p / (d + err)
    let hi := (n + err) * 2 ^ p / (d - err) + 1
    { neg, a := (lo + hi) / 2, err := (hi - lo) / 2 + 1, ex := -(p : Int) }

/-- e ^ x reduced by ln 2: the fraction and the power of two; `x` in fixed point. -/
def expParts (p : Nat) (x : Int) : Int × Int :=
  let l := fixLn2 p
  let k := nearest x l
  (fixExp p (x - k * l), k)

def exEnc (F : Fmt) (neg : Bool) (m : Nat) (e : Int) (two : Bool) (p0 : Nat) : Encl :=
  let p := p0 + F.eb + 16
  let x := if neg then -toFix p m e else toFix p m e
  if two then
    let k := nearest x (2 ^ p)
    let r := (x - k * 2 ^ p) * fixLn2 p / (2 ^ p : Nat)
    { neg := false, a := fixExp p r, err := 2 ^ 40, ex := k - p }
  else
    let (y, k) := expParts p x
    { neg := false, a := y, err := 2 ^ 40, ex := k - p }

def logEnc (m : Nat) (e : Int) (two : Bool) (p0 : Nat) : Encl :=
  let p := p0 + 64
  let top := e + bitLen m - 1
  let f := toFix p m (1 - (bitLen m : Int))
  let up := 4 * 2 ^ p ≤ 3 * f
  let f := if up then f / 2 else f
  let k := if up then top + 1 else top
  let z := (f - 2 ^ p) * 2 ^ p / (f + 2 ^ p)
  let ln := 2 * fixArtanh p z + k * fixLn2 p
  if two then { neg := false, a := ln * 2 ^ p / fixLn2 p, err := 2 ^ 40, ex := -(p : Int) }
  else { neg := false, a := ln, err := 2 ^ 40, ex := -(p : Int) }

/-- Sine (0), cosine (1), tangent (2), reduced with π to the argument's full length. -/
def trigEnc (fn : Nat) (neg : Bool) (m : Nat) (e : Int) (p0 : Nat) : Encl :=
  let p := p0 + (e + bitLen m).toNat + 16
  let x := if neg then -toFix p m e else toFix p m e
  let h := fixPi (p + 1) / 4
  let n := nearest x h
  let r := x - n * h
  let s := fixSin p r
  let c := fixCos p r
  let q := (n % 4).toNat
  let sn := if q = 0 then s else if q = 1 then c else if q = 2 then -s else -c
  let cs := if q = 0 then c else if q = 1 then -s else if q = 2 then -c else s
  let err := 2 ^ (24 + (e + bitLen m).toNat)
  match fn with
  | 0 => { neg := false, a := sn, err, ex := -(p : Int) }
  | 1 => { neg := false, a := cs, err, ex := -(p : Int) }
  | _ => ratio p false sn cs err

def halfAngle (p : Nat) (t : Int) : Int :=
  let one : Nat := 2 ^ (2 * p)
  t * 2 ^ p / (2 ^ p + (isqrt (one + (t * t).toNat) : Int))

def atanEnc (neg : Bool) (m : Nat) (e : Int) (p0 : Nat) : Encl :=
  let p := p0 + 64
  let big := 0 < e + bitLen m
  let t : Int := if big then (if 0 ≤ (p : Int) - e then ((2 ^ ((p : Int) - e).toNat / m : Nat) : Int) else 0) else toFix p m e
  let a := 4 * fixArctan p (halfAngle p (halfAngle p t))
  { neg, a := if big then fixPi p / 2 - a else a, err := 2 ^ 40, ex := -(p : Int) }

def tanhEnc (neg : Bool) (m : Nat) (e : Int) (p0 : Nat) : Encl :=
  let p := p0 + 64
  let (y, k) := expParts p (toFix p m (e + 1))
  let y := y * 2 ^ k.toNat
  ratio p neg (y - 2 ^ p) (y + 2 ^ p) (2 ^ (40 + k.toNat))

/-- The terms (2 x²)^n / (2 n + 1)!!. -/
def erfSum (p : Nat) (x2 : Int) : Nat → Int → Nat → Int → Int
  | 0, _, _, acc => acc
  | k + 1, t, i, acc =>
    let t' := t * x2 * 2 / (2 ^ p : Nat) / (2 * i + 1 : Nat)
    erfSum p x2 k t' (i + 1) (acc + t')

def erfEnc (neg : Bool) (m : Nat) (e : Int) (p0 : Nat) : Encl :=
  let p := p0 + 192
  let x2 := toFix p (m * m) (2 * e)
  let s := erfSum p x2 (2 * p + 300) (2 ^ p) 1 (2 ^ p)
  let (y, k) := expParts p (-x2)
  let ex := y / (2 ^ (-k).toNat : Nat)
  let c := 2 * 2 ^ (2 * p) / (isqrt ((fixPi p).toNat * 2 ^ p) : Int)
  let a := (s * ex / (2 ^ p : Nat)) * c / (2 ^ p : Nat) * m
  { neg, a, err := 2 ^ 150 * m, ex := e - p }

/-- The function block's functions beyond R308's algebraic ones, by opcode (R309): 0x064 `FEXP` to 0x06D `FERF`. The last precision decides
every operand. (DEDUCED: assumption 12.) -/
def ftransc (F : Fmt) (mode : Rnd) (opc : Nat) (x : Nat) : Nat × Flags :=
  let one := (roundMag F mode false 1 0).1
  let go (f : Nat → Encl) : Nat × Flags :=
    match firstSettled F mode f (precisions F) with
    | some r => r
    | none => ((f (F.fb + 2 ^ 40)).ends F mode).1
  match fdecode F x with
  | .nan s => (F.nan, if s then flNV else 0)
  | .inf s =>
    match opc with
    | 0x064 | 0x065 => if s then (0, 0) else (F.inf, 0)
    | 0x066 | 0x067 => if s then invalid F else (F.inf, 0)
    | 0x06B => go fun p => { neg := s, a := fixPi (p + 32) / 2, err := 2 ^ 24, ex := -((p + 32 : Nat) : Int) }
    | 0x06C | 0x06D => (F.sign s + one, 0)
    | _ => invalid F
  | .fin s m e =>
    let top := e + bitLen m - 1
    let small := top < -((F.fb / 2 + 6 : Nat) : Int)
    if m = 0 then
      match opc with
      | 0x064 | 0x065 | 0x069 => (one, 0)
      | 0x066 | 0x067 => (F.sign true + F.inf, flDZ)
      | _ => (x, 0)
    else
      match opc with
      | 0x064 | 0x065 =>
        let whole := 0 ≤ e || m % 2 ^ (-e).toNat = 0
        if opc = 0x065 && whole then
          let k : Int := if F.eb + 2 < top then 2 ^ (F.eb + 2) else if 0 ≤ e then (m * 2 ^ e.toNat : Nat) else (m / 2 ^ (-e).toNat : Nat)
          roundMag F mode false 1 (if s then -k else k)
        else if (F.eb : Int) < top then roundMag F mode false 1 (if s then F.qmin - 100 else F.bias + 10)
        else if top < -((F.fb + 8 : Nat) : Int) then justBeside F mode false (!s) 1 0
        else go (exEnc F s m e (opc = 0x065))
      | 0x066 | 0x067 =>
        if s then invalid F
        else if m = 2 ^ (bitLen m - 1) && (opc = 0x067 || top = 0) then fofint F mode top
        else go (logEnc m e (opc = 0x067))
      | 0x068 => if small then justBeside F mode s false m e else go (trigEnc 0 s m e)
      | 0x069 => if small then justBeside F mode false false 1 0 else go (trigEnc 1 s m e)
      | 0x06A => if small then justBeside F mode s true m e else go (trigEnc 2 s m e)
      | 0x06B => if small then justBeside F mode s false m e else go (atanEnc s m e)
      | 0x06C =>
        if small then justBeside F mode s false m e
        else if 5 ≤ top then justBeside F mode s false 1 0
        else go (tanhEnc s m e)
      | _ => if 3 ≤ top then justBeside F mode s false 1 0 else go (erfEnc s m e)

end Sys2Proof.Machine
end

