-- ==== Sys2Proof/Machine/LaneOps.lean ====
section
/-! DEFINITION. What one lane of the arithmetic, function and conversion blocks computes, and the runs of the three word
forms over it (spec/14_isa_float_and_blocks.md R299 to R315, spec/13_isa_integer_control_lanes.md R278 to R287). -/
namespace Sys2Proof.Machine

abbrev Out := Host.Outcome State Fault Refusal

/-- One lane of the arithmetic and function blocks (R301 to R309): format code, variant, mode, operands. -/
def fpOp (opc fmt v : Nat) (mode : Rnd) (a b c : Dword) : Dword × Flags :=
  let F := fmtOf fmt
  let x := a.toNat % 2 ^ F.bits
  let y := b.toNat % 2 ^ F.bits
  let xv := fdecode F x
  let yv := fdecode F y
  let zv := fdecode F (c.toNat % 2 ^ F.bits)
  let sg := 2 ^ (F.bits - 1)
  let r : Nat × Flags :=
    match opc with
    | 0x040 => faddV F mode xv yv
    | 0x041 => faddV F mode xv (fnegV yv)
    | 0x042 => fmulV F mode xv yv
    | 0x043 => ffmaV F mode xv yv zv
    | 0x044 => ffmaV F mode xv yv (fnegV zv)
    | 0x045 => fminmax F false true x y
    | 0x046 => fminmax F true true x y
    | 0x047 => fminmax F false false x y
    | 0x048 => fminmax F true false x y
    | 0x049 => (x % sg, 0)
    | 0x04A => ((x + sg) % (2 * sg), 0)
    | 0x04B =>
      let t := if v = 0 then y / sg else if v = 1 then 1 - y / sg else (x / sg + y / sg) % 2
      (x % sg + t * sg, 0)
    | 0x04C => fcompare F v x y
    | 0x04D => (fclassify F x, 0)
    | 0x04E => frint F mode (v = 1) x
    | 0x04F => fsclV F mode xv (tyVal 2 b)
    | 0x050 => fgete F x
    | 0x060 => fdivV F mode xv yv
    | 0x061 => fsqrtV F mode xv
    | 0x062 => fdivV F mode (.fin false 1 0) xv
    | 0x063 => frsqV F mode xv
    | _ => ftransc F mode opc x
  (BitVec.ofNat 64 r.1, r.2)

/-- The single conversions (R311 to R313): `FCVT`, `FCVTI`, `ICVTF`. -/
def cvtOp (opc m : Nat) (mode : Rnd) (a : Dword) : Dword × Flags :=
  let lo := m % 4
  let hi := m / 4
  match opc with
  | 0x070 =>
    let r := fconvert (fmtOf lo) (fmtOf hi) mode (a.toNat % 2 ^ (fmtOf hi).bits)
    (BitVec.ofNat 64 r.1, r.2)
  | 0x071 =>
    let r := ftoint (fmtOf lo) mode hi (a.toNat % 2 ^ (fmtOf lo).bits)
    (lowBits (tyWidth hi) r.1, r.2)
  | _ =>
    let r := fofint (fmtOf lo) mode (tyVal hi a)
    (BitVec.ofNat 64 r.1, r.2)

/-- The mode of a word; `.rsh` takes its key from four registers: A, T, S, with element number `i` added to A (R167, R311). -/
def State.rndOf (s : State) (code : BitVec 3) (l c i : Nat) : Rnd :=
  if code = 5 then
    let g := s.cur
    { code := 5, hash := hashBits (g.v64 l c + BitVec.ofNat 64 i) (g.v l (c + 2)) (g.v l (c + 3)) }
  else { code := code.toNat }

/-- A result at its shape's width. -/
def shaped (sh : Shape.TShape) (r : Dword × Flags) : LaneRes := resAt (sh.deven && sh.dn == 2) r

/-! ### The three forms of the integer and FP blocks -/

/-- One lane of a word of the integer, logic and compare-and-move blocks, by opcode and MOD; of the arithmetic and function
blocks, with the rounding code. -/
def intLane (opc m : Nat) (a b c : Dword) : LaneRes := shaped (Shape.tShape opc m 0) (intOp opc (m % 4) (m / 4) a b c)
def fpLane (opc m rnd : Nat) (a b c : Dword) : LaneRes :=
  shaped (Shape.tShape opc m rnd) (fpOp opc (m % 4) (m / 4) { code := rnd } a b c)

/-- A T word of the integer, logic and compare-and-move blocks. -/
def State.intT (s : State) (opc : Nat) (f : TF) : Out := .next (s.runLane opc f (intLane opc f.mod.toNat))

/-- An I word of the same blocks. -/
def State.intI (s : State) (opc : Nat) (f : IF) : Out :=
  .next (s.runI opc f immAt (intLane opc f.w.toNat))

/-- A T word of the FP arithmetic and function blocks. -/
def State.fpT (s : State) (opc : Nat) (f : TF) : Out := .next (s.runLane opc f (fpLane opc f.mod.toNat f.rnd.toNat))

/-- A binary32 immediate at the width of the operand, widened exactly, NaN state and payload kept (R261). -/
def fpImm (r : Shape.Src) (imm : Word) : Dword :=
  match r with
  | .w64 =>
    let x := imm.toNat
    match fdecode f32 x with
    | .nan _ => BitVec.ofNat 64 (x / 2 ^ 31 * 2 ^ 63 + f64.inf + x % 2 ^ 23 * 2 ^ 29)
    | v => BitVec.ofNat 64 (fround f64 { code := 0 } v).1
  | _ => imm.setWidth 64

def State.fpI (s : State) (opc : Nat) (f : IF) : Out :=
  .next (s.runI opc f fpImm (fpLane opc f.w.toNat 0))

/-- One half of a P word, at 32 bits (R262). -/
def halfOp (o : POp) (m : Nat) (d x : Dword) : LaneRes :=
  let opc := Shape.pOpc o
  if opc < 0x040 then res32 (intOp opc (m % 4) (m / 4) (if o = .mov then x else d) x 0).1 (intOp opc (m % 4) (m / 4) d x 0).2
  else
    let r := fpOp opc 0 (m / 4) { code := 0 } d x 0
    res32 r.1 r.2

def State.half (s : State) (op0 : POp) (h0 : HF) (op1 : POp) (h1 : HF) : Out := .next (s.runP op0 h0 op1 h1 halfOp)

end Sys2Proof.Machine
end

