-- ==== Sys2Proof/Machine/Memory.lean ====
section
/-! DEFINITION. X group 0x00: loads, stores, plane accesses, full/empty words, address tests, fences
(spec/15_isa_memory_atomics_sync.md R318 to R329). -/
namespace Sys2Proof.Machine

def addrRegs (f : XM) : List Nat := [f.addr.toNat, f.addr.toNat + 1]

/-- The places that a word's active lanes would reach. -/
def State.reach (s : State) (gd : BitVec 7) (r : Resolver) : List LaneAcc := lanePlaces (s.cur.active s.iss.run gd) r

/-- The lanes whose access leaves the package. -/
def remotes (xs : List LaneAcc) : List LaneAcc := xs.filter fun x => x.place.kind = 2
def locals (xs : List LaneAcc) : List LaneAcc := xs.filter fun x => x.place.kind != 2

/-! ### `LD` and `ST` (R320, R321) -/

/-- What a load of `n` bytes delivers (R320). -/
def loadWords (n : Nat) (signed : Bool) (x : Nat) : List Word :=
  if n = 1 then [if signed then (BitVec.ofNat 8 x).signExtend 32 else BitVec.ofNat 32 x]
  else if n = 2 then [if signed then (BitVec.ofNat 16 x).signExtend 32 else BitVec.ofNat 32 x]
  else valWords (n / 4) x

/-- `LD`: local lanes read at once; remote lanes send a load request (R41), which is not watermarked. A load of data that an atomic of
unknown outcome names delivers that outcome (R335). -/
def execLd (f : XM) (s : State) : Out :=
  let n := widthBytes f.width
  let d := dataRegs f
  let res := s.plainRes f.addr (offWhole f) n n false
  let about u := s.updatedBy n (s.reach f.guard res) u
  .next (s.runX { guard := f.guard, regs := addrRegs f ++ d, reads := addrRegs f, mem := true, about } (fun m => resFaults m res) fun s m =>
    let xs := lanePlaces m res
    s.present (.ld f) m xs fun s =>
      if s.clash (fun _ => false) n xs then none
      else s.intact (s.badRead n) xs fun s =>
        let near := locals xs
        let val (l : Nat) : List Word :=
          match near.find? fun x => x.lane = l with
          | some x => loadWords n (f.pln.getLsbD 0) (s.readPlace (groupTeam s.iss.gid) x.place n)
          | none => []
        let s := s.countPages s.iss.gid (xs.map (·.place))
        let s := s.setCur (s.cur.setRegs f.data.toNat (accLanes near) val (widthRegs f.width))
        let s := s.sendAll (.load n (f.pln.getLsbD 0)) f.scope f.ord false d
          ((remotes xs).map fun x => { lane := x.lane, place := x.place, va := x.va })
        some s.advance)

/-- What a store word needs beyond its registers: a delivery at release order and `.fab` (R42), and a region start, which a
full window or a full store buffer brings (R40, R240). (DEDUCED: assumption 18.) -/
def State.storeNeeds (s : State) (n : Needs) (f : XM) (xs : List LaneAcc) (full : Bool) : Needs :=
  { n with
    mem := true
    issues := !(remotes xs).isEmpty
    rel := xs.any fun x => isRelease f.ord x.place
    deliver := f.scope == 7 && xs.any fun x => isRelease f.ord x.place
    region := full || (!(remotes xs).isEmpty && s.cur.windowRegion) }

/-- The local lanes' bytes written in lane order; a held store that finds the buffer full does not happen. (DESIGN CHOICE: assumption 3.) -/
def State.writeLanes (s : State) (held : Bool) (xs : List LaneAcc) (bytes : Nat → List (Place × List Byte)) : Option State :=
  xs.foldl (fun so x => (bytes x.lane).foldl (fun so w => so.bind fun s => s.writePlace (groupTeam s.iss.gid) held w.1 w.2) so)
    (some s)

/-- The same, with the marks of the lines that the word writes whole cleared (R234); a held store writes no line yet. -/
def State.putLanes (s : State) (xs : List LaneAcc) (bytes : Nat → List (Place × List Byte)) : Option State :=
  (s.writeLanes s.cur.hold xs bytes).map fun t =>
    if s.cur.hold then t
    else t.clearCovered (xs.flatMap fun x => (bytes x.lane).filterMap fun w => if w.1.kind = 3 then none else some (w.1.pa, w.2))

/-- The same, after an implicit commit when the buffer has no chunk (R240). -/
def State.storeLanes (s : State) (xs : List LaneAcc) (bytes : Nat → List (Place × List Byte)) : Option State :=
  match s.putLanes xs bytes with
  | some s => some s
  | none => s.implicitCommit.bind fun s => s.putLanes xs bytes

/-- `ST`: a local store acts at once, or is held in a relaunchable team; a remote one is watermarked and counted in `.rem`. -/
def execSt (f : XM) (s : State) : Out :=
  let n := widthBytes f.width
  let d := dataRegs f
  let res := s.plainRes f.addr (offWhole f) n n true
  let xs := s.reach f.guard res
  let g := s.cur
  let bytes (l : Nat) : List Byte := leBytes n (wordsVal (g.words l d))
  let put (l : Nat) : List (Place × List Byte) := (xs.filter fun x => x.lane = l).map fun x => (x.place, bytes l)
  let regs := addrRegs f ++ d
  .next (s.runX (s.storeNeeds { guard := f.guard, regs, reads := regs } f xs (s.writeLanes g.hold (locals xs) put).isNone)
    (fun m => laneFaults m fun l =>
      match res l with
      | (a, .error c) => some (c, a)
      | (a, .ok p) => if p.kind = 2 && s.lastSerial then some (0x11, a) else none) fun s m =>
    s.present (.st f) m xs fun s =>
      let far := remotes xs
      if s.clash (fun x => x.place.kind = 2) n xs then none
      else if !far.isEmpty && 255 ≤ g.rem.length then none
      else
        (if far.isEmpty then some s else s.openWindow).bind fun s =>
          (s.storeLanes (locals xs) put).map fun s =>
            let s := s.countPages s.iss.gid (xs.map (·.place))
            let serial := s.cur.wserial
            let s := s.sendAll (.store n) f.scope f.ord true []
              (far.map fun x => { lane := x.lane, place := x.place, va := x.va, data := g.words x.lane d })
            let s := if far.isEmpty then s else s.setCur (s.cur.addRem serial)
            s.advance)

/-! ### `LDP` and `STP` (R322 to R324) -/

/-- The IEEE format of a plane access: WIDTH 2 or 3. -/
def planeElem (f : XM) : Fmt := if f.width = 3 then f64 else f32

/-- A DE type. -/
def isDe (f : XM) : Bool := 5 ≤ f.width.toNat

/-- An element read plane by plane, plane 0 first. -/
def State.elemAt (s : State) (tk : Nat) (p : Place) (planes : Nat) : Nat :=
  (List.range planes).foldl (fun x j => x * 2 ^ 16 + s.readPlace tk (p.plane j) 2) 0

/-- The nibbles of element `l` of a DE block (R323). -/
def State.nibbles (s : State) (tk : Nat) (p : Place) (l k : Nat) : Nat :=
  (List.range k).foldl (fun x j =>
    x + (s.placeByte tk (p.plane j) (l / 2)).toNat / (if l % 2 = 0 then 1 else 16) % 16 * 16 ^ j) 0

/-- `LDP`. Whether the element is a NaN depends on all its planes (R173). (DEDUCED: assumption 39.) -/
def execLdp (f : XM) (s : State) : Out :=
  let k := f.pln.toNat + 1
  let F := planeElem f
  let read := if f.rb then k + 1 else k
  let size := if isDe f then 16 else 2
  let d := if f.width = 3 then range' f.data.toNat 2 else [f.data.toNat]
  let res := s.planeRes f.addr (offWhole f) read size size false
  let planes (xs : List LaneAcc) : List LaneAcc := xs.flatMap fun x => (List.range read).map fun j => { x with place := x.place.plane j }
  let about u := s.updatedBy size (planes (s.reach f.guard res)) u
  .next (s.runX { guard := f.guard, regs := addrRegs f ++ d, reads := addrRegs f, mem := true, about } (fun m => resFaults m res) fun s m =>
    let xs := lanePlaces m res
    let ps := planes xs
    if s.clash (fun _ => false) size ps then none
    else s.intact (s.badRead size) ps fun s =>
      let tk := groupTeam s.iss.gid
      let val (l : Nat) : List Word :=
        match xs.find? fun x => x.lane = l with
        | some x =>
          if isDe f then [BitVec.ofNat 32 (s.nibbles tk x.place l k)]
          else
            let e := s.elemAt tk x.place (F.bits / 16)
            valWords (F.bits / 32) (if f.rb then planeNear F k e else planeTrunc F k e)
        | none => []
      let s := s.countPages s.iss.gid (xs.map (·.place))
      some (s.setCur (s.cur.setRegs f.data.toNat m val d.length)).advance)

/-- The registers of an `STP`: the element's, and those of the hashing rounding's key. -/
def stpData (f : XM) : List Nat := range' f.data.toNat ((planeElem f).bits / 32)
def stpKey (f : XM) : List Nat := if f.offs.toNat / 2 ^ 13 = 5 then range' (f.data.toNat + (planeElem f).bits / 32) 2 else []

/-- A lane's element, rounded to the planes that `STP` stores, with its flags (R324). -/
def State.stpStored (s : State) (f : XM) (l : Nat) : Nat × Flags :=
  let code := f.offs.toNat / 2 ^ 13
  let key := stpKey f
  let mode : Rnd :=
    if code = 5 then
      { code := 5, hash := hashBits (s.xmAddr s.iss.gid l f.addr (offStp f)) (s.cur.v l (key.getD 0 0)) (s.cur.v l (key.getD 1 0)) }
    else { code }
  planeRound (planeElem f) (f.pln.toNat + 1) mode (wordsVal (s.cur.words l (stpData f)))

/-- A lane's writes, one of each plane. -/
def State.stpPut (s : State) (f : XM) (xs : List LaneAcc) (l : Nat) : List (Place × List Byte) :=
  (xs.filter fun x => x.lane = l).flatMap fun x => (List.range (f.pln.toNat + 1)).map fun j =>
    (x.place.plane j, leBytes 2 ((s.stpStored f l).1 / 2 ^ ((planeElem f).bits - 16 * (j + 1))))

/-- `STP`. -/
def execStp (f : XM) (s : State) : Out :=
  let k := f.pln.toNat + 1
  let res := s.planeRes f.addr (offStp f) k 2 2 true
  let xs := s.reach f.guard res
  let put := s.stpPut f xs
  let regs := addrRegs f ++ stpData f ++ stpKey f
  .next (s.runX (s.storeNeeds { guard := f.guard, regs, reads := regs } f xs (s.writeLanes s.cur.hold xs put).isNone)
    (fun m => resFaults m res) fun t m =>
    if t.clash (fun _ => false) 2 (xs.flatMap fun x => (List.range k).map fun j => { x with place := x.place.plane j }) then none
    else
      (t.storeLanes xs put).map fun u =>
        let u := u.countPages u.iss.gid (xs.map (·.place))
        (u.setCur { u.cur with fpflags := mergeFlags u.cur.fpflags (flagsOf m fun l => (s.stpStored f l).2) }).advance)

/-! ### Full/empty words (R325, R326) -/

/-- A word of a scratchpad, own or a sibling's; any other class faults (R325). -/
def State.feRes (s : State) (f : XM) (width : Nat → Nat) : Resolver := fun l =>
  let a := s.xmAddr s.iss.gid l f.addr (offWhole f)
  (a,
    match s.classOf s.iss.gid a with
    | 2 | 4 =>
      if width l = 0 then (if a.toNat % 4 = 0 then .ok { kind := 3, pa := 0 } else .error 0x06)
      else s.resolve s.iss.gid l a (width l) 4 true
    | 3 => .error 0x08
    | _ => .error 0x07)

/-- The lanes' faults, and SAME_ADDRESS for a lane whose word a lower active lane names (R325). -/
def feFaults (m : Lanes) (r : Resolver) : Option DataFault :=
  let xs := lanePlaces m r
  laneFaults m fun l =>
    match r l with
    | (a, .error c) => some (c, a)
    | (a, .ok p) => if xs.any fun x => x.lane < l && x.place.core = p.core && x.place.pa = p.pa then some (0x0C, a) else none

/-- One lane's step, when its word is in the needed state and its line is present. A step that a pre-emption could not undo is not taken
again: its value comes from the checkpoint (R108). -/
def State.feStep (s : State) (load : Bool) (f : XM) (x : LaneAcc) : Option State :=
  match s.cur.steps.find? fun t => t.1 = s.iss.pc && t.2.1 = x.lane with
  | some t => some (if load then s.setCur (s.cur.setReg f.data.toNat (BitVec.ofNat 32 (2 ^ x.lane)) fun _ => t.2.2) else s)
  | none =>
  if s.absent x.place || s.isFull x.place != load then none
  else if load then
    let v := BitVec.ofNat 32 (s.readPlace 0 x.place 4)
    some ((s.setCur (s.cur.setReg f.data.toNat (BitVec.ofNat 32 (2 ^ x.lane)) fun _ => v)).setFull x.place false)
  else
    some ((s.padWrite x.place.core x.place.pa (leBytes 4 (s.cur.v x.lane f.data.toNat).toNat)).setFull x.place true)

/-- Every lane of `left` that can takes its step, in lane order: the state, and the lanes that still wait. -/
def State.feSteps (s : State) (load : Bool) (f : XM) (left : Lanes) : State × Lanes :=
  (lanePlaces left (s.feRes f fun _ => 4)).foldl (fun p x =>
    match p.1.feStep load f x with
    | some s => (s, p.2 &&& ~~~BitVec.ofNat 32 (2 ^ x.lane))
    | none => p) (s, left)

/-- The steps of lanes, with the words as they stand, for their undoing; steps kept of an earlier execution are none. -/
def State.feTaken (s : State) (f : XM) (m : Lanes) : List FeStep :=
  ((lanePlaces m (s.feRes f fun _ => 4)).filter fun x => !s.cur.steps.any fun t => t.1 = s.iss.pc && t.2.1 = x.lane).map fun x =>
    { lane := x.lane, core := x.place.core, pa := x.place.pa, data := BitVec.ofNat 32 (s.readPlace 0 x.place 4), seen := false }

/-- The parked group has taken the steps of some lanes. -/
def State.took (s : State) (ts : List FeStep) : State :=
  s.setCur { s.cur with wait := s.cur.wait.map fun w => { w with taken := w.taken ++ ts } }

/-- The end of an `LDFE` or `STFE`: the PCs, and the region that it begins (R108). -/
def State.feDone (s : State) : State := s.advance.regionAfter

/-- `LDFE` and `STFE`: the group stays parked until every active lane has taken its step. -/
def State.fe (s : State) (load : Bool) (i : Instr) (f : XM) : Out :=
  let d := f.data.toNat
  let res := s.feRes f fun _ => 4
  .next (s.runX { guard := f.guard, regs := addrRegs f ++ [d], reads := addrRegs f ++ (if load then [] else [d]), region := true,
                  mem := true, rel := !load, deliver := !load && f.scope == 7 } (fun m => feFaults m res) fun s m =>
    let xs := lanePlaces m res
    s.present i m xs fun s =>
      if !s.cur.canBegin then none
      else
        let r := s.feSteps load f m
        some (if r.2 = 0 then r.1.feDone else (r.1.park i r.2).took (s.feTaken f (m &&& ~~~r.2))))

def execLdfe (f : XM) (s : State) : Out := s.fe true (.ldfe f) f
def execStfe (f : XM) (s : State) : Out := s.fe false (.stfe f) f

/-- The words of a lane's `FEINIT` range, and their places. -/
def State.feRange (s : State) (f : XM) (l : Nat) : List Place :=
  let a := s.xmAddr s.iss.gid l f.addr (offWhole f)
  let tk := if s.classOf s.iss.gid a = 4 then s.sibling s.iss.gid (a.toNat / 2 ^ 32 % 16) else groupTeam s.iss.gid
  (List.range (s.cur.v l f.data.toNat).toNat).filterMap fun i => (s.scratchPlace tk (a.toNat % 2 ^ 20 + 4 * i) 4).toOption

/-- `FEINIT` (R326). (DEDUCED: assumption 38.) -/
def execFeinit (f : XM) (s : State) : Out :=
  let d := f.data.toNat
  let g := s.cur
  let res := s.feRes f fun l => 4 * (g.v l d).toNat
  .next (s.runX { guard := f.guard, regs := addrRegs f ++ [d], reads := addrRegs f ++ [d], region := true,
                  mem := true, rel := 2 ≤ f.ord.toNat, deliver := releaseFab f.scope f.ord } (fun m => resFaults m res) fun s m =>
    let ws := (lanesList m).flatMap fun l => (s.feRange f l).map fun p => ({ lane := l, va := 0, place := p } : LaneAcc)
    s.present (.feinit f) m ws fun s =>
      if !s.cur.canBegin then none
      else some (ws.foldl (fun s x => s.setFull x.place f.rb) s).feDone)

/-! ### Tests, conversions, fences (R327 to R329) -/

/-- `SPTEST` (R327). -/
def execSptest (f : XM) (s : State) : Out :=
  let d := f.data.toNat
  .next (s.runX { guard := f.guard, regs := addrRegs f ++ [d], reads := addrRegs f } noFault fun s m =>
    let v (l : Nat) : Word := BitVec.ofNat 32 (s.classOf s.iss.gid (s.xmAddr s.iss.gid l f.addr (offWhole f)))
    some (s.setCur (s.cur.setReg d m v)).advance)

/-- `SPCAST` (R328): the other form of a scratchpad location, or the class-7 address. -/
def State.spcast (s : State) (gid : Nat) (toSp : Bool) (a : Dword) : Dword :=
  let off := a.toNat % 2 ^ 20
  let core := slotCore (s.group gid).slot
  let c := s.classOf gid a
  BitVec.ofNat 64
    (if !toSp && c == 2 then 0xFC00000000000000 + s.member gid * 2 ^ 32 + off
     else if toSp && c == 4 && a.toNat / 2 ^ 32 % 16 == s.member gid then
       0xFD00000000000000 + coreDie core * 2 ^ 40 + coreNum core * 2 ^ 32 + off
     else 0xFF00000000000000)

def execSpcast (f : XM) (s : State) : Out :=
  let d := f.data.toNat
  .next (s.runX { guard := f.guard, regs := addrRegs f ++ [d, d + 1], reads := addrRegs f } noFault fun s m =>
    let v (l : Nat) : Dword := s.spcast s.iss.gid f.rb (s.xmAddr s.iss.gid l f.addr (offWhole f))
    some (s.setCur (s.cur.setReg64 d m v)).advance)

/-- `FENCE` (R149, R329): its lanes' older events take effect before it, unless it orders nothing. -/
def execFence (f : XM) (s : State) : Out :=
  .next (s.runX { guard := f.guard, after := f.ord != 0, rel := 2 ≤ f.ord.toNat, deliver := releaseFab f.scope f.ord } noFault
    fun s _ => some s.advance)

end Sys2Proof.Machine
end

