-- ==== Sys2Proof/Machine/Sync.lean ====
section
/-! DEFINITION. X group 0x02: barriers, regions, commit, ordered waits, channel queues
(spec/15_isa_memory_atomics_sync.md R338 to R346). -/
namespace Sys2Proof.Machine

/-! ### Barriers (R338) -/

/-- Arrival and departure counts at `.team` or `.cluster`. -/
def Group.arrivals (g : Group) (cl : Bool) : Word := if cl then g.arC else g.arT
def Group.departures (g : Group) (cl : Bool) : Word := if cl then g.dpC else g.dpT
def Group.arrive (g : Group) (cl : Bool) : Group := if cl then { g with arC := g.arC + 1 } else { g with arT := g.arT + 1 }
def Group.depart (g : Group) (cl : Bool) : Group := if cl then { g with dpC := g.arC } else { g with dpT := g.arT }

/-- The participants of a group's barrier. -/
def State.participants (s : State) (gid : Nat) (cl : Bool) : List Nat :=
  if cl then (s.teamsOf (s.group gid).ck).flatMap s.groupsOf else s.groupsOf (groupTeam gid)

/-- A group has arrived at instance `n`: by its count, or because it or its team has ended. -/
def State.arrived (s : State) (cl : Bool) (n : Word) (k : Nat) : Bool :=
  let g := s.group k
  g.exited == allLanes || (s.team (groupTeam k)).ended || !later n (g.arrivals cl)

/-- The wait of `BARW` is over. -/
def State.barrierOpen (s : State) (cl : Bool) : Bool :=
  let n := s.cur.arrivals cl
  n == s.cur.departures cl || (s.participants s.iss.gid cl).all fun k => s.arrived cl n k

/-- Which barrier instruction a word is. -/
inductive BarKind where
  | bar | bara | barw
  deriving DecidableEq, Repr

/-- The end of a barrier instruction: departure, then what the instruction still does. A `BARA` that first acted as `BARW`
arrives now; it and `BARW` begin their region here (R108). -/
def State.barFinish (s : State) (k : BarKind) (cl : Bool) : State :=
  let s := s.setCur (s.cur.depart cl)
  match k with
  | .bar => (s.setCur { s.cur with inBar := false }).advance
  | .barw => s.advance.regionAfter
  | .bara => (s.setCur (s.cur.arrive cl)).advance.regionAfter

/-- The group arrives at a `BAR`, and its region begins there (R108). -/
def State.barArrive (s : State) (cl : Bool) : State :=
  (s.setCur (((s.cur.depart cl).arrive cl).beginBar)).releaseA s.iss.gid

/-- A barrier instruction from its issue. A `BAR` whose arrival does not stand from before arrives as `BARA` does: a group that has
not departed from an earlier instance waits for that one first. (DEDUCED: assumption 40.) -/
def State.barrier (s : State) (i : Instr) (k : BarKind) (f : XE) : Out :=
  let cl := f.flags == 1
  .next (s.runX { guard := f.guard, coll := true, region := true, mem := true, rel := k != .barw } noFault fun s m =>
    if m = 0 then some s.advance
    else if !s.cur.canBegin then none
    else
      let first := k = .bar && !s.cur.inBar
      if first && !s.barrierOpen cl then some (s.park i m)
      else
        let s := if first then s.barArrive cl else s
        some (if s.barrierOpen cl then s.barFinish k cl else s.park i m))

def execBar (f : XE) (s : State) : Out := s.barrier (.bar f) .bar f
def execBara (f : XE) (s : State) : Out := s.barrier (.bara f) .bara f
def execBarw (f : XE) (s : State) : Out := s.barrier (.barw f) .barw f

/-! ### Regions, commit, ordered waits (R339 to R342) -/

/-- `REGN`. -/
def execRegn (f : XE) (s : State) : Out :=
  .next (s.runX { guard := f.guard, regs := [f.e1.toNat], coll := true, region := true, deliver := true } noFault fun s m =>
    if m = 0 then some s.advance
    else
      let g := { s.cur with first := f.e0.toNat, last := f.e1.toNat, noLive := f.flags == 1 }
      if g.canBegin then some (s.setCur g).advance.regionAfter else none)

/-- `COMMIT` (R241): a release at `.fab` for the held stores (R159). -/
def execCommit (f : XE) (s : State) : Out :=
  .next (s.runX { guard := f.guard, coll := true, region := true, mem := true, rel := true, deliver := true } noFault fun s m =>
    if m = 0 then some s.advance
    else if s.cur.canBegin then some (s.commitTeam (groupTeam s.iss.gid)).advance.regionAfter
    else none)

/-- The team that an `ORDWAIT` names has ended every group (R219). -/
def State.ordered (s : State) (t : Nat) : Bool :=
  let l := s.launchOf s.iss.gid
  (s.team (teamKey l.handle t)).ends == l.groups

/-- `ORDWAIT` (R342). -/
def execOrdwait (f : XE) (s : State) : Out :=
  let r := f.e0.toNat
  let t := (s.cur.v 0 r).toNat
  .next (s.runX { guard := f.guard, regs := [r], reads := [r], coll := true }
    (fun m =>
      if m != 0 && (!(s.launchOf s.iss.gid).determ || teamIndex (groupTeam s.iss.gid) ≤ t) then
        some { cause := 0x11, lanes := allLanes }
      else none) fun s m =>
    some (if m = 0 || s.ordered t then s.advance else s.park (.ordwait f) m))

/-! ### Channel queues (R343 to R346) -/

/-- A reservation of the operand buffer that a handle names for the launch of a group, in its quad (R357). -/
def State.resvOf (s : State) (gid : Nat) (h : Word) : Option Resv :=
  (s.quad (s.quadOf gid)).resvs.find? fun r => r.handle = h && r.launch = keyHandle (groupTeam gid)

/-- A reservation of a launch is locked by a pass that has not retired (R230). -/
def State.locked (s : State) (q : Nat) (launch h : Word) : Bool :=
  (s.quad q).passes.any fun p => keyHandle (groupTeam p.gid) = launch && p.locked.contains h

/-- Bytes written to the operand buffer of a quad. -/
def State.obWrite (s : State) (q off : Nat) (bs : List Byte) : State :=
  let x := s.quad q
  s.setQuad q { x with ob := (bs.foldl (fun (p : Tab Byte × Nat) b => (tabSet 0 p.1 p.2 b, p.2 + 1)) (x.ob, off)).1 }

def State.obByte (s : State) (q off : Nat) : Byte := tabGet 0 (s.quad q).ob off

/-- The vector of a `QSND`: zero in lanes that are not active. -/
def qvector (g : Group) (m : Lanes) (r : Nat) : Row := Vector.ofFn fun i => if m.getLsbD i.val then g.v i.val r else 0

/-- Operations outstanding in a class (R355): an engine or tile operation until its stores to other packages have their replies. (DESIGN
CHOICE: assumption 23.) -/
def Group.outstanding (g : Group) (cls : Nat) : Nat :=
  match cls with
  | 0 => g.copies.length
  | 1 => g.matOps.length
  | 2 => g.tiles.length + (g.engineOut true).length
  | _ => g.rem.length

/-- A tile operation of the group has accesses to make (R213, R214). -/
def Group.tileBusy (g : Group) : Bool := !g.tiles.isEmpty || !(g.engineOut true).isEmpty

/-- An unretired `.mat` operation of the group, older than operation number `n`, names a handle (R351). -/
def Group.matNames (g : Group) (h : Word) (n : Nat) : Bool := g.mats.any fun m => m.id < n && (m.b = h || m.c = h)

/-- Every target of a consumer mask has room; the `mx` range is not locked, and no older `.mat` operation of the group names it
(R230, R351). -/
def State.qRoom (s : State) (f : XE) : Bool :=
  let g := s.cur
  let mask := g.v 0 f.e0.toNat
  let core := slotCore g.slot
  ((List.range 4).all fun k =>
      !mask.getLsbD k || ((s.core (quadCore core k)).queue.filter fun v => v.sender = coreMember core).length < Config.queueVectors)
    && (!mask.getLsbD 4 || (!s.locked (s.quadOf s.iss.gid) (keyHandle (groupTeam s.iss.gid)) (g.v 0 f.e2.toNat) && !g.matNames (g.v 0 f.e2.toNat) g.nextOp))

/-- The vector enters every target, in one step; the instruction ends and begins its region. -/
def State.qSend (s : State) (f : XE) (m : Lanes) : State :=
  let g := s.cur
  let mask := g.v 0 f.e0.toNat
  let core := slotCore g.slot
  let v : QVec := { sender := coreMember core, launch := keyHandle (groupTeam s.iss.gid), words := qvector g m f.e1.toNat }
  let s := (List.range 4).foldl (fun s k =>
    if mask.getLsbD k then
      let x := s.core (quadCore core k)
      s.setCore (quadCore core k) { x with queue := x.queue ++ [v] }
    else s) s
  let s :=
    if mask.getLsbD 4 then
      match s.resvOf s.iss.gid (g.v 0 f.e2.toNat) with
      | some r =>
        s.obWrite (s.quadOf s.iss.gid) (r.granule * 4096 + 128 * (g.v 0 f.e3.toNat).toNat)
          ((List.range 32).flatMap fun l => leBytes 4 (laneAt v.words l).toNat)
      | none => s
    else s
  s.feDone

/-- `QSND`; with no active lane it sends nothing. (DEDUCED: assumption 26.) -/
def execQsnd (f : XE) (s : State) : Out :=
  let g := s.cur
  let mask := g.v 0 f.e0.toNat
  let mx := mask.getLsbD 4
  let used := f.e0.toNat :: if mx then [f.e2.toNat, f.e3.toNat] else []
  .next (s.runX { guard := f.guard, regs := [f.e0.toNat, f.e1.toNat, f.e2.toNat, f.e3.toNat], reads := [f.e1.toNat], lane0 := used
                  region := true, mem := true, rel := true }
    (fun m =>
      if m != 0 && mx then
        match s.resvOf s.iss.gid (g.v 0 f.e2.toNat) with
        | none => some { cause := 0x0D, lanes := m, info := 1 }
        | some r =>
          if r.count * 4096 < 128 * (g.v 0 f.e3.toNat).toNat + 128 then some { cause := 0x0D, lanes := m, info := 13 } else none
      else none) fun s m =>
    if !s.cur.canBegin then none
    else if m = 0 then some s.feDone
    else some (if s.qRoom f then s.qSend f m else s.park (.qsnd f) m))

/-- The oldest vector of the group's launch from member `k` in its core's queues. -/
def State.qHead (s : State) (k : Nat) : Option QVec :=
  (s.core (slotCore s.cur.slot)).queue.find? fun v => v.sender = k && v.launch = keyHandle (groupTeam s.iss.gid)

/-- The vector is taken: each active lane's element, the vector consumed whole. -/
def State.qTake (s : State) (f : XE) (m : Lanes) (v : QVec) : State :=
  let c := slotCore s.cur.slot
  let x := s.core c
  let s := s.setCore c { x with queue := x.queue.erase v }
  (s.setCur (s.cur.setReg f.e0.toNat m fun l => laneAt v.words l)).feDone

/-- `QRCV`. -/
def execQrcv (f : XE) (s : State) : Out :=
  .next (s.runX { guard := f.guard, regs := [f.e0.toNat], region := true, mem := true, after := true } noFault fun s m =>
    if !s.cur.canBegin then none
    else
      match s.qHead f.flags.toNat with
      | some v => some (s.qTake f m v)
      | none => some (s.park (.qrcv f) m))

end Sys2Proof.Machine
end

