-- ==== Sys2Proof/Machine/Copies.lean ====
section
/-! DEFINITION. The copy engine: sequences, chunks, faults, presence, the expansion of coded streams
(spec/16_isa_copy_matrix.md R348 to R352, spec/06_address_spaces.md R123, R137 to R142,
spec/02_fabric_and_exactly_once.md R36). -/
namespace Sys2Proof.Machine

/-! ### Sequences (R349, R350) -/

/-- Bytes of one element or block of a `CPYP`. -/
def Copy.unit (c : Copy) : Nat := if c.elem = 2 then 4 else if c.elem = 3 then 8 else 16 * (c.planes + 1)

/-- Destination bytes of a copy. -/
def Copy.size (c : Copy) : Nat :=
  match c.kind with
  | 1 => c.len * c.rows
  | 3 => c.len * c.unit
  | _ => c.len

/-- Destination and source of byte `i` of the copy's order. -/
def strideAt (base stride : Dword) (len i : Nat) : Dword := base + BitVec.ofNat 64 (i / len) * stride + BitVec.ofNat 64 (i % len)
def Copy.dstAt (c : Copy) (i : Nat) : Dword := if c.kind = 1 then strideAt c.dst c.dstride c.len i else c.dst + BitVec.ofNat 64 i
def Copy.srcAt (c : Copy) (i : Nat) : Dword := if c.kind = 1 then strideAt c.src c.sstride c.len i else c.src + BitVec.ofNat 64 i

/-- Bytes from `i` to the end of its row. -/
def Copy.rowLeft (c : Copy) (i : Nat) : Nat := if c.kind = 1 then c.len - i % c.len else c.size - i

/-- A run of bytes of the copy's order that stays within one aligned 16-byte block of its address. -/
structure Piece where
  at' : Nat
  va : Dword
  n : Nat
  deriving DecidableEq, Repr

/-- Bytes `lo` to `hi` cut into pieces, with fuel. -/
def cutPieces (addr : Nat → Dword) (room : Nat → Nat) (hi : Nat) : Nat → Nat → List Piece
  | 0, _ => []
  | fuel + 1, i =>
    if hi ≤ i then []
    else
      let a := addr i
      let n := max 1 (min (16 - a.toNat % 16) (min (room i) (hi - i)))
      { at' := i, va := a, n } :: cutPieces addr room hi fuel (i + n)

def Copy.dstPieces (c : Copy) (lo hi : Nat) : List Piece := cutPieces c.dstAt c.rowLeft hi (hi - lo) lo
def Copy.srcPieces (c : Copy) (lo hi : Nat) : List Piece := cutPieces c.srcAt c.rowLeft hi (hi - lo) lo

/-- `n` bytes at an address, cut the same way. -/
def rangePieces (va : Dword) (n : Nat) : List Piece := cutPieces (fun i => va + BitVec.ofNat 64 i) (fun i => n - i) n n 0

/-! ### Accesses of a copy (R137, R348) -/

/-- Why a copy does not go on at an access: it waits, it ends with COPY_FAILED at an untranslated address, or it is a copy fault
at a virtual address with its record's FLAGS. -/
inductive CopyStop where
  | wait
  | failed (addr : Dword)
  | fault (addr : Dword) (flags : Word)
  deriving DecidableEq, Repr

/-- The translation of a copy's access: CA is ignored (R137). -/
def State.copyXlate (s : State) (gid : Nat) (a va : Dword) (write : Bool) (k : Nat) : Except CopyStop Place :=
  let die := coreDie (slotCore (s.group gid).slot)
  let w : Word := if write then 1 else 0
  match s.translate die (s.launchOf gid).ctx va k with
  | .absent => .error (.fault va (w ||| 2))
  | .malformed _ => .error (.failed a)
  | .leaf level e =>
    if write && !pteW e then .error (.fault va (w ||| 4))
    else
      let p := leafPlace level e va
      if p.kind = 2 && s.fabUp = 0 then .error (.fault va (w ||| 8)) else .ok p

/-- A copy's access to one piece, in the private window of lane `l` (R348). -/
def State.copyPlace (s : State) (gid l : Nat) (a : Dword) (n : Nat) (write : Bool) (k : Nat) : Except CopyStop Place :=
  let pad (tk : Nat) : Except CopyStop Place :=
    match s.scratchPlace tk (a.toNat % 2 ^ 20) n with
    | .ok p => .ok p
    | .error _ => .error (.failed a)
  match s.classOf gid a with
  | 0 => s.copyXlate gid a a write k
  | 1 =>
    match s.privateVa gid l a n with
    | .ok va => s.copyXlate gid a va write k
    | .error _ => .error (.failed a)
  | 2 => pad (groupTeam gid)
  | 4 => pad (s.sibling gid (a.toNat / 2 ^ 32 % 16))
  | _ => .error (.failed a)

/-! ### Presence (R123) -/

/-- The team and the line of its scratchpad that an address names, when it lies in one. -/
def State.padLine (s : State) (gid : Nat) (a : Dword) : Option (Nat × Nat) :=
  let off := a.toNat % 2 ^ 20
  let within (tk : Nat) : Option (Nat × Nat) := if off < (s.launchOf gid).scratch * 4096 then some (tk, off / 128) else none
  match s.classOf gid a with
  | 2 => within (groupTeam gid)
  | 4 => within (s.sibling gid (a.toNat / 2 ^ 32 % 16))
  | _ => none

/-- The distinct scratchpad lines that bytes `lo` to `hi` of a copy's destination cover. -/
def State.copyLines (s : State) (gid : Nat) (c : Copy) (lo hi : Nat) : List (Nat × Nat) :=
  if c.ob then []
  else if s.classOf gid c.dst = 0 && c.kind != 1 then []
  else ((c.dstPieces lo hi).filterMap fun p => s.padLine gid p.va).eraseDups

/-- The physical line of a team's line. -/
def State.physLine (s : State) (x : Nat × Nat) : Nat × Nat :=
  let t := s.team x.1
  (t.core, t.units.getD (x.2 / 32) 0 * 32 + x.2 % 32)

/-- The pending count of a team's line, where it is kept now (R110). -/
def State.pending (s : State) (x : Nat × Nat) : Nat :=
  let t := s.team x.1
  if t.resident then tabGet 0 (s.core (s.physLine x).1).pend (s.physLine x).2 else tabGet 0 t.pend x.2

def State.setPending (s : State) (x : Nat × Nat) (n : Nat) : State :=
  let t := s.team x.1
  if t.resident then
    let y := s.physLine x
    s.setCore y.1 { s.core y.1 with pend := tabSet 0 (s.core y.1).pend y.2 n }
  else s.setTeam x.1 { t with pend := tabSet 0 t.pend x.2 n }

def State.addLines (s : State) (xs : List (Nat × Nat)) : State := xs.foldl (fun s x => s.setPending x (s.pending x + 1)) s
def State.dropLines (s : State) (xs : List (Nat × Nat)) : State := xs.foldl (fun s x => s.setPending x (s.pending x - 1)) s

/-- A line holds pending bytes of a copy of any group issued before this one. -/
def State.olderPending (s : State) (c : Copy) (x : Nat × Nat) : Bool :=
  s.groups.any fun p => p.2.copies.any fun d => (d.born < c.born || (d.born = c.born && d.id < c.id)) && d.lines.contains x

/-! ### Reading the source -/

/-- A source piece read: its bytes, or a remote piece that has not arrived. -/
inductive Fetched where
  | bytes (bs : List Byte)
  | remote (p : Place) (n : Nat)
  deriving DecidableEq, Repr

/-- Bytes that an older copy of the group is still to write (R151): a place, and how many. -/
abbrev Span := Place × Nat

/-- The memory behind a place: this package's, a scratchpad, an operand-buffer range (kind 4), another package's. -/
def Span.meets (a b : Span) : Bool :=
  let home (p : Place) : Nat × Nat × Nat :=
    if p.kind = 2 then (2, 0, p.pkg.toNat) else if p.kind = 3 then (3, p.core, 0) else if p.kind = 4 then (4, p.core, 0) else (0, 0, 0)
  home a.1 = home b.1 && a.1.pa < b.1.pa + b.2 && b.1.pa < a.1.pa + a.2

/-- The destination bytes `lo` to `hi` of a copy, as far as they have places. -/
def State.copySpans (s : State) (gid : Nat) (c : Copy) (lo hi : Nat) : List Span :=
  (c.dstPieces lo hi).filterMap fun p =>
    if c.ob then some ({ kind := 4, core := c.handle.toNat, pa := p.va.toNat }, p.n)
    else
      match s.copyPlace gid c.lane p.va p.n true (p.at' + 2 ^ 13) with
      | .ok x => some (x, p.n)
      | .error _ => none

/-- What the older copies of the group have not written. -/
def State.olderWrites (s : State) (gid : Nat) (c : Copy) : List Span :=
  ((s.group gid).copies.filter fun d => d.seq < c.seq && (match d.state with
    | .running | .parked _ => true
    | _ => false)).flatMap fun d => s.copySpans gid d (4096 * d.chunk) d.size

/-- One source piece (R137, R151, R234): class and translation, an older copy's bytes, presence, poison. -/
def State.copyRead (s : State) (gid : Nat) (c : Copy) (ws : List Span) (p : Piece) (k : Nat) : Except CopyStop Fetched :=
  match s.copyPlace gid c.lane p.va p.n false k with
  | .error e => .error e
  | .ok x =>
    if ws.any (Span.meets (x, p.n)) then .error .wait
    else if x.kind = 2 then
      match c.got.find? fun g => g.1 = x.pkg && g.2.1 = x.pa with
      | some g => .ok (.bytes (g.2.2.take p.n))
      | none => .ok (.remote x p.n)
    else if s.bad x then .error (.failed p.va)
    else if (match s.padLine gid p.va with
             | some y => s.olderPending c y
             | none => false) then .error .wait
    else .ok (.bytes ((List.range p.n).map fun i => s.placeByte (groupTeam gid) x i))

/-- Pieces in order: the bytes, or the remote pieces that are missing. -/
def State.copyReads (s : State) (gid : Nat) (c : Copy) (ws : List Span) : List Piece → Nat → Except CopyStop (List Byte × List (Place × Nat))
  | [], _ => .ok ([], [])
  | p :: ps, k =>
    match s.copyRead gid c ws p k with
    | .error e => .error e
    | .ok x =>
      match s.copyReads gid c ws ps (k + 1) with
      | .error e => .error e
      | .ok (bs, ms) =>
        match x with
        | .bytes b => .ok (b ++ bs, ms)
        | .remote q n => .ok (bs, (q, n) :: ms)

/-! ### Expansion (R139 to R141) -/

/-- The canonical codes of a table: symbol, code, length (R140). -/
def canonical (t : CodeTable) : List (Nat × Nat × Nat) :=
  ((List.range t.maxLen).foldl (fun (p : List (Nat × Nat × Nat) × Nat × Nat) i =>
    let n := t.counts.getD i 0
    let new := (List.range n).map fun j => (t.syms.getD (p.2.2 + j) 0, p.2.1 + j, i + 1)
    (p.1 ++ new, (p.2.1 + n) * 2, p.2.2 + n)) ([], 0, 0)).1

/-- Bits of a stream, most significant of each byte first. -/
def streamBits (bs : List Byte) : List Bool := bs.flatMap fun b => (List.range 8).map fun i => b.getLsbD (7 - i)

/-- Symbols decoded from bits until none is left; `none` for a code absent from the table. -/
def decodeBits (codes : List (Nat × Nat × Nat)) (maxLen : Nat) : List Bool → Nat → Nat → Option (List Nat)
  | [], _, len => if len = 0 then some [] else none
  | b :: bs, acc, len =>
    let acc := acc * 2 + if b then 1 else 0
    match codes.find? fun c => c.2.2 = len + 1 && c.2.1 = acc with
    | some c => (decodeBits codes maxLen bs 0 0).map fun r => c.1 :: r
    | none => if maxLen ≤ len + 1 then none else decodeBits codes maxLen bs acc (len + 1)

/-- Symbols as output bytes: one each, or two nibbles each, the first in bits [3:0]. -/
def symBytes (nibble : Bool) : List Nat → Option (List Byte)
  | [] => some []
  | a :: rest =>
    if nibble then
      match rest with
      | [] => none
      | b :: more => (symBytes nibble more).map fun r => BitVec.ofNat 8 (a + 16 * b) :: r
    else (symBytes nibble rest).map fun r => BitVec.ofNat 8 a :: r

/-- A block decoded (R141): its bytes when it is not in error. -/
def expandBlock (t : CodeTable) (nout nbits : Nat) (body : List Byte) : Option (List Byte) :=
  match decodeBits (canonical t) t.maxLen ((streamBits body).take nbits) 0 0 with
  | none => none
  | some syms =>
    match symBytes t.nibble syms with
    | none => none
    | some bs => if bs.length = nout then some bs else none

/-! ### One chunk -/

/-- The bytes of a chunk, or the remote pieces it still needs, with the address of the next stream block and what its last block leaves for the
next chunk. -/
structure ChunkData where
  bytes : List Byte := []
  missing : List (Place × Nat) := []
  spos : Dword
  rest : List Byte := []

/-- The chunk of an expansion copy. (DEDUCED: assumption 37.) -/
def State.expandChunk (s : State) (gid : Nat) (c : Copy) (ws : List Span) (n : Nat) : Except CopyStop ChunkData :=
  match c.table with
  | none => .error (.failed c.src)
  | some t =>
    if s.classOf gid c.dst != 2 then .error (.failed c.dst)
    else
      match s.copyReads gid c ws (rangePieces c.spos 8) 0 with
      | .error e => .error e
      | .ok (hd, m0) =>
        if !m0.isEmpty then .ok { missing := m0, spos := c.spos }
        else
          let nout := leVal (hd.take 4)
          let nbits := leVal (hd.drop 4)
          let last := c.size ≤ 4096 * (c.chunk + 1)
          let words := (nbits + 63) / 64
          if nout = 0 || 4096 < nout || (!last && nout != 4096) || nout < n then .error (.failed c.spos)
          else if nout * 2 * 15 < nbits then .error (.failed c.spos)
          else
            match s.copyReads gid c ws (rangePieces (c.spos + 8) (words * 8)) 1 with
            | .error e => .error e
            | .ok (body, m1) =>
              if !m1.isEmpty then .ok { missing := m1, spos := c.spos }
              else
                match expandBlock t nout nbits body with
                | none => .error (.failed c.spos)
                | some bs => .ok { bytes := bs.take n, spos := c.spos + 8 + BitVec.ofNat 64 (words * 8) }

/-- A plane-form source of a `CPYP`: its page, whose planes stay in range and hold no poison (R350). -/
def State.planeSrc (s : State) (gid : Nat) (c : Copy) (ws : List Span) (va : Dword) (n planes k : Nat) : Except CopyStop Place :=
  match s.copyPlace gid c.lane va n false k with
  | .error e => .error e
  | .ok x =>
    if !x.pf || !s.planesFit x.pa (x.pa + (planes - 1) * x.stride + n - 1) then .error (.failed va)
    else if (List.range planes).any fun j => s.bad (x.plane j) then .error (.failed va)
    else if (List.range planes).any fun j => ws.any (Span.meets (x.plane j, n)) then .error .wait
    else .ok x

/-- The same for `n` bytes that may pass from one 16-byte block to the next. -/
def State.planeRow (s : State) (gid : Nat) (c : Copy) (ws : List Span) (va : Dword) (n planes k : Nat) : Except CopyStop (List (Place × Nat)) :=
  (rangePieces va n).zipIdx.mapM fun p => (s.planeSrc gid c ws p.1.va p.1.n planes (k + p.2)).map fun x => (x, p.1.n)

/-- One element or block of a `CPYP`, as the bytes that it writes. -/
def State.cpypUnit (s : State) (gid : Nat) (c : Copy) (ws : List Span) (i : Nat) : Except CopyStop (List Byte) :=
  let tk := groupTeam gid
  if c.elem = 4 then
    let hva := c.src + BitVec.ofNat 64 (4 * i)
    match s.copyPlace gid c.lane hva 4 false i with
    | .error e => .error e
    | .ok h =>
      if !h.pf || s.bad h then .error (.failed hva)
      else if ws.any (Span.meets (h, 4)) then .error .wait
      else
        let rva := c.src + BitVec.ofNat 64 (h.stride + 16 * i)
        match s.planeRow gid c ws rva 16 c.planes (2 * i + 2 ^ 12) with
        | .error e => .error e
        | .ok rs =>
          let hd := s.readPlace tk h 4
          let tag := hd / 2 ^ 16 % 4
          let stored := if tag = 3 then 0 else 2 ^ tag
          .ok (leBytes 16 hd ++ (List.range c.planes).flatMap fun j =>
            if j < stored then rs.flatMap fun r => (List.range r.2).map fun b => s.placeByte tk (r.1.plane j) b else leBytes 16 0)
  else
    let F := if c.elem = 3 then f64 else f32
    let va := c.src + BitVec.ofNat 64 (2 * i)
    match s.planeSrc gid c ws va 2 c.planes i with
    | .error e => .error e
    | .ok x => .ok (leBytes c.unit (planeTrunc F c.planes (s.elemAt tk x (F.bits / 16))))

/-- Units `i` to `i + n` in order. -/
def State.cpypUnits (s : State) (gid : Nat) (c : Copy) (ws : List Span) (i : Nat) : Nat → Except CopyStop (List Byte)
  | 0 => .ok []
  | n + 1 => do
    let a ← s.cpypUnit gid c ws i
    let b ← s.cpypUnits gid c ws (i + 1) n
    .ok (a ++ b)

/-- The bytes of the copy's next chunk. A `CPYP` reads each block once, for both chunks that it straddles. -/
def State.chunkData (s : State) (gid : Nat) (c : Copy) (ws : List Span) : Except CopyStop ChunkData :=
  let lo := 4096 * c.chunk
  let hi := min (lo + 4096) c.size
  match c.kind with
  | 2 => s.expandChunk gid c ws (hi - lo)
  | 3 =>
    let u := c.unit
    let i := (lo + u - 1) / u
    match s.cpypUnits gid c ws i ((hi + u - 1) / u - i) with
    | .error e => .error e
    | .ok bs => .ok { bytes := (c.rest ++ bs).take (hi - lo), spos := c.spos, rest := (c.rest ++ bs).drop (hi - lo) }
  | _ =>
    match s.copyReads gid c ws (c.srcPieces lo hi) 0 with
    | .error e => .error e
    | .ok (bs, ms) => .ok { bytes := bs, missing := ms, spos := c.spos }

/-- The places of a chunk's destination pieces, all checked before any is written. -/
def State.dstPlaces (s : State) (gid : Nat) (c : Copy) : List Piece → Except CopyStop (List (Piece × Place))
  | [] => .ok []
  | p :: ps => do
    let x ← s.copyPlace gid c.lane p.va p.n true (p.at' + 2 ^ 13)
    let r ← s.dstPlaces gid c ps
    .ok ((p, x) :: r)

/-! ### The group's copies -/

def Group.copy (g : Group) (id : Nat) : Option Copy := g.copies.find? fun c => c.id = id
def Group.setCopy (g : Group) (c : Copy) : Group := { g with copies := g.copies.map fun d => if d.id = c.id then c else d }
def State.setCopy (s : State) (gid : Nat) (c : Copy) : State := s.setGroup gid ((s.group gid).setCopy c)

/-- A copy ends with COPY_FAILED: its lines whose bytes have not landed are released (R123). -/
def State.failCopy (s : State) (gid : Nat) (c : Copy) (addr : Dword) : State :=
  (s.dropLines c.lines).setCopy gid { c with state := .failed addr, lines := [], unacked := [], got := [] }

/-- The first FAULTID from the die's next one that no unanswered fault holds (R69). -/
def Die.freeFault (x : Die) : Word :=
  ((List.range (x.copyFaults.length + 1)).map fun i => x.nextFault + BitVec.ofNat 32 i).find? (fun i => !x.copyFaults.any fun f => f.1 = i)
    |>.getD x.nextFault

/-- A copy's fault: it parks with its record, which waits for room when the log is full (R67, R69, R137). A launch that is ending
discards it (R69). -/
def State.copyFault (s : State) (gid : Nat) (c : Copy) (addr : Dword) (flags : Word) : State :=
  let d := coreDie (slotCore (s.group gid).slot)
  let x := s.die d
  let id := x.freeFault
  let s := s.setDie d { x with nextFault := id + 1, copyFaults := x.copyFaults ++ [(id, gid, c.id)] }
  let s := s.setCopy gid { c with state := .parked id, got := [] }
  let s := s.log d { kind := 2, handle := keyHandle (groupTeam gid), id := s.logIdOf gid, code := id, flags, pc := c.pc, addr,
                     chunk := BitVec.ofNat 32 c.chunk }
  if (s.launchOf gid).state = .running then s else s.discardParked (keyHandle (groupTeam gid))

/-- The chunk in hand is complete: the lines that no later chunk covers are released, the copy goes on or is done. -/
def State.chunkDone (s : State) (gid : Nat) (c : Copy) : State :=
  let next := 4096 * (c.chunk + 1)
  let rest := if c.lines.isEmpty then [] else s.copyLines gid c next c.size
  let c := { c with chunk := c.chunk + 1, got := [], written := false, unacked := [],
                    lines := c.lines.filter rest.contains, state := if c.size ≤ next then .done else .running }
  let gone := ((((s.group gid).copy c.id).map (·.lines)).getD []).filter fun x => !rest.contains x
  (s.dropLines gone).setCopy gid c

/-- A packet of a copy (R34; assumption 7): the pieces with their lengths, their bytes. -/
def State.copyPacket (s : State) (gid : Nat) (c : Copy) (pkg : BitVec 16) (write : Bool) (ps : List (Nat × Nat × List Byte)) :
    Packet :=
  { Packet.zero with
    dst := pkg, src := s.image.pkgnum, kind := if write then 7 else 8, lhandle := keyHandle (groupTeam gid)
    key := requesterKey (s.launchOf gid).ctx gid, addr := BitVec.ofNat 48 ((ps.head?.map (·.1)).getD 0)
    recs := ps.map fun p => { lane := 0, pa := BitVec.ofNat 48 p.1, check := 0, data := [BitVec.ofNat 32 p.2.1], va := 0 : LaneRec }
    bytes := ps.flatMap (·.2.2), gid, copyId := c.id, chunk := c.chunk }

/-- Pieces cut into payloads of at most 4,096 bytes, of the packet and of its answer (R32): `room` is left in the one under way. -/
def cutPayloads (room : Nat) : List (Nat × Nat × List Byte) → List (List (Nat × Nat × List Byte))
  | [] => []
  | p :: ps =>
    let n := 12 + p.2.1
    if n ≤ room then
      match cutPayloads (room - n) ps with
      | l :: ls => (p :: l) :: ls
      | [] => [[p]]
    else [] :: (match cutPayloads (4096 - n) ps with
      | l :: ls => (p :: l) :: ls
      | [] => [[p]])

/-- The packets for each package that the pieces name. -/
def State.copySend (s : State) (gid : Nat) (c : Copy) (write : Bool) (ps : List (BitVec 16 × Nat × Nat × List Byte)) : State :=
  let pkgs := (ps.map (·.1)).eraseDups
  let out := pkgs.flatMap fun k =>
    (cutPayloads 4096 ((ps.filter fun p => p.1 = k).map (·.2))).map fun l => s.copyPacket gid c k write l
  let c := { c with unacked := c.unacked ++ out.map fun p =>
    { packet := p, tries := 1, next := s.now + us 16, start := s.now, port := s.portFor p none } }
  let s := pkgs.foldl (fun s k => s.addressed (keyHandle (groupTeam gid)) k) s
  out.foldl State.emit (s.setCopy gid c)

/-- The chunk's bytes for a range of its destination. -/
def cutBytes (bs : List Byte) (lo : Nat) (p : Piece) : List Byte := (bs.drop (p.at' - lo)).take p.n

/-- Pieces of one chunk that overlap in another package's memory, byte by byte, the last writer's: its packets may arrive in any
order (R348). -/
def lastWrites (ps : List (BitVec 16 × Nat × Nat × List Byte)) : List (BitVec 16 × Nat × Nat × List Byte) :=
  let meets (a b : BitVec 16 × Nat × Nat × List Byte) : Bool := a.1 = b.1 && a.2.1 < b.2.1 + b.2.2.1 && b.2.1 < a.2.1 + a.2.2.1
  if ps.zipIdx.any fun a => ps.zipIdx.any fun b => a.2 < b.2 && meets a.1 b.1 then
    let bytes := ps.flatMap fun p => p.2.2.2.zipIdx.map fun b => (p.1, p.2.1 + b.2, 1, [b.1])
    bytes.zipIdx.filterMap fun a => if bytes.zipIdx.any fun b => a.2 < b.2 && meets a.1 b.1 then none else some a.1
  else ps

/-- The chunk lands: local bytes at once, remote ones as write chunks (R137, R36). -/
def State.landBytes (s : State) (gid : Nat) (c : Copy) (bs : List Byte) (ps : List (Piece × Place)) : State :=
  let lo := 4096 * c.chunk
  let near := ps.filter fun p => p.2.kind != 2
  let far := ps.filter fun p => p.2.kind = 2
  let s := near.foldl (fun s p =>
    if p.2.kind = 3 then s.padWrite p.2.core p.2.pa (cutBytes bs lo p.1) else s.memWrite p.2.pa (cutBytes bs lo p.1)) s
  let s := s.clearCovered ((near.filter fun p => p.2.kind != 3).map fun p => (p.2.pa, cutBytes bs lo p.1))
  if far.isEmpty then s.chunkDone gid c
  else s.copySend gid { c with written := true } true (lastWrites (far.map fun p => (p.2.pkg, p.2.pa, p.1.n, cutBytes bs lo p.1)))

/-- A chunk into an operand-buffer range (R351, R230). -/
def State.landOb (s : State) (gid : Nat) (c : Copy) (bs : List Byte) : State :=
  let lo := 4096 * c.chunk
  let hi := min (lo + 4096) c.size
  let q := s.quadOf gid
  match s.resvOf gid c.handle with
  | none => s.failCopy gid c c.dst
  | some r =>
    let s := (c.dstPieces lo hi).foldl (fun s p => s.obWrite q (r.granule * 4096 + p.va.toNat) (cutBytes bs lo p)) s
    s.chunkDone gid c

/-- The copy's range is locked by a pass, an older `.mat` operation of its group names it, or it still waits for granules after a
resume of its team, which may be a sibling (R230, R351, R357, R113). -/
def State.obBusy (s : State) (gid : Nat) (c : Copy) : Bool :=
  c.ob && (s.locked (s.quadOf gid) (keyHandle (groupTeam gid)) c.handle || (s.group gid).matNames c.handle c.id
    || s.teams.any fun p => p.2.handle = keyHandle (groupTeam gid) && p.2.resvs.any fun r => r.handle = c.handle)

/-- One step of a copy: its next chunk, a fault, an end, or the read requests that the chunk needs. A chunk waits for the bytes that
older copies of the group, or older copies into its scratchpad lines, have not written (R151, R152). -/
def State.copyChunk (s : State) (gid : Nat) (c : Copy) : State :=
  let lo := 4096 * c.chunk
  let hi := min (lo + 4096) c.size
  let ws := s.olderWrites gid c
  if s.obBusy gid c then s
  else
    match s.chunkData gid c ws with
    | .error .wait => s
    | .error (.failed a) => s.failCopy gid c a
    | .error (.fault a fl) => s.copyFault gid c a fl
    | .ok x =>
      if !x.missing.isEmpty then s.copySend gid c false ((x.missing.map fun m => (m.1.pkg, m.1.pa, m.2, [])).eraseDups)
      else
        let c := { c with spos := x.spos, rest := x.rest }
        if c.ob then
          if (s.copySpans gid c lo hi).any fun a => ws.any (Span.meets a) then s else s.landOb gid c x.bytes
        else
          match s.dstPlaces gid c (c.dstPieces lo hi) with
          | .error .wait => s
          | .error (.failed a) => s.failCopy gid { c with spos := c.spos } a
          | .error (.fault a fl) => s.copyFault gid ((((s.group gid).copy c.id)).getD c) a fl
          | .ok ps =>
            if (ps.any fun p => ws.any (Span.meets (p.2, p.1.n))) || (s.copyLines gid c lo hi).any (s.olderPending c) then s
            else s.landBytes gid c x.bytes ps

end Sys2Proof.Machine
end

