-- ==== Sys2Proof/Machine/Copy.lean ====
section
/-! DEFINITION. X group 0x20: copies, table loads, counters (spec/16_isa_copy_matrix.md R347 to R356). -/
namespace Sys2Proof.Machine

/-- The lowest active lane, whose registers hold the scalars (R347). -/
def lead (m : Lanes) : Nat := (lowestLane m).getD 0

/-! ### Issue of a copy (R348, R351, R240, R241) -/

/-- A destination that a copy can reach lies in global memory (R241). -/
def State.copyGlobal (s : State) (gid : Nat) (c : Copy) : Bool :=
  let isG (a : Dword) : Bool := s.classOf gid a ≤ 1
  if c.ob || c.size = 0 then false
  else if c.kind = 1 then (List.range c.rows).any fun r => isG (c.dstAt (r * c.len)) || isG (c.dstAt (r * c.len + c.len - 1))
  else isG c.dst || isG (c.dstAt (c.size - 1))

/-- Reasons of HANDLE_INVALID at the issue of an `.ob` copy (R351). -/
def State.obReason (s : State) (gid : Nat) (c : Copy) : Option Nat :=
  match s.resvOf gid c.handle with
  | none => some 1
  | some r =>
    let size : Int := r.count * 4096
    let off : Int := c.dst.toNat
    let last : Int := if c.kind = 1 then (c.rows - 1 : Int) * c.dstride.toInt else 0
    let lo := off + min 0 last
    let hi := off + max 0 last + (if c.kind = 1 then c.len else c.size : Nat)
    if c.size != 0 && (lo < 0 || size < hi) then some 13 else none

/-- Some destination line's pending count would pass 7 (R123). -/
def State.linesFull (s : State) (xs : List (Nat × Nat)) : Bool := xs.any fun x => 7 ≤ s.pending x

/-- A copy enters its group's list, and takes its lines' counts. -/
def State.addCopy (s : State) (c : Copy) (lines : List (Nat × Nat)) : State :=
  let g := s.cur
  let c := { c with id := g.nextOp, seq := g.nCopy, lines, born := s.fresh, state := if c.size = 0 then .done else .running }
  (s.addLines lines).setCur { (s.addLines lines).cur with
    copies := g.copies ++ [c], nextOp := g.nextOp + 1, nCopy := g.nCopy + 1 }

/-- The issue of a copy: `mk` builds it from the registers of lane J; `bad` is a reason of HANDLE_INVALID of its own. (DEDUCED: assumption 28.) -/
def State.copyIssue (s : State) (guard : BitVec 7) (regs : List Nat) (mk : Nat → Copy) (bad : Copy → Bool) : Out :=
  let gid := s.iss.gid
  let act := s.cur.active s.iss.run guard
  let commit := act != 0 && s.cur.hold && s.copyGlobal gid (mk (lead act))
  .next (s.runX { guard, regs, reads := regs, region := commit, deliver := commit, after := true }
    (fun m =>
      if m = 0 then none
      else
        let c := mk (lead m)
        let lanes : Lanes := BitVec.ofNat 32 (2 ^ lead m)
        let fault (n : Nat) : Option DataFault := some { cause := 0x0D, lanes, info := BitVec.ofNat 64 n }
        match if c.ob then s.obReason gid c else none with
        | some n => fault n
        | none => if bad c then fault 13 else none)
    fun s m =>
      if m = 0 then some s.advance
      else
        let c := mk (lead m)
        let lines := s.copyLines gid c 0 c.size
        if 255 ≤ s.cur.outstanding 0 || s.linesFull lines then none
        else (if commit then s.implicitCommit else some s).map fun s => (s.addCopy c lines).advance)

/-- A copy built from the fields of lane `j`. -/
def State.mkCopy (s : State) (f : XE) (kind : Nat) (j : Nat) : Copy :=
  let g := s.cur
  let ob := kind != 2 && f.flags.getLsbD 0
  let d := f.e0.toNat
  let e := f.e2.toNat
  let ctl := (g.v j (e + 1)).toNat
  let src := g.v64 j f.e1.toNat
  { id := 0, seq := 0, kind, ob, handle := if ob then g.v j d else 0
    dst := if ob then (g.v j (d + 1)).setWidth 64 else g.v64 j d
    src, len := (g.v j e).toNat, rows := if kind = 1 then ctl else 0
    dstride := if kind = 1 then (g.v j (e + 2)).signExtend 64 else 0
    sstride := if kind = 1 then (g.v j (e + 3)).signExtend 64 else 0
    planes := if kind = 3 then ctl % 4 + 1 else 0, elem := if kind = 3 then ctl / 4 % 8 else 0
    slot := if kind = 2 then f.flags.toNat else 0
    table := if kind = 2 then tabGet none (s.core (slotCore g.slot)).tables f.flags.toNat else none
    lane := j, run := s.iss.run, pc := s.iss.pc, chunk := 0, spos := src, rest := [], state := .running, unacked := [], got := [],
    written := false, lines := [], born := 0 }

def execCpy (f : XE) (s : State) : Out :=
  s.copyIssue f.guard (pairRegs f.e0 ++ pairRegs f.e1 ++ [f.e2.toNat]) (s.mkCopy f 0) fun _ => false

def execCpy2 (f : XE) (s : State) : Out :=
  s.copyIssue f.guard (pairRegs f.e0 ++ pairRegs f.e1 ++ range' f.e2.toNat 4) (s.mkCopy f 1) fun _ => false

def execCpyx (f : XE) (s : State) : Out :=
  s.copyIssue f.guard (pairRegs f.e0 ++ pairRegs f.e1 ++ [f.e2.toNat]) (s.mkCopy f 2) fun _ => false

/-- A control word or a source that `CPYP` does not take: R350's reason 13, also for a plane count that R172 would have be a reserved field.
(DEDUCED: assumption 96.) -/
def cpypBad (c : Copy) : Bool :=
  match c.elem with
  | 2 => 2 < c.planes || c.src.toNat % 2 != 0
  | 3 => c.src.toNat % 2 != 0
  | 4 => c.planes == 3 || c.src.toNat % 4 != 0
  | _ => true

def execCpyp (f : XE) (s : State) : Out :=
  s.copyIssue f.guard (pairRegs f.e0 ++ pairRegs f.e1 ++ range' f.e2.toNat 2) (s.mkCopy f 3) cpypBad

/-! ### Table loads (R353, R354, R139) -/

/-- The aligned 16-byte blocks that cover `n` bytes at `a`. -/
def blocksOf (a : Dword) (n : Nat) : List Nat := (List.range ((a.toNat % 16 + n + 15) / 16)).map fun i => a.toNat / 16 + i

/-- The words of a block that a remote read of this instruction brought. -/
def Group.hidden (g : Group) (j : Nat) : Option (List Byte) :=
  (g.late.find? fun x => x.ready && x.regs.any fun p => p.1 = hiddenReg 0 && p.2.getLsbD j).map fun x =>
    (List.range 4).flatMap fun w =>
      match x.rows.find? fun r => r.1 = hiddenReg w with
      | some r => leBytes 4 (laneAt r.2 j).toNat
      | none => []

/-- What a table load reads at block `j` of its range. -/
inductive BlockRead where
  | have (bs : List Byte)
  | absent
  | bad (p : Place)
  | remote (p : Place)

def State.tableBlock (s : State) (l : Nat) (blk j : Nat) : BlockRead :=
  match s.resolve s.iss.gid l (BitVec.ofNat 64 (blk * 16)) 1 1 false with
  | .error _ => .absent
  | .ok p =>
    if p.kind = 2 then
      match s.cur.hidden j with
      | some bs => .have bs
      | none => .remote p
    else if s.absent p then .absent
    else if s.badRead 16 p then .bad p
    else .have ((List.range 16).map fun i => s.placeByte (groupTeam s.iss.gid) p i)

/-- A table load as it stands: a line is absent, poison is met, blocks are missing, or the bytes are there. -/
inductive TableRead where
  | bytes (bs : List Byte)
  | absent
  | bad (p : Place)
  | missing (ls : List ReqLane)

/-- The 16-byte blocks of a list, in order. -/
def State.readBlocks (s : State) (l : Nat) (blks : List Nat) : TableRead :=
  let bs := blks.zipIdx.map fun x => (x, s.tableBlock l x.1 x.2)
  match bs.findSome? fun x => match x.2 with
    | .bad p => some p
    | _ => none with
  | some p => .bad p
  | none =>
    if bs.any fun x => match x.2 with
      | .absent => true
      | _ => false then .absent
    else
      let ms := bs.filterMap fun x => match x.2 with
        | .remote p => some { lane := x.1.2, place := p, va := BitVec.ofNat 64 (x.1.1 * 16) : ReqLane }
        | _ => none
      if ms.isEmpty then
        .bytes (bs.flatMap fun x => match x.2 with
          | .have b => b
          | _ => [])
      else .missing ms

def State.tableBlocks (s : State) (l : Nat) (a : Dword) (n : Nat) : TableRead :=
  match s.readBlocks l (blocksOf a n) with
  | .bytes bs => .bytes ((bs.drop (a.toNat % 16)).take n)
  | r => r

/-- The fault with the lowest code, the first of equals (R114). -/
def lowestFault (fs : List (Nat × Dword)) : Option (Nat × Dword) :=
  fs.foldl (fun b f => match b with
    | some g => if f.1 < g.1 then some f else b
    | none => some f) none

/-- The fault of an `LD.b8` of each byte of a range (R353): of lowest code, at the first byte that has it. The bytes of a 16-byte block have one
answer. -/
def State.byteFault (s : State) (l : Nat) (a : Dword) (n : Nat) : Option (Nat × Dword) :=
  lowestFault ((blocksOf a n).filterMap fun b =>
    let first := max (b * 16) a.toNat
    match s.resolve s.iss.gid l (BitVec.ofNat 64 first) 1 1 false with
    | .error c => some (c, BitVec.ofNat 64 first)
    | .ok _ => none)

/-- A table load: the bytes when they are all there; otherwise the group waits for a line, or for remote replies (an unknown
one is delivered here), or consumes an error. -/
def State.loadRead (s : State) (i : Instr) (l : Nat) (r : TableRead) (use : State → List Byte → Option State) : Option State :=
  match s.cur.unknowns.find? fun u => u.regs.any fun p => 0x1000 ≤ p.1 with
  | some u => some (s.trapUnknown u)
  | none =>
    match r with
    | .absent =>
      some ((s.setCur { s.cur with wait := some { i, run := s.iss.run, pc := s.iss.pc, left := 0, absent := true, since := s.now } }).closePass s.iss.gid)
    | .bad p =>
      let e := errorAt p.pa p.stride
      some (s.consume s.iss.gid e.1 e.2.1 e.2.2 (BitVec.ofNat 64 (p.pa / 128 * 128)) (BitVec.ofNat 32 (2 ^ l)))
    | .missing ls =>
      if s.cur.late.any fun x => x.isHidden && !x.ready then some (s.park i 0)
      else some ((s.sendAll (.load 16) 5 0 false ((List.range 4).map hiddenReg) ls).park i 0)
    | .bytes bs => use (s.setCur s.cur.dropHidden) bs

/-- The blocks of a range as accesses of a lane. -/
def State.blockAccs (s : State) (l : Nat) (a : Dword) (n : Nat) : List LaneAcc :=
  (blocksOf a n).filterMap fun b =>
    match s.resolve s.iss.gid l (BitVec.ofNat 64 (b * 16)) 1 1 false with
    | .ok p => some { lane := l, va := BitVec.ofNat 64 (b * 16), place := p }
    | .error _ => none

/-- Lane `l` reads a range (R353): behind its own older requests (R154), and its counted pages count (R134). -/
def State.tableLoad (s : State) (i : Instr) (l : Nat) (a : Dword) (n : Nat) (use : State → List Byte → Option State) :
    Option State :=
  let xs := s.blockAccs l a n
  if s.clash (fun _ => false) 16 xs then none
  else s.loadRead i l (s.tableBlocks l a n) fun s bs => use (s.countPages s.iss.gid (xs.map (·.place))) bs

/-- The bytes of a code table as its record, when it keeps R139 and its format is supported. -/
def parseTable (formats : Dword) (bs : List Byte) : Option CodeTable :=
  let b (i : Nat) : Nat := (bs.getD i 0).toNat
  let maxLen := b 1
  let nsym := b 2 + 256 * b 3
  let counts := (List.range 15).map fun i => b (0x10 + i)
  let syms := (List.range nsym).map fun j => b (0x20 + j)
  let kraft := (List.range 15).foldl (fun k i => k + counts.getD i 0 * 2 ^ (14 - i)) 0
  if b 0 ≤ 1 && formats.getLsbD (b 0) && 1 ≤ maxLen && maxLen ≤ 15 && 1 ≤ nsym && nsym ≤ (if b 0 = 1 then 16 else 256)
      && (counts.drop maxLen).all (· == 0) && counts.sum == nsym && kraft ≤ 2 ^ 15 && syms.eraseDups.length == nsym
      && (b 0 == 0 || syms.all (· < 16)) then
    some { nibble := b 0 == 1, maxLen, counts, syms }
  else none

/-- Formats of capability 0x0006 (R71). -/
def State.formats (s : State) : Dword := ((s.caps.find? fun c => c.id = 6).map (·.payload)).getD 0

/-- Bytes of a code table, from its header: none beyond the header when NSYM breaks R139. -/
def tableSize (hd : List Byte) : Nat :=
  let n := (hd.getD 2 0).toNat + 256 * (hd.getD 3 0).toNat
  if n ≤ 256 then 0x20 + n else 0x20

/-- The bytes of a range of the package's memory and scratchpads as they stand, for the tests before a table load acts. -/
def State.peek (s : State) (l : Nat) (a : Dword) (n : Nat) : Option (List Byte) :=
  match s.tableBlocks l a n with
  | .bytes bs => some bs
  | _ => none

/-- A copy of the core's groups that uses a code-table slot is within a block (R142). -/
def State.slotBusy (s : State) (k : Nat) : Bool :=
  let c := slotCore s.cur.slot
  s.groups.any fun p => p.2.live && slotCore p.2.slot = c &&
    p.2.copies.any fun d => d.kind = 2 && d.slot = k && d.state == .running && !(d.unacked.isEmpty && d.got.isEmpty)

/-- `CTLD`: the slot holds the new table when the whole of it has been read, and no copy is within a block (R142). -/
def execCtld (f : XE) (s : State) : Out :=
  let g := s.cur
  let addr (m : Lanes) : Dword := g.v64 (lead m) f.e0.toNat
  .next (s.runX { guard := f.guard, regs := pairRegs f.e0, reads := pairRegs f.e0, mem := true }
    (fun m =>
      if m = 0 then none
      else
        let l := lead m
        let a := addr m
        let lanes : Lanes := BitVec.ofNat 32 (2 ^ l)
        match s.byteFault l a 0x20 with
        | some (c, x) => some { cause := c, lanes, addr := x }
        | none =>
          match s.peek l a 0x20 with
          | none => none
          | some hd =>
            match s.byteFault l a (tableSize hd) with
            | some (c, x) => some { cause := c, lanes, addr := x }
            | none =>
              match s.peek l a (tableSize hd) with
              | some bs => if (parseTable s.formats bs).isNone then some { cause := 0x0D, lanes, info := 11 } else none
              | none => none)
    fun s m =>
      if m = 0 then some s.advance
      else
        let l := lead m
        let a := addr m
        let n := match s.peek l a 0x20 with
          | some hd => tableSize hd
          | none => 0x20
        s.tableLoad (.ctld f) l a n fun s bs =>
          let c := slotCore s.cur.slot
          let x := s.core c
          if s.slotBusy f.flags.toNat then none
          else some (s.setCore c { x with tables := tabSet none x.tables f.flags.toNat (parseTable s.formats bs) }).advance)

/-- `PTLD`. -/
def execPtld (f : XE) (s : State) : Out :=
  let g := s.cur
  let addr (m : Lanes) : Dword := g.v64 (lead m) f.e0.toNat
  .next (s.runX { guard := f.guard, regs := pairRegs f.e0, reads := pairRegs f.e0, mem := true }
    (fun m =>
      if m = 0 then none
      else
        let a := addr m
        let lanes : Lanes := BitVec.ofNat 32 (2 ^ lead m)
        match s.byteFault (lead m) a 256 with
        | some (c, x) => if a.toNat % 32 != 0 && 6 < c then some { cause := 0x06, lanes, addr := a } else some { cause := c, lanes, addr := x }
        | none => if a.toNat % 32 != 0 then some { cause := 0x06, lanes, addr := a } else none)
    fun s m =>
      if m = 0 then some s.advance
      else
        s.tableLoad (.ptld f) (lead m) (addr m) 256 fun s bs =>
          let c := slotCore s.cur.slot
          let x := s.core c
          let pats := (List.range 256).foldl (fun p i => tabSet 0x80 p (f.flags.toNat * 256 + i) (bs.getD i 0)) x.pats
          some (s.setCore c { x with pats }).advance)

/-! ### Counters (R355, R356) -/

/-- The oldest failed copy that a `WAITC .copy, n` covers (R352). -/
def Group.copyFailure (g : Group) (n : Nat) : Option Deferred := g.copyFails.find? fun d => d.seq + n < g.nCopy

/-- The failed tile operation, when a `WAITC .tile, n` covers it (R116). -/
def Group.tileFailure (g : Group) (n : Nat) : Option Deferred :=
  match g.tileFail with
  | some d => if d.seq + n < g.nTile then some d else none
  | none => none

/-- Operations of a class issued so far. -/
def Group.issuedOf (g : Group) (cls : Nat) : Nat :=
  match cls with
  | 0 => g.nCopy
  | 1 => g.nMat
  | 2 => g.nTile
  | _ => g.nRem

/-- The oldest unknown outcome of an operation of a class that a `WAITC` with count `n` covers (R42, R355). -/
def Group.clsUnknown (g : Group) (cls n : Nat) : Option Unknown :=
  g.unknowns.find? fun u => match u.cls with
    | some c => c.1 = cls && c.2 + n < g.issuedOf cls
    | none => false

/-- A delivered failure leaves the pending ones; the region's checkpoint keeps that of an older operation (R113). -/
def Group.giveCopy (g : Group) (d : Deferred) : Group :=
  { g with copyFails := g.copyFails.erase d, ckpt := g.ckpt.map fun c => c.keepCopy d }
def Group.giveTile (g : Group) (d : Deferred) : Group :=
  { g with tileFail := none, ckpt := g.ckpt.map fun c => if d.seq < c.nTile then { c with tileFail := some d } else c }

/-- A deferred cause is delivered at the instruction in hand (R116). -/
def State.deliverFailure (s : State) (g : Group) (d : Deferred) : State :=
  (s.setCur g).takeTrap d.cause d.lanes d.addr (BitVec.ofNat 64 (distance d.pc s.iss.pc))

/-- What a `WAITC` with count `n` finds of its class when it completes: the oldest deferred cause that it covers is delivered (R42, R116,
R352, R355). A tile operation whose stores are unknown is younger than a failed one, after which none is executed, or older. -/
def State.waitcEnd (s t : State) (cls n : Nat) : State :=
  let g := s.cur
  let fails : Option State :=
    match cls with
    | 0 => (g.copyFailure n).map fun d => s.deliverFailure (g.giveCopy d) d
    | 2 => (g.tileFailure n).map fun d => s.deliverFailure (g.giveTile d) d
    | _ => none
  match g.clsUnknown cls n with
  | some u => s.trapUnknown u
  | none => fails.getD t.advance

/-- `WAITC`: it parks, then delivers the oldest deferred cause that it covers, or completes. -/
def execWaitc (f : XE) (s : State) : Out :=
  let n := f.e0.toNat
  let cls := f.flags.toNat
  .next (s.runX { guard := f.guard } noFault fun t m =>
    some (
      if m = 0 then t.advance
      else if n < s.cur.outstanding cls then t.park (.waitc f) m
      else s.waitcEnd t cls n))

/-- `CNTRD`. -/
def execCntrd (f : XE) (s : State) : Out :=
  let d := f.e0.toNat
  .next (s.runX { guard := f.guard, regs := [d] } noFault fun s m =>
    let g := s.cur
    let x : Word := BitVec.ofNat 32 (g.outstanding 0 + g.outstanding 1 * 2 ^ 8 + g.outstanding 2 * 2 ^ 16 + g.outstanding 3 * 2 ^ 24)
    some (s.setCur (g.setReg d m fun _ => x)).advance)

end Sys2Proof.Machine
end

