-- ==== Sys2Proof/Machine/Fetch.lean ====
section
/-! DEFINITION. Before a bundle and after it: the fetch of a word, which groups of a slot may be chosen, the switch of a slot,
the count of an issued bundle (spec/12_formats_and_opcode_map.md R255, spec/04_scheduler.md R91 to R93,
spec/05_cores_and_execution.md R97, R105, R106). -/
namespace Sys2Proof.Machine

/-! ### Fetch (R255, R97) -/

/-- Registers above every allocation that a remote fetch leaves its word under. -/
def fetchReg (w : Nat) : Nat := 0x2000 + w

def Late.isFetch (x : Late) : Bool := x.regs.any fun p => 0x2000 ≤ p.1

/-- What a fetch gives: the word, a trap with its cause, an uncorrectable error at a physical address of a page with a plane stride, a word that another
package has to send, or one that it has been asked for. -/
inductive FetchRes where
  | word (w : BitVec 64)
  | trap (cause : Nat)
  | bad (pa stride : Nat)
  | remote (p : Place)
  | waiting
  deriving DecidableEq, Repr

/-- The word at a PC. -/
def State.fetch (s : State) (gid : Nat) (pc : Dword) : FetchRes :=
  if pc.toNat % 8 != 0 || 2 ^ 56 ≤ pc.toNat then .trap 0x06
  else
    match s.coreAccess gid pc false 32 with
    | .error c => .trap c
    | .ok p =>
      if p.kind = 2 then
        match (s.group gid).late.find? Late.isFetch with
        | none => .remote p
        | some x =>
          let r (w : Nat) : Word := ((x.rows.find? fun r => r.1 = fetchReg w).map fun r => laneAt r.2 0).getD 0
          if x.ready then .word (r 1 ++ r 0) else .waiting
      else if s.bad p then .bad p.pa p.stride
      else .word (BitVec.ofNat 64 (leVal ((List.range 8).map fun i => s.cell (p.pa + i))))

/-- A word of another package is asked for. -/
def State.askWord (s : State) (p : Place) : State :=
  s.sendAll (.load 8) 5 0 false [fetchReg 0, fetchReg 1] [{ lane := 0, place := p, va := s.iss.pc }]

/-- A word that came from another package is used up. -/
def Group.dropFetch (g : Group) : Group := { g with late := g.late.filter fun x => !x.isFetch }

/-! ### The instruction that a group issues next -/

/-- The PC of the run that issues next. -/
def Group.nextPc (g : Group) : Dword := laneAt64 g.pcs ((lowestLane g.nextRun).getD 0)

/-- It, when its word decodes. -/
def State.nextInstr (s : State) (gid : Nat) : Option Instr :=
  match s.fetch gid (s.group gid).nextPc with
  | .word w =>
    match decode w with
    | .ok i => some i
    | .error _ => none
  | _ => none

/-- The latches that an instruction reads (R257). -/
def latchReads (i : Instr) : List Nat :=
  let r (f : BitVec 9) : List Nat := if 0x100 ≤ f.toNat && f.toNat ≤ 0x103 then [f.toNat - 0x100] else []
  match i.view with
  | .t _ f => r f.sa ++ r f.sb ++ r f.sc
  | .i _ f => r f.sa
  | .p _ h0 _ h1 => r h0.hsrc ++ r h1.hsrc
  | _ => []

/-- The group's next bundle reads a valid latch; while its word is still to come from another package, it may (R106). -/
def State.readsLatch (s : State) (gid : Nat) : Bool :=
  match s.fetch gid (s.group gid).nextPc with
  | .word w =>
    match decode w with
    | .ok i => (latchReads i).any fun b => (s.group gid).lvalid.getLsbD b
    | .error _ => false
  | .remote _ | .waiting => (s.group gid).lvalid != 0
  | _ => false

/-! ### Which group (R91, R92) -/

/-- Nothing holds the group back before its next bundle's own operands are looked at: it is resident, it does not wait, it is
neither stopped nor moved, its team's reservations are restored (R113), and some run can issue. -/
def State.awake (s : State) (gid : Nat) : Bool :=
  let g := s.group gid
  g.live && !g.stopped && g.wait.isNone && g.movingTill ≤ s.now && g.part != 0 && (s.launchOf gid).state == .running
    && (s.cluster g.ck).state == .placed && (s.team (groupTeam gid)).resvs.isEmpty

/-- The resident groups of a slot. -/
def State.residents (s : State) (n : Nat) : List Nat := (s.groups.filter fun p => p.2.live && p.2.slot = n).map (·.1)

/-- Cycles of a die in a stretch of nanoseconds. -/
def State.cyclesOf (s : State) (d ns : Nat) : Nat := ns * (s.die d).mhz / 1000

/-- The group has not issued for 2,048 cycles. -/
def State.starved (s : State) (gid : Nat) : Bool :=
  let g := s.group gid
  Config.starvation ≤ s.cyclesOf (coreDie (slotCore g.slot)) (s.now - g.lastIssue)

/-- The group of a list that comes first by an order. -/
def firstBy (lt : Nat → Nat → Bool) : List Nat → Option Nat
  | [] => none
  | a :: t =>
    match firstBy lt t with
    | none => some a
    | some b => if lt b a then some b else some a

/-- The group that has waited longest since it last issued, step by step; of equal ones the first of the list. (DESIGN CHOICE: assumption
93.) -/
def State.longest (s : State) (l : List Nat) : Option Nat :=
  firstBy (fun a b => (s.group a).lastStep < (s.group b).lastStep) l

/-- The oldest group: its team placed or resumed earliest, then the lower team index, then the lower group index; of groups of different
launches that are equal in all of these the first of the list. (DESIGN CHOICE: assumption 93.) -/
def State.oldest (s : State) (l : List Nat) : Option Nat :=
  firstBy (fun a b =>
    let x := s.group a
    let y := s.group b
    x.placedAt < y.placedAt || (x.placedAt == y.placedAt
      && (teamIndex (groupTeam a) < teamIndex (groupTeam b)
        || (teamIndex (groupTeam a) == teamIndex (groupTeam b) && groupIndex a < groupIndex b)))) l

/-- R91's choice among the ready groups of a slot: the current group until its quantum ends or it stalls, and while its next bundle
reads a latch (R106); then a starved group, or the one that rule 2 or rule 3 names. -/
def State.pick (s : State) (n : Nat) (ready : List Nat) : Option Nat :=
  let x := s.slot n
  match x.cur.filter ready.contains with
  | some c =>
    if !x.expired || s.readsLatch c then some c
    else
      (s.longest (ready.filter s.starved)).orElse fun _ =>
        (s.longest (ready.filter (· != c))).orElse fun _ => some c
  | none =>
    (s.longest (ready.filter s.starved)).orElse fun _ => if x.expired then s.longest ready else s.oldest ready

/-- The slot turns to a group: the latches of the one that it leaves fall, and the operand cache empties (R91, R103, R105). -/
def State.switchTo (s : State) (n gid : Nat) : State :=
  let x := s.slot n
  if x.cur = some gid then (if x.expired then s.setSlot n { x with quantum := 0, expired := false } else s)
  else
    let s :=
      match x.cur with
      | some c => s.setGroup c { s.group c with lvalid := 0 }
      | none => s
    s.setSlot n { x with cur := some gid, quantum := 0, expired := false, ocache := [] }

/-! ### Issue -/

/-- The issue stage takes a group's next run. -/
def State.issueOf (s : State) (gid : Nat) : Issue :=
  let g := s.group gid
  { gid, run := g.nextRun, pc := g.nextPc, yield := g.yields, yend := g.yieldEnd }

/-- The issue stage takes a parked group's instruction again. -/
def State.issueWait (s : State) (gid : Nat) (w : Wait) : Issue :=
  let g := s.group gid
  { gid, run := w.run, pc := w.pc, yield := g.yields, yend := g.yieldEnd }

/-- An issued bundle counts: for its group (R93), in the governor's window (R227), and in its slot's quantum, which ends after 64 bundles or with a `YIELD`
(R91, R295). A bundle that did not issue counts nowhere. (DEDUCED: assumption 25.) -/
def State.finishIssue (s : State) : State :=
  if s.iss.issued then
    let g := s.cur
    let s := s.setCur { g.counted s.iss with lastIssue := s.now, lastStep := s.fresh }
    let x := s.slot g.slot
    let q := if x.cur = some s.iss.gid then x.quantum + 1 else x.quantum
    s.setSlot g.slot { x with issued := x.issued + 1, quantum := q, expired := x.expired || (x.cur = some s.iss.gid && Config.quantum ≤ q) }
  else s

/-- The next state changed by a function; a stop stays. -/
def Out.map (o : Out) (f : State → State) : Out :=
  match o with
  | .next s => .next (f s)
  | .fault r => .fault r
  | .refused r => .refused r

end Sys2Proof.Machine
end

