-- ==== Sys2Proof/Machine/AtomOps.lean ====
section
/-! DEFINITION. What an atomic stores, and when a wait on an address is satisfied (spec/15_isa_memory_atomics_sync.md R331,
R333, R337). Values are `w` bits wide, `w` 32 or 64. -/
namespace Sys2Proof.Machine

/-- A value read as signed or unsigned. -/
def atomVal (w64 signed : Bool) (x : Nat) : Int := tyVal ((if signed then 2 else 0) + if w64 then 1 else 0) (BitVec.ofNat 64 x)

/-- The new stored value and the flags: operation code, old value, operand, and the swap value of `.cas`. -/
def atomApply (code : Nat) (w64 signed : Bool) (rnd : Nat) (old b swap : Nat) : Nat × Flags :=
  let w := if w64 then 64 else 32
  let F := if w64 then f64 else f32
  let less (x y : Nat) : Bool := atomVal w64 signed x < atomVal w64 signed y
  match code with
  | 0x00 => ((old + b) % 2 ^ w, 0)
  | 0x01 => (old &&& b, 0)
  | 0x02 => (old ||| b, 0)
  | 0x03 => (old ^^^ b, 0)
  | 0x04 => (if less b old then b else old, 0)
  | 0x05 => (if less old b then b else old, 0)
  | 0x06 => (b, 0)
  | 0x07 => (if old = b then swap else old, 0)
  | 0x08 => faddV F { code := rnd } (fdecode F old) (fdecode F b)
  | 0x09 => fminmax F false true old b
  | _ => fminmax F true true old b

/-- The elements of a vector operation, one after another: new values in order, and the flags of all. -/
def atomvApply (code : Nat) (w64 signed : Bool) (rnd : Nat) : List Nat → List Nat → List Nat × Flags
  | o :: os, b :: bs =>
    let r := atomApply code w64 signed rnd o b 0
    let t := atomvApply code w64 signed rnd os bs
    (r.1 :: t.1, r.2 ||| t.2)
  | _, _ => ([], 0)

/-- A condition of `WAITA` on the value read `y` and the comparand `c`. -/
def waitHolds (cond : Nat) (w64 signed : Bool) (y c : Nat) : Bool :=
  let a := atomVal w64 signed y
  let b := atomVal w64 signed c
  match cond with
  | 0 => y == c
  | 1 => y != c
  | 2 => a < b
  | 3 => a ≤ b
  | 4 => b < a
  | 5 => b ≤ a
  | 6 => y &&& c != 0
  | _ => y &&& c == 0

end Sys2Proof.Machine
end

