-- ==== Sys2Proof/Machine/Atomics.lean ====
section
/-! DEFINITION. X group 0x01: read-modify-write operations and the wait on an address (spec/15_isa_memory_atomics_sync.md R330
to R337, spec/10_determinism_and_reliability.md R218, spec/07_memory_model.md R160). -/
namespace Sys2Proof.Machine

/-- Which read-modify-write instruction a word is. -/
inductive RmwKind where
  | atom | red | atomv
  deriving DecidableEq, Repr

/-- The fields of a word of group 0x01 inside OFFS (R330), and its type. -/
def rmwCode (f : XM) : Nat := Shape.atomCode f
def rmwRnd (f : XM) : BitVec 3 := BitVec.ofNat 3 (Shape.atomRnd f)
def rmwW64 (f : XM) : Bool := f.width == 3
def rmwSigned (f : XM) : Bool := f.pln.getLsbD 0
def rmwLen32 (f : XM) : Bool := f.pln.getLsbD 1

/-- Bytes that a lane names. -/
def rmwBytes (k : RmwKind) (f : XM) : Nat :=
  match k with
  | .atomv => if rmwLen32 f then 32 else 16
  | _ => widthBytes f.width

/-- The registers that return the old value, or hold the operand. -/
def rmwRegs (k : RmwKind) (f : XM) : List Nat := range' f.data.toNat (rmwBytes k f / 4)

/-- The registers that the operand covers: `.cas` has a second one. -/
def rmwOperands (k : RmwKind) (f : XM) : List Nat :=
  if k = .atom && rmwCode f == 7 then range' f.data.toNat (rmwBytes k f / 4 * 2) else rmwRegs k f

def rmwReturns (k : RmwKind) (f : XM) : Bool :=
  match k with
  | .atom => true
  | .red => false
  | .atomv => f.rb

/-- The operation as its request carries it; `held` holds for a `RED` in a deterministic launch. -/
def rmwOp (k : RmwKind) (f : XM) (held : Bool) : OwnerOp :=
  let c := BitVec.ofNat 5 (rmwCode f)
  match k with
  | .atom => .atom c (rmwW64 f) (rmwSigned f) (rmwRnd f)
  | .red => .red c (rmwW64 f) (rmwSigned f) (rmwRnd f) held
  | .atomv => .atomv c (rmwW64 f) (rmwSigned f) (rmwRnd f) (rmwLen32 f) f.rb

/-- The new bytes of one lane's operation, the flags: old bytes and operand words (R331, R332). -/
def rmwApply (op : OwnerOp) (old : Nat) (ws : List Word) : Nat × Flags :=
  match op with
  | .atom c w s r =>
    let n := if w then 2 else 1
    atomApply c.toNat w s r.toNat old (wordsVal (ws.take n)) (wordsVal (ws.drop n))
  | .red c w s r _ => atomApply c.toNat w s r.toNat old (wordsVal ws) 0
  | .atomv c w s r l _ =>
    let b := if w then 64 else 32
    let n := (if l then 32 else 16) * 8 / b
    let cut (x : Nat) : List Nat := (List.range n).map fun e => x / 2 ^ (e * b) % 2 ^ b
    let res := atomvApply c.toNat w s r.toNat (cut old) (cut (wordsVal ws))
    (res.1.foldr (fun v acc => v + 2 ^ b * acc) 0, res.2)
  | _ => (old, 0)

/-- An address of class 0 or 1: the operation goes to its owner (R335). -/
def isGlobal (p : Place) : Bool := p.kind != 3

/-- DETERMINISM of R218 for a lane's access. -/
def State.rmwForbidden (s : State) (k : RmwKind) (f : XM) (p : Place) : Bool :=
  isGlobal p && (s.launchOf s.iss.gid).determ &&
    (match k with
     | .atom => true
     | .red => s.lastSerial
     | .atomv => f.rb || 8 ≤ rmwCode f || s.lastSerial)

/-- A lane's access to a page that is not in plane form (R335). -/
def State.rmwRes (s : State) (f : XM) (n : Nat) (write : Bool) : Resolver := fun l =>
  let r := s.plainRes f.addr (offAtom f) n n write l
  (r.1,
    match r.2 with
    | .ok p => if p.pf then .error 0x0B else .ok p
    | .error c => .error c)

/-- The ranges of two places overlap. -/
def overlaps (p q : Place) (n : Nat) : Bool := p.kind = q.kind && p.core = q.core && p.pkg = q.pkg && p.pa < q.pa + n && q.pa < p.pa + n

/-- The faults of the lanes: their addresses, SAME_ADDRESS of R334, DETERMINISM of R218. -/
def State.rmwFaults (s : State) (k : RmwKind) (f : XM) (n : Nat) (r : Resolver) (m : Lanes) : Option DataFault :=
  let xs := lanePlaces m r
  laneFaults m fun l =>
    match r l with
    | (a, .error c) => some (c, a)
    | (a, .ok p) =>
      if k = .atomv && xs.any fun x => x.lane < l && overlaps x.place p n && x.place.pa != p.pa then some (0x0C, a)
      else if s.rmwForbidden k f p then some (0x11, a)
      else none

/-- The scratchpad lanes act at the core, one after another in lane order; each returns the old words to `d`. -/
def State.rmwLocal (s : State) (op : OwnerOp) (n : Nat) (d : List Nat) (operands : Nat → List Word) (xs : List LaneAcc) : State :=
  xs.foldl (fun s x =>
    let old := s.readPlace (groupTeam s.iss.gid) x.place n
    let r := rmwApply op old (operands x.lane)
    let s := s.padWrite x.place.core x.place.pa (leBytes n r.1)
    let g := if d.isEmpty then s.cur else s.cur.setWords d x.lane (valWords d.length old)
    s.setCur { g with fpflags := mergeFlags g.fpflags r.2 }) s

/-- `ATOM`, `RED` and `ATOMV`. One that counts in `.rem` is an operation, whose accesses come after every older event of its lanes (R151);
one that returns delivers every unknown outcome (R335). -/
def State.rmw (s : State) (i : Instr) (k : RmwKind) (f : XM) : Out :=
  let n := rmwBytes k f
  let d := if rmwReturns k f then rmwRegs k f else []
  let ops := rmwOperands k f
  let res := s.rmwRes f n true
  let xs := s.reach f.guard res
  let g := s.cur
  let far := xs.filter fun x => isGlobal x.place
  .next (s.runX { guard := f.guard, regs := addrRegs f ++ ops, reads := addrRegs f ++ ops,
                  mem := true, rel := xs.any fun x => isRelease f.ord x.place
                  issues := !rmwReturns k f
                  deliver := rmwReturns k f || (f.scope == 7 && xs.any fun x => isRelease f.ord x.place)
                  region := !far.isEmpty && g.windowRegion } (fun m => s.rmwFaults k f n res m) fun s m =>
    s.present i m xs fun s =>
      if s.clash (fun _ => true) n far then none
      else if !rmwReturns k f && !xs.isEmpty && 255 ≤ g.rem.length then none
      else
        (if far.isEmpty then some s else s.openWindow).map fun s =>
          let op := rmwOp k f (s.launchOf s.iss.gid).determ
          let operands (l : Nat) : List Word := g.words l ops
          let s := s.countPages s.iss.gid (xs.map (·.place))
          let s := s.rmwLocal op n d operands (xs.filter fun x => !isGlobal x.place)
          let serial := s.cur.wserial
          let s := s.sendAll op f.scope f.ord true d
            (far.map fun x => { lane := x.lane, place := x.place, va := x.va, data := operands x.lane })
          let s := if !rmwReturns k f && !xs.isEmpty then s.setCur (if far.isEmpty then s.cur.nearRem else s.cur.addRem serial) else s
          s.advance)

def execAtom (f : XM) (s : State) : Out := s.rmw (.atom f) .atom f
def execRed (f : XM) (s : State) : Out := s.rmw (.red f) .red f
def execAtomv (f : XM) (s : State) : Out := s.rmw (.atomv f) .atomv f

/-! ### `WAITA` (R337, R160) -/

/-- The condition of a lane on a value read. -/
def State.waitaHolds (s : State) (f : XM) (l y : Nat) : Bool :=
  waitHolds (rmwCode f) (rmwW64 f) (rmwSigned f) y (wordsVal (s.cur.words l (range' f.data.toNat (widthRegs f.width))))

/-- The lanes of a set whose place on the package, or in a scratchpad, now satisfies the condition. -/
def State.waitaDone (s : State) (f : XM) (left : Lanes) : Lanes :=
  let n := widthBytes f.width
  lanesOf fun l => (lanePlaces left (s.rmwRes f n false)).any fun x =>
    x.lane = l && x.place.kind != 2 && !s.absent x.place && s.waitaHolds f l (s.readPlace (groupTeam s.iss.gid) x.place n)

/-- A 128-byte line as a team reads it (R159). -/
def State.lineValue (s : State) (tk line : Nat) : Nat := s.readPlace tk { kind := 0, pa := line * 128 } 128

/-- Monitors for the distinct lines of the waiting lanes that the package owns; a line that finds the table full is counted
(R160). (DEDUCED: assumption 27.) -/
def State.takeMonitors (s : State) (f : XM) (left : Lanes) : State :=
  let d := coreDie (slotCore s.cur.slot)
  let xs := (lanePlaces left (s.rmwRes f (widthBytes f.width) false)).filter fun x => x.place.kind ≤ 1
  ((xs.map fun x => x.place.pa / 128).eraseDups).foldl (fun s n =>
    let x := s.die d
    if x.monitors.any fun m => m.gid = s.iss.gid && m.line = n then s
    else if Config.monitors ≤ x.monitors.length then s.countLive (.monitorOverflow d)
    else
      let lane := ((xs.find? fun y => y.place.pa / 128 = n).map (·.lane)).getD 0
      s.setDie d { x with monitors := x.monitors ++ [{ gid := s.iss.gid, lane, line := n, value := s.lineValue (groupTeam s.iss.gid) n }] }) s

/-- The monitors of a group go. -/
def State.dropMonitors (s : State) (gid : Nat) : State :=
  let d := coreDie (slotCore (s.group gid).slot)
  s.setDie d { s.die d with monitors := (s.die d).monitors.filter fun m => m.gid != gid }

/-- `WAITA`: each lane completes on its own final read; the group stays parked for the others. -/
def execWaita (f : XM) (s : State) : Out :=
  let n := widthBytes f.width
  let c := range' f.data.toNat (widthRegs f.width)
  let res := s.rmwRes f n false
  .next (s.runX { guard := f.guard, regs := addrRegs f ++ c, reads := addrRegs f ++ c, mem := true } (fun m => resFaults m res) fun s m =>
    let xs := lanePlaces m res
    s.present (.waita f) m xs fun s =>
      if s.clash (fun _ => false) n xs then none
      else s.intact s.bad xs fun s =>
        let s := s.countPages s.iss.gid (xs.map (·.place))
        let left := m &&& ~~~s.waitaDone f m
        some (if left = 0 then s.advance else (s.takeMonitors f left).park (.waita f) left))

end Sys2Proof.Machine
end

