-- ==== Sys2Proof/Machine/Crypto.lean ====
section
/-! DEFINITION. The two standards that stage 0x2 names (spec/01_package_and_bringup.md R24, R25): SHAKE256 (FIPS 202) and the
check of a PureEd448 signature (RFC 8032). The spec names them and states neither. (PRESUMED: assumption 24.) -/
namespace Sys2Proof.Machine

/-! ### SHAKE256 -/

/-- A lane of the Keccak state: column `x`, row `y`. -/
abbrev Keccak := List (BitVec 64)

def Keccak.at (a : Keccak) (x y : Nat) : BitVec 64 := a.getD (x % 5 + 5 * (y % 5)) 0

def keccakBuild (f : Nat → Nat → BitVec 64) : Keccak := (List.range 25).map fun i => f (i % 5) (i / 5)

/-- The rotation of lane (x, y): 24 steps of the walk (x, y) → (y, 2x + 3y) from (1, 0), step `t` rotating by (t + 1)(t + 2) / 2. -/
def rhoOffset (x y : Nat) : Nat :=
  let walk (n : Nat) : Nat × Nat := (List.range n).foldl (fun p _ => (p.2, (2 * p.1 + 3 * p.2) % 5)) (1, 0)
  match (List.range 24).find? fun t => walk t = (x, y) with
  | some t => (t + 1) * (t + 2) / 2 % 64
  | none => 0

/-- The rotations, lane by lane. -/
def rhoOffsets : List Nat := (List.range 25).map fun i => rhoOffset (i % 5) (i / 5)

/-- The round constants: bit 2^j - 1 of constant `i` is the output of the degree-8 register after j + 7i steps. -/
def roundConstants : List (BitVec 64) :=
  let next (r : Nat) : Nat := let s := 2 * r; if 256 ≤ s then s ^^^ 0x171 else s
  let bits : List Bool := ((List.range 168).foldl (fun (p : Nat × List Bool) _ => (next p.1, (p.1 % 2 == 1) :: p.2)) (1, [])).2.reverse
  (List.range 24).map fun i =>
    BitVec.ofNat 64 ((List.range 7).foldl (fun c j => if bits.getD (j + 7 * i) false then c + 2 ^ (2 ^ j - 1) else c) 0)

/-- One round: column parities, rotations and the move of the lanes, the row step, the constant. -/
def keccakRound (a : Keccak) (rc : BitVec 64) : Keccak :=
  let par : List (BitVec 64) := (List.range 5).map fun x => (List.range 5).foldl (fun c y => c ^^^ a.at x y) 0
  let t := keccakBuild fun x y => a.at x y ^^^ par.getD ((x + 4) % 5) 0 ^^^ (par.getD ((x + 1) % 5) 0).rotateLeft 1
  let b := keccakBuild fun x y =>
    let x' := (x + 3 * y) % 5
    (t.at x' x).rotateLeft (rhoOffsets.getD (x' + 5 * x) 0)
  keccakBuild fun x y =>
    let v := b.at x y ^^^ (~~~(b.at (x + 1) y) &&& b.at (x + 2) y)
    if x = 0 && y = 0 then v ^^^ rc else v

def keccak (a : Keccak) : Keccak := roundConstants.foldl keccakRound a

/-- Little-endian values of bytes, eight at a time. -/
def byteLanes (bs : List Byte) (n : Nat) : Keccak :=
  (List.range n).map fun i =>
    BitVec.ofNat 64 ((List.range 8).foldl (fun v j => v + (bs.getD (8 * i + j) 0).toNat * 2 ^ (8 * j)) 0)

/-- A block of 136 bytes is absorbed. -/
def absorb (a : Keccak) (block : List Byte) : Keccak :=
  let ls := byteLanes block 17
  keccak (a.zipIdx.map fun p => p.1 ^^^ ls.getD p.2 0)

/-- Whole blocks of a message, by a bound on their number, then the padded last one. -/
def absorbAll : Nat → Keccak → List Byte → Keccak
  | 0, a, _ => a
  | n + 1, a, bs =>
    if bs.length < 136 then
      let z := bs ++ [0x1F] ++ List.replicate (135 - bs.length) 0
      absorb a (z.take 135 ++ [z.getD 135 0 ||| 0x80])
    else absorbAll n (absorb a (bs.take 136)) (bs.drop 136)

/-- The first `n` bytes of SHAKE256, at most 136. -/
def shake256 (n : Nat) (msg : List Byte) : List Byte :=
  let a := absorbAll (msg.length / 136 + 1) (List.replicate 25 0) msg
  (List.range n).map fun i => (a.getD (i / 8) 0 >>> (8 * (i % 8))).setWidth 8

/-! ### PureEd448 -/

def edP : Nat := 2 ^ 448 - 2 ^ 224 - 1
def edD : Nat := edP - 39081
def edL : Nat := 2 ^ 446 - 13818066809895115352007386748515426880336692474882178609894547503885

/-- A power modulo the field's prime, by the bits of its exponent. -/
def edPow (b : Nat) : Nat → Nat → Nat
  | 0, _ => 1
  | n + 1, e =>
    let h := edPow b n (e / 2)
    let q := h * h % edP
    if e % 2 = 1 then q * b % edP else q

/-- A point in projective coordinates. -/
structure EdPoint where
  x : Nat
  y : Nat
  z : Nat
  deriving DecidableEq, Repr

def EdPoint.zero : EdPoint := ⟨0, 1, 1⟩

def EdPoint.add (p q : EdPoint) : EdPoint :=
  let a := p.z * q.z % edP
  let b := a * a % edP
  let c := p.x * q.x % edP
  let d := p.y * q.y % edP
  let e := edD * c % edP * d % edP
  let f := (b + edP - e) % edP
  let g := (b + e) % edP
  let h := (p.x + p.y) * (q.x + q.y) % edP
  ⟨a * f % edP * (h + 2 * edP - c - d) % edP, a * g % edP * (d + edP - c) % edP, f * g % edP⟩

/-- `k` times a point, for `k` below 2^n. -/
def EdPoint.mul (p : EdPoint) : Nat → Nat → EdPoint
  | 0, _ => .zero
  | n + 1, k =>
    let h := p.mul n (k / 2)
    let d := h.add h
    if k % 2 = 1 then d.add p else d

def EdPoint.same (p q : EdPoint) : Bool := p.x * q.z % edP == q.x * p.z % edP && p.y * q.z % edP == q.y * p.z % edP

/-- The base point. -/
def edBase : EdPoint :=
  ⟨224580040295924300187604334099896036246789641632564134246125461686950415467406032909029192869357953282578032075146446173674602635247710,
   298819210078481492676017930443930673437544040154080242095928241372331506189835876003536878655418784733982303233503462500531545062832660, 1⟩

/-- The value of bytes, least significant first. -/
def edLe (bs : List Byte) : Nat := bs.foldr (fun b n => b.toNat + 256 * n) 0

/-- The point that 57 bytes encode. -/
def edDecode (bs : List Byte) : Option EdPoint :=
  let n := edLe bs
  let sign := n / 2 ^ 455 % 2
  let y := n % 2 ^ 455
  let u := (y * y + edP - 1) % edP
  let v := (edD * (y * y % edP) + edP - 1) % edP
  let u3v := u * u % edP * u % edP * v % edP
  let x := u3v * edPow (u3v * (u * u % edP) % edP * (v * v % edP) % edP) 446 ((edP - 3) / 4) % edP
  if bs.length != 57 || edP ≤ y || v * (x * x % edP) % edP != u || (x = 0 && sign = 1) then none
  else some ⟨if x % 2 = sign then x else edP - x, y, 1⟩

/-- The check of a signature: public key, message, signature. The equation holds as it stands, or after a multiplication by
the cofactor where the implementation checks it so: RFC 8032 allows both. -/
def ed448 (pub msg sig : List Byte) : Bool :=
  let r := sig.take 57
  let t := edLe (sig.drop 57)
  match edDecode pub, edDecode r with
  | some a, some rp =>
    let dom : List Byte := [0x53, 0x69, 0x67, 0x45, 0x64, 0x34, 0x34, 0x38, 0, 0]
    let k := edLe (shake256 114 (dom ++ r ++ pub ++ msg)) % edL
    let lhs := edBase.mul 446 t
    let rhs := rp.add (a.mul 446 k)
    sig.length == 114 && decide (t < edL) &&
      (if Config.cofactored then (lhs.mul 3 4).same (rhs.mul 3 4) else lhs.same rhs)
  | _, _ => false

end Sys2Proof.Machine
end

