-- ==== Sys2Proof/Machine/Pool.lean ====
section
/-! DEFINITION. The system pool of a die's placed region (spec/06_address_spaces.md R127, R129). -/
namespace Sys2Proof.Machine

/-- First byte of a die's sheet memory. -/
def sheetOf (d : Nat) : Nat := sheetBase + d * 2 ^ 30

/-- The pool's bounds: above the ordinary part, above a pending boundary too, below the fixed area. -/
def State.poolLow (s : State) (d : Nat) : Nat :=
  let x := s.die d
  sheetOf d + max x.ordSize.toNat ((x.ordPending.map (·.toNat)).getD 0) * mib2
def State.poolHigh (s : State) (d : Nat) : Nat := sheetOf d + (s.placedBytes - 64 * 2 ^ 20)

/-- A range meets no allocation of the die. -/
def State.poolFree (s : State) (d base size : Nat) : Bool :=
  (s.die d).areas.all fun a => a.base + a.size ≤ base || base + size ≤ a.base

/-- The highest free addresses that can hold `size` bytes: they end at the pool's end or at the base of an allocation. (DEDUCED: assumption 42.) -/
def State.poolAlloc (s : State) (d size : Nat) : Option Nat :=
  let ends := s.poolHigh d :: (s.die d).areas.map (·.base)
  ends.foldl (fun best e =>
    let base := e - size
    if size ≤ e && s.poolLow d ≤ base && e ≤ s.poolHigh d && s.poolFree d base size then
      (match best with
       | some b => some (max b base)
       | none => some base)
    else best) none

/-- An allocation for a team, or none. -/
def State.takeArea (s : State) (kind : AreaKind) (tk d size : Nat) : Option State :=
  (s.poolAlloc d size).map fun base =>
    s.setDie d { s.die d with areas := (s.die d).areas ++ [{ kind, team := tk, die := d, base, size }] }

/-- An allocation goes back. -/
def State.dropArea (s : State) (kind : AreaKind) (tk d : Nat) : State :=
  s.setDie d { s.die d with areas := (s.die d).areas.filter fun a => !(a.kind = kind && a.team = tk) }

/-- No allocation of the die lies below a boundary in 2 MiB units (R129). -/
def State.poolAbove (s : State) (d units : Nat) : Bool := (s.die d).areas.all fun a => sheetOf d + units * mib2 ≤ a.base

end Sys2Proof.Machine
end

