-- ==== Sys2Proof/Machine/Sums.lean ====
section
/-! DEFINITION. The summation orders of the matrix engine (spec/08_number_formats.md R181 to R184). -/
namespace Sys2Proof.Machine

/-- The exact product of two values, or the NaN that the exact sum becomes, with its flag (R184). -/
def exactProd (p : FVal × FVal) : FVal × Flags :=
  if p.1.isNan || p.2.isNan then (.nan false, snanFlag [p.1, p.2])
  else
    match fprod p.1 p.2 with
    | some v => (v, 0)
    | none => (.nan false, flNV)

/-- The exact sum of products: the sum of the finite terms, an infinity, or a NaN; a zero is −0 only when every term is (R184). -/
def exactSum (ps : List (FVal × FVal)) : FVal × Flags :=
  let ts := ps.map exactProd
  let fl := ts.foldl (fun f t => f ||| t.2) 0
  let up := ts.any fun t => t.1 = .inf false
  let down := ts.any fun t => t.1 = .inf true
  if up && down then (.nan false, fl ||| flNV)
  else if ts.any fun t => t.1.isNan then (.nan false, fl)
  else if up || down then (.inf down, fl)
  else
    match ts with
    | [] => (.fin false 0 0, 0)
    | t :: rest => (rest.foldl (fun a u => ((fsum { code := 0 } a u.1).getD (.nan false))) t.1, fl)

/-- R181: one fused rounding a step. -/
def sumFma (F : Fmt) (mode : Rnd) (c : Nat) (ps : List (FVal × FVal)) : Nat × Flags :=
  ps.foldl (fun (acc : Nat × Flags) p =>
    let r := ffmaV F mode p.1 p.2 (fdecode F acc.1)
    (r.1, acc.2 ||| r.2)) (c, 0)

/-- Lists of at most `n` terms, in order. -/
def chunked {α : Type} (n : Nat) : Nat → List α → List (List α)
  | 0, _ => []
  | fuel + 1, xs => if xs.isEmpty then [] else xs.take n :: chunked n fuel (xs.drop n)

/-- R182: groups of eight products, each summed exactly, one rounding a group. -/
def sumEight (mode : Rnd) (c : Nat) (ps : List (FVal × FVal)) : Nat × Flags :=
  (chunked 8 ps.length ps).foldl (fun (acc : Nat × Flags) g =>
    let t := exactSum g
    let r := faddV f32 mode (fdecode f32 acc.1) t.1
    (r.1, acc.2 ||| t.2 ||| r.2)) (c, 0)

/-- R183: block pairs of 32 products, each sum rounded to FP32, then added with a second rounding. -/
def sumBlocks (mode : Rnd) (c : Nat) (ps : List (FVal × FVal)) : Nat × Flags :=
  (chunked 32 ps.length ps).foldl (fun (acc : Nat × Flags) g =>
    let e := exactSum g
    let t := fround f32 mode e.1
    let r := faddV f32 mode (fdecode f32 acc.1) (fdecode f32 t.1)
    (r.1, acc.2 ||| e.2 ||| t.2 ||| r.2)) (c, 0)

end Sys2Proof.Machine
end

