-- ==== Sys2Proof/Machine/Engine.lean ====
section
/-! DEFINITION. The quad's engine: passes, operand-buffer records and elements, what an `.mat` operation does when its pass
retires (spec/16_isa_copy_matrix.md R357 to R366, spec/04_scheduler.md R88 to R90, spec/10_determinism_and_reliability.md
R229, R230). -/
namespace Sys2Proof.Machine

/-! ### Passes (R88, R89) -/

/-- The group holds the quad's pass and may issue one more operation. -/
def State.holdsPass (s : State) (gid : Nat) : Bool :=
  match (s.quad (s.quadOf gid)).pass with
  | some p => p.gid = gid && p.left != 0
  | none => false

/-- The group requests a pass: an entry of the table, or a place in the admission queue. A request made already stands; one whose pass has
ended requests anew. -/
def State.requestPass (s : State) (gid : Nat) : State :=
  let q := s.quadOf gid
  let x := s.quad q
  let r : PassReq := { gid, base := (s.group gid).prio, arrival := s.now, lost := 0 }
  if (x.table ++ x.admission).any fun e => e.gid = gid then s
  else if x.table.length < Config.engineTable then s.setQuad q { x with table := x.table ++ [r] }
  else s.setQuad q { x with admission := x.admission ++ [r] }

/-- An instruction that needs a pass issues in the one that its group holds; otherwise it asks for one and does not issue. -/
def State.withPass (s : State) (go : State → Option State) : Option State :=
  if s.holdsPass s.iss.gid then go s else some (s.requestPass s.iss.gid)

/-- Operation number `n` is issued in the pass: the lease, the ranges locked (R230). -/
def State.usePass (s : State) (n : Nat) (ranges : List Word) : State :=
  let q := s.quadOf s.iss.gid
  let x := s.quad q
  match x.pass with
  | none => s
  | some p =>
    let p := { p with
      left := p.left - 1, ops := p.ops ++ [n], readyAt := s.now, locked := p.locked ++ ranges.filter fun h => !p.locked.contains h }
    let x := { x with pass := some p }
    s.setQuad q (if p.left = 0 then x.endTurn p s.now else x)

/-! ### Records (R358, R359) -/

structure MatRec where
  fmt : Nat
  pl : Nat
  scoff : Int
  rows : Nat
  cols : Nat
  ld : Nat
  deriving DecidableEq, Repr

def matRec (r : Dword) : MatRec :=
  let x := r.toNat
  { fmt := x / 2 ^ 60, pl := x / 2 ^ 58 % 4, scoff := (BitVec.ofNat 8 (x / 2 ^ 50)).toInt, rows := x / 2 ^ 42 % 2 ^ 8 + 1
    cols := x / 2 ^ 34 % 2 ^ 8 + 1, ld := x / 2 ^ 18 % 2 ^ 16 }

/-- The record of a fresh reservation. -/
def unsetRec : Dword := 0xF000000000000000

/-- DEDUCED: assumption 30. -/
def MatRec.ok (r : MatRec) : Bool := r.fmt ≤ 4 && (if r.fmt = 4 then r.pl != 3 else r.pl == 0)
/-- Element bytes of an FP record, planes allotted and blocks per column of a DE one. -/
def MatRec.width (r : MatRec) : Nat := if r.fmt = 0 then 8 else if r.fmt = 1 then 4 else 2
def MatRec.planes (r : MatRec) : Nat := 2 ^ r.pl
def MatRec.blocks (r : MatRec) : Nat := (r.rows + 31) / 32

/-- Bytes that a record needs; its leading dimension is large enough (R359). -/
def MatRec.bytes (r : MatRec) : Nat :=
  if r.fmt = 4 then 16 * (r.planes + 1) * (r.ld * (r.cols - 1) + r.blocks) else r.width * (r.ld * (r.cols - 1) + r.rows)
def MatRec.ldOk (r : MatRec) : Bool := if r.fmt = 4 then r.blocks ≤ r.ld else r.rows ≤ r.ld

/-- The reason for which a record is refused for a reservation, if any. -/
def recReason (x : Resv) (r : Dword) : Option Nat :=
  let m := matRec r
  if !m.ok then some 2 else if !m.ldOk || x.count * 4096 < m.bytes then some 4 else none

/-- The binary format of a record or of `MMA`'s operand. -/
def matFmt (fmt : Nat) : Fmt := if fmt = 0 then f64 else if fmt = 1 then f32 else if fmt = 2 then f16 else bf16

/-! ### Elements of a range -/

def State.obVal (s : State) (q off n : Nat) : Nat := leVal ((List.range n).map fun i => s.obByte q (off + i))

/-- Offset of an FP element, and of a DE block's record. -/
def MatRec.elemOff (r : MatRec) (i j : Nat) : Nat := r.width * (i + r.ld * j)
def MatRec.blockOff (r : MatRec) (b j : Nat) : Nat := 16 * (r.planes + 1) * (b + r.ld * j)

/-- An exact DE value with its exponent offset (R364). -/
def deVal (h w k : Nat) (off : Int) : FVal :=
  let v := deValue h w k false
  .fin v.1 v.2.1 (v.2.2 + off)

/-- The nibble word of element `e` of a block from its plane rows in memory order. -/
def rowNibbles (row : Nat → Nat → Byte) (planes e : Nat) : Nat :=
  (List.range planes).foldl (fun w j => w + (row j (e / 2)).toNat / (if e % 2 = 0 then 1 else 16) % 16 * 16 ^ j) 0

/-- An element of a DE range: at most the planes allotted are read. -/
def State.deElem (s : State) (q base : Nat) (r : MatRec) (i j : Nat) : FVal :=
  let o := base + r.blockOff (i / 32) j
  deVal (s.obVal q o 4) (rowNibbles (fun p b => s.obByte q (o + 16 * (p + 1) + b)) r.planes (i % 32)) r.planes r.scoff

/-- An element of B. -/
def State.bElem (s : State) (q base : Nat) (r : MatRec) (i j : Nat) : FVal :=
  if r.fmt = 4 then s.deElem q base r i j else fdecode (matFmt r.fmt) (s.obVal q (base + r.elemOff i j) r.width)

/-! ### Registers of rows (R363, R366) -/

/-- Registers that a row of `n` elements takes. -/
def rowSpan (fmt n : Nat) : Nat :=
  match fmt with
  | 0 => 2 * n
  | 1 => n
  | 4 => 17 * ((n + 31) / 32)
  | _ => (n + 1) / 2

/-- Register `r` of a captured span in lane `i`. -/
def spanAt (rows : List Row) (r i : Nat) : Word := laneAt (rows.getD r zeroRow) i

/-- Element bits of an FP row in registers. -/
def rowElem (fmt : Nat) (rows : List Row) (i k : Nat) : Nat :=
  match fmt with
  | 0 => (spanAt rows (2 * k) i).toNat + 2 ^ 32 * (spanAt rows (2 * k + 1) i).toNat
  | 1 => (spanAt rows k i).toNat
  | _ => (spanAt rows (k / 2) i).toNat / (if k % 2 = 0 then 1 else 2 ^ 16) % 2 ^ 16

/-- A's element (i, k), for B's format `fmt` and the scale offset of A. -/
def aElem (fmt : Nat) (rows : List Row) (off : Int) (i k : Nat) : FVal :=
  if fmt = 4 then
    let b := 17 * (k / 32)
    let w := (List.range 4).foldl (fun x j =>
      x + (spanAt rows (b + 1 + 4 * j + k % 32 / 8) i).toNat / 16 ^ (k % 8) % 16 * 16 ^ j) 0
    deVal (spanAt rows b i).toNat w 4 off
  else fdecode (matFmt fmt) (rowElem fmt rows i k)

/-! ### What the operations do -/

/-- A header of a zero block. -/
def deZero (h : Nat) : Bool := deStored (deTag h) = 0

/-- Of the pair of blocks that hold element `k` of row `i` of A and of column `j` of B, one is a zero block. -/
def State.zeroPair (s : State) (q base : Nat) (r : MatRec) (rows : List Row) (i j k : Nat) : Bool :=
  r.fmt = 4 && (deZero (spanAt rows (17 * (k / 32)) i).toNat || deZero (s.obVal q (base + r.blockOff (k / 32) j) 4))

/-- The factors of one product of an `MMA`; a zero block's products are +0 (R183, R364). -/
def State.mmaPair (s : State) (q base : Nat) (rb : MatRec) (off : Int) (rows : List Row) (i j k : Nat) : FVal × FVal :=
  if s.zeroPair q base rb rows i j k then (.fin false 0 0, .fin false 0 0)
  else (aElem rb.fmt rows off i k, s.bElem q base rb k j)

/-- One element of an `MMA`. -/
def State.mmaElem (s : State) (q : Nat) (rb rc : MatRec) (bBase cBase k : Nat) (mode : Rnd) (rows : List Row) (i j : Nat) :
    Nat × Flags :=
  let ps := (List.range k).map (s.mmaPair q bBase rb rc.scoff rows i j)
  let c := s.obVal q (cBase + rc.elemOff i j) rc.width
  match rb.fmt with
  | 0 => sumFma f64 mode c ps
  | 1 => sumFma f32 mode c ps
  | 4 => sumBlocks mode c ps
  | _ => sumEight mode c ps

/-- Row and column numbers, row by row. -/
def grid (m n : Nat) : List (Nat × Nat) := (List.range m).flatMap fun i => (List.range n).map fun j => (i, j)

/-- Bytes written to a range. -/
def State.obPut (s : State) (q base : Nat) (r : MatRec) (i j v : Nat) : State :=
  s.obWrite q (base + r.elemOff i j) (leBytes r.width v)

/-- The words of row `i` for `MRD`: the upper half of a last odd register is zero. -/
def mrdWord (fmt : Nat) (elem : Nat → Nat) (n r : Nat) : Word :=
  match fmt with
  | 0 => BitVec.ofNat 32 (elem (r / 2) / (if r % 2 = 0 then 1 else 2 ^ 32))
  | 1 => BitVec.ofNat 32 (elem r)
  | _ => BitVec.ofNat 32 (elem (2 * r) + (if 2 * r + 1 < n then elem (2 * r + 1) * 2 ^ 16 else 0))

/-- An engine operation's write of a place. -/
def State.writeTarget (s : State) (t : Target) (bs : List Byte) : State :=
  if t.kind = 3 then s.padWrite t.core t.pa bs else s.memWrite t.pa bs

/-- One `.mat` operation takes effect (R229): its results and its flags. -/
def State.matRetire (s : State) (gid : Nat) (o : MatOp) : State :=
  let q := s.quadOf gid
  let base (h : Word) : Nat := ((s.resvOf gid h).map fun r => r.granule * 4096).getD 0
  let rc := matRec o.recC
  let cb := base o.c
  match o.kind with
  | .mma m n k rnd rows =>
    let rb := matRec o.recB
    let bb := base o.b
    let mode : Rnd := { code := rnd.toNat }
    let vals := (grid m n).map fun p => (p, s.mmaElem q rb rc bb cb k mode rows p.1 p.2)
    let s1 := vals.foldl (fun s v => s.obPut q cb rc v.1.1 v.1.2 v.2.1) s
    let fl : Flags := vals.foldl (fun f v => f ||| v.2.2) 0
    s1.setGroup gid { s1.group gid with fpflags := mergeFlags (s1.group gid).fpflags fl }
  | .mrd vd m n =>
    let elem (i j : Nat) : Nat := s.obVal q (cb + rc.elemOff i j) rc.width
    let lanes : Lanes := lanesOf fun i => i < m
    let rows : List (Nat × Row) := (List.range (rowSpan rc.fmt n)).map fun r =>
      (vd + r, Vector.ofFn fun i => if i.val < m then mrdWord rc.fmt (elem i.val) n r else 0)
    let g := s.group gid
    s.setGroup gid { g with late := g.late.map fun x =>
      if x.owner = none && x.serial = BitVec.ofNat 32 o.id then
        { x with rows := rows, ready := true, regs := x.regs.map fun p => (p.1, p.2 &&& lanes) }
      else x }
  | .mwr m n rows => (grid m n).foldl (fun s p => s.obPut q cb rc p.1 p.2 (rowElem rc.fmt rows p.1 p.2)) s
  | .mwrMem m n places =>
    let w := rc.width
    let val (i j : Nat) : Nat := s.obVal q (cb + rc.elemOff i j) w
    let cells := ((grid m n).zip places).map fun c => (c.1.1, c.2, val c.1.1 c.1.2)
    let near := cells.filter fun c => c.2.1.kind != 2
    let far := cells.filter fun c => c.2.1.kind = 2
    let s := near.foldl (fun s c => s.writeTarget c.2.1 (leBytes w c.2.2)) s
    let s := s.clearCovered ((near.filter fun c => c.2.1.kind != 3).map fun c => (c.2.1.pa, leBytes w c.2.2))
    if far.isEmpty then s
    else
      s.sendStores gid o.pc (o.serial.getD 0) o.order w false
        (far.map fun c => { lane := c.1, place := { kind := 2, pa := c.2.1.pa, pkg := c.2.1.pkg }, va := c.2.1.va, value := c.2.2 })
  | .mzero =>
    if rc.fmt = 4 then
      (grid rc.blocks rc.cols).foldl (fun s p => s.obWrite q (cb + rc.blockOff p.1 p.2) (leBytes 4 0x00030000)) s
    else (grid rc.rows rc.cols).foldl (fun s p => s.obPut q cb rc p.1 p.2 0) s

/-- Operations of `.mat` that are complete leave it in issue order (R355): those retired whose stores to another package all have their
replies. -/
def Group.retired (g : Group) (ops : List MatOp) : Group :=
  { g with
    mats := g.mats.filter fun o => !ops.any fun x => x.id = o.id
    matOps := remRetire (g.matOps.map fun (r : RemOp) =>
      if (ops.any fun o => o.id = r.id) && !(match r.serial with
        | some x => (g.engineOut false).contains x
        | none => false) then { r with done := true } else r) }

/-- The group's `.mat` operations with the numbers `ids` take effect in issue order. -/
def State.retireMats (s : State) (gid : Nat) (ids : List Nat) : State :=
  let ops := (s.group gid).mats.filter fun o => ids.contains o.id
  let s := ops.foldl (fun s o => s.matRetire gid o) s
  s.setGroup gid ((s.group gid).retired ops)

/-- The oldest ended pass of a quad is over: its ranges are unlocked (R230). -/
def State.passOver (s : State) (q : Nat) : State :=
  let x := s.quad q
  s.setQuad q { x with past := x.past.drop 1 }

/-- The passes of a group leave its quad. -/
def State.dropPasses (s : State) (gid : Nat) : State :=
  let s := s.closePass gid
  let q := s.quadOf gid
  let x := s.quad q
  s.setQuad q { x with past := x.past.filter fun p => p.gid != gid }

end Sys2Proof.Machine
end

