-- ==== Sys2Proof/Machine/Matrix.lean ====
section
/-! DEFINITION. X group 0x28: reservations of the operand buffer and the matrix engine (spec/16_isa_copy_matrix.md R357 to
R366). -/
namespace Sys2Proof.Machine

/-- HANDLE_INVALID of a collective, with its reason (R361). -/
def handleFault (n : Nat) : DataFault := { cause := 0x0D, lanes := allLanes, info := BitVec.ofNat 64 n }

/-- A collective word of the engine whose checks answer a fault, and whose effect follows them. -/
def State.runM (s : State) (n : Needs) (check : Option DataFault) (act : State → Lanes → Option State) : Out :=
  .next (s.runX { n with coll := true } (fun m => if m = 0 then none else check) fun s m =>
    if m = 0 then some s.advance else act s m)

/-! ### Reservations (R357, R362) -/

/-- A granule that is neither reserved nor clearing. -/
def Quad.granuleFree (x : Quad) (k : Nat) : Bool :=
  !x.clearing.contains k && !x.resvs.any fun r => r.granule ≤ k && k < r.granule + r.count

/-- The lowest-addressed run of `n` free granules. -/
def Quad.findRun (x : Quad) (n : Nat) : Option Nat :=
  (List.range (Config.granules + 1 - n)).find? fun k => (List.range n).all fun i => x.granuleFree (k + i)

/-- The first reservation number after the team's last that no live reservation of the team holds. -/
def nextResv (x : Quad) (tk last : Nat) : Option Nat :=
  ((List.range 255).map fun i => (last + i) % 255 + 1).find? fun n => !x.resvs.any fun r => r.team = tk && r.handle.toNat % 256 = n

/-- A reservation, with its save area and its handle; none when something is missing. -/
def State.reserve (s : State) (gid size : Nat) : Option (State × Word) :=
  let q := s.quadOf gid
  let x := s.quad q
  let tk := groupTeam gid
  let n := (size + 4095) / 4096
  if Config.reservations ≤ x.resvs.length then none
  else do
    let granule ← x.findRun n
    let num ← nextResv x tk (s.team tk).lastResv
    let h : Word := BitVec.ofNat 32 (teamIndex tk * 256 + num)
    let d := q / Config.quads
    let save ← s.poolAlloc d (n * 4096)
    let s ← s.takeArea (.save h) tk d (n * 4096)
    let s := s.setTeam tk { s.team tk with lastResv := num }
    let r : Resv := { handle := h, launch := keyHandle tk, team := tk, granule, count := n, record := unsetRec, save, saved := [] }
    some (s.setQuad q { s.quad q with resvs := (s.quad q).resvs ++ [r] }, h)

/-- `OBRES`. -/
def execObres (f : XE) (s : State) : Out :=
  let size := (s.cur.v 0 f.e1.toNat).toNat
  s.runM { guard := f.guard, regs := [f.e0.toNat, f.e1.toNat], reads := [f.e1.toNat] }
    (if size = 0 || 1835008 < size then some (handleFault 8) else none) fun s m =>
    let r := (s.reserve s.iss.gid size).getD (s, 0)
    some (r.1.setCur (r.1.cur.setReg f.e0.toNat m fun _ => r.2)).advance

/-- An issued operation of the launch names the handle: a copy, a `QSND` that waits, a `.mat` operation (R362). -/
def State.handleBusy (s : State) (gid : Nat) (h : Word) : Bool :=
  s.groups.any fun p =>
    keyHandle (groupTeam p.1) = keyHandle (groupTeam gid) &&
      ((p.2.copies.any fun c => c.ob && c.handle = h && (match c.state with
          | .done => false
          | .failed _ => false
          | _ => true))
        || p.2.opNames h
        || (match p.2.wait with
            | some w => (match w.i with
                | .qsnd f => (p.2.v 0 f.e0.toNat).getLsbD 4 && p.2.v 0 f.e2.toNat = h
                | _ => false)
            | none => false))

/-- `OBREL`: it parks until no operation names the handle. -/
def execObrel (f : XE) (s : State) : Out :=
  let r := f.e0.toNat
  let h := s.cur.v 0 r
  s.runM { guard := f.guard, regs := [r], reads := [r] }
    (match s.resvOf s.iss.gid h with
     | none => some (handleFault 1)
     | some x => if x.team != groupTeam s.iss.gid then some (handleFault 9) else none) fun s m =>
    if s.handleBusy s.iss.gid h then some (s.park (.obrel f) m)
    else
      match s.resvOf s.iss.gid h with
      | some x => some (s.freeResv (s.quadOf s.iss.gid) x).advance
      | none => some s.advance

/-- `OBSET`. -/
def execObset (f : XE) (s : State) : Out :=
  let h := s.cur.v 0 f.e0.toNat
  let rec' := s.cur.v64 0 f.e1.toNat
  let regs := f.e0.toNat :: pairRegs f.e1
  s.runM { guard := f.guard, regs, reads := regs }
    (match s.resvOf s.iss.gid h with
     | none => some (handleFault 1)
     | some x => (recReason x rec').map handleFault) fun s _ =>
    let q := s.quadOf s.iss.gid
    let x := s.quad q
    let hit (r : Resv) : Bool := r.handle = h && r.launch = keyHandle (groupTeam s.iss.gid)
    some (s.setQuad q { x with resvs := x.resvs.map fun r => if hit r then { r with record := rec' } else r }).advance

/-- `MPRI`. -/
def execMpri (f : XE) (s : State) : Out :=
  let r := f.e0.toNat
  let p := (s.cur.v 0 r).toNat % 8
  s.runM { guard := f.guard, regs := [r], reads := [r] } none fun s _ =>
    some (s.setCur { s.cur with prio := min p (s.launchOf s.iss.gid).prio }).advance

/-! ### `MMA` (R363 to R365) -/

/-- A record that is set, or the reason. -/
def State.setRecord (s : State) (gid : Nat) (h : Word) : Except Nat Resv :=
  match s.resvOf gid h with
  | none => .error 1
  | some r => if (matRec r.record).ok then .ok r else .error 2

/-- The largest K of a combination of formats; none for an illegal one. -/
def mmaLimit (b c : Nat) : Option Nat :=
  match b, c with
  | 0, 0 => some 64
  | 1, 1 => some 128
  | 2, 1 | 3, 1 | 4, 1 => some 256
  | _, _ => none

/-- The A that the group holds. -/
def State.heldOf (s : State) (gid : Nat) : Option HeldA :=
  match (s.slot (s.group gid).slot).heldA with
  | some h => if h.gid = gid then some h else none
  | none => none

/-- A computed span of registers leaves the allocation: of a group's data faults the one of lowest code (R114). -/
def spanFault (g : Group) (v n : Nat) : Option DataFault :=
  if g.nregs < v + n then some { cause := 0x05, lanes := allLanes } else none

/-- The largest K of B's format (R363). -/
def spanLimit (fmt : Nat) : Nat := if fmt = 0 then 64 else if fmt = 1 then 128 else 256

/-- The span of A, of B's format, leaves the allocation (R363); a K above the format's limit has no span. (DEDUCED: assumption 29.) -/
def State.operandFault (s : State) (f : XE) : Option DataFault :=
  match s.setRecord s.iss.gid (s.cur.v 0 f.e1.toNat) with
  | .ok b =>
    let fmt := (matRec b.record).fmt
    let k := (s.cur.v 0 (f.e3.toNat + 2)).toNat
    if spanLimit fmt < k then none else spanFault s.cur f.e0.toNat (rowSpan fmt k)
  | .error _ => none

/-- The reasons of `MMA`, in the order of R363: the fault, or the two records. (DEDUCED: assumption 29.) -/
def State.mmaReasons (s : State) (f : XE) : Except DataFault (Resv × Resv) :=
  let g := s.cur
  let gid := s.iss.gid
  let hb := g.v 0 f.e1.toNat
  let hc := g.v 0 f.e2.toNat
  let m := (g.v 0 f.e3.toNat).toNat
  let n := (g.v 0 (f.e3.toNat + 1)).toNat
  let k := (g.v 0 (f.e3.toNat + 2)).toNat
  let bad (r : Nat) : Except DataFault (Resv × Resv) := .error (handleFault r)
  match s.resvOf gid hb, s.resvOf gid hc with
  | some b, some c =>
    let rb := matRec b.record
    let rc := matRec c.record
    if !rb.ok || !rc.ok then bad 2
    else
      match mmaLimit rb.fmt rc.fmt with
      | none => bad 5
      | some lim =>
        if m = 0 || 32 < m || n = 0 || 256 < n || k = 0 || lim < k then bad 3
        else if rb.rows < k || rb.cols < n || rc.rows < m || rc.cols < n then bad 4
        else if hb = hc then bad 6
        else
          match s.heldOf gid with
          | some a => if a.va = f.e0.toNat && a.fmt = rb.fmt && k ≤ a.k then .ok (b, c) else bad 7
          | none => .ok (b, c)
  | _, _ => bad 1

/-- The checks of `MMA`: the register span comes before every reason (R114, R363). -/
def State.mmaCheck (s : State) (f : XE) : Except DataFault (Resv × Resv) :=
  match s.operandFault f with
  | some d => .error d
  | none => s.mmaReasons f

/-- The fault of a check. -/
def faultOf {α : Type} (r : Except DataFault α) : Option DataFault :=
  match r with
  | .error d => some d
  | .ok _ => none

/-- The registers of the span, when the checks pass and no A is held. -/
def State.mmaSpan (s : State) (f : XE) : List Nat :=
  match s.mmaCheck f, s.heldOf s.iss.gid with
  | .ok (b, _), none => range' f.e0.toNat (rowSpan (matRec b.record).fmt (s.cur.v 0 (f.e3.toNat + 2)).toNat)
  | _, _ => []

/-- An `.mat` operation enters the group's list, in the pass that it holds. -/
def State.addMat (s : State) (o : MatOp) (late : List Late) : State :=
  let g := s.cur.claim (late.flatMap (·.regs))
  (s.setCur { g with
    mats := g.mats ++ [o], matOps := g.matOps ++ [{ serial := o.serial, seq := g.nMat, done := false, id := o.id, names := [o.b, o.c] }]
    nextOp := g.nextOp + 1, nMat := g.nMat + 1, nReq := g.nReq + 1, late := g.late ++ late }).usePass o.id ([o.b, o.c].filter (· != 0))

/-- An `.mat` operation issues when the counter allows it and its group holds a pass. The group reaches it, and asks for the pass, once
its operands have landed and its other stalls are gone (R88). (DEDUCED: assumption 69.) -/
def State.issueMat (s : State) (mk : State → MatOp × List Late) : Option State :=
  if 255 ≤ s.cur.outstanding 1 then none
  else s.withPass fun s =>
    let o := mk s
    some (s.addMat o.1 o.2)

/-- `MMA`. -/
def execMma (f : XE) (s : State) : Out :=
  let fixed := [f.e1.toNat, f.e2.toNat] ++ range' f.e3.toNat 3
  let other := f.flags == 1 && (match (s.slot s.cur.slot).heldA with
    | some h => h.gid != s.iss.gid
    | none => false)
  s.runM { guard := f.guard, regs := f.e0.toNat :: fixed, reads := fixed ++ s.mmaSpan f, after := true } (faultOf (s.mmaCheck f)) fun s _ =>
    if other then none
    else
      match s.mmaCheck f with
      | .error _ => none
      | .ok (b, c) =>
        let g := s.cur
        let arg (i : Nat) : Nat := (g.v 0 (f.e3.toNat + i)).toNat
        let held := s.heldOf s.iss.gid
        let rows := match held with
          | some a => a.rows
          | none => (s.mmaSpan f).map g.reg
        let fmt := (matRec b.record).fmt
        (s.issueMat fun s =>
          ({ id := s.cur.nextOp, kind := .mma (arg 0) (arg 1) (arg 2) (f.e4.setWidth 3) rows, b := b.handle, c := c.handle,
             recB := b.record, recC := c.record, pc := s.iss.pc, serial := none, order := s.cur.nReq }, [])).map fun t =>
          if t.cur.nextOp = g.nextOp then t
          else
            let sl := g.slot
            let a : HeldA := held.getD { gid := s.iss.gid, va := f.e0.toNat, fmt, k := arg 2, rows }
            (if f.flags == 1 then t.setSlot sl { t.slot sl with heldA := some a } else t.releaseA s.iss.gid).advance

/-! ### Rows in and out (R366) -/

/-- The checks of `MRD`, `MWR` and `MWR.mem` on the range: the reservation, M and N. With N = 0 there is no element. -/
def State.rowCheck (s : State) (h : Word) (e2 : Nat) : Except DataFault (Resv × Nat × Nat) :=
  let m := (s.cur.v 0 e2).toNat
  let n := (s.cur.v 0 (e2 + 1)).toNat
  match s.setRecord s.iss.gid h with
  | .error r => .error (handleFault r)
  | .ok r =>
    let x := matRec r.record
    if x.fmt = 4 then .error (handleFault 10)
    else if m = 0 || 32 < m then .error (handleFault 3)
    else if x.cols < n || x.rows < m then .error (handleFault 4)
    else .ok (r, m, n)

/-- The same, with the register span from `v`, which comes before every reason (R114). -/
def State.spanCheck (s : State) (h : Word) (e2 v : Nat) : Except DataFault (Resv × Nat × Nat) :=
  let span := match s.setRecord s.iss.gid h with
    | .ok r => if (matRec r.record).fmt = 4 then none
               else spanFault s.cur v (rowSpan (matRec r.record).fmt (s.cur.v 0 (e2 + 1)).toNat)
    | .error _ => none
  match span with
  | some d => .error d
  | none => s.rowCheck h e2

/-- An operation on one range. -/
def rangeOp (s : State) (kind : MatKind) (r : Resv) : MatOp :=
  { id := s.cur.nextOp, kind, b := 0, c := r.handle, recB := 0, recC := r.record, pc := s.iss.pc, serial := none, order := s.cur.nReq }

/-- The word issued when the operation was added; otherwise its group waits for a pass. -/
def advanceIf (s t : State) : State := if t.cur.nextOp = s.cur.nextOp then t else t.advance

/-- `MRD`. -/
def execMrd (f : XE) (s : State) : Out :=
  let fixed := f.e1.toNat :: range' f.e2.toNat 2
  let chk := s.spanCheck (s.cur.v 0 f.e1.toNat) f.e2.toNat f.e0.toNat
  s.runM { guard := f.guard, regs := f.e0.toNat :: fixed, reads := fixed, after := true } (faultOf chk) fun s _ =>
    match chk with
    | .error _ => none
    | .ok (r, m, n) =>
      let lanes : Lanes := lanesOf fun i => i < m
      (s.issueMat fun s =>
        let o := rangeOp s (.mrd f.e0.toNat m n) r
        (o, [{ serial := BitVec.ofNat 32 o.id, owner := none, dst := [],
               regs := (range' f.e0.toNat (rowSpan (matRec r.record).fmt n)).map fun x => (x, lanes), rows := [],
               ready := false }])).map (advanceIf s)

/-- `MWR`. -/
def execMwr (f : XE) (s : State) : Out :=
  let fixed := f.e0.toNat :: range' f.e2.toNat 2
  let chk := s.spanCheck (s.cur.v 0 f.e0.toNat) f.e2.toNat f.e1.toNat
  let span := match chk with
    | .ok (r, _, n) => range' f.e1.toNat (rowSpan (matRec r.record).fmt n)
    | .error _ => []
  s.runM { guard := f.guard, regs := f.e1.toNat :: fixed, reads := fixed ++ span, after := true } (faultOf chk) fun s _ =>
    match chk with
    | .error _ => none
    | .ok (r, m, n) => (s.issueMat fun s => (rangeOp s (.mwr m n (span.map s.cur.reg)) r, [])).map (advanceIf s)

/-- The cells that `MWR.mem` writes, row by row: lane and address. -/
def memCells (a l : Dword) (w m n : Nat) : List (Nat × Dword) :=
  (grid m n).map fun p => (p.1, a + BitVec.ofNat 64 (w * p.1) + l * BitVec.ofNat 64 p.2)

/-- The cells of an `MWR.mem` of `m` by `n` elements of `w` bytes, each as a store. -/
def State.memPlaces (s : State) (a l : Dword) (w m n : Nat) : List (Nat × Dword × Except Nat Place) :=
  (memCells a l w m n).map fun c => (c.1, c.2, s.resolve s.iss.gid c.1 c.2 w w true)

/-- The faults of cells: code and address. -/
def cellFaults (cs : List (Nat × Dword × Except Nat Place)) : List (Nat × Dword) :=
  cs.filterMap fun c => match c.2.2 with
    | .error e => some (e, c.2.1)
    | .ok _ => none

/-- The fault of lowest code among a range's and its cells' (R114): alignment, the cells, and the range's own, which is a HANDLE_INVALID. -/
def memFault (a l : Dword) (w : Nat) (cells : List (Nat × Dword)) (range : Option DataFault) : Option DataFault :=
  if a.toNat % w != 0 || l.toNat % w != 0 then some { cause := 0x06, lanes := allLanes, addr := a }
  else
    match cells, range with
    | [], r => r
    | x :: rest, r =>
      let low := rest.foldl (fun c y => min c y.1) x.1
      let cell : DataFault := { cause := low, lanes := allLanes, addr := (((x :: rest).find? fun y => y.1 = low).map (·.2)).getD 0 }
      match r with
      | some d => if low < d.cause then some cell else some d
      | none => some cell

/-- The element width of a handle's record, and M and N, as far as a bad range leaves them: a range of a DE format, or without a record, has no
element width, and one that is no reservation has no cells; M above 32 has none either. (DEDUCED: assumption 29.) -/
def State.memSize (s : State) (h : Word) (e2 : Nat) : Nat × Nat × Nat :=
  let m := (s.cur.v 0 e2).toNat
  let n := (s.cur.v 0 (e2 + 1)).toNat
  match s.resvOf s.iss.gid h with
  | none => (1, 0, 0)
  | some r =>
    let x := matRec r.record
    if x.ok && x.fmt != 4 then (x.width, if 32 < m then 0 else m, min n x.cols) else (1, 0, 0)

/-- The checks of `MWR.mem`: the range, alignment and every cell as a store; of several faults the lowest code (R114). -/
def State.memCheck (s : State) (f : XE) : Except DataFault (Resv × Nat × Nat × List LaneAcc) :=
  let g := s.cur
  let a := g.v64 0 f.e0.toNat
  let l := (g.v 0 f.e3.toNat).signExtend 64
  let h := g.v 0 f.e1.toNat
  match s.rowCheck h f.e2.toNat with
  | .error d =>
    let z := s.memSize h f.e2.toNat
    .error ((memFault a l z.1 (cellFaults (s.memPlaces a l z.1 z.2.1 z.2.2)) (some d)).getD d)
  | .ok (r, m, n) =>
    let w := (matRec r.record).width
    let cells := s.memPlaces a l w m n
    match memFault a l w (cellFaults cells) none with
    | some d => .error d
    | none => .ok (r, m, n, cells.filterMap fun c => match c.2.2 with
        | .ok p => some { lane := c.1, va := c.2.1, place := p }
        | .error _ => none)

/-- `MWR.mem`. -/
def execMwrMem (f : XE) (s : State) : Out :=
  let fixed := pairRegs f.e0 ++ [f.e1.toNat, f.e3.toNat] ++ range' f.e2.toNat 2
  let chk := s.memCheck f
  let act := s.cur.active s.iss.run f.guard != 0
  let places (t : LaneAcc → Bool) : Bool :=
    match chk with
    | .ok (_, _, _, xs) => xs.any t
    | .error _ => false
  let commit := act && s.cur.hold && places fun x => x.place.kind != 3
  let far := act && places fun x => x.place.kind = 2
  s.runM { guard := f.guard, regs := fixed, reads := fixed, region := commit || (far && s.cur.windowRegion), deliver := commit, after := true }
    (if far && s.lastSerial then some { cause := 0x11, lanes := allLanes, addr := s.cur.v64 0 f.e0.toNat } else faultOf chk) fun s m =>
    match chk with
    | .error _ => none
    | .ok (r, rows, n, xs) =>
      s.present (.mwrMem f) m xs fun s =>
        let ts := xs.map fun x =>
          { kind := x.place.kind, core := x.place.core, pa := x.place.pa, pkg := x.place.pkg, va := x.va, pf := x.place.pf
            stride := x.place.stride, order := x.place.order : Target }
        let issue (u : State) : Option State :=
          let u := u.countPages u.iss.gid (xs.map (·.place))
          (u.issueMat fun v =>
            ({ rangeOp v (.mwrMem rows n ts) r with serial := if far then some v.cur.wserial else none }, [])).map fun t =>
              if far then (advanceIf u t).takeSerial else advanceIf u t
        if 255 ≤ s.cur.outstanding 1 then none
        else (s.opened commit far).bind fun u => if s.holdsPass s.iss.gid then issue u else some (s.requestPass s.iss.gid)

/-- `MZERO`. -/
def execMzero (f : XE) (s : State) : Out :=
  let r := f.e0.toNat
  let chk := s.setRecord s.iss.gid (s.cur.v 0 r)
  s.runM { guard := f.guard, regs := [r], reads := [r], after := true }
    (match chk with
     | .error n => some (handleFault n)
     | .ok _ => none) fun s _ =>
    match chk with
    | .error _ => none
    | .ok x => (s.issueMat fun s => (rangeOp s .mzero x, [])).map (advanceIf s)

end Sys2Proof.Machine
end

