-- ==== Sys2Proof/Machine/TileArith.lean ====
section
/-! DEFINITION. The arithmetic of tiles: FP64 steps with their flags, products and sums, the rounding procedure, the factorisation
and the solves (spec/09_tile_arithmetic.md R189 to R197, R209, R210). Values are FP64 encodings; a matrix is the list of its
columns. -/
namespace Sys2Proof.Machine

/-! ### Steps -/

/-- A computation that raises flags and may stop at a non-finite value (R197). -/
abbrev Calc := OptionT (StateM Flags)

/-- The answer, if it did not stop, and the flags raised. -/
def Calc.result {α : Type} (c : Calc α) (f : Flags) : Option α × Flags := (OptionT.run c) f

def dpOne : Nat := 0x3FF0000000000000
def dpTwo : Nat := 0x4000000000000000
def dpSign : Nat := 0x8000000000000000
/-- 2^50 and 2^-52. -/
def dpBig : Nat := (1023 + 50) * 2 ^ 52
def dpTiny : Nat := (1023 - 52) * 2 ^ 52

def dpNeg (x : Nat) : Nat := x ^^^ dpSign
def dpAbs (x : Nat) : Nat := x % dpSign
def dpZero (x : Nat) : Bool := dpAbs x == 0
def dpFinite (x : Nat) : Bool := dpAbs x < f64.inf
/-- sgn, with sgn(−0) = +1 (R194). -/
def dpMinus (x : Nat) : Bool := dpSign < x
def dpVal (x : Nat) : FVal := fdecode f64 x
/-- Numeric comparison of values that are not NaNs. -/
def dpLt (a b : Nat) : Bool := (fcmpV (dpVal a) (dpVal b)).1
def dpLe (a b : Nat) : Bool := let c := fcmpV (dpVal a) (dpVal b); c.1 || c.2

def rne : Rnd := { code := 0 }

/-- One operation: its flags are kept; under `strict` a non-finite result stops the computation. -/
def dpStep (strict : Bool) (r : Nat × Flags) : Calc Nat := OptionT.mk fun f =>
  (if strict && !dpFinite r.1 then none else some r.1, f ||| r.2)

def dpAdd (st : Bool) (a b : Nat) : Calc Nat := dpStep st (faddV f64 rne (dpVal a) (dpVal b))
def dpSub (st : Bool) (a b : Nat) : Calc Nat := dpStep st (faddV f64 rne (dpVal a) (fnegV (dpVal b)))
def dpMul (st : Bool) (a b : Nat) : Calc Nat := dpStep st (fmulV f64 rne (dpVal a) (dpVal b))
def dpDiv (st : Bool) (a b : Nat) : Calc Nat := dpStep st (fdivV f64 rne (dpVal a) (dpVal b))
def dpSqrt (st : Bool) (a : Nat) : Calc Nat := dpStep st (fsqrtV f64 rne (dpVal a))
def dpFma (st : Bool) (a b c : Nat) : Calc Nat := dpStep st (ffmaV f64 rne (dpVal a) (dpVal b) (dpVal c))

/-- Dot(x, y) from an accumulator, elements ascending (R189). -/
def dotFrom (st : Bool) : Nat → List Nat → List Nat → Calc Nat
  | acc, a :: as, b :: bs => do dotFrom st (← dpFma st a b acc) as bs
  | acc, _, _ => pure acc
def dot (st : Bool) (x y : List Nat) : Calc Nat := dotFrom st 0 x y

/-! ### Matrices as columns -/

abbrev Mat := List (List Nat)

def Mat.at (m : Mat) (i j : Nat) : Nat := (List.getD m j []).getD i 0
def Mat.col (m : Mat) (j : Nat) : List Nat := List.getD m j []
/-- Row `i` over the first `n` columns. -/
def Mat.row (m : Mat) (i : Nat) : List Nat := List.map (fun c => c.getD i 0) m
/-- The matrix of `m` rows and `n` columns, computed column by column. -/
def Mat.make (m n : Nat) (f : Nat → Nat → Calc Nat) : Calc Mat :=
  (List.range n).mapM fun j => (List.range m).mapM fun i => f i j
def Mat.ident (n p : Nat) : Mat := (List.range p).map fun j => (List.range n).map fun i => if i = j then dpOne else 0
def Mat.neg (m : Mat) : Mat := List.map (fun c => c.map dpNeg) m
def Mat.finite (m : Mat) : Bool := List.all m fun c => c.all dpFinite

/-! ### Householder QR (R194) -/

/-- Apply(v, τ, y): `v` and `y` start at the reflector's own row. -/
def reflect (v : List Nat) (tau : Nat) (y : List Nat) : Calc (List Nat) :=
  match v, y with
  | _ :: vs, y0 :: ys => do
    let s ← dotFrom true y0 vs ys
    let t ← dpMul true tau s
    let y0 ← dpSub true y0 t
    let ys ← (vs.zip ys).mapM fun p => dpFma true (dpNeg t) p.1 p.2
    pure (y0 :: ys)
  | _, y => pure y

/-- A reflector applied to rows `j` and below of a column. -/
def reflectAt (j : Nat) (h : Option (List Nat × Nat)) (y : List Nat) : Calc (List Nat) :=
  match h with
  | none => pure y
  | some (v, tau) => do pure (y.take j ++ (← reflect v tau (y.drop j)))

/-- Step `j`: the reflector of column `j`, and the columns after it changed; none for the identity. -/
def qrStep (a j : Nat) (x : Mat) : Calc (Mat × Option (List Nat × Nat)) := do
  let c := (x.col j).drop j
  let nrm ← dot true c c
  let nrm ← dpSqrt true nrm
  if dpZero nrm then pure (x, none)
  else
    let x0 := c.headD 0
    let beta := if dpMinus x0 then nrm else dpNeg nrm
    let d ← dpSub true beta x0
    let tau ← dpDiv true d beta
    let d ← dpSub true x0 beta
    let v ← c.tail.mapM fun y => dpDiv true y d
    let h := some (dpOne :: v, tau)
    let cj := (x.col j).take j ++ [beta] ++ List.replicate (a - j - 1) 0
    let rest ← (List.drop (j + 1) x).mapM (reflectAt j h)
    pure (List.take j x ++ [cj] ++ rest, h)

def qrSteps (a : Nat) : List Nat → Mat → Calc (Mat × List (Option (List Nat × Nat)))
  | [], x => pure (x, [])
  | j :: js, x => do
    let r ← qrStep a j x
    let t ← qrSteps a js r.1
    pure (t.1, r.2 :: t.2)

/-- Q (a × p) and R (p × b) of an a × b matrix. -/
def qr (a b : Nat) (x : Mat) : Calc (Mat × Mat) := do
  let p := min a b
  let (x, hs) ← qrSteps a (List.range p) x
  let q ← (hs.zipIdx.reverse).foldlM (fun (q : Mat) h => q.mapM (reflectAt h.2 h.1)) (Mat.ident a p)
  pure (q, List.map (fun c => c.take p) x)

/-! ### One-sided Jacobi (R195) -/

/-- Pairs j < k below q, cyclic by rows. -/
def pairsBelow (q : Nat) : List (Nat × Nat) :=
  (List.range q).flatMap fun j => ((List.range q).filter (j < ·)).map fun k => (j, k)

/-- The off-diagonal sum of squares. -/
def offDiag (w : Mat) (q : Nat) : Calc Nat :=
  (pairsBelow q).foldlM (fun off p => do
    let g ← dot true (w.col p.1) (w.col p.2)
    dpFma true g g off) 0

/-- Columns `j` and `k` turned by (c, s). -/
def turnPair (c s : Nat) (m : Mat) (j k : Nat) : Calc Mat := do
  let r ← ((m.col j).zip (m.col k)).mapM fun p => do
    let sb ← dpMul true s p.2
    let x ← dpFma true c p.1 (dpNeg sb)
    let cb ← dpMul true c p.2
    let y ← dpFma true s p.1 cb
    pure (x, y)
  pure ((List.set m j (r.map (·.1))).set k (r.map (·.2)))

/-- One rotation of a sweep. -/
def rotate (wg : Mat × Mat) (p : Nat × Nat) : Calc (Mat × Mat) := do
  let wj := wg.1.col p.1
  let wk := wg.1.col p.2
  let al ← dot true wj wj
  let be ← dot true wk wk
  let ga ← dot true wj wk
  if dpZero ga then pure wg
  else
    let d ← dpSub true be al
    let g2 ← dpMul true dpTwo ga
    let z ← dpDiv true d g2
    let t ←
      if dpLt dpBig (dpAbs z) then do
        let z2 ← dpMul true dpTwo z
        dpDiv true dpOne z2
      else do
        let r ← dpFma true z z dpOne
        let r ← dpSqrt true r
        let r ← dpAdd true (dpAbs z) r
        dpDiv true (if dpMinus z then dpNeg dpOne else dpOne) r
    let r ← dpFma true t t dpOne
    let r ← dpSqrt true r
    let c ← dpDiv true dpOne r
    let s ← dpMul true c t
    let w ← turnPair c s wg.1 p.1 p.2
    let g ← turnPair c s wg.2 p.1 p.2
    pure (w, g)

/-- At most `fuel` sweeps, each after its test. -/
def sweeps (q frob : Nat) : Nat → Mat × Mat → Calc (Mat × Mat)
  | 0, wg => pure wg
  | fuel + 1, wg => do
    let off ← offDiag wg.1 q
    if dpZero frob then pure wg
    else
      let r ← dpSqrt true off
      let lim ← dpMul true dpTiny frob
      if dpLt r lim then pure wg
      else
        let wg ← (pairsBelow q).foldlM rotate wg
        sweeps q frob fuel wg

/-! ### Truncation and rebuilding (R196, R197) -/

/-- Insertion into a descending list, after its equals. -/
def insertDesc (x : Nat × Nat) : List (Nat × Nat) → List (Nat × Nat)
  | [] => [x]
  | y :: t => if dpLt y.1 x.1 then x :: y :: t else y :: insertDesc x t

/-- The stable descending order of the singular values, with their indexes. -/
def sortDesc (l : List (Nat × Nat)) : List (Nat × Nat) := l.foldl (fun acc x => insertDesc x acc) []

/-- The rank: singular values from the smallest upward, given in that order with their positions. -/
def truncate (lim : Nat) : List (Nat × Nat) → Nat → Nat → Calc Nat
  | [], _, r => pure r
  | (sv, i) :: rest, tail, r => do
    let tail ← dpFma true sv sv tail
    let x ← dpSqrt true tail
    if dpLe x lim then truncate lim rest tail i else pure r

/-- Round-rank of R194 to R197: `u` is m × r', `v` is n × r'; `eye` takes Q_V = R_V = I (R208). The rank and the rebuilt
factors. -/
def roundRank (m n r' : Nat) (u v : Mat) (tau : Nat) (absolute eye : Bool) : Calc (Nat × Mat × Mat) := do
  if !(u.finite && v.finite) then failure
  let (qu, ru) ← qr m r' u
  let (qv, rv) ← if eye then pure (Mat.ident n n, Mat.ident n n) else qr n r' v
  let p := min m r'
  let q := if eye then n else min n r'
  let w ← Mat.make p q fun i j => dot true (ru.row i) (rv.row j)
  let frob ← (w.flatMap id).foldlM (fun acc x => dpFma true x x acc) 0
  let (w, g) ← sweeps q frob 12 (w, Mat.ident q q)
  let sig ← w.mapM fun c => do
    let x ← dot true c c
    dpSqrt true x
  let us ← (w.zip sig).mapM fun x => if dpZero x.2 then pure (x.1.map fun _ => 0) else x.1.mapM fun y => dpDiv true y x.2
  let order := sortDesc sig.zipIdx
  let up := order.reverse
  let n2 ← up.foldlM (fun acc x => dpFma true x.1 x.1 acc) 0
  let lim ← if absolute then pure tau else do
    let x ← dpSqrt true n2
    dpMul true tau x
  let r ← truncate lim ((order.map (·.1)).zipIdx.reverse) 0 q
  let keep := order.take r
  let fu ← keep.mapM fun x => do
    let y ← (List.getD us x.2 []).mapM fun e => dpMul true x.1 e
    (List.range m).mapM fun i => dot true (qu.row i) y
  let fv ← keep.mapM fun x => (List.range n).mapM fun j => dot true (qv.row j) (g.col x.2)
  pure (r, fu, fv)

/-- U·Vᵀ, element by element (R187). -/
def expand (m n : Nat) (u v : Mat) : Calc Mat := Mat.make m n fun i j => dot false (u.row i) (v.row j)

/-! ### Factorisation and solves (R209, R210) -/

def Mat.put (m : Mat) (i j x : Nat) : Mat := List.set m j ((m.col j).set i x)

/-- LU in place, without pivoting. -/
def luTile (n : Nat) (a : Mat) : Calc Mat :=
  (List.range n).foldlM (fun (a : Mat) k => do
    let below := (List.range n).filter (k < ·)
    let a ← below.foldlM (fun (a : Mat) i => do
      let x ← dpDiv false (a.at i k) (a.at k k)
      pure (a.put i k x)) a
    below.foldlM (fun (a : Mat) j =>
      below.foldlM (fun (a : Mat) i => do
        let x ← dpFma false (dpNeg (a.at i k)) (a.at k j) (a.at i j)
        pure (a.put i j x)) a) a) a

/-- One solve of order `t`: `right` reads T transposed, `upper` divides by its diagonal. Left unit and right upper ascend. -/
def solveOne (t : Nat) (tm : Mat) (right upper : Bool) (x : List Nat) : Calc (List Nat) :=
  let up := right == upper
  let rows := if up then List.range t else (List.range t).reverse
  rows.foldlM (fun (x : List Nat) i => do
    let ks := (List.range t).filter fun k => if up then k < i else i < k
    let y ← ks.foldlM (fun y k => dpFma false (dpNeg (if right then tm.at k i else tm.at i k)) (x.getD k 0) y) (x.getD i 0)
    let y ← if upper then dpDiv false y (tm.at i i) else pure y
    pure (x.set i y)) x

/-- For the right forms the product's operands stand the other way round, which changes no bit. -/
def solveCols (t : Nat) (tm : Mat) (right upper : Bool) (m : Mat) : Calc Mat := m.mapM (solveOne t tm right upper)

/-- A matrix of `m` rows transposed. -/
def Mat.trans (a : Mat) (m : Nat) : Mat := (List.range m).map fun i => a.row i

end Sys2Proof.Machine
end

