-- ==== Sys2Proof/Machine/System.lean ====
section
/-! DEFINITION. X group 0x38: launches from kernels, special state, firmware services, the return from a trap
(spec/17_isa_tiles_updates_system.md R383 to R388, spec/05_cores_and_execution.md R118). -/
namespace Sys2Proof.Machine

/-- A request whose one record is lane J's and whose reply fills a register of every active lane (R384, R381). -/
def State.sendLead (s : State) (op : OwnerOp) (ord : BitVec 2) (wm : Bool) (dst : Option Nat) (m : Lanes) (owner : Option Nat)
    (r : ReqLane) : State :=
  let g := s.cur
  let serial := if wm then g.wserial else BitVec.ofNat 32 g.nextOp
  let s := s.setCur (if wm then { g with wserial := g.wserial + 1 } else { g with nextOp := g.nextOp + 1 })
  let o := match owner with
    | some k => (s.image.pkgnum, k)
    | none => s.laneOwner r.place
  let t := s.sendOne op (operWord op 5 ord) wm serial (match dst with
    | some d => [d]
    | none => []) o.1 o.2 [r]
  let g := t.cur.claim (match dst with
    | some d => [(d, m)]
    | none => [])
  t.setCur { g with
    outs := g.outs.map fun x => if x.serial = serial && x.watermarked = wm && !x.restored then { x with lanes := m } else x
    late := g.late.map fun x =>
      if x.serial = serial && x.owner = some (replyKey o.1 o.2 wm) then { x with regs := x.regs.map fun p => (p.1, m) } else x }

/-- The word of an instruction, for TINFO2 (R271). -/
def instrWord (i : Instr) : Dword := BitVec.ofNat 64 (((encode i).map (·.2)).getD 0)

/-- The fault of a watermarked instance at the last serial of a deterministic launch (R218), at the address that lane J names. -/
def State.serialFault (s : State) (m : Lanes) (a : Dword) : Option DataFault :=
  if m != 0 && s.lastSerial then some { cause := 0x11, lanes := m, addr := a } else none

/-- The launch unit that a `LAUNCH` asks: that of the core's die, or the one that its serial has asked before, which holds the first result
(R384). (DEDUCED: assumption 85.) -/
def State.unitOf (s : State) (serial : Word) : Nat :=
  match s.cur.units.find? fun u => u.1 = serial with
  | some u => u.2
  | none => 64 + coreDie (slotCore s.cur.slot)

/-- A `LAUNCH` has asked a unit; those acknowledged are forgotten. -/
def Group.asked (g : Group) (serial : Word) (unit : Nat) : Group :=
  { g with units := (g.units.filter fun u => u.1 != serial && !later g.ackpt u.1) ++ [(serial, unit)] }

/-- `LAUNCH`: refused at once outside class 0, otherwise a watermarked request to the launch unit of the core's die. -/
def execLaunch (f : XE) (s : State) : Out :=
  let d := f.e0.toNat
  let act := s.cur.active s.iss.run f.guard
  let va (m : Lanes) : Dword := s.cur.v64 (lead m) f.e1.toNat
  let near := act != 0 && s.classOf s.iss.gid (va act) = 0
  .next (s.runX { guard := f.guard, regs := d :: pairRegs f.e1, reads := pairRegs f.e1, region := near && s.cur.windowRegion, mem := true, issues := near }
    (fun m => if near then s.serialFault m (va m) else none) fun s m =>
    if m = 0 then some s.advance
    else if !near then some (s.setCur (s.cur.setReg d m fun _ => 1)).advance
    else if 255 ≤ s.cur.rem.length then none
    else
      s.openWindow.map fun s =>
        let a := va m
        let serial := s.cur.wserial
        let unit := s.unitOf serial
        let s := s.sendLead (.launch (s.launchOf s.iss.gid).ctx a) 0 true (some d) m (some unit)
          { lane := lead m, place := { kind := 0, pa := a.toNat % 2 ^ 48 }, va := a }
        (s.setCur ((s.cur.addRem serial).asked serial unit)).advance)

/-- A special state's value (R385). -/
def State.special' (s : State) (n : Nat) : Dword :=
  let g := s.cur
  let l := s.launchOf s.iss.gid
  match n with
  | 0x00 => BitVec.ofNat 64 g.trap.cause
  | 0x01 => g.trap.pc
  | 0x02 => g.trap.addr
  | 0x03 => g.trap.lanes.setWidth 64
  | 0x04 => g.trap.info
  | 0x05 => g.fpflags.setWidth 64
  | 0x06 => g.wserial.setWidth 64
  | 0x07 => (keyHandle (groupTeam s.iss.gid)).setWidth 64
  | 0x08 => s.capVa
  | 0x09 => (s.die (coreDie (slotCore g.slot))).cycles
  | _ => if l.determ then 1 else 0

/-- `RDSR`; `FPFLAGS` waits for every older instruction whose result has not landed (R169). -/
def execRdsr (f : XE) (s : State) : Out :=
  let d := f.e0.toNat
  let n := f.e1.toNat
  let wide := Shape.stateWidth n == some 64
  .next (s.runX { guard := f.guard, regs := range' d (if wide then 2 else 1), drain := n = 5 } noFault fun s m =>
    let x := s.special' n
    some (s.setCur (if wide then s.cur.setReg64 d m fun _ => x else s.cur.setReg d m fun _ => x.setWidth 32)).advance)

/-- `WRSR`: only `FPFLAGS` can be written, after every older result has landed. -/
def execWrsr (f : XE) (s : State) : Out :=
  let r := f.e1.toNat
  .next (s.runX { guard := f.guard, regs := [r], reads := [r], priv := f.e0 != 5, drain := true } noFault fun s m =>
    some (
      if m = 0 then s.advance
      else (s.setCur { s.cur with fpflags := writeFlags (s.cur.v (lead m) r) }).advance))

/-- A service of the capability list (R71, R387). -/
def State.hasService (s : State) (id : BitVec 16) : Bool :=
  0x8000 ≤ id.toNat && id.toNat ≤ 0xFFFE && s.caps.any fun c => c.id = id

/-- The group in hand posts a request, which names an address, to a service's mailbox. -/
def State.post (s : State) (service : BitVec 16) (addr : Dword) : State :=
  let gid := s.iss.gid
  { s with mailbox := s.mailbox ++
      [{ service, ctx := (s.launchOf gid).ctx, gid, pc := s.iss.pc, wserial := s.cur.wserial, addr, posted := s.fresh }] }

/-- `SVC`: an absent service answers at once; otherwise the group posts a request, a release at `.node`, and parks for the reply. -/
def execSvc (f : XE) (s : State) : Out :=
  let d := f.e0.toNat
  let reads := pairRegs f.e1 ++ [f.e2.toNat]
  let service (m : Lanes) : BitVec 16 := (s.cur.v (lead m) f.e2.toNat).setWidth 16
  let act := s.cur.active s.iss.run f.guard
  let posts := act != 0 && s.hasService (service act)
  .next (s.runX { guard := f.guard, regs := pairRegs f.e0 ++ reads, reads, mem := posts, rel := posts } noFault fun s m =>
    if m = 0 then some s.advance
    else if posts then some ((s.post (service m) (s.cur.v64 (lead m) f.e1.toNat)).park (.svc f) m)
    else some (s.setCur (s.cur.setReg64 d m fun _ => 0xFFFFFFFFFFFFFFFF)).advance)

/-- `TRET` (R118, R388). -/
def execTret (f : XE) (s : State) : Out :=
  let g := s.cur
  .next (s.afterPre (s.pre { priv := g.handler.isNone }) fun _ =>
    match g.handler with
    | none => s
    | some h =>
      if s.iss.run != h.entered &&& ~~~g.exited then s.takeTrap 0x03 s.iss.run 0 0
      else ((s.setCur (g.trapReturn h (f.flags == 1))).setCache [] []).markIssued)

end Sys2Proof.Machine
end

