-- ==== Sys2Proof/Machine/Updates.lean ====
section
/-! DEFINITION. X group 0x34: optimiser updates and counted lines, at the requester (spec/17_isa_tiles_updates_system.md R376
to R382). -/
namespace Sys2Proof.Machine

/-! ### `OSGD` and `OADAM` (R377, R378) -/

/-- The parameter record of 64 bytes. -/
def optParams (bs : List Byte) : OptParams :=
  let d (o : Nat) : Dword := BitVec.ofNat 64 (leVal ((bs.drop o).take 8))
  let w (o : Nat) : Word := BitVec.ofNat 32 (leVal ((bs.drop o).take 4))
  { eta := d 0, lambda := d 8, beta1 := d 0x10, beta2 := d 0x18, eps := d 0x20, c1 := d 0x28, c2 := d 0x30,
    seed := w 0x3C, step := w 0x38 }

/-- The faults of the parameter record, for lane J: those of an 8-byte load of each of its words (R377). -/
def State.paramFaults (s : State) (l : Nat) (a : Dword) : List (Nat × Dword) :=
  (List.range 8).filterMap fun i =>
    let x := a + BitVec.ofNat 64 (8 * i)
    match s.resolve s.iss.gid l x 8 8 false with
    | .error c => some (c, x)
    | .ok _ => none

/-- An optimiser update. -/
def State.optUpdate (s : State) (i : Instr) (adam : Bool) (f : XE) : Out :=
  let wide := f.flags == 1
  let gr := range' f.e1.toNat (if wide then 2 else 1)
  let g := s.cur
  let act := g.active s.iss.run f.guard
  let res := s.planeRes f.e0 0 (optPlanes adam wide) 2 2 true
  let par (m : Lanes) : Dword := g.v64 (lead m) f.e2.toNat
  let regs := pairRegs f.e0 ++ gr ++ pairRegs f.e2
  .next (s.runX { guard := f.guard, regs, reads := regs, region := act != 0 && g.windowRegion, mem := true, issues := true }
    (fun m => laneFaults m fun l =>
      lowestFault ((if l = lead m then s.paramFaults l (par m) else []) ++
        match res l with
        | (a, .error c) => [(c, a)]
        | (a, .ok _) => if s.lastSerial then [(0x11, a)] else [])) fun s m =>
    if m = 0 then some s.advance
    else if s.clash (fun _ => true) 2 (lanePlaces m res) then none
    else if 255 ≤ s.cur.rem.length || s.cur.window == .outstanding then none
    else
      s.tableLoad i (lead m) (par m) 64 fun s bs =>
        s.openWindow.map fun s =>
          let xs := lanePlaces m res
          let s := s.countPages s.iss.gid (xs.map (·.place)) ((s.blockAccs (lead m) (par m) 64).map (·.place))
          let serial := s.cur.wserial
          let s := s.sendAll (.opt adam wide (f.e4.setWidth 3) 0 (optParams bs)) 5 0 true []
            (xs.map fun x => { lane := x.lane, place := x.place, va := x.va
                               data := g.words x.lane gr ++ valWords 3 (x.place.stride + x.va.toNat * 2 ^ 32) })
          (s.setCur (s.cur.addRem serial)).advance)

def execOsgd (f : XE) (s : State) : Out := s.optUpdate (.osgd f) false f
def execOadam (f : XE) (s : State) : Out := s.optUpdate (.oadam f) true f

/-! ### Counted lines (R380 to R382) -/

/-- The fields of a counted-line word. -/
def lineSlots (w : Word) : Nat := w.toNat % 16 + 1
def lineType (w : Word) : Nat := w.toNat / 2 ^ 4 % 16
def lineOp (w : Word) : Nat := w.toNat / 2 ^ 8 % 16
def lineElems (w : Word) : Nat := w.toNat / 2 ^ 16 % 64 + 1
def lineWide (w : Word) : Bool := lineType w % 2 == 1
def lineFp (w : Word) : Bool := lineType w == 4 || lineType w == 5

/-- A word that breaks R381. -/
def lineBad (w : Word) : Bool :=
  w.toNat / 2 ^ 22 != 0 || w.toNat / 2 ^ 12 % 16 != 0 || 5 < lineOp w || 5 < lineType w || (3 ≤ lineOp w && lineFp w)
    || 240 < lineElems w * (if lineWide w then 8 else 4)

/-- The access to a counted line: an 8-byte store's faults, a 256-byte aligned global address, no plane form. (DEDUCED: assumption 31.) -/
def State.lineRes (s : State) (addr : BitVec 8) : Resolver := fun l =>
  let a := s.xmAddr s.iss.gid l addr 0
  (a,
    match s.classOf s.iss.gid a with
    | 0 | 1 =>
      match s.resolve s.iss.gid l a 8 256 true with
      | .error c => .error c
      | .ok p => if p.pf then .error 0x0B else .ok p
    | 3 => .error 0x08
    | _ => .error 0x07)

/-- The fault of lane J's access. -/
def leadFault (m : Lanes) (r : Resolver) : Option DataFault := resFaults (BitVec.ofNat 32 (2 ^ lead m)) r

/-- The group's remote `CLINE` has an unknown outcome: as a load's it stands for register E3 of the active lanes, and a reader of that register
delivers it (R381, R42). -/
def Group.lineUnknown (g : Group) (r : Nat) (m : Lanes) : Group :=
  let hidden (u : Unknown) : Bool := u.regs.any fun p => p.1 = hiddenReg 0
  let h := g.claim [(r, m)]
  { h with
    late := h.late.filter fun x => !x.isHidden
    unknowns := h.unknowns.map fun u => if hidden u then { u with regs := [(r, m)] } else u }

/-- `CLINE`: it travels as a load, the group waits for the reply, and the status goes to E3 of every active lane. (DEDUCED:
assumption 32.) -/
def execCline (f : XE) (s : State) : Out :=
  let fixed := pairRegs f.e0 ++ [f.e1.toNat, f.e2.toNat]
  let g := s.cur
  let word (m : Lanes) : Word := g.v (lead m) f.e1.toNat
  let res := s.lineRes f.e0
  let act := g.active s.iss.run f.guard
  let badCode := act != 0 && f.e4 != 0 && !(lineOp (word act) = 0 && lineFp (word act))
  .next (s.runX { guard := f.guard, regs := f.e3.toNat :: fixed, reads := fixed, mem := true
                  keys := guardRegs f.guard ++ [f.e1.toNat], reserved := if badCode then some (instrWord (.cline f)) else none }
    (fun m =>
      if m = 0 then none
      else
        let bad := if lineBad (word m) then some ({ cause := 0x0D, lanes := BitVec.ofNat 32 (2 ^ lead m), info := 12 } : DataFault) else none
        match leadFault m res with
        | some d => if 0x0D < d.cause then bad.orElse fun _ => some d else some d
        | none => bad)
    fun s m =>
      if m = 0 then some s.advance
      else
        if s.cur.unknowns.any fun u => u.regs.any fun p => p.1 = hiddenReg 0 then
          some (s.setCur (s.cur.lineUnknown f.e3.toNat m)).advance
        else
          match s.cur.late.find? Late.isHidden with
          | some x =>
            if x.ready then
              let v := ((x.rows.head?).map fun r => laneAt r.2 (lead m)).getD 0
              some (s.setCur (s.cur.dropHidden.setReg f.e3.toNat m fun _ => v)).advance
            else some (s.park (.cline f) m)
          | none =>
            match lanePlaces (BitVec.ofNat 32 (2 ^ lead m)) res with
            | [] => none
            | x :: _ =>
              if s.clash (fun _ => false) 256 [x] then none
              else
                let s := s.countPages s.iss.gid [x.place]
                some ((s.sendLead (.cline (word m) (g.v (lead m) f.e2.toNat) (f.e4.setWidth 3)) 0 false (some (hiddenReg 0)) m none
                  { lane := x.lane, place := x.place, va := x.va }).park (.cline f) m))

/-- The 64 words of a contribution: registers E2 of every lane, then E2 + 1; zero for a lane that is not active. -/
def lineVector (g : Group) (m : Lanes) (r : Nat) : List Word :=
  (List.range 64).map fun i => if m.getLsbD (i % 32) then g.v (i % 32) (r + i / 32) else 0

/-- `CCON`. -/
def execCcon (f : XE) (s : State) : Out :=
  let va (m : Lanes) : Dword := s.cur.v64 (lead m) f.e0.toNat
  let regs := pairRegs f.e0 ++ [f.e1.toNat] ++ pairRegs f.e2
  let g := s.cur
  let act := g.active s.iss.run f.guard
  let res := s.lineRes f.e0
  .next (s.runX { guard := f.guard, regs, reads := regs, region := act != 0 && g.windowRegion, mem := true, issues := true }
    (fun m =>
      if m = 0 then none
      else
        match leadFault m res with
        | some d => if 0x11 < d.cause then (s.serialFault m (va m)).orElse fun _ => some d else some d
        | none => s.serialFault m (va m)) fun s m =>
    if m = 0 then some s.advance
    else if 255 ≤ s.cur.rem.length then none
    else
      match lanePlaces (BitVec.ofNat 32 (2 ^ lead m)) res with
      | [] => none
      | x :: _ =>
        if s.clash (fun _ => true) 256 [x] then none
        else s.openWindow.map fun s =>
          let s := s.countPages s.iss.gid [x.place]
          let serial := s.cur.wserial
          let s := s.sendLead (.ccon (g.v (lead m) f.e1.toNat).toNat) 0 true none m none
            { lane := x.lane, place := x.place, va := x.va, data := lineVector g m f.e2.toNat }
          (s.setCur (s.cur.addRem serial)).advance)

end Sys2Proof.Machine
end

