-- ==== Sys2Proof/Machine/Deckle.lean ====
section
/-! DEFINITION. Deckles, their checks, the tile pools (spec/09_tile_arithmetic.md R185 to R188, R193, R198, R204, R205). -/
namespace Sys2Proof.Machine

/-! ### The deckle (R185 to R187) -/

/-- A deckle's four words. -/
structure Deckle where
  w0 : Nat
  a0 : Nat
  a1 : Nat
  w3 : Nat
  deriving DecidableEq, Repr

def deckleOf (bs : List Byte) : Deckle :=
  let w (i : Nat) : Nat := leVal ((bs.drop (8 * i)).take 8)
  { w0 := w 0, a0 := w 1, a1 := w 2, w3 := w 3 }
def Deckle.bytes (d : Deckle) : List Byte := leBytes 8 d.w0 ++ leBytes 8 d.a0 ++ leBytes 8 d.a1 ++ leBytes 8 d.w3

def Deckle.kind (d : Deckle) : Nat := d.w0 / 2 ^ 62
def Deckle.fmt (d : Deckle) : Nat := d.w0 / 2 ^ 60 % 4
def Deckle.planes (d : Deckle) : Nat := d.w0 / 2 ^ 58 % 4
def Deckle.absolute (d : Deckle) : Bool := d.w0 / 2 ^ 57 % 2 == 1
def Deckle.m (d : Deckle) : Nat := d.w0 / 2 ^ 48 % 2 ^ 8 + 1
def Deckle.n (d : Deckle) : Nat := d.w0 / 2 ^ 40 % 2 ^ 8 + 1
def Deckle.rank (d : Deckle) : Nat := d.w0 / 2 ^ 33 % 2 ^ 7
def Deckle.cap (d : Deckle) : Nat := d.w0 / 2 ^ 26 % 2 ^ 7
def Deckle.tol (d : Deckle) : Nat := d.w0 % 2 ^ 16
/-- Address, POOL bit and class of block 0 or 1. -/
def Deckle.addr (d : Deckle) (b : Nat) : Nat := (if b = 0 then d.a0 else d.a1) % 2 ^ 56
def Deckle.pooled (d : Deckle) (b : Nat) : Bool := d.w3 / 2 ^ (63 - b) % 2 == 1
def Deckle.cls (d : Deckle) (b : Nat) : Nat := d.w3 / 2 ^ (52 - 4 * b) % 16

/-- Element bytes of a format; the pool that serves it. -/
def tileWidth (fmt : Nat) : Nat := if fmt = 0 then 8 else if fmt = 1 then 4 else 2
def tilePool (fmt : Nat) : Nat := if fmt = 2 then 1 else 0

/-- The tolerance as FP64 bits (R186). -/
def tolerance (tol : Nat) : Nat := if tol = 0 then 0 else (1023 + tol / 2 ^ 10 - 56) * 2 ^ 52 + tol % 2 ^ 10 * 2 ^ 42

/-- Bytes that a kind needs in a block, if it needs the block (R187). -/
def tileNeed (kind fmt m n cap b : Nat) : Option Nat :=
  match kind, b with
  | 1, 0 => some (m * n * tileWidth fmt)
  | 2, 0 => some (m * cap * tileWidth fmt)
  | 2, 1 => some (n * cap * tileWidth fmt)
  | _, _ => none

def clsBytes (k : Nat) : Nat := 256 * 2 ^ k
/-- The smallest class that holds `b` bytes (R205). -/
def clsFor (b : Nat) : Nat := ((List.range 16).find? fun k => b ≤ clsBytes k).getD 15

/-- The crossover (R193). -/
def crossover (m n : Nat) : Nat := min (m * n / (m + n)) 64

/-- The capacity of R198, with fuel. -/
def doubleUntil (r : Nat) : Nat → Nat → Nat
  | 0, c => c
  | fuel + 1, c => if c < r then doubleUntil r fuel (2 * c) else c
def growCap (cap r chi : Nat) : Nat := min (doubleUntil r 8 (max cap 1)) chi

/-! ### Tile pools (R204, R205) -/

def Team.pool (t : Team) (p : Nat) : List Extent := t.pools.getD p []
def Team.setPool (t : Team) (p : Nat) (xs : List Extent) : Team :=
  { t with pools := [if p = 0 then xs else t.pool 0, if p = 1 then xs else t.pool 1] }

def Extent.bytes (x : Extent) : Nat := x.units * clsBytes x.top
def Extent.holds (x : Extent) (a : Nat) : Bool := x.base.toNat ≤ a && a < x.base.toNat + x.bytes

/-- The block of a class at an address is allocated in a pool. -/
def blockUsed (xs : List Extent) (a k : Nat) : Bool := xs.any fun x => x.used.contains (k, a)

/-- The smallest class from `k` to the top that has a free block, and its lowest-addressed one. -/
def Extent.freeFor (x : Extent) (k : Nat) : Option (Nat × Nat) :=
  ((List.range 12).filter fun c => k ≤ c && c ≤ x.top).findSome? fun c =>
    ((x.free.filter fun b => b.1 = c).map (·.2)).foldl
      (fun best a => some (c, match best with | some b => min b.2 a | none => a)) none

/-- Halves of a block down to class `k`: the upper halves become free. -/
def splitTo (k : Nat) : Nat → Nat → List (Nat × Nat)
  | 0, _ => []
  | c + 1, a => if k < c + 1 then (c, a + clsBytes c) :: splitTo k c a else []

def Extent.take (x : Extent) (c a k : Nat) : Extent :=
  { x with free := x.free.erase (c, a) ++ splitTo k c a, used := x.used ++ [(k, a)] }

/-- Alloc (R205): extents in the order of their addition. -/
def poolTake : List Extent → Nat → Option (List Extent × Nat)
  | [], _ => none
  | x :: rest, k =>
    match x.freeFor k with
    | some (c, a) => some (x.take c a k :: rest, a)
    | none => (poolTake rest k).map fun r => (x :: r.1, r.2)

/-- Buddies merge upward, with fuel. -/
def mergeUp (x : Extent) : Nat → Nat → Nat → Extent
  | 0, k, a => { x with free := x.free ++ [(k, a)] }
  | fuel + 1, k, a =>
    let o := a - x.base.toNat
    let buddy := x.base.toNat + (if o / clsBytes k % 2 = 0 then o + clsBytes k else o - clsBytes k)
    if k < x.top && x.free.contains (k, buddy) then
      mergeUp { x with free := x.free.erase (k, buddy) } fuel (k + 1) (min a buddy)
    else { x with free := x.free ++ [(k, a)] }

/-- Free (R205). -/
def poolGive (xs : List Extent) (b : Nat × Nat) : List Extent :=
  xs.map fun x => if x.used.contains b then mergeUp { x with used := x.used.erase b } 12 b.1 b.2 else x

/-- Freeing both blocks of a deckle frees one twice (R205). -/
def Deckle.freesTwice (d : Deckle) : Bool := d.pooled 0 && d.pooled 1 && d.addr 0 = d.addr 1 && d.cls 0 = d.cls 1

/-! ### Checks (R188) -/

/-- A block that the kind needs fails R188. In the global window are the bytes that it needs. (DEDUCED: assumption 97.) -/
def Deckle.blockBad (d : Deckle) (b : Nat) : Bool :=
  match tileNeed d.kind d.fmt d.m d.n d.cap b with
  | none => false
  | some bytes =>
    12 ≤ d.cls b || clsBytes (d.cls b) < bytes || d.addr b % tileWidth d.fmt != 0 || 2 ^ 56 < d.addr b + bytes

/-- The first condition of R188 that fails, from 1 to 6; 0 for none (R374). -/
def Deckle.reason (d : Deckle) (t : Team) : Nat :=
  let xs := t.pool (tilePool d.fmt)
  if d.kind = 3 || d.fmt = 3 || (d.planes != 0 && d.fmt < 2) then 1
  else if d.w0 / 2 ^ 56 % 2 != 0 || d.w0 / 2 ^ 16 % 2 ^ 10 != 0 then 2
  else if min (min d.m d.n) 64 < d.cap || d.cap < d.rank then 3
  else if (d.kind = 0 && d.rank != 0) || (d.kind = 1 && (d.rank != 0 || d.cap != 0)) || (d.kind = 2 && d.rank = 0) then 4
  else if d.blockBad 0 || d.blockBad 1 then 5
  else if (d.pooled 0 && !blockUsed xs (d.addr 0) (d.cls 0)) || (d.pooled 1 && !blockUsed xs (d.addr 1) (d.cls 1)) then 6
  else 0

/-! ### Pages (R213, R132) -/

def tilePage (p : Place) (va : Nat) : TilePage :=
  { page := va / 4096, kind := p.kind, pa := p.pa / 4096 * 4096, pkg := p.pkg, stride := p.stride, pf := p.pf, order := p.order }

/-- The page numbers of a range. -/
def pageList (a n : Nat) : List Nat := range' (a / 4096) ((a % 4096 + n + 4095) / 4096)

/-- One page of a range, from address `va`: a fault, or the page. With `planes`, PF must hold and the planes of the page's bytes
stay in their range (R133): all four, also of a block that is read with fewer. (DEDUCED: assumption 98.) -/
def State.tileXlate (s : State) (gid va last : Nat) (write planes : Bool) : Except (Nat × Dword) TilePage :=
  let v : Dword := BitVec.ofNat 64 va
  match s.coreAccess gid v write 0 with
  | .error c => .error (c, v)
  | .ok p => if planes && !(p.pf && s.planesFit p.pa (p.pa + (last - va) + 3 * p.stride)) then .error (0x0B, v) else .ok (tilePage p va)

/-- The answers of several tests: every value, or the fault with the lowest code, the first of equals (R114). -/
def gather {α : Type} (l : List (Except (Nat × Dword) α)) : Except (Nat × Dword) (List α) :=
  match lowestFault (l.filterMap fun x => match x with
    | .error e => some e
    | .ok _ => none) with
  | some e => .error e
  | none => .ok (l.filterMap fun x => match x with
    | .error _ => none
    | .ok v => some v)

/-- The pages of a range, or its fault. -/
def State.tileRange (s : State) (gid a n : Nat) (write planes : Bool) : Except (Nat × Dword) (List TilePage) :=
  gather ((pageList a n).map fun pg => s.tileXlate gid (max a (pg * 4096)) (min (a + n) ((pg + 1) * 4096) - 1) write planes)

/-- Blocks of a deckle: those that its kind needs, and those that it keeps. -/
def Deckle.blocks (d : Deckle) : List (Nat × Nat) :=
  ([0, 1].filter fun b => (tileNeed d.kind d.fmt d.m d.n d.cap b).isSome || d.cls b < 12).map fun b =>
    (d.addr b, clsBytes (d.cls b))

/-- The pages of a deckle's blocks (R213). -/
def State.deckPages (s : State) (gid : Nat) (d : Deckle) (write : Bool) : Except (Nat × Dword) (List TilePage) :=
  (gather (d.blocks.map fun b => s.tileRange gid b.1 b.2 write (d.fmt = 2))).map List.flatten

/-- An operand's deckle address: its fault, or its page; `other` is the cause outside class 0. -/
def State.deckAddr (s : State) (gid : Nat) (a : Dword) (write : Bool) (other : Nat) : Except (Nat × Dword) TilePage :=
  if a.toNat % 32 != 0 then .error (0x06, a)
  else if a.toNat / 2 ^ 56 != 0 then .error (other, a)
  else s.tileXlate gid a.toNat (a.toNat + 31) write false

end Sys2Proof.Machine
end

