-- ==== Sys2Proof/Machine/TileOps.lean ====
section
/-! DEFINITION. What a tile operation computes: values of operands, products, sums, settling, and the block allocation of a
result (spec/09_tile_arithmetic.md R189 to R193, R198, R206 to R210, R212). -/
namespace Sys2Proof.Machine

/-! ### Values -/

/-- The value of a tile: its kind, rank, dense elements, factors. -/
structure TileVal where
  kind : Nat
  rank : Nat
  d : Mat
  u : Mat
  v : Mat

/-- What an operation makes of its destination: nothing, or a kind with rank and capacity, the data of each block to write,
whether the deckle is written, whether the blocks are dropped (`TZERO.free`), and the run of the rounding procedure: its
factors and its rank, when it reported one. -/
structure TileRes where
  keep : Bool := false
  kind : Nat := 0
  rank : Nat := 0
  cap : Nat := 0
  b0 : Option Mat := none
  b1 : Option Mat := none
  deck : Bool := true
  drop : Bool := false
  samp : Option (Mat × Mat × Option Nat) := none

/-- A computation's answer where it stopped or not, and its flags kept. -/
def Calc.attempt {α : Type} (c : Calc α) : Calc (Option α) := OptionT.mk fun f =>
  let r := c.result f
  (some r.1, r.2)

/-- R193, for a destination `t`; `orig` holds the dense elements of a `TCOMP` (R208). -/
def settleTile (t : Deckle) (u v : Mat) (r' : Nat) (rnd : Bool) (orig : Option Mat) : Calc TileRes := do
  let chi := crossover t.m t.n
  let capFor (r : Nat) : Nat := if t.cap < r then growCap t.cap r chi else t.cap
  if r' = 0 then pure { keep := true, kind := 0, cap := t.cap }
  else if rnd || chi < r' then
    let x ← Calc.attempt (roundRank t.m t.n r' u v (tolerance t.tol) t.absolute orig.isSome)
    let samp := some (u, v, x.map (·.1))
    let dense : Calc TileRes :=
      match orig with
      | some d => pure { keep := true, kind := 1, b0 := some d, samp }
      | none => do
        let d ← expand t.m t.n u v
        pure { kind := 1, b0 := some d, samp }
    match x with
    | none => dense
    | some (r, fu, fv) =>
      if chi < r then dense
      else if r = 0 then pure { kind := 0, cap := t.cap, samp }
      else pure { kind := 2, rank := r, cap := capFor r, b0 := some fu, b1 := some fv, samp }
  else pure { kind := 2, rank := r', cap := capFor r', b0 := some u, b1 := some v }

/-- The product of R190; a dense one keeps its operands unexpanded. -/
inductive Product where
  | zero
  | dense (a : Mat)
  | denseMul (a b : Mat)
  | low (u v : Mat)

def product (m n k : Nat) (a b : TileVal) : Calc Product :=
  if a.kind = 0 || b.kind = 0 then pure .zero
  else if a.kind = 1 && b.kind = 1 then pure (.denseMul a.d b.d)
  else if b.kind = 1 then do
    let v ← Mat.make n a.rank fun j c => dot false (b.d.col j) (a.v.col c)
    pure (.low a.u v)
  else if a.kind = 1 then do
    let u ← Mat.make m b.rank fun i c => dot false (a.d.row i) (b.u.col c)
    pure (.low u b.v)
  else do
    let w ← Mat.make a.rank b.rank fun x y => dot false ((a.v.col x).take k) (b.u.col y)
    if a.rank ≤ b.rank then
      let v ← Mat.make n a.rank fun j x => dot false (b.v.row j) (w.row x)
      pure (.low a.u v)
    else
      let u ← Mat.make m b.rank fun i y => dot false (a.u.row i) (w.col y)
      pure (.low u b.v)

/-- The sum of R191 and R192. Without `.rnd` a zero product leaves C as it is, whatever its rank, as R370 says. (DEDUCED: assumption
88.) -/
def tileSum (t : Deckle) (c : TileVal) (p : Product) (sub rnd : Bool) : Calc TileRes := do
  let sg (x : Nat) : Nat := if sub then dpNeg x else x
  let dense (term : Nat → Nat → Nat → Calc Nat) : Calc TileRes := do
    let d ← Mat.make t.m t.n fun i j => do
      let acc ← if c.kind = 1 then pure (c.d.at i j) else dot false (c.u.row i) (c.v.row j)
      term i j acc
    pure { kind := 1, b0 := some d }
  match p with
  | .zero => if rnd && c.kind = 2 then settleTile t c.u c.v c.rank true none else pure { keep := true, kind := c.kind }
  | .denseMul a b => dense fun i j acc => dotFrom false acc ((a.row i).map sg) (b.col j)
  | .dense a => dense fun i j acc => dpAdd false acc (sg (a.at i j))
  | .low u v =>
    if c.kind = 1 then dense fun i j acc => dotFrom false acc (u.row i) ((v.row j).map sg)
    else
      let v := if sub then Mat.neg v else v
      settleTile t (c.u ++ u) (c.v ++ v) (c.rank + List.length u) rnd none

/-- What an operation makes of its destination (R370 to R372, R208 to R210). `sub` is FLAGS[0], `flag` FLAGS[1]. -/
def tileCompute (kind : TileKind) (flags : BitVec 3) (t : Deckle) (k : Nat) (c a b : TileVal) : Calc TileRes := do
  let f0 := flags.getLsbD 0
  let f1 := flags.getLsbD 1
  match kind with
  | .tmac => do tileSum t c (← product t.m t.n k a b) f0 f1
  | .tadd => tileSum t c (if a.kind = 0 then .zero else if a.kind = 1 then .dense a.d else .low a.u a.v) f0 f1
  | .trnd => if c.kind = 2 then settleTile t c.u c.v c.rank true none else pure { keep := true }
  | .tcomp =>
    if c.kind = 2 then settleTile t c.u c.v c.rank true none
    else if c.kind = 1 then settleTile t c.d (Mat.ident t.n t.n) t.n true (some c.d)
    else pure { keep := true }
  | .tdense =>
    if c.kind = 1 then pure { keep := true }
    else do
      let d ← expand t.m t.n c.u c.v
      pure { kind := 1, b0 := some d }
  | .tzero =>
    if f0 then pure { drop := true }
    else if c.kind = 0 then pure { keep := true } else pure { kind := 0, cap := t.cap }
  | .tlu => do
    let d ← luTile t.n c.d
    pure { kind := 1, b0 := some d, deck := false }
  | .ttrs =>
    if c.kind = 0 then pure { keep := true }
    else if c.kind = 1 then
      if f0 then do
        let d ← solveCols t.n a.d true f1 (c.d.trans t.m)
        pure { kind := 1, b0 := some (Mat.trans d t.n), deck := false }
      else do
        let d ← solveCols t.m a.d false f1 c.d
        pure { kind := 1, b0 := some d, deck := false }
    else if f0 then do
      let v ← solveCols t.n a.d true f1 c.v
      pure { kind := 2, rank := c.rank, cap := t.cap, b1 := some v, deck := false }
    else do
      let u ← solveCols t.m a.d false f1 c.u
      pure { kind := 2, rank := c.rank, cap := t.cap, b0 := some u, deck := false }
  | .tsamp => pure { keep := true }

/-! ### Elements in memory (R187, R189) -/

/-- Where an address of a tile operation lies. -/
def tileAt (pages : List TilePage) (va : Nat) : Option (TilePage × Nat) :=
  (pages.find? fun p => p.page = va / 4096).map fun p => (p, p.pa + va % 4096)

/-- The bytes of the remote pages of an operation stand one page after another in the event's payload (assumption 23). -/
def remoteIndex : List TilePage → Nat → Option Nat
  | [], _ => none
  | p :: rest, page => if p.kind = 2 then (if p.page = page then some 0 else (remoteIndex rest page).map (· + 1)) else remoteIndex rest page

def State.tileByte (s : State) (pages : List TilePage) (va plane : Nat) : Byte :=
  match tileAt pages va with
  | none => 0
  | some (p, pa) =>
    if p.kind = 2 then s.inp.payload.getD (((remoteIndex pages p.page).getD 0) * 4096 + va % 4096) 0
    else s.cell (pa + plane * p.stride)

def State.tileVal (s : State) (pages : List TilePage) (va plane n : Nat) : Nat :=
  leVal ((List.range n).map fun i => s.tileByte pages (va + i) plane)

/-- The stored bits of an element. -/
def State.tileBits (s : State) (pages : List TilePage) (fmt va : Nat) : Nat :=
  if fmt = 2 then (List.range 4).foldl (fun x j => x * 2 ^ 16 + s.tileVal pages va j 2) 0
  else s.tileVal pages va 0 (tileWidth fmt)

/-- Flags of reading an element: a signalling FP32 NaN raises NV as it is widened (R164, R189). (DEDUCED: assumption 71.) -/
def State.readFlags (s : State) (pages : List TilePage) (d : Deckle) : Flags :=
  let block (b n : Nat) : Flags := (List.range n).foldl (fun f i => f ||| (fconvert f64 f32 rne (s.tileVal pages (d.addr b + 4 * i) 0 4)).2) 0
  if d.fmt != 1 then 0
  else if d.kind = 1 then block 0 (d.m * d.n)
  else if d.kind = 2 then block 0 (d.m * d.rank) ||| block 1 (d.n * d.rank)
  else 0

/-- Stored bits read into FP64 (R189, R173). -/
def readBack (fmt planes x : Nat) : Nat :=
  if fmt = 0 then x else if fmt = 1 then (fconvert f64 f32 rne x).1 else planeTrunc f64 (planes + 1) x

/-- FP64 rounded for storage, with its flags. -/
def toStored (fmt x : Nat) : Nat × Flags := if fmt = 1 then fconvert f32 f64 rne x else (x, 0)

/-- A matrix of a block. -/
def State.tileMat (s : State) (pages : List TilePage) (d : Deckle) (b rows cols : Nat) : Mat :=
  (List.range cols).map fun c => (List.range rows).map fun i =>
    readBack d.fmt d.planes (s.tileBits pages d.fmt (d.addr b + (i + rows * c) * tileWidth d.fmt))

/-- The value of a tile (R187). -/
def State.tileValue (s : State) (pages : List TilePage) (d : Deckle) : TileVal :=
  if d.kind = 1 then { kind := 1, rank := 0, d := s.tileMat pages d 0 d.m d.n, u := [], v := [] }
  else if d.kind = 2 then
    { kind := 2, rank := d.rank, d := [], u := s.tileMat pages d 0 d.m d.rank, v := s.tileMat pages d 1 d.n d.rank }
  else { kind := 0, rank := 0, d := [], u := [], v := [] }

/-- Byte ranges of the elements that a tile's value reads: address and bytes. -/
def Deckle.reads (d : Deckle) : List (Nat × Nat) :=
  let w := tileWidth d.fmt
  if d.kind = 1 then [(d.addr 0, d.m * d.n * w)]
  else if d.kind = 2 then [(d.addr 0, d.m * d.rank * w), (d.addr 1, d.n * d.rank * w)]
  else []

/-- A poisoned line among the ranges of which an operation reads the first planes: its physical address and its page's plane stride (R234). -/
def State.tilePoison (s : State) (pages : List TilePage) (planes : Nat) (rs : List (Nat × Nat)) : Option (Nat × Nat) :=
  rs.findSome? fun r =>
    (range' (r.1 / 128) ((r.1 % 128 + r.2 + 127) / 128)).findSome? fun line =>
      match tileAt pages (max r.1 (line * 128)) with
      | some (p, pa) =>
        if p.kind = 2 then none
        else (List.range planes).findSome? fun j =>
          let x := pa + j * p.stride
          if s.poisoned x || s.isRemoved x then some (x, if p.pf then p.stride else 0) else none
      | none => none

/-! ### Blocks of a result (R206, R207) -/

/-- A result's blocks: the pool after the allocations, the new blocks (block, class, address), the deckle to write, and the
blocks to free after it. -/
structure Placed where
  pool : List Extent
  got : List (Nat × Nat × Nat)
  deck : Deckle
  frees : List (Nat × Nat)

/-- The block fields of a deckle. -/
structure Blocks where
  addr : List Nat
  pooled : List Bool
  cls : List Nat

def Deckle.blockFields (d : Deckle) : Blocks :=
  { addr := [d.addr 0, d.addr 1], pooled := [d.pooled 0, d.pooled 1], cls := [d.cls 0, d.cls 1] }

/-- A deckle with kind, rank, capacity and blocks replaced; the other fields never change (R208). -/
def Deckle.with (d : Deckle) (kind rank cap : Nat) (b : Blocks) : Deckle :=
  let bit (x : Bool) : Nat := if x then 1 else 0
  { w0 := kind * 2 ^ 62 + d.w0 / 2 ^ 40 % 2 ^ 22 * 2 ^ 40 + rank * 2 ^ 33 + cap * 2 ^ 26 + d.tol
    a0 := b.addr.getD 0 0
    a1 := b.addr.getD 1 0
    w3 := bit (b.pooled.getD 0 false) * 2 ^ 63 + bit (b.pooled.getD 1 false) * 2 ^ 62 + b.cls.getD 0 0 * 2 ^ 52
      + b.cls.getD 1 0 * 2 ^ 48 }

/-- A block of the deckle that its pool gave: class and address. -/
def Deckle.owned (d : Deckle) (b : Nat) : List (Nat × Nat) := if d.pooled b && d.cls b < 12 then [(d.cls b, d.addr b)] else []

/-- One block of a result: reused, or allocated (R206). -/
def placeBlock (d : Deckle) (r : TileRes) (b : Nat) (x : Placed × Blocks) : Option (Placed × Blocks) :=
  match tileNeed r.kind d.fmt d.m d.n r.cap b with
  | none => some x
  | some bytes =>
    let k := clsFor bytes
    if d.cls b < 12 && k ≤ d.cls b then some x
    else
      (poolTake x.1.pool k).map fun t =>
        ({ x.1 with pool := t.1, got := x.1.got ++ [(b, k, t.2)], frees := x.1.frees ++ d.owned b },
         { addr := x.2.addr.set b t.2, pooled := x.2.pooled.set b true, cls := x.2.cls.set b k })

/-- The blocks of a result; none when an allocation fails. -/
def placeBlocks (pool : List Extent) (d : Deckle) (r : TileRes) : Option Placed :=
  let start : Placed × Blocks := ({ pool, got := [], deck := d, frees := [] }, d.blockFields)
  if r.drop then
    some { pool, got := [], deck := d.with 0 0 0 { addr := [0, 0], pooled := [false, false], cls := [15, 15] },
           frees := d.owned 0 ++ d.owned 1 }
  else do
    let x ← placeBlock d r 0 start
    let x ← placeBlock d r 1 x
    let b := if r.kind = 1 then { addr := x.2.addr.set 1 0, pooled := x.2.pooled.set 1 false, cls := x.2.cls.set 1 15 : Blocks } else x.2
    some { x.1 with
      deck := d.with r.kind r.rank r.cap b
      frees := x.1.frees ++ if r.kind = 1 then d.owned 1 else [] }

/-! ### The sampling check (R212) -/

/-- The check record's fields that the sequencer writes. -/
structure CheckRec where
  seed : Nat
  rounds : Nat
  samples : Nat
  maxerr : Nat
  sumsq : Nat
  dense : Nat
  maxrank : Nat
  deriving DecidableEq, Repr

/-- The value of a computation that does not stop. -/
def Calc.value {α : Type} (d : α) (c : Calc α) : α := (c.result 0).1.getD d

/-- One sample: MAXERR and SUMSQ. -/
def sampleOne (e1 e2 : Nat) (x : Nat × Nat) : Nat × Nat :=
  let err := dpAbs ((dpSub false e1 e2).value 0)
  let nan := (dpVal err).isNan || (dpVal x.1).isNan
  (if nan then f64.nan else if dpLt x.1 err then err else x.1, (dpFma false err err x.2).value 0)

/-- The record after a rounding: `back` is an element of the result as stored, `rank` the rounded rank. -/
def CheckRec.update (c : CheckRec) (deck m n : Nat) (u v : Mat) (back : Nat → Nat → Nat) (dense : Bool) (rank : Nat) : CheckRec :=
  let k := min 64 (m * n)
  let r := (List.range k).foldl (fun x t =>
    let h := hashBits (BitVec.ofNat 64 deck) (BitVec.ofNat 32 c.rounds) (BitVec.ofNat 32 (c.seed + t))
    let y := h % (m * n)
    let i := y % m
    let j := y / m
    sampleOne ((dot false (u.row i) (v.row j)).value 0) (back i j) x) (c.maxerr, c.sumsq)
  { c with
    rounds := (c.rounds + 1) % 2 ^ 32, samples := (c.samples + k) % 2 ^ 64, maxerr := r.1, sumsq := r.2
    dense := if dense then (c.dense + 1) % 2 ^ 32 else c.dense, maxrank := max c.maxrank rank }

end Sys2Proof.Machine
end

