-- ==== Sys2Proof/Machine/Tiles.lean ====
section
/-! DEFINITION. X group 0x30: the tile words, and the execution of a tile operation by the quad's sequencer
(spec/17_isa_tiles_updates_system.md R368 to R375, spec/09_tile_arithmetic.md R204 to R214). -/
namespace Sys2Proof.Machine

/-! ### Issue (R213, R369) -/

/-- A data fault of a tile word: cause and address, for the whole group. -/
def tileFault (f : Nat × Dword) : DataFault := { cause := f.1, lanes := allLanes, addr := f.2 }

/-- The shapes agree as an instruction requires (R190, R209, R210, R372). -/
def shapesOk (kind : TileKind) (flags : BitVec 3) (ds : List Deckle) : Bool :=
  match kind, ds with
  | .tmac, [c, a, b] => a.m = c.m && b.n = c.n && a.n = b.m
  | .tadd, [c, a] => a.m = c.m && a.n = c.n
  | .tlu, [c] => c.kind = 1 && c.m = c.n
  | .ttrs, [b, t] => t.kind = 1 && t.m = t.n && t.m = (if flags.getLsbD 0 then b.n else b.m)
  | _, _ => true

/-- The address of the group's armed check record; 0 when disarmed (R211). -/
def State.armedOf (s : State) (gid : Nat) : Dword :=
  (((s.team (groupTeam gid)).armed.find? fun a => a.1 = groupIndex gid).map (·.2)).getD 0

/-- Whether an operation can run the rounding procedure. -/
def TileKind.rounds : TileKind → Bool
  | .tmac | .tadd | .trnd | .tcomp => true
  | _ => false

/-- Faults of the addresses of the deckles, the destination first. -/
def State.deckAddrs (s : State) (gid : Nat) (as : List Dword) : List (Except (Nat × Dword) TilePage) :=
  as.zipIdx.map fun a => s.deckAddr gid a.1 (a.2 = 0) 0x0E

/-- The operands whose deckle can be read, with their places among the operands. -/
def State.deckFine (s : State) (gid : Nat) (as : List Dword) : List (Dword × Nat) :=
  as.zipIdx.filter fun a => (s.deckAddr gid a.1 (a.2 = 0) 0x0E).toOption.isSome

/-- The 16-byte blocks of deckles. -/
def deckBlocks (as : List Dword) : List Nat := as.flatMap fun a => [a.toNat / 16, a.toNat / 16 + 1]

def errorsOf {α : Type} (l : List (Except (Nat × Dword) α)) : List (Nat × Dword) :=
  l.filterMap fun x => match x with
    | .error e => some e
    | .ok _ => none
def valuesOf {α : Type} (l : List (Except (Nat × Dword) α)) : List α :=
  l.filterMap fun x => match x with
    | .ok v => some v
    | .error _ => none

/-- An operation may allocate blocks of a format's pool (R206). -/
def TileKind.allocates (k : TileKind) : Bool :=
  match k with
  | .tmac | .tadd | .trnd | .tdense | .tcomp => true
  | .tzero | .tlu | .ttrs | .tsamp => false

/-- What the issue of a tile operation found: the pages that it translated, and whether it may write another package. -/
structure TileIssue where
  pages : List TilePage
  far : Bool

/-- The operation that the word in hand issues. -/
def State.tileOp (s : State) (kind : TileKind) (flags : BitVec 3) (as : List Dword) (x : TileIssue) : TileOp :=
  let g := s.cur
  { id := g.nextOp, seq := g.nTile, kind, c := as.getD 0 0, a := as.getD 1 0, b := as.getD 2 0, flags,
    pages := x.pages, armed := s.armedOf s.iss.gid, pc := s.iss.pc
    serial := if x.far then some g.wserial else none, order := g.nReq }

/-- The deckle at an address, and the operand deckles of an operation. -/
def State.deckAt (s : State) (pages : List TilePage) (a : Dword) : Deckle :=
  deckleOf ((List.range 32).map fun i => s.tileByte pages (a.toNat + i) 0)

/-- The addresses of an operation's deckles, the destination's first. -/
def TileOp.decks (o : TileOp) : List Dword :=
  match o.kind with
  | .tsamp => []
  | .tmac => [o.c, o.a, o.b]
  | .tadd | .ttrs => [o.c, o.a]
  | _ => [o.c]

/-- The destination's deckle. -/
def State.deckC (s : State) (o : TileOp) : Deckle := s.deckAt o.pages o.c

/-- What an operation computes from its operands as they stand, with its flags. -/
def State.tileRes (s : State) (o : TileOp) : Option TileRes × Flags :=
  let ds := o.decks.map (s.deckAt o.pages)
  let c := s.deckC o
  let a := ds.getD 1 c
  let val := s.tileValue o.pages
  let r := (tileCompute o.kind o.flags c a.n (val c) (val a) (val (ds.getD 2 c))).result 0
  (r.1, ds.foldl (fun f d => f ||| s.readFlags o.pages d) r.2)

/-- Extents as they stand after an allocation from some of them. -/
def mergePool (old new : List Extent) : List Extent := old.map fun e => (new.find? fun x => x.base = e.base).getD e

/-- The blocks of an operation's result. One that took no serial at its issue allocates from no extent with pages of another package, which
`TPOOL` has added since (R373). (DESIGN CHOICE: assumption 92.) -/
def State.tilePlaced (s : State) (gid : Nat) (o : TileOp) (r : TileRes) : Option Placed :=
  let xs := (s.team (groupTeam gid)).pool (tilePool (s.deckC o).fmt)
  (placeBlocks (if o.serial.isSome then xs else xs.filter fun e => !e.far) (s.deckC o) r).map fun p => { p with pool := mergePool xs p.pool }

/-- The result writes the deckle, and its blocks. -/
def TileRes.places (r : TileRes) : Bool := !r.keep && r.deck

/-- The operation, on its operands as they stand, would free one block twice: both blocks of its destination's deckle are one (R205). -/
def State.freesTwice (s : State) (gid : Nat) (o : TileOp) : Bool :=
  (s.deckC o).freesTwice && ((s.tileRes o).1.any fun r => r.places && (s.tilePlaced gid o r).any fun p => !decide p.frees.Nodup)

/-- What the issue checks find from the bytes of the deckles that can be read: the fault with the lowest code, or the pages (R213). -/
def State.tileCheck (s : State) (kind : TileKind) (flags : BitVec 3) (as : List Dword) (bs : List Byte) :
    Except (Nat × Dword) TileIssue :=
  let gid := s.iss.gid
  let t := s.team (groupTeam gid)
  let fine := s.deckFine gid as
  let ds := fine.zipIdx.map fun x => (x.1, deckleOf ((bs.drop (32 * x.2)).take 32))
  let xs := ds.map fun x => if x.2.reason t != 0 then .error (0x0E, x.1.1) else s.deckPages gid x.2 (x.1.2 = 0)
  let armed := s.armedOf gid
  let record : Except (Nat × Dword) (List TilePage) :=
    if armed != 0 && kind.rounds then s.tileRange gid armed.toNat 64 true false else .ok []
  let whole := fine.length = as.length && (errorsOf xs).isEmpty
  let shape := if whole && !shapesOk kind flags (ds.map (·.2)) then [(0x0E, as.headD 0)] else []
  match lowestFault (errorsOf (s.deckAddrs gid as) ++ errorsOf xs ++ errorsOf [record] ++ shape) with
  | some f => .error f
  | none =>
    let decks := valuesOf (s.deckAddrs gid as)
    let written := decks.take 1 ++ (valuesOf xs).headD [] ++ (valuesOf [record]).flatten
    let pool := kind.allocates && (t.pool (tilePool ((ds.head?.map (·.2.fmt)).getD 0))).any (·.far)
    let x : TileIssue :=
      { pages := (decks ++ (valuesOf xs).flatten ++ (valuesOf [record]).flatten).eraseDups
        far := pool || written.any fun p => p.kind = 2 }
    if s.freesTwice gid (s.tileOp kind flags as x) then .error (0x0E, as.headD 0) else .ok x

/-- The checks as far as the deckles' bytes are there. -/
def State.tileKnown (s : State) (kind : TileKind) (flags : BitVec 3) (as : List Dword) : Option (Except (Nat × Dword) TileIssue) :=
  match s.readBlocks 0 (deckBlocks ((s.deckFine s.iss.gid as).map (·.1))) with
  | .bytes bs => some (s.tileCheck kind flags as bs)
  | _ => none

/-- A tile operation enters the group's list, in the pass that it holds. One younger than a failed operation is discarded
(R116). -/
def State.addTile (s : State) (kind : TileKind) (flags : BitVec 3) (as : List Dword) (x : TileIssue) : State :=
  let g := s.cur
  let o := s.tileOp kind flags as x
  let tiles := if g.tileFail.isSome then g.tiles else g.tiles ++ [o]
  let t := (s.setCur { g with tiles, nextOp := g.nextOp + 1, nReq := g.nReq + 1, nTile := g.nTile + 1 }).usePass o.id []
  if x.far then t.takeSerial else t

/-- The places of a tile word's pages. -/
def State.tilePlaces (s : State) (gid : Nat) (pages : List TilePage) : List Place :=
  pages.filterMap fun p => (s.coreAccess gid (BitVec.ofNat 64 (p.page * 4096)) false 0).toOption

/-- The counted pages that a tile word touches (R134), less those that it has counted already. -/
def State.countTiles (s : State) (gid : Nat) (pages : List TilePage) (done : List TilePage := []) : State :=
  s.countPages gid (s.tilePlaces gid pages) (s.tilePlaces gid done)

/-- A tile word with its deckle registers, the destination's first: it waits until every older tile operation of the group has
been executed. (DEDUCED: assumption 45.) -/
def State.tileWord (s : State) (i : Instr) (kind : TileKind) (f : XE) (regs : List (BitVec 8)) : Out :=
  let gid := s.iss.gid
  let as := regs.map fun r => s.cur.v64 0 r.toNat
  let rs := regs.flatMap pairRegs
  let act := s.cur.active s.iss.run f.guard != 0
  let commit := act && s.cur.hold
  let known := s.tileKnown kind f.flags as
  let far := act && (match known with
    | some (.ok x) => x.far
    | _ => false)
  s.runM { guard := f.guard, regs := rs, reads := rs, region := commit || (far && s.cur.windowRegion), deliver := commit, after := true }
    (if s.cur.tileBusy then none
     else
      match known with
      | some (.error x) => some (tileFault x)
      | _ => if far && s.lastSerial then some (tileFault (0x11, as.headD 0)) else none) fun s _ =>
    if s.cur.tileBusy || 255 ≤ s.cur.outstanding 2 then none
    else if (s.opened commit far).isNone then none
    else if !s.holdsPass gid then some (s.requestPass gid)
    else s.loadRead i 0 (s.readBlocks 0 (deckBlocks ((s.deckFine gid as).map (·.1)))) fun s bs =>
      match s.tileCheck kind f.flags as bs with
      | .error _ => none
      | .ok x =>
        (s.opened commit x.far).map fun s =>
          ((s.countTiles gid x.pages).addTile kind f.flags as x).advance

def execTzero (f : XE) (s : State) : Out := s.tileWord (.tzero f) .tzero f [f.e0]
def execTmac (f : XE) (s : State) : Out := s.tileWord (.tmac f) .tmac f [f.e0, f.e1, f.e2]
def execTadd (f : XE) (s : State) : Out := s.tileWord (.tadd f) .tadd f [f.e0, f.e1]
def execTrnd (f : XE) (s : State) : Out := s.tileWord (.trnd f) .trnd f [f.e0]
def execTdense (f : XE) (s : State) : Out := s.tileWord (.tdense f) .tdense f [f.e0]
def execTcomp (f : XE) (s : State) : Out := s.tileWord (.tcomp f) .tcomp f [f.e0]
def execTlu (f : XE) (s : State) : Out := s.tileWord (.tlu f) .tlu f [f.e0]
def execTtrs (f : XE) (s : State) : Out := s.tileWord (.ttrs f) .ttrs f [f.e0, f.e1]

/-- The pages of the record that a `TSAMP` arms, or its fault (R375). -/
def State.tsampPages (s : State) (a : Dword) : Except (Nat × Dword) (List TilePage) :=
  if a = 0 then .ok []
  else if a.toNat % 8 != 0 then .error (0x06, a)
  else if a.toNat / 2 ^ 56 != 0 then .error (0x0E, a)
  else s.tileRange s.iss.gid a.toNat 64 true false

/-- `TSAMP` acts in the sequencer's order. -/
def execTsamp (f : XE) (s : State) : Out :=
  let gid := s.iss.gid
  let clr := f.flags == 1
  let a := s.cur.v64 0 f.e0.toNat
  let act := s.cur.active s.iss.run f.guard != 0
  let commit := act && s.cur.hold && clr
  let pages := s.tsampPages a
  let x : TileIssue := { pages := (valuesOf [pages]).flatten, far := clr && (valuesOf [pages]).flatten.any fun p => p.kind = 2 }
  let far := act && x.far
  s.runM { guard := f.guard, regs := pairRegs f.e0, reads := pairRegs f.e0, region := commit || (far && s.cur.windowRegion)
           deliver := commit, after := true, keys := if clr then pairRegs f.e0 else []
           reserved := if clr && a = 0 then some (instrWord (.tsamp f)) else none }
    ((lowestFault (errorsOf [pages] ++ if far && s.lastSerial then [(0x11, a)] else [])).map tileFault) fun s _ =>
    if s.cur.tileBusy || 255 ≤ s.cur.outstanding 2 then none
    else
      (s.opened commit far).bind fun u =>
        if s.holdsPass gid then some ((u.countTiles gid x.pages).addTile .tsamp f.flags [a] x).advance else some (s.requestPass gid)

/-! ### `TINFO` (R374) -/

/-- Four hexadecimal digits of a class; 0xF for none. -/
def clsCode (b : Option Nat) : Nat := (b.map clsFor).getD 15

/-- The words of `TINFO` from a deckle. -/
def tinfoWords (t : Team) (d : Deckle) : List Word :=
  let xs := if d.fmt = 3 then [] else t.pool (tilePool d.fmt)
  let need (b : Nat) : Nat := if d.fmt = 3 then 15 else clsCode (tileNeed d.kind d.fmt d.m d.n d.cap b)
  let largest := (((List.range 12).filter fun c => xs.any fun x => x.free.any fun b => b.1 = c).getLast?).getD 15
  [BitVec.ofNat 32 d.w0, BitVec.ofNat 32 (d.w0 / 2 ^ 32),
   BitVec.ofNat 32 (d.reason t * 2 ^ 24 + need 1 * 2 ^ 12 + need 0 * 2 ^ 8 + crossover d.m d.n),
   BitVec.ofNat 32 (xs.length * 2 ^ 4 + largest)]

def execTinfo (f : XE) (s : State) : Out :=
  let a := s.cur.v64 0 f.e1.toNat
  let rs := range' f.e0.toNat 4
  s.runM { guard := f.guard, regs := rs ++ pairRegs f.e1, reads := pairRegs f.e1, after := true }
    (if s.cur.tileBusy then none else (errorsOf [s.deckAddr s.iss.gid a false 0x07]).head?.map tileFault) fun s m =>
    if s.cur.tileBusy then none
    else s.loadRead (.tinfo f) 0 (s.readBlocks 0 (deckBlocks [a])) fun s bs =>
      let ws := tinfoWords (s.team (groupTeam s.iss.gid)) (deckleOf bs)
      let s := s.countTiles s.iss.gid (valuesOf [s.deckAddr s.iss.gid a false 0x07])
      some (s.setCur (s.cur.setRegs f.e0.toNat m (fun _ => ws) 4)).advance

/-! ### Pools (R204, R373) -/

/-- The extent word is one, and the base is of class 0 and aligned. -/
def extentOk (base : Dword) (x : Word) : Bool :=
  let l := x.toNat % 16
  l ≤ 11 && x.toNat / 2 ^ 16 != 0 && x.toNat / 16 % 2 ^ 12 = 0 && base.toNat / 2 ^ 56 = 0 && base.toNat % clsBytes l = 0
    && base.toNat + x.toNat / 2 ^ 16 * clsBytes l ≤ 2 ^ 56

/-- Bytes of an extent's allocation state. -/
def stateBytes (units top : Nat) : Nat := (units * 2 ^ top * 2 + 511) / 512 * 64

/-- The faults of `TPOOL`: those of the pages of the extent, and the checks of its words and of the pool, the lowest code first (R114). A class
above 11, no unit, or a base outside the global window gives no extent, and so no page. -/
def State.tpoolFault (s : State) (p : Nat) (base : Dword) (x : Word) : Option DataFault :=
  let t := s.team (groupTeam s.iss.gid)
  let top := x.toNat % 16
  let units := x.toNat / 2 ^ 16
  let size := units * clsBytes top
  match if base.toNat / 2 ^ 56 = 0 && top ≤ 11 && size != 0 then s.tileRange s.iss.gid base.toNat size true false else .ok [] with
  | .error e => some (tileFault (if !extentOk base x && 0x0E < e.1 then (0x0E, base) else e))
  | .ok pages =>
    if !extentOk base x then some (tileFault (0x0E, base))
    else
      let meets := (t.pool 0 ++ t.pool 1).any fun y => base.toNat < y.base.toNat + y.bytes && y.base.toNat < base.toNat + size
      let d := coreDie (slotCore s.cur.slot)
      if 8 ≤ (t.pool p).length || meets || (p = 1 && pages.any fun g => !g.pf)
          || (s.poolAlloc d (stateBytes units top)).isNone then some (tileFault (0x0E, base))
      else none

/-- `TPOOL`. -/
def execTpool (f : XE) (s : State) : Out :=
  let base := s.cur.v64 0 f.e0.toNat
  let x := s.cur.v 0 f.e1.toNat
  let p := f.flags.toNat % 2
  let rs := pairRegs f.e0 ++ [f.e1.toNat]
  s.runM { guard := f.guard, regs := rs, reads := rs } (s.tpoolFault p base x) fun s _ =>
    let tk := groupTeam s.iss.gid
    let d := coreDie (slotCore s.cur.slot)
    let top := x.toNat % 16
    let units := x.toNat / 2 ^ 16
    let n := stateBytes units top
    let area := (s.poolAlloc d n).getD 0
    let s := (s.takeArea (.tile p) tk d n).getD s
    let t := s.team tk
    let e : Extent :=
      { base, top, units, die := d, area
        far := ((s.tileRange s.iss.gid base.toNat (units * clsBytes top) true false).toOption.getD []).any fun g => g.kind = 2
        free := (List.range units).map fun i => (top, base.toNat + i * clsBytes top), used := [] }
    some (s.setTeam tk (t.setPool p (t.pool p ++ [e]))).advance

/-- `TPOOL.empty` waits until no tile operation of the team is outstanding. -/
def execTpoolEmpty (f : XE) (s : State) : Out :=
  let p := f.flags.toNat % 2
  s.runM { guard := f.guard } none fun s _ =>
    let tk := groupTeam s.iss.gid
    if (s.groupsOf tk).any fun g => (s.group g).tileBusy then none
    else
      let s := (List.range Config.dies).foldl (fun s d => s.dropArea (.tile p) tk d) s
      some (s.setTeam tk ((s.team tk).setPool p [])).advance

/-! ### Execution (R214) -/

/-- One write of a tile operation, a single access (R144): its address and the bytes of each plane, which for all but an element of FMT 2 is
one. -/
structure TileWrite where
  va : Nat
  planes : List (List Byte)
  deriving DecidableEq, Repr

/-- Bytes written by a tile operation: at once on the package, and as stores to another package (assumption 23). `near` lists the
former. -/
structure TileOut where
  st : State
  near : List (Nat × List Byte) := []
  far : List (Place × Dword × List Byte) := []

def TileOut.put (o : TileOut) (pages : List TilePage) (va plane : Nat) (bs : List Byte) : TileOut :=
  match tileAt pages va with
  | none => o
  | some (p, pa) =>
    if p.kind = 2 then { o with far := o.far ++ [({ kind := 2, pa, pkg := p.pkg }, BitVec.ofNat 64 va, bs)] }
    else { o with st := o.st.memWrite (pa + plane * p.stride) bs, near := o.near ++ [(pa + plane * p.stride, bs)] }

def TileOut.write (o : TileOut) (pages : List TilePage) (w : TileWrite) : TileOut :=
  w.planes.zipIdx.foldl (fun o b => o.put pages w.va b.2 b.1) o

/-- The writes of a block's matrix, and the flags of its roundings. -/
def matWrites (fmt base : Nat) (m : Mat) : List TileWrite × Flags :=
  let w := tileWidth fmt
  let es := (m.flatMap id).map (toStored fmt)
  (es.zipIdx.map fun e =>
    { va := base + e.2 * w
      planes := if fmt = 2 then (List.range 4).map fun j => leBytes 2 (e.1.1 / 2 ^ (48 - 16 * j)) else [leBytes w e.1.1] },
   es.foldl (fun f e => f ||| e.2) 0)

/-- Bytes cut into pieces of four, of two, and of one. -/
def cutFour (pa : Nat) (va : Dword) (place : Place) : Nat → List Byte → List (Place × Dword × List Byte)
  | 0, _ => []
  | fuel + 1, bs =>
    if bs.isEmpty then []
    else
      let n := if 4 ≤ bs.length then 4 else if 2 ≤ bs.length then 2 else 1
      ({ place with pa }, va, bs.take n) :: cutFour (pa + n) (va + BitVec.ofNat 64 n) place fuel (bs.drop n)

/-- The stores of a tile operation as lanes of its requests: 500 to a lane at each owner, so that a lane record fits a payload. Answers them
last first. -/
def State.spreadLanes (s : State) (cells : List (Place × Dword × List Byte)) : List FarStore :=
  (cells.foldl (fun (a : List FarStore × Tab Nat) x =>
    let w := s.laneOwner x.1
    let k := w.1.toNat * 128 + w.2
    let n := tabGet 0 a.2 k
    ({ lane := n / 500, place := x.1, va := x.2.1, value := leVal x.2.2 } :: a.1, tabSet 0 a.2 k (n + 1))) ([], [])).1

/-- The operation's poison marks and its stores to another package, under the serial that it took: one store size, the words' (assumption
21). -/
def State.sendTile (s : State) (gid : Nat) (o : TileOp) (out : TileOut) : State :=
  let s := s.clearCovered out.near
  if out.far.isEmpty then s
  else
    let cells := out.far.flatMap fun x => cutFour x.1.pa x.2.1 x.1 x.2.2.length x.2.2
    let n : Nat := if cells.all fun x => x.2.2.length = 4 then 4 else if cells.all fun x => x.2.2.length = 2 then 2 else 1
    let cells := if n = 1 then cells.flatMap fun x => x.2.2.zipIdx.map fun b => ({ x.1 with pa := x.1.pa + b.2 }, x.2.1 + BitVec.ofNat 64 b.2, [b.1])
      else cells
    s.sendStores gid o.pc (o.serial.getD 0) o.order n true (s.spreadLanes cells).reverse

/-- The oldest tile operation of a group is done. -/
def State.retireTile (s : State) (gid : Nat) : State := s.setGroup gid { s.group gid with tiles := (s.group gid).tiles.drop 1 }

/-- An operation that fails: its deferred cause, and every younger one is discarded (R207, R116). -/
def State.failTile (s : State) (gid : Nat) (o : TileOp) (cause : Nat) (addr : Dword) : State :=
  let g := s.group gid
  s.setGroup gid { g with
    tiles := [], tileFail := some { seq := o.seq, cause, addr, pc := o.pc, lanes := allLanes } }

/-- The 64 bytes at 8-byte aligned addresses of a record: the fields of R211. -/
def State.checkRec (s : State) (pages : List TilePage) (a : Nat) : CheckRec :=
  let x (o n : Nat) : Nat := s.tileVal pages (a + o) 0 n
  { seed := x 0 4, rounds := x 4 4, samples := x 8 8, maxerr := x 0x10 8, sumsq := x 0x18 8, dense := x 0x20 4, maxrank := x 0x24 4 }

def CheckRec.words (c : CheckRec) : List Nat :=
  [c.rounds, c.samples % 2 ^ 32, c.samples / 2 ^ 32, c.maxerr % 2 ^ 32, c.maxerr / 2 ^ 32, c.sumsq % 2 ^ 32, c.sumsq / 2 ^ 32,
   c.dense, c.maxrank]

/-- The writes of the record's words from 0x04, each whole. -/
def recWrites (a : Nat) (ws : List Nat) : List TileWrite := ws.zipIdx.map fun w => { va := a + 4 + 4 * w.2, planes := [leBytes 4 w.1] }

/-- Element (i, j) of a result as stored (R212). -/
def TileRes.back (r : TileRes) (d : Deckle) (i j : Nat) : Nat :=
  let b (x : Nat) : Nat := readBack d.fmt d.planes (toStored d.fmt x).1
  let m0 := r.b0.getD []
  let m1 := r.b1.getD []
  if r.kind = 1 then b (m0.at i j)
  else if r.kind = 2 then (dot false ((m0.row i).map b) ((m1.row j).map b)).value 0
  else 0

/-- The rank that a check record counts: the rounded one; where the procedure reported none, a free value of the operands alone (R212
states none, R215). -/
def sampleRank (u v : Mat) (w0 : Nat) (r : Option Nat) : Nat :=
  match r with
  | some x => x
  | none => Config.unreportedRank u v w0 % 2 ^ 32

/-- What a tile operation writes, in order: its data blocks, its deckle by halves, the check record (R214, R212), with the flags of the
roundings. -/
def State.tileWrites (s : State) (o : TileOp) (d deck : Deckle) (r : TileRes) : List TileWrite × Flags :=
  let block (b : Option Mat) (i : Nat) : List TileWrite × Flags :=
    match b with
    | some m => if r.keep then ([], 0) else matWrites d.fmt (deck.addr i) m
    | none => ([], 0)
  let half (h : Nat) : TileWrite := { va := o.c.toNat + 16 * h, planes := [(deck.bytes.drop (16 * h)).take 16] }
  let record := match r.samp with
    | some (u, v, rank) =>
      if o.armed = 0 then []
      else
        let c := s.checkRec o.pages o.armed.toNat
        recWrites o.armed.toNat (c.update o.c.toNat d.m d.n u v (r.back d) (r.kind = 1) (sampleRank u v d.w0 rank)).words
    | none => []
  ((block r.b0 0).1 ++ (block r.b1 1).1 ++ (if r.keep || !r.deck then [] else [half 0, half 1]) ++ record,
   (block r.b0 0).2 ||| (block r.b1 1).2)

/-- What an operation comes to: an error that it consumes, no result, a failure at its `WAITC`, or its writes. -/
inductive TilePlan where
  /-- A poisoned line that an operand lies on: its physical address and its page's plane stride. -/
  | poison (pa stride : Nat)
  | nothing
  | fails (cause : Nat) (addr : Dword)
  /-- The writes, the pages of the new blocks, the flags, the pool after it. -/
  | writes (ws : List TileWrite) (new : List TilePage) (flags : Flags) (pool : Option (List Extent))

/-- One tile operation, from its reads to its writes. A block that operands changed since the issue would free twice is freed once. (DEDUCED:
assumption 70.) -/
def State.tilePlan (s : State) (gid : Nat) (o : TileOp) : TilePlan :=
  if o.kind = .tsamp then .writes (if o.flags.getLsbD 0 then recWrites o.c.toNat (List.replicate 9 0) else []) [] 0 none
  else
    let c := s.deckC o
    let hit := (s.tilePoison o.pages 1 (o.decks.map fun d => (d.toNat, 32))).orElse fun _ =>
      (o.decks.map (s.deckAt o.pages)).findSome? fun d => s.tilePoison o.pages (if d.fmt = 2 then d.planes + 1 else 1) d.reads
    match hit with
    | some x => .poison x.1 x.2
    | none =>
      let r := s.tileRes o
      let done (deck : Deckle) (res : TileRes) (new : List TilePage) (pool : Option (List Extent)) : TilePlan :=
        let w := s.tileWrites o c deck res
        .writes w.1 new (r.2 ||| w.2) pool
      match r.1 with
      | none => .nothing
      | some res =>
        if !res.places then done c res [] none
        else
          match s.tilePlaced gid o res with
          | none => .fails 0x0F 0
          | some p =>
            match p.got.mapM fun g => s.tileRange gid g.2.2 (clsBytes g.2.1) true (c.fmt = 2) with
            | .error e => .fails e.1 e.2
            | .ok pages => done p.deck res pages.flatten (some (p.frees.eraseDups.foldl poolGive p.pool))

/-- The team's pool of a destination's format, and the record that a `TSAMP` arms (R211, R375), after an operation. -/
def State.tileTeam (s : State) (gid : Nat) (o : TileOp) (pool : Option (List Extent)) : Team :=
  let t := s.team (groupTeam gid)
  let t := match pool with
    | some xs => t.setPool (tilePool (s.deckAt o.pages o.c).fmt) xs
    | none => t
  if o.kind = .tsamp then
    { t with armed := (t.armed.filter fun a => a.1 != groupIndex gid) ++ if o.c = 0 then [] else [(groupIndex gid, o.c)] }
  else t

/-- One tile operation: its writes, then the team's pool and record, its flags, its end (R214). -/
def State.runTile (s : State) (gid : Nat) (o : TileOp) : State :=
  match s.tilePlan gid o with
  | .poison pa stride =>
    let e := errorAt pa stride
    (({ s with iss := { gid, pc := o.pc } }).consume gid e.1 e.2.1 e.2.2 (BitVec.ofNat 64 (pa / 128 * 128)) allLanes).retireTile gid
  | .nothing => s.retireTile gid
  | .fails cause addr => s.failTile gid o cause addr
  | .writes ws new fl pool =>
    let t := s.tileTeam gid o pool
    let out := ws.foldl (fun x w => x.write (o.pages ++ new) w) { st := s.countTiles gid new o.pages : TileOut }
    let s := out.st.setTeam (groupTeam gid) t
    let g := s.group gid
    ((s.setGroup gid { g with fpflags := mergeFlags g.fpflags fl }).sendTile gid o out).retireTile gid

/-- The lowest-numbered core of a quad, within its die (R238). -/
def quadLow (q : Nat) : Nat := q % Config.quads / 6 * 2 * Config.mesh + q % Config.quads % 6 * 2

/-- A residue mismatch of a quad's engine is counted, and its die's governor sees it (R227, R242). -/
def State.residueAt (s : State) (q : Nat) : State := (s.count (.residue q)).dieError (q / Config.quads)

/-- The supervisor removes a quad's cores from placement until the next reset (R231). -/
def State.quadOut (s : State) (q : Nat) : State :=
  let d := q / Config.quads
  let x := s.die d
  if x.quadsOut.contains q then s else s.setDie d { x with quadsOut := x.quadsOut ++ [q] }

/-- Operations of a group's engine, in the order of their issue, with their numbers and PCs. -/
def Group.engineOps (g : Group) : List (Nat × Dword) :=
  (g.mats.map fun o => (o.id, o.pc)) ++ g.tiles.map fun o => (o.id, o.pc)

/-- A group's engine operation consumes an error, at its own PC: neither it nor any younger one takes effect (R235). -/
def State.opConsumes (s : State) (gid source n : Nat) (pc : Dword) : State :=
  let q := s.quadOf gid
  let s := ({ s with iss := { gid, pc } }).consume gid source (q / Config.quads) (quadLow q) 0 allLanes
  let g := s.group gid
  s.setGroup gid { g with
    mats := g.mats.filter fun o => o.id < n
    matOps := g.matOps.filter fun r => !g.mats.any fun o => n ≤ o.id && o.id = r.id
    tiles := g.tiles.filter fun o => o.id < n }

/-- A pass ends without committing, as a consumption by its group at the pass's first operation (R228, R231): neither its operations nor
younger ones of the group take effect. -/
def State.passConsumes (s : State) (q : Nat) (p : Pass) (source : Nat) : State :=
  let ops := (s.group p.gid).engineOps.filter fun o => p.ops.contains o.1
  let pc := (ops.head?.map (·.2)).getD 0
  let s := s.opConsumes p.gid source (p.ops.headD 0) pc
  (if source = 9 then s.quadOut q else s).dropPasses p.gid

/-- Residue mismatches of a quad's engine, one after another, each counted; each takes a spare column, and the work is repeated with the
same bits (R229, R232). False at one that finds none. -/
def State.takeSpares (s : State) (q : Nat) : Nat → State × Bool
  | 0 => (s, true)
  | n + 1 =>
    let s := s.residueAt q
    let x := s.quad q
    if x.spares < Config.spares then ((s.setQuad q { x with spares := x.spares + 1 }).count (.sparesUsed q)).takeSpares q n
    else (s, false)

/-- A tile operation's step finds a mismatch and no spare column (R232): the operation consumes it, and its passes end. -/
def State.tileConsumes (s : State) (gid : Nat) (o : TileOp) : State :=
  ((s.opConsumes gid 9 o.id o.pc).quadOut (s.quadOf gid)).dropPasses gid

/-- TILE_OP_EXECUTE, once the stores of the group's last operation have their replies (R214): the sequencer of the group `gid`'s quad
executes its oldest tile operation; its steps find `mismatches` residue mismatches. -/
def execTileOpExecute (s : State) : Out :=
  let gid := s.inp.gid
  match (s.group gid).tiles with
  | [] => .next s
  | o :: _ =>
    let r := s.takeSpares (s.quadOf gid) s.inp.mismatches
    .next (
      if !((s.group gid).engineOut true).isEmpty then s
      else if r.2 then (r.1.runTile gid o).tidy gid
      else r.1.tileConsumes gid o)

end Sys2Proof.Machine
end

