-- ==== Sys2Proof/Machine/Bringup.lean ====
section
/-! DEFINITION. Bring-up, resets and the management responder (spec/01_package_and_bringup.md R10 to R15, R20, R24 to R28,
R412). Stages of a die: 0 before power-good, 1 to 8 in progress, 9 after stage 0x8. -/
namespace Sys2Proof.Machine

/-! ### Status (R26) -/

/-- The state changed when a step's condition holds; otherwise the step does nothing. -/
def State.when (s : State) (c : Bool) (f : State → State) : Out := .next (if c then f s else s)

def State.diesList (s : State) : List Die := (List.range Config.dies).map s.die
/-- The lowest stage in progress. -/
def State.lowStage (s : State) : Nat := s.diesList.foldl (fun n d => min n d.stage) 9
/-- A failure has stopped bring-up. -/
def State.halted (s : State) : Bool := s.errCode != 0 && !s.ready
/-- The STAGE field. A failure that comes once READY is 1 leaves it 0x0, and once every die has completed stage 0x8 it stays 8 until READY
rises. (DESIGN CHOICE: assumption 64.) -/
def State.stageField (s : State) : Nat :=
  if s.halted then 0xF else if s.ready then 0 else if s.lowStage ≤ 8 then s.lowStage else 8

def popcount (x : BitVec 32) : Nat := (lanesList x).length

/-- Some die was capped for temperature in the last 1 ms. -/
def State.thermWarn (s : State) : Bool :=
  s.diesList.any fun d => match d.cappedHot with
    | some t => s.now ≤ t + 1000000
    | none => false

/-- The package status word. PKGNUM is not valid before stage 0x7: it is a free value there. -/
def State.statusWord (s : State) : Dword :=
  let b (x : Bool) : Nat := if x then 1 else 0
  let pkg := if s.ready || 7 ≤ s.lowStage then s.image.pkgnum.toNat else (s.freeBits 2).toNat % 2 ^ 16
  BitVec.ofNat 64 (pkg * 2 ^ 48 + s.errCode.toNat * 2 ^ 32 + s.errDie.toNat * 2 ^ 28 + s.stageField * 2 ^ 24
    + (s.die 0).slot % 2 * 2 ^ 23 + b s.warm * 2 ^ 22 + popcount s.fabUp * 2 ^ 16 + s.image.placed % 32 * 2 ^ 8
    + s.rate % 8 * 2 ^ 5 + (s.die 0).point % 8 * 2 ^ 2 + b s.thermWarn * 2 + b s.ready)

/-! ### Stages (R25) -/

/-- A bring-up error: the first one is recorded (R27). -/
def State.fail (s : State) (d : Nat) (code : Byte) : State :=
  if s.errCode = 0 then { s with errCode := code, errDie := BitVec.ofNat 4 (2 ^ d) } else s

/-- A die enters a stage. -/
def State.enter (s : State) (d stage : Nat) : State := s.setDie d { s.die d with stage, stageAt := s.now }

/-- The die is in a stage of a bring-up that goes on. -/
def State.inStage (s : State) (d stage : Nat) : Bool :=
  s.powered && !s.tripped && !s.halted && !s.ready && d < Config.dies && (s.die d).stage == stage

/-- Every die is in a stage. -/
def State.allIn (s : State) (stage : Nat) : Bool := (List.range Config.dies).all fun d => s.inStage d stage

/-- POWER_GOOD: every die's control core 0 starts its boot ROM. A thermal trip that no power cycle has cleared keeps the package off
(R23). -/
def execPowerGood (s : State) : Out :=
  s.when (!s.tripped && (List.range Config.dies).all fun d => (s.die d).stage == 0) fun s =>
    (List.range Config.dies).foldl (fun s d => s.enter d 1) { s with powered := true, windowAt := s.now }

/-- Nanoseconds from the start of a stage to its limit. -/
def stageLimit (stage : Nat) : Nat :=
  1000000 * match stage with
    | 1 => 10
    | 2 => 100
    | 3 => 50
    | 4 => 20
    | 5 => 400
    | 6 => 500
    | 7 => 200
    | _ => 100

/-- The stage of a die has overrun its limit. -/
def State.late (s : State) (d : Nat) : Bool :=
  let x := s.die d
  1 ≤ x.stage && s.inStage d x.stage && x.stage ≤ 8 && decide (stageLimit x.stage < s.now - x.stageAt)

/-- A stage that has overrun its limit fails (R25). -/
def State.overrun (s : State) (d : Nat) : State := if s.late d then s.fail d 0x07 else s

/-- STAGE_LIMIT_EXCEEDED, on die `die`. -/
def execStageLimitExceeded (s : State) : Out := .next (s.overrun s.inp.die)

/-- A stage of a die ends within its limit, or fails by it. -/
def State.endStage (s : State) (d stage : Nat) (go : State → State) : Out :=
  s.when (s.inStage d stage) fun s => if s.late d then s.fail d 0x07 else go s

/-! ### Stage 0x2: the image (R24) -/

def State.flashBytes (s : State) (a n : Nat) : List Byte := (List.range n).map fun i => tabGet 0 s.flash (a + i)
def State.flashLe (s : State) (a n : Nat) : Nat := leVal (s.flashBytes a n)

/-- The header of a slot as the package keeps it. -/
def State.header (s : State) (slot : Nat) : Image :=
  let h := slot * 2 ^ 25
  { pkgnum := BitVec.ofNat 16 (s.flashLe (h + 0x1C) 2), placed := s.flashLe (h + 0x1E) 1, mgmt := BitVec.ofNat 8 (s.flashLe (h + 0x1F) 1)
    version := BitVec.ofNat 64 (s.flashLe (h + 8) 8), rollver := BitVec.ofNat 64 (s.flashLe (h + 0x10) 8), ok := true }

/-- Why a slot's image fails stage 0x2, if it does. A slot that breaks a rule of code 0x01 and whose VERSION lies below the rollback
counter fails with 0x01. (DESIGN CHOICE: assumption 50.) -/
def State.imageError (s : State) (slot : Nat) : Option Byte :=
  let h := slot * 2 ^ 25
  let i := s.header slot
  let len := s.flashLe (h + 0x18) 4
  let key := s.flashLe (h + 0x20) 1
  let pub := s.flashBytes (h + 0x40) 57
  let digest := if key = 0 then s.fuses.digest0 else s.fuses.digest1
  let revoked := if key = 0 then s.fuses.revoked0 else s.fuses.revoked1
  if s.flashLe h 4 != 0x4B464731 || s.flashLe (h + 4) 2 != 1 || i.version.toNat < i.rollver.toNat || len % 4096 != 0 || len < 4096
      || 2 ^ 25 - 4096 < len || i.pkgnum == 0xFFFF || i.placed < 4 || 21 < i.placed || 1 < key || revoked
      || shake256 64 pub != digest
      || !ed448 pub (s.flashBytes h 0x80 ++ s.flashBytes (h + 0x1000) len) (s.flashBytes (h + 0x80) 114) then some 0x01
  else if i.version.toNat < s.fuses.rollback.toNat then some 0x02
  else none

/-- The slot that boots, or the code of the first error. (DEDUCED: assumption 50.) -/
def State.bootSlot (s : State) : Except Byte Nat :=
  match s.imageError 0, s.imageError 1 with
  | none, _ => .ok 0
  | _, none => .ok 1
  | some e, some _ => .error e

/-- IMAGE_VERIFY, on die `die`: from stage 0x1 it begins stage 0x2; in stage 0x2 it checks slot A, then slot B. -/
def execImageVerify (s : State) : Out :=
  let d := s.inp.die
  if s.inStage d 1 then s.endStage d 1 fun s => s.enter d 2
  else
    s.endStage d 2 fun s =>
      match s.bootSlot with
      | .error e => s.fail d e
      | .ok slot =>
        let s := (s.setDie d { s.die d with slot }).enter d 3
        if d = 0 then { s with image := s.header slot } else s

/-! ### Stages 0x3 to 0x8 -/

/-- Memory contents and poison marks of a physical range go. -/
def State.clearRange (s : State) (lo n : Nat) : State :=
  { s with mem := tabClear s.mem lo (lo + n), poison := tabClear s.poison (lo / 128) ((lo + n) / 128) }

/-- SHEET_SELF_CALIBRATE, on die `die`; `ok` says whether it passes. The split follows PLACED (R11). -/
def execSheetSelfCalibrate (s : State) : Out :=
  let d := s.inp.die
  s.endStage d 3 fun s => if s.inp.ok then (s.clearRange (sheetBase + d * 2 ^ 30) (2 ^ 30)).enter d 4 else s.fail d 0x03

/-- D2D_LINK_TRAIN, on die `die`; `ok` says whether its links train. The die reports to die 0, which compares the slots. -/
def execD2dLinkTrain (s : State) : Out :=
  let d := s.inp.die
  s.endStage d 4 fun s =>
    if (s.die 0).stage < 3 then s
    else if !s.inp.ok then s.fail d 0x06
    else if (s.die d).slot != (s.die 0).slot then s.fail d 0x0A
    else s.enter d 5

/-- The highest rate at which no channel fails; otherwise a channel that fails at the lowest. -/
def trainRate (bads : List (List Nat)) : Except Nat Nat :=
  match (List.range 3).find? fun r => (bads.getD r []).isEmpty with
  | some r => .ok r
  | none => .error ((bads.getD 2 []).headD 0)

/-- LPDDR_TRAIN: all dies together; `bads` lists the channels of the package that fail at each rate, from the highest, and `temp` is
the channels' temperature. -/
def execLpddrTrain (s : State) : Out :=
  s.when (s.allIn 5) fun s =>
    match (List.range Config.dies).find? s.late with
    | some d => s.fail d 0x07
    | none =>
    match trainRate s.inp.bads with
    | .error ch => s.fail (ch / 48 % 4) 0x04
    | .ok r =>
      (List.range Config.dies).foldl (fun s d =>
        let s := s.setDie d { s.die d with trained := (List.range 48).foldl (fun t c => tabSet 0 t c s.inp.temp) [] }
        s.enter d 6) { s with rate := r }

/-- LPDDR_INIT, on die `die`: zeroes with valid codes; `ok` says whether the readback finds no uncorrectable error (R15). -/
def execLpddrInit (s : State) : Out :=
  let d := s.inp.die
  s.endStage d 6 fun s =>
    let s := s.clearRange (lpddrBase + d * lpddrSize) lpddrSize
    if s.inp.ok then s.enter d 7 else s.fail d 0x05

/-! ### Capabilities (R70, R71) -/

/-- Where a capability's entry lies: entry `k` of the list. -/
def State.capAddr (s : State) (k : Nat) : Nat := s.capPa.toNat + 16 * k

/-- The list written whole. -/
def State.writeCaps (s : State) : State :=
  let n := s.caps.length
  s.caps.zipIdx.foldl (fun s c =>
    s.wrBytes (s.capAddr c.2) (leBytes 2 c.1.id.toNat ++ leBytes 2 c.1.version.toNat
      ++ leBytes 4 (if c.2 + 1 < n then 16 * (c.2 + 1) else 0) ++ leBytes 8 c.1.payload.toNat)) s

/-- Where a capability's payload lies, when it is in the list. -/
def State.capPayloadAt (s : State) (id : BitVec 16) : Option Nat :=
  (s.caps.findIdx? fun (c : Cap) => c.id = id).map fun k => s.capAddr k + 8

/-- A live payload replaced by one write (R71). -/
def State.setCap (s : State) (id : BitVec 16) (v : Nat) : State :=
  match s.capPayloadAt id with
  | some pa => s.wrLe pa 8 v
  | none => s

/-- Capability 0x0004: trained root ports with a device. -/
def State.writeCxlCap (s : State) : State :=
  s.setCap 4 (s.cxl.foldr (fun p n => 2 * n + if p.trained && p.devices != 0 then 1 else 0) 0)

/-- NDENATH_LINK_TRAIN, on die `die`: `mask` names the ports whose links train. Once die 0 has built the capability list, firmware
writes the ports that come up there too (R71). -/
def execNdenathLinkTrain (s : State) : Out :=
  let d := s.inp.die
  s.endStage d 7 fun s =>
    let s := { s with fabUp := s.fabUp ||| s.inp.mask }.enter d 8
    s.setCap 5 s.fabUp.toNat

/-- The points at which some die runs. -/
def State.pointCap (s : State) : Nat :=
  (List.range 5).foldl (fun n k => if s.diesList.any fun d => d.point = k then n + 2 ^ k else n) 0

/-- The capabilities of a package as firmware builds them. The spec numbers no version: every entry has version 1. (DESIGN CHOICE:
assumption 60.) -/
def State.buildCaps (s : State) (f : FwBoot) : List Cap :=
  let c (id : BitVec 16) (v : Nat) : Cap := { id, version := 1, payload := BitVec.ofNat 64 v }
  [c 1 (0x4B01 * 2 ^ 48 + 0x0F01 * 2 ^ 32 + f.stepping.toNat * 2 ^ 16 + s.image.pkgnum.toNat), c 2 f.recordBox.toNat,
   c 3 (s.image.placed + s.rate * 2 ^ 8), c 4 0, c 5 s.fabUp.toNat, c 6 f.expansion.toNat,
   c 7 (Config.overflowLog + Config.holding * 2 ^ 32), c 8 s.pointCap, c 9 f.ctxTable.toNat]
    ++ f.services.map fun x => c x.1 x.2.toNat

/-- The context table afresh: context 0 alone, with every queue granted (R412). -/
def State.writeContexts (s : State) (f : FwBoot) : State :=
  let s := { s with ctxBase := f.ctxTable, mem := tabClear s.mem f.ctxTable.toNat (f.ctxTable.toNat + 32 * Config.contexts) }
  s.wrBytes f.ctxTable.toNat (leBytes 8 0 ++ leBytes 8 f.rootPa.toNat ++ leBytes 8 1 ++ leBytes 8 (2 ^ 64 - 1))

/-- Two ranges of bytes do not meet. -/
def apart (a n b m : Nat) : Bool := a + n ≤ b || b + m ≤ a

/-- Memory whose initialisation at bring-up is over: sheet memory once its die has passed stage 0x3, LPDDR-6 once it has passed 0x6. -/
def State.settled (s : State) (pa : Nat) : Bool :=
  if inLpddr pa then 7 ≤ (s.die (lpddrDie pa)).stage else 4 ≤ (s.die (sheetDie pa)).stage

/-- A range of memory that firmware can build in during stage 0x8. -/
def State.buildable (s : State) (pa n : Nat) : Bool := s.backedRange pa n && s.settled pa && s.settled (pa + n - 1)

/-- What die 0's firmware builds obeys R12, R54, R71, R127 and R412: the context table in the fixed area, ROOT one of the translation
tables that it builds and that walkers can read, at most 256 capabilities with services of their own identifiers, all of it
in memory that no die still has to initialise, and the tables, the contexts, the capabilities and the log apart from one another. -/
def State.fwBuilds (s : State) (f : FwBoot) : Bool :=
  let ctx := f.ctxTable.toNat
  let log := (f.logBase.getD 0 0).toNat
  let caps := 16 * (9 + f.services.length)
  (f.tables.any fun t => t.1 ≤ f.rootPa.toNat && f.rootPa.toNat + 4096 ≤ t.1 + t.2.length)
    && apart f.capPa.toNat caps ctx (32 * Config.contexts) && apart f.capPa.toNat caps log (64 * Config.logRecords)
    && apart ctx (32 * Config.contexts) log (64 * Config.logRecords)
    && (f.tables.all fun t =>
      apart t.1 t.2.length ctx (32 * Config.contexts) && apart t.1 t.2.length f.capPa.toNat caps && apart t.1 t.2.length log (64 * Config.logRecords))
    &&
  s.inFixed 0 f.ctxTable.toNat (32 * Config.contexts) && f.ctxTable.toNat % 32 == 0
    && f.rootPa.toNat % 4096 == 0 && (inLpddr f.rootPa.toNat || (s.inSheet f.rootPa.toNat && sheetOff f.rootPa.toNat < s.ordMax / 2 * mib2))
    && (f.tables.all fun t => s.buildable t.1 t.2.length)
    && f.capPa.toNat % 16 == 0 && s.buildable f.capPa.toNat (16 * (9 + f.services.length))
    && f.services.length + 9 ≤ 256 && (f.services.map (·.1)).Nodup
    && (f.services.all fun x => 0x8000 ≤ x.1.toNat && x.1.toNat ≤ 0xFFFE)

/-- The exceptions that an S-mode runtime can serve, and the registers that give it the interrupts and the counters. -/
def delegated : Dword := 0xF8B5FF

/-- A hart as firmware leaves it at stage 0x8 (R52): control core 3 in M-mode; control cores 0 to 2 in S-mode, with the exceptions and the
supervisor interrupts delegated to the runtime and an M-mode handler for the rest. (DESIGN CHOICE: assumption 61.) -/
def Hart.booted (h : Hart) (k : Nat) (entry vector : Dword) : Hart :=
  let h := { h with pc := entry, mtvec := vecBase vector }
  if k = 3 then { h with mode := .m }
  else
    { h with
      mode := .s, medeleg := delegated
      csrs := tabSet 0 (tabSet 0 h.csrs 0x303 0x222) 0x306 0xFFFFFFFF }

/-- FIRMWARE_SERVICES_START, on die `die`: the die's log, which lies in its fixed area (R12, R127), its sheet registers, and its harts,
which leave the boot ROM (R52); on die 0 also the translation tables of the runtime, the context table and the capability
list. `fw` says where firmware puts them. (DESIGN CHOICE: assumption 61.) -/
def execFirmwareServicesStart (s : State) : Out :=
  let d := s.inp.die
  let f := s.inp.fw
  let base := f.logBase.getD d 0
  s.endStage d 8 fun s =>
    if s.inFixed d base.toNat (64 * Config.logRecords) && (d != 0 || s.fwBuilds f) then
      let s := s.setDie d { s.die d with
        stage := 9, stageAt := s.now, logBase := base, ordSize := BitVec.ofNat 9 (s.ordMax / 2), ordPending := none }
      let s := (List.range Config.harts).foldl (fun s k =>
        s.setHart (d * Config.harts + k) ((s.hart (d * Config.harts + k)).booted k (f.entries.getD k 0) (f.vectors.getD k 0))) s
      if d = 0 then
        let s := f.tables.foldl (fun s t => s.wrBytes t.1 t.2) s
        let s := s.writeContexts f
        { s with capPa := f.capPa, capVa := f.capVa, caps := s.buildCaps f }.writeCaps
      else s
    else s

/-- READY_SET (R26). -/
def execReadySet (s : State) : Out := s.when (s.allIn 9) fun s => { s with ready := true, readyAt := s.now, windowAt := s.now }

/-- The booted image raises the rollback counter (R24). -/
def State.raiseDue (s : State) : Bool := s.ready && s.image.mgmt.getLsbD 1 && decide (s.fuses.rollback.toNat < s.image.rollver.toNat)

def State.raiseRollback (s : State) : State :=
  if s.raiseDue then { s with fuses := { s.fuses with rollback := s.image.rollver } } else s

/-- ROLLBACK_RAISE (R24). -/
def execRollbackRaise (s : State) : Out := .next s.raiseRollback

/-- The field records reach non-volatile storage (R29). -/
def State.flushRecords (s : State) : State := { s with fieldSaved := s.fieldNow, flushedAt := s.now }

/-- COOLANT_OUT_OF_RANGE, on die `die`. After READY it records nothing: the spec gives it an effect at bring-up alone. (DESIGN
CHOICE: assumption 62.) -/
def execCoolantOutOfRange (s : State) : Out :=
  let d := s.inp.die
  s.when (s.powered && !s.ready && (s.die d).stage != 0) fun s => s.fail d 0x09

/-- A die is at a temperature: at 115 degrees a thermal trip occurs. Without power nothing of the package runs on (R23). -/
def State.tripAt (s : State) (d temp : Nat) : State :=
  if s.powered && !s.tripped && 115 ≤ temp then { s.fail d 0x08 with tripped := true } else s

/-- THERMAL_TRIP: die `die` is at `temp` degrees. -/
def execThermalTrip (s : State) : Out := .next (s.tripAt s.inp.die s.inp.temp)

/-! ### Resets (R28, R29) -/

/-- CXL memory after a warm reset: any of its bytes, listed or not, may hold another value (R28). (DESIGN CHOICE: assumption 2.) -/
def State.loseCxl (s : State) : State :=
  (Config.freeCells s.fresh).foldl (fun s c => if inCxl c.1 then s.wr c.1 c.2 else s) s

/-- The state that a reset leaves: what does not change is the flash, the fuses, the field records, the CXL devices and the
model's own clock and schedule. A range whose device was removed stays removed, over a power cycle too, and whatever decoder covers it
then. (DESIGN CHOICE: assumption 100.) -/
def State.wiped (s : State) : State :=
  { State.reset with
    now := s.now, sched := s.sched, fresh := s.fresh, inp := s.inp, fuses := s.fuses, flash := s.flash, fieldNow := s.fieldNow
    fieldSaved := s.fieldSaved, flushedAt := s.flushedAt, removed := s.removed, powered := s.powered, tripped := s.tripped }

/-- A warm reset: all work stops, and bring-up restarts at stage 0x2. The memories keep their bytes until bring-up clears them;
the ports' links stay. -/
def State.warmReset (s : State) : State :=
  let t := { s.wiped with warm := true, windowAt := s.now, poison := s.poison, eth := s.eth.map fun (p : EthPort) => { up := p.up }, mem := s.mem }
  (List.range Config.dies).foldl (fun s d => s.enter d 2) t.loseCxl

/-- A warm reset is possible: the package has power. -/
def State.canReset (s : State) : Bool := s.powered && !s.tripped && s.lowStage != 0

/-- RESET_REGISTER_WRITE: a control core writes `v`. -/
def execResetRegisterWrite (s : State) : Out := s.when (s.canReset && s.inp.v.getLsbD 0) State.warmReset

/-- POWER_LOSS: all work ends; the field records fall back to the last flush (R29). -/
def execPowerLoss (s : State) : Out :=
  .next { s.wiped with powered := false, tripped := false, fieldNow := s.fieldSaved }

/-! ### The management responder (R20) -/

def State.ethPort (s : State) (p : Nat) : EthPort := s.eth.getD p {}
def State.setEth (s : State) (p : Nat) (x : EthPort) : State := { s with eth := s.eth.set p x }

/-- Bytes of a frame: header of 14, a tag of 4, the payload. Its frame check sequence does not count. (DESIGN CHOICE: assumption 63.) -/
def frameSize (f : EthFrame) : Nat := 14 + (if f.tag.isSome then 4 else 0) + f.payload.length

/-- A frame for the responder: a longer one than a port takes is dropped and counted instead (R19). -/
def mgmtFrame (f : EthFrame) : Bool := f.etherType = 0x88B5 && decide (frameSize f ≤ Config.maxFrame)

/-- What a management frame asks for: 1 a query, 2 a warm reset, 0 nothing. -/
def mgmtCode (f : EthFrame) : Nat :=
  if mgmtFrame f then
    (match f.payload with
     | 0 :: 0 :: 0 :: 1 :: _ => 1
     | 0 :: 0 :: 0 :: 2 :: _ => 2
     | _ => 0)
  else 0

/-- The eight bytes of a reply, most significant first. -/
def beBytes (x : Dword) : List Byte := (leBytes 8 x.toNat).reverse

/-- The responder is up: its link is, and stage 0x1 has begun. -/
def State.mgmtUp (s : State) : Bool := s.powered && (s.ethPort 0).up && s.lowStage != 0

/-- MGMT_QUERY: the frame `frame` arrives on port 0; the reply goes to its source. Its own source address is the query's destination,
and it carries the query's tag. (DESIGN CHOICE: assumption 63.) -/
def execMgmtQuery (s : State) : Out :=
  let f := s.inp.frame
  s.when (s.mgmtUp && mgmtCode f == 1) fun s =>
    let p := s.ethPort 0
    s.setEth 0 { p with replies := p.replies ++
      [{ srcMac := f.dstMac, dstMac := f.srcMac, tag := f.tag, etherType := 0x88B5, payload := beBytes s.statusWord }] }

/-- MGMT_WARM_RESET: honoured when the verified image permits it. Die 0 verifies the image whose header this is; another die may still
be in stage 0x2 then. (DESIGN CHOICE: assumption 63.) -/
def execMgmtWarmReset (s : State) : Out :=
  s.when (s.mgmtUp && mgmtCode s.inp.frame == 2 && s.canReset && s.image.ok && s.image.mgmt.getLsbD 0) State.warmReset

/-- MGMT_DROP: a management frame with another payload has no effect. -/
def execMgmtDrop (s : State) : Out := .next s

/-! ### Die-to-die links (R10) -/

/-- Two dies name a link: they are different dies of the package. -/
def isLink (a b : Nat) : Bool := a != b && a < Config.dies && b < Config.dies

/-- The number of a link, whichever of its dies names it. -/
def linkKey (a b : Nat) : Nat := min a b * 4 + max a b

/-- The link between two dies has failed 64 consecutive retries. -/
def State.linkDead (s : State) (a b : Nat) : Bool := isLink a b && decide (64 ≤ tabGet 0 s.retries (linkKey a b))

/-- D2D_RETRY: a packet between dies `die` and `peer` was not delivered, and is retried; `ok` says that it now is. After 64 consecutive
retries that did not deliver it there is no further one. -/
def execD2dRetry (s : State) : Out :=
  let k := linkKey s.inp.die s.inp.peer
  .next (
    if !isLink s.inp.die s.inp.peer || s.linkDead s.inp.die s.inp.peer then s
    else { s with retries := tabSet 0 s.retries k (if s.inp.ok then 0 else tabGet 0 s.retries k + 1) })

/-- The fatal record of an end that names no team (R68), in the log of the launch's die. (DESIGN CHOICE: assumption 80.) -/
def State.fatalNone (s : State) (h : Word) (cause : Nat) (info : Dword) : State :=
  s.log (h.toNat / 2 ^ 30) { kind := 1, handle := h, id := logId (s.launch h).ctx 0 0 0 0, code := BitVec.ofNat 32 cause, info }

/-- Handles of the running launches. -/
def State.runningLaunches (s : State) : List Word := (s.launches.filter fun p => p.2.state = .running).map fun p => p.2.handle

/-- TINFO2 of UNCORRECTABLE (R238). -/
def errorInfo (source die unit relaunches : Nat) : Dword :=
  BitVec.ofNat 64 (source * 2 ^ 56 + die % 4 * 2 ^ 54 + unit % 256 * 2 ^ 46 + relaunches % 4 * 2 ^ 44)

/-- A launch ends with UNCORRECTABLE and no consuming team (R236, R238, R242). -/
def State.endUnattributed (s : State) (h : Word) (info : Dword) : State :=
  ((s.fatalNone h 0x15 info).endLaunch h 0x15 0).countLive (.uncorrectableEnds (h.toNat / 2 ^ 30))

/-- A die-to-die link has failed: code 0x06, and after READY the end of every running launch (R10). A link fails once. -/
def State.linkFails (s : State) (a b : Nat) : State :=
  let lo := min a b
  let hi := max a b
  if s.powered && s.linkDead a b && !s.links.contains (lo, hi) then
    let s := { s with links := s.links ++ [(lo, hi)] }.fail a 0x06
    if s.ready then
      let s := (s.dieError lo).dieError hi
      s.runningLaunches.foldl (fun s h => s.endUnattributed h (errorInfo 8 lo hi 0)) s
    else s
  else s

/-- DIE_LINK_FAILURE of the link between `die` and `peer`, after 64 consecutive retries. -/
def execDieLinkFailure (s : State) : Out := .next (s.linkFails s.inp.die s.inp.peer)

/-- The links of the package. -/
def allLinks : List (Nat × Nat) := [(0, 1), (0, 2), (0, 3), (1, 2), (1, 3), (2, 3)]

/-! ### What has happened by a time -/

/-- A change of point that has taken 20 µs is done (R22), and capability 0x0008 is written (R71). -/
def State.changeDone (s : State) (d : Nat) : State :=
  let s := s.setDie d { s.die d with changing := none }
  s.setCap 8 s.pointCap

def State.changesDone (s : State) : State :=
  (List.range Config.dies).foldl (fun s d =>
    match (s.die d).changing with
    | some t => if t ≤ s.now then s.changeDone d else s
    | none => s) s

/-- What hardware and firmware have done by now, whenever they did it: a link past its retries has failed (R10), a change of point has
ended within 20 µs (R22), a stage past its limit has failed (R25), the rollback counter is raised within 1 s after READY
(R24), the field records are flushed every 60 s (R29). Without power, after a trip and in stage 0xF time forces none of it. (DEDUCED:
assumption 56.) -/
def State.deadlines (s : State) : State :=
  let s := allLinks.foldl (fun s l => s.linkFails l.1 l.2) s
  let s := (List.range Config.dies).foldl State.overrun s.changesDone
  let s := if 1000000000 ≤ s.now - s.readyAt then s.raiseRollback else s
  if s.ready && 60000000000 ≤ s.now - s.flushedAt then s.flushRecords else s

/-- LPDDR_DQ_RETRAIN: channel `idx` of die `die` has moved to `temp` degrees. Accesses to it wait meanwhile, and no value changes. -/
def execLpddrDqRetrain (s : State) : Out :=
  let d := s.inp.die
  let x := s.die d
  let old := tabGet 0 x.trained s.inp.idx
  s.when (s.ready && 10 ≤ max old s.inp.temp - min old s.inp.temp && s.inp.idx < 48) fun s =>
    s.setDie d { x with trained := tabSet 0 x.trained s.inp.idx s.inp.temp }

end Sys2Proof.Machine
end

