-- ==== Sys2Proof/Machine/Control.lean ====
section
/-! DEFINITION. The control group (spec/13_isa_integer_control_lanes.md R293 to R298, spec/05_cores_and_execution.md R97,
R98). -/
namespace Sys2Proof.Machine

/-- The run moves on: lanes of `m` to the PCs given, the others to PC + 8. -/
def State.jump (s : State) (m : Lanes) (pc : Nat → Dword) : State :=
  let g := (s.cur.advance (s.iss.run &&& ~~~m)).setPcs (s.iss.run &&& m) pc
  (s.setCur g).markIssued

/-- The run moves on, but the lanes of `w` stand where they are. -/
def State.advanceBut (s : State) (w : Lanes) : State := (s.setCur (s.cur.advance (s.iss.run &&& ~~~w))).markIssued

/-- PC + 8 × SignExtend(BOFF). -/
def boffTarget (pc : Dword) (boff : BitVec 20) : Dword := pc + 8 * boff.signExtend 64

/-- A control word whose active lanes have an effect on the state. -/
def State.runB (s : State) (n : Needs) (act : State → Lanes → State) : Out :=
  .next (s.runX n noFault fun s m => some (act s m))

/-- `BRA`. -/
def execBra (f : XB) (s : State) : Out :=
  s.runB { guard := f.guard } fun s m => s.jump m fun _ => boffTarget s.iss.pc f.boff

/-- `BRX`. -/
def execBrx (f : XB) (s : State) : Out :=
  s.runB { guard := f.guard, regs := pairRegs f.breg, reads := pairRegs f.breg } fun s m =>
    s.jump m fun l => s.cur.v64 l f.breg.toNat

/-- `CALL`. -/
def execCall (f : XB) (s : State) : Out :=
  s.runB { guard := f.guard, regs := pairRegs f.breg } fun s m =>
    (s.setCur (s.cur.setReg64 f.breg.toNat m fun _ => s.iss.pc + 8)).jump m fun _ => boffTarget s.iss.pc f.boff

/-- `CALLX` reads its target before it writes its link (R294). -/
def execCallx (f : XB) (s : State) : Out :=
  let t : BitVec 8 := f.boff.setWidth 8
  s.runB { guard := f.guard, regs := pairRegs f.breg ++ pairRegs t, reads := pairRegs t } fun s m =>
    (s.setCur (s.cur.setReg64 f.breg.toNat m fun _ => s.iss.pc + 8)).jump m fun l => s.cur.v64 l t.toNat

/-- `RET` has exactly the effect of `BRX` (R294). -/
def execRet (f : XB) (s : State) : Out :=
  s.runB { guard := f.guard, regs := pairRegs f.breg, reads := pairRegs f.breg } fun s m =>
    s.jump m fun l => s.cur.v64 l f.breg.toNat

/-- The lanes leave for good, and leave every mask (R97, R98). -/
def Group.exitLanes (g : Group) (m : Lanes) : Group :=
  { g with
    exited := g.exited ||| m
    masks := g.masks.map fun k => { enrolled := k.enrolled &&& ~~~m, arrived := k.arrived &&& ~~~m } }

/-- The lanes that execute an `EXIT` are the group's last. -/
def Group.lastExit (g : Group) (m : Lanes) : Bool := m != 0 && g.exited ||| m == allLanes

/-- `EXIT`: an unknown outcome is delivered first, so the last lanes wait until no request's outcome is open (R42); the last
lane ends the group (R97, R219). (DEDUCED: assumption 36.) An `EXIT` of other lanes leaves the group its pass. (DESIGN CHOICE: assumption
81.) -/
def execExit (f : XB) (s : State) : Out :=
  .next (s.runX { guard := f.guard, deliver := true } noFault fun s m =>
    if s.cur.lastExit m && !s.cur.outs.isEmpty then none
    else
      let s := s.advanceBut m
      let s := s.setCur (s.cur.exitLanes m).releaseMasks
      some (if s.cur.exited = allLanes && m != 0 then s.endGroup s.iss.gid else s))

/-- `YIELD` (R295). -/
def execYield (f : XB) (s : State) : Out :=
  s.runB { guard := f.guard } fun s m =>
    let s := s.advance
    if m = 0 then s
    else
      let n := s.cur.slot
      let s := s.setSlot n { s.slot n with expired := true }
      { s with iss := { s.iss with yielded := s.cur.split } }

/-- `JOIN`. -/
def execJoin (f : XB) (s : State) : Out :=
  let k := f.mask.toNat
  s.runB { guard := f.guard } fun s m =>
    let s := s.advance
    let x := s.cur.mask k
    s.setCur ((s.cur.setMask k { x with enrolled := x.enrolled ||| m }).releaseMask k)

/-- `LEAVE`. -/
def execLeave (f : XB) (s : State) : Out :=
  let k := f.mask.toNat
  s.runB { guard := f.guard } fun s m =>
    let s := s.advance
    let x := s.cur.mask k
    s.setCur ((s.cur.setMask k { enrolled := x.enrolled &&& ~~~m, arrived := x.arrived &&& ~~~m }).releaseMask k)

/-- `WAITM`: a waiting lane's PC stays at it until R98's release. -/
def execWaitm (f : XB) (s : State) : Out :=
  let k := f.mask.toNat
  s.runB { guard := f.guard } fun s m =>
    let x := s.cur.mask k
    let w := m &&& x.enrolled
    let s := s.advanceBut w
    s.setCur (((s.cur.setMask k { x with arrived := x.arrived ||| w }).waitAt k w).releaseMask k)

/-- `MKRD` (R296). -/
def execMkrd (f : XB) (s : State) : Out :=
  let d := f.breg.toNat
  s.runB { guard := f.guard, regs := pairRegs f.breg } fun s m =>
    let x := s.cur.mask f.mask.toNat
    (s.setCur ((s.cur.setReg d m fun _ => x.enrolled).setReg (d + 1) m fun _ => x.arrived)).advance

/-- `MKWR` (R296). -/
def execMkwr (f : XB) (s : State) : Out :=
  let k := f.mask.toNat
  s.runB { guard := f.guard, regs := pairRegs f.breg, reads := pairRegs f.breg } fun s m =>
    let s := s.advance
    match lowestLane m with
    | none => s
    | some j =>
      let g := s.cur
      let x := g.mask k
      let e : Lanes := (g.v64 j f.breg.toNat).setWidth 32
      s.setCur (((g.goOn k (x.arrived &&& ~~~e)).setMask k { enrolled := e, arrived := x.arrived &&& e }).releaseMask k)

/-- `NOP`. -/
def execNop (f : XB) (s : State) : Out := s.runB { guard := f.guard } fun s _ => s.advance

/-- `BRK` (R297). -/
def execBrk (f : XB) (s : State) : Out :=
  .next (s.runX { guard := f.guard }
    (fun m => if m = 0 then none else some { cause := 0x18, lanes := m, info := f.boff.setWidth 64 })
    fun s _ => some (s.advance))

/-- `TRAP` (R297). -/
def execTrap (f : XB) (s : State) : Out :=
  let r := f.breg.toNat
  .next (s.runX { guard := f.guard, regs := [r], reads := [r] }
    (fun m =>
      (lowestLane m).map fun j =>
        { cause := 0x19, lanes := m, info := f.boff.setWidth 64 <<< 32 ||| (s.cur.v j r).setWidth 64 })
    fun s _ => some (s.advance))

end Sys2Proof.Machine
end

