-- ==== Sys2Proof/Machine/Convert.lean ====
section
/-! DEFINITION. The conversion block (spec/14_isa_float_and_blocks.md R310 to R317): conversions, planes in registers, and
dual-exponent blocks. -/
namespace Sys2Proof.Machine

/-- `FCVT` (R311): with `.rsh` each lane rounds with the key in its registers C to C + 3. -/
def execFcvt (f : TF) (s : State) : Out :=
  let m := f.mod.toNat
  .next (s.runT 0x070 f fun _ a _ _ l =>
    shaped (Shape.tShape 0x070 m f.rnd.toNat) (cvtOp 0x070 m (s.rndOf f.rnd l f.sc.toNat 0) (a l)))

def execFcvti (f : TF) (s : State) : Out :=
  let m := f.mod.toNat
  .next (s.runLane 0x071 f fun a _ _ => shaped (Shape.tShape 0x071 m f.rnd.toNat) (cvtOp 0x071 m { code := f.rnd.toNat } a))

def execIcvtf (f : TF) (s : State) : Out :=
  let m := f.mod.toNat
  .next (s.runLane 0x072 f fun a _ _ => shaped (Shape.tShape 0x072 m f.rnd.toNat) (cvtOp 0x072 m { code := f.rnd.toNat } a))

/-- Plane `j` of an element of `bits` bits (R172). -/
def planeOf (bits x j : Nat) : Nat := x / 2 ^ (bits - 16 * (j + 1)) % 2 ^ 16

/-- `PLSPLIT` (R314): plane j of the rounded value to register D + j. -/
def execPlsplit (f : TF) (s : State) : Out :=
  let m := f.mod.toNat
  let F := fmtOf (m % 4)
  let k := m / 4 + 1
  .next (s.runLane 0x073 f fun a _ _ =>
    let r := planeRound F k { code := f.rnd.toNat } (a.toNat % 2 ^ F.bits)
    { words := (List.range k).map fun j => BitVec.ofNat 32 (planeOf F.bits r.1 j), flags := r.2 })

/-- `PLJOIN` (R315): planes 0 to K − 1 from the low halves of registers A to A + K − 1. -/
def execPljoin (f : TF) (s : State) : Out :=
  let m := f.mod.toNat
  let F := fmtOf (m % 4)
  let k := m / 4 + 1
  .next (s.runT 0x074 f fun _ a _ _ l =>
    let plane (j : Nat) : Nat := (if k = 1 then a l else (s.cur.v l (f.sa.toNat + j)).setWidth 64).toNat % 2 ^ 16
    let x := (List.range k).foldl (fun x j => x + plane j * 2 ^ (F.bits - 16 * (j + 1))) 0
    shaped (Shape.tShape 0x074 m 0) (BitVec.ofNat 64 x, 0))

/-- Row word `w` of plane `j` of a block (R316). -/
def rowWord (b : DeBlock) (j w : Nat) : Nat :=
  (List.range 8).foldl (fun x e =>
    let d := b.elems.getD (8 * w + e) ⟨false, false, 0⟩
    x + deNibble d.s d.sel d.m (deBits b.planes) j * 16 ^ e) 0

/-- `BPACK` (R316, R180): the header in D, and in D + 1 the lane's nibbles or a row word. The flags are the pack's. -/
def execBpack (f : TF) (s : State) : Out :=
  let m := f.mod.toNat
  let planes := deStored (m % 4)
  let F := if m / 4 % 2 = 1 then f64 else f32
  .next (s.runT 0x075 f fun act a b _ =>
    let j := (lowestLane act).getD 0
    let n := min ((b j).toNat % 2 ^ 32) 32
    let xs := (List.range 32).map fun i =>
      if act.getLsbD i && i < n then some (fdecode F ((a i).toNat % 2 ^ F.bits)) else none
    let blk := dePack xs planes fun i => s.rndOf f.rnd j f.sc.toNat i
    fun l =>
    let d := blk.elems.getD l ⟨false, false, 0⟩
    let w :=
      if m / 8 = 0 then deWord d.s d.sel d.m blk.planes
      else if l < 4 * blk.planes then rowWord blk (l / 4) (l % 4) else 0
    { words := [BitVec.ofNat 32 blk.header, BitVec.ofNat 32 w], flags := blk.flags })

/-- `BUNPK` (R317). -/
def execBunpk (f : TF) (s : State) : Out :=
  let m := f.mod.toNat
  let F := if m / 8 = 1 then f64 else f32
  .next (s.runLane 0x076 f fun a b _ =>
    let (neg, n, e) := deValue (a.toNat % 2 ^ 18) (b.toNat % 2 ^ 16) (m % 4 + 1) (m / 4 % 2 == 1)
    shaped (Shape.tShape 0x076 m 0) (BitVec.ofNat 64 (fround F { code := 0 } (.fin neg n e)).1, 0))

end Sys2Proof.Machine
end

