-- ==== Sys2Proof/Machine/Accept.lean ====
section
/-! DEFINITION. The launch units: the record, acceptance and refusal, the handle table, the launch results and status
(spec/03_control_cores_and_launch.md R54 to R65, R414, spec/10_determinism_and_reliability.md R225). -/
namespace Sys2Proof.Machine

/-! ### A launch unit's memory (R414) -/

/-- The place that a launch unit reaches: CA is not tested; a write needs W. -/
def State.unitPlace (s : State) (die : Nat) (ctx : BitVec 16) (va : Dword) (write : Bool) (k : Nat) : Option Place :=
  match s.translate die ctx va k with
  | .leaf level e => if 2 ^ 56 ≤ va.toNat || (write && !pteW e) then none else some (leafPlace level e va)
  | _ => none

/-- The unit's access leaves the package. -/
def State.unitFar (s : State) (p : Place) : Bool := p.kind = 2 && p.pkg != s.image.pkgnum

/-- One byte that a launch unit reads: on a page of another package a free value, and none where the line holds no value or nothing backs
the address. (DEDUCED: assumption 33.) -/
def State.unitByte (s : State) (die : Nat) (ctx : BitVec 16) (va : Dword) (k : Nat) : Option Byte :=
  (s.unitPlace die ctx va false k).bind fun p =>
    if s.unitFar p then some ((s.freeBits (k * 64 + va.toNat % 64)).setWidth 8)
    else if s.poisoned p.pa || s.isRemoved p.pa || !s.backedRange p.pa 1 then none else some (s.rd p.pa)

/-- Bytes that a launch unit reads, each on its own page. -/
def State.unitRead (s : State) (die : Nat) (ctx : BitVec 16) (va : Dword) (n k : Nat) : Option Nat :=
  ((List.range n).mapM fun i => s.unitByte die ctx (va + BitVec.ofNat 64 i) k).map leVal

/-- A launch unit's write of `n` bytes within one page, when the page allows it. One to another package, or to an address that nothing
backs, changes nothing here. (DEDUCED: assumption 33.) -/
def State.unitWrite (s : State) (die : Nat) (ctx : BitVec 16) (va : Dword) (n x k : Nat) : Option State :=
  (s.unitPlace die ctx va true k).map fun p => if s.unitFar p || s.isRemoved p.pa || !s.backedRange p.pa n then s else s.wrLe p.pa n x

/-! ### The record (R59, R60) -/

/-- The fields of a record of 64 bytes. -/
def launchOfRecord (r : Nat) : Launch :=
  let f (byte bit n : Nat) : Nat := r / 2 ^ (8 * byte + bit) % 2 ^ n
  let lease := f 0x28 16 7
  let wd := f 0x2C 0 32
  { entry := BitVec.ofNat 64 (f 0 0 56), param := BitVec.ofNat 64 (f 8 0 64), handler := BitVec.ofNat 64 (f 0x10 0 64)
    done := BitVec.ofNat 64 (f 0x18 0 64), teams := f 0x20 0 24, groups := f 0x24 24 6, regs := f 0x24 20 4, cw := f 0x24 16 4
    ch := f 0x24 12 4, scratch := f 0x24 0 8, prio := f 0x28 29 3, queue := f 0x28 23 6, lease := if lease = 0 then 16 else lease
    migratable := f 0x28 2 1 = 1, relaunch := f 0x28 1 1 = 1, determ := f 0x28 0 1 = 1
    watchdog := if wd = 0 then 1000000 else wd
    deps := ((List.range 4).map fun i => BitVec.ofNat 32 (f (0x30 + 4 * i) 0 32)).filter (· != 0) }

/-- The fields that R60 accepts. -/
def Launch.fieldsOk (l : Launch) : Bool :=
  let addr (a : Dword) : Bool := a.toNat % 8 = 0 && a.toNat < 2 ^ 56
  l.teams != 0 && l.groups != 0 && l.groups ≤ 32 && l.cw != 0 && l.cw ≤ 12 && l.ch != 0 && l.ch ≤ 12 && l.cw * l.ch ≤ 12
    && l.teams % (l.cw * l.ch) == 0 && l.scratch ≤ 192 && l.lease ≤ 64 && addr l.entry && addr l.handler && addr l.done
    && (l.groups + 3) / 4 * 16 * (l.regs + 1) ≤ 2048 && l.deps.all fun h => h.toNat / 2 ^ 4 % 2 ^ 26 != 0

/-! ### The handle table (R57, R62) -/

def handleDie (h : Word) : Nat := h.toNat / 2 ^ 30
def handleSeq (h : Word) : Nat := h.toNat % 2 ^ 30

/-- The entries of a die's handle table. -/
def State.handleTable (s : State) (die : Nat) : List Launch :=
  (s.launches.filter fun p => handleDie p.2.handle = die && p.2.state != .none).map (·.2)

/-- A launch that has not ended. -/
def Launch.open' (l : Launch) : Bool := l.state != .ended && l.state != .none

/-- A sequence number that R57 and R45 keep from being issued: in use, its release notices not acknowledged, or acknowledged
less than 1 ms ago. -/
def State.seqBusy (s : State) (die n : Nat) : Bool :=
  let h : Word := BitVec.ofNat 32 (die * 2 ^ 30 + n)
  (s.launch h).open' || (s.releases.any fun r => r.handle = h) || s.retired.any fun p => p.1 = h && s.now < p.2 + 1000000

/-- The next sequence number, from `n`, with wrap to 0x10. -/
def State.nextSeq (s : State) (die : Nat) : Nat → Nat → Nat
  | 0, n => n
  | fuel + 1, n => if s.seqBusy die n then s.nextSeq die fuel (if n = 0x3FFFFFFF then 0x10 else n + 1) else n

/-- Room in a die's handle table: the entry of the launch that ended earliest is dropped when the table is full of entries; an
acceptance looks its dependences up after that. (DESIGN CHOICE: assumption 84.) -/
def State.handleRoom (s : State) (die : Nat) : Option State :=
  let t := s.handleTable die
  if t.length < Config.handles then some s
  else
    match (t.filter fun l => l.state = .ended) with
    | [] => none
    | l :: ls =>
      let old := ls.foldl (fun o x => if x.endedAt < o.endedAt then x else o) l
      some (s.setLaunch old.handle {})

/-- The answer of a dependence's unit, as soon as it can give it: 0 for a handle in no table, the cause of a launch that has ended (R62). -/
def State.depAnswer (s : State) (d : Word) : Option Nat :=
  match (s.launch d).state with
  | .none => some 0
  | .ended => some (s.launch d).cause
  | _ => none

/-! ### Acceptance (R56, R57) -/

/-- The address of the determinism report, when it can be used (R225). -/
def State.reportAddr (s : State) (die : Nat) (ctx : BitVec 16) (param : Dword) : Dword :=
  match s.unitRead die ctx (param + 0x10) 8 0x100 with
  | none => 0
  | some a =>
    let a : Dword := BitVec.ofNat 64 a
    if a.toNat % 16 = 0 && (s.unitPlace die ctx a true 0x101).isSome then a else 0

/-- A launch enters, or is refused for the first reason of R57: the result. -/
def State.accept (s : State) (die : Nat) (ctx : BitVec 16) (va : Dword) : State × Word :=
  if !s.ctxValid ctx then (s, 4)
  else if va.toNat % 64 != 0 then (s, 1)
  else
    match s.unitRead die ctx va 64 0x102 with
    | none => (s, 1)
    | some r =>
      let l := launchOfRecord r
      if !l.fieldsOk then (s, 2)
      else if !s.ctxGrant ctx l.queue then (s, 6)
      else
        let own := l.queue % Config.dies
        match s.handleRoom own with
        | none => (s, 5)
        | some t =>
          let q := tabGet [] s.queues l.queue
          if Config.queueDepth ≤ q.length then (s, 3)
          else
            let n := t.nextSeq own (Config.handles * 2 + t.releases.length + t.retired.length + 1) (t.die own).nextSeq
            let h : Word := BitVec.ofNat 32 (own * 2 ^ 30 + n)
            let t := t.setDie own { t.die own with nextSeq := if n = 0x3FFFFFFF then 0x10 else n + 1 }
            let report := if l.determ then t.reportAddr own ctx l.param else 0
            let answers := l.deps.filterMap fun d => (t.depAnswer d).map fun c => (d, c)
            let t := t.setLaunch h { l with state := .queued, handle := h, ctx, accepted := t.fresh, report, answers }
            ({ t with queues := tabSet [] t.queues l.queue (q ++ [h]) }, h)

/-! ### Cancel, pre-emption and status (R58, R64, R65) -/

/-- Whether a handle is in the table of the die that it names. -/
def State.known (s : State) (h : Word) : Bool := (s.launch h).state != .none

/-- `kln.cancel`: 0 cancelled, 1 already ended, 2 unknown. (DEDUCED: assumption 35.) -/
def State.cancel (s : State) (h : Word) : State × Dword :=
  let l := s.launch h
  match l.state with
  | .none => (s, 2)
  | .queued | .running => (s.endLaunch h 0xFE 0, 0)
  | .ending | .ended => (s, 1)

/-- A placed cluster begins its pre-emption: its groups stop at their next instruction boundary (R86). -/
def State.beginPreempt (s : State) (ck : Nat) : State :=
  let c := s.cluster ck
  if c.state = .placed then
    let s := s.setCluster ck { c with state := .saving }
    ((s.teamsOf ck).flatMap s.groupsOf).foldl (fun s g =>
      if (s.group g).live then (s.setGroup g { s.group g with stopped := true }).closePass g else s) s
  else s

/-- `kln.preempt`: 0 began, 1 not resident, 2 unknown; a team that has ended is not resident, whatever its cluster is. (DEDUCED: assumption
34.) -/
def State.preempt (s : State) (h : Word) (team : Nat) : State × Dword :=
  let l := s.launch h
  if l.state = .none || l.teams ≤ team then (s, 2)
  else
    let t := s.team (teamKey h team)
    if t.resident && !t.ended then (s.beginPreempt t.ck, 0) else (s, 1)

/-- The completion word (R63). -/
def completionWord (h : Word) (cause team : Nat) : Dword := BitVec.ofNat 64 (h.toNat * 2 ^ 32 + cause % 256 * 2 ^ 24 + team % 2 ^ 24)

/-- `kln.status` (R65). -/
def State.status (s : State) (h : Word) : Dword :=
  let l := s.launch h
  match l.state with
  | .none => 0
  | .queued => completionWord h 0xFD 0
  | .running => completionWord h 0xFC 0
  | .ending => completionWord h (if l.dispatched = 0 then 0xFD else 0xFC) 0
  | .ended => completionWord h l.cause l.team

end Sys2Proof.Machine
end

