-- ==== Sys2Proof/Machine/Hold.lean ====
section
/-! DEFINITION. The holding buffer of a slice, its overflow log, and the drain of a launch's held updates
(spec/10_determinism_and_reliability.md R221 to R224). -/
namespace Sys2Proof.Machine

/-- The order of R221: address, team, group, lane, serial. -/
def HeldOp.key (e : HeldOp) : List Nat := [e.pa, e.team, e.group, e.lane, e.serial.toNat]

/-- Lexicographic order of equally long lists. -/
def listLt : List Nat → List Nat → Bool
  | a :: as, b :: bs => a < b || (a == b && listLt as bs)
  | _, _ => false

def HeldOp.before (a b : HeldOp) : Bool := listLt a.key b.key

/-- An entry placed in a list that is in order. -/
def holdPut (e : HeldOp) : List HeldOp → List HeldOp
  | [] => [e]
  | a :: t => if e.before a then e :: a :: t else a :: holdPut e t

/-- The entries of lists that are in order, in order. -/
def holdMerge (ls : List (List HeldOp)) : List HeldOp := ls.flatten.foldl (fun acc e => holdPut e acc) []

/-- The launch of an entry, with its package. -/
def HeldOp.owner (e : HeldOp) : BitVec 16 × Word := (e.src, e.launch)

/-- The launches of a list of entries, in ascending order of handle. -/
def holdLaunches (l : List HeldOp) : List (BitVec 16 × Word) :=
  ((l.map HeldOp.owner).eraseDups).foldl (fun acc x =>
    (acc.takeWhile fun y => y.2.toNat ≤ x.2.toNat) ++ [x] ++ acc.dropWhile fun y => y.2.toNat ≤ x.2.toNat) []

/-- Live entries of a log. -/
def logLive (l : List (List HeldOp)) : Nat := (l.map List.length).sum

/-- The entries of a launch leave an owner. -/
def Owner.dropHeld (o : Owner) (k : BitVec 16 × Word) : Owner :=
  { o with
    hold := o.hold.filter fun e => e.owner != k
    log := (o.log.map fun r => r.filter fun e => e.owner != k).filter fun r => !r.isEmpty }

/-- A launch loses its held updates, which is counted (R242); one of this package ends with DETERMINISM at an update (R223). -/
def State.holdFails (s : State) (o : Nat) (e : HeldOp) : State :=
  let s := (s.setOwner o ((s.owner o).dropHeld e.owner)).countLive (.logFull o)
  if e.src = s.image.pkgnum then
    let gid := groupKey (teamKey e.launch e.team) e.group
    let s := s.log (o / Config.slices)
      { kind := 1, handle := e.launch, id := s.logIdOf gid, code := 0x11, addr := BitVec.ofNat 64 e.pa }
    s.endLaunch e.launch 0x11 e.team
  else s

/-- A run of one launch goes to the log, when it fits: its entries count as spilled (R222, R223). (DEDUCED: assumption 55.) -/
def State.spillRun (s : State) (o : Nat) (k : BitVec 16 × Word) : State :=
  let x := s.owner o
  let run := x.hold.filter fun e => e.owner = k
  match run with
  | [] => s
  | e :: _ =>
    if Config.overflowLog < logLive x.log + run.length then s.holdFails o e
    else
      let s := s.setOwner o { x with hold := x.hold.filter fun e => e.owner != k, log := x.log ++ [run] }
      let s := s.countLive (.spills o) run.length
      if k.1 = s.image.pkgnum then s.setLaunch k.2 { s.launch k.2 with spills := (s.launch k.2).spills + run.length } else s

/-- One insertion into the buffer of owner `o` (R222): a full buffer is written to the log first; when the log cannot take its
entries, the launch of the update loses everything and the others go on (R223). -/
def State.holdInsert (s : State) (o : Nat) (e : HeldOp) : State :=
  let x := s.owner o
  if x.hold.length < Config.holding then s.setOwner o { x with hold := holdPut e x.hold }
  else if logLive x.log + x.hold.length ≤ Config.overflowLog then
    let s := (holdLaunches x.hold).foldl (fun s k => s.spillRun o k) s
    s.setOwner o { s.owner o with hold := holdPut e (s.owner o).hold }
  else
    let s := s.holdFails o e
    (holdLaunches (s.owner o).hold).foldl (fun s k => s.spillRun o k) s

/-- One held update applied: memory and its flags. On a line in error it takes the bytes that the line holds, consumes nothing, and leaves the
mark. (DESIGN CHOICE: assumption 99.) -/
def State.applyHeld (s : State) (e : HeldOp) : State × Flags :=
  let n := if e.w64 then 8 else 4
  let r := atomApply e.code.toNat e.w64 e.signed e.rnd.toNat (s.rdLe e.pa n) (e.operand.toNat % 2 ^ (8 * n)) 0
  (s.memWrite e.pa (leBytes n r.1), r.2)

/-- Drain(L) at owner `o` for a launch of package `src`: applied, or discarded when the launch ends with another cause (R224). -/
def State.drainHeld (s : State) (o : Nat) (src : BitVec 16) (h : Word) (apply : Bool) : State :=
  let x := s.owner o
  let mine (l : List HeldOp) : List HeldOp := l.filter fun e => e.owner = (src, h)
  let seq := if apply then holdMerge (x.log.map mine ++ [mine x.hold]) else []
  let r := seq.foldl (fun (p : State × Flags) e =>
    let q := p.1.applyHeld e
    (q.1, p.2 ||| q.2)) (s, 0)
  let s := r.1.setOwner o ((r.1.owner o).dropHeld (src, h))
  if src = s.image.pkgnum then
    let l := s.launch h
    s.setLaunch h { l with held := l.held + seq.length, flags := l.flags ||| r.2.setWidth 6 }
  else s

end Sys2Proof.Machine
end

