-- ==== Sys2Proof/Machine/Serve.lean ====
section
/-! DEFINITION. What an owner does for one lane of a request (spec/02_fabric_and_exactly_once.md R36, R49,
spec/10_determinism_and_reliability.md R222, R237, spec/15_isa_memory_atomics_sync.md R331 to R335,
spec/17_isa_tiles_updates_system.md R379, R380 to R382). -/
namespace Sys2Proof.Machine

/-! ### Optimiser updates (R379) -/

/-- The planes of an element, plane 0 first, and the element of planes. -/
def planesOf (F : Fmt) (v : Nat) : List Nat := (List.range (F.bits / 16)).map fun j => v / 2 ^ (F.bits - 16 * (j + 1)) % 2 ^ 16
def planesVal (ps : List Nat) : Nat := ps.foldl (fun x p => x * 2 ^ 16 + p) 0

/-- A rounding step into another format. -/
def calcTo (F : Fmt) (mode : Rnd) (x : FVal) : Calc Nat := dpStep false (fround F mode x)

/-- The new weight and moments of one lane; the arguments are the values before. -/
def optStep (adam : Bool) (F : Fmt) (mode : Rnd) (p : OptParams) (w g m v : FVal) : Calc (Nat × Nat × Nat) := do
  let d (x : Dword) : Nat := x.toNat
  let w64 ← calcTo f64 rne w
  let g64 ← calcTo f64 rne g
  if adam then
    let m64 ← calcTo f64 rne m
    let v64 ← calcTo f64 rne v
    let b1 ← dpSub false dpOne (d p.beta1)
    let b1g ← dpMul false b1 g64
    let m1 ← dpFma false (d p.beta1) m64 b1g
    let m2 ← calcTo f32 rne (dpVal m1)
    let b2 ← dpSub false dpOne (d p.beta2)
    let gg ← dpMul false g64 g64
    let b2g ← dpMul false b2 gg
    let v1 ← dpFma false (d p.beta2) v64 b2g
    let v2 ← calcTo f32 rne (dpVal v1)
    let vc ← dpMul false (← calcTo f64 rne (fdecode f32 v2)) (d p.c2)
    let sq ← dpSqrt false vc
    let den ← dpAdd false sq (d p.eps)
    let mc ← dpMul false (← calcTo f64 rne (fdecode f32 m2)) (d p.c1)
    let q ← dpDiv false mc den
    let u ← dpFma false (d p.lambda) w64 q
    let r ← dpStep false (ffmaV F mode (dpVal (dpNeg (d p.eta))) (dpVal u) (dpVal w64))
    return (r, m2, v2)
  else
    let u ← dpFma false (d p.lambda) w64 g64
    let r ← dpStep false (ffmaV F mode (dpVal (dpNeg (d p.eta))) (dpVal u) (dpVal w64))
    return (r, 0, 0)

/-- One lane's update of the planes that it names, and its flags. -/
def optApply (adam wide : Bool) (rnd : BitVec 3) (p : OptParams) (old : List Nat) (ws : List Word) : List Nat × Flags :=
  let F := if wide then f64 else f32
  let n := F.bits / 16
  let mode : Rnd := { code := rnd.toNat, hash := hashBits (optVa ws) p.step p.seed }
  let val (G : Fmt) (k : Nat) : FVal := fdecode G (planesVal ((old.drop k).take (G.bits / 16)))
  let g := fdecode F (wordsVal (ws.take (F.bits / 32)))
  match (optStep adam F mode p (val F 0) g (val f32 n) (val f32 (n + 2))).result 0 with
  | (some (w, m, v), fl) => (planesOf F w ++ if adam then planesOf f32 m ++ planesOf f32 v else [], fl)
  | (none, fl) => (old, fl)

/-- One lane's update in memory. -/
def State.optLane (s : State) (adam wide : Bool) (rnd : BitVec 3) (p : OptParams) (pa : Nat) (ws : List Word) : State × Flags :=
  let at' (j : Nat) : Nat := pa + j * optStride ws
  let x := optApply adam wide rnd p ((List.range (optPlanes adam wide)).map fun j => s.rdLe (at' j) 2) ws
  (x.1.zipIdx.foldl (fun s q => s.memWrite (at' q.2) (leBytes 2 q.1)) s, x.2)

/-! ### Counted lines (R49, R380 to R382) -/

/-- Element `e` of a contribution. -/
def lineElem (w : Word) (ws : List Word) (e : Nat) : Nat :=
  if lineWide w then (ws.getD e 0).toNat + 2 ^ 32 * (ws.getD (32 + e) 0).toNat else (ws.getD e 0).toNat

/-- The operation of a line as an atomic's code. -/
def lineCode (w : Word) : Nat :=
  match lineOp w with
  | 0 => if lineFp w then 0x08 else 0x00
  | 1 => if lineFp w then 0x09 else 0x04
  | 2 => if lineFp w then 0x0A else 0x05
  | n => n - 2

/-- The slots combined in ascending order: elements and flags. -/
def lineCombine (w : Word) (rnd : BitVec 3) (slots : List (List Nat)) : List Nat × Flags :=
  match slots with
  | [] => ([], 0)
  | a :: rest =>
    rest.foldl (fun p b =>
      let r := atomvApply (lineCode w) (lineWide w) (lineType w < 2) rnd.toNat p.1 b
      (r.1, p.2 ||| r.2)) (a, 0)

/-- The declaration at an address. -/
def Owner.lineAt (o : Owner) (pa : Nat) : Option CLine := o.lines.find? fun l => l.pa = pa

/-- `CLINE` at its owner: the status. -/
def State.declareLine (s : State) (o pa : Nat) (w gen : Word) (rnd : BitVec 3) : State × Word :=
  let x := s.owner o
  match x.lineAt pa with
  | some l => (s, if l.word = w && l.gen = gen && l.rnd = rnd then 1 else 3)
  | none =>
    if Config.countedLines ≤ x.lines.length then (s, 2)
    else
      (s.setOwner o { x with lines := x.lines ++ [{ pa, word := w, gen, rnd, slots := List.replicate (lineSlots w) none, error := false }] }, 0)

/-- A contribution fills its slot, and completes the line with the last one. -/
def State.contribute (s : State) (o pa slot : Nat) (ws : List Word) : State × Flags :=
  let x := s.owner o
  match x.lineAt pa with
  | none => (s, 0)
  | some l =>
    let others := x.lines.filter fun y => y.pa != pa
    let put (l : CLine) : State := s.setOwner o { x with lines := others ++ [l] }
    if lineSlots l.word ≤ slot || ((l.slots.getD slot none).isSome) then (put { l with error := true }, 0)
    else
      let v : List Dword := (List.range (lineElems l.word)).map fun e => BitVec.ofNat 64 (lineElem l.word ws e)
      let l := { l with slots := l.slots.set slot (some v) }
      if l.slots.all Option.isSome then
        let r := lineCombine l.word l.rnd (l.slots.map fun v => (v.getD []).map BitVec.toNat)
        let n := if lineWide l.word then 8 else 4
        let s := s.setOwner o { x with lines := others }
        let s := s.memWrite (pa + 0x10) (r.1.flatMap fun v => leBytes n v)
        (s.memWrite pa (leBytes 8 ((l.gen + 1).toNat + if l.error then 2 ^ 63 else 0)), r.2)
      else (put l, 0)

/-! ### One lane of a request -/

/-- Bytes of a range on poisoned lines, or of a removed device. -/
def State.rangeBad (s : State) (pa n : Nat) : Bool :=
  (rangeLines (pa, n)).any fun l => s.poisoned (l * 128) || s.isRemoved (l * 128)

/-- A lane whose bytes lie on a poisoned line is not executed (R237). -/
def State.laneBad (s : State) (op : OwnerOp) (r : LaneRec) : Bool := (opRanges op r.pa.toNat r.data).any fun x => s.rangeBad x.1 x.2

/-- A request to an address with nothing behind it is discarded whole (R132). (DESIGN CHOICE: assumption 68.) -/
def State.reaches (s : State) (p : Packet) : Bool :=
  p.recs.all fun r => (opRanges p.op r.pa.toNat r.data).all fun x => s.backedRange x.1 x.2

/-- A request that nothing answers but a busy reply: a contribution without a live declaration (R382). -/
def State.opBusy (s : State) (p : Packet) : Bool :=
  match p.op with
  | .ccon _ => p.recs.any fun r => !s.laneBad p.op r && ((s.owner p.owner).lineAt r.pa.toNat).isNone
  | _ => false

/-- One lane executed at owner `p.owner`: the words that it returns and its flags. -/
def State.serveLane (s : State) (p : Packet) (r : LaneRec) : State × List Word × Flags :=
  let pa := r.pa.toNat
  let rmwOf (n : Nat) (ret : Bool) : State × List Word × Flags :=
    let old := s.rdLe pa n
    let x := rmwApply p.op old r.data
    (s.memWrite pa (leBytes n x.1), if ret then valWords (n / 4) old else [], x.2)
  match p.op with
  | .load n sg => (s, loadWords n sg (s.rdLe pa n), 0)
  | .store n => (s.memWrite pa (leBytes n (wordsVal r.data)), [], 0)
  | .stores n _ =>
    ((storesOf (storeWords n) r.data.length r.data).foldl (fun s x => s.memWrite (pa + x.1) (leBytes n x.2)) s, [], 0)
  | .atom _ w _ _ => rmwOf (if w then 8 else 4) true
  | .red code w sg rnd held =>
    if held then
      (s.holdInsert p.owner
        { src := p.src, launch := p.lhandle, pa, code, w64 := w, signed := sg, rnd, operand := BitVec.ofNat 64 (wordsVal r.data)
          team := p.key.toNat / 2 ^ 8 % 2 ^ 24, group := p.key.toNat / 2 ^ 3 % 2 ^ 5, lane := r.lane, serial := p.serial
          ctx := BitVec.ofNat 16 (p.key.toNat / 2 ^ 32), va := r.va }, [], 0)
    else rmwOf (if w then 8 else 4) false
  | .atomv _ _ _ _ l ret => rmwOf (if l then 32 else 16) ret
  | .opt adam wide rnd _ par =>
    let x := s.optLane adam wide rnd par pa r.data
    (x.1, [], x.2)
  | .ccon slot =>
    let x := s.contribute p.owner pa slot r.data
    (x.1, [], x.2)
  | .cline w gen mode =>
    let x := s.declareLine p.owner pa w gen mode
    (x.1, [x.2], 0)
  | .launch ctx va =>
    let x := s.accept (p.owner - 64) ctx va
    (x.1, [x.2], 0)

end Sys2Proof.Machine
end

