-- ==== Sys2Proof/Machine/Owner.lean ====
section
/-! DEFINITION. The owners: flits and packets received, requests answered from the result cache or executed once, release
notices, restarts (spec/02_fabric_and_exactly_once.md R31 to R36, R43 to R46, spec/10_determinism_and_reliability.md R222,
R237, spec/17_isa_tiles_updates_system.md R381). -/
namespace Sys2Proof.Machine

/-! ### Packets (R32 to R35; the payload's layout beyond R413 is assumption 7) -/

/-- The payload's bytes. -/
def packetPayload (p : Packet) : List Byte :=
  (p.recs.flatMap fun r => leBytes 6 r.pa.toNat ++ leBytes 2 r.check.toNat)
    ++ (p.recs.flatMap fun r => r.data.flatMap fun w => leBytes 4 w.toNat) ++ p.bytes

/-- The header's value (R33). -/
def packetHeader (p : Packet) : Nat :=
  p.dst.toNat * 2 ^ 368 + p.src.toNat * 2 ^ 352 + p.kind.toNat * 2 ^ 348 + (if p.retx then 2 ^ 347 else 0)
    + (packetPayload p).length % 2 ^ 13 * 2 ^ 331 + p.age % 2 ^ 11 * 2 ^ 320 + p.lhandle.toNat * 2 ^ 288 + p.key.toNat * 2 ^ 240
    + p.serial.toNat * 2 ^ 208 + p.ackpt.toNat * 2 ^ 176 + p.incarn.toNat * 2 ^ 160 + p.addr.toNat * 2 ^ 112 + p.opchk.toNat * 2 ^ 96
    + p.lanes.toNat * 2 ^ 64 + p.oper.toNat * 2 ^ 32

/-- The CRC-32C of a packet. -/
def packetCrc (p : Packet) : Word := BitVec.ofNat 32 (crc32c (leBytes 48 (packetHeader p) ++ packetPayload p))

/-- The step that handles a packet of each kind. -/
def packetStep (p : Packet) : Option Instr :=
  match p.kind.toNat with
  | 0 =>
    match p.op with
    | .cline _ _ _ => some .clineRequest
    | _ => some .loadRequest
  | 1 => some .loadReply
  | 2 => some .watermarkedRequest
  | 3 => some .resultReply
  | 4 => some (if p.alone then .releaseNoticeLaunchEnd else .releaseNotice)
  | 5 => some .busyReply
  | 6 => some .unknownReply
  | 7 => some .copyWriteChunk
  | 8 => some .copyReadRequest
  | 9 => some .copyAck
  | _ => none

/-- FLIT_RECEIVE on port `port`: the flit that ends packet `pkt`, with the symbol errors of its two codewords. The packet goes on to
the step that handles it, unless the flit cannot be corrected, or the packet fails its CRC, is of a reserved kind, is
older than 250 µs, or is for no package or another one. -/
def execFlitReceive (s : State) : Out :=
  let i := s.inp
  let p := i.pkt
  .next (
    if !s.fabUp.getLsbD i.port || 4 < i.errs0 || 4 < i.errs1 then s
    else if i.crc != packetCrc p then s.count (.crcFail i.port)
    else if Config.maxAge < p.age || p.dst = 0xFFFF then s
    else
      match packetStep p with
      | none => s.count .discarded
      | some e => if p.dst = s.image.pkgnum && p.src != s.image.pkgnum then { s with sched := .event e i :: s.sched } else s)

/-- A packet of the package's own that is too old (R35). -/
def packetAged (p : Packet) (now : Nat) : Bool := decide (p.sent + us Config.maxAge < now)

/-- A packet taken in hand: one of the package's own leaves the list of those in flight; one of another package comes from
the fabric. It is discarded when it is for no package or too old (R35). (DESIGN CHOICE: assumption 58.) -/
def State.takePacket (s : State) (p : Packet) : Option State :=
  if p.dst != s.image.pkgnum || p.dst = 0xFFFF || Config.maxAge < p.age then none
  else if p.src = s.image.pkgnum then (if s.net.contains p && !packetAged p s.now then some { s with net := s.net.erase p } else none)
  else some s

/-- A step on the packet `pkt`, when it is of the kind and can be taken. -/
def State.onPacket (s : State) (kind : BitVec 4) (go : Packet → State → State) : Out :=
  let p := s.inp.pkt
  .next (
    if p.kind != kind then s
    else
      match s.takePacket p with
      | some t => go p t
      | none => s)

/-- A reply to a request. -/
def State.reply (s : State) (p : Packet) (kind : BitVec 4) : Packet :=
  { Packet.zero with
    dst := p.src, src := s.image.pkgnum, kind, lhandle := p.lhandle, key := p.key, serial := p.serial, addr := p.addr
    incarn := (s.owner p.owner).incarn, owner := p.owner, op := p.op, oper := p.oper, lanes := p.lanes, gid := p.gid }

/-! ### The result cache (R43) -/

/-- A key as an owner compares it: reserved bits are ignored (R37). -/
def normKey (k : BitVec 48) : BitVec 48 := k &&& ~~~7

def DirRec.isOf (d : DirRec) (p : Packet) : Bool := d.src = p.src && d.handle = p.lhandle && d.key = normKey p.key
def Entry.isOf (e : Entry) (p : Packet) : Bool := e.src = p.src && e.handle = p.lhandle && e.key = normKey p.key

/-- Base entries that an entry takes: 1, 2 or 4 by the bytes that it returns for a lane. -/
def Entry.size (e : Entry) : Nat :=
  let n := e.recs.foldl (fun n r => max n (4 * r.2.2.1.length)) 0
  if n ≤ 8 then 1 else if n ≤ 16 then 2 else 4

def Owner.used (o : Owner) : Nat := (o.cache.map Entry.size).sum

/-- Base entries of a request's operation. -/
def opSize (op : OwnerOp) : Nat :=
  match op with
  | .atomv _ _ _ _ l true => if l then 4 else 2
  | _ => 1

def cacheRoom (owner : Nat) : Nat := if owner < 64 then Config.cacheEntries else Config.launchCacheEntries

/-- Entries of the packet's key that its floor has passed, and those that its newest serial has passed by more than 2³¹,
retire (R44, R45). -/
def Owner.retire (o : Owner) (p : Packet) : Owner :=
  match o.dir.find? fun d => d.isOf p with
  | none => o
  | some d =>
    { o with cache := o.cache.filter fun e => !(e.isOf p && (later d.floor e.serial || 2 ^ 31 < (d.newest - e.serial).toNat)) }

/-- The floor rises to the packet's ACKPT, and the entries that it passes retire. -/
def Owner.raise (o : Owner) (p : Packet) : Owner :=
  Owner.retire { o with dir := o.dir.map fun d => if d.isOf p && later p.ackpt d.floor then { d with floor := p.ackpt } else d } p

/-- The launch of a packet has ended: the mark stands for at most 500 µs (R45). -/
def Owner.endedFor (o : Owner) (now : Nat) (p : Packet) : Bool :=
  o.ended.any fun e => e.src = p.src && e.handle = p.lhandle && e.live && now < e.since + us 500

/-- An owner that answers. -/
def Owner.answers (o : Owner) : Bool :=
  match o.phase with
  | .silent _ _ _ => false
  | _ => true

def Owner.quarantined (o : Owner) (now : Nat) : Bool :=
  match o.phase with
  | .quarantine till => decide (now < till)
  | _ => false

/-! ### Watermarked requests (R44) -/

/-- The lanes of a list executed in ascending order: their records for the cache, and their flags. -/
def State.serveLanes (s : State) (p : Packet) : List LaneRec → State × List (Nat × BitVec 16 × List Word × Bool) × Flags
  | [] => (s, [], 0)
  | r :: rest =>
    let bad := s.laneBad p.op r
    let x := if bad then (s, [], 0) else s.serveLane p r
    let y := x.1.serveLanes p rest
    (y.1, (r.lane, r.check, x.2.1, bad) :: y.2.1, x.2.2 ||| y.2.2)

/-- The result reply of an entry for the lanes of a request (R43, R237): OPER[31] is set when a lane is poisoned. -/
def State.resultOf (s : State) (p : Packet) (kind : BitVec 4) (e : Entry) : Packet :=
  let mine := e.recs.filter fun r => p.recs.any fun q => q.lane = r.1
  let bad := lanesOf fun l => mine.any fun r => r.1 = l && r.2.2.2
  { s.reply p kind with
    recs := mine.map fun r => { lane := r.1, pa := 0, check := r.2.1, data := r.2.2.1, va := 0 : LaneRec }
    flags := e.flags, bad, oper := if bad = 0 then p.oper else p.oper ||| 0x80000000 }

/-- Lanes of a held request that the cache answers count in the launch's DUPS (R222). -/
def State.countDups (s : State) (p : Packet) (n : Nat) : State :=
  match p.op with
  | .red _ _ _ _ true =>
    if p.src = s.image.pkgnum then s.setLaunch p.lhandle { s.launch p.lhandle with dups := (s.launch p.lhandle).dups + n } else s
  | _ => s

/-- The bytes that a request's lanes store, piece by piece. -/
def storePieces (op : OwnerOp) (rs : List LaneRec) : List (Nat × List Byte) :=
  match op with
  | .store n => rs.map fun r => (r.pa.toNat, leBytes n (wordsVal r.data))
  | .stores n _ =>
    rs.flatMap fun r => (storesOf (storeWords n) r.data.length r.data).map fun x => (r.pa.toNat + x.1, leBytes n x.2)
  | _ => []

/-- The request executes for the lanes `todo`, and its entry, new or extended, is inserted before its reply leaves. -/
def State.executeOnce (s : State) (p : Packet) (old : Option Entry) (todo : List LaneRec) : State :=
  let x := s.serveLanes p todo
  let x := (x.1.clearCovered (storePieces p.op (todo.filter fun r => !s.laneBad p.op r)), x.2)
  let e : Entry :=
    match old with
    | some e => { e with lanes := e.lanes ||| p.lanes, recs := e.recs ++ x.2.1, flags := e.flags ||| x.2.2.setWidth 6 }
    | none =>
      { src := p.src, handle := p.lhandle, key := normKey p.key, serial := p.serial, lanes := p.lanes, recs := x.2.1
        flags := x.2.2.setWidth 6, lost := false }
  let s := x.1
  let o := s.owner p.owner
  let s := s.setOwner p.owner
    { o with cache := (o.cache.filter fun y => !(y.isOf p && y.serial = p.serial)) ++ [e] }
  s.emit (s.resultOf p 3 e)

/-- R44, past the key directory. (DEDUCED: assumption 51.) -/
def State.lookup (s : State) (p : Packet) : State :=
  let o := s.owner p.owner
  match o.cache.find? fun e => e.isOf p && e.serial = p.serial with
  | some e =>
    let there (r : LaneRec) : Bool := e.recs.any fun x => x.1 = r.lane
    let todo := p.recs.filter fun r => !there r
    if e.lost then s.emit { s.reply p 6 with reason := 2 }
    else if p.recs.any fun r => e.recs.any fun x => x.1 = r.lane && x.2.1 != r.check then s.emit { s.reply p 6 with reason := 3 }
    else
      let s := s.countDups p (p.recs.length - todo.length)
      if todo.isEmpty then (s.countLive (.duplicates p.owner)).emit (s.resultOf p 3 e)
      else if o.quarantined s.now && p.retx then
        s.emit { s.resultOf p 6 e with reason := 2, lanes := lanesOf fun l => todo.any fun r => r.lane = l }
      else if cacheRoom p.owner ≤ o.used || s.opBusy { p with recs := todo } then s.emit (s.reply p 5)
      else s.executeOnce p (some e) todo
  | none =>
    if o.quarantined s.now && p.retx then s.emit { s.reply p 6 with reason := 2 }
    else if cacheRoom p.owner < o.used + opSize p.op || s.opBusy p then s.emit (s.reply p 5)
    else s.executeOnce p none p.recs

/-- R44 for a watermarked request. -/
def State.watermarked (s : State) (p : Packet) : State :=
  let o := s.owner p.owner
  if !o.answers || o.endedFor s.now p || !s.reaches p then s
  else
    let known := o.dir.any fun d => d.isOf p
    if !known && Config.directoryKeys ≤ o.dir.length then s.emit (s.reply p 5)
    else
      let o := if known then o else
        { o with dir := o.dir ++ [{ src := p.src, handle := p.lhandle, key := normKey p.key, floor := p.ackpt, newest := p.ackpt }] }
      let o := o.raise p
      let floor := ((o.dir.find? fun d => d.isOf p).map (·.floor)).getD 0
      if later floor p.serial then (s.setOwner p.owner o).countLive (.stale p.owner)
      else
        let o := { o with dir := o.dir.map fun (d : DirRec) => if d.isOf p && later p.serial d.newest then { d with newest := p.serial } else d }
        (s.setOwner p.owner (o.retire p)).lookup p

/-- WATERMARKED_REQUEST: the packet `pkt` reaches its owner. -/
def execWatermarkedRequest (s : State) : Out := s.onPacket 2 fun p s => s.watermarked p

/-! ### Loads and declarations (R41, R381) -/

/-- A load or a declaration, each time that it arrives. -/
def State.serveLoad (s : State) (p : Packet) : State :=
  if (s.owner p.owner).answers && s.reaches p then
    let x := s.serveLanes p p.recs
    x.1.emit (x.1.resultOf p 1
      { src := p.src, handle := p.lhandle, key := p.key, serial := p.serial, lanes := p.lanes, recs := x.2.1, flags := 0, lost := false })
  else s

/-- LOAD_REQUEST: the packet `pkt`. -/
def execLoadRequest (s : State) : Out :=
  s.onPacket 0 fun p s =>
    match p.op with
    | .load _ _ => s.serveLoad p
    | _ => s

/-- CLINE_REQUEST: the packet `pkt`. -/
def execClineRequest (s : State) : Out :=
  s.onPacket 0 fun p s =>
    match p.op with
    | .cline _ _ _ => s.serveLoad p
    | _ => s

/-! ### Release notices (R44, R45) -/

/-- RELEASE_NOTICE: the packet `pkt`, which carries KEY and ACKPT. -/
def execReleaseNotice (s : State) : Out :=
  s.onPacket 4 fun p s =>
    let o := s.owner p.owner
    if p.alone || !o.answers || o.endedFor s.now p then s else s.setOwner p.owner (o.raise p)

def EndMark.isOf (e : EndMark) (src : BitVec 16) (h : Word) : Bool := e.src = src && e.handle = h

/-- The entries, the directory records and the mark of an ended launch, at one owner. -/
def Owner.endLaunchOf (o : Owner) (src : BitVec 16) (h : Word) (now : Nat) : Owner :=
  { o with
    cache := o.cache.filter fun e => !(e.src = src && e.handle = h)
    dir := o.dir.filter fun d => !(d.src = src && d.handle = h)
    ended := (o.ended.filter fun e => !e.isOf src h) ++ [{ src, handle := h, since := now, live := true, last := now }] }

/-- Every owner slice and launch unit of the package. -/
def ownersAll : List Nat := List.range 68

/-- A mark by which a duplicate of the notice is known: the last notice is less than 750 µs old. No package reissues a handle so soon (R57). -/
def EndMark.fresh (e : EndMark) (now : Nat) : Bool := now < e.last + us 750

/-- A notice of a launch that some owner has marked already, and that has no record left: a duplicate, which changes nothing (R45). (DESIGN
CHOICE: assumption 83.) -/
def State.endedBefore (s : State) (src : BitVec 16) (h : Word) : Bool :=
  (ownersAll.any fun o => (s.owner o).ended.any fun e => e.isOf src h && e.fresh s.now)
    && ownersAll.all fun o => (s.owner o).dir.all fun d => !(d.src = src && d.handle = h)

/-- A launch has ended for every owner. -/
def State.ownersEnd (s : State) (src : BitVec 16) (h : Word) : State :=
  ownersAll.foldl (fun s o => s.setOwner o ((s.owner o).endLaunchOf src h s.now)) s

/-- A duplicate of a notice has come: its marks are known for longer, and in force no longer. -/
def State.ownersAgain (s : State) (src : BitVec 16) (h : Word) : State :=
  { s with owners := s.owners.map fun p => (p.1, { p.2 with
      ended := p.2.ended.map fun e => if e.isOf src h then { e with last := s.now } else e }) }

/-- Marks by which no duplicate is known any more go. -/
def Owner.forget (o : Owner) (now : Nat) : Owner := { o with ended := o.ended.filter fun e => e.fresh now }

/-- RELEASE_NOTICE_LAUNCH_END: the packet `pkt`, which carries LHANDLE alone; it is acknowledged, a duplicate too. While some owner
restarts, the notice is dropped, and comes again. -/
def execReleaseNoticeLaunchEnd (s : State) : Out :=
  s.onPacket 4 fun p s =>
    if p.alone && ownersAll.all fun o => (s.owner o).answers then
      (if s.endedBefore p.src p.lhandle then s.ownersAgain p.src p.lhandle else s.ownersEnd p.src p.lhandle).emit { s.reply p 9 with alone := true }
    else s

/-- LAUNCH_END_MARK_EXPIRY: owner `owner` forgets that launch `handle` of package `pkg` has ended, 250 µs after its notice or later; after
500 µs the mark is without force (see `Owner.endedFor`). -/
def execLaunchEndMarkExpiry (s : State) : Out :=
  let i := s.inp
  let o := s.owner i.owner
  .next (s.setOwner i.owner { o with
    ended := o.ended.map fun (e : EndMark) => if e.isOf i.pkg i.handle && e.since + us 250 ≤ s.now then { e with live := false } else e })

/-! ### Restarts (R46) -/

/-- OWNER_RESTART of owner `owner`: silent for 250 µs; `ok` says whether its backing is intact. A quarantine under way goes on after
it. -/
def execOwnerRestart (s : State) : Out :=
  let n := s.inp.owner
  let o := s.owner n
  .next (s.setOwner n { o with phase := match o.phase with
    | .serving => .silent (s.now + us 250) (!s.inp.ok) none
    | .quarantine t => .silent (s.now + us 250) (!s.inp.ok) (some t)
    | .silent _ lost q => .silent (s.now + us 250) (lost || !s.inp.ok) q })

/-- A restarting owner answers again: the next incarnation, with its cache and directory, or empty and in quarantine. -/
def Owner.restored (o : Owner) (now : Nat) : Owner :=
  match o.phase with
  | .silent _ lost q =>
    let o := { o with incarn := o.incarn + 1 }
    if lost then { o with cache := [], dir := [], phase := .quarantine (now + us 3500) }
    else { o with phase := match q with
      | some t => .quarantine t
      | none => .serving }
  | _ => o

/-- OWNER_RESTORE of owner `owner`. -/
def execOwnerRestore (s : State) : Out :=
  let n := s.inp.owner
  let o := s.owner n
  match o.phase with
  | .silent till _ _ => s.when (till ≤ s.now) fun s => s.setOwner n (o.restored s.now)
  | _ => .next s

/-- With its backing intact an owner answers 1 ms after its restart at the latest (R46). -/
def Owner.inTime (o : Owner) (now : Nat) : Owner :=
  match o.phase with
  | .silent till false _ => if till + us 750 ≤ now then o.restored now else o
  | _ => o

/-- QUARANTINE_END of owner `owner`. -/
def execQuarantineEnd (s : State) : Out :=
  let n := s.inp.owner
  let o := s.owner n
  match o.phase with
  | .quarantine till => s.when (till ≤ s.now) fun s => s.setOwner n { o with phase := .serving }
  | _ => .next s

/-! ### Copies that another package makes (R34, R36) -/

/-- Every owner of the addresses that a copy packet names answers, and there is memory behind them (R125). -/
def State.copyServed (s : State) (p : Packet) : Bool :=
  p.recs.all fun r => (s.owner (ownerOf r.pa.toNat 0)).answers && s.backedRange r.pa.toNat (r.data.headD 0).toNat

/-- The length of a piece. -/
def recLen (r : LaneRec) : Nat := (r.data.headD 0).toNat

/-- The pieces of a write chunk, with their bytes. -/
def writePieces : List LaneRec → List Byte → List (Nat × List Byte)
  | [], _ => []
  | r :: rs, bs => (r.pa.toNat, bs.take (recLen r)) :: writePieces rs (bs.drop (recLen r))

/-- COPY_WRITE_CHUNK: the packet `pkt` is written and acknowledged. -/
def execCopyWriteChunk (s : State) : Out :=
  s.onPacket 7 fun p s =>
    if s.copyServed p then
      let ps := writePieces p.recs p.bytes
      let s := (ps.foldl (fun s x => s.memWrite x.1 x.2) s).clearCovered ps
      s.emit { s.reply p 9 with copyId := p.copyId, chunk := p.chunk, oper := 7 }
    else s

/-- COPY_READ_REQUEST: the packet `pkt` is answered with its bytes; a piece on a poisoned line is named instead. -/
def execCopyReadRequest (s : State) : Out :=
  s.onPacket 8 fun p s =>
    if s.copyServed p then
      let ack := { s.reply p 9 with copyId := p.copyId, chunk := p.chunk, oper := 8 }
      match p.recs.find? fun r => s.rangeBad r.pa.toNat (recLen r) with
      | some r => s.emit { ack with recs := [r], bad := 1 }
      | none => s.emit { ack with recs := p.recs, bytes := p.recs.flatMap fun r => s.rdBytes r.pa.toNat (recLen r) }
    else s

end Sys2Proof.Machine
end

