-- ==== Sys2Proof/Machine/Requester.lean ====
section
/-! DEFINITION. What happens to a group's requests after their issue: replies, retransmissions, unknown outcomes, release
notices (spec/02_fabric_and_exactly_once.md R39 to R42, R45, spec/05_cores_and_execution.md R107,
spec/10_determinism_and_reliability.md R237). -/
namespace Sys2Proof.Machine

/-! ### Matching -/

/-- Requests of one operation at one owner that carry different lanes are told apart by them. -/
def OutReq.answeredBy (o : OutReq) (p : Packet) : Bool :=
  match o.packet.op with
  | .stores _ _ => p.lanes &&& ~~~o.lanes == 0
  | _ => true

/-- The outstanding request that a reply answers, with its group. A reply that finds none is discarded (R47). -/
def State.matchReply (s : State) (p : Packet) (wm : Bool) : Option (Nat × OutReq) :=
  let gid := keyGroup p.lhandle p.key
  ((s.group gid).outs.find? fun o =>
    o.serial = p.serial && o.opkg = p.src && o.owner = p.owner && o.watermarked = wm && !o.restored && o.answeredBy p).map fun o => (gid, o)

def OutReq.same (o q : OutReq) : Bool := o.seq = q.seq

/-- An operation whose last request is answered leaves its class, which retires in issue order (R355). -/
def Group.markRem (g : Group) (serial : Word) : Group :=
  if g.outs.any fun o => o.watermarked && o.serial = serial then g
  else
    let mark (l : List RemOp) : List RemOp := remRetire (l.map fun (r : RemOp) => if r.serial = some serial then { r with done := true } else r)
    { g with
      rem := mark g.rem
      matOps := if g.mats.any fun o => o.serial = some serial then g.matOps else mark g.matOps }

/-- The requests of a group that no older one holds back any more leave (R39). -/
def State.releaseHeld (s : State) (gid : Nat) : State :=
  let outs := (s.group gid).outs
  outs.foldl (fun s o =>
    let g := s.group gid
    let older := g.outs.takeWhile fun x => x.seq < o.seq
    if o.held && !o.restored && !mustHold older o then
      let p := { o.packet with ackpt := g.ackpt }
      let n := { o with held := false, start := s.now, next := s.now + us 16, packet := p, port := s.portFor p none }
      let g := g.told o.watermarked o.opkg o.owner
      (s.setGroup gid { g with outs := g.outs.map fun x => if x.same o then n else x }).emit p
    else s) s

/-- A request has its complete reply, or will have none: it leaves the list, and the owner is due a release notice (R45). -/
def State.closeRequest (s : State) (gid : Nat) (o : OutReq) : State :=
  let g := s.group gid
  let due := if o.watermarked then [(o.opkg, o.owner, s.now)] else []
  let g := { g with
    outs := g.outs.filter fun x => !x.same o
    notices := (g.notices.filter fun n => !due.any fun d => d.1 = n.1 && d.2.1 = n.2.1) ++ due }
  let g := if o.watermarked then g.markRem o.serial else g
  ((s.setGroup gid g).releaseHeld gid).tidy gid

/-- The late result of a request. -/
def Late.isOf (x : Late) (o : OutReq) : Bool :=
  x.serial = o.serial && x.owner = some (replyKey o.opkg o.owner o.watermarked)

/-- One record answers for every lane (R384, R381). -/
def opBroad : OwnerOp → Bool
  | .launch _ _ | .cline _ _ _ => true
  | _ => false

/-- The values of a reply for the destination registers of its lanes; `keep` names the lanes that it answers. -/
def Group.fillLate (g : Group) (o : OutReq) (recs : List LaneRec) (keep : Lanes) : Group :=
  let broad := opBroad o.packet.op
  let word (k l : Nat) : Word :=
    ((if broad then recs.head? else recs.find? fun r => r.lane = l).map fun r => r.data.getD k 0).getD 0
  { g with late := (g.late.map fun x =>
      if x.isOf o then
        { x with
          rows := x.dst.zipIdx.map fun d => (d.1, Vector.ofFn fun l => word d.2 l.val)
          ready := true
          regs := x.regs.map fun r => (r.1, r.2 &&& keep) }
      else x).filter fun x => !(x.isOf o && keep == 0) }

/-- An instruction that waits for a remote table or record issues again when it has come. -/
def Group.wakeHidden (g : Group) : Group :=
  match g.wait with
  | some w =>
    match w.i with
    | .waita _ => g
    | _ =>
      if !w.absent && (g.late.any fun x => x.isHidden && x.ready) || g.unknowns.any fun u => u.regs.any fun r => 0x1000 ≤ r.1 then
        { g with wait := none }
      else g
  | none => g

/-! ### Unknown outcomes (R42) -/

/-- Two unknown outcomes belong to one operation, whose requests went to several owners: they are one, which names all the lanes and the
address of the lowest. -/
def Unknown.sameOp (a b : Unknown) : Bool := a.op = b.op && a.wm == b.wm
def Unknown.join (a b : Unknown) : Unknown :=
  { a with
    lanes := a.lanes ||| b.lanes
    va := if (lowestLane b.lanes).getD 32 < (lowestLane a.lanes).getD 32 then b.va else a.va
    regs := a.regs ++ b.regs
    data := a.data ++ b.data }

/-- The class and the place in it of the operation of a watermarked request (R355): while the stores of a tile operation are out, it is the
group's newest. -/
def Group.classOf (g : Group) (o : OutReq) : Option (Nat × Nat) :=
  match o.packet.op with
  | .stores _ true => some (2, g.nTile - 1)
  | _ =>
    let at' (c : Nat) (l : List RemOp) : Option (Nat × Nat) := (l.find? fun r => r.serial = some o.serial).map fun r => (c, r.seq)
    (at' 3 g.rem).orElse fun _ => at' 1 g.matOps

/-- An `ATOM`, `RED` or `ATOMV` at its owner (R335). -/
def opAtomic : OwnerOp → Bool
  | .atom _ _ _ _ | .red _ _ _ _ _ | .atomv _ _ _ _ _ _ => true
  | _ => false

/-- The outcome of some lanes of a request is unknown: the others are answered. -/
def State.unknownOutcome (s : State) (gid : Nat) (o : OutReq) (reason : Nat) (lanes : Lanes) : State :=
  let g := s.group gid
  let before := g.late.takeWhile fun x => !x.isOf o
  let mine := (g.late.filter fun x => x.isOf o).flatMap (·.regs)
  let younger := ((g.late.drop before.length).drop 1).flatMap (·.regs)
  let regs := younger.foldl (fun rs p => dropRegs p.1 p.2 rs)
    ((mine.map fun (p : Nat × Lanes) => (p.1, p.2 &&& lanes)).filter fun p => p.2 != 0)
  let u : Unknown :=
    { serial := if o.watermarked then o.serial else 0, op := o.serial, wm := o.watermarked, reason, lanes, pc := o.pc
      va := ((o.packet.recs.find? fun r => lanes.getLsbD r.lane).map (·.va)).getD ((o.packet.recs.head?.map (·.va)).getD 0)
      data := if opAtomic o.packet.op then
        (o.packet.recs.filter fun r => lanes.getLsbD r.lane).flatMap fun r => (opRanges o.packet.op r.pa.toNat r.data).map fun q => (o.opkg, q.1, q.2)
        else []
      regs, cls := if o.watermarked then g.classOf o else none, seq := o.order }
  let late := (g.late.map fun x =>
    if x.isOf o then { x with regs := x.regs.map fun p => (p.1, p.2 &&& ~~~lanes) } else x).filter fun x =>
      !(x.isOf o && x.regs.all fun p => p.2 == 0)
  if mine.any fun p => 0x2000 ≤ p.1 then s.setGroup gid { g with late }
  else
    let us := g.unknowns
    let unknowns :=
      if us.any u.sameOp then us.map fun x => if u.sameOp x then x.join u else x
      else u.insert us
    s.setGroup gid ({ g with late, unknowns }).wakeHidden

/-! ### Replies -/

/-- A reply's values and flags reach the group; lanes that it names as poisoned are consumed (R237). -/
def State.takeResult (s : State) (gid : Nat) (o : OutReq) (p : Packet) : State :=
  if p.bad != 0 then
    let s := s.closeRequest gid o
    let pa := ((o.packet.recs.find? fun r => p.bad.getLsbD r.lane).map (·.pa.toNat)).getD 0
    let e := errorAt pa 0
    let t := { s with iss := { gid, pc := o.pc } }
    (if o.opkg = s.image.pkgnum then t.consume else t.freeze) gid e.1 (o.owner / 16) (o.owner % 16) (BitVec.ofNat 64 (pa / 128 * 128)) p.bad
  else
    let g := s.group gid
    let g := { g with fpflags := mergeFlags g.fpflags p.flags }
    (s.setGroup gid (g.fillLate o p.recs o.lanes).wakeHidden).closeRequest gid o

/-- RESULT_REPLY: the packet `pkt`. -/
def execResultReply (s : State) : Out :=
  s.onPacket 3 fun p s =>
    match s.matchReply p true with
    | some x => s.takeResult x.1 x.2 p
    | none => s

/-- LOAD_REPLY: the packet `pkt`. -/
def execLoadReply (s : State) : Out :=
  s.onPacket 1 fun p s =>
    match s.matchReply p false with
    | some x => s.takeResult x.1 x.2 p
    | none => s

/-- BUSY_REPLY: the packet `pkt` cancels the wait; the request is sent again 16 µs later (R41). -/
def execBusyReply (s : State) : Out :=
  s.onPacket 5 fun p s =>
    match s.matchReply p true with
    | some x =>
      let g := s.group x.1
      s.setGroup x.1 { g with outs := g.outs.map fun y => if y.same x.2 then { y with busy := true, next := s.now + us 16 } else y }
    | none => s

/-- UNKNOWN_REPLY: the packet `pkt`; the lanes that it answers from an entry are delivered. -/
def execUnknownReply (s : State) : Out :=
  s.onPacket 6 fun p s =>
    match s.matchReply p true with
    | some x =>
      let lanes := if opBroad x.2.packet.op || p.recs.isEmpty then x.2.lanes else p.lanes &&& x.2.lanes
      let answered := x.2.lanes &&& ~~~lanes
      let g := s.group x.1
      let g := if answered = 0 then g else { g.fillLate x.2 p.recs x.2.lanes with fpflags := mergeFlags g.fpflags p.flags }
      ((s.setGroup x.1 g).unknownOutcome x.1 x.2 p.reason lanes).closeRequest x.1 x.2
    | none => s

/-! ### Transmissions (R35, R41) -/

/-- The wait after transmission `k`, in microseconds. -/
def retryWait (k : Nat) : Nat := [16, 32, 64, 128, 256, 512, 1000, 1000].getD (k - 1) 1000

/-- A later transmission of a packet, on a port: RETX is set, and it is counted for the port (R29). -/
def State.emitAgain (s : State) (p : Packet) (port : Option Nat) : State :=
  let s :=
    match port with
    | some n => s.count (.retransmits n)
    | none => s
  s.emit { p with retx := true }

/-- An outstanding request replaced. -/
def State.setOut (s : State) (gid : Nat) (o : OutReq) : State :=
  let g := s.group gid
  s.setGroup gid { g with outs := g.outs.map fun x => if x.same o then o else x }

/-- The group sends: nothing has stopped it, or it drains for a pre-emption (R112). -/
def State.sends (s : State) (gid : Nat) : Bool := !(s.group gid).stopped || (s.cluster (s.group gid).ck).state == .saving

/-- REQUEST_RETRANSMIT of request `idx` of group `gid`: its wait has expired. -/
def execRequestRetransmit (s : State) : Out :=
  let gid := s.inp.gid
  match (s.group gid).outs[s.inp.idx]? with
  | none => .next s
  | some o =>
    s.when (s.sends gid && !o.held && !o.busy && o.tries < 8 && o.next ≤ s.now) fun s =>
      let p := { o.packet with ackpt := (s.group gid).ackpt, retx := true }
      let k := o.tries + 1
      let port := s.portFor p o.port
      (s.setOut gid { o with tries := k, next := o.next + us (retryWait k), first := false, packet := p, port }).emitAgain p port

/-- BUSY_RESEND of request `idx` of group `gid`: transmission 1 of a new schedule. -/
def execBusyResend (s : State) : Out :=
  let gid := s.inp.gid
  match (s.group gid).outs[s.inp.idx]? with
  | none => .next s
  | some o =>
    s.when (s.sends gid && o.busy && o.next ≤ s.now) fun s =>
      let p := { o.packet with ackpt := (s.group gid).ackpt, retx := true }
      let port := s.portFor p o.port
      (s.setOut gid { o with tries := 1, start := s.now, next := s.now + us 16, busy := false, first := false, packet := p, port }).emitAgain p port

/-- The schedule of a request has run out: 3,008 µs after transmission 1 without a complete reply. -/
def State.runOut (s : State) (gid : Nat) (o : OutReq) : Bool := s.sends gid && !o.held && !o.busy && o.start + us 3008 ≤ s.now

/-- Its outcome is unknown (R41). -/
def State.exhaust (s : State) (gid : Nat) (o : OutReq) : State := (s.unknownOutcome gid o 1 o.lanes).closeRequest gid o

/-- SCHEDULE_EXHAUSTED of request `idx` of group `gid`. -/
def execScheduleExhausted (s : State) : Out :=
  let gid := s.inp.gid
  match (s.group gid).outs[s.inp.idx]? with
  | none => .next s
  | some o => s.when (s.runOut gid o) fun s => s.exhaust gid o

/-- Every schedule that has run out ends at once: no request outlasts it (R41). -/
def State.exhaustAll (s : State) : State :=
  (s.groups.map (·.1)).foldl (fun s gid =>
    (s.group gid).outs.foldl (fun s o => if (s.group gid).outs.contains o && s.runOut gid o then s.exhaust gid o else s) s) s

/-- What time forces on requests, owners and packets: schedules run out, restarts with intact backing end, marks are forgotten, the package's
own packets age out (R35, R41, R45, R46). -/
def State.fabricTime (s : State) : State :=
  { s with
    net := s.net.filter fun p => !(p.src = s.image.pkgnum && p.dst = s.image.pkgnum && packetAged p s.now)
    owners := s.owners.map fun (p : Nat × Owner) => (p.1, (p.2.inTime s.now).forget s.now) }.exhaustAll

/-! ### Release notices that the package sends (R45) -/

/-- A notice of a group to one owner. -/
def State.groupNotice (s : State) (gid : Nat) (pkg : BitVec 16) (owner : Nat) : Packet :=
  { Packet.zero with
    dst := pkg, src := s.image.pkgnum, kind := 4, lhandle := keyHandle (groupTeam gid)
    key := requesterKey (s.launchOf gid).ctx gid, ackpt := (s.group gid).ackpt, owner, gid }

/-- REQUESTER_RELEASE_NOTICE of group `gid` to owner `owner` of package `pkg`: within 4 µs of a reply of that owner, when no later request
has told it the ACKPT. -/
def execRequesterReleaseNotice (s : State) : Out :=
  let i := s.inp
  let g := s.group i.gid
  s.when (g.live && g.notices.any fun n => n.1 = i.pkg && n.2.1 = i.owner && s.now ≤ n.2.2 + us 4) fun s =>
    (s.setGroup i.gid { g with notices := g.notices.filter fun n => !(n.1 = i.pkg && n.2.1 = i.owner) }).emit
      (s.groupNotice i.gid i.pkg i.owner)

/-- A notice that a launch has ended. -/
def State.endNotice (s : State) (h : Word) (pkg : BitVec 16) : Packet :=
  { Packet.zero with dst := pkg, src := s.image.pkgnum, kind := 4, lhandle := h, alone := true }

/-- RELEASE_NOTICE_RESEND of launch `handle` to package `pkg`: by the schedule, then every 1,000 µs, counted beyond the eighth. -/
def execReleaseNoticeResend (s : State) : Out :=
  let i := s.inp
  match s.releases.find? fun r => r.handle = i.handle && r.pkg = i.pkg with
  | none => .next s
  | some r =>
    s.when (r.next ≤ s.now) fun s =>
      let k := r.sends + 1
      let p := s.endNotice r.handle r.pkg
      let port := s.portFor p r.port
      let s := { s with releases := s.releases.map fun (x : Release) =>
        if x.handle = r.handle && x.pkg = r.pkg then { x with sends := k, next := r.next + us (retryWait k), port } else x }
      let s := if 8 < k then s.countLive (.noticeResends (handleDie r.handle)) else s
      s.emitAgain p port

end Sys2Proof.Machine
end

