-- ==== Sys2Proof/Machine/CopyEvents.lean ====
section
/-! DEFINITION. The steps of the copy engines and of the fault log's service (spec/02_fabric_and_exactly_once.md R36, R45,
spec/03_control_cores_and_launch.md R67, R69, spec/06_address_spaces.md R137, R143, spec/16_isa_copy_matrix.md R348,
R352). -/
namespace Sys2Proof.Machine

/-! ### Chunks -/

/-- A copy whose next chunk may land. -/
def Copy.moves (c : Copy) : Bool := c.state == .running && c.unacked.isEmpty && !c.written

/-- The copies of a group go on: its cluster is placed. A pre-emption stops them at a chunk boundary, and keeps them with their
team (R86). -/
def State.copiesRun (s : State) (gid : Nat) : Bool := (s.cluster (s.group gid).ck).state == .placed

/-- A chunk under way goes on to its boundary while its cluster is being pre-empted. -/
def State.chunkRuns (s : State) (gid : Nat) (c : Copy) : Bool :=
  s.copiesRun gid || ((s.cluster (s.group gid).ck).state == .saving && c.written)

/-- COPY_CHUNK_LAND of copy `copyId` of group `gid`. -/
def execCopyChunkLand (s : State) : Out :=
  let gid := s.inp.gid
  match (s.group gid).copy s.inp.copyId with
  | none => .next s
  | some c => s.when (c.moves && s.copiesRun gid) fun s => (s.copyChunk gid c).tidy gid

/-- The deferred cause of a failed copy (R116). -/
def Copy.failure (c : Copy) (addr : Dword) : Deferred := { seq := c.seq, cause := 0x12, addr, pc := c.pc, lanes := c.run }

/-- COPY_COMPLETE: the oldest copy of group `gid`, when it is done or has failed, retires. -/
def execCopyComplete (s : State) : Out :=
  let gid := s.inp.gid
  let g := s.group gid
  match g.copies with
  | [] => .next s
  | c :: rest =>
    match c.state with
    | .done => .next ((s.setGroup gid { g with copies := rest }).tidy gid)
    | .failed a => .next ((s.setGroup gid { g with copies := rest, copyFails := g.copyFails ++ [c.failure a] }).tidy gid)
    | _ => .next s

/-! ### Acknowledgements and retransmission (R36, R45) -/

/-- The source byte of a copy's chunk that lies at a physical address of another package. -/
def State.farByte (s : State) (gid : Nat) (c : Copy) (pkg : BitVec 16) (pa : Nat) : Dword :=
  let lo := 4096 * c.chunk
  ((c.srcPieces lo (min (lo + 4096) c.size)).findSome? fun p =>
    match s.copyPlace gid c.lane p.va p.n false 0 with
    | .ok x => if x.kind = 2 && x.pkg = pkg && x.pa = pa then some p.va else none
    | .error _ => none).getD c.spos

/-- The bytes that a read acknowledgement brings, piece by piece. -/
def ackPieces (pkg : BitVec 16) (rs : List LaneRec) (bs : List Byte) : List (BitVec 16 × Nat × List Byte) :=
  (writePieces rs bs).map fun x => (pkg, x.1, x.2)

/-- An acknowledgement of a packet of a copy: read data, a failed read, or a written chunk. -/
def State.copyAcked (s : State) (p : Packet) : State :=
  let gid := keyGroup p.lhandle p.key
  match (s.group gid).copy p.copyId with
  | none => s
  | some c =>
    let asked (m : CopyMsg) : Bool := m.packet.dst = p.src && m.packet.addr = p.addr && m.packet.kind.toNat = p.oper.toNat
    if c.chunk != p.chunk || !c.unacked.any asked then s
    else
      let c := { c with unacked := c.unacked.filter fun m => !asked m }
      if p.oper = 8 then
        if p.bad != 0 then s.failCopy gid c (s.farByte gid c p.src ((p.recs.head?.map (·.pa.toNat)).getD 0))
        else s.setCopy gid { c with got := c.got ++ ackPieces p.src p.recs p.bytes }
      else if c.written && c.unacked.isEmpty then s.chunkDone gid c
      else s.setCopy gid c

/-- COPY_ACK: the packet `pkt` completes a chunk, brings read data, or acknowledges a release notice. -/
def execCopyAck (s : State) : Out :=
  s.onPacket 9 fun p s =>
    if p.alone then
      if s.releases.any fun r => r.handle = p.lhandle && r.pkg = p.src then
        { s with
          releases := s.releases.filter fun r => !(r.handle = p.lhandle && r.pkg = p.src)
          retired := s.retired ++ [(p.lhandle, s.now)] }
      else s
    else s.copyAcked p

/-- The schedule of some packet of a chunk has run out: 3,008 µs after its first transmission, unanswered (R36, R41). -/
def State.chunkOut (s : State) (gid : Nat) (c : Copy) : Bool := s.chunkRuns gid c && c.unacked.any fun m => m.start + us 3008 ≤ s.now

/-- Every copy with such a packet has failed, at the first destination byte of its chunk: none outlasts it. (DEDUCED: assumption 54.) -/
def State.copyTime (s : State) : State :=
  (s.groups.map (·.1)).foldl (fun s gid =>
    (s.group gid).copies.foldl (fun s c => if s.chunkOut gid c then s.failCopy gid c (c.dstAt (4096 * c.chunk)) else s) s) s

/-- COPY_CHUNK_RETRANSMIT of packet `idx` of copy `copyId` of group `gid`: its wait has expired; after the eighth transmission's the
copy fails, at the first destination byte of the chunk. (DEDUCED: assumption 54.) -/
def execCopyChunkRetransmit (s : State) : Out :=
  let gid := s.inp.gid
  let k := s.inp.idx
  match (s.group gid).copy s.inp.copyId with
  | none => .next s
  | some c =>
    match c.unacked[k]? with
    | none => .next s
    | some m =>
      s.when (m.next ≤ s.now && s.chunkRuns gid c) fun s =>
        if 8 ≤ m.tries then s.failCopy gid c (c.dstAt (4096 * c.chunk))
        else
          let port := s.portFor m.packet m.port
          let m' := { m with tries := m.tries + 1, next := m.next + us (retryWait (m.tries + 1)), port }
          (s.setCopy gid { c with unacked := c.unacked.set k m' }).emitAgain m.packet port

/-! ### Extents (R143) -/

/-- Frames of a list of extents. -/
def frames (l : List RtExtent) : Nat := (l.map (·.frames)).sum

/-- Extents move from the tail of the active list to the head of the inactive one while the active list holds more frames than
the limit. -/
def overflowExtents (limit : Nat) : Nat → List RtExtent → List RtExtent → List RtExtent × List RtExtent
  | 0, a, i => (a, i)
  | fuel + 1, a, i =>
    if frames a ≤ limit then (a, i)
    else
      match a.getLast? with
      | some x => overflowExtents limit fuel a.dropLast (x :: i)
      | none => (a, i)

/-- An extent goes to the head of the active list. -/
def State.placeExtent (s : State) (x : RtExtent) : State :=
  let a := x :: s.active.filter fun y => y != x
  let r := overflowExtents Config.frameLimit a.length a (s.inactive.filter fun y => y != x)
  { s with active := r.1, inactive := r.2 }

/-- The extent that holds a page. -/
def State.extentOf (s : State) (ctx : BitVec 16) (va : Nat) : Option RtExtent :=
  (s.active ++ s.inactive).find? fun x => x.ctx = ctx && x.va ≤ va && va < x.va + 4096 * x.frames

/-! ### The fault log and its verdicts (R67, R69) -/

/-- Records that wait are written while there is room. -/
def State.logMore (s : State) (d : Nat) : Nat → State
  | 0 => s
  | n + 1 =>
    let x := s.die d
    match x.logWait with
    | r :: rest =>
      if x.logFull then s
      else
        ((s.wrBytes (x.logBase.toNat + 64 * x.logProd.toNat) r.bytes).setDie d
          { x with logProd := x.logProd + 1, logWait := rest }).logMore d n
    | [] => s

/-- The records from LOGCONS up to an index. -/
def logSpan (x : Die) (upto : BitVec 12) : List Nat :=
  (List.range (upto - x.logCons).toNat).map fun i => (x.logCons + BitVec.ofNat 12 i).toNat

/-- FAULT_LOG_CONSUME of die `die`: LOGCONS becomes `v`. The extents of the access-counter records passed go to the head of the active
list. -/
def execFaultLogConsume (s : State) : Out :=
  let d := s.inp.die
  let v : BitVec 12 := s.inp.v.setWidth 12
  let x := s.die d
  let hits := (logSpan x v).filterMap fun k =>
    let a := x.logBase.toNat + 64 * k
    if s.rdLe a 4 = 3 then s.extentOf (BitVec.ofNat 16 (s.rdLe (a + 14) 2)) (s.rdLe (a + 0x20) 8) else none
  let s := hits.foldl State.placeExtent s
  .next ((s.setDie d { x with logCons := v }).logMore d x.logWait.length)

/-- The copy that waits for a verdict under a FAULTID of a die. -/
def State.faulted (s : State) (d : Nat) (id : Word) : Option (Nat × Copy) :=
  match (s.die d).copyFaults.find? fun f => f.1 = id with
  | none => none
  | some f => ((s.group f.2.1).copy f.2.2).map fun c => (f.2.1, c)

/-- A FAULTID is answered. -/
def State.answerFault (s : State) (d : Nat) (id : Word) : State :=
  s.setDie d { s.die d with copyFaults := (s.die d).copyFaults.filter fun f => f.1 != id }

/-- COPY_FAULT_RETRY of FAULTID `faultId` on die `die`; the runtime's extent for the page is `addr`, `v` frames at physical address
`payload`'s first eight bytes, when `v` is not zero. -/
def execCopyFaultRetry (s : State) : Out :=
  let i := s.inp
  match s.faulted i.die i.faultId with
  | none => .next s
  | some x =>
    let s := (s.answerFault i.die i.faultId).setCopy x.1 { x.2 with state := .running }
    .next (
      if i.v = 0 then s
      else s.placeExtent { ctx := (s.launchOf x.1).ctx, va := i.addr.toNat, pa := leVal (i.payload.take 8), frames := i.v.toNat })

/-- COPY_FAULT_FAIL of FAULTID `faultId` on die `die`: the copy ends with COPY_FAILED at its first incomplete chunk. -/
def execCopyFaultFail (s : State) : Out :=
  let i := s.inp
  match s.faulted i.die i.faultId with
  | none => .next s
  | some x => .next ((s.answerFault i.die i.faultId).failCopy x.1 x.2 (x.2.dstAt (4096 * x.2.chunk)))

end Sys2Proof.Machine
end

