-- ==== Sys2Proof/Machine/CrossLane.lean ====
section
/-! DEFINITION. The cross-lane block (spec/13_isa_integer_control_lanes.md R288 to R292): every lane of the active set reads
its sources before any lane writes. -/
namespace Sys2Proof.Machine

/-- The source lane of `SHFL`, as an exact integer (R289). -/
def shuffleSrc (mode l k : Nat) : Int :=
  match mode with
  | 0 => (k : Int)
  | 1 => (l : Int) - (k : Int)
  | 2 => (l : Int) + (k : Int)
  | _ => ((l ^^^ k : Nat) : Int)

/-- The value that lane `l` receives from `SHFL` (R289): out of range its own, from a lane outside the active set zero. -/
def shuffle (m : Nat) (act : Lanes) (a b : Nat → Dword) (l : Nat) : Dword :=
  let src : Int := shuffleSrc (m % 4) l ((b l).toNat % 2 ^ 32)
  if decide (src < 0) || decide (31 < src) then a l
  else if act.getLsbD src.toNat then a src.toNat
  else 0

def execShfl (f : TF) (s : State) : Out :=
  let m := f.mod.toNat
  .next (s.runT 0x030 f fun act a b _ l => shaped (Shape.tShape 0x030 m 0) (shuffle m act a b l, 0))

/-- Byte `l` of a row of a core's pattern slot; every byte is 0x80 until a `PTLD` (R290). -/
def State.patByte (s : State) (core slot row l : Nat) : Byte := tabGet 0x80 (s.core core).pats (slot * 256 + row * 32 + l)

/-- `XPERM` (R290). -/
def execXperm (f : TF) (s : State) : Out :=
  let m := f.mod.toNat
  let core := slotCore s.cur.slot
  .next (s.runT 0x031 f fun _ a b _ l =>
    let row := (b l).toNat % 2 ^ 32
    let e := (s.patByte core (m % 8) row l).toNat
    shaped (Shape.tShape 0x031 m 0) (if 8 ≤ row then 0 else if 128 ≤ e then 0 else a (e % 32), 0))

/-- `VOTE` (R291). -/
def execVote (f : TF) (s : State) : Out :=
  let m := f.mod.toNat
  .next (s.runT 0x032 f fun act a _ _ l =>
    let js := lanesList act
    let t :=
      if m = 0 then js.all fun j => (a j).toNat % 2 == 1
      else if m = 1 then js.any fun j => (a j).toNat % 2 == 1
      else js.all fun j => a j == a l
    res32 (if t then 1 else 0))

/-- `BALLOT` (R291). -/
def execBallot (f : TF) (s : State) : Out :=
  .next (s.runT 0x033 f fun act a _ _ _ =>
    res32 ((lanesOf fun j => act.getLsbD j && (a j).toNat % 2 == 1).setWidth 64))

/-- `MATCH` (R291). -/
def execMatchv (f : TF) (s : State) : Out :=
  .next (s.runT 0x034 f fun act a _ _ l => res32 ((lanesOf fun j => act.getLsbD j && a j == a l).setWidth 64))

/-- One step of a prefix reduction (R292): `.add` wraps, `.min` and `.max` compare signed. -/
def scanOp (op w : Nat) (x y : Dword) : Dword :=
  let ty := if w = 64 then 3 else 2
  match op with
  | 0 => lowBits w (x.toNat + y.toNat)
  | 1 => lowBits w (min (tyVal ty x) (tyVal ty y))
  | 2 => lowBits w (max (tyVal ty x) (tyVal ty y))
  | _ => x ||| y

def scanId (op w : Nat) : Dword :=
  let ty := if w = 64 then 3 else 2
  match op with
  | 1 => lowBits w (intMax ty)
  | 2 => lowBits w (intMin ty)
  | _ => 0

/-- `SCAN` (R292). -/
def execScan (f : TF) (s : State) : Out :=
  let m := f.mod.toNat
  let w := if m / 4 % 2 = 1 then 64 else 32
  .next (s.runT 0x035 f fun act a _ _ l =>
    let js := (lanesList act).filter fun j => if 8 ≤ m then j < l else j ≤ l
    shaped (Shape.tShape 0x035 m 0) (js.foldl (fun acc j => scanOp (m % 4) w acc (a j)) (scanId (m % 4) w), 0))

end Sys2Proof.Machine
end

