-- ==== Sys2Proof/Machine/FloatArith.lean ====
section
/-! DEFINITION. The floating-point arithmetic block (spec/14_isa_float_and_blocks.md R301 to R307): `fpOp` says what a lane
computes. -/
namespace Sys2Proof.Machine

def execFadd (f : TF) (s : State) : Out := s.fpT 0x040 f
def execFsub (f : TF) (s : State) : Out := s.fpT 0x041 f
def execFmul (f : TF) (s : State) : Out := s.fpT 0x042 f
def execFfma (f : TF) (s : State) : Out := s.fpT 0x043 f
def execFfms (f : TF) (s : State) : Out := s.fpT 0x044 f
def execFmin (f : TF) (s : State) : Out := s.fpT 0x045 f
def execFmax (f : TF) (s : State) : Out := s.fpT 0x046 f
def execFminm (f : TF) (s : State) : Out := s.fpT 0x047 f
def execFmaxm (f : TF) (s : State) : Out := s.fpT 0x048 f
def execFabs (f : TF) (s : State) : Out := s.fpT 0x049 f
def execFneg (f : TF) (s : State) : Out := s.fpT 0x04A f
def execFcpys (f : TF) (s : State) : Out := s.fpT 0x04B f
def execFcmp (f : TF) (s : State) : Out := s.fpT 0x04C f
def execFclass (f : TF) (s : State) : Out := s.fpT 0x04D f
def execFrint (f : TF) (s : State) : Out := s.fpT 0x04E f
def execFscl (f : TF) (s : State) : Out := s.fpT 0x04F f
def execFgete (f : TF) (s : State) : Out := s.fpT 0x050 f

end Sys2Proof.Machine
end

