-- ==== Sys2Proof/Machine/Function.lean ====
section
/-! DEFINITION. The function block (spec/14_isa_float_and_blocks.md R308, R309). -/
namespace Sys2Proof.Machine

def execFdiv (f : TF) (s : State) : Out := s.fpT 0x060 f
def execFsqrt (f : TF) (s : State) : Out := s.fpT 0x061 f
def execFrcp (f : TF) (s : State) : Out := s.fpT 0x062 f
def execFrsq (f : TF) (s : State) : Out := s.fpT 0x063 f
def execFexp (f : TF) (s : State) : Out := s.fpT 0x064 f
def execFexp2 (f : TF) (s : State) : Out := s.fpT 0x065 f
def execFlog (f : TF) (s : State) : Out := s.fpT 0x066 f
def execFlog2 (f : TF) (s : State) : Out := s.fpT 0x067 f
def execFsin (f : TF) (s : State) : Out := s.fpT 0x068 f
def execFcos (f : TF) (s : State) : Out := s.fpT 0x069 f
def execFtan (f : TF) (s : State) : Out := s.fpT 0x06A f
def execFatan (f : TF) (s : State) : Out := s.fpT 0x06B f
def execFtanh (f : TF) (s : State) : Out := s.fpT 0x06C f
def execFerf (f : TF) (s : State) : Out := s.fpT 0x06D f

end Sys2Proof.Machine
end

