-- ==== Sys2Proof/Machine/Half.lean ====
section
/-! DEFINITION. The P words, by the operation of half 0 (spec/12_formats_and_opcode_map.md R262, R263). -/
namespace Sys2Proof.Machine

def execIaddP (h0 : HF) (op1 : POp) (h1 : HF) (s : State) : Out := s.half .iadd h0 op1 h1
def execIsubP (h0 : HF) (op1 : POp) (h1 : HF) (s : State) : Out := s.half .isub h0 op1 h1
def execIminP (h0 : HF) (op1 : POp) (h1 : HF) (s : State) : Out := s.half .imin h0 op1 h1
def execImaxP (h0 : HF) (op1 : POp) (h1 : HF) (s : State) : Out := s.half .imax h0 op1 h1
def execAndP (h0 : HF) (op1 : POp) (h1 : HF) (s : State) : Out := s.half .and h0 op1 h1
def execOrP (h0 : HF) (op1 : POp) (h1 : HF) (s : State) : Out := s.half .or h0 op1 h1
def execXorP (h0 : HF) (op1 : POp) (h1 : HF) (s : State) : Out := s.half .xor h0 op1 h1
def execAndnP (h0 : HF) (op1 : POp) (h1 : HF) (s : State) : Out := s.half .andn h0 op1 h1
def execShlP (h0 : HF) (op1 : POp) (h1 : HF) (s : State) : Out := s.half .shl h0 op1 h1
def execShrP (h0 : HF) (op1 : POp) (h1 : HF) (s : State) : Out := s.half .shr h0 op1 h1
def execSarP (h0 : HF) (op1 : POp) (h1 : HF) (s : State) : Out := s.half .sar h0 op1 h1
def execMovP (h0 : HF) (op1 : POp) (h1 : HF) (s : State) : Out := s.half .mov h0 op1 h1
def execIcmpP (h0 : HF) (op1 : POp) (h1 : HF) (s : State) : Out := s.half .icmp h0 op1 h1
def execFaddP (h0 : HF) (op1 : POp) (h1 : HF) (s : State) : Out := s.half .fadd h0 op1 h1
def execFmulP (h0 : HF) (op1 : POp) (h1 : HF) (s : State) : Out := s.half .fmul h0 op1 h1
def execFminP (h0 : HF) (op1 : POp) (h1 : HF) (s : State) : Out := s.half .fmin h0 op1 h1
def execFmaxP (h0 : HF) (op1 : POp) (h1 : HF) (s : State) : Out := s.half .fmax h0 op1 h1

end Sys2Proof.Machine
end

