-- ==== Sys2Proof/Machine/Immediate.lean ====
section
/-! DEFINITION. The I forms (spec/12_formats_and_opcode_map.md R261): the instruction of the same opcode with the immediate in the
place of its last source. -/
namespace Sys2Proof.Machine

def execIaddI (f : IF) (s : State) : Out := s.intI 0x000 f
def execIsubI (f : IF) (s : State) : Out := s.intI 0x001 f
def execImulI (f : IF) (s : State) : Out := s.intI 0x002 f
def execImulhI (f : IF) (s : State) : Out := s.intI 0x003 f
def execImadI (f : IF) (s : State) : Out := s.intI 0x004 f
def execIminI (f : IF) (s : State) : Out := s.intI 0x005 f
def execImaxI (f : IF) (s : State) : Out := s.intI 0x006 f
def execIabsI (f : IF) (s : State) : Out := s.intI 0x007 f
def execInegI (f : IF) (s : State) : Out := s.intI 0x008 f
def execIdivI (f : IF) (s : State) : Out := s.intI 0x009 f
def execIremI (f : IF) (s : State) : Out := s.intI 0x00A f
def execLeaI (f : IF) (s : State) : Out := s.intI 0x00B f
def execAndI (f : IF) (s : State) : Out := s.intI 0x010 f
def execOrI (f : IF) (s : State) : Out := s.intI 0x011 f
def execXorI (f : IF) (s : State) : Out := s.intI 0x012 f
def execAndnI (f : IF) (s : State) : Out := s.intI 0x013 f
def execOrnI (f : IF) (s : State) : Out := s.intI 0x014 f
def execShlI (f : IF) (s : State) : Out := s.intI 0x015 f
def execShrI (f : IF) (s : State) : Out := s.intI 0x016 f
def execSarI (f : IF) (s : State) : Out := s.intI 0x017 f
def execRotlI (f : IF) (s : State) : Out := s.intI 0x018 f
def execFunshI (f : IF) (s : State) : Out := s.intI 0x019 f
def execBfxI (f : IF) (s : State) : Out := s.intI 0x01A f
def execBfiI (f : IF) (s : State) : Out := s.intI 0x01B f
def execPopcI (f : IF) (s : State) : Out := s.intI 0x01C f
def execClzI (f : IF) (s : State) : Out := s.intI 0x01D f
def execCtzI (f : IF) (s : State) : Out := s.intI 0x01E f
def execBrevI (f : IF) (s : State) : Out := s.intI 0x01F f
def execIcmpI (f : IF) (s : State) : Out := s.intI 0x020 f
def execSelI (f : IF) (s : State) : Out := s.intI 0x021 f
def execMovI (f : IF) (s : State) : Out := s.intI 0x022 f
def execFaddI (f : IF) (s : State) : Out := s.fpI 0x040 f
def execFmulI (f : IF) (s : State) : Out := s.fpI 0x042 f
def execFfmaI (f : IF) (s : State) : Out := s.fpI 0x043 f

end Sys2Proof.Machine
end

