-- ==== Sys2Proof/Machine/Integer.lean ====
section
/-! DEFINITION. The integer block, one meaning per instruction (spec/13_isa_integer_control_lanes.md R281, R282): `intOp` says what
a lane computes, `State.intT` runs the word. -/
namespace Sys2Proof.Machine

def execIadd (f : TF) (s : State) : Out := s.intT 0x000 f
def execIsub (f : TF) (s : State) : Out := s.intT 0x001 f
def execImul (f : TF) (s : State) : Out := s.intT 0x002 f
def execImulh (f : TF) (s : State) : Out := s.intT 0x003 f
def execImad (f : TF) (s : State) : Out := s.intT 0x004 f
def execImin (f : TF) (s : State) : Out := s.intT 0x005 f
def execImax (f : TF) (s : State) : Out := s.intT 0x006 f
def execIabs (f : TF) (s : State) : Out := s.intT 0x007 f
def execIneg (f : TF) (s : State) : Out := s.intT 0x008 f
def execIdiv (f : TF) (s : State) : Out := s.intT 0x009 f
def execIrem (f : TF) (s : State) : Out := s.intT 0x00A f
def execLea (f : TF) (s : State) : Out := s.intT 0x00B f

end Sys2Proof.Machine
end

