-- ==== Sys2Proof/Machine/Kelren.lean ====
section
/-! DEFINITION. The four Xkelren instructions of a control core (spec/03_control_cores_and_launch.md R58). -/
namespace Sys2Proof.Machine

/-- The word of an operation (R58). -/
def klnWord (fn : Nat) (rd rs1 rs2 : BitVec 5) : Dword :=
  BitVec.ofNat 64 (rs2.toNat * 2 ^ 20 + rs1.toNat * 2 ^ 15 + fn * 2 ^ 12 + rd.toNat * 2 ^ 7 + 0x0B)

/-- One operation: illegal in U- and VU-mode, a virtual-instruction exception in VS-mode; otherwise `rd` takes its answer, and
the hart goes on. -/
def State.kln (s : State) (fn : Nat) (rd rs1 rs2 : BitVec 5) (run : State → Hart → State × Dword) : Out :=
  let n := s.iss.hart
  let h := s.hart n
  let trap (c : Nat) : Out := .next (s.setHart n (h.takeException c (klnWord fn rd rs1 rs2))).markIssued
  match h.mode with
  | .u | .vu => trap 2
  | .vs => trap 22
  | .m | .s =>
    let r := run s h
    .next (r.1.setHart n { (r.1.hart n).setReg rd r.2 with pc := h.pc + 4 }).markIssued

/-- `kln.launch`. -/
def execKlnLaunch (rd rs1 rs2 : BitVec 5) (s : State) : Out :=
  s.kln 0 rd rs1 rs2 fun s h =>
    let c := h.reg rs2
    if c.toNat / 2 ^ 16 != 0 then (s, 2)
    else
      let r := s.accept (s.iss.hart / Config.harts) (c.setWidth 16) (h.reg rs1)
      (r.1, r.2.setWidth 64)

/-- `kln.cancel`. -/
def execKlnCancel (rd rs1 rs2 : BitVec 5) (s : State) : Out :=
  s.kln 1 rd rs1 rs2 fun s h => if rs2 != 0 then (s, 2) else s.cancel ((h.reg rs1).setWidth 32)

/-- `kln.preempt`. -/
def execKlnPreempt (rd rs1 rs2 : BitVec 5) (s : State) : Out :=
  s.kln 2 rd rs1 rs2 fun s h => s.preempt ((h.reg rs1).setWidth 32) ((h.reg rs2).toNat % 2 ^ 24)

/-- `kln.status`. -/
def execKlnStatus (rd rs1 rs2 : BitVec 5) (s : State) : Out :=
  s.kln 3 rd rs1 rs2 fun s h => if rs2 != 0 then (s, 2) else (s, s.status ((h.reg rs1).setWidth 32))

end Sys2Proof.Machine
end

