-- ==== Sys2Proof/Machine/Launches.lean ====
section
/-! DEFINITION. The launch units' steps, and the registers of the control-core range (spec/03_control_cores_and_launch.md R61
to R65, R67, R68, R414, spec/02_fabric_and_exactly_once.md R45, spec/04_scheduler.md R72, R73, R80,
spec/06_address_spaces.md R129, R136, spec/10_determinism_and_reliability.md R224, R225, spec/00_scope.md R9). -/
namespace Sys2Proof.Machine

/-! ### Dispatch and dependences (R61, R62) -/

/-- A launch at the head of its queue that may be dispatched. -/
def State.eligible (s : State) (h : Word) : Bool := (s.launch h).state == .queued && (s.launch h).deps.isEmpty

/-- The eligible heads of the queues. -/
def State.heads (s : State) : List Word := s.queues.filterMap fun q => q.2.head?.bind fun h => if s.eligible h then some h else none

/-- Of two launches, the first to be dispatched: higher priority, then earlier acceptance. -/
def State.firstLaunch (s : State) (a b : Word) : Bool :=
  (s.launch b).prio < (s.launch a).prio || ((s.launch a).prio == (s.launch b).prio && (s.launch a).accepted < (s.launch b).accepted)

def clusterKey (h : Word) (c : Nat) : Nat := h.toNat * 2 ^ 24 + c

/-- The clusters of a dispatched launch enter the pending list (R72, R73). -/
def State.addClusters (s : State) (h : Word) : State :=
  let l := s.launch h
  (List.range (l.teams / (l.cw * l.ch))).foldl (fun s c =>
    s.setCluster (clusterKey h c) { state := .pending, handle := h, index := c, since := s.now }) s

/-- LAUNCH_DISPATCH. -/
def execLaunchDispatch (s : State) : Out :=
  match s.heads with
  | [] => .next s
  | a :: rest =>
    let h := rest.foldl (fun b x => if s.firstLaunch x b then x else b) a
    let l := s.launch h
    let s := { s with queues := tabSet [] s.queues l.queue ((tabGet [] s.queues l.queue).drop 1) }
    .next ((s.setLaunch h { l with state := .running, dispatched := s.fresh + 1 }).addClusters h)

/-- The answer under way to a dependence of a launch. -/
def Launch.answer (l : Launch) (d : Word) : Option Nat := (l.answers.find? fun a => a.1 = d).map (·.2)

/-- DEPENDENCE_ANSWER: the answer to dependence `idx` of launch `handle` arrives. A cause other than 0 ends the launch without running. -/
def execDependenceAnswer (s : State) : Out :=
  let h := s.inp.handle
  let l := s.launch h
  match l.deps[s.inp.idx]?.bind l.answer with
  | none => .next s
  | some c =>
    s.when (l.state == .queued) fun s =>
      let s := s.setLaunch h { l with deps := l.deps.eraseIdx s.inp.idx }
      if c = 0 then s else s.endLaunch h 0xFF 0

/-- A launch ends: its unit answers the dependences on it, with its cause (R62). -/
def State.answerDeps (s : State) (h : Word) (cause : Nat) : State :=
  { s with launches := s.launches.map fun p =>
      if p.2.deps.contains h then (p.1, { p.2 with answers := p.2.answers ++ [(h, cause)] }) else p }

/-- A launch whose teams have been resident for its limit ends (R64). -/
def State.expire (s : State) (h : Word) : State :=
  let l := s.launch h
  if l.state == .running && us l.watchdog ≤ l.resident then (s.fatalNone h 0x16 0).endLaunch h 0x16 0 else s

/-- WATCHDOG_EXPIRY of launch `handle`. -/
def execWatchdogExpiry (s : State) : Out := .next (s.expire s.inp.handle)

/-! ### The drain and the end (R63, R64, R224, R225) -/

/-- What another package's slices tell of launch `h`: an update that a full log could not take ends it while it runs (R223); once its
teams have ended, the counts of their drains enter its report (R225). -/
def State.takeReport (s : State) (h : Word) (pkg : BitVec 16) (r : SliceReport) : State :=
  let l := s.launch h
  if !(l.determ && l.pkgs.contains pkg && !l.reported.contains pkg) then s
  else
    let full (u : Nat × Dword) : State :=
      (s.log (handleDie h)
        { kind := 1, handle := h, id := logId l.ctx u.1 0 (handleDie h) 0, code := 0x11, addr := u.2 }).endLaunch h 0x11 u.1
    match l.state, r.full with
    | .running, some u => full u
    | .ending, some u => if l.cause = 0 then full u else s
    | .ending, none =>
      s.setLaunch h { l with
        spills := l.spills + r.spills, dups := l.dups + r.dups
        held := l.held + r.held, flags := l.flags ||| r.flags
        reported := l.reported ++ [pkg] }
    | _, _ => s

/-- HELD_DRAIN of launch `handle`, whose teams have ended: at owner `owner`, when it is a launch of this package `pkg`, or of package
`pkg`, where `ok` says that it completed; with `report`, what the slices of package `pkg` tell of a launch of this package. (DESIGN
CHOICE: assumption 73.) -/
def execHeldDrain (s : State) : Out :=
  let i := s.inp
  let l := s.launch i.handle
  if i.pkg = s.image.pkgnum then
    s.when (l.state == .ending && l.determ) fun s => s.drainHeld i.owner i.pkg i.handle (l.cause = 0)
  else
    match i.report with
    | some r => .next (s.takeReport i.handle i.pkg r)
    | none => .next (s.drainHeld i.owner i.pkg i.handle i.ok)

/-- The group, cluster and team keys of a launch. -/
def State.groupsOfLaunch (s : State) (h : Word) : List Nat := (s.groups.filter fun p => keyHandle (groupTeam p.1) = h).map (·.1)
def State.clustersOfLaunch (s : State) (h : Word) : List Nat := (s.clusters.filter fun p => p.2.handle = h).map (·.1)
def State.teamsOfLaunch (s : State) (h : Word) : List Nat := (s.teams.filter fun p => p.2.handle = h).map (·.1)

/-- A copy that still moves bytes. -/
def Copy.busy (c : Copy) : Bool :=
  match c.state with
  | .running => true
  | _ => false

/-- Nothing of the launch is left to drain: engine and tile operations, copies that run, held updates here and at the packages that it
addressed, records that wait for room in a log. Of a cluster that is not placed no copy runs: its copies are discarded. (DESIGN
CHOICE: assumption 74.) -/
def State.drained (s : State) (h : Word) : Bool :=
  let gs := s.groupsOfLaunch h
  (gs.all fun g => (s.group g).mats.isEmpty && (s.group g).tiles.isEmpty && !(s.copiesRun g && (s.group g).copies.any Copy.busy))
    && (!(s.launch h).determ || (s.launch h).pkgs.all fun k => (s.launch h).reported.contains k)
    && (s.owners.all fun p => !(p.2.hold ++ p.2.log.flatten).any fun e => e.owner = (s.image.pkgnum, h))
    && s.diesList.all fun d => !d.logWait.any fun r => r.kind = 1 && r.handle = h

/-- A group leaves its slot, its engine, its die's tables. -/
def State.dropGroup (s : State) (gid : Nat) : State :=
  let g := s.group gid
  let s := if g.live then ((s.dropEngine gid).releaseA gid).freeBands gid else s
  { s with dies := s.dies.map fun (p : Nat × Die) => (p.1, { p.2 with
      monitors := p.2.monitors.filter fun m => m.gid != gid
      copyFaults := p.2.copyFaults.filter fun f => f.2.1 != gid }) }

/-- A team leaves its core, its quad and the system pool. -/
def State.dropTeam (s : State) (tk : Nat) : State :=
  let t := s.team tk
  let s := s.freeUnits t.core t.units
  let q := coreQuad t.core
  let s := ((s.quad q).resvs.filter fun r => r.team = tk).foldl (fun s r => s.freeResv q r) s
  s.freeAreas tk

/-- Everything of every team is released (R80). -/
def State.releaseAll (s : State) (h : Word) : State :=
  let s := (s.groupsOfLaunch h).foldl State.dropGroup s
  let s := (s.teamsOfLaunch h).foldl State.dropTeam s
  { s with
    groups := s.groups.filter fun p => keyHandle (groupTeam p.1) != h
    teams := s.teams.filter fun p => p.2.handle != h
    clusters := s.clusters.filter fun p => p.2.handle != h
    mailbox := s.mailbox.filter fun r => keyHandle (groupTeam r.gid) != h
    cores := (s.cores.map fun (p : Nat × CoreSt) => (p.1, { p.2 with queue := p.2.queue.filter fun v => v.launch != h })).filter fun p =>
      p.2 != ({} : CoreSt) }

/-- The determinism report (R225); HELD and FLAGS are 0 when the launch ends with another cause than 0. -/
def State.writeReport (s : State) (h : Word) : State :=
  let l := s.launch h
  if l.determ && l.report != 0 then
    let v := l.spills % 2 ^ 32 + l.dups % 2 ^ 32 * 2 ^ 32
      + if l.cause = 0 then l.held % 2 ^ 32 * 2 ^ 64 + l.flags.toNat * 2 ^ 96 else 0
    (s.unitWrite (handleDie h) l.ctx l.report 16 v 0x200).getD s
  else s

/-- The completion word, or the record of a failed write (R414). -/
def State.writeDone (s : State) (h : Word) : State :=
  let l := s.launch h
  if l.done = 0 then s
  else
    match s.unitWrite (handleDie h) l.ctx l.done 8 (completionWord h l.cause l.team).toNat 0x201 with
    | some t => t
    | none =>
      s.log (handleDie h)
        { kind := 4, handle := h, id := logId l.ctx 0 0 0 0, code := BitVec.ofNat 32 l.cause, addr := l.done }

/-- The launch's watermarks retire: its own package's owners, and a notice to every package that it addressed (R45). -/
def State.retireLaunch (s : State) (h : Word) : State :=
  let l := s.launch h
  let s := s.ownersEnd s.image.pkgnum h
  let s := l.pkgs.foldl (fun s k => s.emit (s.endNotice h k)) s
  { s with
    releases := s.releases ++ l.pkgs.map fun k => { handle := h, pkg := k, sends := 1, next := s.now + us 16, port := s.portFor (s.endNotice h k) none : Release }
    retired := s.retired ++ [(h, s.now)] }

/-- LAUNCH_END of launch `handle`, once nothing of it is left to drain. -/
def execLaunchEnd (s : State) : Out :=
  let h := s.inp.handle
  s.when ((s.launch h).state == .ending && s.drained h) fun s =>
    let s := ((s.releaseAll h).writeReport h).retireLaunch h
    let s := s.writeDone h
    (s.setLaunch h { s.launch h with state := .ended, endedAt := s.fresh }).answerDeps h (s.launch h).cause

/-! ### Registers (R9, R26, R129) -/

/-- The fields of register 0x08 of a die's translation registers. -/
def State.setInvReg (s : State) (d : Nat) (v : Dword) : State :=
  s.setDie d { s.die d with invCtx := BitVec.ofNat 16 (v.toNat / 2 ^ 48), invOp := v.setWidth 2 }

/-- REGISTER_WRITE: a control core writes `v` at `addr`, to a register without behaviour of its own. -/
def execRegisterWrite (s : State) : Out :=
  let a := s.inp.addr.toNat
  let v := s.inp.v
  let d := (a - 0x00F000020000) / 0x1000
  .next (
    if a = 0x00F000000000 then (if v.getLsbD 22 then { s with warm := false } else s)
    else if 0x00F000020000 ≤ a && d < Config.dies then
      match (a - 0x00F000020000) % 0x1000 with
      | 0x00 => s.setDie d { s.die d with invVa := BitVec.ofNat 44 (v.toNat / 2 ^ 12) }
      | 0x08 => if v.getLsbD 8 && v.setWidth 2 != (3 : BitVec 2) then s else s.setInvReg d v
      | 0x10 => s.setDie d { s.die d with acThresh := v.setWidth 32 }
      | _ => s
    else s)

/-- A write of `v` with GO to die `die` starts the invalidation that INVOP names, unless one is in progress (R129). -/
def State.invalidate (s : State) (op : BitVec 2) : Out :=
  let d := s.inp.die
  let v := s.inp.v
  s.when (v.getLsbD 8 && v.setWidth 2 == op) fun s =>
    let s := s.setInvReg d v
    let x := s.die d
    if x.inval.isSome then s else s.setDie d { x with inval := some (op, x.invVa, x.invCtx) }

def execInvalidatePage (s : State) : Out := s.invalidate 0
def execInvalidateContext (s : State) : Out := s.invalidate 1
def execInvalidateAll (s : State) : Out := s.invalidate 2

/-- An invalidation covers the leaf of a context that translates a page: its number and shift. -/
def coversPage (i : BitVec 2 × BitVec 44 × BitVec 16) (ctx : BitVec 16) (page : Nat × Nat) : Bool :=
  match i.1.toNat with
  | 0 => ctx = i.2.2 && page.1 = i.2.1.toNat * 2 ^ 12 / 2 ^ page.2
  | 1 => ctx = i.2.2
  | _ => true

/-- An invalidation covers a cached entry. -/
def covers (i : BitVec 2 × BitVec 44 × BitVec 16) (t : TlbEntry) : Bool := coversPage i t.ctx (t.page, t.shift)

/-- An access of a context to an address may have used an entry that an invalidation covers: a leaf spans at most 1 GiB, and an address
of another class may stand for any of the context. -/
def mayCover (i : BitVec 2 × BitVec 44 × BitVec 16) (ctx : BitVec 16) (va : Dword) : Bool :=
  match i.1.toNat with
  | 0 => ctx = i.2.2 && (2 ^ 56 ≤ va.toNat || va.toNat / 2 ^ 30 = i.2.1.toNat * 2 ^ 12 / 2 ^ 30)
  | 1 => ctx = i.2.2
  | _ => true

/-- Addresses that a group's accesses under way have translated: its requests, its engine and tile operations, its copies' chunks. -/
def Group.reaching (g : Group) : List Dword :=
  ((g.outs.filter fun o => !o.restored).flatMap fun o => o.packet.recs.map (·.va))
    ++ (g.mats.flatMap fun m => match m.kind with
      | .mwrMem _ _ ps => ps.map (·.va)
      | _ => [])
    ++ (g.tiles.flatMap fun o => o.pages.map fun p => BitVec.ofNat 64 (p.page * 4096))
    ++ if g.copies.any fun c => c.written || !c.unacked.isEmpty then [BitVec.allOnes 64] else []

/-- No access under way used an entry that an invalidation covers: none of a group, no held store of a team, no held update at an owner.
(DEDUCED: assumption 75.) -/
def State.coherent (s : State) (i : BitVec 2 × BitVec 44 × BitVec 16) : Bool :=
  (s.groups.all fun p => !p.2.reaching.any fun a => mayCover i (s.launchOf p.1).ctx a)
    && (s.teams.all fun p => !p.2.buffer.any fun c => c.pages.any fun g => coversPage i (s.launch p.2.handle).ctx g)
    && s.owners.all fun p => !(p.2.hold ++ p.2.log.flatten).any fun e => e.src = s.image.pkgnum && mayCover i e.ctx e.va

/-- INVALIDATE_COMPLETE of the invalidation that die `die` started, once every access that used a covered entry has reached its
coherence point: on every die, no covered entry is left (R136). -/
def execInvalidateComplete (s : State) : Out :=
  let d := s.inp.die
  match (s.die d).inval with
  | none => .next s
  | some i =>
    let t := { s with tlb := s.tlb.filter fun t => !covers i t }
    .next (if s.coherent i then t.setDie d { s.die d with inval := none } else t)

/-- ORDSIZE_WRITE of `v` on die `die`. -/
def execOrdsizeWrite (s : State) : Out :=
  let d := s.inp.die
  let n : BitVec 9 := s.inp.v.setWidth 9
  s.when (n.toNat ≤ s.ordMax) fun s => s.setDie d { s.die d with ordPending := some n }

/-- ORDSIZE_TAKE_EFFECT on die `die`, once no allocation lies below the boundary. -/
def execOrdsizeTakeEffect (s : State) : Out :=
  let d := s.inp.die
  match (s.die d).ordPending with
  | none => .next s
  | some n => s.when (s.poolAbove d n.toNat) fun s => s.setDie d { s.die d with ordSize := n, ordPending := none }

end Sys2Proof.Machine
end

