-- ==== Sys2Proof/Machine/Logic.lean ====
section
/-! DEFINITION. The logic and bit block, `ICMP`, `SEL` and `MOV` (spec/13_isa_integer_control_lanes.md R283 to R286). -/
namespace Sys2Proof.Machine

def execAnd (f : TF) (s : State) : Out := s.intT 0x010 f
def execOr (f : TF) (s : State) : Out := s.intT 0x011 f
def execXor (f : TF) (s : State) : Out := s.intT 0x012 f
def execAndn (f : TF) (s : State) : Out := s.intT 0x013 f
def execOrn (f : TF) (s : State) : Out := s.intT 0x014 f
def execShl (f : TF) (s : State) : Out := s.intT 0x015 f
def execShr (f : TF) (s : State) : Out := s.intT 0x016 f
def execSar (f : TF) (s : State) : Out := s.intT 0x017 f
def execRotl (f : TF) (s : State) : Out := s.intT 0x018 f
def execFunsh (f : TF) (s : State) : Out := s.intT 0x019 f
def execBfx (f : TF) (s : State) : Out := s.intT 0x01A f
def execBfi (f : TF) (s : State) : Out := s.intT 0x01B f
def execPopc (f : TF) (s : State) : Out := s.intT 0x01C f
def execClz (f : TF) (s : State) : Out := s.intT 0x01D f
def execCtz (f : TF) (s : State) : Out := s.intT 0x01E f
def execBrev (f : TF) (s : State) : Out := s.intT 0x01F f
def execIcmp (f : TF) (s : State) : Out := s.intT 0x020 f
def execSel (f : TF) (s : State) : Out := s.intT 0x021 f
def execMov (f : TF) (s : State) : Out := s.intT 0x022 f

end Sys2Proof.Machine
end

