-- ==== Sys2Proof/Machine/Move.lean ====
section
/-! DEFINITION. `MOVX` and `MOVXW`, which name a register per lane (spec/13_isa_integer_control_lanes.md R287,
spec/05_cores_and_execution.md R101). -/
namespace Sys2Proof.Machine

/-- The index in every lane, and the lanes whose index names no register of the allocation, or no pair (R287). -/
def badIndex (g : Group) (w64 : Bool) (i : Nat) : Bool := g.nregs ≤ i || (w64 && (i % 2 == 1 || g.nregs ≤ i + 1))

/-- The oldest unknown outcome whose register a `MOVX` reads (R42, R287). -/
def Group.unknownAt (g : Group) (act : Lanes) (wide : Bool) (idx : Nat → Nat) : Option Unknown :=
  g.unknowns.find? fun u => u.regs.any fun p =>
    (lanesList act).any fun l => p.2.getLsbD l && (p.1 = idx l || (wide && p.1 = idx l + 1))

/-- What stands before a `MOVX`: the tests of every word, and an unknown outcome that it reads. -/
def Group.movxPre (g : Group) (p : Pre) (wide : Bool) (idx : Nat → Nat) : Pre :=
  match p with
  | .go act =>
    match g.unknownAt act wide idx with
    | some u => g.delivers u
    | none => .go act
  | q => q

/-- `MOVX`: DST takes register i of its own lane; `wide` is the pair form. -/
def State.movx (s : State) (n : Needs) (wide : Bool) (dst : Nat) (nw : Bool) (keep : List Nat) (idx : Nat → Nat) : State :=
  let g := s.cur
  s.afterPre (g.movxPre (s.pre { n with drain := true }) wide idx) fun act =>
    s.dataFault act (fun l => if badIndex g wide (idx l) then some (0x05, 0) else none)
      (s.deliver act dst (if wide then 2 else 1) wide nw keep fun l =>
        if wide then res64 (g.v64 l (idx l)) else res32 ((g.v l (idx l)).setWidth 64))

/-- `MOVXW`: register i of its own lane takes the value register's; the latch receives the value written, and in a lane that does not execute
the value register's. (DESIGN CHOICE: assumption 86.) -/
def State.movxw (s : State) (n : Needs) (wide : Bool) (src : Nat) (keep : List Nat) (idx : Nat → Nat) : State :=
  let g := s.cur
  s.afterPre (s.pre n) fun act =>
    s.dataFault act (fun l => if badIndex g wide (idx l) then some (0x05, 0) else none)
      (let put (g1 : Group) (l : Nat) : Group :=
        let m : Lanes := BitVec.ofNat 32 (2 ^ l)
        if wide then g1.setReg64 (idx l) m fun _ => g.v64 l src else g1.setReg (idx l) m fun _ => g.v l src
      let g1 := (lanesList act).foldl put g
      let g2 := g1.shiftLatch fun l => if wide then g1.v64 l src else (g1.v l src).setWidth 64
      let g2 := if act = 0 then g2 else
        { g2 with latches := (Vector.ofFn fun i : Fin 32 =>
            if act.getLsbD i.val then (if wide then g.v64 i.val src else (g.v i.val src).setWidth 64)
            else laneAt64 (g2.latches.getD 0 zeroRow64) i.val) :: g2.latches.drop 1 }
      ((s.setCur g2).setCache keep ((lanesList act).flatMap fun l => if wide then [idx l, idx l + 1] else [idx l])).advance)

/-- The index (a + b) mod 2³² from two 32-bit operands. -/
def indexOf (a b : Dword) : Nat := (a.toNat % 2 ^ 32 + b.toNat % 2 ^ 32) % 2 ^ 32

def cacheKeep (f : TF) : List Nat := (if f.ua then [f.sa.toNat] else []) ++ (if f.ub then [f.sb.toNat] else [])

/-- The fields that a `MOVX` or `MOVXW` word covers: its two sources and DST. -/
def movxNeeds (wide readsDst : Bool) (dst : Nat) (sa sb : BitVec 9) (guard : BitVec 7) : Needs :=
  let rs := srcRegs .w32 sa ++ srcRegs .w32 sb
  let d := range' dst (if wide then 2 else 1)
  { regs := rs ++ d, reads := if readsDst then rs ++ d else rs, latches := srcLatches .w32 sa ++ srcLatches .w32 sb
    fills := if readsDst then d else [], guard }

def execMovx (f : TF) (s : State) : Out :=
  let wide := f.mod.toNat % 2 == 1
  .next (s.movx (movxNeeds wide false f.dst.toNat f.sa f.sb f.guard) wide f.dst.toNat f.nw (cacheKeep f) fun l =>
    indexOf (s.src s.iss.gid l f.sa false) (s.src s.iss.gid l f.sb false))

def execMovxw (f : TF) (s : State) : Out :=
  let wide := f.mod.toNat % 2 == 1
  .next (s.movxw (movxNeeds wide true f.dst.toNat f.sa f.sb f.guard) wide f.dst.toNat (cacheKeep f) fun l =>
    indexOf (s.src s.iss.gid l f.sa false) (s.src s.iss.gid l f.sb false))

def execMovxI (f : IF) (s : State) : Out :=
  let wide := f.w.toNat % 2 == 1
  .next (s.movx (movxNeeds wide false f.dst.toNat f.sa 0x110 0) wide f.dst.toNat f.nw (if f.ua then [f.sa.toNat] else []) fun l =>
    indexOf (s.src s.iss.gid l f.sa false) (f.imm.setWidth 64))

def execMovxwI (f : IF) (s : State) : Out :=
  let wide := f.w.toNat % 2 == 1
  .next (s.movxw (movxNeeds wide true f.dst.toNat f.sa 0x110 0) wide f.dst.toNat (if f.ua then [f.sa.toNat] else []) fun l =>
    indexOf (s.src s.iss.gid l f.sa false) (f.imm.setWidth 64))

end Sys2Proof.Machine
end

