-- ==== Sys2Proof/Machine/Ethernet.lean ====
section
/-! DEFINITION. The Ethernet ports (spec/01_package_and_bringup.md R19): frames in control-core memory, IEEE 802.1Q tags, timestamps,
and the checksum offload of IPv4 headers and of UDP and TCP over IPv4 and IPv6, whose formats are RFC 791, 8200, 768 and 9293.
(PRESUMED: assumption 65.) -/
namespace Sys2Proof.Machine

/-- A value's bytes, most significant first, and the value of such bytes. -/
def netBytes (n x : Nat) : List Byte := (leBytes n x).reverse
def netVal (bs : List Byte) : Nat := leVal bs.reverse

/-- A frame as its bytes lie in a buffer, and back: one tag is taken off, and an inner one stays in the payload. -/
def frameBytes (f : EthFrame) : List Byte :=
  netBytes 6 f.dstMac.toNat ++ netBytes 6 f.srcMac.toNat
    ++ (match f.tag with
        | some t => netBytes 2 0x8100 ++ netBytes 2 t.toNat
        | none => [])
    ++ netBytes 2 f.etherType.toNat ++ f.payload

def frameOf (bs : List Byte) : EthFrame :=
  let field (i n : Nat) : Nat := netVal ((bs.drop i).take n)
  let tagged := field 12 2 = 0x8100
  let k := if tagged then 16 else 12
  { dstMac := BitVec.ofNat 48 (field 0 6), srcMac := BitVec.ofNat 48 (field 6 6)
    tag := if tagged then some (BitVec.ofNat 16 (field 14 2)) else none
    etherType := BitVec.ofNat 16 (field k 2), payload := bs.drop (k + 2) }

/-- The one's complement sum of bytes taken as 16-bit words. -/
def onesSum : List Byte → Nat
  | a :: b :: t => let s := a.toNat * 256 + b.toNat + onesSum t; s % 2 ^ 16 + s / 2 ^ 16
  | [a] => a.toNat * 256
  | [] => 0

/-- Where the parts of an IP packet lie: the IPv4 header's length, if it has one; the transport's protocol, offset and length; the
pseudo-header's addresses. -/
structure IpParts where
  head : Option Nat
  proto : Nat
  at_ : Nat
  len : Nat
  addrs : List Byte
  /-- A fragment carries no whole transport segment. -/
  fragment : Bool

/-- The parts of a frame's IP packet. The protocol of an IPv6 packet is the next-header byte of its fixed header: behind an extension
header no checksum is looked at. (DESIGN CHOICE: assumption 65.) -/
def ipParts (f : EthFrame) : Option IpParts :=
  let p := f.payload
  let b (i : Nat) : Nat := (p.getD i 0).toNat
  let w (i : Nat) : Nat := netVal ((p.drop i).take 2)
  if f.etherType = 0x0800 && b 0 / 16 = 4 && 20 ≤ p.length then
    let h := b 0 % 16 * 4
    some { head := some h, proto := b 9, at_ := h, len := w 2 - h, addrs := (p.drop 12).take 8, fragment := w 6 % 2 ^ 14 != 0 }
  else if f.etherType = 0x86DD && b 0 / 16 = 6 && 40 ≤ p.length then
    some { head := none, proto := b 6, at_ := 40, len := w 4, addrs := (p.drop 8).take 32, fragment := false }
  else none

/-- Where the transport's checksum lies within its header: UDP 17, TCP 6. -/
def IpParts.sumAt (x : IpParts) : Option Nat :=
  if x.fragment then none else if x.proto = 17 then some 6 else if x.proto = 6 then some 16 else none

/-- The sum over the pseudo-header and the segment. -/
def IpParts.transportSum (x : IpParts) (p : List Byte) : Nat :=
  onesSum (x.addrs ++ netBytes 4 x.len ++ netBytes 4 x.proto ++ (p.drop x.at_).take x.len)

/-- The checksums of a received frame hold; a UDP checksum of zero over IPv4 is none. -/
def frameGood (f : EthFrame) : Bool :=
  match ipParts f with
  | none => true
  | some x =>
    (match x.head with
     | some h => onesSum (f.payload.take h) == 0xFFFF
     | none => true) &&
    (match x.sumAt with
     | some k =>
       (x.proto = 17 && x.head.isSome && netVal ((f.payload.drop (x.at_ + k)).take 2) == 0) || x.transportSum f.payload == 0xFFFF
     | none => true)

/-- Two bytes of a payload replaced by the complement of a sum taken with them zero. -/
def putSum (p : List Byte) (i : Nat) (sum : List Byte → Nat) (udp : Bool) : List Byte :=
  let with_ (v : Nat) : List Byte := p.take i ++ netBytes 2 v ++ p.drop (i + 2)
  let c := 0xFFFF - sum (with_ 0)
  if p.length < i + 2 then p else with_ (if udp && c = 0 then 0xFFFF else c)

/-- A frame as it leaves: its checksums filled in. -/
def frameFilled (f : EthFrame) : EthFrame :=
  match ipParts f with
  | none => f
  | some x =>
    let p := match x.head with
      | some h => putSum f.payload 10 (fun q => onesSum (q.take h)) false
      | none => f.payload
    { f with payload := match x.sumAt with
        | some k => putSum p (x.at_ + k) x.transportSum (x.proto = 17)
        | none => p }

/-- ETH_FRAME_RECEIVE on port `port`: the frame goes to the buffer at `addr`, with its timestamp and the outcome of its checksums; a
management frame of port 0 goes to the responder instead. -/
def execEthFrameReceive (s : State) : Out :=
  let n := s.inp.port
  let f := s.inp.frame
  let a := s.inp.addr.toNat
  s.when (n < 2 && (s.ethPort n).up && !(n = 0 && mgmtFrame f)) fun s =>
    let p := s.ethPort n
    if Config.maxFrame < frameSize f then s.setEth n { p with dropped := p.dropped + 1 }
    else if s.ready && s.backedRange a (frameBytes f).length then
      (s.wrBytes a (frameBytes f)).setEth n { p with rx := p.rx ++ [(f, a, s.now, frameGood f)] }
    else s

/-- ETH_FRAME_TRANSMIT on port `port`: the frame in the buffer at `addr`, of `v` bytes, leaves with its checksums filled in. -/
def execEthFrameTransmit (s : State) : Out :=
  let n := s.inp.port
  let a := s.inp.addr.toNat
  let k := s.inp.v.toNat
  s.when (n < 2 && (s.ethPort n).up && s.ready) fun s =>
    let p := s.ethPort n
    if Config.maxFrame + 4 < k then s.setEth n { p with dropped := p.dropped + 1 }
    else if s.backedRange a k then
      let f := frameOf (s.rdBytes a k)
      s.setEth n (if Config.maxFrame < frameSize f then { p with dropped := p.dropped + 1 } else { p with tx := p.tx ++ [(frameFilled f, s.now)] })
    else s

/-- ETH_LINK_STATE_CHANGE of port `port`: up when `ok`. -/
def execEthLinkStateChange (s : State) : Out :=
  let n := s.inp.port
  s.when (s.powered && n < 2) fun s => s.setEth n { s.ethPort n with up := s.inp.ok }

end Sys2Proof.Machine
end

