-- ==== Sys2Proof/Machine/Waits.lean ====
section
/-! DEFINITION. What happens to groups between their bundles: results land, parked instructions go on, slots turn to other
groups, the engine's passes begin and end, storage finishes clearing (spec/04_scheduler.md R79, R88 to R93,
spec/05_cores_and_execution.md R107, spec/06_address_spaces.md R123, spec/07_memory_model.md R160,
spec/10_determinism_and_reliability.md R219, R229 to R231, spec/15_isa_memory_atomics_sync.md R325, R337 to R346,
spec/16_isa_copy_matrix.md R355, R362, spec/17_isa_tiles_updates_system.md R387). -/
namespace Sys2Proof.Machine

/-! ### Results (R107) -/

/-- Result `k` of the group lands: its values, less those that younger writes took from it; an older result still to land loses the
registers. -/
def Group.land (g : Group) (k : Nat) : Group :=
  match g.late[k]? with
  | none => g
  | some x =>
    if x.ready && !x.isHidden then
      let late := g.late.zipIdx.filterMap fun y =>
        if y.2 = k then none
        else if y.2 < k then some { y.1 with regs := x.regs.foldl (fun rs p => dropRegs p.1 p.2 rs) y.1.regs }
        else some y.1
      let val (r l : Nat) : Word := ((x.rows.find? fun y => y.1 = r).map fun y => laneAt y.2 l).getD 0
      { g with
        late
        regs := x.regs.foldl (fun t p => tabSet zeroRow t p.1 (rowSet (tabGet zeroRow t p.1) p.2 (val p.1))) g.regs }
    else g

/-- REGISTER_WRITEBACK: result number `idx` of group `gid` lands. -/
def execRegisterWriteback (s : State) : Out :=
  let g := s.group s.inp.gid
  .next (if g.live then s.setGroup s.inp.gid (g.land s.inp.idx) else s)

/-! ### Parked instructions -/

/-- The group runs: nothing stops it but its own wait. -/
def State.unstopped (s : State) (gid : Nat) : Bool :=
  let g := s.group gid
  g.live && !g.stopped && g.movingTill ≤ s.now && (s.launchOf gid).state == .running && (s.cluster g.ck).state == .placed

/-- The parked instruction of group `gid` goes on, when it is one that the event wakes: `go` acts with it in the issue stage. -/
def State.wake (s : State) (ok : Instr → Bool) (go : Wait → State → Out) : Out :=
  let gid := s.inp.gid
  let g := s.group gid
  match g.wait with
  | some w =>
    if ok w.i && !w.absent && s.unstopped gid then
      (go w { s.setGroup gid { g with wait := none } with iss := s.issueWait gid w }).map State.finishIssue
    else .next s
  | none => .next s

/-- The group parks again, for the lanes `left`. -/
def State.repark (s : State) (w : Wait) (left : Lanes) : State := s.setCur { s.cur with wait := some { w with left } }

/-- PRESENCE_WAKE: group `gid` issues again the instruction that an absent line stopped, which looks at its lines anew. -/
def execPresenceWake (s : State) : Out :=
  let gid := s.inp.gid
  let g := s.group gid
  .next (
    match g.wait with
    | some w => if w.absent && s.unstopped gid then s.setGroup gid { g with wait := none } else s
    | none => s)

/-- FULL_EMPTY_WAKE: the waiting lanes of group `gid` whose words allow it take their steps. -/
def execFullEmptyWake (s : State) : Out :=
  let step (load : Bool) (f : XM) (w : Wait) (s : State) : Out :=
    let r := s.feSteps load f w.left
    .next (if r.2 = 0 then r.1.feDone.afterX else (r.1.repark w r.2).took (s.feTaken f (w.left &&& ~~~r.2)))
  s.wake
    (fun i => match i with
      | .ldfe _ | .stfe _ => true
      | _ => false)
    fun w s =>
      match w.i with
      | .ldfe f => step true f w s
      | .stfe f => step false f w s
      | _ => .next s

/-- BARRIER_DEPARTURE of group `gid`. -/
def execBarrierDeparture (s : State) : Out :=
  s.wake
    (fun i => match i with
      | .bar _ | .bara _ | .barw _ => true
      | _ => false)
    fun w s =>
      match w.i with
      | .bar f => execBar f s
      | .bara f => execBara f s
      | .barw f => execBarw f s
      | _ => .next s

/-- WAITC_RELEASE of group `gid`. -/
def execWaitcRelease (s : State) : Out :=
  s.wake
    (fun i => match i with
      | .waitc _ => true
      | _ => false)
    fun w s =>
      match w.i with
      | .waitc f => execWaitc f s
      | _ => .next s

/-- QUEUE_VECTOR_WAKE of group `gid`. -/
def execQueueVectorWake (s : State) : Out :=
  s.wake
    (fun i => match i with
      | .qrcv _ => true
      | _ => false)
    fun w s =>
      match w.i with
      | .qrcv f => execQrcv f s
      | _ => .next s

/-- QSND_ROOM_WAKE of group `gid`. -/
def execQsndRoomWake (s : State) : Out :=
  s.wake
    (fun i => match i with
      | .qsnd _ => true
      | _ => false)
    fun w s =>
      match w.i with
      | .qsnd f => execQsnd f s
      | _ => .next s

/-- ORDWAIT_RELEASE of group `gid`. -/
def execOrdwaitRelease (s : State) : Out :=
  s.wake
    (fun i => match i with
      | .ordwait _ => true
      | _ => false)
    fun w s =>
      match w.i with
      | .ordwait f => execOrdwait f s
      | _ => .next s

/-- OBREL_COMPLETE of group `gid`. -/
def execObrelComplete (s : State) : Out :=
  s.wake
    (fun i => match i with
      | .obrel _ => true
      | _ => false)
    fun w s =>
      match w.i with
      | .obrel f => execObrel f s
      | _ => .next s

/-- The group waits in `SVC`. -/
def Group.inSvc (g : Group) : Bool :=
  match g.wait with
  | some w => (match w.i with
    | .svc _ => true
    | _ => false)
  | none => false

/-- SVC_REPLY: a service answers the oldest request of group `gid` with `v`. A request that a pre-emption has abandoned brings its answer to
none. -/
def execSvcReply (s : State) : Out :=
  let gid := s.inp.gid
  let v := s.inp.v
  match s.mailbox.find? fun r => r.gid = gid with
  | none => .next s
  | some r =>
    let t := { s with mailbox := s.mailbox.erase r }
    if !(s.group gid).inSvc || t.mailbox.any (fun x => x.gid = gid) then .next t
    else if !s.unstopped gid then .next s
    else
      t.wake (fun _ => true) fun w s =>
        match w.i with
        | .svc f => .next (s.setCur (s.cur.setReg64 f.e0.toNat w.left fun _ => v)).advance.afterX
        | _ => .next s

/-! ### `WAITA` (R160, R337) -/

/-- Lanes of a remote read that have arrived, and hold the condition. -/
def State.waitaFar (s : State) (f : XM) : Lanes :=
  lanesOf fun l => s.cur.late.any fun x =>
    x.isHidden && x.ready && x.regs.any (fun p => p.2.getLsbD l) &&
      s.waitaHolds f l (wordsVal ((List.range (widthRegs f.width)).map fun k =>
        ((x.rows.find? fun r => r.1 = hiddenReg k).map fun r => laneAt r.2 l).getD 0))

/-- The lanes `sel` read again: each that finds its condition completes. A remote lane reads by a request of its own. -/
def State.waitaRead (s : State) (w : Wait) (f : XM) (sel : Lanes) : State :=
  let res := s.rmwRes f (widthBytes f.width) false
  match s.cur.unknowns.find? fun u => u.regs.any fun p => 0x1000 ≤ p.1 with
  | some u => s.trapUnknown u
  | none =>
    match resFaults sel res with
    | some d => s.takeTrap d.cause d.lanes d.addr d.info
    | none =>
      let xs := lanePlaces sel res
      match xs.filter fun x => s.badRead (widthBytes f.width) x.place with
      | x :: rest =>
        let e := errorAt x.place.pa x.place.stride
        s.consume s.iss.gid e.1 e.2.1 e.2.2 (BitVec.ofNat 64 (x.place.pa / 128 * 128)) (accLanes (x :: rest))
      | [] =>
        let left := w.left &&& ~~~(s.waitaDone f sel ||| (s.waitaFar f &&& sel))
        let s := s.setCur { s.cur with late := s.cur.late.filter fun x => !(x.isHidden && x.ready) }
        if left = 0 then ((s.setCur s.cur.dropHidden).dropMonitors s.iss.gid).advance.afterX
        else
          let far := xs.filter fun x => x.place.kind = 2 && left.getLsbD x.lane
          let s :=
            if far.isEmpty || s.cur.late.any Late.isHidden then s
            else s.sendAll (.load (widthBytes f.width)) f.scope f.ord false ((List.range (widthRegs f.width)).map hiddenReg)
              (far.map fun x => { lane := x.lane, place := x.place, va := x.va })
          s.repark w left

/-- The lanes of a parked `WAITA` whose place a test names. -/
def State.waitaLanes (s : State) (f : XM) (left : Lanes) (t : Place → Bool) : Lanes :=
  lanesOf fun l => (lanePlaces left (s.rmwRes f (widthBytes f.width) false)).any fun x => x.lane = l && t x.place

/-- The group's monitors. -/
def State.monitors (s : State) (gid : Nat) : List Monitor :=
  (s.die (coreDie (slotCore (s.group gid).slot))).monitors.filter fun m => m.gid = gid

/-- The lanes that a monitor watches. -/
def State.watched (s : State) (f : XM) (left : Lanes) : Lanes :=
  s.waitaLanes f left fun p => p.kind ≤ 1 && (s.monitors s.iss.gid).any fun m => m.line = p.pa / 128

/-- The monitors of the group on a line have read it as it stands. -/
def State.readMonitors (s : State) (gid line : Nat) : State :=
  let d := coreDie (slotCore (s.group gid).slot)
  let v := s.lineValue (groupTeam gid) line
  s.setDie d { s.die d with monitors := (s.die d).monitors.map fun m => if m.gid = gid && m.line = line then { m with value := v } else m }

/-- A parked `WAITA` of group `gid` reads again for some of its lanes, once `first` is done; with `poll` its next 512 cycles begin. -/
def State.waitaAgain (s : State) (poll : Bool) (first : State → State) (sel : State → XM → Wait → Lanes) : Out :=
  s.wake
    (fun i => match i with
      | .waita _ => true
      | _ => false)
    fun w s =>
      match w.i with
      | .waita f => .next ((first s).waitaRead (if poll then { w with since := s.now } else w) f (sel s f w))
      | _ => .next s

/-- WAITA_MONITOR_REREAD: a write has reached line `line`, which a monitor of group `gid` watches; or the group's scratchpad lanes read
again, as they do on each write to their line (R335). A write that leaves the line's value lets a read find nothing new. -/
def execWaitaMonitorReread (s : State) : Out :=
  let n := s.inp.line
  let gid := s.inp.gid
  let hit := (s.monitors gid).any fun m => m.line = n && m.value != s.lineValue (groupTeam gid) n
  s.waitaAgain false (fun s => if hit then s.readMonitors gid n else s) fun s f w =>
    s.waitaLanes f w.left fun p => p.kind = 3 || (hit && p.kind ≤ 1 && p.pa / 128 = n)

/-- WAITA_POLL: the lanes of group `gid` that no monitor watches, 512 cycles after they last read (R160). -/
def execWaitaPoll (s : State) : Out :=
  let g := s.group s.inp.gid
  let late : Bool := (g.wait.map fun w => decide (512 ≤ s.cyclesOf (coreDie (slotCore g.slot)) (s.now - w.since))).getD false
  if late then
    s.waitaAgain true id fun s f w => w.left &&& ~~~(s.watched f w.left) &&& ~~~(s.waitaLanes f w.left fun p => p.kind = 3)
  else .next s

/-! ### Slots (R91, R93) -/

/-- The slot moves next. -/
def State.slotNext (s : State) (n : Nat) : State := { s with sched := .slot n :: s.sched }

/-- QUANTUM_EXPIRY of slot `slot`: its turn is R91's choice with the quantum ended. -/
def execQuantumExpiry (s : State) : Out :=
  let n := s.inp.slot
  s.when ((s.slot n).expired) fun s => s.slotNext n

/-- STARVATION_SWITCH of slot `slot`: a group of it that could issue has not for 2,048 cycles. -/
def execStarvationSwitch (s : State) : Out :=
  let n := s.inp.slot
  s.when ((s.residents n).any fun g => s.awake g && s.starved g) fun s => s.slotNext n

/-- YIELD_BUNDLE of group `gid`, which is its slot's current group. -/
def execYieldBundle (s : State) : Out :=
  let g := s.group s.inp.gid
  s.when (s.awake s.inp.gid && g.yields && (s.slot g.slot).cur = some s.inp.gid) fun s => s.slotNext g.slot

/-! ### The engine's passes (R88 to R90, R229 to R231) -/

/-- Effective priority of an entry. -/
def PassReq.eff (e : PassReq) : Nat := min 15 (e.base + e.lost / 16)

/-- An entry precedes another. Of two that are equal in everything, the one of the earlier table entry is taken: two teams of one slot with
equal group index. (DESIGN CHOICE: assumption 72.) -/
def State.passBefore (s : State) (a b : PassReq) : Bool :=
  let sa := (s.group a.gid).slot
  let sb := (s.group b.gid).slot
  b.eff < a.eff || (a.eff == b.eff && (a.arrival < b.arrival || (a.arrival == b.arrival && (sa < sb || (sa == sb &&
    groupIndex a.gid < groupIndex b.gid)))))

/-- ENGINE_PASS_GRANT of quad `quad`. -/
def execEnginePassGrant (s : State) : Out :=
  let q := s.inp.quad
  let x := s.quad q
  match x.table with
  | [] => .next s
  | a :: rest =>
    s.when x.pass.isNone fun s =>
      let e := rest.foldl (fun b y => if s.passBefore y b then y else b) a
      let pass : Pass := { gid := e.gid, left := (s.launchOf e.gid).lease, readyAt := s.now, ops := [], locked := [] }
      let x := { x with
        pass := some pass
        table := x.table.map fun y => if y.gid = e.gid then y else { y with lost := y.lost + 1 } }
      s.setQuad q (if (s.group e.gid).stopped then x.endTurn pass s.now else x)

/-- What an engine instruction does. -/
def engineStep (i : Instr) (s : State) : Option Out :=
  match i with
  | .mma f => some (execMma f s)
  | .mrd f => some (execMrd f s)
  | .mwr f => some (execMwr f s)
  | .mwrMem f => some (execMwrMem f s)
  | .mzero f => some (execMzero f s)
  | .tzero f => some (execTzero f s)
  | .tmac f => some (execTmac f s)
  | .tadd f => some (execTadd f s)
  | .trnd f => some (execTrnd f s)
  | .tdense f => some (execTdense f s)
  | .tcomp f => some (execTcomp f s)
  | .tlu f => some (execTlu f s)
  | .ttrs f => some (execTtrs f s)
  | .tsamp f => some (execTsamp f s)
  | _ => none

/-- An engine instruction of the group is ready: it is the group's next bundle, and nothing holds it back (R92). (DEDUCED: assumption
57.) -/
def State.engineReady (s : State) (gid : Nat) : Bool :=
  s.awake gid &&
    match (s.nextInstr gid).bind fun i => engineStep i { s with iss := s.issueOf gid } with
    | some (.next t) => t.iss.issued || t.group gid != s.group gid
    | _ => false

/-- The passes in force whose group has a ready engine instruction were ready until time `t` (R89). -/
def State.passesReady (s : State) (t : Nat) : State :=
  { s with quads := s.quads.map fun p =>
      match p.2.pass with
      | some x => if s.engineReady x.gid then (p.1, { p.2 with pass := some { x with readyAt := t } }) else p
      | none => p }

/-- No engine instruction of the group of a quad's pass has been ready for 64 cycles: the pass ends. -/
def State.endIdle (s : State) (q : Nat) : State :=
  let x := s.quad q
  match x.pass with
  | none => s
  | some p => if 64 ≤ s.cyclesOf (q / Config.quads) (s.now - p.readyAt) && !s.engineReady p.gid then s.setQuad q (x.endTurn p s.now) else s

/-- PASS_IDLE_END of quad `quad`. -/
def execPassIdleEnd (s : State) : Out := .next (s.endIdle s.inp.quad)

/-- Idle passes end as time passes. -/
def State.passTime (s : State) : State := (s.quads.map (·.1)).foldl State.endIdle s

/-- The teams that hold reservations of a quad give back what they can. -/
def State.tidyQuad (s : State) (q : Nat) : State :=
  (((s.quad q).resvs.map (·.team)).eraseDups).foldl (fun s tk => s.tidy (groupKey tk 0)) s

/-- MATRIX_PASS_RETIRE of quad `quad`: the oldest pass that has ended commits, once its tile operations are executed; its steps find
`mismatches` residue mismatches, after each of which it is executed anew on a spare column, with the same bits (R229). -/
def execMatrixPassRetire (s : State) : Out :=
  let q := s.inp.quad
  match (s.quad q).past with
  | [] => .next s
  | p :: _ =>
    s.when ((s.group p.gid).tiles.all fun o => !p.ops.contains o.id) fun s =>
      let r := s.takeSpares q s.inp.mismatches
      if r.2 then (((r.1.retireMats p.gid p.ops).passOver q).tidy p.gid).tidyQuad q else r.1.passConsumes q p 9

/-! ### Clearing (R79, R362) -/

/-- A saved reservation takes the lowest free range of its quad, under its old handle (R113). -/
def State.seatResv (s : State) (tk : Nat) (r : Resv) : State :=
  let q := coreQuad (s.team tk).core
  let x := s.quad q
  match if x.resvs.length < Config.reservations then x.findRun r.count else none with
  | none => s
  | some k =>
    let s := s.setQuad q { x with resvs := x.resvs ++ [{ r with granule := k, saved := [] }] }
    let s := s.obWrite q (k * 4096) r.saved
    let t := s.team tk
    s.setTeam tk { t with resvs := t.resvs.erase r }

/-- The reservations of a resumed team that fit. -/
def State.seatResvs (s : State) (tk : Nat) : State :=
  if (s.team tk).resident then (s.team tk).resvs.foldl (fun s r => s.seatResv tk r) s else s

/-- The resumed teams of a quad whose reservations wait for room. -/
def State.waitingTeams (s : State) (q : Nat) : List Nat :=
  (s.teams.filter fun p => coreQuad p.2.core = q && p.2.resident && !p.2.resvs.isEmpty).map (·.1)

/-- BACKGROUND_CLEAR_DONE: `cleared` is free. Reservations that wait for granules of the quad take theirs (R113). -/
def execBackgroundClearDone (s : State) : Out :=
  .next (
    match s.inp.cleared with
    | .band n b => s.setSlot n { s.slot n with clearing := (s.slot n).clearing.erase b }
    | .unit c u => s.setCore c { s.core c with clearing := (s.core c).clearing.erase u }
    | .granule q k =>
      let s := s.setQuad q { s.quad q with clearing := (s.quad q).clearing.erase k }
      (s.waitingTeams q).foldl State.seatResvs s)

end Sys2Proof.Machine
end

