-- ==== Sys2Proof/Machine/Package.lean ====
section
/-! DEFINITION. What the package's parts do after bring-up: the governor, the records, scrubbing, Ethernet, CXL, the Ndenath
ports, glint replays, errors met by cores and control cores (spec/01_package_and_bringup.md R16 to R23, R29,
spec/10_determinism_and_reliability.md R226 to R228, R234 to R239). -/
namespace Sys2Proof.Machine

/-! ### The governor (R22, R23, R227) -/

def noMeas : DieMeas := { power := 0, temp := 0 }

/-- The measures of a die in the window. -/
def State.meas (s : State) (d : Nat) : DieMeas := s.inp.meas.getD d noMeas

/-- The temperature bin: 0 below 20 °C, then bins of 5 °C, 22 from 125 °C. -/
def tempBin (t : Nat) : Nat := if t < 20 then 0 else min 22 ((t - 20) / 5 + 1)

/-- A change of point begins. -/
def Die.moveTo (x : Die) (now point mhz : Nat) : Die :=
  if x.point = point && x.mhz = mhz then x else { x with point, mhz, quiet := 0, changing := some (now + 20000) }

/-- The bundles that a die issued in the window, and its replays per million of them (R227). (DEDUCED: assumption 66.) -/
def State.issuedIn (s : State) (d : Nat) : Nat := ((s.slots.filter fun p => p.1 / 576 = d).map (·.2.issued)).sum
/-- The rate lies below, or above, so many replays per million. -/
def State.rateBelow (s : State) (d n : Nat) : Bool := (s.die d).winReplays * 1000000 < n * max 1 (s.issuedIn d)
def State.rateAbove (s : State) (d n : Nat) : Bool := n * max 1 (s.issuedIn d) < (s.die d).winReplays * 1000000

/-- The window's counts start again. -/
def State.newWindow (s : State) (d : Nat) : State :=
  let s := s.setDie d { s.die d with winReplays := 0, winError := false }
  { s with slots := (s.slots.map fun p => if p.1 / 576 = d then (p.1, { p.2 with issued := 0 }) else p).filter fun p => p.2 != ({} : Slot) }

/-- R227's move of a die that is not capped, by its replay rate: below 10, above 100. -/
def Die.scale (x : Die) (now : Nat) (low high : Bool) : Die :=
  if x.winError then { x.moveTo now 0 850 with holdN := now + 1000000000, quiet := 0 }
  else if high then { x.moveTo now (x.point - 1) 850 with quiet := 0 }
  else
    let quiet := if low then min 100 (x.quiet + 1) else 0
    if quiet = 100 && x.point < 3 && x.holdN ≤ now then x.moveTo now (x.point + 1) 850 else { x with quiet }

/-- One step of R23's capping, down to 500 MHz. -/
def Die.cap (x : Die) (now : Nat) : Die := x.moveTo now 4 (if x.point = 4 then max 500 (x.mhz - 50) else 800)

/-- A capped die that no longer needs it may go one step up. (DESIGN CHOICE: assumption 53.) -/
def Die.uncap (x : Die) (now : Nat) (yes : Bool) : Die :=
  if x.point = 4 && yes then (if x.mhz = 800 then x.moveTo now 0 850 else x.moveTo now 4 (x.mhz + 50)) else x

/-- The die that the power cap moves: the highest draw among those that can go lower, and of equal draws the lowest number. (DESIGN
CHOICE: assumption 53.) -/
def State.capDie (s : State) : Option Nat :=
  let total := ((List.range Config.dies).map fun d => (s.meas d).power).sum
  if total ≤ Config.maxPower then none
  else
    ((List.range Config.dies).filter fun d => !((s.die d).point = 4 && (s.die d).mhz ≤ 500)).foldl (fun best d =>
      match best with
      | none => some d
      | some b => if (s.meas b).power < (s.meas d).power then some d else best) none

/-- The governor's window for one die. Every die above 105 degrees takes a step of its own, beside the one that is capped for power.
(DESIGN CHOICE: assumption 53.) -/
def State.governDie (s : State) (capped : Option Nat) (d : Nat) : State :=
  let x := s.die d
  let m := s.meas d
  let hot := 105 < m.temp
  let y :=
    if capped = some d || hot then { x.cap s.now with holdN := if x.winError then s.now + 1000000000 else x.holdN }
    else if x.point = 4 then
      { x.uncap s.now (capped.isNone && s.choose d) with holdN := if x.winError then s.now + 1000000000 else x.holdN }
    else x.scale s.now (s.rateBelow d 10) (s.rateAbove d 100)
  (s.setDie d { y with cappedHot := if hot then some s.now else x.cappedHot }).newWindow d

/-- A die's millisecond in the records: at its temperature and at its point (R29). -/
def State.resideDie (s : State) (d : Nat) : State :=
  (s.count (.temperature d (tempBin (s.meas d).temp))).count (.residency d (s.die d).point)

/-- A window of 1 ms ends: `meas` holds what was measured of each die in it. The records count it on every die, from power-good on; once
READY is 1 the governor moves the dies; a die at 115 degrees trips the package. -/
def State.window (s : State) : State :=
  let t := (List.range Config.dies).foldl State.resideDie { s with windowAt := s.windowAt + 1000000 }
  let t := if s.ready then (List.range Config.dies).foldl (fun t d => t.governDie s.capDie d) t else t
  (List.range Config.dies).foldl (fun t d => t.tripAt d (s.meas d).temp) t

/-- Milliseconds since the end of the last window. -/
def State.windowMs (s : State) : Nat := (s.now - s.windowAt) / 1000000

/-- Bring-up has begun, so that windows end. -/
def State.begun (s : State) : Bool := s.ready || s.lowStage != 0

/-- GOVERNOR_WINDOW, 1 ms after the last one. -/
def execGovernorWindow (s : State) : Out := s.when (s.begun && s.windowMs != 0) State.window

/-- OPERATING_POINT_CHANGE_DONE, on die `die`: the capability is written. -/
def execOperatingPointChangeDone (s : State) : Out :=
  let d := s.inp.die
  s.when (s.die d).changing.isSome fun s => s.changeDone d

/-! ### Records and scrubbing -/

/-- FIELD_RECORD_FLUSH (R29). -/
def execFieldRecordFlush (s : State) : Out := .next s.flushRecords

/-- An error of a memory line, counted for its bank (R29). -/
def State.countEcc (s : State) (line : Nat) (unc : Bool) : State :=
  let e := errorAt (line * 128) 0
  s.count (.ecc e.1 e.2.1 (Config.bankOf line) unc)

/-- A line in which an uncorrectable error is found is poisoned, and its die's governor sees the error (R227, R234). -/
def State.lineLost (s : State) (l : Nat) : State := ((s.countEcc l true).setPoison l true).dieError (errorAt (l * 128) 0).2.1

/-- SCRUB: the lines found with a corrected error, written back as they read, those with an uncorrectable one, which are
poisoned, and the corrected errors that accesses met in other storage (R234). (DEDUCED: assumption 52.) -/
def execScrub (s : State) : Out :=
  s.when s.ready fun s =>
    let s := s.inp.corrected.foldl (fun s l => s.countEcc l false) s
    let s := s.inp.correctedAt.foldl (fun (s : State) e => s.count (.ecc e.1 e.2.1 e.2.2 false)) s
    s.inp.uncorrectable.foldl State.lineLost s

/-! ### CXL (R16, R18, R71) -/

def State.cxlPort (s : State) (p : Nat) : CxlPort := s.cxl.getD p {}
def State.setCxl (s : State) (p : Nat) (x : CxlPort) : State := { s with cxl := s.cxl.set p x }

/-- The highest of a list of values that a device reaches. -/
def highest (l : List Nat) (x : Nat) : Nat := (l.find? fun v => v ≤ x).getD 0

/-- The kinds of device that R16 supports. -/
def cxlSupported (d : CxlDevice) : Bool := d.type = 3 && d.hdmH && !d.backInvalidate && d.switches ≤ 1

/-- CXL_LINK_TRAIN of root port `port`: `device` is what it finds, `ok` says whether the link trains, `width` and `rate` are the
highest that the device supports. A device of another kind is left untrained, and the port tells the runtime. -/
def execCxlLinkTrain (s : State) : Out :=
  let n := s.inp.port
  let w := highest [16, 8, 4] s.inp.width
  let r := highest [64, 32, 16] s.inp.rate
  s.when (s.ready && n < 4) fun s =>
    let x := s.cxlPort n
    let x := { x with device := s.inp.device, unsupported := !cxlSupported s.inp.device }
    if cxlSupported s.inp.device && s.inp.ok && w != 0 && r != 0 then s.setCxl n { x with trained := true, width := w, rate := r }
    else s.setCxl n { x with trained := false, width := 0, rate := 0 }

/-- CXL_DEVICE_REMOVED: the device whose range is `addr`, `v` bytes, is gone from behind the ports of `mask`. -/
def execCxlDeviceRemoved (s : State) : Out :=
  let lo := s.inp.addr.toNat
  let n := s.inp.v.toNat
  s.when (s.ready && n != 0) fun s =>
    { s with
      removed := s.removed ++ [(lo, n)]
      decoders := s.decoders.filter fun d => d.base + d.size ≤ lo || lo + n ≤ d.base
      cxl := s.cxl.zipIdx.map fun (p : CxlPort × Nat) => if s.inp.mask.getLsbD p.2 then { p.1 with devices := p.1.devices - 1 } else p.1 }.writeCxlCap

/-- CXL_LINK_DOWN of root port `port`. -/
def execCxlLinkDown (s : State) : Out :=
  let n := s.inp.port
  s.when (s.ready && n < 4) fun s => (s.setCxl n { s.cxlPort n with trained := false }).writeCxlCap

/-! ### Ndenath ports -/

/-- NDENATH_PORT_STATE_CHANGE of port `port`: up when `ok`. -/
def execNdenathPortStateChange (s : State) : Out :=
  let n := s.inp.port
  s.when (s.ready && n < Config.ports) fun s =>
    let bit : BitVec 32 := BitVec.ofNat 32 (2 ^ n)
    let s := { s with fabUp := if s.inp.ok then s.fabUp ||| bit else s.fabUp &&& ~~~bit }
    s.setCap 5 s.fabUp.toNat

/-! ### Consumption (R228, R235, R239) -/

/-- A live, running group of a launch consumes an error with its next instruction. -/
def State.consumeNext (s : State) (gid source die unit : Nat) (addr : Dword) (lanes : Lanes) : State :=
  let g := s.group gid
  if g.live && !g.stopped then { s with iss := s.issueOf gid }.consume gid source die unit addr lanes else s

/-- GLINT_REPLAY, in the column of lane `lane` of slot `slot` (`idx` 0) or in the engine of quad `quad`: `bad` says that the repeat
cycle failed too, for group `gid`. -/
def execGlintReplay (s : State) : Out :=
  let i := s.inp
  let d := if i.idx = 0 then coreDie (slotCore i.slot) else i.quad / 36
  let s := s.count (if i.idx = 0 then .glintSlot i.slot i.lane else .glintEngine i.quad)
  let s := s.setDie d { s.die d with winReplays := (s.die d).winReplays + 1 }
  .next (
    if i.bad then
      if i.idx = 0 then s.consumeNext i.gid 10 d (coreNum (slotCore i.slot)) 0 (s.issueOf i.gid).run
      else
        match (s.quad i.quad).passes.head? with
        | some p => s.passConsumes i.quad p 10
        | none => s
    else s)

/-- The failing part of an error that group `gid` meets (R238): its die and unit, and the address that its record carries. -/
def State.partOf (s : State) (gid source pa stride : Nat) : Nat × Nat × Dword :=
  let c := slotCore (s.group gid).slot
  if source ≤ 2 || source = 10 then (coreDie c, coreNum c, 0)
  else if source = 3 || source = 9 then (coreDie c, quadLow (coreQuad c), 0)
  else (ownerOf pa stride / 16, ownerOf pa stride % 16, BitVec.ofNat 64 (pa / 128 * 128))

/-- The unit of a storage for the records: a register file is that of a slot (R29, R95). -/
def State.eccUnit (s : State) (gid source unit : Nat) : Nat := if source = 1 then unit * 4 + (s.group gid).slot % 4 else unit

/-- The line of an area in sheet memory in which an error is found is poisoned (R234). -/
def State.areaLost (s : State) (pa : Nat) : State := if s.inSheet pa then s.setPoison (pa / 128) true else s

/-- The launches of this package with entries at a slice. -/
def Owner.heldHere (o : Owner) (pkg : BitVec 16) : List Word :=
  (((o.hold ++ o.log.flatten).filter fun e => e.src = pkg).map (·.launch)).eraseDups

/-- A deterministic launch that may have entries at another package's slices: it runs, or it drains and that package has not reported. -/
def Launch.holdsAt (l : Launch) (pkg : BitVec 16) : Bool :=
  l.determ && l.pkgs.contains pkg && (l.state == .running || (l.state == .ending && l.cause == 0 && !l.reported.contains pkg))

/-- UNCORRECTABLE_CONSUME by group `gid`: an error of the source `source`, of the line at `addr` on a page of plane stride `v`, met by the
next instruction's lanes `lanes`; one of the operand buffer is met by engine operation `idx` of those that the group has issued; one of a
checkpoint area by no instruction. A line of memory, an area's too, is poisoned (R234). An error of source 12, in slice `unit` of die `die` of package
`pkg`, ends every deterministic launch with entries there (R236), and that of another package its launch `handle` alone; one of
source 13 strikes entry `idx` of the slice's result cache (R46). -/
def execUncorrectableConsume (s : State) : Out :=
  let i := s.inp
  .next (
    if i.source = 12 then
      if i.pkg = s.image.pkgnum then
        let hs := (s.owner (i.die * 16 + i.unit)).heldHere i.pkg
        let s := ((s.areaLost i.addr.toNat).count (.ecc 12 i.die i.unit true)).dieError i.die
        hs.foldl (fun s h => s.endUnattributed h (errorInfo 12 i.die i.unit 0)) s
      else if (s.launch i.handle).holdsAt i.pkg then
        s.endUnattributed i.handle (errorInfo 12 i.die i.unit 0)
      else s
    else if i.source = 13 then
      let n := i.die * 16 + i.unit
      let o := s.owner n
      (((s.areaLost i.addr.toNat).count (.ecc 13 i.die i.unit true)).dieError i.die).setOwner n
        { o with cache := o.cache.zipIdx.map fun (e : Entry × Nat) => if e.2 = i.idx then { e.1 with lost := true } else e.1 }
    else if i.source = 8 || i.source = 0 || 12 < i.source then s
    else
      let x := s.partOf i.gid i.source i.addr.toNat i.v.toNat
      let line := i.addr.toNat / 128
      let s :=
        if 4 ≤ i.source && i.source ≤ 6 then s.lineLost line
        else
          (if i.source = 7 || i.source = 11 then s.areaLost i.addr.toNat else s).count (.ecc i.source x.1 (s.eccUnit i.gid i.source x.2.1) true)
      if i.source = 3 then
        match (s.group i.gid).engineOps[i.idx]? with
        | some o => s.opConsumes i.gid 3 o.1 o.2
        | none => s
      else if i.source = 7 then
        (if (s.group i.gid).live then { s with iss := {} }.consume i.gid 7 x.1 x.2.1 x.2.2 i.lanes else s)
      else s.consumeNext i.gid i.source x.1 x.2.1 x.2.2 i.lanes)

/-- CONTROL_CORE_HW_ERROR: hart `hart` consumes the error that it finds at `addr`: a line of memory is poisoned and its error counted
(R227, R234, R242). -/
def execControlCoreHwError (s : State) : Out :=
  let n := s.inp.hart
  let s := if s.backed s.inp.addr.toNat then s.lineLost (s.inp.addr.toNat / 128) else s.dieError (n / Config.harts)
  .next (s.setHart n ((s.hart n).takeException 19 s.inp.addr))

end Sys2Proof.Machine
end

