-- ==== Sys2Proof/Machine/Placer.lean ====
section
/-! DEFINITION. The placer: where a cluster fits, compaction, the gang start and the resume (spec/04_scheduler.md R73 to R82,
R87, spec/05_cores_and_execution.md R109, R110, R113, spec/10_determinism_and_reliability.md R231, R236, R240). -/
namespace Sys2Proof.Machine

/-! ### What a cluster needs -/

/-- Groups of a team that need a context and bands: those that have not ended (R77). -/
def State.needGroups (s : State) (tk : Nat) : List Nat := (s.groupsOf tk).filter fun g => (s.group g).exited != allLanes

/-- Bands of a group of the launch. -/
def Launch.bands (l : Launch) : Nat := l.regs + 1

/-- What counts as free besides what is free: the clusters of `gone`, which leave, and with `soon` everything that is being
cleared or pre-empted. The teams of `plus`, each with a core, count as hosted there. -/
structure Given where
  gone : List Nat := []
  soon : Bool := false
  plus : List (Nat × Nat) := []

/-- A cluster keeps what it holds. -/
def State.keeps (s : State) (v : Given) (ck : Nat) : Bool :=
  !v.gone.contains ck && !(v.soon && ((s.cluster ck).state == .saving || (s.cluster ck).state == .saved))

/-- Bands in use of a slot. -/
def State.usedBands (s : State) (v : Given) (n : Nat) : List Nat :=
  ((s.residents n).filter fun g => s.keeps v (s.group g).ck).flatMap (fun g => range' (s.group g).band (s.group g).nbands)
    ++ if v.soon then [] else (s.slot n).clearing

/-- Units in use of a core. -/
def State.usedUnits (s : State) (v : Given) (c : Nat) : List Nat :=
  (s.teams.filter fun p => p.2.core = c && s.keeps v p.2.ck).flatMap (fun p => p.2.units)
    ++ if v.soon then [] else (s.core c).clearing

/-- The free ones below a bound. -/
def freeBelow (n : Nat) (used : List Nat) : List Nat := (List.range n).filter fun k => !used.contains k

/-- Groups of a team that slot `n` of its core hosts, and their bands. -/
def State.slotNeeds (s : State) (tk n : Nat) : Nat × Nat :=
  let k := ((s.needGroups tk).filter fun g => groupIndex g % 4 = n).length
  (k, k * (s.launch (keyHandle tk)).bands)

/-- Slot `n` of core `c` can host its groups of some teams (R77). -/
def State.slotFits (s : State) (v : Given) (c n : Nat) (ts : List Nat) : Bool :=
  let needs := ts.map fun t => s.slotNeeds t n
  ((s.residents (c * 4 + n)).filter fun g => s.keeps v (s.group g).ck).length + (needs.map (·.1)).sum ≤ Config.groupsPerSlot &&
    (needs.map (·.2)).sum ≤ (freeBelow Config.bands (s.usedBands v (c * 4 + n))).length

/-- The cores of a rectangle in the order of its members (R76). -/
def rectangle (die origin w h : Nat) : List Nat :=
  (List.range h).flatMap fun j => (List.range w).map fun i => die * Config.cores + origin + Config.mesh * j + i

/-- The teams of a cluster with the cores of a rectangle. -/
def State.seats (s : State) (ck die origin : Nat) : List (Nat × Nat) :=
  let l := s.launch (s.cluster ck).handle
  (s.teamsOf ck).zip (rectangle die origin l.cw l.ch)

/-- The rectangle that a move has found for a cluster which is not on it yet is kept for it (R85). -/
def State.promised (s : State) (but : Nat) : List (Nat × Nat) :=
  s.clusters.flatMap fun p =>
    let waits := p.2.state == .saving || p.2.state == .saved || p.2.state == .pending
    match p.2.target with
    | some r => if p.1 != but && waits && (s.launch p.2.handle).state == .running then s.seats p.1 r.1 r.2 else []
    | none => []

/-- A core that no team of a cluster is hosted on: one removed with its quad (R231), or barred for the cluster (R236). -/
def State.shut (s : State) (ck c : Nat) : Bool := (s.die (coreDie c)).quadsOut.contains (coreQuad c) || (s.cluster ck).barred.contains c

/-- A core can host a team of a cluster (R77): it is neither removed with its quad (R231) nor barred for the cluster (R236). -/
def State.coreFits (s : State) (v : Given) (ck tk c : Nat) : Bool :=
  let ts := tk :: (((v.plus ++ s.promised ck).filter fun x => x.2 = c).map (·.1))
  !s.shut ck c &&
    (ts.map fun t => (s.launch (keyHandle t)).scratch).sum ≤ (freeBelow Config.units (s.usedUnits v c)).length &&
    (List.range Config.slots).all fun n => s.slotFits v c n ts

/-- An origin whose rectangle lies on the mesh. -/
def onMesh (origin w h : Nat) : Bool := origin % Config.mesh + w ≤ Config.mesh && origin / Config.mesh + h ≤ Config.mesh

/-- The areas of a team that was never placed: checkpoints, team area, store buffer (R109, R110, R240). -/
def State.teamAreas (s : State) (tk d : Nat) : Option State :=
  let l := s.launch (keyHandle tk)
  if (s.team tk).started then some s
  else
    let gs := List.range l.groups
    let s := gs.foldl (fun (o : Option State) g => o.bind fun s => s.takeArea (.checkpoint g) tk d (0x4400 + 2048 * l.bands)) (some s)
    let s := s.bind fun s => s.takeArea .team tk d (0x2000 + 0x4000 * l.groups + 0x1090 * l.scratch)
    if l.relaunch then s.bind fun s => s.takeArea .store tk d (2 ^ 18) else s

/-- The areas of a cluster on a die; none when its pool cannot hold them. -/
def State.clusterAreas (s : State) (ck d : Nat) : Option State :=
  (s.teamsOf ck).foldl (fun (o : Option State) tk => o.bind fun s => s.teamAreas tk d) (some s)

/-- The rectangle at an origin fits (R76). -/
def State.rectFits (s : State) (v : Given) (ck die origin : Nat) : Bool :=
  let l := s.launch (s.cluster ck).handle
  onMesh origin l.cw l.ch && (s.seats ck die origin).all fun x => s.coreFits v ck x.1 x.2

/-- The first fitting origin of a die. -/
def State.dieFits (s : State) (v : Given) (ck die : Nat) : Option Nat :=
  if (s.clusterAreas ck die).isSome then (List.range Config.cores).find? fun o => s.rectFits v ck die o else none

/-- The order of the dies for a cluster (R75). -/
def State.dieOrder (s : State) (ck : Nat) : List Nat :=
  let l := s.launch (s.cluster ck).handle
  let first := match l.lastDie with
    | none => l.queue % Config.dies
    | some d => (d + 1) % Config.dies
  (List.range Config.dies).map fun i => (first + i) % Config.dies

/-- The die and the origin that a cluster goes to. -/
def State.findRect (s : State) (v : Given) (ck : Nat) : Option (Nat × Nat) :=
  (s.dieOrder ck).findSome? fun d => (s.dieFits v ck d).map fun o => (d, o)

/-! ### Bands (R81, R82) -/

/-- The lowest run of `b` free bands. -/
def lowestRun (used : List Nat) (b : Nat) : Option Nat :=
  (List.range (Config.bands + 1 - b)).find? fun k => (List.range b).all fun i => !used.contains (k + i)

/-- An engine operation that reads or writes the registers of its group. -/
def MatOp.usesRegs (m : MatOp) : Bool :=
  match m.kind with
  | .mma .. | .mrd .. | .mwr .. => true
  | _ => false

/-- A group may move (R82). -/
def State.mayMove (s : State) (gid : Nat) : Bool :=
  let g := s.group gid
  let x := s.slot g.slot
  !(g.mats.any MatOp.usesRegs) && !(match x.heldA with
    | some h => h.gid = gid
    | none => false) && (s.cluster g.ck).state != .saving && (s.cluster g.ck).state != .saved && !(x.cur = some gid && s.readsLatch gid)

/-- A group's bands are copied to `band`: it stands still meanwhile, for 32 cycles a band and at most 512, and its latches fall. -/
def State.relocate (s : State) (gid band : Nat) : State :=
  let g := s.group gid
  let mhz := max 1 (s.die (coreDie (slotCore g.slot))).mhz
  s.setGroup gid { g with band, lvalid := 0, movingTill := s.now + min 512 (32 * g.nbands) * 1000 / mhz }

/-- The walk of R82 over the groups that are left, above the band `above`. (DEDUCED: assumption 47.) -/
def State.compactWalk (s : State) (n b : Nat) : List Nat → Nat → State
  | [], _ => s
  | gid :: rest, above =>
    if (lowestRun (s.usedBands {} n) b).isSome then s
    else
      let g := s.group gid
      if !s.mayMove gid then s.compactWalk n b rest (g.band + g.nbands)
      else
        let used := s.usedBands { gone := [] } n
        let ok (f : Nat) : Bool := !used.contains f && (List.range g.nbands).all fun i =>
          !used.contains (f + i) || (g.band ≤ f + i && f + i < g.band + g.nbands)
        match (range' above (g.band - above)).find? ok with
        | some f => (s.relocate gid f).compactWalk n b rest (f + g.nbands)
        | none => s.compactWalk n b rest (g.band + g.nbands)

/-- The residents of a slot by their first bands. -/
def State.byBand (s : State) (n : Nat) : List Nat := (s.residents n).mergeSort fun a b => (s.group a).band ≤ (s.group b).band

/-- A run of `b` bands in a slot, after compaction where it is needed; the relocations of a walk that finds none stay. -/
def State.takeRun (s : State) (n b : Nat) : State × Option Nat :=
  match lowestRun (s.usedBands {} n) b with
  | some k => (s, some k)
  | none =>
    let t := s.compactWalk n b (s.byBand n) 0
    (t, lowestRun (t.usedBands {} n) b)

/-- Of a placement that some slot had no run for, the relocations stay and nothing else does (R82). -/
def State.keepMoves (s t : State) : State :=
  { s with groups := s.groups.map fun p =>
      if p.2.live then
        let g := t.group p.1
        (p.1, { p.2 with band := g.band, lvalid := g.lvalid, movingTill := g.movingTill })
      else p }

/-! ### Start and resume (R78, R79, R87, R113) -/

/-- A group's checkpoint before its first region: the team start, with an empty live range (R108). -/
def startCkpt (l : Launch) (replay : Word) : Ckpt :=
  { pcs := Vector.replicate 32 l.entry, exited := 0, waiting := 0, masks := [], stand := [], first := 0, last := 0, none := true, ycount := 0,
    ylane := 31, yforce := false, fpflags := 0, trap := {}, wserial := 0, rstart := 0, tstart := 0, hold := l.relaunch, outs := [], replay, regs := [],
    bar := false, nTile := 0, nCopy := 0, nReq := 0, unknowns := [] }

/-- An outstanding request as a resume restores it: its re-execution sends it again (R47). -/
def OutReq.restore (o : OutReq) : OutReq := { o with restored := true, held := true, busy := false }

/-- The group restored from its checkpoint. -/
def Group.restore (g : Group) (c : Ckpt) : Group :=
  { g with
    regs := c.regs, pcs := c.pcs, exited := c.exited, waiting := c.waiting, masks := c.masks, stand := c.stand, latches := [], lvalid := 0
    ycount := c.ycount, ylane := c.ylane, yforce := c.yforce, fpflags := c.fpflags, trap := c.trap, handler := none
    wserial := c.wserial, rstart := c.rstart, tstart := c.tstart, hold := c.hold, replay := c.replay, outs := c.outs.map OutReq.restore, rem := [], first := c.first
    last := c.last, noLive := c.none, ckpt := some c, inBar := c.bar, mats := [], matOps := [], tiles := [], late := [], unknowns := c.unknowns, steps := c.steps
    wait := none, stopped := false, movingTill := 0 }

/-- A class-2 address of an old core, on the new one (R87). -/
def moveAddr (old new : Nat) (a : Dword) : Dword :=
  if a.toNat / 2 ^ 32 = 0xFD000000 + coreDie old * 2 ^ 8 + coreNum old then
    BitVec.ofNat 64 ((0xFD000000 + coreDie new * 2 ^ 8 + coreNum new) * 2 ^ 32 + a.toNat % 2 ^ 32)
  else a

/-- A copy that continues on a new core names its own scratchpad there. -/
def Copy.moveTo (old new : Nat) (c : Copy) : Copy :=
  { c with dst := moveAddr old new c.dst, src := moveAddr old new c.src, spos := moveAddr old new c.spos }

/-- One group takes a context and bands in its slot, and its state: that of the team start, or its checkpoint's; false when the slot has
no run of bands. -/
def State.seatGroup (s : State) (ck core old : Nat) (gid : Nat) : State × Bool :=
  let tk := groupTeam gid
  let l := s.launch (keyHandle tk)
  let n := core * 4 + groupIndex gid % 4
  let r := s.takeRun n l.bands
  match r.2 with
  | none => (r.1, false)
  | some band =>
    let s := r.1
    let g := s.group gid
    let fresh := !(s.team tk).started
    let c := g.ckpt.getD (startCkpt l 0)
    let g := if fresh then { ({} : Group).restore c with prio := l.prio } else g.restore c
    (s.setGroup gid { g with
      live := true, team := tk, ck, slot := n, band, nbands := l.bands, lastIssue := s.now, lastStep := s.fresh, placedAt := s.now
      copies := g.copies.map (Copy.moveTo old core) }, true)

/-- Steps taken one after another while each succeeds. -/
def allSteps {α : Type} (f : State → α → State × Bool) (s : State) : List α → State × Bool
  | [] => (s, true)
  | a :: t =>
    let r := f s a
    if r.2 then allSteps f r.1 t else r

/-- A table saved with a team goes to the physical units. -/
def toUnits {β : Type} [DecidableEq β] (d : β) (size : Nat) (units : List Nat) (t saved : Tab β) : Tab β :=
  saved.foldl (fun t x => tabSet d t (units.getD (x.1 / size) 0 * size + x.1 % size) x.2) t

/-- The other way: the entries of a team's units, by the team's own offsets. -/
def fromUnits {β : Type} [DecidableEq β] (d : β) (size : Nat) (units : List Nat) (t : Tab β) : Tab β :=
  units.zipIdx.foldl (fun (acc : Tab β) u =>
    (t.filter fun x => u.1 * size ≤ x.1 && x.1 < (u.1 + 1) * size).foldl (fun acc x =>
      tabSet d acc (u.2 * size + x.1 % size) x.2) acc) []

/-- A team takes its units on a core, with its saved scratchpad and its launch's saved vectors ahead of later arrivals (R346). -/
def State.seatTeam (s : State) (tk core : Nat) : State :=
  let t := s.team tk
  let l := s.launch (keyHandle tk)
  let units := (freeBelow Config.units (s.usedUnits {} core)).take l.scratch
  let x := s.core core
  let s := s.setCore core { x with
    pad := toUnits 0 4096 units x.pad t.pad, full := toUnits false 1024 units x.full t.full
    pend := toUnits 0 32 units x.pend t.pend, queue := t.queues ++ x.queue }
  s.setTeam tk { t with
    live := true, handle := keyHandle tk, index := teamIndex tk, core, resident := true, units, pad := [], full := [], pend := []
    queues := [] }

/-- The private descriptor that the placer reads at a team's first placement (R121). -/
def State.privateArea (s : State) (tk : Nat) : State :=
  let l := s.launch (keyHandle tk)
  let t := s.team tk
  if t.started then s
  else
    let r := if l.param = 0 then none else s.unitRead (coreDie t.core) l.ctx l.param 16 0x300
    match r with
    | none => s
    | some x =>
      let base := x % 2 ^ 64
      if base % 4096 = 0 then s.setTeam tk { t with pbase := BitVec.ofNat 64 base, psize := x / 2 ^ 64 % 2 ^ 32 } else s

/-- One team of a cluster on its core; false when a slot has no run of bands. -/
def State.placeTeam (s : State) (ck tk core : Nat) : State × Bool :=
  let old := (s.team tk).core
  let gs := s.needGroups tk
  let r := allSteps (fun s g => s.seatGroup ck core old g) ((s.seatTeam tk core).privateArea tk) gs
  if r.2 then ((r.1.setTeam tk { r.1.team tk with ck, started := true }).seatResvs tk, true) else r

/-- A cluster whose rectangle fits is placed as a whole (R78); while some slot has no run of bands it waits, and only the relocations of
the walks stay. -/
def State.placeAt (s : State) (ck die origin : Nat) : State × Bool :=
  let c := s.cluster ck
  match s.clusterAreas ck die with
  | none => (s, false)
  | some t =>
    let r := allSteps (fun t x => t.placeTeam ck x.1 x.2) t (s.seats ck die origin)
    if r.2 then
      let s := r.1.setCluster ck { c with
        state := .placed, die, origin, blocking := none, resumed := true, placedAt := s.fresh, target := none, moves := 0 }
      let s := s.setLaunch c.handle { s.launch c.handle with lastDie := some die }
      (((s.teamsOf ck).foldl State.tidyTeam s).tidyCluster ck, true)
    else (s.keepMoves r.1, false)

/-! ### The pending list (R73, R74) -/

/-- Pending clusters of running launches. -/
def State.pendingClusters (s : State) : List Nat :=
  (s.clusters.filter fun p => p.2.state == .pending && (s.launch p.2.handle).state == .running).map (·.1)

/-- The placer scans one cluster before another. -/
def State.scannedFirst (s : State) (a b : Nat) : Bool :=
  let x := s.cluster a
  let y := s.cluster b
  let l := s.launch x.handle
  let m := s.launch y.handle
  if x.handle = y.handle then (if x.resumed = y.resumed then x.index ≤ y.index else x.resumed)
  else if l.prio = m.prio then l.dispatched ≤ m.dispatched else m.prio < l.prio

/-- The pending list in the order of the scan, moved clusters first (R85). -/
def State.pendingList (s : State) : List Nat :=
  let l := s.pendingClusters.mergeSort s.scannedFirst
  (l.filter fun c => (s.cluster c).target.isSome) ++ l.filter fun c => (s.cluster c).target.isNone

/-- The clusters that may be placed now: none behind a blocking one, and of a deterministic launch only its first. -/
def State.placeable (s : State) : List Nat → List Word → List Nat
  | [], _ => []
  | ck :: rest, seen =>
    let c := s.cluster ck
    let here := if seen.contains c.handle then [] else [ck]
    let seen := if (s.launch c.handle).determ then c.handle :: seen else seen
    if c.blocking.isSome then here else here ++ s.placeable rest seen

/-- Where a pending cluster goes: the rectangle found for its move, which is kept for it, and R75's when a core of that is lost. -/
def State.rectFor (s : State) (ck : Nat) : Option (Nat × Nat) :=
  match (s.cluster ck).target with
  | some r =>
    if (s.seats ck r.1 r.2).any fun x => s.shut ck x.2 then s.findRect {} ck
    else if s.rectFits {} ck r.1 r.2 then some r else none
  | none => s.findRect {} ck

/-- The first cluster of a list that fits is placed. -/
def State.placeFirst (s : State) : List Nat → State
  | [] => s
  | ck :: rest =>
    match s.rectFor ck with
    | none => s.placeFirst rest
    | some r =>
      let x := s.placeAt ck r.1 r.2
      if x.2 then x.1 else x.1.placeFirst rest

/-- CLUSTER_PLACE: the first cluster of the pending list that fits is placed. -/
def execClusterPlace (s : State) : Out := .next (s.placeFirst (s.placeable s.pendingList []))

/-- A cluster pending for 20 µs is blocking (R73). -/
def State.block (s : State) (ck : Nat) : State :=
  let c := s.cluster ck
  if c.state == .pending && c.blocking.isNone && us 20 ≤ s.now - c.since then s.setCluster ck { c with blocking := some s.now } else s

/-- CLUSTER_BLOCKING of cluster `ck`. -/
def execClusterBlocking (s : State) : Out := .next (s.block s.inp.ck)

/-- What time forces on launches and clusters: watchdogs expire (R64), pending clusters become blocking (R73). -/
def State.launchTime (s : State) : State :=
  let s := (s.launches.map fun (p : Nat × Launch) => p.2.handle).foldl State.expire s
  (s.clusters.map (·.1)).foldl State.block s

end Sys2Proof.Machine
end

