-- ==== Sys2Proof/Machine/Preempt.lean ====
section
/-! DEFINITION. Pre-emption, moves and the supervisor's decision (spec/04_scheduler.md R74, R83 to R87,
spec/05_cores_and_execution.md R112, R113, spec/10_determinism_and_reliability.md R231, R235 to R238,
spec/02_fabric_and_exactly_once.md R47, R48, spec/15_isa_memory_atomics_sync.md R346). -/
namespace Sys2Proof.Machine

/-! ### Whom a pending cluster displaces -/

/-- The priority of a cluster's launch. -/
def State.prioOf (s : State) (ck : Nat) : Nat := (s.launch (s.cluster ck).handle).prio

/-- Placed clusters of running launches. -/
def State.placedClusters (s : State) : List Nat :=
  (s.clusters.filter fun p => p.2.state == .placed && (s.launch p.2.handle).state == .running).map (·.1)

/-- The clusters that may be moved for one (R85). -/
def State.movable (s : State) (p : Nat) : List Nat :=
  s.placedClusters.filter fun c =>
    (s.launch (s.cluster c).handle).migratable && s.prioOf c ≤ s.prioOf p && (s.findRect {} c).isSome &&
      match (s.cluster c).movedAt with
      | none => true
      | some t => us 1000 ≤ s.now - t

/-- The subsets of `k` elements of a list. -/
def subsets : Nat → List Nat → List (List Nat)
  | 0, _ => [[]]
  | _ + 1, [] => []
  | k + 1, a :: t => (subsets k t).map (a :: ·) ++ subsets (k + 1) t

/-- Moves of clusters, each with the die and the origin found for it. -/
abbrev Moves := List (Nat × Nat × Nat)

/-- A rectangle for a moved cluster that fits now, and beside what the other rectangles of the move take. -/
def State.moveTarget (s : State) (v : Given) (c : Nat) : Option (Nat × Nat) :=
  (s.dieOrder c).findSome? fun d =>
    if (s.clusterAreas c d).isSome then
      ((List.range Config.cores).find? fun o => s.rectFits {} c d o && s.rectFits v c d o).map fun o => (d, o)
    else none

/-- Rectangles for the clusters of a set, one after another. -/
def State.moveTargets (s : State) (v : Given) : List Nat → Option Moves
  | [] => some []
  | c :: rest =>
    (s.moveTarget v c).bind fun r =>
      (s.moveTargets { v with plus := v.plus ++ s.seats c r.1 r.2 } rest).map ((c, r) :: ·)

/-- The lowest origin on a die whose rectangle takes `p` once the clusters of `m` have moved, with their moves. -/
def State.movesFor (s : State) (p d : Nat) (m : List Nat) : Option (Nat × Moves) :=
  let v : Given := { gone := m, soon := true }
  if (s.clusterAreas p d).isSome then
    (List.range Config.cores).findSome? fun o =>
      if s.rectFits v p d o then (s.moveTargets { v with plus := s.seats p d o } m).map fun x => (o, x) else none
  else none

/-- Of the sets of one size on one die, those that free the lowest origin. -/
def State.bestMoves (s : State) (p d : Nat) (sets : List (List Nat)) : List Moves :=
  let xs := sets.filterMap (s.movesFor p d)
  match xs with
  | [] => []
  | a :: rest =>
    let low := rest.foldl (fun n x => min n x.1) a.1
    (xs.filter fun x => x.1 = low).map (·.2)

/-- The sets of moves among which R85 leaves the choice: the fewest moves, then the earliest die, then the lowest origin. At most four
clusters are moved for one. -/
def State.moveSets (s : State) (p : Nat) : List Moves :=
  let ms := s.movable p
  ((range' 1 (4 - (s.cluster p).moves)).findSome? fun k => (s.dieOrder p).findSome? fun d =>
    let best := s.bestMoves p d (subsets k (ms.filter fun c => (s.cluster c).die = d))
    if best.isEmpty then none else some best).getD []

/-- A blocking cluster that no rectangle takes, even when what is leaving has left. -/
def State.stuck (s : State) (p : Nat) : Bool :=
  (s.cluster p).state == .pending && (s.launch (s.cluster p).handle).state == .running && (s.findRect { soon := true } p).isNone

/-- CLUSTER_MOVE for the blocking cluster `ck`: the clusters of one set are pre-empted, each with the rectangle found for it. -/
def execClusterMove (s : State) : Out :=
  let p := s.inp.ck
  let sets := s.moveSets p
  s.when ((s.cluster p).blocking.isSome && s.stuck p && !sets.isEmpty) fun s =>
    let m := sets.getD ((s.freeBits 0).toNat % sets.length) []
    let s := m.foldl (fun s r =>
      (s.setCluster r.1 { s.cluster r.1 with target := some r.2, movedAt := some s.now }).beginPreempt r.1) s
    s.setCluster p { s.cluster p with moves := (s.cluster p).moves + m.length }

/-- The clusters that R84 takes on one die, in its order: lowest priority, then latest placement. -/
def State.victimsOn (s : State) (p d : Nat) : Option (List Nat) :=
  let cs := (s.placedClusters.filter fun c => (s.cluster c).die = d && s.prioOf c < s.prioOf p).mergeSort fun a b =>
    s.prioOf a < s.prioOf b || (s.prioOf a == s.prioOf b && (s.cluster b).placedAt ≤ (s.cluster a).placedAt)
  ((List.range (cs.length + 1)).find? fun k => (s.dieFits { gone := cs.take k, soon := true } p d).isSome).map cs.take

/-- VICTIM_PREEMPT for cluster `ck`, pending for 50 µs; moving is tried first (R83). -/
def execVictimPreempt (s : State) : Out :=
  let p := s.inp.ck
  s.when ((s.cluster p).blocking.isSome && us 50 ≤ s.now - (s.cluster p).since && s.stuck p && (s.moveSets p).isEmpty) fun s =>
    match (s.dieOrder p).findSome? (s.victimsOn p) with
    | some vs => vs.foldl State.beginPreempt s
    | none => s

/-- Every group of a placed cluster that has not ended is parked in `ORDWAIT`. -/
def State.allOrdwait (s : State) (ck : Nat) : Bool :=
  ((s.teamsOf ck).flatMap s.needGroups).all fun g =>
    match (s.group g).wait with
    | some w => (match w.i with
      | .ordwait _ => true
      | _ => false)
    | none => false

/-- R74's pre-emptions, one after another, until the resumed cluster would fit or no waiting cluster is left. -/
def State.deterministicPreempts (s : State) (p : Nat) : List Nat → State
  | [] => s
  | c :: rest => if (s.findRect { soon := true } p).isSome then s else (s.beginPreempt c).deterministicPreempts p rest

/-- DETERMINISTIC_PREEMPT for the resumed cluster `ck`. -/
def execDeterministicPreempt (s : State) : Out :=
  let p := s.inp.ck
  let c := s.cluster p
  let l := s.launch c.handle
  s.when (c.state == .pending && l.state == .running && l.determ && c.resumed && us 50 ≤ s.now - c.since) fun s =>
    let cs := (s.placedClusters.filter fun x => (s.cluster x).handle = c.handle && s.allOrdwait x).mergeSort fun a b =>
      (s.cluster b).index ≤ (s.cluster a).index
    s.deterministicPreempts p cs

/-! ### The pre-emption (R86, R112) -/

/-- The groups of a cluster that hold contexts. -/
def State.liveGroups (s : State) (ck : Nat) : List Nat := ((s.teamsOf ck).flatMap s.groupsOf).filter fun g => (s.group g).live

/-- A request that stores, and is not answered. -/
def OutReq.draining (o : OutReq) : Bool :=
  !o.restored && match o.packet.op with
    | .store _ | .stores _ _ => true
    | _ => false

/-- The steps that a group's unfinished `LDFE` or `STFE` has taken are undone: the pre-emption takes effect before the instruction (R108,
R404). One whose word's state has changed since stays, and the checkpoint keeps it. (DEDUCED: assumption 87.) -/
def State.undoSteps (s : State) (gid : Nat) : State :=
  let g := s.group gid
  match g.wait with
  | none => s
  | some w =>
    (w.taken.filter fun t => !t.seen).foldl (fun s t =>
      let p : Place := { kind := 3, core := t.core, pa := t.pa }
      match w.i with
      | .ldfe _ => s.setFull p true
      | .stfe _ => (s.padWrite t.core t.pa (leBytes 4 t.data.toNat)).setFull p false
      | _ => s) (s.setGroup gid { g with wait := some { w with taken := w.taken.filter (·.seen) } })

/-- The steps of a group's wait that stay done. -/
def Group.keptSteps (g : Group) : List (Dword × Nat × Word) :=
  match g.wait with
  | none => []
  | some w => (w.taken.filter (·.seen)).map fun t => (w.pc, t.lane, t.data)

/-- A pass of another cluster works on a range of the cluster's team, or stands before a pass of the cluster. -/
def State.passBars (s : State) (ck tk : Nat) : Bool :=
  let x := s.quad (coreQuad (s.team tk).core)
  let other (p : Pass) : Bool := (s.group p.gid).ck != ck
  (x.passes.any fun p => other p && x.resvs.any fun r => r.team = tk && p.locked.contains r.handle)
    || (x.past.dropWhile fun p => !other p).any fun p => !other p

/-- What a pre-emption waits for: a chunk under way, stores on their way to another package, an engine or tile operation that reads or may
write another package, passes of others (R86, R112, R230). -/
def State.mustWait (s : State) (ck : Nat) : Bool :=
  (((s.teamsOf ck).flatMap s.groupsOf).any fun g =>
      (s.group g).copies.any (fun c => c.written) || (s.group g).outs.any OutReq.draining
        || (s.group g).mats.any (fun o => o.serial.isSome)
        || (s.group g).tiles.any fun o => o.serial.isSome || o.pages.any fun p => p.kind = 2)
    || (s.teamsOf ck).any (s.passBars ck)

/-- Operations of a group's engine complete. -/
def State.runOps (s : State) (gid : Nat) (ids : List Nat) : State :=
  let s := (s.group gid).tiles.foldl (fun s o =>
    if ids.contains o.id && (s.group gid).tiles.contains o then s.runTile gid o else s) s
  s.retireMats gid ids

/-- A group's engine operations complete, those of the passes before its own first; its entries and passes leave the engine. -/
def State.drainEngine (s : State) (gid : Nat) : State :=
  let q := s.quadOf gid
  let s := s.closePass gid
  let ps := (s.quad q).past
  let n := ps.length - (ps.reverse.takeWhile fun p => p.gid != gid).length
  let s := (ps.take n).foldl (fun s p => s.runOps p.gid p.ops) s
  let s := s.setQuad q { s.quad q with past := ps.drop n }
  let s := s.runOps gid ((s.group gid).engineOps.map (·.1))
  (s.dropEngine gid).releaseA gid

/-- A copy stops at a chunk boundary: what it has read of its next chunk is dropped. -/
def Copy.stop (c : Copy) : Copy := { c with unacked := [], got := [] }

/-- Unknown outcomes of operations older than a region: those that its start found, and those that came since. -/
def Group.oldUnknowns (g : Group) (c : Ckpt) : List Unknown := (g.unknowns.foldl Ckpt.keepUnknown c).unknowns

/-- A checkpoint closes: the outstanding watermarked requests, HOLD and REPLAY, and the unknown outcomes of older operations (R42, R47, R109,
R112). (DEDUCED: assumption 46.) -/
def Group.close (g : Group) (l : Launch) : Group :=
  let c := g.ckpt.getD (startCkpt l 0)
  { g with
    ckpt := some { c with
      outs := g.outs.filter (·.watermarked), hold := g.hold, replay := newer g.replay g.wserial, unknowns := g.oldUnknowns c
      copyFails := [], tileFail := Option.none, steps := c.steps ++ g.keptSteps }
    outs := [], late := [], unknowns := [], rem := [], wait := none, handler := none
    copies := g.copies.map Copy.stop
    copyFails := c.copyFails ++ g.copyFails.filter fun d => d.seq < c.nCopy
    tileFail := c.tileFail.orElse fun _ => g.tileFail.filter fun d => d.seq < c.nTile }

/-- A group closes. -/
def State.closeGroup (s : State) (gid : Nat) : State := (s.setGroup gid ((s.group gid).close (s.launchOf gid))).dropMonitors gid

/-- A reservation's contents go to its save area, and its granules start to clear (R362). -/
def State.saveResv (s : State) (q : Nat) (r : Resv) : State :=
  let x := s.quad q
  let saved := (List.range (r.count * 4096)).map fun i => s.obByte q (r.granule * 4096 + i)
  let s := s.setQuad q { x with
    resvs := x.resvs.filter fun y => y != r
    ob := tabClear x.ob (r.granule * 4096) ((r.granule + r.count) * 4096)
    clearing := x.clearing ++ range' r.granule r.count }
  let t := s.team r.team
  s.setTeam r.team { t with resvs := t.resvs ++ [{ r with saved }] }

/-- A team's state is saved: its scratchpad with its bits, its launch's vectors in its core's queues, its reservations. -/
def State.saveTeam (s : State) (tk : Nat) : State :=
  let t := s.team tk
  let x := s.core t.core
  let s := s.setTeam tk { t with
    resident := false
    pad := fromUnits 0 4096 t.units x.pad, full := fromUnits false 1024 t.units x.full, pend := fromUnits 0 32 t.units x.pend
    queues := x.queue.filter fun v => v.launch = keyHandle tk }
  let s := s.setCore t.core { x with queue := x.queue.filter fun v => v.launch != keyHandle tk }
  let q := coreQuad t.core
  ((s.quad q).resvs.filter fun r => r.team = tk).foldl (fun s r => s.saveResv q r) s

/-- CLUSTER_PREEMPT of cluster `ck`, whose pre-emption has begun: its engine operations complete, its checkpoints close, its teams
are saved. It waits for what R86 lets finish first. An error consumed meanwhile freezes the cluster, and cancels it. -/
def execClusterPreempt (s : State) : Out :=
  let ck := s.inp.ck
  s.when ((s.cluster ck).state == .saving && (s.launch (s.cluster ck).handle).state == .running && !s.mustWait ck) fun s =>
    let gs := s.liveGroups ck
    let s := gs.foldl State.drainEngine s
    if (s.cluster ck).state != .saving then s
    else
      let s := gs.foldl State.undoSteps s
      let s := gs.foldl State.closeGroup s
      let s := (s.teamsOf ck).foldl State.saveTeam s
      s.setCluster ck { s.cluster ck with state := .saved }

/-- A cluster's contexts, bands and units are released, and it enters the pending list as a resumed one. -/
def State.vacate (s : State) (ck : Nat) : State :=
  let s := (s.liveGroups ck).foldl State.freeBands s
  let s := (s.teamsOf ck).foldl (fun s tk =>
    let t := s.team tk
    (s.freeUnits t.core t.units).setTeam tk { t with units := [], resident := false }) s
  s.setCluster ck { s.cluster ck with state := .pending, resumed := true, since := s.now, blocking := none }

/-- PREEMPT_RELEASE of cluster `ck`, which is saved. -/
def execPreemptRelease (s : State) : Out :=
  let ck := s.inp.ck
  s.when ((s.cluster ck).state == .saved && (s.launch (s.cluster ck).handle).state == .running) fun s => s.vacate ck

/-! ### The supervisor (R236, R48) -/

/-- A team of the cluster has committed, or has ended. -/
def State.committed (s : State) (ck : Nat) : Bool := (s.teamsOf ck).any fun tk => (s.team tk).committed || (s.team tk).ended

/-- A group goes back to the team start: its keys stay, and its REPLAY is its WSERIAL at the freeze, or an earlier mark that it had not
reached. -/
def State.restartGroup (s : State) (gid : Nat) : State :=
  let g := s.group gid
  let s := s.dropPasses gid
  let s := if g.live then (((s.dropEngine gid).releaseA gid).dropMonitors gid).freeBands gid else s
  let d := coreDie (slotCore g.slot)
  let s := s.setDie d { s.die d with copyFaults := (s.die d).copyFaults.filter fun f => f.2.1 != gid }
  let l := s.launchOf gid
  s.setGroup gid { ({} : Group) with
    team := g.team, ck := g.ck, slot := g.slot, prio := l.prio, ckpt := some (startCkpt l (newer g.replay g.wserial)), nReq := g.nReq
    units := g.units }

/-- A team goes back to its start: its store buffer, scratchpad, pools and reservations are discarded, its end count is 0. (DEDUCED: assumption 48.) -/
def State.restartTeam (s : State) (tk : Nat) : State :=
  let t := s.team tk
  let q := coreQuad t.core
  let s := ((s.quad q).resvs.filter fun r => r.team = tk).foldl (fun s r => s.freeResv q r) s
  let s := (List.range Config.dies).foldl (fun s d =>
    s.setDie d { s.die d with areas := (s.die d).areas.filter fun a => !(a.team = tk && (match a.kind with
      | .tile _ | .save _ => true
      | _ => false)) }) s
  let x := s.core t.core
  let s := s.setCore t.core { x with queue := x.queue.filter fun v => v.launch != keyHandle tk }
  s.setTeam tk { t with
    ends := 0, buffer := [], pools := [], armed := [], lastResv := 0, resvs := [], pad := [], full := [], pend := [], queues := [] }

/-- The copies of a group release the lines that they hold, before they are discarded. -/
def State.dropCopies (s : State) (gid : Nat) : State :=
  let s := (s.group gid).copies.foldl (fun s c => s.dropLines c.lines) s
  s.setGroup gid { s.group gid with copies := [] }

/-- The relaunch of a frozen cluster. -/
def State.relaunch (s : State) (ck : Nat) (x : Snapshot) : State :=
  let ts := s.teamsOf ck
  let gs := ts.flatMap s.groupsOf
  let s := gs.foldl State.dropCopies s
  let s := gs.foldl State.restartGroup s
  let s := ts.foldl State.restartTeam s
  let c := s.cluster ck
  let barred := if x.source = 1 || x.source = 2 then c.barred ++ [x.die * Config.cores + x.unit] else c.barred
  let s := s.setCluster ck { c with relaunches := c.relaunches + 1, barred, snap := none, target := none }
  (s.vacate ck).countLive (.relaunches c.die)

/-- The launch ends with UNCORRECTABLE: its fatal record (R238), TEAM the consuming team. -/
def State.endUncorrectable (s : State) (ck : Nat) (x : Snapshot) : State :=
  let c := s.cluster ck
  let info := errorInfo x.source x.die x.unit c.relaunches
  let s := s.fatal x.gid { cause := 0x15, pc := x.pc, addr := x.addr, lanes := x.lanes, info }
  (s.endLaunch c.handle 0x15 (teamIndex (groupTeam x.gid))).countLive (.uncorrectableEnds c.die)

/-- SUPERVISOR_DECISION for the frozen cluster `ck`. With source 9 the quad is removed from placement (R231). -/
def execSupervisorDecision (s : State) : Out :=
  let ck := s.inp.ck
  let c := s.cluster ck
  match c.snap with
  | none => .next s
  | some x =>
    s.when (c.state == .frozen && (s.launch c.handle).state == .running) fun s =>
      let q := s.quadOf x.gid
      let s := if x.source = 9 then s.quadOut q else s
      if (s.launch c.handle).relaunch && !s.committed ck && c.relaunches < 3 then s.relaunch ck x else s.endUncorrectable ck x

end Sys2Proof.Machine
end

