-- ==== Sys2Proof/Machine/Dispatch.lean ====
section
/-! DEFINITION. The dispatch: one arm per constructor of `Instr`, each one call of its meaning. -/
namespace Sys2Proof.Machine

/-- The effect of one instruction, or of one step that no word encodes. -/
def exec (i : Instr) (s : State) : Host.Outcome State Fault Refusal :=
  match i with
  | .iadd f => Sys2Proof.Machine.execIadd f s
  | .isub f => Sys2Proof.Machine.execIsub f s
  | .imul f => Sys2Proof.Machine.execImul f s
  | .imulh f => Sys2Proof.Machine.execImulh f s
  | .imad f => Sys2Proof.Machine.execImad f s
  | .imin f => Sys2Proof.Machine.execImin f s
  | .imax f => Sys2Proof.Machine.execImax f s
  | .iabs f => Sys2Proof.Machine.execIabs f s
  | .ineg f => Sys2Proof.Machine.execIneg f s
  | .idiv f => Sys2Proof.Machine.execIdiv f s
  | .irem f => Sys2Proof.Machine.execIrem f s
  | .lea f => Sys2Proof.Machine.execLea f s
  | .and f => Sys2Proof.Machine.execAnd f s
  | .or f => Sys2Proof.Machine.execOr f s
  | .xor f => Sys2Proof.Machine.execXor f s
  | .andn f => Sys2Proof.Machine.execAndn f s
  | .orn f => Sys2Proof.Machine.execOrn f s
  | .shl f => Sys2Proof.Machine.execShl f s
  | .shr f => Sys2Proof.Machine.execShr f s
  | .sar f => Sys2Proof.Machine.execSar f s
  | .rotl f => Sys2Proof.Machine.execRotl f s
  | .funsh f => Sys2Proof.Machine.execFunsh f s
  | .bfx f => Sys2Proof.Machine.execBfx f s
  | .bfi f => Sys2Proof.Machine.execBfi f s
  | .popc f => Sys2Proof.Machine.execPopc f s
  | .clz f => Sys2Proof.Machine.execClz f s
  | .ctz f => Sys2Proof.Machine.execCtz f s
  | .brev f => Sys2Proof.Machine.execBrev f s
  | .icmp f => Sys2Proof.Machine.execIcmp f s
  | .sel f => Sys2Proof.Machine.execSel f s
  | .mov f => Sys2Proof.Machine.execMov f s
  | .movx f => Sys2Proof.Machine.execMovx f s
  | .movxw f => Sys2Proof.Machine.execMovxw f s
  | .shfl f => Sys2Proof.Machine.execShfl f s
  | .xperm f => Sys2Proof.Machine.execXperm f s
  | .vote f => Sys2Proof.Machine.execVote f s
  | .ballot f => Sys2Proof.Machine.execBallot f s
  | .matchv f => Sys2Proof.Machine.execMatchv f s
  | .scan f => Sys2Proof.Machine.execScan f s
  | .fadd f => Sys2Proof.Machine.execFadd f s
  | .fsub f => Sys2Proof.Machine.execFsub f s
  | .fmul f => Sys2Proof.Machine.execFmul f s
  | .ffma f => Sys2Proof.Machine.execFfma f s
  | .ffms f => Sys2Proof.Machine.execFfms f s
  | .fmin f => Sys2Proof.Machine.execFmin f s
  | .fmax f => Sys2Proof.Machine.execFmax f s
  | .fminm f => Sys2Proof.Machine.execFminm f s
  | .fmaxm f => Sys2Proof.Machine.execFmaxm f s
  | .fabs f => Sys2Proof.Machine.execFabs f s
  | .fneg f => Sys2Proof.Machine.execFneg f s
  | .fcpys f => Sys2Proof.Machine.execFcpys f s
  | .fcmp f => Sys2Proof.Machine.execFcmp f s
  | .fclass f => Sys2Proof.Machine.execFclass f s
  | .frint f => Sys2Proof.Machine.execFrint f s
  | .fscl f => Sys2Proof.Machine.execFscl f s
  | .fgete f => Sys2Proof.Machine.execFgete f s
  | .fdiv f => Sys2Proof.Machine.execFdiv f s
  | .fsqrt f => Sys2Proof.Machine.execFsqrt f s
  | .frcp f => Sys2Proof.Machine.execFrcp f s
  | .frsq f => Sys2Proof.Machine.execFrsq f s
  | .fexp f => Sys2Proof.Machine.execFexp f s
  | .fexp2 f => Sys2Proof.Machine.execFexp2 f s
  | .flog f => Sys2Proof.Machine.execFlog f s
  | .flog2 f => Sys2Proof.Machine.execFlog2 f s
  | .fsin f => Sys2Proof.Machine.execFsin f s
  | .fcos f => Sys2Proof.Machine.execFcos f s
  | .ftan f => Sys2Proof.Machine.execFtan f s
  | .fatan f => Sys2Proof.Machine.execFatan f s
  | .ftanh f => Sys2Proof.Machine.execFtanh f s
  | .ferf f => Sys2Proof.Machine.execFerf f s
  | .fcvt f => Sys2Proof.Machine.execFcvt f s
  | .fcvti f => Sys2Proof.Machine.execFcvti f s
  | .icvtf f => Sys2Proof.Machine.execIcvtf f s
  | .plsplit f => Sys2Proof.Machine.execPlsplit f s
  | .pljoin f => Sys2Proof.Machine.execPljoin f s
  | .bpack f => Sys2Proof.Machine.execBpack f s
  | .bunpk f => Sys2Proof.Machine.execBunpk f s
  | .iaddI f => Sys2Proof.Machine.execIaddI f s
  | .isubI f => Sys2Proof.Machine.execIsubI f s
  | .imulI f => Sys2Proof.Machine.execImulI f s
  | .imulhI f => Sys2Proof.Machine.execImulhI f s
  | .imadI f => Sys2Proof.Machine.execImadI f s
  | .iminI f => Sys2Proof.Machine.execIminI f s
  | .imaxI f => Sys2Proof.Machine.execImaxI f s
  | .iabsI f => Sys2Proof.Machine.execIabsI f s
  | .inegI f => Sys2Proof.Machine.execInegI f s
  | .idivI f => Sys2Proof.Machine.execIdivI f s
  | .iremI f => Sys2Proof.Machine.execIremI f s
  | .leaI f => Sys2Proof.Machine.execLeaI f s
  | .andI f => Sys2Proof.Machine.execAndI f s
  | .orI f => Sys2Proof.Machine.execOrI f s
  | .xorI f => Sys2Proof.Machine.execXorI f s
  | .andnI f => Sys2Proof.Machine.execAndnI f s
  | .ornI f => Sys2Proof.Machine.execOrnI f s
  | .shlI f => Sys2Proof.Machine.execShlI f s
  | .shrI f => Sys2Proof.Machine.execShrI f s
  | .sarI f => Sys2Proof.Machine.execSarI f s
  | .rotlI f => Sys2Proof.Machine.execRotlI f s
  | .funshI f => Sys2Proof.Machine.execFunshI f s
  | .bfxI f => Sys2Proof.Machine.execBfxI f s
  | .bfiI f => Sys2Proof.Machine.execBfiI f s
  | .popcI f => Sys2Proof.Machine.execPopcI f s
  | .clzI f => Sys2Proof.Machine.execClzI f s
  | .ctzI f => Sys2Proof.Machine.execCtzI f s
  | .brevI f => Sys2Proof.Machine.execBrevI f s
  | .icmpI f => Sys2Proof.Machine.execIcmpI f s
  | .selI f => Sys2Proof.Machine.execSelI f s
  | .movI f => Sys2Proof.Machine.execMovI f s
  | .movxI f => Sys2Proof.Machine.execMovxI f s
  | .movxwI f => Sys2Proof.Machine.execMovxwI f s
  | .faddI f => Sys2Proof.Machine.execFaddI f s
  | .fmulI f => Sys2Proof.Machine.execFmulI f s
  | .ffmaI f => Sys2Proof.Machine.execFfmaI f s
  | .iaddP h0 op1 h1 => Sys2Proof.Machine.execIaddP h0 op1 h1 s
  | .isubP h0 op1 h1 => Sys2Proof.Machine.execIsubP h0 op1 h1 s
  | .iminP h0 op1 h1 => Sys2Proof.Machine.execIminP h0 op1 h1 s
  | .imaxP h0 op1 h1 => Sys2Proof.Machine.execImaxP h0 op1 h1 s
  | .andP h0 op1 h1 => Sys2Proof.Machine.execAndP h0 op1 h1 s
  | .orP h0 op1 h1 => Sys2Proof.Machine.execOrP h0 op1 h1 s
  | .xorP h0 op1 h1 => Sys2Proof.Machine.execXorP h0 op1 h1 s
  | .andnP h0 op1 h1 => Sys2Proof.Machine.execAndnP h0 op1 h1 s
  | .shlP h0 op1 h1 => Sys2Proof.Machine.execShlP h0 op1 h1 s
  | .shrP h0 op1 h1 => Sys2Proof.Machine.execShrP h0 op1 h1 s
  | .sarP h0 op1 h1 => Sys2Proof.Machine.execSarP h0 op1 h1 s
  | .movP h0 op1 h1 => Sys2Proof.Machine.execMovP h0 op1 h1 s
  | .icmpP h0 op1 h1 => Sys2Proof.Machine.execIcmpP h0 op1 h1 s
  | .faddP h0 op1 h1 => Sys2Proof.Machine.execFaddP h0 op1 h1 s
  | .fmulP h0 op1 h1 => Sys2Proof.Machine.execFmulP h0 op1 h1 s
  | .fminP h0 op1 h1 => Sys2Proof.Machine.execFminP h0 op1 h1 s
  | .fmaxP h0 op1 h1 => Sys2Proof.Machine.execFmaxP h0 op1 h1 s
  | .ld f => Sys2Proof.Machine.execLd f s
  | .st f => Sys2Proof.Machine.execSt f s
  | .ldp f => Sys2Proof.Machine.execLdp f s
  | .stp f => Sys2Proof.Machine.execStp f s
  | .ldfe f => Sys2Proof.Machine.execLdfe f s
  | .stfe f => Sys2Proof.Machine.execStfe f s
  | .feinit f => Sys2Proof.Machine.execFeinit f s
  | .sptest f => Sys2Proof.Machine.execSptest f s
  | .spcast f => Sys2Proof.Machine.execSpcast f s
  | .fence f => Sys2Proof.Machine.execFence f s
  | .atom f => Sys2Proof.Machine.execAtom f s
  | .red f => Sys2Proof.Machine.execRed f s
  | .atomv f => Sys2Proof.Machine.execAtomv f s
  | .waita f => Sys2Proof.Machine.execWaita f s
  | .bar f => Sys2Proof.Machine.execBar f s
  | .bara f => Sys2Proof.Machine.execBara f s
  | .barw f => Sys2Proof.Machine.execBarw f s
  | .regn f => Sys2Proof.Machine.execRegn f s
  | .commit f => Sys2Proof.Machine.execCommit f s
  | .ordwait f => Sys2Proof.Machine.execOrdwait f s
  | .qsnd f => Sys2Proof.Machine.execQsnd f s
  | .qrcv f => Sys2Proof.Machine.execQrcv f s
  | .bra f => Sys2Proof.Machine.execBra f s
  | .brx f => Sys2Proof.Machine.execBrx f s
  | .call f => Sys2Proof.Machine.execCall f s
  | .callx f => Sys2Proof.Machine.execCallx f s
  | .ret f => Sys2Proof.Machine.execRet f s
  | .exit f => Sys2Proof.Machine.execExit f s
  | .yield f => Sys2Proof.Machine.execYield f s
  | .join f => Sys2Proof.Machine.execJoin f s
  | .leave f => Sys2Proof.Machine.execLeave f s
  | .waitm f => Sys2Proof.Machine.execWaitm f s
  | .mkrd f => Sys2Proof.Machine.execMkrd f s
  | .mkwr f => Sys2Proof.Machine.execMkwr f s
  | .nop f => Sys2Proof.Machine.execNop f s
  | .brk f => Sys2Proof.Machine.execBrk f s
  | .trap f => Sys2Proof.Machine.execTrap f s
  | .cpy f => Sys2Proof.Machine.execCpy f s
  | .cpy2 f => Sys2Proof.Machine.execCpy2 f s
  | .cpyx f => Sys2Proof.Machine.execCpyx f s
  | .cpyp f => Sys2Proof.Machine.execCpyp f s
  | .ctld f => Sys2Proof.Machine.execCtld f s
  | .ptld f => Sys2Proof.Machine.execPtld f s
  | .waitc f => Sys2Proof.Machine.execWaitc f s
  | .cntrd f => Sys2Proof.Machine.execCntrd f s
  | .obres f => Sys2Proof.Machine.execObres f s
  | .obrel f => Sys2Proof.Machine.execObrel f s
  | .obset f => Sys2Proof.Machine.execObset f s
  | .mma f => Sys2Proof.Machine.execMma f s
  | .mrd f => Sys2Proof.Machine.execMrd f s
  | .mwr f => Sys2Proof.Machine.execMwr f s
  | .mwrMem f => Sys2Proof.Machine.execMwrMem f s
  | .mzero f => Sys2Proof.Machine.execMzero f s
  | .mpri f => Sys2Proof.Machine.execMpri f s
  | .tpool f => Sys2Proof.Machine.execTpool f s
  | .tpoolEmpty f => Sys2Proof.Machine.execTpoolEmpty f s
  | .tzero f => Sys2Proof.Machine.execTzero f s
  | .tmac f => Sys2Proof.Machine.execTmac f s
  | .tadd f => Sys2Proof.Machine.execTadd f s
  | .trnd f => Sys2Proof.Machine.execTrnd f s
  | .tdense f => Sys2Proof.Machine.execTdense f s
  | .tcomp f => Sys2Proof.Machine.execTcomp f s
  | .tlu f => Sys2Proof.Machine.execTlu f s
  | .ttrs f => Sys2Proof.Machine.execTtrs f s
  | .tinfo f => Sys2Proof.Machine.execTinfo f s
  | .tsamp f => Sys2Proof.Machine.execTsamp f s
  | .osgd f => Sys2Proof.Machine.execOsgd f s
  | .oadam f => Sys2Proof.Machine.execOadam f s
  | .cline f => Sys2Proof.Machine.execCline f s
  | .ccon f => Sys2Proof.Machine.execCcon f s
  | .launch f => Sys2Proof.Machine.execLaunch f s
  | .rdsr f => Sys2Proof.Machine.execRdsr f s
  | .wrsr f => Sys2Proof.Machine.execWrsr f s
  | .svc f => Sys2Proof.Machine.execSvc f s
  | .tret f => Sys2Proof.Machine.execTret f s
  | .klnLaunch rd rs1 rs2 => Sys2Proof.Machine.execKlnLaunch rd rs1 rs2 s
  | .klnCancel rd rs1 rs2 => Sys2Proof.Machine.execKlnCancel rd rs1 rs2 s
  | .klnPreempt rd rs1 rs2 => Sys2Proof.Machine.execKlnPreempt rd rs1 rs2 s
  | .klnStatus rd rs1 rs2 => Sys2Proof.Machine.execKlnStatus rd rs1 rs2 s
  | .powerGood => Sys2Proof.Machine.execPowerGood s
  | .imageVerify => Sys2Proof.Machine.execImageVerify s
  | .sheetSelfCalibrate => Sys2Proof.Machine.execSheetSelfCalibrate s
  | .d2dLinkTrain => Sys2Proof.Machine.execD2dLinkTrain s
  | .lpddrTrain => Sys2Proof.Machine.execLpddrTrain s
  | .lpddrInit => Sys2Proof.Machine.execLpddrInit s
  | .ndenathLinkTrain => Sys2Proof.Machine.execNdenathLinkTrain s
  | .firmwareServicesStart => Sys2Proof.Machine.execFirmwareServicesStart s
  | .readySet => Sys2Proof.Machine.execReadySet s
  | .stageLimitExceeded => Sys2Proof.Machine.execStageLimitExceeded s
  | .thermalTrip => Sys2Proof.Machine.execThermalTrip s
  | .coolantOutOfRange => Sys2Proof.Machine.execCoolantOutOfRange s
  | .rollbackRaise => Sys2Proof.Machine.execRollbackRaise s
  | .lpddrDqRetrain => Sys2Proof.Machine.execLpddrDqRetrain s
  | .d2dRetry => Sys2Proof.Machine.execD2dRetry s
  | .dieLinkFailure => Sys2Proof.Machine.execDieLinkFailure s
  | .mgmtQuery => Sys2Proof.Machine.execMgmtQuery s
  | .mgmtWarmReset => Sys2Proof.Machine.execMgmtWarmReset s
  | .mgmtDrop => Sys2Proof.Machine.execMgmtDrop s
  | .resetRegisterWrite => Sys2Proof.Machine.execResetRegisterWrite s
  | .governorWindow => Sys2Proof.Machine.execGovernorWindow s
  | .operatingPointChangeDone => Sys2Proof.Machine.execOperatingPointChangeDone s
  | .fieldRecordFlush => Sys2Proof.Machine.execFieldRecordFlush s
  | .scrub => Sys2Proof.Machine.execScrub s
  | .ethFrameReceive => Sys2Proof.Machine.execEthFrameReceive s
  | .ethFrameTransmit => Sys2Proof.Machine.execEthFrameTransmit s
  | .cxlLinkTrain => Sys2Proof.Machine.execCxlLinkTrain s
  | .cxlDeviceRemoved => Sys2Proof.Machine.execCxlDeviceRemoved s
  | .ndenathPortStateChange => Sys2Proof.Machine.execNdenathPortStateChange s
  | .flitReceive => Sys2Proof.Machine.execFlitReceive s
  | .loadRequest => Sys2Proof.Machine.execLoadRequest s
  | .loadReply => Sys2Proof.Machine.execLoadReply s
  | .watermarkedRequest => Sys2Proof.Machine.execWatermarkedRequest s
  | .resultReply => Sys2Proof.Machine.execResultReply s
  | .busyReply => Sys2Proof.Machine.execBusyReply s
  | .unknownReply => Sys2Proof.Machine.execUnknownReply s
  | .releaseNotice => Sys2Proof.Machine.execReleaseNotice s
  | .releaseNoticeLaunchEnd => Sys2Proof.Machine.execReleaseNoticeLaunchEnd s
  | .copyWriteChunk => Sys2Proof.Machine.execCopyWriteChunk s
  | .copyReadRequest => Sys2Proof.Machine.execCopyReadRequest s
  | .copyAck => Sys2Proof.Machine.execCopyAck s
  | .requestRetransmit => Sys2Proof.Machine.execRequestRetransmit s
  | .scheduleExhausted => Sys2Proof.Machine.execScheduleExhausted s
  | .busyResend => Sys2Proof.Machine.execBusyResend s
  | .requesterReleaseNotice => Sys2Proof.Machine.execRequesterReleaseNotice s
  | .releaseNoticeResend => Sys2Proof.Machine.execReleaseNoticeResend s
  | .launchEndMarkExpiry => Sys2Proof.Machine.execLaunchEndMarkExpiry s
  | .ownerRestart => Sys2Proof.Machine.execOwnerRestart s
  | .ownerRestore => Sys2Proof.Machine.execOwnerRestore s
  | .quarantineEnd => Sys2Proof.Machine.execQuarantineEnd s
  | .clineRequest => Sys2Proof.Machine.execClineRequest s
  | .heldDrain => Sys2Proof.Machine.execHeldDrain s
  | .launchDispatch => Sys2Proof.Machine.execLaunchDispatch s
  | .dependenceAnswer => Sys2Proof.Machine.execDependenceAnswer s
  | .launchEnd => Sys2Proof.Machine.execLaunchEnd s
  | .watchdogExpiry => Sys2Proof.Machine.execWatchdogExpiry s
  | .faultLogConsume => Sys2Proof.Machine.execFaultLogConsume s
  | .copyFaultRetry => Sys2Proof.Machine.execCopyFaultRetry s
  | .copyFaultFail => Sys2Proof.Machine.execCopyFaultFail s
  | .invalidatePage => Sys2Proof.Machine.execInvalidatePage s
  | .invalidateContext => Sys2Proof.Machine.execInvalidateContext s
  | .invalidateAll => Sys2Proof.Machine.execInvalidateAll s
  | .invalidateComplete => Sys2Proof.Machine.execInvalidateComplete s
  | .ordsizeWrite => Sys2Proof.Machine.execOrdsizeWrite s
  | .ordsizeTakeEffect => Sys2Proof.Machine.execOrdsizeTakeEffect s
  | .registerWrite => Sys2Proof.Machine.execRegisterWrite s
  | .clusterPlace => Sys2Proof.Machine.execClusterPlace s
  | .clusterBlocking => Sys2Proof.Machine.execClusterBlocking s
  | .victimPreempt => Sys2Proof.Machine.execVictimPreempt s
  | .clusterMove => Sys2Proof.Machine.execClusterMove s
  | .deterministicPreempt => Sys2Proof.Machine.execDeterministicPreempt s
  | .clusterPreempt => Sys2Proof.Machine.execClusterPreempt s
  | .preemptRelease => Sys2Proof.Machine.execPreemptRelease s
  | .backgroundClearDone => Sys2Proof.Machine.execBackgroundClearDone s
  | .enginePassGrant => Sys2Proof.Machine.execEnginePassGrant s
  | .passIdleEnd => Sys2Proof.Machine.execPassIdleEnd s
  | .quantumExpiry => Sys2Proof.Machine.execQuantumExpiry s
  | .starvationSwitch => Sys2Proof.Machine.execStarvationSwitch s
  | .yieldBundle => Sys2Proof.Machine.execYieldBundle s
  | .registerWriteback => Sys2Proof.Machine.execRegisterWriteback s
  | .presenceWake => Sys2Proof.Machine.execPresenceWake s
  | .fullEmptyWake => Sys2Proof.Machine.execFullEmptyWake s
  | .barrierDeparture => Sys2Proof.Machine.execBarrierDeparture s
  | .waitcRelease => Sys2Proof.Machine.execWaitcRelease s
  | .queueVectorWake => Sys2Proof.Machine.execQueueVectorWake s
  | .qsndRoomWake => Sys2Proof.Machine.execQsndRoomWake s
  | .ordwaitRelease => Sys2Proof.Machine.execOrdwaitRelease s
  | .waitaMonitorReread => Sys2Proof.Machine.execWaitaMonitorReread s
  | .waitaPoll => Sys2Proof.Machine.execWaitaPoll s
  | .svcReply => Sys2Proof.Machine.execSvcReply s
  | .obrelComplete => Sys2Proof.Machine.execObrelComplete s
  | .matrixPassRetire => Sys2Proof.Machine.execMatrixPassRetire s
  | .tileOpExecute => Sys2Proof.Machine.execTileOpExecute s
  | .copyChunkLand => Sys2Proof.Machine.execCopyChunkLand s
  | .copyComplete => Sys2Proof.Machine.execCopyComplete s
  | .glintReplay => Sys2Proof.Machine.execGlintReplay s
  | .uncorrectableConsume => Sys2Proof.Machine.execUncorrectableConsume s
  | .supervisorDecision => Sys2Proof.Machine.execSupervisorDecision s
  | .controlCoreHwError => Sys2Proof.Machine.execControlCoreHwError s
  | .powerLoss => Sys2Proof.Machine.execPowerLoss s
  | .ethLinkStateChange => Sys2Proof.Machine.execEthLinkStateChange s
  | .cxlLinkDown => Sys2Proof.Machine.execCxlLinkDown s
  | .copyChunkRetransmit => Sys2Proof.Machine.execCopyChunkRetransmit s

end Sys2Proof.Machine
end

