-- ==== Sys2Proof/Machine/HartBus.lean ====
section
/-! DEFINITION. What a control core reaches (spec/03_control_cores_and_launch.md R53, R67, R70, spec/01_package_and_bringup.md R26,
R28, spec/06_address_spaces.md R125, R129, spec/05_cores_and_execution.md R109, R110, spec/00_scope.md R8, R9): memory, the
checkpoint and team areas as the hardware lays them out, the registers of the control-core range; and its Sv57 translation. -/
namespace Sys2Proof.Machine

/-! ### The areas that hardware writes (R109, R110, R362) -/

/-- The 8 bytes at offset `o` of a group's checkpoint area. FIRST and LAST of an empty live range are those of the last `REGN`, or 0.
(DESIGN CHOICE: assumption 94.) -/
def Ckpt.dword (c : Ckpt) (o : Nat) : Nat :=
  let b (x : Bool) (n : Nat) : Nat := if x then 2 ^ n else 0
  if o < 0x100 then
    let l := o / 8
    (laneAt64 c.pcs l).toNat % 2 ^ 56 + b (c.waiting.getLsbD l) 62 + b (c.exited.getLsbD l) 63
  else if o < 0x160 then
    let m := c.masks.getD ((o - 0x100) / 8) {}
    m.enrolled.toNat + m.arrived.toNat * 2 ^ 32
  else if o < 0x400 then
    match o with
    | 0x160 => c.first + c.last * 2 ^ 8 + c.ycount * 2 ^ 32
    | 0x168 => c.ylane
    | 0x170 => c.fpflags.toNat + c.wserial.toNat * 2 ^ 32
    | 0x178 => c.rstart.toNat + c.tstart.toNat * 2 ^ 32
    | 0x180 => b c.hold 0 + c.outs.length * 2 ^ 32
    | 0x188 => c.replay.toNat
    | _ => 0
  else if o < 0x4400 then
    match c.outs[(o - 0x400) / 16]? with
    | .none => 0
    | .some e =>
      if o % 16 = 0 then e.lanes.toNat * 2 ^ 32 + e.serial.toNat
      else e.owner % 64 * 2 ^ 34 + e.opkg.toNat * 2 ^ 18 + b e.first 17 + e.tries % 16 * 2 ^ 13
  else
    let r := c.first + (o - 0x4400) / 128
    let l := (o - 0x4400) % 128 / 4
    let row := tabGet zeroRow c.regs r
    (laneAt row l).toNat + (laneAt row (l + 1)).toNat * 2 ^ 32

/-- The bits of a list as a number, the first lowest. -/
def bitsVal : List Bool → Nat
  | [] => 0
  | b :: t => (if b then 1 else 0) + 2 * bitsVal t

/-- A byte of a saved scratchpad unit: its data, the full/empty bits of its words, the presence bits of its lines and their pending counts of
3 bits each (R110). -/
def Team.unitByte (t : Team) (u o : Nat) : Byte :=
  let count (i : Nat) : Nat := tabGet 0 t.pend (32 * u + i)
  if o < 4096 then tabGet 0 t.pad (4096 * u + o)
  else if o < 4096 + 128 then
    BitVec.ofNat 8 (bitsVal ((List.range 8).map fun i => tabGet false t.full (1024 * u + 8 * (o - 4096) + i)))
  else if o < 4096 + 132 then BitVec.ofNat 8 (bitsVal ((List.range 8).map fun i => count (8 * (o - 4224) + i) = 0))
  else
    let counts := (List.range 32).foldr (fun i x => count i % 8 + 8 * x) 0
    BitVec.ofNat 8 (counts / 2 ^ (8 * (o - 4228)))

/-- The bytes of a team's area that the table fixes: armed records, and of a saved team its barrier counts (its first group's) and its
scratchpad units. The fields inside the other records belong to the hardware. (DESIGN CHOICE: assumption 77.) -/
def State.teamAreaByte (s : State) (tk o : Nat) : Option Byte :=
  let t := s.team tk
  let l := s.launch (keyHandle tk)
  let base := 0x2000 + 0x4000 * l.groups
  if o < 0x10 then
    let g := s.group (groupKey tk 0)
    if t.resident then none else some (([g.arT, g.dpT, g.arC, g.dpC].flatMap fun w => leBytes 4 w.toNat).getD o 0)
  else if o < 0x100 then some 0
  else if o < 0x200 then
    let a := ((t.armed.find? fun x => groupIndex x.1 = (o - 0x100) / 8).map (·.2)).getD 0
    some (BitVec.ofNat 8 (a.toNat / 2 ^ (8 * (o % 8))))
  else if base ≤ o && !t.resident then some (t.unitByte ((o - base) / 0x1090) ((o - base) % 0x1090))
  else none

/-- A byte of a system-pool allocation, as the hardware keeps it; what the spec does not lay out is a free value. (DESIGN CHOICE:
assumption 77.) -/
def State.areaByte (s : State) (a : Area) (o : Nat) : Byte :=
  let free : Byte := (s.freeBits (2 ^ 15 + o % 2 ^ 14)).setWidth 8
  match a.kind with
  | .checkpoint g =>
    let gid := groupKey a.team g
    let c := (s.group gid).ckpt.getD (startCkpt (s.launchOf gid) 0)
    BitVec.ofNat 8 (c.dword (o / 8 * 8) / 2 ^ (8 * (o % 8)))
  | .team => (s.teamAreaByte a.team o).getD free
  | .save h =>
    match (s.team a.team).resvs.find? fun r => r.handle = h with
    | some r => r.saved.getD o 0
    | none => free
  | .tile _ | .store => free

/-- The allocation that holds a physical address. -/
def State.areaAt (s : State) (pa : Nat) : Option Area :=
  if s.inSheet pa then (s.die (sheetDie pa)).areas.find? fun a => a.base ≤ pa && pa < a.base + a.size else none

/-- A byte of memory as a control core reads it. -/
def State.hartByte (s : State) (pa : Nat) : Byte :=
  match s.areaAt pa with
  | some a => s.areaByte a (pa - a.base)
  | none => s.rd pa

/-! ### Registers (R9, R26, R28, R67, R70, R129) -/

/-- The register of the control-core range at an address: its 64 bits as they read, reserved and write-only fields zero. -/
def State.ctlReg (s : State) (a : Nat) : Option Dword :=
  let log := (a - 0x00F000010000) / 0x1000
  let tr := (a - 0x00F000020000) / 0x1000
  if a = 0x00F000000000 then some s.statusWord
  else if a = 0x00F000000040 then some 0
  else if a = 0x00F000000100 then some s.capPa
  else if 0x00F000010000 ≤ a && log < Config.dies then
    let x := s.die log
    match (a - 0x00F000010000) % 0x1000 with
    | 0x00 => some x.logBase
    | 0x08 => some (x.logProd.setWidth 64)
    | 0x10 => some (x.logCons.setWidth 64)
    | 0x18 => some 0
    | _ => none
  else if 0x00F000020000 ≤ a && tr < Config.dies then
    let x := s.die tr
    match (a - 0x00F000020000) % 0x1000 with
    | 0x00 => some (BitVec.ofNat 64 (x.invVa.toNat * 2 ^ 12))
    | 0x08 => some (BitVec.ofNat 64 (x.invCtx.toNat * 2 ^ 48 + (if x.inval.isSome then 2 ^ 9 else 0) + x.invOp.toNat))
    | 0x10 => some (x.acThresh.setWidth 64)
    | 0x18 => some (BitVec.ofNat 64 ((if x.ordPending.isSome then 2 ^ 63 else 0) + x.ordSize.toNat))
    | _ => none
  else none

/-- The state after a register's own step. -/
def State.after (s : State) (f : State → Out) (inp : Input) : State :=
  match f { s with inp } with
  | .next t => { t with inp := s.inp }
  | _ => s

/-- A control core writes 64 bits to a register. -/
def State.ctlWrite (s : State) (a : Nat) (v : Dword) : State :=
  let inp : Input := { addr := BitVec.ofNat 64 a, v }
  let log := (a - 0x00F000010000) / 0x1000
  let tr := (a - 0x00F000020000) / 0x1000
  if a = 0x00F000000000 then s.after execRegisterWrite inp
  else if a = 0x00F000000040 then s.after execResetRegisterWrite inp
  else if 0x00F000010000 ≤ a && log < Config.dies then
    match (a - 0x00F000010000) % 0x1000 with
    | 0x10 => s.after execFaultLogConsume { inp with die := log }
    | 0x18 =>
      let x : Input := { die := log, faultId := v.setWidth 32 }
      match v.toNat / 2 ^ 32 % 4 with
      | 0 => s.after execCopyFaultRetry x
      | 1 => s.after execCopyFaultFail x
      | _ => s
    | _ => s
  else if 0x00F000020000 ≤ a && tr < Config.dies then
    match (a - 0x00F000020000) % 0x1000 with
    | 0x08 =>
      if v.getLsbD 8 && v.setWidth 2 != (3 : BitVec 2) then s.after (fun s => s.invalidate (v.setWidth 2)) { inp with die := tr }
      else s.after execRegisterWrite inp
    | 0x18 => s.after execOrdsizeWrite { inp with die := tr }
    | _ => s.after execRegisterWrite inp
  else s

/-- The control-core physical range (R53). -/
def inControl (pa : Nat) : Bool := 0x00F000000000 ≤ pa && pa < 0x00F100000000

/-- What a load of a control core gives: bytes, an uncorrectable error at its address, or nothing. -/
inductive BusRead where
  | bytes (bs : List Byte)
  | error (pa : Nat)
  | vacant
  deriving DecidableEq, Repr

/-- A read of `n` naturally aligned bytes at a physical address. -/
def State.busRead (s : State) (pa n : Nat) : BusRead :=
  if inControl pa then
    match s.ctlReg (pa / 8 * 8) with
    | some v => .bytes ((leBytes 8 v.toNat).drop (pa % 8) |>.take n)
    | none => .vacant
  else if !s.backed pa then .vacant
  else if s.poisoned pa || s.isRemoved pa then .error pa
  else .bytes ((List.range n).map fun i => s.hartByte (pa + i))

/-- A write of naturally aligned bytes; none where there is nothing. A register takes 64 bits: of a narrower write the bits not written
are those that the register holds, and a W1C or write-only field is not written. (DESIGN CHOICE: assumption 77.) -/
def State.busWrite (s : State) (pa : Nat) (bs : List Byte) : Option State :=
  if inControl pa then
    let a := pa / 8 * 8
    (s.ctlReg a).map fun v =>
      let old := if a = 0x00F000000000 then 0 else v.toNat
      let o := leBytes 8 old
      s.ctlWrite a (BitVec.ofNat 64 (leVal (o.take (pa % 8) ++ bs ++ o.drop (pa % 8 + bs.length))))
  else if s.backed pa then some (s.memWrite pa bs) else none

/-! ### Translation (R53; the formats are assumption 9) -/

/-- What an access is: a fetch, a load, a store. -/
inductive HartAcc where
  | fetch | load | store
  /-- A load of code. -/
  | loadx
  deriving DecidableEq, Repr

/-- The exception numbers of a page fault, of a guest-page fault, of a misaligned address. -/
def HartAcc.page : HartAcc → Nat
  | .fetch => 12 | .load | .loadx => 13 | .store => 15
def HartAcc.guest : HartAcc → Nat
  | .fetch => 20 | .load | .loadx => 21 | .store => 23
def HartAcc.misaligned : HartAcc → Nat
  | .fetch => 0 | .load | .loadx => 4 | .store => 6

/-- An exception of a memory access: its number, its value, for a guest-page fault the guest-physical address and the instruction word
that the trap reports. -/
structure MemTrap where
  cause : Nat
  tval : Nat
  gpa : Nat := 0
  inst : Nat := 0
  /-- The value is a guest's virtual address. -/
  guest : Bool := false
  deriving DecidableEq, Repr

/-- Why a translation fails: an exception, or a table where nothing is. -/
inductive XlateFail where
  | trap (t : MemTrap)
  | vacant
  deriving DecidableEq, Repr

/-- A leaf allows an access: of a user or a supervisor page, with SUM and MXR. -/
def leafAllows (acc : HartAcc) (user sum mxr : Bool) (e : Nat) : Bool :=
  let bit (k : Nat) : Bool := e / 2 ^ k % 2 == 1
  (if user then bit 4 else !bit 4 || (sum && acc != .fetch)) && bit 6 &&
    match acc with
    | .fetch | .loadx => bit 3
    | .load => bit 1 || (mxr && bit 3)
    | .store => bit 2 && bit 7

/-- The walk of a table of `level` levels; `at_` gives the physical address of a table entry, `fail` the failure. -/
def State.hartWalk (s : State) (at_ : Nat → Except XlateFail Nat) (ok : Nat → Bool) (fail : XlateFail) (va top : Nat) :
    Nat → Nat → Except XlateFail Nat
  | 0, _ => .error fail
  | level + 1, table =>
    let sh := levelShift (level + 1)
    match at_ (table + 8 * (va / 2 ^ sh % (if level = 4 then top else 512))) with
    | .error f => .error f
    | .ok pa =>
      if !s.backed pa then .error .vacant
      else if s.poisoned pa || s.isRemoved pa then .error (.trap { cause := 19, tval := pa })
      else
      let e := s.rdLe pa 8
      let bit (k : Nat) : Bool := e / 2 ^ k % 2 == 1
      let base := e / 2 ^ 10 % 2 ^ 44 * 2 ^ 12
      if e / 2 ^ 54 != 0 || !bit 0 || (bit 2 && !bit 1) then .error fail
      else if !bit 1 && !bit 3 then s.hartWalk at_ ok fail va top level base
      else if !ok e || base % 2 ^ sh != 0 then .error fail
      else .ok (base + va % 2 ^ sh)

/-- The guest's second stage, Sv57x4, of an access to a guest-physical address of 59 bits. `inst` is what a fault reports of the
instruction: 0x3000 for the read of a first-stage table. -/
def State.gStage (s : State) (h : Hart) (acc : HartAcc) (tval gpa inst : Nat) : Except XlateFail Nat :=
  let hgatp := (h.other 0x680).toNat
  let fail : XlateFail := .trap { cause := acc.guest, tval, gpa, inst, guest := true }
  if hgatp / 2 ^ 60 = 10 then
    if gpa / 2 ^ 59 != 0 then .error fail
    else s.hartWalk .ok (leafAllows acc true false (getField h.mstatus 19 1 = 1)) fail gpa 2048 5 (hgatp % 2 ^ 44 * 2 ^ 12)
  else .ok gpa

/-- The mode that a load or a store acts in: with MPRV that of MPP. -/
def Hart.dataMode (h : Hart) : HartMode :=
  if h.mode = .m && getField h.mstatus 17 1 = 1 then
    let v := getField h.mstatus 39 1 = 1
    match getField h.mstatus 11 2 with
    | 0 => if v then .vu else .u
    | 1 => if v then .vs else .s
    | _ => .m
  else h.mode

/-- The physical address of a virtual one, for an access in a mode: one stage of Sv57, or two for a guest. -/
def State.hartXlate (s : State) (h : Hart) (mode : HartMode) (acc : HartAcc) (va : Nat) : Except XlateFail Nat :=
  let user := mode.level = 0
  let canon := va % 2 ^ 64 / 2 ^ 56 = 0 || va % 2 ^ 64 / 2 ^ 56 = 255
  if mode = .m then .ok va
  else
    let virt := mode.virt
    let satp := (if virt then h.other 0x280 else h.satp).toNat
    let st := if virt then h.vsstatus else h.mstatus
    let mxr := getField st 19 1 = 1 || getField h.mstatus 19 1 = 1
    let page : XlateFail := .trap { cause := acc.page, tval := va, guest := virt }
    -- the second stage, of the access and of the tables of the first
    let g (x inst : Nat) : Except XlateFail Nat := if virt then s.gStage h acc va x inst else .ok x
    let table (x : Nat) : Except XlateFail Nat :=
      if virt then
        match s.gStage h .load va x 0x3000 with
        | .error (.trap t) => .error (.trap { t with cause := if t.cause = HartAcc.load.guest then acc.guest else t.cause })
        | r => r
      else .ok x
    if satp / 2 ^ 60 = 10 then
      if canon then
        match s.hartWalk table (leafAllows acc user (getField st 18 1 = 1) mxr) page (va % 2 ^ 57) 512 5 (satp % 2 ^ 44 * 2 ^ 12) with
        | .ok x => g x 0
        | .error f => .error f
      else .error page
    else g va 0

/-! ### Interrupts (R67) -/

/-- The fault interrupt of a die: asserted while its log is not empty. -/
def Die.faultInterrupt (x : Die) : Bool := x.logProd != x.logCons

/-- The pending interrupts of hart `n`: those that software set, and on control cores 0 to 2 the die's fault interrupt, as the supervisor
external interrupt (assumption 9). -/
def State.hartPending (s : State) (n : Nat) : Nat :=
  let p := ((s.hart n).other 0x344).toNat
  if n % Config.harts < 3 && (s.die (n / Config.harts)).faultInterrupt then p ||| 2 ^ 9 else p

end Sys2Proof.Machine
end

