-- ==== Sys2Proof/Machine/RiscvWord.lean ====
section
/-! DEFINITION. The words of the RISC-V base of a control core (spec/00_scope.md R2): fields, immediates, integer and
floating-point results, and the 32-bit word that a 16-bit one stands for. The spec names RV64GC and gives none of it: all of it is
assumption 9 (PRESUMED). -/
namespace Sys2Proof.Machine

/-! ### Fields and integers -/

/-- `n` bits of a word from bit `i`. -/
def bitsAt (w i n : Nat) : Nat := w / 2 ^ i % 2 ^ n

/-- The low `n` bits, sign-extended to 64. -/
def sx (n x : Nat) : Nat :=
  let y := x % 2 ^ n
  if 2 ^ (n - 1) ≤ y then y + 2 ^ 64 - 2 ^ n else y

/-- A 64-bit value as a signed integer, and an integer wrapped to 64 bits. -/
def toI (x : Nat) : Int := if 2 ^ 63 ≤ x then (x : Int) - 2 ^ 64 else x
def ofI (z : Int) : Nat := (z % 2 ^ 64).toNat

/-- The immediates of the I, S, B, U and J layouts. -/
def immI (w : Nat) : Nat := sx 12 (bitsAt w 20 12)
def immS (w : Nat) : Nat := sx 12 (bitsAt w 25 7 * 2 ^ 5 + bitsAt w 7 5)
def immB (w : Nat) : Nat :=
  sx 13 (bitsAt w 31 1 * 2 ^ 12 + bitsAt w 7 1 * 2 ^ 11 + bitsAt w 25 6 * 2 ^ 5 + bitsAt w 8 4 * 2)
def immU (w : Nat) : Nat := sx 32 (bitsAt w 12 20 * 2 ^ 12)
def immJ (w : Nat) : Nat :=
  sx 21 (bitsAt w 31 1 * 2 ^ 20 + bitsAt w 12 8 * 2 ^ 12 + bitsAt w 20 1 * 2 ^ 11 + bitsAt w 21 10 * 2)

/-- The operations of OP and OP-IMM at `n` bits: `alt` is bit 30. -/
def rvAlu (n f3 : Nat) (alt : Bool) (a b : Nat) : Nat :=
  let x := a % 2 ^ n
  let sh := b % n
  match f3 with
  | 0 => sx n (if alt then a + 2 ^ 64 - b % 2 ^ 64 else a + b)
  | 1 => sx n (x * 2 ^ sh)
  | 2 => if toI a < toI b then 1 else 0
  | 3 => if a < b then 1 else 0
  | 4 => a ^^^ b
  | 5 => if alt then ofI (toI (sx n x) / 2 ^ sh) else sx n (x / 2 ^ sh)
  | 6 => a ||| b
  | _ => a &&& b

/-- The multiplications and divisions; a division by zero gives all ones and the dividend. -/
def rvMul (n f3 : Nat) (a b : Nat) : Nat :=
  let u := a % 2 ^ n
  let v := b % 2 ^ n
  let x := toI (sx n a)
  let y := toI (sx n b)
  match f3 with
  | 0 => sx n (a * b)
  | 1 => ofI (toI a * toI b / 2 ^ 64)
  | 2 => ofI (toI a * (b : Int) / 2 ^ 64)
  | 3 => a * b / 2 ^ 64
  | 4 => sx n (ofI (if y = 0 then -1 else x.tdiv y))
  | 5 => sx n (if v = 0 then 2 ^ 64 - 1 else u / v)
  | 6 => sx n (ofI (if y = 0 then x else x.tmod y))
  | _ => sx n (if v = 0 then u else u % v)

/-- The condition of a branch; none for a reserved code. -/
def rvBranch (f3 a b : Nat) : Option Bool :=
  match f3 with
  | 0 => some (a = b)
  | 1 => some (a ≠ b)
  | 4 => some (toI a < toI b)
  | 5 => some (toI b ≤ toI a)
  | 6 => some (a < b)
  | 7 => some (b ≤ a)
  | _ => none

/-- What an AMO stores, at `n` bits: the old value and the operand sign-extended; none for a reserved code. -/
def rvAmo (f5 n a b : Nat) : Option Nat :=
  let u := a % 2 ^ n
  let v := b % 2 ^ n
  match f5 with
  | 0x00 => some (a + b)
  | 0x01 => some b
  | 0x04 => some (a ^^^ b)
  | 0x08 => some (a ||| b)
  | 0x0C => some (a &&& b)
  | 0x10 => some (if toI a ≤ toI b then a else b)
  | 0x14 => some (if toI a ≤ toI b then b else a)
  | 0x18 => some (if u ≤ v then a else b)
  | 0x1C => some (if u ≤ v then b else a)
  | _ => none

/-! ### Compressed words -/

/-- The 32-bit layouts, field by field. -/
def encR (f7 rs2 rs1 f3 rd op : Nat) : Nat := f7 * 2 ^ 25 + rs2 * 2 ^ 20 + rs1 * 2 ^ 15 + f3 * 2 ^ 12 + rd * 2 ^ 7 + op
def encI (imm rs1 f3 rd op : Nat) : Nat := imm % 2 ^ 12 * 2 ^ 20 + rs1 * 2 ^ 15 + f3 * 2 ^ 12 + rd * 2 ^ 7 + op
def encS (imm rs2 rs1 f3 op : Nat) : Nat :=
  bitsAt imm 5 7 * 2 ^ 25 + rs2 * 2 ^ 20 + rs1 * 2 ^ 15 + f3 * 2 ^ 12 + bitsAt imm 0 5 * 2 ^ 7 + op
def encB (imm rs1 f3 : Nat) : Nat :=
  bitsAt imm 12 1 * 2 ^ 31 + bitsAt imm 5 6 * 2 ^ 25 + rs1 * 2 ^ 15 + f3 * 2 ^ 12 + bitsAt imm 1 4 * 2 ^ 8
    + bitsAt imm 11 1 * 2 ^ 7 + 0x63
def encJ (imm : Nat) : Nat :=
  bitsAt imm 20 1 * 2 ^ 31 + bitsAt imm 1 10 * 2 ^ 21 + bitsAt imm 11 1 * 2 ^ 20 + bitsAt imm 12 8 * 2 ^ 12 + 0x6F

/-- Quadrant 0: the stack address, loads and stores of registers 8 to 15. -/
def rvcLoads (w : Nat) : Option Nat :=
  let d := 8 + bitsAt w 2 3
  let a := 8 + bitsAt w 7 3
  let dw := bitsAt w 10 3 * 2 ^ 3 + bitsAt w 5 2 * 2 ^ 6
  let ww := bitsAt w 10 3 * 2 ^ 3 + bitsAt w 6 1 * 2 ^ 2 + bitsAt w 5 1 * 2 ^ 6
  match bitsAt w 13 3 with
  | 0 =>
    let imm := bitsAt w 11 2 * 2 ^ 4 + bitsAt w 7 4 * 2 ^ 6 + bitsAt w 6 1 * 2 ^ 2 + bitsAt w 5 1 * 2 ^ 3
    if imm = 0 then none else some (encI imm 2 0 d 0x13)
  | 1 => some (encI dw a 3 d 0x07)
  | 2 => some (encI ww a 2 d 0x03)
  | 3 => some (encI dw a 3 d 0x03)
  | 5 => some (encS dw d a 3 0x27)
  | 6 => some (encS ww d a 2 0x23)
  | 7 => some (encS dw d a 3 0x23)
  | _ => none

/-- Quadrant 1: immediates, the arithmetic of registers 8 to 15, jumps and branches. -/
def rvcArith (w : Nat) : Option Nat :=
  let rd := bitsAt w 7 5
  let d := 8 + bitsAt w 7 3
  let b := 8 + bitsAt w 2 3
  let hi := bitsAt w 12 1
  let six := hi * 2 ^ 5 + bitsAt w 2 5
  let imm := sx 6 six
  match bitsAt w 13 3 with
  | 0 => some (encI imm rd 0 rd 0x13)
  | 1 => if rd = 0 then none else some (encI imm rd 0 rd 0x1B)
  | 2 => some (encI imm 0 0 rd 0x13)
  | 3 =>
    if rd = 2 then
      let x := hi * 2 ^ 9 + bitsAt w 6 1 * 2 ^ 4 + bitsAt w 5 1 * 2 ^ 6 + bitsAt w 3 2 * 2 ^ 7 + bitsAt w 2 1 * 2 ^ 5
      if x = 0 then none else some (encI (sx 10 x) 2 0 2 0x13)
    else if six = 0 then none
    else some (imm % 2 ^ 20 * 2 ^ 12 + rd * 2 ^ 7 + 0x37)
  | 4 =>
    match bitsAt w 10 2 with
    | 0 => some (encI six d 5 d 0x13)
    | 1 => some (encI (0x400 + six) d 5 d 0x13)
    | 2 => some (encI imm d 7 d 0x13)
    | _ =>
      match hi, bitsAt w 5 2 with
      | 0, 0 => some (encR 0x20 b d 0 d 0x33)
      | 0, 1 => some (encR 0 b d 4 d 0x33)
      | 0, 2 => some (encR 0 b d 6 d 0x33)
      | 0, _ => some (encR 0 b d 7 d 0x33)
      | _, 0 => some (encR 0x20 b d 0 d 0x3B)
      | _, 1 => some (encR 0 b d 0 d 0x3B)
      | _, _ => none
  | 5 =>
    some (encJ (sx 12 (hi * 2 ^ 11 + bitsAt w 11 1 * 2 ^ 4 + bitsAt w 9 2 * 2 ^ 8 + bitsAt w 8 1 * 2 ^ 10 + bitsAt w 7 1 * 2 ^ 6
      + bitsAt w 6 1 * 2 ^ 7 + bitsAt w 3 3 * 2 + bitsAt w 2 1 * 2 ^ 5)))
  | k =>
    some (encB (sx 9 (hi * 2 ^ 8 + bitsAt w 10 2 * 2 ^ 3 + bitsAt w 5 2 * 2 ^ 6 + bitsAt w 3 2 * 2 + bitsAt w 2 1 * 2 ^ 5)) d (k - 6))

/-- Quadrant 2: shifts, loads and stores on the stack, jumps to registers, moves. -/
def rvcStack (w : Nat) : Option Nat :=
  let rd := bitsAt w 7 5
  let rs := bitsAt w 2 5
  let hi := bitsAt w 12 1
  let dw := hi * 2 ^ 5 + bitsAt w 5 2 * 2 ^ 3 + bitsAt w 2 3 * 2 ^ 6
  let st := bitsAt w 10 3 * 2 ^ 3 + bitsAt w 7 3 * 2 ^ 6
  match bitsAt w 13 3 with
  | 0 => some (encI (hi * 2 ^ 5 + rs) rd 1 rd 0x13)
  | 1 => some (encI dw 2 3 rd 0x07)
  | 2 => if rd = 0 then none else some (encI (hi * 2 ^ 5 + bitsAt w 4 3 * 2 ^ 2 + bitsAt w 2 2 * 2 ^ 6) 2 2 rd 0x03)
  | 3 => if rd = 0 then none else some (encI dw 2 3 rd 0x03)
  | 4 =>
    if hi = 0 then (if rs != 0 then some (encR 0 rs 0 0 rd 0x33) else if rd = 0 then none else some (encI 0 rd 0 0 0x67))
    else if rs != 0 then some (encR 0 rs rd 0 rd 0x33)
    else if rd = 0 then some 0x00100073
    else some (encI 0 rd 0 1 0x67)
  | 5 => some (encS st rs 2 3 0x27)
  | 6 => some (encS (bitsAt w 9 4 * 2 ^ 2 + bitsAt w 7 2 * 2 ^ 6) rs 2 2 0x23)
  | _ => some (encS st rs 2 3 0x23)

/-- The 32-bit word that a 16-bit word stands for. -/
def rvcExpand (w : Nat) : Option Nat :=
  match w % 4 with
  | 0 => rvcLoads w
  | 1 => rvcArith w
  | 2 => rvcStack w
  | _ => none

/-! ### Floating point -/

/-- The rounding code of a RISC-V rounding mode: nearest even, toward zero, down, up, nearest with ties away. -/
def rvRnd (rm : Nat) : Option Rnd :=
  match rm with
  | 0 => some { code := 0 }
  | 1 => some { code := 1 }
  | 2 => some { code := 3 }
  | 3 => some { code := 2 }
  | 4 => some { code := 4 }
  | _ => none

/-- A value in a 64-bit register: a single is boxed in ones, and one that is not boxed reads as the canonical NaN. -/
def fBox (F : Fmt) (x : Nat) : Nat := if F = f32 then 0xFFFFFFFF00000000 + x % 2 ^ 32 else x
def fUnbox (F : Fmt) (x : Nat) : Nat := if F = f32 then (if x / 2 ^ 32 = 2 ^ 32 - 1 then x % 2 ^ 32 else F.nan) else x

/-- A conversion to an integer: a NaN gives the largest value, a 32-bit result is sign-extended. -/
def rvToInt (F : Fmt) (mode : Rnd) (ty x : Nat) : Nat × Flags :=
  let k := match ty with | 0 => 2 | 1 => 0 | 2 => 3 | _ => 1
  let r := ftoint F mode k x
  let z := if (fdecode F x).isNan then intMax k else r.1
  (if ty < 2 then sx 32 (ofI z) else ofI z, r.2)

/-- A result of OP-FP: into a floating-point register, or into an integer register. -/
inductive FRes where
  | f (x : Nat) (fl : Flags)
  | x (v : Nat) (fl : Flags)
  deriving DecidableEq, Repr

def FRes.flags : FRes → Flags
  | .f _ fl | .x _ fl => fl

/-- OP-FP at a format: `fa` and `fb` the operands' register contents, `ia` the integer operand; none for a reserved word. -/
def rvFpOp (F : Fmt) (f5 f3 rs2 : Nat) (mode : Option Rnd) (fa fb ia : Nat) : Option FRes :=
  let a := fUnbox F fa
  let b := fUnbox F fb
  let arith (g : Rnd → Nat × Flags) : Option FRes := mode.map fun m => .f (fBox F (g m).1) (g m).2
  let sgn := 2 ^ (F.eb + F.fb)
  match f5 with
  | 0x00 => arith fun m => faddV F m (fdecode F a) (fdecode F b)
  | 0x01 => arith fun m => faddV F m (fdecode F a) (fnegV (fdecode F b))
  | 0x02 => arith fun m => fmulV F m (fdecode F a) (fdecode F b)
  | 0x03 => arith fun m => fdivV F m (fdecode F a) (fdecode F b)
  | 0x0B => if rs2 = 0 then arith fun m => fsqrtV F m (fdecode F a) else none
  | 0x04 =>
    let s := match f3 with
      | 0 => some (b / sgn)
      | 1 => some (1 - b / sgn)
      | 2 => some ((a / sgn + b / sgn) % 2)
      | _ => none
    s.map fun s => .f (fBox F (a % sgn + s * sgn)) 0
  | 0x05 =>
    if f3 < 2 then
      let r := fminmax F (f3 = 1) true a b
      some (.f (fBox F r.1) r.2)
    else none
  | 0x08 =>
    let G := if rs2 = 0 then f32 else f64
    if rs2 < 2 && G != F then arith fun m => fconvert F G m (fUnbox G fa) else none
  | 0x14 =>
    if f3 < 3 then
      let r := fcompare F (2 - f3) a b
      some (.x r.1 r.2)
    else none
  | 0x18 => if rs2 < 4 then mode.map fun m => let r := rvToInt F m rs2 a; .x r.1 r.2 else none
  | 0x1A =>
    let z : Option Int := match rs2 with
      | 0 => some (toI (sx 32 ia))
      | 1 => some (ia % 2 ^ 32 : Nat)
      | 2 => some (toI ia)
      | 3 => some ia
      | _ => none
    z.bind fun z => arith fun m => fofint F m z
  | 0x1C =>
    if rs2 != 0 then none
    else if f3 = 0 then some (.x (if F = f32 then sx 32 fa else fa) 0)
    else if f3 = 1 then some (.x (fclassify F a) 0)
    else none
  | 0x1E => if rs2 = 0 && f3 = 0 then some (.f (fBox F ia) 0) else none
  | _ => none

/-- The fused multiply-adds: bits 3 and 2 of the major opcode negate the product and the addend. -/
def rvFma (F : Fmt) (k : Nat) (mode : Option Rnd) (fa fb fc : Nat) : Option FRes :=
  let v (x : Nat) : FVal := fdecode F (fUnbox F x)
  let neg (b : Bool) (x : FVal) : FVal := if b then fnegV x else x
  mode.map fun m =>
    let r := ffmaV F m (neg (2 ≤ k) (v fa)) (v fb) (neg (k = 1 || k = 3) (v fc))
    .f (fBox F r.1) r.2

end Sys2Proof.Machine
end

