-- ==== Sys2Proof/Machine/RiscvCsr.lean ====
section
/-! DEFINITION. The control and status registers of a control core (spec/00_scope.md R2, spec/03_control_cores_and_launch.md R52,
R67): who may reach each, what it reads as, what a write keeps; the interrupts that are enabled. All of it is assumption 9
(PRESUMED). -/
namespace Sys2Proof.Machine

/-- The bits that are written, over those that stay. -/
def masked (m old new : Nat) : Nat := (BitVec.ofNat 64 old &&& ~~~(BitVec.ofNat 64 m) ||| BitVec.ofNat 64 (new &&& m)).toNat

/-- The writable fields of `sstatus`, of `mstatus` and of `hstatus`. -/
def sstatusMask : Nat := 0xC6122
def mstatusMask : Nat := 0xC0007E79AA
def hstatusMask : Nat := 0x7003C0

/-- A status register as it reads: 64-bit lower modes, and the summary of the floating-point state. -/
def statusRead (st mask xl : Nat) : Nat := (st &&& mask) + xl * 2 ^ 32 + (if st / 2 ^ 13 % 4 = 3 then 2 ^ 63 else 0)

/-- The interrupts of a guest: external, timer, software. -/
def guestBits : Nat := 0x444

def Hart.mideleg (h : Hart) : Nat := (h.other 0x303).toNat ||| guestBits
def Hart.hideleg (h : Hart) : Nat := (h.other 0x603).toNat &&& guestBits

/-- In a guest the supervisor's registers are the guest's own. -/
def csrNumber (virt : Bool) (c : Nat) : Nat :=
  if virt && (c = 0x100 || c = 0x104 || c = 0x105 || (0x140 ≤ c && c ≤ 0x144) || c = 0x180) then c + 0x100 else c

/-- The registers that hold what is written. -/
def csrHeld (c : Nat) : Bool :=
  [0x106, 0x10A, 0x140, 0x240, 0x280, 0x303, 0x304, 0x306, 0x30A, 0x320, 0x340, 0x344, 0x34A, 0x34B, 0x603, 0x605, 0x606, 0x60A,
    0x643, 0x64A, 0x680].contains c || (0x323 ≤ c && c < 0x340)

/-- The counters: their values are time and performance, which the model leaves free. -/
def csrCounter (c : Nat) : Bool :=
  (0xB00 ≤ c && c < 0xB20 && c != 0xB01) || (0xC00 ≤ c && c < 0xC20)

/-- What a register reads as; none for a register that there is not. -/
def State.csrRead (s : State) (n : Nat) (h : Hart) (c : Nat) : Option Nat :=
  let pend := s.hartPending n
  let mie := (h.other 0x304).toNat
  match c with
  | 0x001 => some (h.fcsr % 2 ^ 5)
  | 0x002 => some (h.fcsr / 2 ^ 5 % 2 ^ 3)
  | 0x003 => some (h.fcsr % 2 ^ 8)
  | 0x100 => some (statusRead h.mstatus.toNat sstatusMask 2)
  | 0x104 => some (mie &&& h.mideleg &&& 0x222)
  | 0x105 => some h.stvec.toNat
  | 0x141 => some h.sepc.toNat
  | 0x142 => some h.scause.toNat
  | 0x143 => some h.stval.toNat
  | 0x144 => some (pend &&& h.mideleg &&& 0x222)
  | 0x180 => some h.satp.toNat
  | 0x200 => some (statusRead h.vsstatus.toNat sstatusMask 2)
  | 0x204 => some ((mie &&& h.hideleg) / 2)
  | 0x205 => some h.vstvec.toNat
  | 0x241 => some h.vsepc.toNat
  | 0x242 => some h.vscause.toNat
  | 0x243 => some h.vstval.toNat
  | 0x244 => some ((pend &&& h.hideleg) / 2)
  | 0x300 => some (statusRead h.mstatus.toNat mstatusMask 0xA)
  | 0x301 => some 0x80000000001411AD
  | 0x302 => some h.medeleg.toNat
  | 0x303 => some h.mideleg
  | 0x305 => some h.mtvec.toNat
  | 0x341 => some h.mepc.toNat
  | 0x342 => some h.mcause.toNat
  | 0x343 => some h.mtval.toNat
  | 0x344 => some pend
  | 0x600 => some ((h.hstatus.toNat &&& hstatusMask) + 2 * 2 ^ 32)
  | 0x602 => some h.hedeleg.toNat
  | 0x603 => some h.hideleg
  | 0x604 => some (mie &&& guestBits)
  | 0x607 | 0xE12 => some 0
  | 0x644 | 0x645 => some (pend &&& guestBits)
  | 0xF11 | 0xF12 | 0xF13 | 0xF15 => some 0
  | 0xF14 => some n
  | _ => if csrHeld c then some (h.other c).toNat else if csrCounter c then some (s.freeBits (2 ^ 14 + c)).toNat else none

/-- A translation register takes a write of the modes Bare and Sv57, and no other. -/
def satpWrite (old : Dword) (v : Nat) : Dword := if v / 2 ^ 60 = 0 || v / 2 ^ 60 = 10 then BitVec.ofNat 64 v else old

/-- A trap vector: direct or vectored. -/
def vecWrite (v : Nat) : Dword := BitVec.ofNat 64 (v / 4 * 4 + v % 2)

/-- The status of the floating-point state becomes dirty, the guest's too. -/
def Hart.dirty (h : Hart) : Hart :=
  let h := { h with mstatus := setField h.mstatus 13 2 3 }
  if h.mode.virt then { h with vsstatus := setField h.vsstatus 13 2 3 } else h

/-- A write of a register: the fields that hold what is written. -/
def Hart.csrWrite (h : Hart) (c v : Nat) : Hart :=
  let mie := (h.other 0x304).toNat
  let mip := (h.other 0x344).toNat
  match c with
  | 0x001 => { h with fcsr := h.fcsr / 2 ^ 5 * 2 ^ 5 + v % 2 ^ 5 }.dirty
  | 0x002 => { h with fcsr := h.fcsr % 2 ^ 5 + v % 2 ^ 3 * 2 ^ 5 }.dirty
  | 0x003 => { h with fcsr := v % 2 ^ 8 }.dirty
  | 0x100 => { h with mstatus := BitVec.ofNat 64 (masked sstatusMask h.mstatus.toNat v) }
  | 0x104 => h.setOther 0x304 (masked (h.mideleg &&& 0x222) mie v)
  | 0x105 => { h with stvec := vecWrite v }
  | 0x141 => { h with sepc := BitVec.ofNat 64 (v / 2 * 2) }
  | 0x142 => { h with scause := BitVec.ofNat 64 v }
  | 0x143 => { h with stval := BitVec.ofNat 64 v }
  | 0x144 => h.setOther 0x344 (masked (h.mideleg &&& 2) mip v)
  | 0x180 => { h with satp := satpWrite h.satp v }
  | 0x200 => { h with vsstatus := BitVec.ofNat 64 (masked sstatusMask h.vsstatus.toNat v) }
  | 0x204 => h.setOther 0x304 (masked h.hideleg mie (2 * v))
  | 0x205 => { h with vstvec := vecWrite v }
  | 0x241 => { h with vsepc := BitVec.ofNat 64 (v / 2 * 2) }
  | 0x242 => { h with vscause := BitVec.ofNat 64 v }
  | 0x243 => { h with vstval := BitVec.ofNat 64 v }
  | 0x244 => h.setOther 0x344 (masked (h.hideleg &&& 4) mip (2 * v))
  | 0x280 => h.setOther 0x280 (satpWrite (h.other 0x280) v).toNat
  | 0x300 =>
    let m := if v / 2 ^ 11 % 4 = 2 then mstatusMask - 0x1800 else mstatusMask
    { h with mstatus := BitVec.ofNat 64 (masked m h.mstatus.toNat v) }
  | 0x302 => { h with medeleg := BitVec.ofNat 64 (v % 2 ^ 11 + v / 2 ^ 12 * 2 ^ 12) }
  | 0x303 => h.setOther 0x303 (v &&& 0x222)
  | 0x304 => h.setOther 0x304 (v &&& 0xEEE)
  | 0x305 => { h with mtvec := vecWrite v }
  | 0x341 => { h with mepc := BitVec.ofNat 64 (v / 2 * 2) }
  | 0x342 => { h with mcause := BitVec.ofNat 64 v }
  | 0x343 => { h with mtval := BitVec.ofNat 64 v }
  | 0x344 => h.setOther 0x344 (masked 0x226 mip v)
  | 0x600 => { h with hstatus := BitVec.ofNat 64 (masked hstatusMask h.hstatus.toNat v) }
  | 0x602 => { h with hedeleg := BitVec.ofNat 64 (v &&& 0xB1FF) }
  | 0x603 => h.setOther 0x603 (v &&& guestBits)
  | 0x604 => h.setOther 0x304 (masked guestBits mie v)
  | 0x644 => h.setOther 0x344 (masked 4 mip v)
  | 0x645 => h.setOther 0x344 (masked guestBits mip v)
  | 0x680 => h.setOther 0x680 (satpWrite (h.other 0x680) v).toNat
  | _ => if csrHeld c then h.setOther c v else h

/-- The floating-point state is off, in the machine or in the guest. -/
def Hart.fpOff (h : Hart) : Bool := getField h.mstatus 13 2 = 0 || (h.mode.virt && getField h.vsstatus 13 2 = 0)

/-- Why a mode may not reach a register: illegal (2), or for a guest a virtual-instruction exception (22); 0 when it may. -/
def Hart.csrTrap (h : Hart) (c : Nat) (write : Bool) : Nat :=
  let need := bitsAt c 8 2
  let bit (r k : Nat) : Bool := bitsAt (h.other r).toNat k 1 = 1
  let k := c % 32
  if write && bitsAt c 10 2 = 3 then 2
  else if need = 3 then (if h.mode = .m then 0 else 2)
  else if c = 0x001 || c = 0x002 || c = 0x003 then (if h.fpOff then 2 else 0)
  else if 0xC00 ≤ c && c < 0xC20 then
    if h.mode = .m then 0
    else if !bit 0x306 k then 2
    else if h.mode.virt && !bit 0x606 k then 22
    else if h.mode = .u && !bit 0x106 k then 2
    else if h.mode = .vu && !bit 0x106 k then 22
    else 0
  else
    match h.mode with
    | .m => 0
    | .s => if c = 0x180 || c = 0x680 then (if getField h.mstatus 20 1 = 1 then 2 else 0) else 0
    | .u => if need = 0 then 0 else 2
    | .vs => if need = 2 || (c = 0x180 && getField h.hstatus 20 1 = 1) then 22 else 0
    | .vu => if need = 0 then 0 else 22

/-- The interrupts that each mode takes, of those in `p`: M, then HS, then VS. -/
def Hart.mayTake (h : Hart) (p : Nat) : HartMode → Nat
  | .m => if h.mode != .m || getField h.mstatus 3 1 = 1 then p &&& (0xEEE - (0xEEE &&& h.mideleg)) else 0
  | .s | .u =>
    if h.mode = .u || h.mode.virt || (h.mode = .s && getField h.mstatus 1 1 = 1) then p &&& h.mideleg &&& (0xEEE - h.hideleg) else 0
  | .vs | .vu => if h.mode = .vu || (h.mode = .vs && getField h.vsstatus 1 1 = 1) then p &&& h.hideleg else 0

/-- The interrupt of a set that comes first. -/
def firstInterrupt (p : Nat) : Option Nat := [11, 3, 7, 9, 1, 5, 10, 2, 6].find? fun k => bitsAt p k 1 = 1

/-- The hart as it enters the handler of a pending and enabled interrupt; none when there is none. A guest sees the supervisor's
numbers. -/
def State.interrupt (s : State) (n : Nat) : Option Hart :=
  let h := s.hart n
  let p := s.hartPending n &&& (h.other 0x304).toNat
  let go (mode : HartMode) : Option Hart := (firstInterrupt (h.mayTake p mode)).map fun k =>
    let c := if mode = .vs then k - 1 else k
    h.enter mode (BitVec.ofNat 64 (2 ^ 63 + c)) 0 (4 * c) false
  (go .m).or ((go .s).or (go .vs))

end Sys2Proof.Machine
end

