-- ==== Sys2Proof/Machine/Riscv.lean ====
section
/-! DEFINITION. A control core executes (spec/00_scope.md R2, spec/03_control_cores_and_launch.md R52, R53, R58,
spec/07_memory_model.md R161): RV64GC with the supervisor and hypervisor extensions, and Xkelren. The spec names the architecture and
gives none of it: the base is assumption 9 (PRESUMED). -/
namespace Sys2Proof.Machine

/-- How a word ends: the package after it, an exception, or an access to where there is nothing. -/
inductive HartEnd where
  | next (t : State)
  | trap (t : MemTrap)
  | unbacked

/-- An exception that is no guest-page fault. -/
def HartEnd.raise (cause tval : Nat) : HartEnd := .trap { cause, tval }

/-- How a word ends whose translation fails. -/
def HartEnd.ofFail : XlateFail → HartEnd
  | .trap t => .trap t
  | .vacant => .unbacked

/-- A hart's word in hand: the hart's number, the hart, the word, its length and the bits that an illegal one reports. -/
structure HartWord where
  n : Nat
  h : Hart
  w : Nat
  len : Nat
  raw : Nat

def HartWord.rd (c : HartWord) : BitVec 5 := BitVec.ofNat 5 (bitsAt c.w 7 5)
def HartWord.f3 (c : HartWord) : Nat := bitsAt c.w 12 3
def HartWord.f7 (c : HartWord) : Nat := bitsAt c.w 25 7
def HartWord.rs2 (c : HartWord) : Nat := bitsAt c.w 20 5
/-- The two integer operands. -/
def HartWord.a (c : HartWord) : Nat := (c.h.reg (BitVec.ofNat 5 (bitsAt c.w 15 5))).toNat
def HartWord.b (c : HartWord) : Nat := (c.h.reg (BitVec.ofNat 5 (bitsAt c.w 20 5))).toNat
/-- A floating-point register: 64 bits. -/
def HartWord.fr (c : HartWord) (i : Nat) : Nat := (tabGet 0 c.h.fregs (bitsAt c.w i 5)).toNat
def HartWord.pc (c : HartWord) : Nat := c.h.pc.toNat
/-- The hart after the word, its destination written. -/
def HartWord.out (c : HartWord) (v : Nat) : Hart := { c.h.setReg c.rd (BitVec.ofNat 64 v) with pc := c.h.pc + BitVec.ofNat 64 c.len }
def HartWord.step (c : HartWord) : Hart := { c.h with pc := c.h.pc + BitVec.ofNat 64 c.len }
def Hart.jump (h : Hart) (dest : Nat) : Hart := { h with pc := BitVec.ofNat 64 dest }
def HartWord.illegal (c : HartWord) : HartEnd := .raise 2 c.raw
/-- A trap number of 0 lets the word go on. -/
def HartWord.allow (c : HartWord) (cause : Nat) (k : HartEnd) : HartEnd := if cause = 0 then k else .raise cause c.raw
/-- A hart that becomes another one. -/
def HartWord.become (c : HartWord) (s : State) (h : Hart) : HartEnd := .next (s.setHart c.n h)
/-- The destination takes a value. -/
def HartWord.write (c : HartWord) (s : State) (v : Nat) : HartEnd := c.become s (c.out v)

/-! ### Memory -/

/-- The physical address of an aligned access; a page-crossing one there is not. -/
def State.hartAt (s : State) (h : Hart) (mode : HartMode) (acc : HartAcc) (va n : Nat) (k : Nat → HartEnd) : HartEnd :=
  let va := va % 2 ^ 64
  if va % n != 0 then .trap { cause := acc.misaligned, tval := va, guest := mode.virt }
  else
    match s.hartXlate h mode acc va with
    | .error f => .ofFail f
    | .ok pa => k pa

/-- A load: what it does with the little-endian value. -/
def State.hartLoad (s : State) (h : Hart) (mode : HartMode) (acc : HartAcc) (va n : Nat) (k : Nat → HartEnd) : HartEnd :=
  s.hartAt h mode acc va n fun pa =>
    match s.busRead pa n with
    | .bytes bs => k (leVal bs)
    | .error x => .raise 19 x
    | .vacant => .unbacked

/-- A store; the hart is past its word when the store acts, since a register may reset the package. -/
def HartWord.store (c : HartWord) (s : State) (mode : HartMode) (va n v : Nat) (h : Hart) : HartEnd :=
  s.hartAt c.h mode .store va n fun pa =>
    match (s.setHart c.n h).busWrite pa (leBytes n v) with
    | some t => .next t
    | none => .unbacked

/-- The value that a load of `n` bytes leaves in an integer register. -/
def loadValue (signed : Bool) (n v : Nat) : Nat := if signed then sx (8 * n) v else v

/-- LR, SC and the AMOs. SC stores when its hart still holds the reservation of its line, which a write of the line by another agent
takes away (`State.keepReserved`). -/
def HartWord.amo (c : HartWord) (s : State) : HartEnd :=
  let n := 2 ^ c.f3
  let f5 := bitsAt c.w 27 5
  let mode := c.h.dataMode
  if c.f3 != 2 && c.f3 != 3 then c.illegal
  else if f5 = 2 then
    if c.rs2 != 0 then c.illegal
    else
      s.hartAt c.h mode .load c.a n fun pa => s.hartLoad c.h mode .load c.a n fun v =>
        c.become s { c.out (sx (8 * n) v) with reserved := some (pa / 128) }
  else if f5 = 3 then
    s.hartAt c.h mode .store c.a n fun pa =>
      if c.h.reserved = some (pa / 128) then c.store s mode c.a n c.b { c.out 0 with reserved := none }
      else c.become s { c.out 1 with reserved := none }
  else
    s.hartAt c.h mode .store c.a n fun pa =>
      match s.busRead pa n with
      | .error x => .raise 19 x
      | .vacant => .unbacked
      | .bytes bs =>
        let old := sx (8 * n) (leVal bs)
        match rvAmo f5 (8 * n) old (sx (8 * n) c.b) with
        | none => c.illegal
        | some v => c.store s mode c.a n v (c.out old)

/-- The loads and stores of a guest's memory. A reserved word of their function code is illegal. (DESIGN CHOICE: assumption 9.) -/
def HartWord.guestAccess (c : HartWord) (s : State) : HartEnd :=
  let lvl := getField c.h.hstatus 8 1
  let mode : HartMode := if lvl = 1 then .vs else .vu
  let size := bitsAt c.f7 1 2
  let n := 2 ^ size
  let cause := if c.h.mode.virt then 22 else if c.h.mode = .u && getField c.h.hstatus 9 1 = 0 then 2 else 0
  if c.f7 / 8 != 6 then c.illegal
  else c.allow cause <|
    if c.f7 % 2 = 1 then
      if bitsAt c.w 7 5 != 0 then c.illegal else c.store s mode c.a n c.b c.step
    else
      let load (acc : HartAcc) (signed : Bool) : HartEnd := s.hartLoad c.h mode acc c.a n fun v => c.write s (loadValue signed n v)
      match c.rs2 with
      | 0 => load .load true
      | 1 => if size = 3 then c.illegal else load .load false
      | 3 => if size = 1 || size = 2 then load .loadx false else c.illegal
      | _ => c.illegal

/-! ### System -/

/-- A return: the status word as the return leaves it, the previous mode's fields at `pp`, `pie` and `ie`. -/
def statusReturn (st : Dword) (pp ppw pie ie : Nat) : Dword :=
  setField (setField (setField st ie 1 (getField st pie 1)) pie 1 1) pp ppw 0

/-- `mret`. -/
def Hart.mret (h : Hart) : Hart :=
  let lvl := getField h.mstatus 11 2
  let v := getField h.mstatus 39 1 = 1 && lvl != 3
  let st := setField (statusReturn h.mstatus 11 2 7 3) 39 1 0
  let st := if lvl = 3 then st else setField st 17 1 0
  { h with mstatus := st, pc := h.mepc,
           mode := if lvl = 3 then .m else if lvl = 1 then (if v then .vs else .s) else (if v then .vu else .u) }

/-- `sret`, of a guest and of the hypervisor or the machine. -/
def Hart.sret (h : Hart) : Hart :=
  if h.mode.virt then
    { h with vsstatus := statusReturn h.vsstatus 8 1 5 1, pc := h.vsepc, mode := if getField h.vsstatus 8 1 = 1 then .vs else .vu }
  else
    let lvl := getField h.mstatus 8 1
    let v := getField h.hstatus 7 1 = 1
    { h with mstatus := setField (statusReturn h.mstatus 8 1 5 1) 17 1 0, hstatus := setField h.hstatus 7 1 0, pc := h.sepc,
             mode := if lvl = 1 then (if v then .vs else .s) else (if v then .vu else .u) }

/-- A read and write of a control and status register: `f` gives the new value of the old; of `mip` it takes the bits that software wrote,
less the interrupts that come from outside. -/
def HartWord.csr (c : HartWord) (s : State) (write : Bool) (f : Nat → Nat) : HartEnd :=
  let k := csrNumber c.h.mode.virt (bitsAt c.w 20 12)
  let named := bitsAt c.w 20 12
  match s.csrRead c.n c.h named, s.csrRead c.n c.h k with
  | some _, some old =>
    c.allow (c.h.csrTrap named write) (c.become s (if write then (c.out old).csrWrite k (f (if k = 0x344 then (c.h.other k).toNat else old)) else c.out old))
  | _, _ => c.illegal

/-- The words of SYSTEM with function code 0. -/
def HartWord.system (c : HartWord) (s : State) : HartEnd :=
  let h := c.h
  let bit (r : Dword) (k : Nat) : Bool := getField r k 1 = 1
  -- the trap of a word that the mode may not execute, `tvm` the bit that takes it from a supervisor and from a guest
  let cause (k : Nat) : Nat := match h.mode with
    | .m => 0
    | .s => if bit h.mstatus k then 2 else 0
    | .u => 2
    | .vs => if bit h.hstatus k then 22 else 0
    | .vu => 22
  match c.w with
  | 0x00000073 => .raise (match h.mode with | .u | .vu => 8 | .s => 9 | .vs => 10 | .m => 11) 0
  | 0x00100073 => .trap { cause := 3, tval := c.pc, guest := h.mode.virt }
  | 0x30200073 => if h.mode = .m then c.become s h.mret else c.illegal
  | 0x10200073 => c.allow (cause 22) (c.become s h.sret)
  | 0x10500073 => c.allow
    (if h.mode = .m then 0 else if bit h.mstatus 21 then 2
     else if h.mode = .vu || h.mode = .vs && bit h.hstatus 21 then 22 else 0) (c.become s c.step)
  | _ =>
    if bitsAt c.w 7 5 != 0 then c.illegal
    else
      match c.f7 with
      | 0x09 => c.allow (cause 20) (c.become s c.step)
      | 0x11 => c.allow (if h.mode.virt then 22 else if h.mode = .u then 2 else 0) (c.become s c.step)
      | 0x31 => c.allow (if h.mode.virt then 22 else cause 20) (c.become s c.step)
      | _ => c.illegal

/-- SYSTEM. -/
def HartWord.sys (c : HartWord) (s : State) : HartEnd :=
  let i := bitsAt c.w 15 5
  match c.f3 with
  | 0 => c.system s
  | 1 => c.csr s true fun _ => c.a
  | 2 => c.csr s (i != 0) fun x => x ||| c.a
  | 3 => c.csr s (i != 0) fun x => masked c.a x 0
  | 4 => c.guestAccess s
  | 5 => c.csr s true fun _ => i
  | 6 => c.csr s (i != 0) fun x => x ||| i
  | _ => c.csr s (i != 0) fun x => masked i x 0

/-! ### Floating point -/

/-- A floating-point register takes a value. -/
def Hart.setF (h : Hart) (r x : Nat) : Hart := { h with fregs := tabSet 0 h.fregs r (BitVec.ofNat 64 x) }.dirty

/-- A floating-point result and its flags. -/
def HartWord.fres (c : HartWord) (s : State) (r : Option FRes) : HartEnd :=
  match r with
  | none => c.illegal
  | some r =>
    let h := match r with
      | .f x _ => c.step.setF (bitsAt c.w 7 5) x
      | .x v _ => c.out v
    let fl := (r.flags.setWidth 5 : BitVec 5)
    c.become s (if fl = 0 then h else { h with fcsr := (BitVec.ofNat 8 h.fcsr ||| fl.setWidth 8).toNat }.dirty)

/-- The format of a floating-point word, and its rounding. -/
def HartWord.fmt (c : HartWord) : Option Fmt :=
  match bitsAt c.w 25 2 with
  | 0 => some f32
  | 1 => some f64
  | _ => none
def HartWord.rnd (c : HartWord) : Option Rnd := rvRnd (if c.f3 = 7 then c.h.fcsr / 2 ^ 5 % 8 else c.f3)

/-! ### One word -/

/-- A word of the base, by its major opcode. -/
def HartWord.run (c : HartWord) (s : State) : HartEnd :=
  let mode := c.h.dataMode
  let alt := bitsAt c.w 30 1 = 1
  let fp (k : HartEnd) : HartEnd := if c.h.fpOff then c.illegal else k
  match bitsAt c.w 0 7 with
  | 0x37 => c.write s (immU c.w)
  | 0x17 => c.write s (c.pc + immU c.w)
  | 0x6F => c.become s ((c.out (c.pc + c.len)).jump (c.pc + immJ c.w))
  | 0x67 => if c.f3 = 0 then c.become s ((c.out (c.pc + c.len)).jump ((c.a + immI c.w) / 2 * 2)) else c.illegal
  | 0x63 =>
    match rvBranch c.f3 c.a c.b with
    | none => c.illegal
    | some taken => c.become s (if taken then c.h.jump (c.pc + immB c.w) else c.step)
  | 0x03 =>
    let n := 2 ^ (c.f3 % 4)
    if c.f3 = 7 then c.illegal
    else s.hartLoad c.h mode .load (c.a + immI c.w) n fun v => c.write s (loadValue (c.f3 < 4) n v)
  | 0x23 => if c.f3 < 4 then c.store s mode (c.a + immS c.w) (2 ^ c.f3) c.b c.step else c.illegal
  | 0x13 =>
    if c.f3 = 1 && bitsAt c.w 26 6 != 0 || c.f3 = 5 && bitsAt c.w 26 6 != 0 && bitsAt c.w 26 6 != 0x10 then c.illegal
    else c.write s (rvAlu 64 c.f3 (c.f3 = 5 && alt) c.a (immI c.w))
  | 0x1B =>
    if c.f3 = 0 || c.f3 = 1 && c.f7 = 0 || c.f3 = 5 && (c.f7 = 0 || c.f7 = 0x20) then
      c.write s (rvAlu 32 c.f3 (c.f3 = 5 && alt) c.a (immI c.w))
    else c.illegal
  | 0x33 =>
    if c.f7 = 1 then c.write s (rvMul 64 c.f3 c.a c.b)
    else if c.f7 = 0 || c.f7 = 0x20 && (c.f3 = 0 || c.f3 = 5) then c.write s (rvAlu 64 c.f3 alt c.a c.b)
    else c.illegal
  | 0x3B =>
    if c.f7 = 1 then (if c.f3 = 0 || 4 ≤ c.f3 then c.write s (rvMul 32 c.f3 c.a c.b) else c.illegal)
    else if c.f7 = 0 && (c.f3 = 0 || c.f3 = 1 || c.f3 = 5) || c.f7 = 0x20 && (c.f3 = 0 || c.f3 = 5) then
      c.write s (rvAlu 32 c.f3 alt c.a c.b)
    else c.illegal
  | 0x0F => if c.f3 ≤ 1 then c.become s c.step else c.illegal
  | 0x2F => c.amo s
  | 0x73 => c.sys s
  | 0x07 => fp <|
    if c.f3 = 2 || c.f3 = 3 then
      let n := 2 ^ c.f3
      s.hartLoad c.h mode .load (c.a + immI c.w) n fun v =>
        c.become s (c.step.setF (bitsAt c.w 7 5) (fBox (if c.f3 = 2 then f32 else f64) v))
    else c.illegal
  | 0x27 => fp <|
    if c.f3 = 2 || c.f3 = 3 then c.store s mode (c.a + immS c.w) (2 ^ c.f3) (c.fr 20) c.step else c.illegal
  | 0x43 | 0x47 | 0x4B | 0x4F => fp <| c.fres s <|
    c.fmt.bind fun F => rvFma F ((bitsAt c.w 0 7 - 0x43) / 4) c.rnd (c.fr 15) (c.fr 20) (c.fr 27)
  | 0x53 => fp <| c.fres s <|
    c.fmt.bind fun F => rvFpOp F (bitsAt c.w 27 5) c.f3 c.rs2 c.rnd (c.fr 15) (c.fr 20) c.a
  | _ => c.illegal

/-- A hart takes an exception of its word. -/
def Hart.takeFault (h : Hart) (t : MemTrap) : Hart :=
  h.enter (h.handlerMode t.cause) (BitVec.ofNat 64 t.cause) (BitVec.ofNat 64 t.tval) 0 t.guest t.gpa t.inst

/-- The outcome of a hart's turn. -/
def State.hartOut (s : State) (n : Nat) (h : Hart) : HartEnd → Out
  | .next t => .next t
  | .trap t => .next (s.setHart n (h.takeFault t))
  | .unbacked => .fault .hartUnbacked

/-- A word of the base or a custom-0 word that is none, in hand. -/
def State.hartBase (s : State) (n : Nat) (h : Hart) (w : Nat) : Out :=
  if w % 4 = 3 then s.hartOut n h ({ n, h, w, len := 4, raw := w : HartWord }.run s)
  else
    match rvcExpand (w % 2 ^ 16) with
    | some x => s.hartOut n h ({ n, h, w := x, len := 2, raw := w % 2 ^ 16 : HartWord }.run s)
    | none => s.hartOut n h (.raise 2 (w % 2 ^ 16))

/-- The word at a hart's PC: the second half is fetched only for a 32-bit word. -/
inductive HartFetch where
  | word (w : Nat)
  | ends (e : HartEnd)

def State.hartWord (s : State) (h : Hart) : HartFetch :=
  let half (va : Nat) : HartFetch :=
    match s.hartXlate h h.mode .fetch va with
    | .error f => .ends (.ofFail f)
    | .ok pa =>
      match s.busRead pa 2 with
      | .bytes bs => .word (leVal bs)
      | .error x => .ends (.raise 19 x)
      | .vacant => .ends .unbacked
  match half h.pc.toNat with
  | .ends e => .ends e
  | .word lo =>
    if lo % 4 != 3 then .word lo
    else
      match half ((h.pc.toNat + 2) % 2 ^ 64) with
      | .ends e => .ends e
      | .word hi => .word (lo + hi * 2 ^ 16)

/-- A hart's turn: a pending interrupt, or the word at its PC. -/
def State.hartTurn (s : State) (n : Nat) : Out :=
  match s.interrupt n with
  | some h => .next (s.setHart n h)
  | none =>
    let h := s.hart n
    match s.hartWord h with
    | .ends e => s.hartOut n h e
    | .word w =>
      match decodeHart (BitVec.ofNat 32 w) with
      | some i => exec i { s with iss := { hart := n } }
      | none => s.hartBase n h w

end Sys2Proof.Machine
end

