-- ==== Sys2Proof/Machine/Issue.lean ====
section
/-! DEFINITION. Turns: a slot issues a bundle, a hart executes a word, time passes, a translation is cached
(spec/04_scheduler.md R91 to R93, spec/12_formats_and_opcode_map.md R255, R270, spec/03_control_cores_and_launch.md R52, R53,
R64, spec/06_address_spaces.md R135). -/
namespace Sys2Proof.Machine

/-! ### A bundle -/

/-- The word in hand is decoded and acts: a word that is none traps for the whole run, with the word in TINFO2 (R270). -/
def State.runWord (s : State) (w : BitVec 64) : Out :=
  match decode w with
  | .error .illegalOpcode => .next (s.takeTrap 0x01 s.iss.run 0 w)
  | .error .reservedField => .next (s.takeTrap 0x02 s.iss.run 0 w)
  | .ok i => exec i s

/-- The state that a group's bundle starts from: the issue stage holds its next run. -/
def State.inHand (s : State) (gid : Nat) : State :=
  let s := { s with iss := s.issueOf gid }
  if s.cur.late.any Late.isFetch then s.setCur s.cur.dropFetch else s

/-- One bundle of a group, from its fetch to its count. -/
def State.bundle (s : State) (gid : Nat) : Out :=
  let s0 := { s with iss := s.issueOf gid }
  match s.fetch gid s0.iss.pc with
  | .trap c => .next (s0.takeTrap c s0.iss.run s0.iss.pc 0)
  | .bad pa stride =>
    let e := errorAt pa stride
    .next (s0.consume gid e.1 e.2.1 e.2.2 (BitVec.ofNat 64 (pa / 128 * 128)) s0.iss.run)
  | .remote p => .next (s0.askWord p)
  | .waiting => .next s
  | .word w => ((s.inHand gid).runWord w).map State.finishIssue

/-- Whether the attempt of a bundle did something for its group: it issued, parked, trapped, or stopped the machine. -/
def State.moved (s : State) (gid : Nat) : Out → Bool
  | .next t => t.iss.issued || t.group gid != (s.inHand gid).group gid || (t.launchOf gid).state != (s.launchOf gid).state
  | _ => true

/-- The groups of a slot look at their next bundles: those that could issue are ready; of the others, one that needs a pass asks
for it (R88), and one whose word lies in another package asks for that. -/
def State.survey (s : State) : List Nat → State × List Nat
  | [] => (s, [])
  | g :: rest =>
    match s.fetch g (s.issueOf g).pc with
    | .remote _ =>
      match s.bundle g with
      | .next t => t.survey rest
      | _ => s.survey rest
    | .waiting => s.survey rest
    | _ =>
      let o := s.bundle g
      if s.moved g o then
        let r := s.survey rest
        (r.1, g :: r.2)
      else
        match o with
        | .next t => { s with quads := t.quads }.survey rest
        | _ => s.survey rest

/-- The groups that a slot's turn looks at: the current one alone while its next bundle reads a valid latch (R106). -/
def State.candidates (s : State) (n : Nat) : List Nat :=
  match (s.slot n).cur with
  | some c => if s.awake c && s.readsLatch c then [c] else (s.residents n).filter s.awake
  | none => (s.residents n).filter s.awake

/-- A slot's turn: it issues a bundle of the group that R91 chooses. -/
def State.slotTurn (s : State) (n : Nat) : Out :=
  let r := s.survey (s.candidates n)
  match r.1.pick n r.2 with
  | some gid => (r.1.switchTo n gid).bundle gid
  | none => .next r.1

/-! ### Time -/

/-- A launch of which some team is resident. -/
def State.isResident (s : State) (h : Word) : Bool :=
  s.clusters.any fun p => p.2.handle = h && (p.2.state = .placed || p.2.state = .saving || p.2.state = .saved || p.2.state = .frozen)

/-- The package runs: it has power, no thermal trip has taken that of arithmetic and memory (R23), and no failure has stopped it in stage
0xF (R25). -/
def State.running (s : State) : Bool := s.powered && !s.tripped && !s.halted

/-- The clocks of the dies go on (R385), and the resident time of the launches (R64). -/
def State.elapse (s : State) (ns : Nat) : State :=
  let t := s.now + ns
  let s := s.passesReady t
  let s' := (List.range Config.dies).foldl (fun x d =>
    let y := x.die d
    x.setDie d { y with cycles := y.cycles + BitVec.ofNat 64 (t * y.mhz / 1000 - s.now * y.mhz / 1000) }) s
  { s' with
    now := t
    launches := s'.launches.map fun (p : Nat × Launch) =>
      if s.isResident p.2.handle then (p.1, { p.2 with resident := p.2.resident + ns }) else p }

/-- The window that has ended and has not come when the next one ends comes then (R23, R29). -/
def State.lateWindow (s : State) (m : List DieMeas) : State :=
  if s.running then
    let s := s.elapse (s.windowAt + 2000000 - s.now)
    { s with inp := { s.inp with meas := m } }.window
  else s

/-- Windows that cannot wait longer when `ns` have passed. -/
def State.lateWindows (s : State) (ns : Nat) : Nat := if s.begun then (s.now + ns - s.windowAt) / 1000000 - 1 else 0

/-- Time passes, with what it forces: windows, the ends of waits in the fabric, of launches and of passes, and firmware's deadlines. In a
package that does not run it forces nothing. (DESIGN CHOICE: assumption 5. DEDUCED: assumption 56.) -/
def State.tick (s : State) (ns : Nat) (meas : List (List DieMeas) := []) : State :=
  if s.running then
    let t := s.now + ns
    let s := (List.range (s.lateWindows ns)).foldl (fun s k => s.lateWindow (meas.getD k [])) s
    if s.running then (s.elapse (t - s.now)).fabricTime.copyTime.launchTime.passTime.deadlines else { s with now := t }
  else { s with now := s.now + ns }

/-- A leaf that a walk finds present, core-accessible and well formed enters the caches of a die (R135). -/
def State.fill (s : State) (die : Nat) (ctx : BitVec 16) (va : Dword) : State :=
  match s.walkCtx ctx va with
  | .leaf level e =>
    if pteCA e then
      let shift := levelShift level
      { s with tlb := { die, ctx, page := va.toNat / 2 ^ shift, shift, entry := BitVec.ofNat 64 e } ::
          s.tlb.filter fun t => !(t.die = die && t.ctx = ctx && t.shift = shift && t.page = va.toNat / 2 ^ shift) }
    else s
  | _ => s

/-- The firmware service hands a control core a record (R29, R30): the spec does not say how; the value comes in a register.
(DESIGN CHOICE: assumption 78.) -/
def State.giveRecord (s : State) (n : Nat) (rd : BitVec 5) (live : Bool) (r : Rec) : State :=
  s.setHart n ((s.hart n).setReg rd (BitVec.ofNat 64 (recRead (if live then s.live else s.fieldNow) r)))

/-- In a package that does not run only power, resets, the management responder and its link act. (DEDUCED: assumption 56.) -/
def alwaysOn : Instr → Bool
  | .powerGood | .powerLoss | .mgmtQuery | .mgmtWarmReset | .mgmtDrop | .ethLinkStateChange | .thermalTrip | .resetRegisterWrite => true
  | _ => false

/-- A control core executes words once its die's firmware has started it; before that it runs the boot ROM, whose work is the events of
bring-up (R25, R52). -/
def State.hartRuns (s : State) (n : Nat) : Bool := n < Config.dies * Config.harts && (s.die (n / Config.harts)).stage == 9

/-- A decoder that R17 allows; the decoders of a list over trained ports, apart from one another, in the CXL range (R125). -/
def Decoder.ok (d : Decoder) : Bool :=
  (d.ports.length = 1 || d.ports.length = 2 || d.ports.length = 4) && d.ports.eraseDups.length = d.ports.length
    && d.size % 2 ^ 30 = 0 && (List.range 7).any fun k => d.gran = 256 * 2 ^ k
def State.decodersFit (s : State) (ds : List Decoder) : Bool :=
  (ds.all fun d => d.ok && inCxl d.base && d.base + d.size ≤ 2 * cxlBase && d.ports.all fun p => (s.cxl[p]?.map (·.trained)).getD false)
    && (ds.map (·.size)).sum ≤ 2 ^ 44
    && ds.zipIdx.all fun a => ds.zipIdx.all fun b => a.2 == b.2 || a.1.base + a.1.size ≤ b.1.base || b.1.base + b.1.size ≤ a.1.base

/-- The runtime enumerates CXL after READY: its decoders, the devices that it finds behind each port, capability 0x0004
(R17, R71). (DESIGN CHOICE: assumption 59.) -/
def State.enumerate (s : State) (ds : List Decoder) (devices : List Nat) : State :=
  if s.ready && s.decodersFit ds then
    { s with
      decoders := ds
      cxl := s.cxl.zipIdx.map fun (p : CxlPort × Nat) => { p.1 with devices := if p.1.trained then devices.getD p.2 0 else 0 } }.writeCxlCap
  else s

/-- One turn. -/
def State.turn (s : State) (t : Turn) : Out :=
  match t with
  | .slot n => if s.running then s.slotTurn n else .next s
  | .hart n => if s.running && s.hartRuns n then s.hartTurn n else .next s
  | .event i inp =>
    match i.view with
    | .event => if s.running || alwaysOn i then exec i { s with inp, iss := {} } else .next s
    | _ => .next s
  | .tick ns meas => .next (s.tick ns meas)
  | .fill d c va => .next (s.fill d c va)
  | .record n rd live r => .next (if s.running && s.hartRuns n then s.giveRecord n rd live r else s)
  | .reclaim => .next { s with inactive := s.inactive.dropLast }
  | .enumerate ds dv => .next (if s.running then s.enumerate ds dv else s)

end Sys2Proof.Machine
end

