-- ==== Sys2Proof/Machine/Step.lean ====
section
/-! DEFINITION. One step: the next turn of the schedule. And the placing of one word where a step fetches next. -/
namespace Sys2Proof.Machine

/-- A hart loses the reservation of an LR when a turn has changed a byte of its line by another way than a write of `State.memWrite`, whoever
wrote it (R2). (DESIGN CHOICE: assumption 9.) -/
def State.keepReserved (s t : State) : State :=
  (t.harts.map (·.1)).foldl (fun t n =>
    match (t.hart n).reserved with
    | some l => if s.rdBytes (l * 128) 128 = t.rdBytes (l * 128) 128 then t else t.setHart n { t.hart n with reserved := none }
    | none => t) t

/-- One turn, after which the reservations that it broke are gone. -/
def State.whole (s : State) (t : Turn) : Out := (s.turn t).map s.keepReserved

/-- One step of the package: the turn that the schedule names, or a free one when it names none (assumption 4). Each step draws
free values of its own (assumption 6). -/
def step (s : State) : Host.Outcome State Fault Refusal :=
  match s.sched with
  | [] => { s with fresh := s.fresh + 1 }.whole (freeTurn s.fresh)
  | t :: rest => { s with sched := rest, fresh := s.fresh + 1 }.whole t

/-- Where `withFetchWord` puts its word, its page tables and its context table. -/
def fetchPa : Nat := lpddrBase + 0x400000
def fetchVa : Dword := 0x400000
def fetchTables : Nat := lpddrBase + 0x1000
def fetchContexts : Nat := sheetBase + 0x3FC00000

/-- A 32-bit word stands where control core 0 of die 0, which firmware has started, fetches, and that hart moves next. A 64-bit word stands where a group of a
placed launch fetches, and its slot moves next: context 0 maps the first GiB of the global window to LPDDR-6 of die 0, and
the launch has one team of one group with 256 registers on core 0 of die 0 (assumption 22). -/
def State.withFetchWord (s : State) (nbits w : Nat) : State :=
  if nbits ≤ 32 then
    let s := s.wrLe fetchPa 4 w
    let s := s.setDie 0 { s.die 0 with stage := 9 }
    { s.setHart 0 { s.hart 0 with pc := BitVec.ofNat 64 fetchPa, mode := .m } with sched := [.hart 0] }
  else
    let s := s.wrLe fetchPa 8 w
    let s := s.wrLe fetchTables 8 (fetchTables + 0x1000 + 1)
    let s := s.wrLe (fetchTables + 0x1000) 8 (fetchTables + 0x2000 + 1)
    let s := s.wrLe (fetchTables + 0x2000) 8 (lpddrBase + 0x1B)
    let s := s.wrLe (fetchContexts + 8) 8 fetchTables
    let s := s.wrLe (fetchContexts + 16) 1 1
    let h : Word := 0x10
    let tk := teamKey h 0
    let s := { s with ctxBase := BitVec.ofNat 64 fetchContexts, sched := [.slot 0] }
    let s := s.setLaunch h
      { state := .running, handle := h, teams := 1, groups := 1, regs := 15, cw := 1, ch := 1, entry := fetchVa }
    let s := s.setCluster tk { state := .placed, handle := h }
    let s := s.setTeam tk { live := true, handle := h, ck := tk, resident := true, started := true }
    s.setGroup (groupKey tk 0)
      { live := true, team := tk, ck := tk, nbands := 16, pcs := Vector.replicate 32 fetchVa }

end Sys2Proof.Machine
end

