-- ==== Sys2Proof/Machine/Ordering.lean ====
section
/-! DEFINITION. The ordering axioms (R144 to R162) as a predicate over finite executions.

`Machine.step` performs each access at its coherence point, one step after another (assumption 3),
so what other agents may observe of an execution is no step of it. This file states it on its own:
an execution is a list of events with the choices the rules leave (which write a read takes, the
coherence order of each location, the order of the full fences), and `Exec.consistent` says that it
satisfies the axioms of R154. The events of an instruction are those of Machine/Events.lean; a watermarked operation has one
however often its request comes (R155), a replayed store its own and its drained first execution's too (R158), a store that
a team holds its own, which takes its place in co at the team's release (R159), a `WAITA` that of its final read alone (R160). Visibility speaks of executions without end: it
is a predicate of its own (`visible`). -/

namespace Sys2Proof.Machine.Ordering

/-! ### Relations over the events of a finite execution -/

/-- A relation over events 0 to n - 1: bit b of row a is set when a is related to b. -/
abbrev Rel := List Nat

/-- The relation that a test describes. -/
def Rel.of (n : Nat) (f : Nat → Nat → Bool) : Rel :=
  (List.range n).map fun a => (List.range n).foldl (fun m b => if f a b then m ||| 1 <<< b else m) 0

def Rel.has (r : Rel) (a b : Nat) : Bool := (r.getD a 0).testBit b

def Rel.join (r s : Rel) : Rel := List.zipWith (· ||| ·) r s

/-- The transitive closure, one intermediate event at a time. -/
def Rel.closure (r : Rel) : Rel :=
  (List.range r.length).foldl (fun r k => r.map fun m => if m.testBit k then m ||| r.getD k 0 else m) r

def Rel.irreflexive (r : Rel) : Bool := (List.range r.length).all fun a => !r.has a a

def Rel.acyclic (r : Rel) : Bool := r.closure.irreflexive

/-! ### Agents and scopes (R146) -/

inductive Scope where
  | lane | group | team | cluster | die | pkg | node | fab
  deriving DecidableEq, Repr

/-- The width of a scope: a wider scope's instance contains a narrower one's. -/
def Scope.rank : Scope → Nat
  | .lane => 0 | .group => 1 | .team => 2 | .cluster => 3 | .die => 4 | .pkg => 5 | .node => 6 | .fab => 7

def Scope.wider (a b : Scope) : Scope := if a.rank ≤ b.rank then b else a

/-- R144: a lane, or a control-core hart or launch unit, which is an agent of its own. -/
inductive Agent where
  | lane (pkg die launch cluster team group lane : Nat)
  | control (pkg id : Nat)
  deriving DecidableEq, Repr

/-- R146: the scope at which an agent's event acts. -/
def Agent.acts : Agent → Scope → Scope
  | .lane .., s => s
  | .control .., s => Scope.wider s .node

/-- R146: is `b` in the instance of scope `s` that contains `a`? A team index is that of its launch
and its cluster. A cluster that resumes on another die keeps its lanes, its teams and itself (R87); only `.die` looks at the
die, where the event executed. -/
def Agent.reaches (a : Agent) (s : Scope) (b : Agent) : Bool :=
  match a, b with
  | .lane p d l c t g x, .lane p' d' l' c' t' g' x' =>
    let cl := p == p' && l == l' && c == c'
    match s with
    | .lane => cl && t == t' && g == g' && x == x'
    | .group => cl && t == t' && g == g'
    | .team => cl && t == t'
    | .cluster => cl
    | .die => p == p' && d == d'
    | .pkg | .node => p == p'
    | .fab => true
  | .lane p .., .control p' _ | .control p' _, .lane p .. =>
    match s with
    | .node => p == p'
    | .fab => true
    | _ => false
  | .control p i, .control p' i' =>
    match s with
    | .node => p == p'
    | .fab => true
    | _ => p == p' && i == i'

/-! ### Events (R144, R145, R148) -/

inductive Page where
  | rc | so | un
  deriving DecidableEq, Repr

/-- One lane or control core, wherever its event executed. -/
def Agent.same : Agent → Agent → Bool
  | .lane p _ l c t g x, .lane p' _ l' c' t' g' x' => p == p' && l == l' && c == c' && t == t' && g == g' && x == x'
  | .control p i, .control p' i' => p == p' && i == i'
  | _, _ => false

/-- A value written: a number; what an earlier event read of a location and a plane; `n` bits of a value from bit `lo`; a value put at bits
`lo` to `lo + n - 1` where the write covers a part of its plane (R156); place `k` of what a read-modify-write makes, with its operand words, of
what its read took (R331, R332, R379). -/
inductive Val where
  | num (n : Nat)
  | same (read loc plane : Nat)
  | bits (lo n : Nat) (v : Val)
  | part (lo n : Nat) (v : Val)
  | rmw (op : OwnerOp) (ws : List Word) (k : Nat)
  deriving DecidableEq, Repr

/-- What a read-modify-write stores at the places that it names, in their order, from what it read there: bytes, or the planes of an optimiser
update. A contribution alone leaves its line's bytes as they are (R380, R382). -/
def rmwStores (op : OwnerOp) (ws : List Word) (old : List Nat) : List Nat :=
  match op with
  | .opt adam wide rnd _ p => (optApply adam wide rnd p old ws).1
  | _ => (leBytes old.length (rmwApply op (leVal (old.map (BitVec.ofNat 8))) ws).1).map BitVec.toNat

/-- What kind of event it is, with what its rules need beyond the locations. -/
inductive Act where
  /-- R144, Read. -/
  | read
  /-- R144, Write. -/
  | write
  /-- `FENCE` (R149), or a hart's fence (R161); full when both an acquire and a release. -/
  | fence
  /-- A hart's other fence: prior reads, prior writes, later reads, later writes that it orders (R161). -/
  | order (pr pw sr sw : Bool)
  /-- The arrival at, or the departure from, an instance of a barrier (R150). -/
  | arrive (barrier : Nat)
  | depart (barrier : Nat)
  /-- `QSND` of a vector and the `QRCV` that takes it (R150). -/
  | send (vector : Nat)
  | take (vector : Nat)
  /-- `WAITC`, with the operations it covers (R151). -/
  | waitc (covers : List Nat)
  /-- R144, Boundary: the issue and the completion of an operation. -/
  | issue (op : Nat)
  | complete (op : Nat)
  /-- A team's release of the stores that it holds, by a commit or at its end (R159). -/
  | release
  deriving DecidableEq, Repr

/-- An event. `cells` lists the locations it accesses and, for each, the planes (R156): plane 0 alone
for an ordinary byte or word. A write gives each plane a value. -/
structure Ev where
  agent : Agent
  /-- The further lanes that a copy's access belongs to (R144). -/
  also : List Agent := []
  act : Act
  cells : List (Nat × List (Nat × Val)) := []
  acq : Bool := false
  rel : Bool := false
  scope : Scope := .lane
  page : Page := .rc
  /-- A whole single-copy atomic access (R145): no byte of a copy, no part of a wider access. -/
  whole : Bool := true
  /-- The operation whose engine performs the access: it is not in program order (R151). -/
  op : Option Nat := none
  /-- The scratchpad line accessed (R152), and the memory line of a `.rem` request (R39). -/
  line : Option Nat := none
  memLine : Option Nat := none
  /-- The full state that a `STFE` or `FEINIT` sets, or that an `LDFE` empties: its word, and its number among that word's (R124,
  R150). -/
  fullState : Option (Nat × Nat) := none
  /-- The launch whose completion word the event writes (R150). -/
  ends : Option Nat := none
  /-- The launch that the event enters (R150). -/
  enters : Option Nat := none
  /-- The team (cluster and team index of its agent's own launch) whose zeroing the event is (R79, R150). -/
  zeroes : Option (Nat × Nat × Nat) := none
  /-- How often the event's group had been pre-empted before it (R150), and whether it is a store that
  drained at the next pre-emption (R112). -/
  span : Nat := 0
  drained : Bool := false
  /-- An access to the package's memory by a team that has not committed: its plain stores are held until the team's `release` (R159).
  Those of one team stand in `Exec.evs` in the order in which its buffer took them. -/
  held : Bool := false
  /-- A deterministic `RED` (R155), with its place in the sort order of R221: address, team, group, lane, serial. -/
  detRed : Bool := false
  detKey : List Nat := []
  deriving DecidableEq, Repr

/-- An operation of an engine: its class, its issuing group, its place in that group's issue order, the operand-buffer ranges that it
reads or writes. -/
inductive OpClass where
  | copy | mat | tile | rem
  deriving DecidableEq, Repr

structure Op where
  cls : OpClass
  group : Nat
  seq : Nat
  ranges : List Nat := []
  deriving DecidableEq, Repr

/-- An execution (R147). The events of one agent stand in `evs` in program order. A read's source is
none where it takes the value from before the launch, the first element of every coherence order. -/
structure Exec where
  evs : List Ev
  ops : List Op := []
  /-- Read, location, source. -/
  rf : List (Nat × Nat × Option Nat)
  /-- Each location's writes, oldest first. -/
  co : List (Nat × List Nat)
  /-- The read and the write of one RMW. -/
  rmw : List (Nat × Nat) := []
  dep : List (Nat × Nat) := []
  /-- Of the pairs of `dep`, those through the later event's address or value, and those through its address (R161). -/
  data : List (Nat × Nat) := []
  addr : List (Nat × Nat) := []
  /-- The full fences, in the order fo. -/
  fo : List Nat := []
  /-- Launch a depends on launch b (R63). -/
  depends : List (Nat × Nat) := []
  /-- The values from before the launch: location, plane, value; 0 where nothing is listed. -/
  init : List (Nat × Nat × Nat) := []
  deriving DecidableEq, Repr

/-- An event that accesses nothing, of no one: what an index beyond the list names. -/
def Ev.nothing : Ev := { agent := .control 0 0, act := .complete 0 }

def Exec.ev (x : Exec) (i : Nat) : Ev := x.evs.getD i Ev.nothing

def Exec.size (x : Exec) : Nat := x.evs.length

def Ev.isRead (e : Ev) : Bool := e.act == .read
def Ev.isWrite (e : Ev) : Bool := e.act == .write
def Ev.accesses (e : Ev) : Bool := e.isRead || e.isWrite
def Ev.touches (e : Ev) (l : Nat) : Bool := e.cells.any (·.1 == l)
def Ev.planes (e : Ev) (l : Nat) : List Nat :=
  ((e.cells.find? (·.1 == l)).map fun c => c.2.map (·.1)).getD []

/-- R148: the scope of an access, after its page's kind. `QSND` and `QRCV` act at `.die` (R150). -/
def Ev.scopeAt (e : Ev) : Scope :=
  match e.act with
  | .send _ | .take _ => .die
  | _ =>
    let s := e.agent.acts e.scope
    if e.accesses && e.page == .so then Scope.wider s .pkg else s

/-- The agents that an event belongs to. -/
def Ev.agents (e : Ev) : List Agent := e.agent :: e.also

/-- R148: an acquire event. A full/empty load, a `WAITC` and the departures of R150 acquire. -/
def Ev.acquires (e : Ev) : Bool :=
  match e.act with
  | .read => match e.page with | .rc => e.acq | .so => true | .un => false
  | .fence => e.acq
  | .depart _ | .take _ | .waitc _ => true
  | _ => false

/-- R148: a release event. -/
def Ev.releases (e : Ev) : Bool :=
  match e.act with
  | .write => match e.page with | .rc => e.rel | .so => true | .un => false
  | .fence => e.rel
  | .arrive _ | .send _ | .release => true
  | _ => false

/-- A fence that orders; one with relaxed order orders nothing (R149). -/
def Ev.isFence (e : Ev) : Bool := e.act == .fence && (e.acq || e.rel)

/-- R149: a full fence. -/
def Ev.isFull (e : Ev) : Bool := e.isFence && e.acq && e.rel

def Ev.isWaitc (e : Ev) : Bool := match e.act with | .waitc _ => true | _ => false

/-- An access to a UN page (R148). -/
def Ev.unordered (e : Ev) : Bool := e.accesses && e.page == .un

/-- R161: a hart's fence, by what it orders: prior reads, prior writes, later reads, later writes. -/
def hartFence (a : Agent) (pr pw sr sw : Bool) : Ev :=
  match pr, pw, sr, sw with
  | true, true, true, true => { agent := a, act := .fence, acq := true, rel := true, scope := .node }
  | true, false, true, true => { agent := a, act := .fence, acq := true, scope := .node }
  | true, true, false, true => { agent := a, act := .fence, rel := true, scope := .node }
  | _, _, _, _ => { agent := a, act := .order pr pw sr sw, scope := .node }

/-- R161: the events of an AMO on the `n` bytes from a location on, the read first; those of LR and of SC stand alone. Its aq and rl bits are
those of both. -/
def hartRead (a : Agent) (l n : Nat) (aq : Bool) : Ev :=
  { agent := a, act := .read, cells := (List.range n).map fun k => (l + k, [(0, .num 0)]), acq := aq, scope := .node }
def hartWrite (a : Agent) (l n : Nat) (v : Nat → Val) (rl : Bool) : Ev :=
  { agent := a, act := .write, cells := (List.range n).map fun k => (l + k, [(0, v k)]), rel := rl, scope := .node }
def hartAmo (a : Agent) (l n : Nat) (v : Nat → Val) (aq rl : Bool) : List Ev :=
  [{ hartRead a l n aq with rel := rl }, { hartWrite a l n v rl with acq := aq }]

/-! ### Program order and the order of a location (R147) -/

/-- The class of an event's operation. -/
def Exec.classOf (x : Exec) (a : Nat) : Option OpClass := (x.ev a).op.bind fun k => x.ops[k]?.map (·.cls)

/-- The events of one agent in the order of its instructions: what an engine accesses is not among them, a `.rem` operation's read and write
are (R147). -/
def Exec.line (x : Exec) (a b : Nat) : Bool :=
  let own := fun i => (x.ev i).op == none || x.classOf i == some .rem
  decide (a < b) && (x.ev a).agent.same (x.ev b).agent && own a && own b

/-- Program order as R150 to R154 use it: nothing follows a `.rem` operation's read-modify-write but what a `WAITC` orders (R395); a store to
another package is in it, as releases and fences wait for its reply (R320). -/
def Exec.po (x : Exec) (a b : Nat) : Bool :=
  x.line a b && ((x.ev a).op == none || !(x.rmw.any fun p => p.1 == a || p.2 == a) || x.rmw.contains (a, b))

def Exec.source (x : Exec) (r l : Nat) : Option Nat :=
  ((x.rf.find? fun e => e.1 == r && e.2.1 == l).map fun e => e.2.2).join

def Exec.coAt (x : Exec) (l : Nat) : List Nat := ((x.co.find? (·.1 == l)).map (·.2)).getD []

def Exec.coLt (x : Exec) (l a b : Nat) : Bool :=
  let o := x.coAt l
  o.contains a && o.contains b && decide (o.idxOf a < o.idxOf b)

/-- Is event `b` a read of `l` that takes its value from `a`? -/
def Exec.rfAt (x : Exec) (l a b : Nat) : Bool := (x.ev b).isRead && (x.ev b).touches l && x.source b l == some a

/-- From-read: the writes that are co-after the write a read took its value from. -/
def Exec.frAt (x : Exec) (l r w : Nat) : Bool :=
  (x.ev r).isRead && (x.ev r).touches l && (x.coAt l).contains w &&
    match x.source r l with
    | none => true
    | some v => x.coLt l v w

def Exec.locs (x : Exec) : List Nat := (x.evs.flatMap fun e => e.cells.map (·.1)).dedup

/-! ### Synchronises-with (R150) -/

/-- Are two events in mutual scope (R146)? -/
def Exec.mutualScope (x : Exec) (a b : Nat) : Bool :=
  let e := x.ev a
  let f := x.ev b
  e.agents.any fun p => f.agents.any fun q => p.reaches e.scopeAt q && q.reaches f.scopeAt p

def Exec.isRmwWrite (x : Exec) (w : Nat) : Bool := x.rmw.any (·.2 == w)
def Exec.isRmw (x : Exec) (a : Nat) : Bool := x.rmw.any fun p => p.1 == a || p.2 == a

/-! ### Held stores (R159) -/

/-- The team of a lane: package, launch, cluster, team. -/
def Agent.team : Agent → Option (Nat × Nat × Nat × Nat)
  | .lane p _ l c t .. => some (p, l, c, t)
  | .control .. => none

def Exec.inTeam (x : Exec) (a b : Nat) : Bool := (x.ev a).agent.team != none && (x.ev a).agent.team == (x.ev b).agent.team

/-- A plain store that its team holds. -/
def Exec.heldStore (x : Exec) (w : Nat) : Bool := (x.ev w).held && (x.ev w).isWrite && (x.ev w).op == none && !x.isRmw w

/-- The events that release a held store. -/
def Exec.freed (x : Exec) (w : Nat) : List Nat :=
  (List.range x.size).filter fun c => x.heldStore w && (x.ev c).act == .release && x.inTeam c w

/-- Held store `w` is not there for `b` before its release: another agent's event, or a read-modify-write of the team before the release. -/
def Exec.outside (x : Exec) (w b : Nat) : Bool := x.heldStore w && (!x.inTeam w b || (x.isRmw b && (x.ev b).held))

/-- Event `a` is before `b` by an order, where a held store stands at its release for the events outside. -/
def Exec.stands (x : Exec) (hb : Rel) (a b : Nat) : Bool :=
  (if x.outside a b then x.freed a else [a]).any fun p =>
    (if x.outside b a then b :: x.freed b else [b]).any fun q => hb.has p q

/-- What R159 adds to the order of a location: a held store follows a read-modify-write that its team makes before the release, and
those of one team keep their order. -/
def Exec.heldOrder (x : Exec) (a b : Nat) : Bool :=
  x.heldStore b && x.inTeam a b && ((x.isRmw a && (x.ev a).held) || (x.heldStore a && decide (a < b)))

/-- Does write `v` belong to the release sequence of `w` at `l`: is it `w`, or an RMW's write that
follows `w` through RMW writes only? -/
def Exec.follows (x : Exec) (l w v : Nat) : Bool :=
  let o := x.coAt l
  v == w || (x.coLt l w v && ((o.drop (o.idxOf w + 1)).take (o.idxOf v - o.idxOf w)).all x.isRmwWrite)

/-- The release sides of a write: itself when it releases, and every release fence before it. -/
def Exec.releaseSides (x : Exec) (w : Nat) : List Nat :=
  (List.range x.size).filter fun f =>
    (f == w && (x.ev w).releases) || ((x.ev f).isFence && (x.ev f).rel && x.po f w)

/-- The acquire sides of a read: itself when it acquires, and every acquire fence after it. -/
def Exec.acquireSides (x : Exec) (r : Nat) : List Nat :=
  (List.range x.size).filter fun g =>
    (g == r && (x.ev r).acquires) || ((x.ev g).isFence && (x.ev g).acq && x.po r g)

/-- R150, the first row: a pair of sides whose read takes its value from the release sequence; the release of a held store is a side of it for a
read that comes after (R159). -/
def Exec.swReads (x : Exec) : List (Nat × Nat) :=
  (List.range x.size).flatMap fun r =>
    (x.ev r).cells.flatMap fun c =>
      match (x.ev r).isRead, x.source r c.1 with
      | true, some v =>
        ((x.coAt c.1).filter fun w => x.follows c.1 w v).flatMap fun w =>
          (x.releaseSides w ++ if x.outside w r || !(x.ev r).held then x.freed w else []).flatMap fun f =>
            (x.acquireSides r).map fun g => (f, g)
      | _, _ => []

/-- The launch of an agent's lane. -/
def Agent.launch : Agent → Option Nat
  | .lane _ _ l .. => some l
  | .control .. => none

def Agent.sameGroup : Agent → Agent → Bool
  | .lane p _ l c t g _, .lane p' _ l' c' t' g' _ => p == p' && l == l' && c == c' && t == t' && g == g'
  | _, _ => false

def Agent.inTeam : Agent → Nat × Nat × Nat → Bool
  | .lane _ _ l c t .., (l', c', t') => l == l' && c == c' && t == t'
  | .control .., _ => false

/-- The rows of R150 that a pair's own events show, with the scope condition where the row has one. -/
def Exec.swPair (x : Exec) (a b : Nat) : Bool :=
  let e := x.ev a
  let f := x.ev b
  (x.mutualScope a b &&
    match e.act, f.act with
    | .arrive i, .depart j => i == j
    | .send i, .take j => i == j
    | .write, .read => e.fullState != none && e.fullState == f.fullState && e.rel && f.acq
    | _, _ => false)
  || (match e.ends, f.agent.launch with
      | some l, some m => x.depends.contains (m, l)
      | _, _ => false)
  || (match e.enters, f.agent.launch with
      | some l, some m => l == m
      | _, _ => false)
  || (match e.zeroes with
      | some t => f.agent.inTeam t
      | none => false)
  || (e.agent.sameGroup f.agent && decide (e.span < f.span) && (e.op == none || x.classOf a == some .rem) &&
      (e.drained || !(List.range x.size).any fun c => x.line a c && (x.ev c).span == e.span))

/-! ### Happens-before (R151 to R153) -/

/-- R151, R351, R39: of two operations of one group, every access of the earlier one comes before every access of the later one: two
matrix or two tile operations, a copy after the matrix operations that use its range. -/
def Op.before (p q : Op) : Bool :=
  p.group == q.group && decide (p.seq < q.seq) &&
    ((p.cls == q.cls && (p.cls == .mat || p.cls == .tile)) ||
      (p.cls == .mat && q.cls == .copy && p.ranges.any q.ranges.contains))

/-- R39: of two requests of one group to one line, the earlier one is answered before the later one is sent. -/
def Op.sameLine (p q : Op) (e f : Ev) : Bool :=
  p.group == q.group && decide (p.seq < q.seq) && p.cls == .rem && q.cls == .rem && e.memLine != none && e.memLine == f.memLine

/-- R151: the edges of engine operations, but for the coherence of one group's copies. Every event before an operation's issue is before its
accesses; of `.rem` operations among themselves only R39 says so. -/
def Exec.engine (x : Exec) (a b : Nat) : Bool :=
  let e := x.ev a
  let f := x.ev b
  (match f.op with
   | some k => (List.range x.size).any fun i =>
       (x.ev i).act == .issue k && x.line a i && !(x.classOf a == some .rem && x.classOf b == some .rem)
   | none => false)
  || (match e.op, f.act with
      | some k, .waitc ks => ks.contains k
      | _, _ => false)
  || (match e.op, f.op with
      | some k, some m =>
        match x.ops[k]?, x.ops[m]? with
        | some p, some q => p.before q || p.sameLine q e f
        | _, _ => false
      | _, _ => false)

/-- What RVWMO keeps of a hart's program order (R161): overlapping stores, fences, acquire and release, RMW pairs, dependences, and
loads of one location that take different writes. (PRESUMED: assumption 76.) -/
def Exec.rvwmo (x : Exec) (a b : Nat) : Bool :=
  let e := x.ev a
  let f := x.ev b
  let between := (List.range x.size).filter fun c => x.po a c && x.po c b
  let shared := x.locs.filter fun l => e.touches l && f.touches l
  let fenced := between.any fun c =>
    match (x.ev c).act with
    | .order pr pw sr sw => ((e.isRead && pr) || (e.isWrite && pw)) && ((f.isRead && sr) || (f.isWrite && sw))
    | .fence => (x.ev c).isFull || ((x.ev c).acq && e.isRead) || ((x.ev c).rel && f.isWrite)
    | _ => false
  let loads := e.isRead && f.isRead && shared.any fun l =>
    x.source a l != x.source b l && !between.any fun c => (x.ev c).isWrite && (x.ev c).touches l
  let forwarded := f.isRead && ((x.isRmw a && x.locs.any fun l => x.rfAt l a b) ||
    between.any fun c => x.data.contains (a, c) && (x.ev c).isWrite && x.locs.any fun l => x.rfAt l c b)
  let controlled := f.isWrite && (x.dep.contains (a, b) || between.any fun c => x.addr.contains (a, c))
  x.po a b && e.accesses && f.accesses && (e.agent matches .control ..) &&
    ((f.isWrite && !shared.isEmpty) || fenced || e.acq || f.rel || ((e.acq || e.rel) && (f.acq || f.rel)) || loads ||
      x.rmw.contains (a, b) || x.data.contains (a, b) || forwarded || controlled)

/-- R153: the edges of program order that are in hb. -/
def Exec.poHb (x : Exec) (a b : Nat) : Bool :=
  let e := x.ev a
  let f := x.ev b
  x.po a b &&
    (((f.releases || f.isFence) && (!e.unordered || f.isFence)) ||
     ((e.acquires || e.isFence || e.isWaitc) && (!f.unordered || e.isFence || e.isWaitc)))

/-- R150: every event of a launch is ordered before the launch's completion-word write. -/
def Exec.ended (x : Exec) (a b : Nat) : Bool :=
  match (x.ev b).ends, (x.ev a).agent.launch with
  | some l, some m => l == m
  | _, _ => false

/-- Happens-before without the edges of R152. -/
def Exec.hbBase (x : Exec) : Rel :=
  let sw := x.swReads
  (Rel.of x.size fun a b =>
    x.poHb a b || x.rvwmo a b || x.engine a b || x.ended a b || x.swPair a b || (x.freed a).contains b ||
      (sw.contains (a, b) && x.mutualScope a b)).closure

/-- R152: a copy's writes to a scratchpad line before an access to the line that the copy's issue is
ordered before, by hb or (as R162's test of presence reads it, DEDUCED) by program order. -/
def Exec.presence (x : Exec) (hb : Rel) (a b : Nat) : Bool :=
  let e := x.ev a
  let f := x.ev b
  e.isWrite && e.line != none && e.line == f.line && f.accesses &&
    match e.op with
    | none => false
    | some k =>
      (x.ops[k]?.map (·.cls)) == some .copy && f.op != some k &&
        (List.range x.size).any fun i => (x.ev i).act == .issue k && (hb.has i b || x.po i b)

/-- Happens-before (R153): the edges of R152 depend on it, so they are added as often as there are
operations. -/
def Exec.hb (x : Exec) : Rel :=
  x.ops.foldl (fun hb _ => (hb.join (Rel.of x.size (x.presence hb))).closure) x.hbBase

/-! ### The axioms (R154 to R156) -/

/-- R151, `.copy`: at a location, the writes of an earlier copy of a group before the accesses of a later, and those of one copy in its own
order (R348). -/
def Exec.copyOrder (x : Exec) (a b : Nat) : Bool :=
  (x.ev a).isWrite &&
    match (x.ev a).op, (x.ev b).op with
    | some k, some m =>
      match x.ops[k]?, x.ops[m]? with
      | some p, some q =>
        p.cls == .copy && q.cls == .copy && p.group == q.group &&
          (decide (p.seq < q.seq) || (k == m && decide (a < b) && (x.ev b).isWrite))
      | _, _ => false
    | _, _ => false

/-- R78, R79, R391: the placer zeroes every team of a cluster before any group of the cluster runs, so a zeroing comes before what the team's
siblings do to its scratchpad. -/
def Exec.placed (x : Exec) (a b : Nat) : Bool :=
  match (x.ev a).zeroes, (x.ev b).agent with
  | some (l, c, _), .lane _ _ l' c' .. => l == l' && c == c'
  | _, _ => false

/-- Coherence at one location. -/
def Exec.coherentAt (x : Exec) (hb : Rel) (l : Nat) : Bool :=
  (Rel.of x.size fun a b =>
    (x.ev a).touches l && (x.ev b).touches l &&
      (x.stands hb a b || (x.line a b && !(x.outside a b && x.inTeam a b)) || x.rfAt l a b || x.coLt l a b || x.frAt l a b ||
        x.copyOrder a b || x.heldOrder a b || x.placed a b)).acyclic

/-- R159: a read of the lane that made a held store takes, before the release, that store or a later one that the team holds; no event outside
takes one that is never released. -/
def Exec.heldReads (x : Exec) : Bool :=
  (List.range x.size).all fun r => !(x.ev r).isRead || (x.ev r).cells.all fun c =>
    (List.range x.size).all fun w =>
      !((x.ev w).touches c.1 && x.heldStore w) ||
        ((!(x.line w r && (x.ev r).held && !x.isRmw r) ||
            match x.source r c.1 with
            | some v => v == w || (x.heldStore v && x.inTeam v w && x.coLt c.1 w v)
            | none => false) &&
          !(x.rfAt c.1 w r && x.outside w r && (x.freed w).isEmpty))

/-- R161: the harts' accesses have one order that keeps what each hart's order keeps, in which a read takes the last write before it, or an
earlier one of its own hart's. (PRESUMED: assumption 76.) -/
def Exec.global (x : Exec) : Bool :=
  let hart := fun i => (x.ev i).agent matches .control ..
  (Rel.of x.size fun a b =>
    hart a && hart b &&
      (x.rvwmo a b || x.locs.any fun l =>
        (x.rfAt l a b && !(x.ev a).agent.same (x.ev b).agent) || x.coLt l a b || x.frAt l a b)).acyclic

/-- R145: an event takes effect at once at all its locations: two events stand in one order at every
location they share. -/
def Exec.single (x : Exec) : Bool :=
  let before := fun a b l => x.coLt l a b || x.rfAt l a b || x.frAt l a b
  (List.range x.size).all fun a => (List.range x.size).all fun b =>
    !((x.locs.any (before a b)) && (x.locs.any (before b a)))

/-- Atomicity. -/
def Exec.atomic (x : Exec) : Bool :=
  x.rmw.all fun p => x.locs.all fun l =>
    !(x.coAt l).any fun w => w != p.2 && x.frAt l p.1 w && x.coLt l w p.2

/-- No thin air. -/
def Exec.noThinAir (x : Exec) : Bool :=
  (Rel.of x.size fun a b => x.dep.contains (a, b) || x.locs.any fun l => x.rfAt l a b).acyclic

/-- Fence order; a held store counts, for an event outside, from its release on (R159). -/
def Exec.fences (x : Exec) (hb : Rel) : Bool :=
  x.fo.Nodup && (List.range x.size).all (fun f => x.fo.contains f == (x.ev f).isFull) &&
  x.fo.all fun f => x.fo.all fun g =>
    let first := decide (x.fo.idxOf f < x.fo.idxOf g)
    !(first && hb.has g f) &&
    (!(first && x.mutualScope f g) ||
      (List.range x.size).all fun w => (List.range x.size).all fun r =>
        !((x.ev w).isWrite && (x.ev r).isRead && x.po w f && (!x.outside w r || (x.freed w).any fun c => hb.has c f) && x.po g r) ||
          (x.ev w).cells.all fun c => !(x.ev r).touches c.1 || !x.frAt c.1 r w)

/-- R124, R325, R326: an `LDFE` empties a full state that an event set; where that event wrote the word
too (`STFE`), the load takes that write or a co-later one. -/
def Exec.fullAt (x : Exec) (r l : Nat) (source : Option Nat) : Bool :=
  (x.ev r).fullState == none ||
    (List.range x.size).any fun s =>
      (x.ev s).isWrite && (x.ev s).fullState == (x.ev r).fullState &&
        (!(x.ev s).touches l ||
          match source with
          | none => false
          | some w => w == s || x.coLt l s w)

/-- R147, R156: each read's source writes one of the planes read, a full/empty load finds its word
full, and co lists each location's writes once. -/
def Exec.wellFormed (x : Exec) : Bool :=
  (x.locs.all fun l =>
    (x.coAt l).Nodup &&
      (List.range x.size).all fun w => (x.coAt l).contains w == ((x.ev w).isWrite && (x.ev w).touches l)) &&
  (List.range x.size).all fun r =>
    !(x.ev r).isRead || (x.ev r).cells.all fun c =>
      match x.source r c.1 with
      | none => x.fullAt r c.1 none
      | some w =>
        (x.coAt c.1).contains w && ((x.ev r).planes c.1).any ((x.ev w).planes c.1).contains &&
          x.fullAt r c.1 (some w)

/-- Lexicographic order of keys. -/
def keyLt : List Nat → List Nat → Bool
  | a :: as, b :: bs => decide (a < b) || (a == b && keyLt as bs)
  | [], _ :: _ => true
  | _, [] => false

/-- R155: a deterministic `RED` follows every other write of its launch to the location, those of the launch follow one another in the
sort order, and no read of the launch takes its value from it. -/
def Exec.detReds (x : Exec) : Bool :=
  (List.range x.size).all fun w =>
    !((x.ev w).detRed && (x.ev w).isWrite) ||
      ((List.range x.size).all fun v =>
        (x.ev v).agent.launch != (x.ev w).agent.launch ||
          x.locs.all fun l =>
            (!x.coLt l w v || (x.ev v).ends != none || ((x.ev v).detRed && !keyLt (x.ev v).detKey (x.ev w).detKey)) &&
              (!x.rfAt l w v || (x.ev v).detRed))

/-- R154: the execution satisfies the axioms. -/
def Exec.consistent (x : Exec) : Bool :=
  let hb := x.hb
  x.wellFormed && hb.irreflexive && x.locs.all (x.coherentAt hb) && x.single && x.atomic && x.noThinAir &&
    x.fences hb && x.detReds && x.heldReads && x.global

/-! ### What reads return, races and outcomes -/

/-- R156: the writes of one plane among those co-before or equal to the write that a read takes, oldest first. -/
def Exec.writers (x : Exec) (r l j : Nat) : List Nat :=
  match x.source r l with
  | none => []
  | some w =>
    let o := x.coAt l
    (o.take (o.idxOf w + 1)).filter fun v => ((x.ev v).planes l).contains j

/-- What a write gives a plane of a location. -/
def Ev.val (e : Ev) (l j : Nat) : Option Val :=
  (e.cells.find? (·.1 == l)).bind fun c => (c.2.find? (·.1 == j)).map (·.2)

/-- What write `w` makes of a plane that held `old`, where `get` gives what a read takes. -/
def Exec.written (x : Exec) (get : Nat → Nat → Nat → Nat) (w old : Nat) : Val → Nat
  | .num n => n
  | .same r l j => get r l j
  | .bits lo n v => x.written get w old v / 2 ^ lo % 2 ^ n
  | .part lo n v => old - old / 2 ^ lo % 2 ^ n * 2 ^ lo + x.written get w old v % 2 ^ n * 2 ^ lo
  | .rmw op ws k =>
    let r := ((x.rmw.find? (·.2 == w)).map (·.1)).getD w
    (rmwStores op ws ((x.ev w).cells.flatMap fun c => c.2.map fun p => get r c.1 p.1)).getD k 0

/-- The value that a read takes of a location's plane: the last write of the plane gives it, and a write of some of its bits leaves the
others as they were. `fuel` bounds the chain of values taken from reads. -/
def Exec.value (x : Exec) : Nat → Nat → Nat → Nat → Nat
  | 0, _, _, _ => 0
  | fuel + 1, r, l, j =>
    (x.writers r l j).foldl (fun v w => (((x.ev w).val l j).map (x.written (x.value fuel) w v)).getD v)
      (((x.init.find? fun e => e.1 == l && e.2.1 == j).map (·.2.2)).getD 0)

/-- R157: a race between two accesses, of which one at least writes, that hb does not order. Accesses in mutual scope of which each is
an RMW or a single-copy atomic access make none. -/
def Exec.race (x : Exec) (a b : Nat) : Bool :=
  let e := x.ev a
  let f := x.ev b
  e.accesses && f.accesses && (e.isWrite || f.isWrite) && (e.cells.any fun c => f.touches c.1) && a != b &&
    !x.hb.has a b && !x.hb.has b a && !((e.whole || x.isRmw a) && (f.whole || x.isRmw b) && x.mutualScope a b)

/-- R154, Visibility, of a location in an execution without end: the writes that have reached its coherence point after `k` events
(`reached k`, oldest first) take in each of its writes from some event on, and a read that an agent repeats without end, the
`k`th of which takes `taken k`, takes the last write that exists from some repetition on. -/
def visible (writes : List Nat) (reached : Nat → List Nat) (taken : Nat → Option Nat) : Prop :=
  (∀ w ∈ writes, ∃ n, ∀ k, n ≤ k → w ∈ reached k) ∧
    ∀ w, (∃ n, ∀ k, n ≤ k → (reached k).getLast? = some w) → ∃ n, ∀ k, n ≤ k → taken k = some w

/-- All the orders of a list. -/
def orders : List Nat → List (List Nat)
  | [] => [[]]
  | a :: as => (orders as).flatMap fun o => (List.range (o.length + 1)).map fun i => o.insertIdx i a

/-- Every choice of one element from each list. -/
def choices {α : Type} : List (List α) → List (List α)
  | [] => [[]]
  | c :: cs => (choices cs).flatMap fun rest => c.map (· :: rest)

/-- The executions of given events: every source for each read, every order of each location's
writes and every order of the full fences. -/
def Exec.candidates (x : Exec) : List Exec :=
  let n := List.range x.size
  let writes := fun l => n.filter fun w => (x.ev w).isWrite && (x.ev w).touches l
  let rfs := choices <| n.flatMap fun r =>
    if (x.ev r).isRead then
      (x.ev r).cells.map fun c => (none :: (writes c.1).map some).map fun s => (r, c.1, s)
    else []
  let cos := choices (x.locs.map fun l => (orders (writes l)).map fun o => (l, o))
  let fos := orders (n.filter fun f => (x.ev f).isFull)
  rfs.flatMap fun rf => cos.flatMap fun co => fos.map fun fo => { x with rf := rf, co := co, fo := fo }

/-- R154: an outcome (reads with the location, the plane and the value they return) is allowed exactly
when some execution that produces it satisfies the axioms. -/
def Exec.allows (x : Exec) (outcome : List (Nat × Nat × Nat × Nat)) : Bool :=
  x.candidates.any fun c =>
    outcome.all (fun o => c.value (c.size + 1) o.1 o.2.1 o.2.2.1 == o.2.2.2) && c.consistent

end Sys2Proof.Machine.Ordering
end

