-- ==== Sys2Proof/Safety.lean ====
section
/-! DEFINITION. What counts as a safe run, and the terms that the statements use: when nothing stands before a word, what a T, I or
P word leaves, what an X word leaves, the canonical form of memory. -/
namespace Sys2Proof.Machine

/-! ### When nothing stands before a word (R114, R107, R42) -/

/-- A word that needs `n` acts, with the active lanes `m`: its register fields lie in the allocation, its guard's results and all that it reads,
latches or waits for have landed, no unknown outcome is delivered by it, it is not privileged here, no register's value makes it a
reserved word, a collective word is converged, its latches are valid, a region does not begin in a trap handler, and the memory events
that its own follow have taken effect. -/
structure State.Clear (s : State) (n : Needs) (m : Lanes) : Prop where
  active : m = s.cur.active s.iss.run n.guard
  fields : ∀ r ∈ n.regs ++ guardRegs n.guard, r < s.cur.nregs
  guardLanded : s.cur.awaits (guardRegs n.guard) s.iss.run = false
  landed : s.cur.lacks n m = false
  guardKnown : s.cur.unknownFor (guardRegs n.guard) s.iss.run = none
  known : s.cur.unknowns.find? (n.delivers m) = none
  allowed : n.priv = false
  converged : n.coll = true → s.iss.run = allLanes ∧ (m = 0 ∨ m = allLanes)
  latched : ∀ b ∈ n.latches, s.cur.lvalid.getLsbD b = true
  noHandler : n.region = true → s.cur.handler = none
  ordered : s.cur.mustFollow n m = false
  keysLanded : s.cur.awaits n.keys s.iss.run = false
  unreserved : n.reserved = none

/-! ### The causes that come before an effect (R114) -/

/-- A word that needs `n` raises the encoding-and-state causes in their order, for its run, whatever its guard holds: a register field
outside the allocation; a collective word on lanes that are not together; a latch that is not valid; a region that would begin in a trap
handler (R99, R100, R106, R341). -/
def State.EncodingCauses (s : State) (i : Instr) (n : Needs) : Prop :=
  let trap (c : Nat) : Prop := exec i s = .next (s.takeTrap c s.iss.run 0 0)
  let fields := n.regs ++ guardRegs n.guard
  let act := s.cur.active s.iss.run n.guard
  let together : Prop := n.coll = true → s.iss.run = allLanes ∧ (act = 0 ∨ act = allLanes)
  s.cur.awaits n.keys s.iss.run = false → n.reserved = none →
  ((∃ r ∈ fields, s.cur.nregs ≤ r) → trap 0x05)
  ∧ ((∀ r ∈ fields, r < s.cur.nregs) → s.cur.awaits (guardRegs n.guard) s.iss.run = false →
      s.cur.unknownFor (guardRegs n.guard) s.iss.run = none → n.priv = false →
      (¬ together → trap 0x03)
      ∧ (together → (∃ b ∈ n.latches, s.cur.lvalid.getLsbD b = false) → trap 0x04)
      ∧ (together → (∀ b ∈ n.latches, s.cur.lvalid.getLsbD b = true) → n.region = true → s.cur.handler ≠ none → trap 0x13))

/-- `i` traps on the data faults of its lanes `m`, before any lane has an effect: of the causes that active lanes give, the lowest, for the
lanes that give it, with the address of the lowest of them. -/
def State.FaultsAs (s : State) (i : Instr) (m : Lanes) (fault : Nat → Option (Nat × Dword)) : Prop :=
  ∀ l c a, m.getLsbD l = true → fault l = some (c, a) →
    (∀ j d, m.getLsbD j = true → fault j = some d → c ≤ d.1 ∧ (d.1 = c → l ≤ j)) →
    exec i s = .next (s.takeTrap c (lanesOf fun j => m.getLsbD j && (fault j).any fun d => d.1 == c) a 0)

/-- The fault of a lane's access, with the address before translation (R120, R318). -/
def resFault (res : Resolver) (l : Nat) : Option (Nat × Dword) :=
  match (res l).2 with
  | .error c => some (c, (res l).1)
  | .ok _ => none

/-- The X words with their register fields, whether they are collective, and when they begin a region. -/
def State.xRows (s : State) (b : XB) (m : XM) (e : XE) : List (Instr × Needs) :=
  let g := s.cur
  let gb : Needs := { guard := b.guard }
  let gm : Needs := { guard := m.guard }
  let ge : Needs := { guard := e.guard }
  let pb := pairRegs b.breg
  let am := addrRegs m
  let d := m.data.toNat
  let r (x : BitVec 8) : Nat := x.toNat
  let actM := g.active s.iss.run m.guard
  let act := g.active s.iss.run e.guard
  let on := act != 0
  let n := widthBytes m.width
  let st := lanePlaces actM (s.plainRes m.addr (offWhole m) n n true)
  let put (l : Nat) : List (Place × List Byte) :=
    (st.filter fun x => x.lane = l).map fun x => (x.place, leBytes n (wordsVal (g.words l (dataRegs m))))
  let sp := lanePlaces actM (s.planeRes m.addr (offStp m) (m.pln.toNat + 1) 2 2 true)
  let far (k : RmwKind) : Bool := (lanePlaces actM (s.rmwRes m (rmwBytes k m) true)).any fun x => isGlobal x.place
  let copy (kind : Nat) (ctl : List Nat) : Needs :=
    { ge with regs := pairRegs e.e0 ++ pairRegs e.e1 ++ ctl, region := on && g.hold && s.copyGlobal s.iss.gid (s.mkCopy e kind (lead act)) }
  let coll (regs : List Nat) : Needs := { ge with regs, coll := true }
  let mem (t : LaneAcc → Bool) : Bool := match s.memCheck e with
    | .ok x => x.2.2.2.any t
    | .error _ => false
  let tile (k : TileKind) (rs : List (BitVec 8)) : Needs :=
    let far := match s.tileKnown k e.flags (rs.map fun x => g.v64 0 x.toNat) with
      | some (.ok x) => x.far
      | _ => false
    { coll (rs.flatMap pairRegs) with region := on && (g.hold || (far && g.windowRegion)) }
  let rec_ := g.v64 0 e.e0.toNat
  let armed := (valuesOf [s.tsampPages rec_]).flatten.any fun p => p.kind = 2
  let opt := pairRegs e.e0 ++ range' (r e.e1) (if e.flags = 1 then 2 else 1) ++ pairRegs e.e2
  let serial := on && g.windowRegion
  [(.bra b, gb), (.exit b, gb), (.yield b, gb), (.join b, gb), (.leave b, gb), (.waitm b, gb), (.nop b, gb), (.brk b, gb),
   (.brx b, { gb with regs := pb }), (.call b, { gb with regs := pb }), (.ret b, { gb with regs := pb }), (.mkrd b, { gb with regs := pb }),
   (.mkwr b, { gb with regs := pb }), (.callx b, { gb with regs := pb ++ pairRegs (b.boff.setWidth 8) }), (.trap b, { gb with regs := [r b.breg] }),
   (.ld m, { gm with regs := am ++ dataRegs m }),
   (.st m, { gm with regs := am ++ dataRegs m
                     region := (s.writeLanes g.hold (locals st) put).isNone || (!(remotes st).isEmpty && g.windowRegion) }),
   (.ldp m, { gm with regs := am ++ range' d (if m.width = 3 then 2 else 1) }), 
   (.stp m, { gm with regs := am ++ stpData m ++ stpKey m, region := (s.writeLanes g.hold sp (s.stpPut m sp)).isNone }),
   (.ldfe m, { gm with regs := am ++ [d], region := true }), (.stfe m, { gm with regs := am ++ [d], region := true }),
   (.feinit m, { gm with regs := am ++ [d], region := true }), (.sptest m, { gm with regs := am ++ [d] }),
   (.spcast m, { gm with regs := am ++ [d, d + 1] }), (.fence m, gm),
   (.atom m, { gm with regs := am ++ rmwOperands .atom m, region := far .atom && g.windowRegion }),
   (.red m, { gm with regs := am ++ rmwOperands .red m, region := far .red && g.windowRegion }),
   (.atomv m, { gm with regs := am ++ rmwOperands .atomv m, region := far .atomv && g.windowRegion }),
   (.waita m, { gm with regs := am ++ dataRegs m })]
  ++ [(.bar e, { coll [] with region := true }), (.bara e, { coll [] with region := true }), (.barw e, { coll [] with region := true }),
   (.regn e, { coll [r e.e1] with region := true }), (.commit e, { coll [] with region := true }), (.ordwait e, coll [r e.e0]),
   (.qsnd e, { ge with regs := [r e.e0, r e.e1, r e.e2, r e.e3], region := true }), (.qrcv e, { ge with regs := [r e.e0], region := true }),
   (.cpy e, copy 0 [r e.e2]), (.cpy2 e, copy 1 (range' (r e.e2) 4)), (.cpyx e, copy 2 [r e.e2]), (.cpyp e, copy 3 (range' (r e.e2) 2)),
   (.ctld e, { ge with regs := pairRegs e.e0 }), (.ptld e, { ge with regs := pairRegs e.e0 }), (.waitc e, ge), (.cntrd e, { ge with regs := [r e.e0] })]
  ++ [(.obres e, coll [r e.e0, r e.e1]), (.obrel e, coll [r e.e0]), (.obset e, coll (r e.e0 :: pairRegs e.e1)), (.mpri e, coll [r e.e0]),
   (.mma e, coll ([r e.e0, r e.e1, r e.e2] ++ range' (r e.e3) 3)), (.mrd e, coll ([r e.e0, r e.e1] ++ range' (r e.e2) 2)),
   (.mwr e, coll ([r e.e1, r e.e0] ++ range' (r e.e2) 2)), (.mzero e, coll [r e.e0]),
   (.mwrMem e, { coll (pairRegs e.e0 ++ [r e.e1, r e.e3] ++ range' (r e.e2) 2) with
                 region := on && ((g.hold && mem fun x => x.place.kind != 3) || ((mem fun x => x.place.kind = 2) && g.windowRegion)) })]
  ++ [(.tzero e, tile .tzero [e.e0]), (.tmac e, tile .tmac [e.e0, e.e1, e.e2]), (.tadd e, tile .tadd [e.e0, e.e1]), (.trnd e, tile .trnd [e.e0]),
   (.tdense e, tile .tdense [e.e0]), (.tcomp e, tile .tcomp [e.e0]), (.tlu e, tile .tlu [e.e0]), (.ttrs e, tile .ttrs [e.e0, e.e1]),
   (.tsamp e, { coll (pairRegs e.e0) with
                region := on && e.flags = 1 && (g.hold || (armed && g.windowRegion)), keys := if e.flags = 1 then pairRegs e.e0 else []
                reserved := if e.flags = 1 && rec_ = 0 then some (instrWord (.tsamp e)) else none }),
   (.tinfo e, coll (range' (r e.e0) 4 ++ pairRegs e.e1)), (.tpool e, coll (pairRegs e.e0 ++ [r e.e1])), (.tpoolEmpty e, coll [])]
  ++ [(.osgd e, { ge with regs := opt, region := serial }), (.oadam e, { ge with regs := opt, region := serial }),
   (.ccon e, { ge with regs := pairRegs e.e0 ++ [r e.e1] ++ pairRegs e.e2, region := serial }),
   (.cline e, { ge with regs := r e.e3 :: (pairRegs e.e0 ++ [r e.e1, r e.e2]), keys := guardRegs e.guard ++ [r e.e1]
                        reserved := if on && e.e4 != 0 && !(lineOp (g.v (lead act) (r e.e1)) = 0 && lineFp (g.v (lead act) (r e.e1)))
                          then some (instrWord (.cline e)) else none }),
   (.launch e, { ge with regs := r e.e0 :: pairRegs e.e1
                         region := on && s.classOf s.iss.gid (g.v64 (lead act) (r e.e1)) = 0 && g.windowRegion }),
   (.rdsr e, { ge with regs := range' (r e.e0) (if Shape.stateWidth (r e.e1) = some 64 then 2 else 1) }), (.wrsr e, { ge with regs := [r e.e1] }),
   (.svc e, { ge with regs := pairRegs e.e0 ++ (pairRegs e.e1 ++ [r e.e2]) })]

/-! ### What a word leaves -/

/-- Of a group, everything but its registers, flags, latches and PCs (and the results that a younger write takes the registers
from) is as it was. -/
def Group.sameBut (g h : Group) : Prop :=
  h = { g with
    regs := h.regs, fpflags := h.fpflags, latches := h.latches, lvalid := h.lvalid, pcs := h.pcs, late := h.late
    unknowns := h.unknowns }

/-- The group in hand, its slot's operand cache and the issue stage apart, the package is as it was. -/
def State.onlyCur (s t : State) : Prop :=
  t = { s with groups := t.groups, slots := t.slots, iss := t.iss } ∧ (∀ k, k ≠ s.iss.gid → t.group k = s.group k)
    ∧ (∀ k, t.slot k = { s.slot k with ocache := (t.slot k).ocache }) ∧ (∀ k, k ≠ s.cur.slot → t.slot k = s.slot k)
    ∧ t.iss = { s.iss with issued := true }

/-- A T, I or P word has issued: of the lanes `m`, the registers that `w` names hold the words it gives, and the flags are raised;
every lane of the run moved to PC + 8; one value of each lane entered the latches (R104); nothing else changed. -/
structure Delivered (s t : State) (m : Lanes) (w : Nat → Nat → Option Word) (fl : Nat → Flags) : Prop where
  regs : ∀ l r, t.cur.v l r = if m.getLsbD l then (w l r).getD (s.cur.v l r) else s.cur.v l r
  flags : t.cur.fpflags = mergeFlags s.cur.fpflags (flagsOf m fl)
  pcs : ∀ l, laneAt64 t.cur.pcs l = if s.iss.run.getLsbD l then laneAt64 s.cur.pcs l + 8 else laneAt64 s.cur.pcs l
  group : s.cur.sameBut t.cur
  only : s.onlyCur t
  mem : ∀ a, t.rd a = s.rd a

/-- The words of a T or I result: consecutive registers from `d`, unless NW (R258). -/
def dstWords (d n : Nat) (nw : Bool) (r : Nat → LaneRes) (l q : Nat) : Option Word :=
  if !nw && d ≤ q && q < d + n then some ((r l).words.getD (q - d) 0) else none

/-- One shift of the latches: b0 holds the value of each lane that `x` gives, the others the values before them (R104). -/
def Latched (g h : Group) (x : Nat → Dword) : Prop :=
  (∀ l, l < 32 → laneAt64 (h.latches.getD 0 zeroRow64) l = x l)
    ∧ (∀ i, i < 3 → h.latches.getD (i + 1) zeroRow64 = g.latches.getD i zeroRow64)
    ∧ h.lvalid = g.lvalid <<< 1 ||| 1

/-- What b0 receives in a T or I word: an active lane's result, another lane's destination as it stands. -/
def latchVal (g : Group) (m : Lanes) (d : Nat) (pair : Bool) (r : Nat → LaneRes) (l : Nat) : Dword :=
  if m.getLsbD l then latchOf pair (r l).words else if pair then g.v64 l d else (g.v l d).setWidth 64

/-- The result of each lane of a T word: `op` of its operands, read by the shape of the opcode. -/
def tResult (s : State) (m : Lanes) (opc : Nat) (f : TF)
    (op : Lanes → (Nat → Dword) → (Nat → Dword) → (Nat → Dword) → Nat → LaneRes) : Nat → LaneRes :=
  let sh := Shape.tShape opc f.mod.toNat f.rnd.toNat
  op m (fun l => s.operand s.iss.gid l sh.a f.sa) (fun l => s.operand s.iss.gid l sh.b f.sb)
    (fun l => s.operand s.iss.gid l sh.c f.sc)

/-- A word whose lanes have the results `r` in `n` registers from `d` has issued. -/
def ResDone (s t : State) (m : Lanes) (d n : Nat) (pair nw : Bool) (r : Nat → LaneRes) : Prop :=
  Delivered s t m (dstWords d n nw r) (fun l => (r l).flags) ∧ Latched s.cur t.cur (latchVal s.cur m d pair r)

/-- A T word has issued, with `op` the operation of its lanes. -/
def TDone (s t : State) (m : Lanes) (opc : Nat) (f : TF)
    (op : Lanes → (Nat → Dword) → (Nat → Dword) → (Nat → Dword) → Nat → LaneRes) : Prop :=
  let sh := Shape.tShape opc f.mod.toNat f.rnd.toNat
  ResDone s t m f.dst.toNat sh.dn (sh.deven && sh.dn == 2) f.nw (tResult s m opc f op)

/-- The result of each lane of an I word. -/
def iResult (s : State) (opc : Nat) (f : IF) (imm : Shape.Src → Word → Dword) (op : Dword → Dword → Dword → LaneRes) (l : Nat) :
    LaneRes :=
  let sh := Shape.iShape opc f.w.toNat
  op (if sh.b == .no then imm sh.a f.imm else s.operand s.iss.gid l sh.a f.sa) (imm sh.b f.imm)
    (s.operand s.iss.gid l sh.c (f.dst.setWidth 9))

def IDone (s t : State) (m : Lanes) (opc : Nat) (f : IF) (imm : Shape.Src → Word → Dword) (op : Dword → Dword → Dword → LaneRes) :
    Prop :=
  let sh := Shape.iShape opc f.w.toNat
  ResDone s t m f.dst.toNat sh.dn (sh.deven && sh.dn == 2) f.nw (iResult s opc f imm op)

/-- The T words of the integer, logic and compare-and-move blocks, but `MOVX` and `MOVXW`. -/
def intRows (f : TF) : List (Instr × Nat) :=
  [(.iadd f, 0x000), (.isub f, 0x001), (.imul f, 0x002), (.imulh f, 0x003), (.imad f, 0x004), (.imin f, 0x005),
   (.imax f, 0x006), (.iabs f, 0x007), (.ineg f, 0x008), (.idiv f, 0x009), (.irem f, 0x00A), (.lea f, 0x00B),
   (.and f, 0x010), (.or f, 0x011), (.xor f, 0x012), (.andn f, 0x013), (.orn f, 0x014), (.shl f, 0x015),
   (.shr f, 0x016), (.sar f, 0x017), (.rotl f, 0x018), (.funsh f, 0x019), (.bfx f, 0x01A), (.bfi f, 0x01B),
   (.popc f, 0x01C), (.clz f, 0x01D), (.ctz f, 0x01E), (.brev f, 0x01F), (.icmp f, 0x020), (.sel f, 0x021),
   (.mov f, 0x022)]

/-- The T words of the arithmetic and function blocks. -/
def fpRows (f : TF) : List (Instr × Nat) :=
  [(.fadd f, 0x040), (.fsub f, 0x041), (.fmul f, 0x042), (.ffma f, 0x043), (.ffms f, 0x044), (.fmin f, 0x045),
   (.fmax f, 0x046), (.fminm f, 0x047), (.fmaxm f, 0x048), (.fabs f, 0x049), (.fneg f, 0x04A), (.fcpys f, 0x04B),
   (.fcmp f, 0x04C), (.fclass f, 0x04D), (.frint f, 0x04E), (.fscl f, 0x04F), (.fgete f, 0x050), (.fdiv f, 0x060),
   (.fsqrt f, 0x061), (.frcp f, 0x062), (.frsq f, 0x063), (.fexp f, 0x064), (.fexp2 f, 0x065), (.flog f, 0x066),
   (.flog2 f, 0x067), (.fsin f, 0x068), (.fcos f, 0x069), (.ftan f, 0x06A), (.fatan f, 0x06B), (.ftanh f, 0x06C),
   (.ferf f, 0x06D)]

/-- The I words of the integer, logic and compare-and-move blocks. -/
def intRowsI (f : IF) : List (Instr × Nat) :=
  [(.iaddI f, 0x000), (.isubI f, 0x001), (.imulI f, 0x002), (.imulhI f, 0x003), (.imadI f, 0x004), (.iminI f, 0x005),
   (.imaxI f, 0x006), (.iabsI f, 0x007), (.inegI f, 0x008), (.idivI f, 0x009), (.iremI f, 0x00A), (.leaI f, 0x00B),
   (.andI f, 0x010), (.orI f, 0x011), (.xorI f, 0x012), (.andnI f, 0x013), (.ornI f, 0x014), (.shlI f, 0x015),
   (.shrI f, 0x016), (.sarI f, 0x017), (.rotlI f, 0x018), (.funshI f, 0x019), (.bfxI f, 0x01A), (.bfiI f, 0x01B),
   (.popcI f, 0x01C), (.clzI f, 0x01D), (.ctzI f, 0x01E), (.brevI f, 0x01F), (.icmpI f, 0x020), (.selI f, 0x021),
   (.movI f, 0x022)]

/-- The I words of the arithmetic block. -/
def fpRowsI (f : IF) : List (Instr × Nat) :=
  [(.faddI f, 0x040), (.fmulI f, 0x042), (.ffmaI f, 0x043)]

/-- The P words, by the operation of half 0. -/
def halfRows (h0 : HF) (op1 : POp) (h1 : HF) : List (Instr × POp) :=
  [(.iaddP h0 op1 h1, .iadd), (.isubP h0 op1 h1, .isub), (.iminP h0 op1 h1, .imin), (.imaxP h0 op1 h1, .imax),
   (.andP h0 op1 h1, .and), (.orP h0 op1 h1, .or), (.xorP h0 op1 h1, .xor), (.andnP h0 op1 h1, .andn),
   (.shlP h0 op1 h1, .shl), (.shrP h0 op1 h1, .shr), (.sarP h0 op1 h1, .sar), (.movP h0 op1 h1, .mov),
   (.icmpP h0 op1 h1, .icmp), (.faddP h0 op1 h1, .fadd), (.fmulP h0 op1 h1, .fmul), (.fminP h0 op1 h1, .fmin),
   (.fmaxP h0 op1 h1, .fmax)]

/-- One lane of a half: its operation on its destination's value and its source. -/
def halfLane (s : State) (op : POp) (h : HF) (d l : Nat) : LaneRes :=
  halfOp op h.hmod.toNat ((s.cur.v l d).setWidth 64) (s.halfSrc s.iss.gid l h)

/-- The words of a P word: each half's result in its own register. -/
def halfWords (s : State) (op0 : POp) (h0 : HF) (op1 : POp) (h1 : HF) (l q : Nat) : Option Word :=
  if q = highReg h1 then some ((halfLane s op1 h1 (highReg h1) l).words.getD 0 0)
  else if q = lowReg h0 then some ((halfLane s op0 h0 (lowReg h0) l).words.getD 0 0)
  else none

/-- A P word has issued: the latches move twice, so that b0 holds half 1's destination and b1 half 0's (R262). -/
structure PDone (s t : State) (m : Lanes) (op0 : POp) (h0 : HF) (op1 : POp) (h1 : HF) : Prop where
  done : Delivered s t m (halfWords s op0 h0 op1 h1)
    fun l => (halfLane s op0 h0 (lowReg h0) l).flags ||| (halfLane s op1 h1 (highReg h1) l).flags
  top : ∀ l, l < 32 → laneAt64 (t.cur.latches.getD 0 zeroRow64) l = (t.cur.v l (highReg h1)).setWidth 64
    ∧ laneAt64 (t.cur.latches.getD 1 zeroRow64) l = (t.cur.v l (lowReg h0)).setWidth 64
  old : ∀ i, i < 2 → t.cur.latches.getD (i + 2) zeroRow64 = s.cur.latches.getD i zeroRow64
  valid : t.cur.lvalid = s.cur.lvalid <<< 1 <<< 1 ||| 3

/-- An X word has issued that changed its group alone: the group is `g` with its latches fallen, the slot's operand cache is
empty, and nothing else of the package changed (R103, R105). -/
structure XDone (s t : State) (g : Group) : Prop where
  group : t.cur = { g with lvalid := 0 }
  only : s.onlyCur t
  cache : (t.slot s.cur.slot).ocache = []
  mem : ∀ a, t.rd a = s.rd a

/-- The PCs of a group: an active lane stands where `pc` says, the others of the run at PC + 8. -/
def Stands (s : State) (h : Group) (m : Lanes) (pc : Nat → Dword) : Prop :=
  ∀ l, laneAt64 h.pcs l =
    if s.iss.run.getLsbD l then (if m.getLsbD l then pc l else laneAt64 s.cur.pcs l + 8) else laneAt64 s.cur.pcs l

/-- A control word has issued: the group is `g`, but for its PCs and latches. -/
def Jumped (s t : State) (m : Lanes) (g : Group) (pc : Nat → Dword) : Prop :=
  XDone s t { g with pcs := t.cur.pcs } ∧ Stands s t.cur m pc

/-! ### Accesses -/

/-- Every active lane's access resolves; no line that it needs is absent, and no byte that it reads is in error. -/
def Reached (s : State) (m : Lanes) (res : Resolver) : Prop :=
  ∀ l, m.getLsbD l = true → ∃ p, (res l).2 = .ok p ∧ s.absent p = false ∧ s.bad p = false

/-- No active lane touches a page whose accesses are counted (R134). -/
def Uncounted (m : Lanes) (res : Resolver) : Prop := ∀ l p, m.getLsbD l = true → (res l).2 = .ok p → p.ac = none

/-- Whether lane `l` reaches another package. -/
def farLane (res : Resolver) (l : Nat) : Bool :=
  match (res l).2 with
  | .ok p => p.kind == 2
  | .error _ => false

/-- A word that loads registers has issued: the lanes of `m` hold the words of `val` in `n` registers from `d`. -/
structure Loaded (s t : State) (m : Lanes) (d n : Nat) (val : Nat → List Word) : Prop where
  regs : ∀ l q, t.cur.v l q = if m.getLsbD l && d ≤ q && q < d + n then (val l).getD (q - d) 0 else s.cur.v l q
  pcs : Stands s t.cur 0 fun _ => 0
  flags : t.cur.fpflags = s.cur.fpflags
  latches : t.cur.lvalid = 0

/-- The outstanding list of `h` is that of `g` with requests added; an entry that a resume restored goes when a watermarked request of
its serial `n` is sent again (R40, R47). -/
def Group.outsGrow (g h : Group) (wm : Bool) (n : Word) (reqs : List OutReq) : Prop :=
  ∃ keep : OutReq → Bool, (∀ o, keep o = false → wm = true ∧ o.restored = true ∧ o.serial = n) ∧ h.outs = g.outs.filter keep ++ reqs

/-- A request of an instance: the operation `op`, watermarked with the serial `n` or not, in its first transmission (R38, R41). -/
def OutReq.sentAs (o : OutReq) (op : OwnerOp) (wm : Bool) (n : Word) (pc : Dword) : Prop :=
  o.watermarked = wm ∧ o.serial = n ∧ o.packet.op = op ∧ o.tries = 1 ∧ o.pc = pc ∧ o.restored = false

/-- Requests were added to the outstanding list of the group: exactly the lanes that `far` names are among theirs. -/
def Requested (s t : State) (m : Lanes) (far : Nat → Bool) (op : OwnerOp) (wm : Bool) (n : Word) : Prop :=
  ∃ reqs, s.cur.outsGrow t.cur wm n reqs ∧ (∀ o ∈ reqs, o.sentAs op wm n s.iss.pc)
    ∧ ∀ l, l < 32 → ((∃ o ∈ reqs, o.lanes.getLsbD l = true) ↔ m.getLsbD l = true ∧ far l = true)

/-- The reply of each lane's request is to land in the registers `dst`: an entry of the group awaits it, named by the request's package,
owner and serial, for the lanes of the request (R107). -/
def Awaited (t : State) (m : Lanes) (far : Nat → Bool) (wm : Bool) (n : Word) (dst : List Nat) : Prop :=
  ∀ l, m.getLsbD l = true → far l = true → ∃ o ∈ t.cur.outs, ∃ x ∈ t.cur.late, o.lanes.getLsbD l = true ∧ o.watermarked = wm
    ∧ o.serial = n ∧ x.serial = n ∧ x.owner = some (replyKey o.opkg o.owner wm) ∧ x.dst = dst
    ∧ x.regs = dst.map (fun r => (r, o.lanes)) ∧ x.ready = false

/-! ### Regions (R108, R109) -/

/-- A region of the group begins where its lanes now stand: the checkpoint holds its PCs, its live range's registers and its
watermark state; `g` is the group but for its PCs and latches. -/
structure Begun (s t : State) (g : Group) : Prop where
  group : t.cur = { g with pcs := t.cur.pcs, lvalid := 0, ckpt := t.cur.ckpt, rstart := g.wserial, inBar := false }
  stands : Stands s t.cur 0 fun _ => 0
  region : ∃ c, t.cur.ckpt = some c ∧ c.pcs = t.cur.pcs ∧ c.bar = false ∧ c.first = g.first ∧ c.last = g.last ∧ c.none = g.noLive
    ∧ c.wserial = g.wserial ∧ c.hold = g.hold
    ∧ (tabWf zeroRow g.regs = true → g.noLive = false → ∀ r, g.first ≤ r → r ≤ g.last → tabGet zeroRow c.regs r = g.reg r)

/-- Nothing of the other groups, nor of memory, changed. -/
def State.quiet (s t : State) : Prop := (∀ k, k ≠ s.iss.gid → t.group k = s.group k) ∧ ∀ a, t.rd a = s.rd a

/-! ### Memory -/

/-- A memory is in its one canonical form: addresses strictly rise, and no entry is what an unlisted address reads as. -/
abbrev Memory.wf (mem : List Host.Cell) : Bool := tabWf State.emptyByte mem

/-- The package's memory is in its one canonical form. -/
def State.memWf (s : State) : Bool := Memory.wf s.mem

end Sys2Proof.Machine

namespace Sys2Proof

/-- The machine goes on for `n` steps. -/
def goesOn : Nat → Machine.State → Prop
  | 0, _ => True
  | n + 1, s => ∃ t, Machine.step s = .next t ∧ goesOn n t

end Sys2Proof
end

