-- ==== Sys2Proof/Certificates/Slice0/Obligations.lean ====
section
/-! DEFINITION. The statements for the provers. -/
open Sys2Proof Sys2Proof.Machine

/-! ### Words that write registers: T, I and P forms -/

/-- R281 to R286: each T word of the integer, logic and compare-and-move blocks (`MOVX` and `MOVXW` apart) issues when nothing
stands before it; every active lane's destination takes the operation's result, and nothing else of the package changes but
the flags, the latches, the operand cache and the PCs.

R301 to R309: the same of the arithmetic and function blocks; the flags raised are merged into `FPFLAGS` (R169). -/
def Obligations.ArithmeticWords : Prop :=
  (∀ (s : State) (f : TF) (m : Lanes) (i : Instr) (opc : Nat), (i, opc) ∈ intRows f → s.Clear (tNeeds opc f) m →
     ∃ t, exec i s = .next t ∧ TDone s t m opc f fun _ a b c l => intLane opc f.mod.toNat (a l) (b l) (c l))
  ∧ (∀ (s : State) (f : TF) (m : Lanes) (i : Instr) (opc : Nat), (i, opc) ∈ fpRows f → s.Clear (tNeeds opc f) m →
       ∃ t, exec i s = .next t ∧ TDone s t m opc f fun _ a b c l => fpLane opc f.mod.toNat f.rnd.toNat (a l) (b l) (c l))

/-- R261: each I word does what the T word of its opcode does, with the immediate in the place of its last source. -/
def Obligations.ImmediateWords : Prop :=
  ∀ (s : State) (f : IF) (m : Lanes) (i : Instr) (opc : Nat), s.Clear (iNeeds opc f) m →
    ((i, opc) ∈ intRowsI f →
      ∃ t, exec i s = .next t ∧ IDone s t m opc f immAt (intLane opc f.w.toNat)) ∧
    ((i, opc) ∈ fpRowsI f →
      ∃ t, exec i s = .next t ∧ IDone s t m opc f fpImm (fpLane opc f.w.toNat 0))

/-- R262, R263: a P word runs both halves on the values before either writes, and moves the latches twice. -/
def Obligations.HalfWords : Prop :=
  ∀ (s : State) (h0 : HF) (op1 : POp) (h1 : HF) (m : Lanes) (i : Instr) (op0 : POp), (i, op0) ∈ halfRows h0 op1 h1 →
    s.Clear (pNeeds op0 h0 op1 h1) m → ∃ t, exec i s = .next t ∧ PDone s t m op0 h0 op1 h1

/-- R278, R281, R282: the integer block in bit-vector terms, at the width of the type code; a saturating form clamps to its type
and raises SAT exactly when it clamps (R170).

R283, R284, R286: the logic and bit block, `ICMP`, `SEL` and `MOV` in bit-vector terms. -/
def Obligations.IntegerResults : Prop :=
  (∀ (ty v : Nat) (a b c : Dword), ty < 4 →
     let w := tyWidth ty
     let sgn := 2 ≤ ty
     let x : BitVec w := a.setWidth w
     let y : BitVec w := b.setWidth w
     let z : BitVec w := c.setWidth w
     let wide (q : BitVec w) : BitVec (2 * w) := if sgn then q.signExtend (2 * w) else q.setWidth (2 * w)
     let plain (opc : Nat) (r : BitVec w) : Prop := intOp opc ty 0 a b c = (r.setWidth 64, 0)
     let clamp (opc : Nat) (n : Int) : Prop :=
       intOp opc ty 1 a b c =
         (if intMax ty < n then ((BitVec.ofInt w (intMax ty)).setWidth 64, flSAT)
          else if n < intMin ty then ((BitVec.ofInt w (intMin ty)).setWidth 64, flSAT)
          else ((BitVec.ofInt w n).setWidth 64, 0))
     plain 0x000 (x + y) ∧ plain 0x001 (x - y) ∧ plain 0x002 (x * y)
       ∧ plain 0x003 ((wide x * wide y).extractLsb' w w) ∧ plain 0x004 (x * y + z)
       ∧ plain 0x005 (if sgn then (if x.slt y then x else y) else if x.ult y then x else y)
       ∧ plain 0x006 (if sgn then (if x.slt y then y else x) else if x.ult y then y else x)
       ∧ (sgn → plain 0x007 (if x.msb then -x else x) ∧ clamp 0x007 x.toInt.natAbs ∧ clamp 0x008 (-x.toInt))
       ∧ plain 0x008 (-x)
       ∧ plain 0x009 (if y = 0 then BitVec.allOnes w else if sgn then x.sdiv y else x / y)
       ∧ plain 0x00A (if sgn then x.srem y else x % y)
       ∧ (ty % 2 = 1 → v < 4 →
           intOp 0x00B ty v a b c =
             (a + (if sgn then (b.setWidth 32).signExtend 64 else (b.setWidth 32).setWidth 64) <<< v, 0))
       ∧ clamp 0x000 (if sgn then x.toInt + y.toInt else x.toNat + y.toNat)
       ∧ clamp 0x001 (if sgn then x.toInt - y.toInt else x.toNat - y.toNat))
  ∧ (∀ (ty : Nat) (a b c : Dword), ty < 4 →
       let w := tyWidth ty
       let x : BitVec w := a.setWidth w
       let y : BitVec w := b.setWidth w
       let z : BitVec w := c.setWidth w
       let n := b.toNat % 2 ^ 32
       let k := c.toNat % 2 ^ 32 % w
       let pos := b.toNat % 256
       let len := min (b.toNat / 256 % 256) (w - pos)
       let none := w ≤ pos ∨ b.toNat / 256 % 256 = 0
       let gives (opc v : Nat) (r : BitVec w) : Prop := intOp opc ty v a b c = (r.setWidth 64, 0)
       let small (opc : Nat) : Nat := (intOp opc ty 0 a b c).1.toNat
       gives 0x010 0 (x &&& y) ∧ gives 0x011 0 (x ||| y) ∧ gives 0x012 0 (x ^^^ y) ∧ gives 0x013 0 (x &&& ~~~y)
         ∧ gives 0x014 0 (x ||| ~~~y) ∧ gives 0x015 0 (x <<< n) ∧ gives 0x016 0 (x >>> n) ∧ gives 0x017 0 (x.sshiftRight n)
         ∧ gives 0x018 0 (x.rotateLeft n)
         ∧ gives 0x019 0 (((x ++ y) >>> k).setWidth w) ∧ gives 0x019 1 (((x ++ y) <<< k).extractLsb' w w)
         ∧ gives 0x01A 0 (if none then 0 else if 2 ≤ ty then ((x >>> pos).setWidth len).signExtend w else ((x >>> pos).setWidth len).setWidth w)
         ∧ (∀ i, i < w → ((intOp 0x01B ty 0 a b c).1.getLsbD i =
             if ¬ none ∧ pos ≤ i ∧ i < pos + len then z.getLsbD (i - pos) else x.getLsbD i))
         ∧ small 0x01C = ((List.range w).filter x.getLsbD).length
         ∧ small 0x01D ≤ w ∧ (∀ i, w - small 0x01D ≤ i → x.getLsbD i = false)
         ∧ (small 0x01D < w → x.getLsbD (w - 1 - small 0x01D) = true)
         ∧ small 0x01E ≤ w ∧ (∀ i, i < small 0x01E → x.getLsbD i = false) ∧ (small 0x01E < w → x.getLsbD (small 0x01E) = true)
         ∧ (∀ i, i < w → (intOp 0x01F ty 0 a b c).1.getLsbD i = x.getLsbD (w - 1 - i))
         ∧ intOp 0x020 ty 0 a b c = (if x = y then 1 else 0, 0) ∧ intOp 0x020 ty 1 a b c = (if x = y then 0 else 1, 0)
         ∧ intOp 0x020 ty 2 a b c = (if (if 2 ≤ ty then x.slt y else x.ult y) then 1 else 0, 0)
         ∧ intOp 0x020 ty 3 a b c = (if (if 2 ≤ ty then x.sle y else x.ule y) then 1 else 0, 0)
         ∧ gives 0x021 0 (if c.getLsbD 0 then x else y) ∧ gives 0x022 0 x)

/-- R165: rounding a magnitude to a multiple of a larger power of two never passes a neighbour. Toward zero it never grows,
`.rup` and `.rdn` move by the sign, `.rne` and `.rmm` take the nearest with their ties; the inexact mark is the remainder's.

R163, R167: a number of a format, rounded to that format in any mode, is itself, and raises nothing.

R164, R301, R304: an arithmetic operation on a NaN gives the canonical NaN, with the invalid flag exactly for a signalling one;
∞ − ∞ and 0 × ∞ are invalid; a comparison with a NaN is false, but for "unordered". -/
def Obligations.RoundingAndNaN : Prop :=
  (∀ (mode : Rnd) (neg : Bool) (m sh : Nat) (e : Int), 0 < sh →
     let r := roundAt mode neg m e (e + sh)
     let lo := m / 2 ^ sh
     let rest := m % 2 ^ sh
     (r.1 = lo ∨ (r.1 = lo + 1 ∧ rest ≠ 0)) ∧ r.2 = decide (rest ≠ 0)
       ∧ (mode.code = 0 → 2 * rest < 2 ^ sh → r.1 = lo) ∧ (mode.code = 0 → 2 ^ sh < 2 * rest → r.1 = lo + 1)
       ∧ (mode.code = 0 → 2 * rest = 2 ^ sh → r.1 % 2 = 0)
       ∧ (mode.code = 1 → r.1 = lo)
       ∧ (mode.code = 2 → rest ≠ 0 → r.1 = if neg then lo else lo + 1)
       ∧ (mode.code = 3 → rest ≠ 0 → r.1 = if neg then lo + 1 else lo)
       ∧ (mode.code = 4 → r.1 = if 2 ^ sh ≤ 2 * rest then lo + 1 else lo))
  ∧ (∀ (F : Fmt) (mode : Rnd) (x : Nat), F ∈ [f16, bf16, f32, f64] → x < 2 ^ F.bits → (∀ s, fdecode F x ≠ .nan s) →
       fround F mode (fdecode F x) = (x, 0))
  ∧ (∀ (F : Fmt) (mode : Rnd) (a b : FVal), (a.isNan = true ∨ b.isNan = true) →
       faddV F mode a b = (F.nan, snanFlag [a, b]) ∧ fmulV F mode a b = (F.nan, snanFlag [a, b])
         ∧ (a.isNan = true → ∀ c, ffmaV F mode a b c = (F.nan, snanFlag [a, b, c]))
         ∧ fdivV F mode a b = (F.nan, snanFlag [a, b])
         ∧ (∀ s, faddV F mode (.inf s) (.inf !s) = (F.nan, flNV)) ∧ (∀ s t e, fmulV F mode (.fin s 0 e) (.inf t) = (F.nan, flNV))
         ∧ (∀ x y, fdecode F x = a → fdecode F y = b → (fcompare F 0 x y).1 = 0 ∧ (fcompare F 1 x y).1 = 0
             ∧ (fcompare F 2 x y).1 = 0 ∧ (fcompare F 3 x y).1 = 1))

/-- R288 to R292: the cross-lane block. Every lane of the active set reads before any writes. -/
def Obligations.CrossLaneWords : Prop :=
  ∀ (s : State) (f : TF) (m : Lanes),
    let md := f.mod.toNat
    let sh (opc : Nat) := Shape.tShape opc md 0
    (s.Clear (tNeeds 0x030 f) m → ∃ t, exec (.shfl f) s = .next t ∧ TDone s t m 0x030 f fun act a b _ l =>
        shaped (sh 0x030) (shuffle md act a b l, 0))
    ∧ (s.Clear (tNeeds 0x031 f) m → ∃ t, exec (.xperm f) s = .next t ∧ TDone s t m 0x031 f fun _ a b _ l =>
        let row := (b l).toNat % 2 ^ 32
        let e := (s.patByte (slotCore s.cur.slot) (md % 8) row l).toNat
        shaped (sh 0x031) (if row < 8 ∧ e < 128 then a (e % 32) else 0, 0))
    ∧ (s.Clear (tNeeds 0x032 f) m → ∃ t, exec (.vote f) s = .next t ∧ TDone s t m 0x032 f fun act a _ _ l =>
        res32 (if (if md = 0 then ∀ j ∈ lanesList act, (a j).toNat % 2 = 1 else if md = 1 then ∃ j ∈ lanesList act, (a j).toNat % 2 = 1
          else ∀ j ∈ lanesList act, a j = a l) then 1 else 0))
    ∧ (s.Clear (tNeeds 0x033 f) m → ∃ t, exec (.ballot f) s = .next t ∧ TDone s t m 0x033 f fun act a _ _ _ =>
        res32 ((lanesOf fun j => act.getLsbD j && (a j).toNat % 2 == 1).setWidth 64))
    ∧ (s.Clear (tNeeds 0x034 f) m → ∃ t, exec (.matchv f) s = .next t ∧ TDone s t m 0x034 f fun act a _ _ l =>
        res32 ((lanesOf fun j => act.getLsbD j && a j == a l).setWidth 64))
    ∧ (s.Clear (tNeeds 0x035 f) m → ∃ t, exec (.scan f) s = .next t ∧ TDone s t m 0x035 f fun act a _ _ l =>
        let w := if md / 4 % 2 = 1 then 64 else 32
        let js := (lanesList act).filter fun j => if 8 ≤ md then j < l else j ≤ l
        shaped (sh 0x035) (js.foldl (fun acc j => scanOp (md % 4) w acc (a j)) (scanId (md % 4) w), 0))

/-- R289: what `SHFL` gives a lane: in each mode the value of the lane named, its own when that lane does not exist, and zero when
that lane is outside the active set.

R292: an inclusive additive scan gives each lane the sum of the active lanes up to it, wrapped to the width. -/
def Obligations.ShufflesAndScans : Prop :=
  (∀ (act : Lanes) (a b : Nat → Dword) (l : Nat), l < 32 →
     let k := (b l).toNat % 2 ^ 32
     let from_ (j : Nat) : Dword := if act.getLsbD j then a j else 0
     shuffle 0 act a b l = (if k < 32 then from_ k else a l)
       ∧ shuffle 1 act a b l = (if k ≤ l then from_ (l - k) else a l)
       ∧ shuffle 2 act a b l = (if l + k < 32 then from_ (l + k) else a l)
       ∧ shuffle 3 act a b l = (if k < 32 then from_ (l ^^^ k) else a l))
  ∧ (∀ (w : Nat) (js : List Nat) (a : Nat → Dword), (w = 32 ∨ w = 64) →
       (js.foldl (fun acc j => scanOp 0 w acc (a j)) (scanId 0 w)).toNat = (js.map fun j => (a j).toNat).sum % 2 ^ w)

/-- R310 to R317: the conversions, planes in registers and the dual-exponent blocks. -/
def Obligations.ConvertWords : Prop :=
  ∀ (s : State) (f : TF) (m : Lanes),
    let md := f.mod.toNat
    let sh (opc : Nat) := Shape.tShape opc md f.rnd.toNat
    (s.Clear (tNeeds 0x070 f) m → ∃ t, exec (.fcvt f) s = .next t ∧ TDone s t m 0x070 f fun _ a _ _ l =>
        shaped (sh 0x070) (cvtOp 0x070 md (s.rndOf f.rnd l f.sc.toNat 0) (a l)))
    ∧ (s.Clear (tNeeds 0x071 f) m → ∃ t, exec (.fcvti f) s = .next t ∧ TDone s t m 0x071 f fun _ a _ _ l =>
        shaped (sh 0x071) (cvtOp 0x071 md { code := f.rnd.toNat } (a l)))
    ∧ (s.Clear (tNeeds 0x072 f) m → ∃ t, exec (.icvtf f) s = .next t ∧ TDone s t m 0x072 f fun _ a _ _ l =>
        shaped (sh 0x072) (cvtOp 0x072 md { code := f.rnd.toNat } (a l)))
    ∧ (s.Clear (tNeeds 0x073 f) m → ∃ t, exec (.plsplit f) s = .next t ∧ TDone s t m 0x073 f fun _ a _ _ l =>
        let F := fmtOf (md % 4)
        let r := planeRound F (md / 4 + 1) { code := f.rnd.toNat } ((a l).toNat % 2 ^ F.bits)
        { words := (List.range (md / 4 + 1)).map fun j => BitVec.ofNat 32 (planeOf F.bits r.1 j), flags := r.2 })
    ∧ (s.Clear (tNeeds 0x074 f) m → ∃ t, exec (.pljoin f) s = .next t ∧ TDone s t m 0x074 f fun _ a _ _ l =>
        let k := md / 4 + 1
        let plane (j : Nat) : Nat := (if k = 1 then a l else (s.cur.v l (f.sa.toNat + j)).setWidth 64).toNat % 2 ^ 16
        shaped (Shape.tShape 0x074 md 0)
          (BitVec.ofNat 64 ((List.range k).foldl (fun x j => x + plane j * 2 ^ ((fmtOf (md % 4)).bits - 16 * (j + 1))) 0), 0))
    ∧ (s.Clear (tNeeds 0x075 f) m → ∃ t, exec (.bpack f) s = .next t ∧ TDone s t m 0x075 f fun act a b _ l =>
        let F := if md / 4 % 2 = 1 then f64 else f32
        let j := (lowestLane act).getD 0
        let n := min ((b j).toNat % 2 ^ 32) 32
        let blk := dePack ((List.range 32).map fun i =>
          if act.getLsbD i && i < n then some (fdecode F ((a i).toNat % 2 ^ F.bits)) else none) (deStored (md % 4))
          fun i => s.rndOf f.rnd j f.sc.toNat i
        let d := blk.elems.getD l ⟨false, false, 0⟩
        { words := [BitVec.ofNat 32 blk.header, BitVec.ofNat 32 (if md / 8 = 0 then deWord d.s d.sel d.m blk.planes
            else if l < 4 * blk.planes then rowWord blk (l / 4) (l % 4) else 0)], flags := blk.flags })
    ∧ (s.Clear (tNeeds 0x076 f) m → ∃ t, exec (.bunpk f) s = .next t ∧ TDone s t m 0x076 f fun _ a b _ l =>
        let v := deValue ((a l).toNat % 2 ^ 18) ((b l).toNat % 2 ^ 16) (md % 4 + 1) (md / 4 % 2 == 1)
        shaped (Shape.tShape 0x076 md 0)
          (BitVec.ofNat 64 (fround (if md / 8 = 1 then f64 else f32) { code := 0 } (.fin v.1 v.2.1 v.2.2)).1, 0))

/-- R287: `MOVX` and `MOVXW`, in both forms. The index of a lane is the sum of two 32-bit operands; `MOVX` writes the register of
that index to DST, `MOVXW` writes DST's value to it. A lane whose index lies outside the allocation, or names no pair for the 64-bit
form, raises REG_INDEX for the lanes that do (R114). R42: a register whose outcome is unknown and that `MOVX` reads by its index
delivers OUTCOME_UNKNOWN. -/
def Obligations.IndexedMoves : Prop :=
  ∀ (s : State) (f : TF) (g : IF) (m : Lanes),
    let at_ (a b : Dword) : Nat := (a.setWidth 32 + b.setWidth 32 : Word).toNat
    let idxT (l : Nat) : Nat := at_ (s.src s.iss.gid l f.sa false) (s.src s.iss.gid l f.sb false)
    let idxI (l : Nat) : Nat := at_ (s.src s.iss.gid l g.sa false) (g.imm.setWidth 64)
    let wideT := f.mod.toNat % 2 == 1
    let wideI := g.w.toNat % 2 == 1
    let good (wide : Bool) (idx : Nat → Nat) : Prop :=
      ∀ l, m.getLsbD l = true → idx l < s.cur.nregs ∧ (wide = true → idx l % 2 = 0 ∧ idx l + 1 < s.cur.nregs)
    let out (wide : Bool) (idx : Nat → Nat) : Lanes := lanesOf fun l =>
      m.getLsbD l && !decide (idx l < s.cur.nregs ∧ (wide = true → idx l % 2 = 0 ∧ idx l + 1 < s.cur.nregs))
    let trap (i : Instr) (wide : Bool) (idx : Nat → Nat) : Prop :=
      out wide idx ≠ 0 → exec i s = .next (s.takeTrap 0x05 (out wide idx) 0 0)
    let reads (t : State) (wide : Bool) (idx : Nat → Nat) (d : BitVec 8) (nw : Bool) : Prop :=
      ResDone s t m d.toNat (if wide then 2 else 1) wide nw fun l =>
        if wide then res64 (s.cur.v64 l (idx l)) else res32 ((s.cur.v l (idx l)).setWidth 64)
    let writes (t : State) (wide : Bool) (idx : Nat → Nat) (d : BitVec 8) : Prop :=
      Delivered s t m (fun l q => if q = idx l then some (s.cur.v l d.toNat)
          else if wide && q = idx l + 1 then some (s.cur.v l (d.toNat + 1)) else none) (fun _ => 0)
    (s.Clear { movxNeeds wideT false f.dst.toNat f.sa f.sb f.guard with drain := true } m →
      (s.cur.unknownAt m wideT idxT = none → trap (.movx f) wideT idxT
        ∧ (good wideT idxT → ∃ t, exec (.movx f) s = .next t ∧ reads t wideT idxT f.dst f.nw))
      ∧ ∀ u, s.cur.unknownAt m wideT idxT = some u → s.cur.unanswered u = false → exec (.movx f) s = .next (s.trapUnknown u))
    ∧ (s.Clear { movxNeeds wideI false g.dst.toNat g.sa 0x110 0 with drain := true } m →
      (s.cur.unknownAt m wideI idxI = none → trap (.movxI g) wideI idxI
        ∧ (good wideI idxI → ∃ t, exec (.movxI g) s = .next t ∧ reads t wideI idxI g.dst g.nw))
      ∧ ∀ u, s.cur.unknownAt m wideI idxI = some u → s.cur.unanswered u = false → exec (.movxI g) s = .next (s.trapUnknown u))
    ∧ (s.Clear (movxNeeds wideT true f.dst.toNat f.sa f.sb f.guard) m → trap (.movxw f) wideT idxT
      ∧ (good wideT idxT → ∃ t, exec (.movxw f) s = .next t ∧ writes t wideT idxT f.dst))
    ∧ (s.Clear (movxNeeds wideI true g.dst.toNat g.sa 0x110 0) m → trap (.movxwI g) wideI idxI
      ∧ (good wideI idxI → ∃ t, exec (.movxwI g) s = .next t ∧ writes t wideI idxI g.dst))

/-- R114, R100, R99, R106, R341: the encoding-and-state causes of every T, I, P and X word come whatever the guard holds, in their order,
for the whole run: a register field outside the allocation, then a collective word on lanes that are not together, then a latch that is not
valid, then a region that would begin in a trap handler. A word that a register's value makes a reserved one is not meant, nor PRIVILEGE. -/
def Obligations.EncodingTraps : Prop :=
  ∀ (s : State),
    (∀ (f : TF) (i : Instr) (opc : Nat), ((i, opc) ∈ intRows f ∨ (i, opc) ∈ fpRows f
        ∨ (i, opc) ∈ [(.shfl f, 0x030), (.xperm f, 0x031), (.vote f, 0x032), (.ballot f, 0x033), (.matchv f, 0x034), (.scan f, 0x035),
            (.fcvt f, 0x070), (.fcvti f, 0x071), (.icvtf f, 0x072), (.plsplit f, 0x073), (.pljoin f, 0x074), (.bpack f, 0x075),
            (.bunpk f, 0x076)]) → s.EncodingCauses i (tNeeds opc f))
    ∧ (∀ (f : IF) (i : Instr) (opc : Nat), ((i, opc) ∈ intRowsI f ∨ (i, opc) ∈ fpRowsI f) → s.EncodingCauses i (iNeeds opc f))
    ∧ (∀ (h0 : HF) (op1 : POp) (h1 : HF) (i : Instr) (op0 : POp), (i, op0) ∈ halfRows h0 op1 h1 →
        s.EncodingCauses i (pNeeds op0 h0 op1 h1))
    ∧ (∀ (f : TF) (g : IF),
        let wideT := f.mod.toNat % 2 == 1
        let wideI := g.w.toNat % 2 == 1
        s.EncodingCauses (.movx f) (movxNeeds wideT false f.dst.toNat f.sa f.sb f.guard)
          ∧ s.EncodingCauses (.movxI g) (movxNeeds wideI false g.dst.toNat g.sa 0x110 0)
          ∧ s.EncodingCauses (.movxw f) (movxNeeds wideT true f.dst.toNat f.sa f.sb f.guard)
          ∧ s.EncodingCauses (.movxwI g) (movxNeeds wideI true g.dst.toNat g.sa 0x110 0))
    ∧ (∀ (b : XB) (m : XM) (e : XE) (i : Instr) (n : Needs), (i, n) ∈ s.xRows b m e → s.EncodingCauses i n)

/-! ### Control words -/

/-- R293, R294: branches, calls and returns. A call's link is PC + 8; `CALLX` reads its target before it writes its link.

R295, R297: `YIELD` ends the slot's quantum; `BRK` and `TRAP` raise their traps for the active lanes; `NOP` does nothing. With
no active lane each only moves on. -/
def Obligations.Control : Prop :=
  (∀ (s : State) (f : XB) (m : Lanes),
     let k := f.breg.toNat
     let dest := s.iss.pc + 8 * f.boff.signExtend 64
     let link (l : Nat) : Dword := if m.getLsbD l then s.iss.pc + 8 else s.cur.v64 l k
     let linked (t : State) : Prop :=
       (∀ l, t.cur.v64 l k = link l) ∧ ∀ l q, q ≠ k → q ≠ k + 1 → t.cur.v l q = s.cur.v l q
     (s.Clear { guard := f.guard } m → ∃ t, exec (.bra f) s = .next t ∧ Jumped s t m s.cur fun _ => dest)
     ∧ (s.Clear { guard := f.guard, regs := pairRegs f.breg, reads := pairRegs f.breg } m →
         (∃ t, exec (.brx f) s = .next t ∧ Jumped s t m s.cur fun l => s.cur.v64 l k)
         ∧ ∃ t, exec (.ret f) s = .next t ∧ Jumped s t m s.cur fun l => s.cur.v64 l k)
     ∧ (s.Clear { guard := f.guard, regs := pairRegs f.breg } m →
         ∃ t, exec (.call f) s = .next t ∧ Jumped s t m (s.cur.setReg64 k m fun _ => s.iss.pc + 8) (fun _ => dest) ∧ linked t)
     ∧ (let q := (f.boff.setWidth 8).toNat
        s.Clear { guard := f.guard, regs := pairRegs f.breg ++ [q, q + 1], reads := [q, q + 1] } m →
         ∃ t, exec (.callx f) s = .next t
           ∧ Jumped s t m (s.cur.setReg64 k m fun _ => s.iss.pc + 8) (fun l => s.cur.v64 l q) ∧ linked t))
  ∧ (∀ (s : State) (f : XB) (m : Lanes),
       let adv := s.cur.advance s.iss.run
       let r := f.breg.toNat
       (s.Clear { guard := f.guard } m →
         (∃ t, exec (.nop f) s = .next t ∧ XDone s t adv)
         ∧ (m = 0 → (∃ t, exec (.yield f) s = .next t ∧ XDone s t adv) ∧ ∃ t, exec (.brk f) s = .next t ∧ XDone s t adv)
         ∧ (m ≠ 0 → ∃ t, exec (.yield f) s = .next t ∧ (t.slot s.cur.slot).expired = true ∧ t.iss.yielded = adv.split
             ∧ t.cur = { adv with lvalid := 0 } ∧ ∀ a, t.rd a = s.rd a)
         ∧ (m ≠ 0 → exec (.brk f) s = .next (s.takeTrap 0x18 m 0 (f.boff.setWidth 64))))
       ∧ (s.Clear { guard := f.guard, regs := [r], reads := [r] } m →
           (m = 0 → ∃ t, exec (.trap f) s = .next t ∧ XDone s t adv)
           ∧ ∀ j, lowestLane m = some j →
               exec (.trap f) s = .next (s.takeTrap 0x19 m 0 (f.boff.setWidth 32 ++ s.cur.v j r))))

/-- R98, R293, R296: the words on a reconvergence mask. `WAITM`'s lanes that are not enrolled pass; its others stay at it.

R98: the release test. When every enrolled lane has arrived and one has, the mask empties and the lanes that wait at it go on after
their `WAITM`, those that wait at it in a trap handler's saved state there; a lane that waits at another mask stays, and otherwise
nothing happens. A lane waits at the mask of its latest `WAITM`, and at no other. -/
def Obligations.Masks : Prop :=
  (∀ (s : State) (f : XB) (m : Lanes),
     let k := f.mask.toNat
     let x := s.cur.mask k
     let d := f.breg.toNat
     let adv := s.cur.advance s.iss.run
     (s.Clear { guard := f.guard } m →
       (∃ t, exec (.join f) s = .next t ∧ XDone s t ((adv.setMask k { x with enrolled := x.enrolled ||| m }).releaseMask k))
       ∧ (∃ t, exec (.leave f) s = .next t
           ∧ XDone s t ((adv.setMask k { enrolled := x.enrolled &&& ~~~m, arrived := x.arrived &&& ~~~m }).releaseMask k))
       ∧ (∃ t, exec (.waitm f) s = .next t ∧
           let w := m &&& x.enrolled
           let g := (s.cur.advance (s.iss.run &&& ~~~w)).setMask k { x with arrived := x.arrived ||| w }
           XDone s t ((g.waitAt k w).releaseMask k)))
     ∧ (s.Clear { guard := f.guard, regs := pairRegs f.breg } m →
         ∃ t, exec (.mkrd f) s = .next t
           ∧ XDone s t (((s.cur.setReg d m fun _ => x.enrolled).setReg (d + 1) m fun _ => x.arrived).advance s.iss.run))
     ∧ (s.Clear { guard := f.guard, regs := pairRegs f.breg, reads := pairRegs f.breg } m →
         (m = 0 → ∃ t, exec (.mkwr f) s = .next t ∧ XDone s t adv)
         ∧ ∀ j, lowestLane m = some j → ∃ t, exec (.mkwr f) s = .next t ∧
           let e : Lanes := (adv.v64 j d).setWidth 32
           XDone s t (((adv.goOn k (x.arrived &&& ~~~e)).setMask k { enrolled := e, arrived := x.arrived &&& e }).releaseMask k)))
  ∧ (∀ (g : Group) (k : Nat), k < 12 →
       let x := g.mask k
       let full := x.arrived ≠ 0 ∧ ∀ l, x.enrolled.getLsbD l = true → x.arrived.getLsbD l = true
       let h := g.releaseMask k
       let w := x.arrived &&& g.stands k
       (full → h.mask k = {} ∧ (∀ l, h.waiting.getLsbD l = (g.waiting.getLsbD l && !w.getLsbD l))
         ∧ (∀ l, laneAt64 h.pcs l = if w.getLsbD l then laneAt64 g.pcs l + 8 else laneAt64 g.pcs l)
         ∧ (∀ j, j < 12 → j ≠ k → h.mask j = g.mask j) ∧ h.v = g.v
         ∧ (∀ hd, g.handler = some hd → ∃ ht, h.handler = some ht
             ∧ (∀ l, ht.waiting.getLsbD l = (hd.waiting.getLsbD l && !(x.arrived &&& hd.stands k).getLsbD l))
             ∧ ∀ l, laneAt64 ht.pcs l =
                 if (x.arrived &&& hd.stands k).getLsbD l then laneAt64 hd.pcs l + 8 else laneAt64 hd.pcs l))
       ∧ (¬ full → h = g))
  ∧ (∀ (g : Group) (k : Nat) (w : Lanes), k < 12 →
       let h := g.waitAt k w
       h.waiting = g.waiting ||| w
         ∧ (∀ j l, j < 12 → (h.stands j).getLsbD l = if w.getLsbD l then decide (j = k) else (g.stands j).getLsbD l)
         ∧ h.mask = g.mask ∧ h.pcs = g.pcs ∧ h.v = g.v ∧ h.handler = g.handler)

/-- R97, R219, R80, R42: `EXIT`. Lanes that are not the group's last leave the PC table and every mask; the last lanes end the
group, once no request of it is outstanding (the model's reading: assumption 36), and its team's end count grows by one. That an `EXIT` of
some lanes leaves the group's engine pass in force is the model's choice (assumption 81). -/
def Obligations.Exits : Prop :=
  ∀ (s : State) (f : XB) (m : Lanes), s.Clear { guard := f.guard, deliver := true } m →
    let left := (s.cur.advance (s.iss.run &&& ~~~m)).exitLanes m
    (left.releaseMasks.exited ≠ allLanes ∨ m = 0 → ∃ t, exec (.exit f) s = .next t ∧ XDone s t left.releaseMasks)
    ∧ (left.releaseMasks.exited = allLanes → m ≠ 0 → s.cur.outs = [] →
        ∃ t, exec (.exit f) s = .next t ∧ t = (((s.setCur left.releaseMasks).markIssued).endGroup s.iss.gid).afterX)
    ∧ (s.cur.lastExit m = true → s.cur.outs ≠ [] → exec (.exit f) s = .next s)

/-! ### Memory words -/

/-- R320, R41: `LD`. A lane on the package or in a scratchpad takes the bytes of its place, little-endian, extended by the width
and the sign bit; a lane on another package sends a load request that names them, which is not watermarked, and its registers await the
reply. Nothing is stored.

R114, R318: a lane whose access faults, and the address that its trap names; then no lane is loaded. -/
def Obligations.Loads : Prop :=
  ∀ (s : State) (f : XM) (m : Lanes),
    let n := widthBytes f.width
    let res := s.plainRes f.addr (offWhole f) n n false
    s.Clear { guard := f.guard, regs := addrRegs f ++ dataRegs f, reads := addrRegs f, mem := true
              about := s.updatedBy n (lanePlaces m res) } m →
    s.FaultsAs (.ld f) m (resFault res)
    ∧ (Reached s m res → s.clash (fun _ => false) n (lanePlaces m res) = false →
      ∃ t, exec (.ld f) s = .next t
      ∧ Loaded s t (lanesOf fun l => m.getLsbD l && !farLane res l) f.data.toNat (widthRegs f.width) (fun l =>
          match (res l).2 with
          | .ok p => loadWords n (f.pln.getLsbD 0) (s.readPlace (groupTeam s.iss.gid) p n)
          | .error _ => [])
      ∧ Requested s t m (farLane res) (.load n (f.pln.getLsbD 0)) false (BitVec.ofNat 32 s.cur.nextOp)
      ∧ Awaited t m (farLane res) false (BitVec.ofNat 32 s.cur.nextOp) (dataRegs f)
      ∧ (Uncounted m res → ∀ a, t.rd a = s.rd a))

/-- R320, R321, R38, R159: `ST` completes when its lanes' accesses resolve and a held team's store buffer has room for them. The near
lanes' bytes are written in lane order, to memory or to a scratchpad, or, in a held team, to the store buffer; a far lane's store is a
watermarked request, counted in `.rem`, with the group's serial.

R240, R40: one whose bytes find no chunk of the buffer first commits its team: it waits until it may, then its region begins at it, and it
stores to memory. In a trap handler that is REGION_OVERFLOW (R341).

R114, R318, R218: a lane whose access faults, or whose request would take the last serial of a deterministic launch; then no lane stores. -/
def Obligations.Stores : Prop :=
  ∀ (s : State) (f : XM) (m : Lanes),
    let n := widthBytes f.width
    let res := s.plainRes f.addr (offWhole f) n n true
    let xs := lanePlaces m res
    let some_ := !(remotes xs).isEmpty
    let tk := groupTeam s.iss.gid
    let put (l : Nat) : List (Place × List Byte) :=
      (xs.filter fun x => x.lane = l).map fun x => (x.place, leBytes n (wordsVal (s.cur.words l (dataRegs f))))
    let regs := addrRegs f ++ dataRegs f
    let full := (s.writeLanes s.cur.hold (locals xs) put).isNone
    let needs (full : Bool) : Needs :=
      { guard := f.guard, regs, reads := regs, deliver := f.scope == 7 && xs.any fun x => isRelease f.ord x.place, mem := true
        rel := xs.any fun x => isRelease f.ord x.place, issues := some_, region := full || (some_ && s.cur.windowRegion) }
    let ready : Prop := (∀ l, m.getLsbD l = true → ∃ p, (res l).2 = .ok p ∧ s.absent p = false)
      ∧ s.clash (fun x => x.place.kind = 2) n xs = false
      ∧ (some_ = true → s.lastSerial = false ∧ s.cur.rem.length < 255 ∧ s.cur.window = .free)
    let stored (u t : State) : Prop := t.cur.v = s.cur.v ∧ Stands s t.cur 0 (fun _ => 0) ∧ t.cur.fpflags = s.cur.fpflags
      ∧ t.cur.hold = u.cur.hold
      ∧ t.cur.wserial = s.cur.wserial + (if some_ then 1 else 0) ∧ t.cur.nRem = s.cur.nRem + (if some_ then 1 else 0)
      ∧ Requested s t m (farLane res) (.store n) true s.cur.wserial
      ∧ ∃ w, u.writeLanes u.cur.hold (locals xs) put = some w ∧ (t.team tk).buffer = (w.team tk).buffer
          ∧ (∀ c a, t.padByte c a = w.padByte c a) ∧ (Uncounted m res → ∀ a, t.rd a = w.rd a)
    (s.Clear (needs full) m → s.FaultsAs (.st f) m fun l =>
        match (res l).2 with
        | .error c => some (c, (res l).1)
        | .ok p => if p.kind = 2 ∧ s.lastSerial = true then some (0x11, (res l).1) else none)
    ∧ (s.Clear (needs false) m → ready → full = false ∨ (s.team tk).buffer.length + 32 ≤ Config.holdChunks →
        ∃ t, exec (.st f) s = .next t ∧ stored s t ∧ t.cur.ckpt = s.cur.ckpt)
    ∧ (s.Clear (needs true) m → ready → full = true →
        (s.cur.mayCommit = false → exec (.st f) s = .next s)
        ∧ (s.cur.mayCommit = true → s.iss.gid ∈ s.groupsOf tk →
            ∃ t, exec (.st f) s = .next t ∧ stored (s.commitTeam tk).regionBefore t ∧ t.cur.hold = false ∧ (t.team tk).buffer = []
              ∧ (t.team tk).committed = true ∧ ∃ c, t.cur.ckpt = some c ∧ c.pcs = s.cur.pcs ∧ c.wserial = s.cur.wserial))

/-- R159, R320, R125: what a write of a place does. On the package its bytes take the new values and every other byte of memory reads as
before (where nothing backs the address, as of a CXL window under no decoder, no byte changes: assumption 17); in a scratchpad memory does not change and the scratchpad's bytes do; in a held team neither does.

R159, R241: the release of a team's held stores. Every byte that the buffer holds reaches memory, and no other byte changes. -/
def Obligations.WhereStoresGo : Prop :=
  (∀ (s w : State) (tk : Nat) (held : Bool) (p : Place) (bs : List Byte), s.writePlace tk held p bs = some w →
     (p.kind ≠ 3 → held = false → s.isRemoved p.pa = false →
       (s.backed p.pa = true → ∀ i, (h : i < bs.length) → w.rd (p.pa + i) = bs[i])
         ∧ (s.backed p.pa = false → ∀ a, w.rd a = s.rd a) ∧ ∀ a, (a < p.pa ∨ p.pa + bs.length ≤ a) → w.rd a = s.rd a)
     ∧ (p.kind = 3 → (∀ a, w.rd a = s.rd a) ∧ (∀ i, (h : i < bs.length) → w.padByte p.core (p.pa + i) = bs[i])
         ∧ ∀ c a, (c ≠ p.core ∨ a < p.pa ∨ p.pa + bs.length ≤ a) → w.padByte c a = s.padByte c a)
     ∧ (p.kind ≠ 3 → held = true → ∀ a, w.rd a = s.rd a))
  ∧ (∀ (s : State) (tk : Nat), ((s.team tk).buffer.map (·.pa)).Nodup →
       ∀ a, (s.flushHeld tk).rd a = ((s.team tk).heldByte a).getD (s.rd a))

/-- R322 to R324: `LDP` and `STP`, on pages in plane form. `LDP` joins the leading planes (a DE element's nibbles), truncated or
rounded to them; `STP` rounds to the planes that it stores, writes them to memory or, in a held team, to the store buffer, and merges the
flags; one that finds no chunk of the buffer first commits its team (R240).

R114, R133, R318: a lane whose access faults, a page that is not in plane form among the causes; then no lane acts. -/
def Obligations.PlaneWords : Prop :=
  ∀ (s : State) (f : XM) (m : Lanes),
    let k := f.pln.toNat + 1
    let F := planeElem f
    let tk := groupTeam s.iss.gid
    let read := if f.rb then k + 1 else k
    let size := if isDe f then 16 else 2
    let nd := if f.width = 3 then 2 else 1
    let res := s.planeRes f.addr (offWhole f) read size size false
    let code := f.offs.toNat / 2 ^ 13
    let d := range' f.data.toNat (F.bits / 32)
    let key := if code = 5 then range' (f.data.toNat + F.bits / 32) 2 else []
    let wres := s.planeRes f.addr (offStp f) k 2 2 true
    let xs := lanePlaces m wres
    let stored (l : Nat) : Nat × Flags :=
      let h := hashBits (s.xmAddr s.iss.gid l f.addr (offStp f)) (s.cur.v l (key.getD 0 0)) (s.cur.v l (key.getD 1 0))
      planeRound F k (if code = 5 then { code := 5, hash := h } else { code }) (wordsVal (s.cur.words l d))
    let put (l : Nat) : List (Place × List Byte) := (xs.filter fun x => x.lane = l).flatMap fun x =>
      (List.range k).map fun j => (x.place.plane j, leBytes 2 ((stored l).1 / 2 ^ (F.bits - 16 * (j + 1))))
    let planes (k : Nat) (xs : List LaneAcc) : List LaneAcc :=
      xs.flatMap fun x => (List.range k).map fun j => { x with place := x.place.plane j }
    let full := (s.writeLanes s.cur.hold xs put).isNone
    let needs : Needs := { guard := f.guard, regs := addrRegs f ++ d ++ key, reads := addrRegs f ++ d ++ key
                           mem := true, rel := xs.any fun x => isRelease f.ord x.place
                           deliver := f.scope == 7 && xs.any fun x => isRelease f.ord x.place, region := full }
    let wrote (u t : State) : Prop := t.cur.v = s.cur.v ∧ Stands s t.cur 0 (fun _ => 0)
      ∧ t.cur.fpflags = mergeFlags s.cur.fpflags (flagsOf m fun l => (stored l).2)
      ∧ ∃ w, u.writeLanes u.cur.hold xs put = some w ∧ (t.team tk).buffer = (w.team tk).buffer
          ∧ (Uncounted m wres → ∀ a, t.rd a = w.rd a)
    (s.Clear { guard := f.guard, regs := addrRegs f ++ range' f.data.toNat nd, reads := addrRegs f, mem := true
               about := s.updatedBy size (planes read (lanePlaces m res)) } m →
      s.FaultsAs (.ldp f) m (resFault res)
      ∧ ((∀ l, m.getLsbD l = true → ∃ p, (res l).2 = .ok p ∧ ∀ j, j < read → s.bad (p.plane j) = false) →
        s.clash (fun _ => false) size (planes read (lanePlaces m res)) = false →
        ∃ t, exec (.ldp f) s = .next t ∧ (Uncounted m res → ∀ a, t.rd a = s.rd a) ∧ Loaded s t m f.data.toNat nd (fun l =>
          match (res l).2 with
          | .ok p => if isDe f then [BitVec.ofNat 32 (s.nibbles tk p l k)]
              else valWords (F.bits / 32) ((if f.rb then planeNear F k else planeTrunc F k) (s.elemAt tk p (F.bits / 16)))
          | .error _ => [])))
    ∧ (s.Clear needs m →
      s.FaultsAs (.stp f) m (resFault wres)
      ∧ ((∀ l, m.getLsbD l = true → ∃ p, (wres l).2 = .ok p ∧ p.kind ≠ 2) → s.clash (fun _ => false) 2 (planes k xs) = false →
        (full = false → ∃ t, exec (.stp f) s = .next t ∧ wrote s t ∧ t.cur.hold = s.cur.hold)
        ∧ (full = true → s.cur.mayCommit = false → exec (.stp f) s = .next s)
        ∧ (full = true → s.cur.mayCommit = true → s.iss.gid ∈ s.groupsOf tk →
            ∃ t, exec (.stp f) s = .next t ∧ wrote (s.commitTeam tk).regionBefore t ∧ t.cur.hold = false
              ∧ (t.team tk).committed = true)))

/-- R325, R326, R108: full/empty words. Each lane that can takes its step in lane order; with none left the word ends and a region
begins, and otherwise the group parks for the lanes that wait, with the words of the others as they stood before their steps (kept for an
undoing, which is the model's reading of R108: assumption 87). `FEINIT` sets every word of its ranges. A lane whose access faults, or
whose word a lower active lane names (SAME_ADDRESS), traps before any lane acts.

R325, R124: one lane's step. A load needs its word full, takes it and leaves it empty; a store needs it empty, writes its
register's value and leaves it full. A step that a pre-emption could not undo is kept, and its replay takes it from there (87). -/
def Obligations.FullEmpty : Prop :=
  (∀ (s : State) (f : XM) (m : Lanes), s.iss.issued = false → s.cur.canBegin = true →
     let d := f.data.toNat
     let res := s.feRes f fun _ => 4
     let ires := s.feRes f fun l => 4 * (s.cur.v l d).toNat
     let ws := (lanesList m).flatMap fun l => (s.feRange f l).map fun p => ({ lane := l, va := 0, place := p } : LaneAcc)
     let free (xs : List LaneAcc) : Prop := ∀ x ∈ xs, s.absent x.place = false
     let faults (l : Nat) : Option (Nat × Dword) :=
       match (res l).2 with
       | .error c => some (c, (res l).1)
       | .ok p => if (lanePlaces m res).any fun x => x.lane < l && x.place.core = p.core && x.place.pa = p.pa then some (0x0C, (res l).1)
           else none
     (s.Clear { guard := f.guard, regs := addrRegs f ++ [d], reads := addrRegs f, region := true, mem := true } m →
       s.FaultsAs (.ldfe f) m faults ∧ (feFaults m res = none → free (lanePlaces m res) →
       let r := s.feSteps true f m
       (r.2 = 0 → exec (.ldfe f) s = .next r.1.feDone.afterX) ∧ (r.2 ≠ 0 → exec (.ldfe f) s = .next ((r.1.park (.ldfe f) r.2).took (s.feTaken f (m &&& ~~~r.2))))))
     ∧ (s.Clear { guard := f.guard, regs := addrRegs f ++ [d], reads := addrRegs f ++ [d], region := true
                  mem := true, rel := true, deliver := f.scope == 7 } m →
       s.FaultsAs (.stfe f) m faults ∧ (feFaults m res = none → free (lanePlaces m res) →
       let r := s.feSteps false f m
       (r.2 = 0 → exec (.stfe f) s = .next r.1.feDone.afterX) ∧ (r.2 ≠ 0 → exec (.stfe f) s = .next ((r.1.park (.stfe f) r.2).took (s.feTaken f (m &&& ~~~r.2))))))
     ∧ (s.Clear { guard := f.guard, regs := addrRegs f ++ [d], reads := addrRegs f ++ [d], region := true
                  mem := true, rel := 2 ≤ f.ord.toNat, deliver := releaseFab f.scope f.ord } m →
       s.FaultsAs (.feinit f) m (resFault ires) ∧ (resFaults m ires = none → free ws →
       exec (.feinit f) s = .next (ws.foldl (fun s x => s.setFull x.place f.rb) s).feDone.afterX)))
  ∧ (∀ (s : State) (load : Bool) (f : XM) (x : LaneAcc) (k : Dword × Nat × Word),
       (s.cur.steps.find? fun y => y.1 = s.iss.pc && y.2.1 = x.lane) = some k →
       s.feStep load f x = some (if load then s.setCur (s.cur.setReg f.data.toNat (BitVec.ofNat 32 (2 ^ x.lane)) fun _ => k.2.2) else s))
  ∧ (∀ (s t : State) (f : XM) (x : LaneAcc), x.place.kind = 3 → x.lane < 32 →
       (∀ y ∈ s.cur.steps, y.1 = s.iss.pc → y.2.1 ≠ x.lane) →
       (s.feStep true f x = some t → s.isFull x.place = true ∧ t.isFull x.place = false
         ∧ t.cur.v x.lane f.data.toNat = BitVec.ofNat 32 (s.readPlace 0 x.place 4)
         ∧ ∀ l q, (l ≠ x.lane ∨ q ≠ f.data.toNat) → t.cur.v l q = s.cur.v l q)
       ∧ (s.feStep false f x = some t → s.isFull x.place = false ∧ t.isFull x.place = true
         ∧ t.readPlace 0 x.place 4 = (s.cur.v x.lane f.data.toNat).toNat ∧ t.cur = { s.cur with wait := t.cur.wait })
       ∧ (s.feStep true f x = none ↔ s.absent x.place = true ∨ s.isFull x.place = false)
       ∧ (s.feStep false f x = none ↔ s.absent x.place = true ∨ s.isFull x.place = true))

/-- R327 to R329, R149, R320: `SPTEST` gives the class of an address, `SPCAST` the other form of a scratchpad address. A `FENCE` waits
while an older event of one of its lanes has not taken effect (the model's reading, which waits at every order but `.rlx`: assumption 41),
at release order also for every store of the group to another package (R320); then it passes, and changes nothing but the PCs.

R318, R120, R121, R132: what a lane's access meets: the faults of its address's class, then alignment, then those of translation. -/
def Obligations.AddressWords : Prop :=
  (∀ (s : State) (gid l n al : Nat) (a : Dword) (write : Bool),
    let k := s.classOf gid a
    let tk := if k = 4 then s.sibling gid (a.toNat / 2 ^ 32 % 16) else groupTeam gid
    let off := a.toNat % 2 ^ 20
    let inside := off + n ≤ (s.launch (keyHandle tk)).scratch * 4096
    let t := s.team (groupTeam gid)
    let pva := t.pbase.toNat + ((teamIndex (groupTeam gid) * (s.launchOf gid).groups + groupIndex gid) * 32 + l) * t.psize + a.toNat % 2 ^ 32
    let deep := t.psize < a.toNat % 2 ^ 32 + n ∨ 2 ^ 56 < pva + n
    let aligned := a.toNat % al = 0
    let meets (x : Except Nat Place) : Prop := s.resolve gid l a n al write = x
    let translated (va : Dword) : Prop :=
      let w := s.translate (coreDie (slotCore (s.group gid).slot)) (s.launchOf gid).ctx va l
      (w = .absent → meets (.error 0x0A)) ∧ (w = .malformed false → meets (.error 0x0A)) ∧ (w = .malformed true → meets (.error 0x0B))
        ∧ ∀ level e, w = .leaf level e → (pteCA e = false → meets (.error 0x0A))
          ∧ (pteCA e = true → write = true → pteW e = false → meets (.error 0x0B))
          ∧ (pteCA e = true → (write = true → pteW e = true) → meets (.ok (leafPlace level e va)))
    (k = 7 → meets (.error 0x07)) ∧ (k = 3 → meets (.error 0x08))
      ∧ (k = 2 ∨ k = 4 → (¬ inside → meets (.error 0x09)) ∧ (inside → ¬ aligned → meets (.error 0x06))
          ∧ (inside → aligned → ∃ p, meets (.ok p) ∧ p.kind = 3 ∧ p.core = (s.team tk).core
              ∧ p.pa = (s.team tk).units.getD (off / 4096) 0 * 4096 + off % 4096))
      ∧ (k = 1 → (deep → meets (.error 0x14)) ∧ (¬ deep → ¬ aligned → meets (.error 0x06))
          ∧ (¬ deep → aligned → translated (BitVec.ofNat 64 pva)))
      ∧ (k = 0 → (¬ aligned → meets (.error 0x06)) ∧ (aligned → translated a)))
  ∧ ∀ (s : State) (f : XM) (m : Lanes),
    let d := f.data.toNat
    let a (l : Nat) : Dword := s.xmAddr s.iss.gid l f.addr (offWhole f)
    (s.Clear { guard := f.guard, regs := addrRegs f ++ [d], reads := addrRegs f } m →
      ∃ t, exec (.sptest f) s = .next t ∧ Loaded s t m d 1 (fun l => [BitVec.ofNat 32 (s.classOf s.iss.gid (a l))])
        ∧ s.onlyCur t)
    ∧ (s.Clear { guard := f.guard, regs := addrRegs f ++ [d, d + 1], reads := addrRegs f } m →
      ∃ t, exec (.spcast f) s = .next t ∧ s.onlyCur t ∧ Loaded s t m d 2 (fun l =>
        let y := s.spcast s.iss.gid f.rb (a l)
        [y.setWidth 32, (y >>> 32).setWidth 32]))
    ∧ (s.Clear { guard := f.guard, deliver := releaseFab f.scope f.ord } m →
      let waits := (f.ord ≠ 0 ∧ s.cur.pending m = true) ∨ (2 ≤ f.ord.toNat ∧ m ≠ 0 ∧ s.cur.storesOut = true)
      (¬ waits → ∃ t, exec (.fence f) s = .next t ∧ XDone s t (s.cur.advance s.iss.run))
      ∧ (waits → exec (.fence f) s = .next s))

/-- R330 to R336, R38, R355: `ATOM`, `RED` and `ATOMV` complete when their lanes' accesses resolve, no two lanes of an `ATOMV` overlap
without being equal (R334), and R218 allows them. Lanes in a scratchpad act at once, in lane order. Where lanes name global addresses they
send watermarked requests under the group's serial; `ATOM` and a returning `ATOMV` then await their registers' old values from the reply, and
the others count in `.rem`, wherever their lanes lie.

R114, R334, R218: the lanes that fault by their address, by an overlap with a lower active lane (SAME_ADDRESS), or in a deterministic launch
on a global address (DETERMINISM); then no lane acts. -/
def Obligations.Atomics : Prop :=
  ∀ (s : State) (f : XM) (m : Lanes) (k : RmwKind) (i : Instr),
    (i, k) ∈ [(.atom f, RmwKind.atom), (.red f, .red), (.atomv f, .atomv)] →
    let n := rmwBytes k f
    let ops := addrRegs f ++ rmwOperands k f
    let res := s.rmwRes f n true
    let xs := lanePlaces m res
    let near := xs.filter fun x => x.place.kind = 3
    let far := xs.filter fun x => x.place.kind != 3
    let some_ := !far.isEmpty
    let farLane (l : Nat) : Bool := far.any fun x => x.lane = l
    let returns := rmwReturns k f
    let d := if returns then rmwRegs k f else []
    let determ := (s.launchOf s.iss.gid).determ
    let op := rmwOp k f determ
    let permitted := !determ || (k == .red && !s.lastSerial) || (k == .atomv && !f.rb && rmwCode f < 8 && !s.lastSerial)
    let meets (l : Nat) (p : Place) : Bool := k == .atomv && xs.any fun x => x.lane < l && overlaps x.place p n && x.place.pa != p.pa
    s.Clear { guard := f.guard, regs := ops, reads := ops, mem := true, issues := !returns
              deliver := returns || (f.scope == 7 && xs.any fun x => isRelease f.ord x.place)
              rel := xs.any fun x => isRelease f.ord x.place, region := some_ && s.cur.windowRegion } m →
    s.FaultsAs i m (fun l =>
      match (res l).2 with
      | .error c => some (c, (res l).1)
      | .ok p => if meets l p then some (0x0C, (res l).1) else if p.kind != 3 && !permitted then some (0x11, (res l).1) else none)
    ∧ ((∀ l, m.getLsbD l = true → ∃ p, (res l).2 = .ok p ∧ s.absent p = false ∧ meets l p = false) →
      (some_ = true → permitted = true ∧ s.cur.window = .free) → s.clash (fun _ => true) n far = false →
      (returns = false → m ≠ 0 → s.cur.rem.length < 255) →
      let u := s.rmwLocal op n d (fun l => s.cur.words l (rmwOperands k f)) near
      ∃ t, exec i s = .next t ∧ (∀ l q, t.cur.v l q = u.cur.v l q) ∧ t.cur.fpflags = u.cur.fpflags ∧ (∀ c a, t.padByte c a = u.padByte c a)
        ∧ Stands s t.cur 0 (fun _ => 0) ∧ t.cur.wserial = s.cur.wserial + (if some_ then 1 else 0)
        ∧ t.cur.nRem = s.cur.nRem + (if returns ∨ m = 0 then 0 else 1)
        ∧ Requested s t m farLane op true s.cur.wserial
        ∧ (d ≠ [] → Awaited t m farLane true s.cur.wserial d)
        ∧ (Uncounted m res → ∀ a, t.rd a = s.rd a))

/-- R331, R333: what an atomic stores, in bit-vector terms. -/
def Obligations.AtomicResults : Prop :=
  ∀ (w64 sgn : Bool) (rnd old b swap : Nat),
    let w := if w64 then 64 else 32
    let F := if w64 then f64 else f32
    old < 2 ^ w → b < 2 ^ w →
    let x := BitVec.ofNat w old
    let y := BitVec.ofNat w b
    let less := if sgn then x.slt y else x.ult y
    let more := if sgn then y.slt x else y.ult x
    let gives (c r : Nat) : Prop := atomApply c w64 sgn rnd old b swap = (r, 0)
    gives 0 (x + y).toNat ∧ gives 1 (x &&& y).toNat ∧ gives 2 (x ||| y).toNat ∧ gives 3 (x ^^^ y).toNat
      ∧ gives 4 (if more then b else old) ∧ gives 5 (if less then b else old) ∧ gives 6 b
      ∧ gives 7 (if old = b then swap else old)
      ∧ atomApply 8 w64 sgn rnd old b swap = faddV F { code := rnd } (fdecode F old) (fdecode F b)
      ∧ atomApply 9 w64 sgn rnd old b swap = fminmax F false true old b
      ∧ atomApply 10 w64 sgn rnd old b swap = fminmax F true true old b

/-- R337, R160: `WAITA` passes when its condition holds in every active lane on the value read, and otherwise parks the group for the
lanes where it does not, with monitors for their lines. A lane whose access faults traps, and none waits (R114). -/
def Obligations.WaitOnAddress : Prop :=
  ∀ (s : State) (f : XM) (m : Lanes), s.iss.issued = false →
    let n := widthBytes f.width
    let c := range' f.data.toNat (widthRegs f.width)
    let res := s.rmwRes f n false
    let left := m &&& ~~~s.waitaDone f m
    s.Clear { guard := f.guard, regs := addrRegs f ++ c, reads := addrRegs f ++ c, mem := true } m →
    s.FaultsAs (.waita f) m (resFault res)
    ∧ (Reached s m res → Uncounted m res → s.clash (fun _ => false) n (lanePlaces m res) = false →
    (left = 0 → ∃ t, exec (.waita f) s = .next t ∧ XDone s t (s.cur.advance s.iss.run))
    ∧ (left ≠ 0 → exec (.waita f) s = .next ((s.takeMonitors f left).park (.waita f) left)))

/-! ### Synchronisation -/

/-- R338, R108: barriers. `BARW` waits until every participant has arrived at this group's latest instance, and departs from it;
`BARA` first does that for an instance it has not departed from, and arrives; `BAR` arrives and then waits. Each that ends begins
a region. A `BAR` whose arrival stands from before does not arrive again. -/
def Obligations.Barriers : Prop :=
  ∀ (s : State) (f : XE) (m : Lanes), s.iss.issued = false → s.cur.canBegin = true → m ≠ 0 →
    let clear (rel : Bool) : Prop := s.Clear { guard := f.guard, coll := true, region := true, mem := true, rel } m
    let cl := f.flags == 1
    let n := s.cur.arrivals cl
    let meet (u : State) : Prop :=
      u.cur.arrivals cl = u.cur.departures cl ∨ ∀ k ∈ u.participants u.iss.gid cl, u.arrived cl (u.cur.arrivals cl) k = true
    let ends (i : Instr) (g : Group) (ar dp : Word) : Prop :=
      ∃ t, exec i s = .next t ∧ Begun s t g ∧ s.quiet t ∧ t.cur.arrivals cl = ar ∧ t.cur.departures cl = dp
    (clear false → (meet s → ends (.barw f) (s.cur.depart cl) n n) ∧ (¬ meet s → exec (.barw f) s = .next (s.park (.barw f) m)))
    ∧ (clear true → (meet s → ends (.bara f) ((s.cur.depart cl).arrive cl) (n + 1) n)
        ∧ (¬ meet s → exec (.bara f) s = .next (s.park (.bara f) m)))
    ∧ (clear true → s.cur.inBar = true →
        (meet s → ∃ t, exec (.bar f) s = .next t ∧ Stands s t.cur 0 (fun _ => 0) ∧ t.cur.inBar = false
          ∧ t.cur.arrivals cl = n ∧ t.cur.departures cl = n ∧ t.cur.v = s.cur.v ∧ t.cur.ckpt = s.cur.ckpt)
        ∧ (¬ meet s → exec (.bar f) s = .next (s.park (.bar f) m)))
    ∧ (clear true → s.cur.inBar = false →
        (¬ meet s → exec (.bar f) s = .next (s.park (.bar f) m))
        ∧ (meet s →
          let u := s.barArrive cl
          u.cur.arrivals cl = n + 1 ∧ u.cur.departures cl = n ∧ u.cur.rstart = s.cur.wserial
          ∧ (∃ c, u.cur.ckpt = some c ∧ c.pcs = s.cur.pcs ∧ c.bar = true)
          ∧ (meet u → ∃ t, exec (.bar f) s = .next t ∧ Stands s t.cur 0 (fun _ => 0) ∧ t.cur.inBar = false
              ∧ t.cur.arrivals cl = n + 1 ∧ t.cur.departures cl = n + 1 ∧ t.cur.v = s.cur.v ∧ t.cur.ckpt = u.cur.ckpt)
          ∧ (¬ meet u → exec (.bar f) s = .next (u.park (.bar f) m))))

/-- R339, R340, R108: `REGN` begins a region with the live range that it names, `COMMIT` one with the live range in force after the
team's held stores are released and HOLD of its groups is cleared. With a watermarked request outstanding, or a register of the
live range still to land, neither issues.

R342, R219: `ORDWAIT` passes when the team that it names has ended every group, and otherwise parks; a team not before its own, or
a launch that is not deterministic, raises DETERMINISM. -/
def Obligations.RegionsAndCommits : Prop :=
  (∀ (s : State) (f : XE) (m : Lanes), m ≠ 0 →
     let g := { s.cur with first := f.e0.toNat, last := f.e1.toNat, noLive := f.flags == 1 }
     let tk := groupTeam s.iss.gid
     (s.Clear { guard := f.guard, regs := [f.e1.toNat], coll := true, region := true, deliver := true } m →
       (g.canBegin = true → ∃ t, exec (.regn f) s = .next t ∧ Begun s t g ∧ s.quiet t)
       ∧ (g.canBegin = false → exec (.regn f) s = .next s))
     ∧ (s.Clear { guard := f.guard, coll := true, region := true, mem := true, rel := true, deliver := true } m →
       (s.cur.canBegin = true → s.iss.gid ∈ s.groupsOf tk → ∃ t, exec (.commit f) s = .next t
         ∧ Begun s t { s.cur with hold := false } ∧ (∀ k ∈ s.groupsOf tk, (t.group k).hold = false)
         ∧ (t.team tk).committed = true ∧ (t.team tk).buffer = [] ∧ ∀ a, t.rd a = (s.flushHeld tk).rd a)
       ∧ (s.cur.canBegin = false → exec (.commit f) s = .next s)))
  ∧ (∀ (s : State) (f : XE) (m : Lanes),
       let r := f.e0.toNat
       let t := (s.cur.v 0 r).toNat
       let l := s.launchOf s.iss.gid
       let mine := teamIndex (groupTeam s.iss.gid)
       s.iss.issued = false → m ≠ 0 → s.Clear { guard := f.guard, regs := [r], reads := [r], coll := true } m →
       (l.determ = true → t < mine →
         ((s.team (teamKey l.handle t)).ends = l.groups → ∃ u, exec (.ordwait f) s = .next u ∧ XDone s u (s.cur.advance s.iss.run))
         ∧ ((s.team (teamKey l.handle t)).ends ≠ l.groups → exec (.ordwait f) s = .next (s.park (.ordwait f) m)))
       ∧ (l.determ = false ∨ mine ≤ t → exec (.ordwait f) s = .next (s.takeTrap 0x11 allLanes 0 0)))

/-- R343, R344, R108: `QSND`, when every target has room. The vector, zero in lanes that are not active, enters the queue of each member of
the mask behind those there; for `mx` its bytes enter the named row of the reservation. No other queue changes.

R345: `QRCV` takes the oldest vector of its launch from its core's queue of the member that it names, whole; each active lane's
register takes its element; every other vector keeps its place. With none there the group parks. Each begins a region; that a `QSND` with
no active lane sends nothing and begins one too is the model's reading (assumption 26). -/
def Obligations.TeamQueues : Prop :=
  (∀ (s : State) (f : XE) (m : Lanes),
     let g := s.cur
     let mask := g.v 0 f.e0.toNat
     let core := slotCore g.slot
     let used := f.e0.toNat :: if mask.getLsbD 4 then [f.e2.toNat, f.e3.toNat] else []
     let vec : QVec := { sender := coreMember core, launch := keyHandle (groupTeam s.iss.gid), words := qvector g m f.e1.toNat }
     let q := s.quadOf s.iss.gid
     s.iss.issued = false → g.canBegin = true →
     s.Clear { guard := f.guard, regs := [f.e0.toNat, f.e1.toNat, f.e2.toNat, f.e3.toNat], reads := [f.e1.toNat], lane0 := used
               region := true, mem := true, rel := true } m →
     (m = 0 → ∃ t, exec (.qsnd f) s = .next t ∧ Begun s t g ∧ s.quiet t ∧ t.quads = s.quads ∧ ∀ c, t.core c = s.core c)
     ∧ (m ≠ 0 → (mask.getLsbD 4 = true → ∃ r, s.resvOf s.iss.gid (g.v 0 f.e2.toNat) = some r
       ∧ 128 * (g.v 0 f.e3.toNat).toNat + 128 ≤ r.count * 4096) →
     (s.qRoom f = true → ∃ t, exec (.qsnd f) s = .next t ∧ Begun s t g ∧ s.quiet t
       ∧ (∀ k, k < 4 → (t.core (quadCore core k)).queue =
           (s.core (quadCore core k)).queue ++ if mask.getLsbD k then [vec] else [])
       ∧ (∀ c, (∀ k, k < 4 → c ≠ quadCore core k) → t.core c = s.core c)
       ∧ (mask.getLsbD 4 = false → t.quads = s.quads)
       ∧ (∀ r, mask.getLsbD 4 = true → s.resvOf s.iss.gid (g.v 0 f.e2.toNat) = some r →
           let at_ := r.granule * 4096 + 128 * (g.v 0 f.e3.toNat).toNat
           (∀ l i, l < 32 → i < 4 →
             t.obByte q (at_ + 4 * l + i) = BitVec.ofNat 8 ((laneAt vec.words l).toNat / 256 ^ i))
           ∧ ∀ o, (o < at_ ∨ at_ + 128 ≤ o) → t.obByte q o = s.obByte q o))
     ∧ (s.qRoom f = false → exec (.qsnd f) s = .next (s.park (.qsnd f) m))))
  ∧ (∀ (s : State) (f : XE) (m : Lanes),
       let c := slotCore s.cur.slot
       let d := f.e0.toNat
       let mine (v : QVec) : Bool := v.sender = f.flags.toNat && v.launch = keyHandle (groupTeam s.iss.gid)
       s.iss.issued = false → s.cur.canBegin = true → s.Clear { guard := f.guard, regs := [d], region := true, mem := true, after := true } m →
       (∀ before v after, (s.core c).queue = before ++ v :: after → (∀ x ∈ before, mine x = false) → mine v = true →
         ∃ t, exec (.qrcv f) s = .next t ∧ (t.core c).queue = before ++ after
           ∧ Begun s t (s.cur.setReg d m fun l => laneAt v.words l) ∧ s.quiet t
           ∧ (∀ l q, t.cur.v l q = if m.getLsbD l ∧ q = d then laneAt v.words l else s.cur.v l q)
           ∧ ∀ k, k ≠ c → t.core k = s.core k)
       ∧ ((∀ v ∈ (s.core c).queue, mine v = false) → exec (.qrcv f) s = .next (s.park (.qrcv f) m)))

/-! ### Copies, table loads and counters -/

/-- R348 to R351, R123, R241: the issue of a copy by lane J, the lowest active one. The copy enters the group's list with the
fields of J's registers, and each scratchpad line of its destination counts one more pending copy. A full counter stalls it, a bad
`.ob` range is HANDLE_INVALID for J alone (the model's reading: assumption 28), and a held team whose copy touches global memory commits
first. -/
def Obligations.CopyIssues : Prop :=
  ∀ (s : State) (f : XE) (m : Lanes) (i : Instr) (kind : Nat) (args : List Nat),
    (i, kind, args) ∈ [(.cpy f, 0, [f.e2.toNat]), (.cpy2 f, 1, range' f.e2.toNat 4), (.cpyx f, 2, [f.e2.toNat]),
      (.cpyp f, 3, range' f.e2.toNat 2)] →
    let regs := pairRegs f.e0 ++ pairRegs f.e1 ++ args
    let gid := s.iss.gid
    let tk := groupTeam gid
    let j := lead m
    let c := s.mkCopy f kind j
    let lines := s.copyLines gid c 0 c.size
    let commit := s.cur.hold && s.copyGlobal gid c
    let trap (n : Nat) := s.takeTrap 0x0D (BitVec.ofNat 32 (2 ^ j)) 0 (BitVec.ofNat 64 n)
    m ≠ 0 → s.Clear { guard := f.guard, regs, reads := regs, region := commit, deliver := commit, after := true } m →
    (∀ n, c.ob = true → s.obReason gid c = some n → exec i s = .next (trap n))
    ∧ ((c.ob = true → s.obReason gid c = none) → kind = 3 → cpypBad c = true → exec i s = .next (trap 13))
    ∧ ((c.ob = true → s.obReason gid c = none) → (kind = 3 → cpypBad c = false) →
      (255 ≤ s.cur.copies.length ∨ s.linesFull lines = true → exec i s = .next s)
      ∧ (s.cur.copies.length < 255 → s.linesFull lines = false → (commit = true → s.cur.mayCommit = true) →
        ∃ t d, exec i s = .next t ∧ t.cur.copies = s.cur.copies ++ [d]
          ∧ d = { c with id := s.cur.nextOp, seq := s.cur.nCopy, lines, born := s.fresh
                         state := if c.size = 0 then .done else .running }
          ∧ d.src = s.cur.v64 j f.e1.toNat ∧ d.len = (s.cur.v j f.e2.toNat).toNat
          ∧ (d.ob = false → d.dst = s.cur.v64 j f.e0.toNat)
          ∧ (d.ob = true → d.handle = s.cur.v j f.e0.toNat ∧ d.dst = (s.cur.v j (f.e0.toNat + 1)).setWidth 64)
          ∧ t.cur.nCopy = s.cur.nCopy + 1 ∧ t.cur.v = s.cur.v ∧ Stands s t.cur 0 (fun _ => 0) ∧ t.cur.fpflags = s.cur.fpflags
          ∧ t.cores = (s.addLines lines).cores
          ∧ (commit = false → ∀ a, t.rd a = s.rd a)
          ∧ (commit = true → (t.team tk).buffer = [] ∧ ∀ a, t.rd a = (s.flushHeld tk).rd a)))

/-- R353, R354, R139, R142: `CTLD` and `PTLD`, when every byte of the table can be read at once: the slot of the core takes the table
whole. A code table that breaks R139 is HANDLE_INVALID, and its slot keeps the old one. R142: while a copy of the core that uses the slot
is within a block, `CTLD` waits.

R139: a code table that parses keeps the rule: lengths of 1 to 15 bits, counts that sum to the number of its distinct symbols,
and code space not exceeded. -/
def Obligations.Tables : Prop :=
  (∀ (s : State) (f : XE) (m : Lanes) (hd bs : List Byte),
     let j := lead m
     let a := s.cur.v64 j f.e0.toNat
     let c := slotCore s.cur.slot
     let k := f.flags.toNat
     let n := tableSize hd
     let loaded (t : State) : Prop :=
       t.cur = { s.cur.dropHidden.advance s.iss.run with lvalid := 0 } ∧ s.quiet t ∧ ∀ x, x ≠ c → t.core x = s.core x
     let ready (n : Nat) : Prop :=
       s.clash (fun _ => false) 16 (s.blockAccs j a n) = false ∧ ∀ x ∈ s.blockAccs j a n, x.place.ac = none
     m ≠ 0 → s.iss.issued = false → s.Clear { guard := f.guard, regs := pairRegs f.e0, reads := pairRegs f.e0, mem := true } m →
     (s.cur.unknowns.find? fun u => u.regs.any fun p => 0x1000 ≤ p.1) = none →
     (s.byteFault j a 0x20 = none → s.peek j a 0x20 = some hd → s.byteFault j a n = none → s.peek j a n = some bs →
       (∀ tb, parseTable s.formats bs = some tb → ready n →
         (s.slotBusy k = false → ∃ t, exec (.ctld f) s = .next t ∧ loaded t
           ∧ (t.core c).pats = (s.core c).pats
           ∧ ∀ x, tabGet none (t.core c).tables x = if x = k then some tb else tabGet none (s.core c).tables x)
         ∧ (s.slotBusy k = true → exec (.ctld f) s = .next s))
       ∧ (parseTable s.formats bs = none → exec (.ctld f) s = .next (s.takeTrap 0x0D (BitVec.ofNat 32 (2 ^ j)) 0 11)))
     ∧ (s.byteFault j a 256 = none → a.toNat % 32 = 0 → s.peek j a 256 = some bs → ready 256 →
       ∃ t, exec (.ptld f) s = .next t ∧ loaded t ∧ (t.core c).tables = (s.core c).tables
         ∧ ∀ x, tabGet 0x80 (t.core c).pats x =
             if k * 256 ≤ x ∧ x < k * 256 + 256 then bs.getD (x - k * 256) 0 else tabGet 0x80 (s.core c).pats x)
     ∧ (s.byteFault j a 256 = none → a.toNat % 32 ≠ 0 →
         exec (.ptld f) s = .next (s.takeTrap 0x06 (BitVec.ofNat 32 (2 ^ j)) a 0)))
  ∧ (∀ (formats : Dword) (bs : List Byte) (t : CodeTable), parseTable formats bs = some t →
       1 ≤ t.maxLen ∧ t.maxLen ≤ 15 ∧ t.counts.length = 15 ∧ t.counts.sum = t.syms.length ∧ t.syms.Nodup
         ∧ (∀ i, t.maxLen ≤ i → t.counts.getD i 0 = 0) ∧ ((List.range 15).map fun i => t.counts.getD i 0 * 2 ^ (14 - i)).sum ≤ 2 ^ 15
         ∧ (∀ y ∈ t.syms, y < if t.nibble then 16 else 256))

/-- R355, R352, R116, R42: `WAITC` parks while more than n operations of its class are outstanding; an engine operation leaves `.mat` in
issue order. That an engine or tile operation counts until its stores to other packages have their replies is the model's choice
(assumption 23). Then `WAITC` delivers the oldest unknown outcome of an operation that it covers, or else the oldest failure, which a replay of
the region finds again when the operation is older than the region (R113), or ends. `CNTRD` writes the four counts. -/
def Obligations.Counters : Prop :=
  ∀ (s : State) (f : XE) (m : Lanes),
    let g := s.cur
    let n := f.e0.toNat
    let cls := f.flags.toNat
    let count (k : Nat) : Nat := if k = 0 then g.copies.length else if k = 1 then g.matOps.length
      else if k = 2 then g.tiles.length + (g.engineOut true).length else g.rem.length
    let issued : Nat := if cls = 0 then g.nCopy else if cls = 1 then g.nMat else if cls = 2 then g.nTile else g.nRem
    let covered (u : Unknown) : Prop := ∃ k, u.cls = some (cls, k) ∧ k + n < issued
    let passes : Prop := ∃ t, exec (.waitc f) s = .next t ∧ XDone s t (g.advance s.iss.run)
    let fails (h : Group) (d : Deferred) : Prop :=
      exec (.waitc f) s = .next ((s.setCur h).takeTrap d.cause d.lanes d.addr (BitVec.ofNat 64 (distance d.pc s.iss.pc)))
    (s.iss.issued = false → cls < 4 → s.Clear { guard := f.guard } m →
      (m = 0 → passes)
      ∧ (m ≠ 0 → n < count cls → exec (.waitc f) s = .next (s.park (.waitc f) m))
      ∧ (m ≠ 0 → count cls ≤ n →
        (∀ before u after, g.unknowns = before ++ u :: after → (∀ x ∈ before, ¬ covered x) → covered u →
          exec (.waitc f) s = .next (s.trapUnknown u))
        ∧ ((∀ u ∈ g.unknowns, ¬ covered u) →
          (cls = 1 ∨ cls = 3 → passes)
          ∧ (cls = 0 → (∀ d ∈ g.copyFails, g.nCopy ≤ d.seq + n) → passes)
          ∧ (cls = 0 → ∀ before d after, g.copyFails = before ++ d :: after → (∀ x ∈ before, g.nCopy ≤ x.seq + n) →
              d.seq + n < g.nCopy → fails { g with copyFails := before ++ after, ckpt := g.ckpt.map fun c =>
                if d.seq < c.nCopy then { c with copyFails := c.copyFails ++ [d] } else c } d)
          ∧ (cls = 2 → (∀ d, g.tileFail = some d → g.nTile ≤ d.seq + n) → passes)
          ∧ (cls = 2 → ∀ d, g.tileFail = some d → d.seq + n < g.nTile → fails { g with tileFail := none, ckpt := g.ckpt.map fun c =>
                if d.seq < c.nTile then { c with tileFail := some d } else c } d))))
    ∧ (s.Clear { guard := f.guard, regs := [n] } m → ∃ t, exec (.cntrd f) s = .next t ∧ s.onlyCur t
        ∧ Loaded s t m n 1 fun _ => [BitVec.ofNat 32 (count 0 + count 1 * 2 ^ 8 + count 2 * 2 ^ 16 + count 3 * 2 ^ 24)])

/-! ### The matrix engine -/

/-- R357, R362, R361, R88: reservations and the engine priority. `OBRES` takes the lowest run of free granules and a new handle, or
writes 0; `OBREL` of the owner frees it, its bytes read as zero; `OBSET` sets the record of one reservation. -/
def Obligations.Reservations : Prop :=
  ∀ (s : State) (f : XE) (m : Lanes),
    let g := s.cur
    let gid := s.iss.gid
    let tk := groupTeam gid
    let q := s.quadOf gid
    let r0 := f.e0.toNat
    let size := (g.v 0 f.e1.toNat).toNat
    let n := (size + 4095) / 4096
    let free (k : Nat) : Prop := ∀ i, i < n → (s.quad q).granuleFree (k + i) = true
    let h := g.v 0 r0
    let rec_ := g.v64 0 f.e1.toNat
    let trap (k : Nat) := s.takeTrap 0x0D allLanes 0 (BitVec.ofNat 64 k)
    s.iss.issued = false → m ≠ 0 →
    (s.Clear { guard := f.guard, regs := [r0, f.e1.toNat], reads := [f.e1.toNat], coll := true } m →
      (size = 0 ∨ 1835008 < size → exec (.obres f) s = .next (trap 8))
      ∧ (size ≠ 0 → size ≤ 1835008 →
        (s.reserve gid size = none ↔ 64 ≤ (s.quad q).resvs.length ∨ (∀ k, k + n ≤ 448 → ¬ free k)
          ∨ (∀ k, 1 ≤ k → k ≤ 255 → ∃ r ∈ (s.quad q).resvs, r.team = tk ∧ r.handle.toNat % 256 = k)
          ∨ s.poolAlloc (q / 36) (n * 4096) = none)
        ∧ (s.reserve gid size = none → ∃ t, exec (.obres f) s = .next t ∧ Loaded s t m r0 1 (fun _ => [0]) ∧ s.onlyCur t)
        ∧ ∀ u w, s.reserve gid size = some (u, w) →
          ∃ t k r, exec (.obres f) s = .next t ∧ Loaded s t m r0 1 (fun _ => [w])
            ∧ (t.quad q).resvs = (s.quad q).resvs ++ [r] ∧ r.handle = w ∧ r.launch = keyHandle tk ∧ r.team = tk
            ∧ r.granule = k ∧ r.count = n ∧ r.record = unsetRec ∧ k + n ≤ 448 ∧ free k ∧ (∀ j, j < k → ¬ free j)
            ∧ w.toNat / 256 = teamIndex tk ∧ 1 ≤ w.toNat % 256 ∧ w.toNat % 256 ≤ 255
            ∧ (∀ x ∈ (s.quad q).resvs, x.team = tk → x.handle.toNat % 256 ≠ w.toNat % 256)))
    ∧ (s.Clear { guard := f.guard, regs := [r0], reads := [r0], coll := true } m →
      (s.resvOf gid h = none → exec (.obrel f) s = .next (trap 1))
      ∧ (∀ r, s.resvOf gid h = some r →
        (r.team ≠ tk → exec (.obrel f) s = .next (trap 9))
        ∧ (r.team = tk → s.handleBusy gid h = true → exec (.obrel f) s = .next (s.park (.obrel f) m))
        ∧ (r.team = tk → s.handleBusy gid h = false → ∃ t, exec (.obrel f) s = .next t
          ∧ t.cur = { g.advance s.iss.run with lvalid := 0 } ∧ s.quiet t
          ∧ (t.quad q).resvs = (s.quad q).resvs.filter (fun y => !(y.handle = r.handle && y.launch = r.launch))
          ∧ (∀ i, i < r.count → (t.quad q).clearing.contains (r.granule + i) = true)
          ∧ ∀ o, r.granule * 4096 ≤ o → o < (r.granule + r.count) * 4096 → t.obByte q o = 0))
      ∧ ∃ t, exec (.mpri f) s = .next t ∧ XDone s t { g.advance s.iss.run with prio := min (h.toNat % 8) (s.launchOf gid).prio })
    ∧ (s.Clear { guard := f.guard, regs := r0 :: pairRegs f.e1, reads := r0 :: pairRegs f.e1, coll := true } m →
      (s.resvOf gid h = none → exec (.obset f) s = .next (trap 1))
      ∧ (∀ r, s.resvOf gid h = some r →
        (∀ k, recReason r rec_ = some k → exec (.obset f) s = .next (trap k))
        ∧ (recReason r rec_ = none → ∃ t, exec (.obset f) s = .next t ∧ t.cur = { g.advance s.iss.run with lvalid := 0 } ∧ s.quiet t
          ∧ (t.quad q).resvs = (s.quad q).resvs.map (fun y =>
              if y.handle = h ∧ y.launch = keyHandle tk then { y with record := rec_ } else y)
          ∧ (t.quad q).ob = (s.quad q).ob)))

/-- R88, R92, R360, R366: the issue of `MRD`, `MWR`, `MWR.mem` and `MZERO`. In a pass of its group an operation joins the `.mat` list
in issue order with the operands of its issue; without a pass the group asks for one; at 255 outstanding it waits. `MRD`'s
destination registers are to land. An `MWR.mem` that names another package is DETERMINISM at the last serial of a deterministic launch
(R38, R218). The model's choices: it takes its one serial at its issue (assumption 21), and a word whose other stalls are not gone, at 255
outstanding too, asks for no pass (assumption 69). -/
def Obligations.MatrixIssues : Prop :=
  ∀ (s : State) (f : XE) (m : Lanes),
    let g := s.cur
    let gid := s.iss.gid
    let op (kind : MatKind) (r : Resv) : MatOp :=
      { id := g.nextOp, kind, b := 0, c := r.handle, recB := 0, recC := r.record, pc := s.iss.pc, serial := none
        order := g.nReq }
    let joins (i : Instr) (o : MatOp) (late : List Late) : Prop :=
      ∃ t, exec i s = .next t ∧ t.cur.mats = g.mats ++ [o] ∧ t.cur.late = g.late ++ late ∧ t.cur.nextOp = g.nextOp + 1
        ∧ t.cur.matOps = g.matOps ++ [{ serial := o.serial, seq := g.nMat, done := false, id := o.id, names := [o.b, o.c] }]
        ∧ t.cur.nMat = g.nMat + 1 ∧ t.cur.nReq = g.nReq + 1
        ∧ t.cur.wserial = g.wserial + (if o.serial.isSome then 1 else 0) ∧ t.cur.v = g.v ∧ t.cur.fpflags = g.fpflags ∧ Stands s t.cur 0 (fun _ => 0) ∧ s.quiet t
    let issues (i : Instr) (o : MatOp) (late : List Late) : Prop :=
      (g.outstanding 1 < 255 → s.holdsPass gid = true → joins i o late)
      ∧ (g.outstanding 1 < 255 → s.holdsPass gid = false → exec i s = .next (s.requestPass gid))
      ∧ (255 ≤ g.outstanding 1 → exec i s = .next s)
    let span (v : Nat) (r : Resv) (n : Nat) := range' v (rowSpan (matRec r.record).fmt n)
    s.iss.issued = false → m ≠ 0 →
    (∀ r x n, s.spanCheck (g.v 0 f.e1.toNat) f.e2.toNat f.e0.toNat = .ok (r, x, n) →
      s.Clear { guard := f.guard, regs := [f.e0.toNat, f.e1.toNat] ++ range' f.e2.toNat 2
                reads := f.e1.toNat :: range' f.e2.toNat 2, coll := true, after := true } m →
      issues (.mrd f) (op (.mrd f.e0.toNat x n) r)
        [{ serial := BitVec.ofNat 32 g.nextOp, owner := none, dst := [], rows := [], ready := false
           regs := (span f.e0.toNat r n).map fun k => (k, lanesOf fun i => i < x) }])
    ∧ (∀ r x n, s.spanCheck (g.v 0 f.e0.toNat) f.e2.toNat f.e1.toNat = .ok (r, x, n) →
      s.Clear { guard := f.guard, regs := [f.e1.toNat, f.e0.toNat] ++ range' f.e2.toNat 2
                reads := (f.e0.toNat :: range' f.e2.toNat 2) ++ span f.e1.toNat r n, coll := true, after := true } m →
      issues (.mwr f) (op (.mwr x n ((span f.e1.toNat r n).map g.reg)) r) [])
    ∧ (∀ r, s.setRecord gid (g.v 0 f.e0.toNat) = .ok r →
      s.Clear { guard := f.guard, regs := [f.e0.toNat], reads := [f.e0.toNat], coll := true, after := true } m → issues (.mzero f) (op .mzero r) [])
    ∧ (∀ r x n (xs : List LaneAcc), s.memCheck f = .ok (r, x, n, xs) → (∀ a ∈ xs, s.absent a.place = false ∧ a.place.ac = none) →
      let regs := pairRegs f.e0 ++ [f.e1.toNat, f.e3.toNat] ++ range' f.e2.toNat 2
      let far := xs.any fun a => a.place.kind = 2
      (g.hold = false ∨ ∀ a ∈ xs, a.place.kind = 3) →
      s.Clear { guard := f.guard, regs, reads := regs, coll := true, region := far && g.windowRegion, after := true } m →
      (far = true → s.lastSerial = true → exec (.mwrMem f) s = .next (s.takeTrap 0x11 allLanes (g.v64 0 f.e0.toNat) 0))
      ∧ ((far = true → s.lastSerial = false ∧ g.window = .free) →
        issues (.mwrMem f) { op (.mwrMem x n (xs.map fun a =>
            { kind := a.place.kind, core := a.place.core, pa := a.place.pa, pkg := a.place.pkg, va := a.va, pf := a.place.pf
              stride := a.place.stride, order := a.place.order })) r with
            serial := if far then some g.wserial else none } []))

/-- R363, R365, R361: the issue of `MMA`. With both records set, a combination of formats in the table, M, N, K and both shapes within
their limits, C apart from B and the held A matching, the operation joins the list with its A: the one held, or the registers of the
span. `.r` holds that A in the slot, and an `MMA` without it releases what the group held. With another group's A held, `.r` leaves the
state as it is: that it asks for no pass yet is the model's reading (assumption 69). -/
def Obligations.MmaIssues : Prop :=
  ∀ (s : State) (f : XE) (m : Lanes) (b c : Resv) (limit : Nat),
    let g := s.cur
    let gid := s.iss.gid
    let hb := g.v 0 f.e1.toNat
    let hc := g.v 0 f.e2.toNat
    let arg (i : Nat) : Nat := (g.v 0 (f.e3.toNat + i)).toNat
    let rb := matRec b.record
    let rc := matRec c.record
    let width := rowSpan rb.fmt (arg 2)
    let held := s.heldOf gid
    let span := if held.isNone then range' f.e0.toNat width else []
    let rows := match held with
      | some a => a.rows
      | none => span.map g.reg
    let fixed := [f.e1.toNat, f.e2.toNat] ++ range' f.e3.toNat 3
    let o : MatOp := { id := g.nextOp, kind := .mma (arg 0) (arg 1) (arg 2) (f.e4.setWidth 3) rows, b := b.handle, c := c.handle
                       recB := b.record, recC := c.record, pc := s.iss.pc, serial := none, order := g.nReq }
    s.iss.issued = false → m ≠ 0 → s.resvOf gid hb = some b → s.resvOf gid hc = some c → rb.ok = true → rc.ok = true →
    (rb.fmt, rc.fmt, limit) ∈ [(0, 0, 64), (1, 1, 128), (2, 1, 256), (3, 1, 256), (4, 1, 256)] →
    1 ≤ arg 0 → arg 0 ≤ 32 → 1 ≤ arg 1 → arg 1 ≤ 256 → 1 ≤ arg 2 → arg 2 ≤ limit → f.e0.toNat + width ≤ g.nregs →
    arg 2 ≤ rb.rows → arg 1 ≤ rb.cols → arg 0 ≤ rc.rows → arg 1 ≤ rc.cols → hb ≠ hc →
    (∀ a, held = some a → a.va = f.e0.toNat ∧ a.fmt = rb.fmt ∧ arg 2 ≤ a.k) →
    s.Clear { guard := f.guard, regs := f.e0.toNat :: fixed, reads := fixed ++ span, coll := true, after := true } m →
    (f.flags = 1 → (∃ a, (s.slot g.slot).heldA = some a ∧ a.gid ≠ gid) → exec (.mma f) s = .next s)
    ∧ ((∀ a, (s.slot g.slot).heldA = some a → a.gid = gid) → g.outstanding 1 < 255 → s.holdsPass gid = false →
        exec (.mma f) s = .next (s.requestPass gid))
    ∧ ((∀ a, (s.slot g.slot).heldA = some a → a.gid = gid) → g.outstanding 1 < 255 → s.holdsPass gid = true →
        ∃ t, exec (.mma f) s = .next t ∧ t.cur.mats = g.mats ++ [o] ∧ t.cur.late = g.late ∧ t.cur.nextOp = g.nextOp + 1
          ∧ t.cur.matOps = g.matOps ++ [{ serial := none, seq := g.nMat, done := false, id := o.id, names := [hb, hc] }]
          ∧ t.cur.nMat = g.nMat + 1 ∧ t.cur.nReq = g.nReq + 1
          ∧ t.cur.v = g.v ∧ t.cur.fpflags = g.fpflags ∧ Stands s t.cur 0 (fun _ => 0) ∧ s.quiet t
          ∧ (f.flags = 1 → ∃ a, (t.slot g.slot).heldA = some a ∧ a.gid = gid ∧ a.rows = rows ∧ a.va = f.e0.toNat ∧ a.fmt = rb.fmt)
          ∧ (f.flags ≠ 1 → (t.slot g.slot).heldA = none))

/-- R366, R363, R359: what `.mat` operations leave in a range of a binary format when they retire, element by element: `MZERO` a zero,
`MWR` the register element of lane i, `MMA` the result of its format's order with `MMA`'s flags merged; `MRD`'s registers become
ready with the elements of their lane's row. In a range of a DE format `MZERO` leaves the header of a zero block in each block's record,
and nothing else (R366).

R181 to R183: the summation orders. FP32 and FP64 round once a step; the half formats take eight products at a time and round once
for each exact sum; DE takes a block of 32 and rounds its exact sum, and then the accumulation; a last group may be shorter. R364: each
product of a pair of blocks of which one is a zero block is +0. -/
def Obligations.MatrixResults : Prop :=
  (∀ (s : State) (gid : Nat) (o : MatOp) (x : Resv),
     let q := s.quadOf gid
     let rc := matRec o.recC
     let base := x.granule * 4096
     let elem (t : State) (i j : Nat) : Nat := t.obVal q (base + rc.elemOff i j) rc.width
     let t := s.matRetire gid o
     s.resvOf gid o.c = some x → rc.fmt ≤ 3 → rc.rows ≤ rc.ld →
     (o.kind = .mzero → ∀ i j, i < rc.rows → j < rc.cols → elem t i j = 0)
     ∧ (∀ m n rows, o.kind = .mwr m n rows → m ≤ rc.rows → n ≤ rc.cols → ∀ i j, i < rc.rows → j < rc.cols →
         elem t i j = if i < m ∧ j < n then rowElem rc.fmt rows i j else elem s i j)
     ∧ (∀ m n k rnd rows y, o.kind = .mma m n k rnd rows → s.resvOf gid o.b = some y → m ≤ rc.rows → n ≤ rc.cols →
         let rb := matRec o.recB
         let mode : Rnd := { code := rnd.toNat }
         let at_ := y.granule * 4096
         let ps (i j : Nat) := (List.range k).map fun z =>
           if rb.fmt = 4 ∧ (deZero (spanAt rows (17 * (z / 32)) i).toNat = true ∨ deZero (s.obVal q (at_ + rb.blockOff (z / 32) j) 4) = true) then
             (.fin false 0 0, .fin false 0 0)
           else (aElem rb.fmt rows rc.scoff i z, s.bElem q at_ rb z j)
         let val (i j : Nat) : Nat × Flags :=
           if rb.fmt = 0 then sumFma f64 mode (elem s i j) (ps i j) else if rb.fmt = 1 then sumFma f32 mode (elem s i j) (ps i j)
           else if rb.fmt = 4 then sumBlocks mode (elem s i j) (ps i j) else sumEight mode (elem s i j) (ps i j)
         (∀ i j, i < rc.rows → j < rc.cols →
           elem t i j = if i < m ∧ j < n then (val i j).1 % 256 ^ rc.width else elem s i j)
         ∧ (t.group gid).fpflags
             = mergeFlags (s.group gid).fpflags ((grid m n).foldl (fun fl p => fl ||| (val p.1 p.2).2) 0))
     ∧ (∀ v m n z, o.kind = .mrd v m n → z ∈ (s.group gid).late → z.owner = none → z.serial = BitVec.ofNat 32 o.id →
         ∃ y ∈ (t.group gid).late, y.serial = z.serial ∧ y.ready = true
           ∧ ∀ r i, r < rowSpan rc.fmt n → i < m → m ≤ 32 → ∃ row, (v + r, row) ∈ y.rows
             ∧ laneAt row i = mrdWord rc.fmt (fun j => elem s i j) n r))
  ∧ (∀ (s : State) (gid : Nat) (o : MatOp) (x : Resv),
       let q := s.quadOf gid
       let rc := matRec o.recC
       let head (b j : Nat) : Nat := x.granule * 4096 + rc.blockOff b j
       let t := s.matRetire gid o
       s.resvOf gid o.c = some x → rc.fmt = 4 → o.kind = .mzero →
         (∀ b j, b < rc.blocks → j < rc.cols → t.obVal q (head b j) 4 = 0x00030000)
         ∧ (∀ off, (∀ b j, b < rc.blocks → j < rc.cols → off < head b j ∨ head b j + 4 ≤ off) → t.obByte q off = s.obByte q off)
         ∧ (∀ k, k ≠ q → t.quad k = s.quad k) ∧ t.groups = s.groups ∧ t.mem = s.mem)
  ∧ (∀ (F : Fmt) (mode : Rnd) (c : Nat) (p : FVal × FVal) (ps : List (FVal × FVal)),
       sumFma F mode c [] = (c, 0)
       ∧ (let r := ffmaV F mode p.1 p.2 (fdecode F c)
          (sumFma F mode c (p :: ps)).1 = (sumFma F mode r.1 ps).1)
       ∧ sumEight mode c [] = (c, 0) ∧ sumBlocks mode c [] = (c, 0)
       ∧ (∀ g, g.length = 8 ∨ (1 ≤ g.length ∧ g.length < 8 ∧ ps = []) → (sumEight mode c (g ++ ps)).1
           = (sumEight mode (faddV f32 mode (fdecode f32 c) (exactSum g).1).1 ps).1)
       ∧ (∀ g, g.length = 32 ∨ (1 ≤ g.length ∧ g.length < 32 ∧ ps = []) → (sumBlocks mode c (g ++ ps)).1
           = (sumBlocks mode (faddV f32 mode (fdecode f32 c) (fdecode f32 (fround f32 mode (exactSum g).1).1)).1 ps).1))

/-! ### Tiles -/

/-- R88, R213, R369, R368: the issue of the tile words that need a pass. With no older tile operation of the group to execute, no fault
among its deckles and pages, and a pass, the operation joins the `.tile` list with the deckle addresses of lane 0; one younger than a
failed operation is discarded (R116). Without a pass the group asks for one; the fault with the lowest code is its trap. At the last
serial of a deterministic launch an operation that may write another package is DETERMINISM (R38, R218); that it takes its one serial at
its issue is the model's choice (assumption 21).

R211, R375, R374: `TSAMP` joins the list with the address of its check record; `TSAMP.clr` with address zero is RESERVED_FIELD with its
own word, whatever its guard holds (R271); that the trap names the whole run is the model's reading (assumption 32). `TINFO` writes the deckle's words, its
crossover, needs and reason, and the state of its pool to four registers. -/
def Obligations.TileIssues : Prop :=
  (∀ (s : State) (f : XE) (m : Lanes) (i : Instr) (kind : TileKind) (regs : List (BitVec 8)),
     (i, kind, regs) ∈ [(.tzero f, TileKind.tzero, [f.e0]), (.tmac f, .tmac, [f.e0, f.e1, f.e2]), (.tadd f, .tadd, [f.e0, f.e1]),
       (.trnd f, .trnd, [f.e0]), (.tdense f, .tdense, [f.e0]), (.tcomp f, .tcomp, [f.e0]), (.tlu f, .tlu, [f.e0]),
       (.ttrs f, .ttrs, [f.e0, f.e1])] →
     let g := s.cur
     let gid := s.iss.gid
     let as := regs.map fun r => g.v64 0 r.toNat
     let rs := regs.flatMap pairRegs
     let known := s.tileKnown kind f.flags as
     let trap (c : Nat) (a : Dword) : Prop := exec i s = .next (s.takeTrap c allLanes a 0)
     let far := match known with
       | some (.ok x) => x.far
       | _ => false
     s.iss.issued = false → m ≠ 0 →
     s.Clear { guard := f.guard, regs := rs, reads := rs, coll := true, region := g.hold || (far && g.windowRegion), deliver := g.hold
               after := true } m →
     (g.tileBusy = true → exec i s = .next s)
     ∧ (g.tileBusy = false →
       (∀ c a, known = some (.error (c, a)) → trap c a)
       ∧ (far = true → s.lastSerial = true → trap 0x11 (as.headD 0))
       ∧ ∀ x, known = some (.ok x) → (x.far = true → s.lastSerial = false ∧ (g.hold = false → g.window = .free)) →
         (g.hold = true → g.mayCommit = true) →
         (g.unknowns.find? fun u => u.regs.any fun p => 0x1000 ≤ p.1) = none →
         (s.holdsPass gid = false → exec i s = .next (s.requestPass gid))
         ∧ (s.holdsPass gid = true → ∃ t o, exec i s = .next t
             ∧ t.cur.tiles = (if g.tileFail.isSome then [] else [o]) ∧ o.kind = kind ∧ o.c = as.getD 0 0 ∧ o.a = as.getD 1 0
             ∧ o.b = as.getD 2 0 ∧ o.flags = f.flags ∧ o.seq = g.nTile ∧ o.pc = s.iss.pc
             ∧ o.order = g.nReq ∧ t.cur.nReq = g.nReq + 1
             ∧ o.serial = (if x.far then some g.wserial else none) ∧ t.cur.wserial = g.wserial + (if x.far then 1 else 0)
             ∧ t.cur.nTile = g.nTile + 1 ∧ t.cur.v = g.v ∧ t.cur.fpflags = g.fpflags ∧ Stands s t.cur 0 (fun _ => 0)
             ∧ (g.hold = false → (∀ p ∈ x.pages, ∀ y, s.coreAccess gid (BitVec.ofNat 64 (p.page * 4096)) false 0 = .ok y →
                 y.ac = none) → s.quiet t))))
  ∧ (∀ (s : State) (f : XE) (m : Lanes) (bs : List Byte),
       let g := s.cur
       let gid := s.iss.gid
       let a := g.v64 0 f.e0.toNat
       let clr := f.flags == 1
       let x := g.v64 0 f.e1.toNat
       let pages := s.tsampPages a
       let far := clr && (valuesOf [pages]).flatten.any fun p => p.kind = 2
       (clr = true → a = 0 → (∀ r ∈ pairRegs f.e0, r < g.nregs) → g.awaits (pairRegs f.e0) s.iss.run = false →
         exec (.tsamp f) s = .next (s.takeTrap 0x02 s.iss.run 0 (instrWord (.tsamp f))))
       ∧ (s.iss.issued = false → m ≠ 0 → g.tileBusy = false → ¬ (clr = true ∧ a = 0) →
         s.Clear { guard := f.guard, regs := pairRegs f.e0, reads := pairRegs f.e0, coll := true
                   region := g.hold && clr || (far && g.windowRegion), deliver := g.hold && clr, after := true
                   keys := if clr then pairRegs f.e0 else [] } m →
         (∀ c b, pages = .error (c, b) → exec (.tsamp f) s = .next (s.takeTrap c allLanes b 0))
         ∧ (∀ ps, pages = .ok ps → (far = true → s.lastSerial = false ∧ (g.hold = false → g.window = .free)) →
           (g.hold = true → clr = true → g.mayCommit = true) →
           (s.holdsPass gid = false → exec (.tsamp f) s = .next (s.requestPass gid))
           ∧ (s.holdsPass gid = true → ∃ t o, exec (.tsamp f) s = .next t
               ∧ t.cur.tiles = (if g.tileFail.isSome then [] else [o]) ∧ o.kind = .tsamp ∧ o.c = a ∧ o.flags = f.flags ∧ o.pages = ps
               ∧ t.cur.nTile = g.nTile + 1 ∧ t.cur.v = g.v ∧ Stands s t.cur 0 (fun _ => 0))))
       ∧ (s.iss.issued = false → m ≠ 0 → g.tileBusy = false →
         s.Clear { guard := f.guard, regs := range' f.e0.toNat 4 ++ pairRegs f.e1, reads := pairRegs f.e1, coll := true, after := true } m →
         errorsOf [s.deckAddr gid x false 0x07] = [] → s.readBlocks 0 (deckBlocks [x]) = .bytes bs →
         (g.unknowns.find? fun u => u.regs.any fun p => 0x1000 ≤ p.1) = none →
         ∃ t, exec (.tinfo f) s = .next t
           ∧ Loaded s t m f.e0.toNat 4 fun _ => tinfoWords (s.team (groupTeam gid)) (deckleOf bs)))

/-- R204, R373: `TPOOL` appends an extent of free blocks of its top class to the pool it names, with allocation state in the system
pool, and `TPOOL.empty` empties it once no tile operation of the team is outstanding. A ninth extent is TILE_DESCRIPTOR.

R205: an allocation takes the first extent that has a free block of a class from k to its top, the smallest such class, and its
lowest block; the block is marked at class k, and the upper halves of the splits become free. -/
def Obligations.TilePools : Prop :=
  (∀ (s : State) (f : XE) (m : Lanes),
     let g := s.cur
     let tk := groupTeam s.iss.gid
     let p := f.flags.toNat % 2
     let base := g.v64 0 f.e0.toNat
     let x := g.v 0 f.e1.toNat
     let top := x.toNat % 16
     let units := x.toNat / 2 ^ 16
     let rs := pairRegs f.e0 ++ [f.e1.toNat]
     let done (t : State) : Prop := t.cur = { g.advance s.iss.run with lvalid := 0 } ∧ s.quiet t
       ∧ (t.team tk).pool (1 - p) = (s.team tk).pool (1 - p)
     s.iss.issued = false → m ≠ 0 →
     (s.Clear { guard := f.guard, regs := rs, reads := rs, coll := true } m →
       (∀ d, s.tpoolFault p base x = some d → exec (.tpool f) s = .next (s.takeTrap d.cause d.lanes d.addr d.info))
       ∧ (8 ≤ ((s.team tk).pool p).length → (s.tpoolFault p base x).isSome = true)
       ∧ (s.tpoolFault p base x = none → ∃ t e, exec (.tpool f) s = .next t ∧ done t
         ∧ (t.team tk).pool p = (s.team tk).pool p ++ [e] ∧ e.base = base ∧ e.top = top ∧ e.units = units ∧ e.used = []
         ∧ e.free = (List.range units).map fun i => (top, base.toNat + i * clsBytes top)))
     ∧ (s.Clear { guard := f.guard, coll := true } m →
       ((∀ k ∈ s.groupsOf tk, (s.group k).tileBusy = false) → ∃ t, exec (.tpoolEmpty f) s = .next t ∧ done t ∧ (t.team tk).pool p = [])
       ∧ ((∃ k ∈ s.groupsOf tk, (s.group k).tileBusy = true) → exec (.tpoolEmpty f) s = .next s)))
  ∧ (∀ (xs ys : List Extent) (k a : Nat), poolTake xs k = some (ys, a) →
       ∃ before x after c, xs = before ++ x :: after ∧ k ≤ c ∧ c ≤ x.top ∧ c < 12 ∧ (c, a) ∈ x.free
         ∧ (∀ y ∈ before, ∀ b ∈ y.free, ¬ (k ≤ b.1 ∧ b.1 ≤ y.top ∧ b.1 < 12))
         ∧ (∀ b ∈ x.free, k ≤ b.1 → c ≤ b.1) ∧ (∀ b ∈ x.free, b.1 = c → a ≤ b.2)
         ∧ (let upper := ((List.range c).filter fun j => k ≤ j).reverse.map fun j => (j, a + clsBytes j)
            ys = before ++ { x with free := x.free.erase (c, a) ++ upper, used := x.used ++ [(k, a)] } :: after))

/-- R214, R116, R207: the sequencer executes the oldest tile operation of a group. Afterwards the operation has left the list; when it
failed, its cause waits for the covering `WAITC`, and every younger one is discarded. With nothing outstanding nothing happens, nor, by
the model's choice (assumption 23), while stores of the group's last operation lack their replies. R229, R232: each residue mismatch of its
steps takes a spare column; at one that finds none neither the operation nor a younger one of its group takes effect, its group's passes
end, and its cluster freezes.

R190: the product of two low-rank tiles has the smaller of their ranks; with a zero operand it is zero, and two dense operands stay
a dense product. -/
def Obligations.TileExecution : Prop :=
  (∀ (s : State) (o : TileOp) (rest : List TileOp),
     let gid := s.inp.gid
     let q := s.quadOf gid
     ((s.group gid).tiles = [] → exec .tileOpExecute s = .next s)
     ∧ ((s.group gid).tiles = o :: rest → (s.group gid).engineOut true ≠ [] → exec .tileOpExecute s = .next s)
     ∧ ((s.group gid).tiles = o :: rest → (s.group gid).engineOut true = [] →
       (0 < s.inp.mismatches ∧ 2 < (s.quad q).spares + s.inp.mismatches → ∃ t, exec .tileOpExecute s = .next t
         ∧ (t.group gid).tiles = rest.filter (fun x => x.id < o.id) ∧ (t.group gid).mats = (s.group gid).mats.filter (fun x => x.id < o.id)
         ∧ (∀ p ∈ (t.quad q).passes, p.gid ≠ gid)
         ∧ ((s.cluster (s.group gid).ck).state = .placed → (t.cluster (s.group gid).ck).state = .frozen))
       ∧ (s.inp.mismatches = 0 ∨ (s.quad q).spares + s.inp.mismatches ≤ 2 → ∃ t, exec .tileOpExecute s = .next t
         ∧ (t.quad q).spares = (s.quad q).spares + s.inp.mismatches
         ∧ ((t.group gid).tiles = rest ∨ (t.group gid).tiles = [] ∧ ∃ d, (t.group gid).tileFail = some d ∧ d.seq = o.seq ∧ d.pc = o.pc)
         ∧ (s.inp.mismatches = 0 → o.kind = .tsamp → (s.team (groupTeam gid)).ended = false →
             ((t.team (groupTeam gid)).armed.find? fun a => a.1 = groupIndex gid)
               = if o.c = 0 then none else some (groupIndex gid, o.c)))))
  ∧ (∀ (m n k : Nat) (a b : TileVal) (fl : Flags),
       ((a.kind = 0 ∨ b.kind = 0) → (product m n k a b).result fl = (some .zero, fl))
       ∧ (a.kind = 1 → b.kind = 1 → (product m n k a b).result fl = (some (.denseMul a.d b.d), fl))
       ∧ (∀ u v f', a.kind = 2 → b.kind = 2 → a.u.length = a.rank → b.v.length = b.rank →
           (product m n k a b).result fl = (some (.low u v), f') → u.length = min a.rank b.rank ∧ v.length = min a.rank b.rank))

/-! ### Updates, counted lines, launches, special state -/

/-- R376 to R379, R38: `OSGD` and `OADAM` complete when every lane's element resolves and lane J's parameter record can be read on the
package: the record is read, and each active lane's element, gradient and parameters travel to its owner as a watermarked request,
counted in `.rem`, under the group's serial. -/
def Obligations.OptimiserUpdates : Prop :=
  ∀ (s : State) (f : XE) (m : Lanes) (i : Instr) (adam : Bool), (i, adam) ∈ [(.osgd f, false), (.oadam f, true)] →
    let g := s.cur
    let wide := f.flags == 1
    let res := s.planeRes f.e0 0 (optPlanes adam wide) 2 2 true
    let j := lead m
    let a := g.v64 j f.e2.toNat
    let regs := pairRegs f.e0 ++ range' f.e1.toNat (if wide then 2 else 1) ++ pairRegs f.e2
    m ≠ 0 → s.Clear { guard := f.guard, regs, reads := regs, region := g.windowRegion, mem := true, issues := true } m →
    s.clash (fun _ => true) 2 (lanePlaces m res) = false → s.clash (fun _ => false) 16 (s.blockAccs j a 64) = false →
    (∀ k, k < 8 → ∃ p, s.resolve s.iss.gid j (a + BitVec.ofNat 64 (8 * k)) 8 8 false = .ok p) →
    (∀ b ∈ blocksOf a 64, ∃ p, s.resolve s.iss.gid j (BitVec.ofNat 64 (b * 16)) 1 1 false = .ok p ∧ p.kind ≠ 2 ∧ s.absent p = false
      ∧ s.bad p = false) → (g.unknowns.find? fun u => u.regs.any fun p => 0x1000 ≤ p.1) = none →
    (∀ l, m.getLsbD l = true → ∃ p, (res l).2 = .ok p) → s.lastSerial = false → g.rem.length < 255 → g.window = .free →
    ∃ t bs, exec i s = .next t ∧ s.peek j a 64 = some bs ∧ t.cur.v = g.v ∧ t.cur.fpflags = g.fpflags ∧ Stands s t.cur 0 (fun _ => 0)
      ∧ t.cur.wserial = g.wserial + 1 ∧ t.cur.nRem = g.nRem + 1
      ∧ Requested (s.setCur g.dropHidden) t m (fun _ => true) (.opt adam wide (f.e4.setWidth 3) 0 (optParams bs)) true g.wserial
      ∧ (Uncounted m res → (∀ x ∈ s.blockAccs j a 64, x.place.ac = none) → ∀ a, t.rd a = s.rd a)

/-- R380 to R382: `CLINE` sends lane J's declaration as a load and waits for the reply, whose status every active lane's E3 then takes. An
unknown outcome of that load stands, as any load's does, for E3 of the active lanes, and the word goes on (R42). `CCON` sends 64 words,
zero for lanes that are not active, as a watermarked request counted in `.rem`. A bad line word is HANDLE_INVALID with reason 12. -/
def Obligations.CountedLines : Prop :=
  ∀ (s : State) (f : XE) (m : Lanes) (p : Place),
    let g := s.cur
    let j := lead m
    let word := g.v j f.e1.toNat
    let gen := g.v j f.e2.toNat
    let fixed := pairRegs f.e0 ++ [f.e1.toNat, f.e2.toNat]
    let regs := pairRegs f.e0 ++ [f.e1.toNat] ++ pairRegs f.e2
    let sent (t : State) (op : OwnerOp) (wm : Bool) (n : Word) : Prop :=
      (∃ keep : OutReq → Bool, (∀ o, keep o = false → wm = true ∧ o.restored = true ∧ o.serial = n)
        ∧ t.cur.outs.length = (g.outs.filter keep).length + 1) ∧ ∃ o ∈ t.cur.outs, o.packet.op = op ∧ o.watermarked = wm ∧ o.serial = n ∧ o.lanes = m
        ∧ o.pc = s.iss.pc
    let frame (t : State) : Prop := t.cur.v = g.v ∧ t.cur.fpflags = g.fpflags ∧ Stands s t.cur 0 fun _ => 0
    let meets (wm : Bool) : Bool := s.clash (fun _ => wm) 256 [{ lane := j, va := (s.lineRes f.e0 j).1, place := p }]
    m ≠ 0 → (s.lineRes f.e0 j).2 = .ok p →
    (s.iss.issued = false → s.Clear { guard := f.guard, regs := f.e3.toNat :: fixed, reads := fixed, mem := true
                                      keys := guardRegs f.guard ++ [f.e1.toNat] } m →
      (f.e4 = 0 ∨ lineOp word = 0 ∧ lineFp word = true) →
      (lineBad word = true → exec (.cline f) s = .next (s.takeTrap 0x0D (BitVec.ofNat 32 (2 ^ j)) 0 12))
      ∧ (lineBad word = false → ∀ u ∈ g.unknowns, (u.regs.any fun p => p.1 = hiddenReg 0) = true →
          ∃ t v, exec (.cline f) s = .next t ∧ frame t ∧ v ∈ t.cur.unknowns ∧ v.regs = [(f.e3.toNat, m)] ∧ v.op = u.op
            ∧ v.reason = u.reason ∧ v.pc = u.pc ∧ ∀ x ∈ t.cur.late, x.isHidden = false)
      ∧ (lineBad word = false → (g.unknowns.find? fun u => u.regs.any fun p => p.1 = hiddenReg 0) = none →
        (g.late.find? Late.isHidden = none → meets false = false → ∃ t, exec (.cline f) s = .next t ∧ t.cur.v = g.v ∧ t.cur.pcs = g.pcs
          ∧ (∃ w, t.cur.wait = some w ∧ w.i = .cline f ∧ w.pc = s.iss.pc ∧ w.run = s.iss.run)
          ∧ sent t (.cline word gen (f.e4.setWidth 3)) false (BitVec.ofNat 32 g.nextOp) ∧ t.cur.wserial = g.wserial
          ∧ ∃ x ∈ t.cur.late, x.dst = [hiddenReg 0] ∧ x.regs = [(hiddenReg 0, m)] ∧ x.ready = false)
        ∧ ∀ x, g.late.find? Late.isHidden = some x →
          (x.ready = false → exec (.cline f) s = .next (s.park (.cline f) m))
          ∧ (x.ready = true → ∃ t, exec (.cline f) s = .next t
              ∧ Loaded s t m f.e3.toNat 1 fun _ => [((x.rows.head?).map fun r => laneAt r.2 j).getD 0])))
    ∧ (s.Clear { guard := f.guard, regs, reads := regs, region := g.windowRegion, mem := true, issues := true } m →
      meets true = false → s.lastSerial = false → g.rem.length < 255 → g.window = .free →
      ∃ t, exec (.ccon f) s = .next t ∧ frame t ∧ sent t (.ccon word.toNat) true g.wserial
        ∧ t.cur.wserial = g.wserial + 1 ∧ t.cur.nRem = g.nRem + 1
        ∧ ∃ o ∈ t.cur.outs, o.packet.recs.map (·.data) = [(List.range 64).map fun k =>
            if m.getLsbD (k % 32) then g.v (k % 32) (f.e2.toNat + k / 32) else 0])

/-- R385 to R387, R168: `RDSR` writes the state that its number names; `WRSR` writes FPFLAGS[5:0] and is PRIVILEGE for any other state;
`SVC` of an absent service answers all ones at once. Otherwise it posts a request to the service's mailbox, with its context, handle, team,
group, WSERIAL and address, and parks; the post is a release at `.node`, which waits for the older requests of its lanes and for every
store of the group to another package. The request as a record of a mailbox is the model's (assumption 89), and so is that the post waits in
this way (assumption 41).

R384: `LAUNCH` outside class 0 writes refusal 1 at once; otherwise it sends the record's address to the launch unit of the core's die,
or to the one that its serial has asked before (the model's reading: assumption 85), as a watermarked request counted in `.rem`, whose result is to land in E0 of every active lane. At the last serial of a deterministic
launch it is DETERMINISM (R218). -/
def Obligations.SpecialState : Prop :=
  (∀ (s : State) (f : XE) (m : Lanes),
     let g := s.cur
     let d := f.e0.toNat
     let n := f.e1.toNat
     let narrow : List (Nat × Word) := [(0, BitVec.ofNat 32 g.trap.cause), (3, g.trap.lanes), (5, g.fpflags), (6, g.wserial),
       (7, keyHandle (groupTeam s.iss.gid)), (10, if (s.launchOf s.iss.gid).determ then 1 else 0)]
     let wide : List (Nat × Dword) := [(1, g.trap.pc), (2, g.trap.addr), (4, g.trap.info), (8, s.capVa),
       (9, (s.die (coreDie (slotCore g.slot))).cycles)]
     let svcReads := pairRegs f.e1 ++ [f.e2.toNat]
     s.iss.issued = false →
     (∀ x, (n, x) ∈ narrow → s.Clear { guard := f.guard, regs := [d], drain := n = 5 } m →
       ∃ t, exec (.rdsr f) s = .next t ∧ Loaded s t m d 1 (fun _ => [x]) ∧ s.onlyCur t)
     ∧ (∀ x, (n, x) ∈ wide → s.Clear { guard := f.guard, regs := [d, d + 1] } m →
       ∃ t, exec (.rdsr f) s = .next t ∧ Loaded s t m d 2 (fun _ => [x.setWidth 32, (x >>> 32).setWidth 32]) ∧ s.onlyCur t)
     ∧ (d = 5 → m ≠ 0 → s.Clear { guard := f.guard, regs := [n], reads := [n], drain := true } m →
       ∃ t, exec (.wrsr f) s = .next t ∧ XDone s t { g.advance s.iss.run with fpflags := g.v (lead m) n &&& 0x3F })
     ∧ (d ≠ 5 → (∀ r ∈ [n] ++ guardRegs f.guard, r < g.nregs) → g.awaits (guardRegs f.guard) s.iss.run = false →
         g.unknownFor (guardRegs f.guard) s.iss.run = none → exec (.wrsr f) s = .next (s.takeTrap 0x17 s.iss.run 0 0))
     ∧ (m ≠ 0 →
       let id : BitVec 16 := (g.v (lead m) f.e2.toNat).setWidth 16
       let clear (posts : Bool) : Prop :=
         s.Clear { guard := f.guard, regs := pairRegs f.e0 ++ svcReads, reads := svcReads, mem := posts, rel := posts } m
       (s.hasService id = false → clear false → ∃ t, exec (.svc f) s = .next t
         ∧ Loaded s t m d 2 (fun _ => [0xFFFFFFFF, 0xFFFFFFFF]) ∧ s.onlyCur t)
       ∧ (s.hasService id = true → clear true → ∃ t, exec (.svc f) s = .next t
         ∧ t.mailbox = s.mailbox ++ [{ service := id, ctx := (s.launchOf s.iss.gid).ctx, gid := s.iss.gid, pc := s.iss.pc,
                                       wserial := g.wserial, addr := g.v64 (lead m) f.e1.toNat, posted := s.fresh }]
         ∧ t = ({ s with mailbox := t.mailbox }).park (.svc f) m)
       ∧ (s.hasService id = true → clear false → (g.pending m = true ∨ g.storesOut = true) → exec (.svc f) s = .next s)))
  ∧ (∀ (s : State) (f : XE) (m : Lanes),
       let g := s.cur
       let d := f.e0.toNat
       let va := g.v64 (lead m) f.e1.toNat
       let near := s.classOf s.iss.gid va = 0
       m ≠ 0 → s.Clear { guard := f.guard, regs := d :: pairRegs f.e1, reads := pairRegs f.e1
                         region := decide near && g.windowRegion, mem := true, issues := decide near } m →
       (¬ near → ∃ t, exec (.launch f) s = .next t ∧ Loaded s t m d 1 (fun _ => [1]) ∧ s.onlyCur t)
       ∧ (near → s.lastSerial = true → exec (.launch f) s = .next (s.takeTrap 0x11 m va 0))
       ∧ (near → s.lastSerial = false → g.rem.length < 255 → g.window = .free → ∃ t o x, exec (.launch f) s = .next t
           ∧ t.cur.v = g.v ∧ Stands s t.cur 0 (fun _ => 0) ∧ t.cur.wserial = g.wserial + 1 ∧ t.cur.nRem = g.nRem + 1
           ∧ o ∈ t.cur.outs ∧ o.packet.op = .launch (s.launchOf s.iss.gid).ctx va ∧ o.owner = s.unitOf g.wserial
           ∧ o.serial = g.wserial ∧ o.watermarked = true ∧ o.lanes = m
           ∧ ((∀ u ∈ g.units, u.1 ≠ g.wserial) → o.owner = 64 + coreDie (slotCore g.slot))
           ∧ x ∈ t.cur.late ∧ x.dst = [d] ∧ x.regs = [(d, m)] ∧ x.ready = false ∧ ∀ a, t.rd a = s.rd a))

/-! ### Traps (R114 to R118, R68) -/

/-- R117: a trap with a handler. The trap state names it, the PCs, WAITING bits and latches are saved, every lane that has not exited
starts at HANDLER; masks, registers, FPFLAGS and memory stay.

R68, R117: a trap without a handler, inside one, or imposed, ends the launch with its cause and team; its groups stop, and the fatal
record enters the log of the die on which the group runs (the model's choice: assumption 80), or waits for room there. -/
def Obligations.Traps : Prop :=
  (∀ (s : State) (cause : Nat) (lanes : Lanes) (addr info : Dword),
     let g := s.cur
     let l := s.launchOf s.iss.gid
     let t := s.takeTrap cause lanes addr info
     l.handler ≠ 0 → g.handler = none → cause ≠ 0x15 → cause ≠ 0x16 →
     t.cur.trap = { cause, pc := s.iss.pc, addr, lanes, info }
       ∧ t.cur.handler = some { pcs := g.pcs, waiting := g.waiting, stood := g.stand, latches := g.latches,
                                 lvalid := g.lvalid, entered := ~~~g.exited }
       ∧ (∀ k, k < 32 → laneAt64 t.cur.pcs k = if g.exited.getLsbD k then laneAt64 g.pcs k else l.handler)
       ∧ t.cur.waiting = 0 ∧ t.cur.lvalid = 0 ∧ t.cur.v = g.v ∧ t.cur.fpflags = g.fpflags ∧ t.cur.masks = g.masks
       ∧ t.cur.exited = g.exited ∧ s.quiet t ∧ t.launches = s.launches)
  ∧ (∀ (s : State) (cause : Nat) (lanes : Lanes) (addr info : Dword),
       let gid := s.iss.gid
       let h := keyHandle (groupTeam gid)
       let l := s.launch h
       let t := s.takeTrap cause lanes addr info
       let d := coreDie (slotCore s.cur.slot)
       let x := s.die d
       let r : LogRec := { kind := 1, handle := h, id := s.logIdOf gid, code := BitVec.ofNat 32 cause, pc := s.iss.pc, addr, lanes, info }
       (l.handler = 0 ∨ s.cur.handler ≠ none ∨ cause = 0x15 ∨ cause = 0x16) → l.state = .running →
       t.launch h = { l with state := .ending, cause, team := teamIndex (groupTeam gid) }
         ∧ (s.cur.live = true → t.cur.stopped = true) ∧ t.cur.trap = { cause, pc := s.iss.pc, addr, lanes, info } ∧ t.cur.v = s.cur.v
         ∧ (x.logFull = false → x.logWait = [] → (t.die d).logProd = x.logProd + 1
             ∧ (∀ i, (k : i < r.bytes.length) → t.rd (x.logBase.toNat + 64 * x.logProd.toNat + i) = r.bytes[i])
             ∧ ∀ a, (a < x.logBase.toNat + 64 * x.logProd.toNat ∨ x.logBase.toNat + 64 * x.logProd.toNat + 64 ≤ a) → t.rd a = s.rd a)
         ∧ ((x.logFull = true ∨ x.logWait ≠ []) → (t.die d).logWait = x.logWait ++ [r] ∧ ∀ a, t.rd a = s.rd a))

/-- R118, R388, R105: `TRET` by every lane that entered and has not exited leaves the handler; each goes back to its saved PC and WAITING
state, those of TLANES where the cause and `.retry` or `.skip` say; the latches come back, and the release test of R98 runs. Outside a
handler it is PRIVILEGE.

That the lanes of TLANES come back with WAITING 0 is the model's reading (assumption 43).

R118: where the lanes of TLANES resume. `.skip` goes past the delivering word. `.retry` goes to it, but for an empty tile pool, a
failed copy and a deferred translation fault, which go back to the failed operation when its distance is known. -/
def Obligations.TrapReturn : Prop :=
  (∀ (s : State) (f : XE),
     let g := s.cur
     let skip := f.flags == 1
     (g.handler = none → exec (.tret f) s = .next (s.takeTrap 0x17 s.iss.run 0 0))
     ∧ (∀ h, g.handler = some h →
       let back := h.entered &&& ~~~g.exited
       (s.iss.run ≠ back → exec (.tret f) s = .next (s.takeTrap 0x03 s.iss.run 0 0))
       ∧ (s.iss.run = back → ∃ t, exec (.tret f) s = .next t ∧ t.cur.handler = none ∧ t.cur.v = g.v ∧ t.cur.trap = g.trap
           ∧ t.cur.fpflags = g.fpflags ∧ t.cur.lvalid = h.lvalid ∧ t.cur.latches = h.latches ∧ t.cur.exited = g.exited ∧ s.quiet t
           ∧ ∃ x : Group, t.cur = x.releaseMasks ∧ x.masks = g.masks
             ∧ x.waiting = h.waiting &&& ~~~g.exited &&& ~~~g.trap.lanes ∧ x.stand = h.stood
             ∧ ∀ k, k < 32 → laneAt64 x.pcs k =
                 if back.getLsbD k then (if g.trap.lanes.getLsbD k then resumePc g.trap skip else laneAt64 h.pcs k)
                 else laneAt64 g.pcs k)))
  ∧ (∀ (t : TrapState),
       let d := t.info.toNat % 2 ^ 24
       resumePc t true = t.pc + 8
         ∧ ((t.cause = 0x0F ∨ t.cause = 0x12) → resumePc t false = if d = 0xFFFFFF then t.pc else t.pc - BitVec.ofNat 64 (8 * d))
         ∧ ((t.cause = 0x0A ∨ t.cause = 0x0B) → t.info ≠ 0 →
             resumePc t false = if d = 0xFFFFFF then t.pc else t.pc - BitVec.ofNat 64 (8 * d))
         ∧ (t.cause ∉ [0x0A, 0x0B, 0x0F, 0x12] → resumePc t false = t.pc)
         ∧ (t.info = 0 → t.cause ≠ 0x0F → t.cause ≠ 0x12 → resumePc t false = t.pc)
         ∧ ∀ k, k < 0xFFFFFF → distance (t.pc - BitVec.ofNat 64 (8 * k)) t.pc = k)

/-! ### Control cores and launches -/

/-- R58: the Xkelren words by privilege. In M- and S-mode the destination takes the answer and the hart goes on; `x0` stays zero. In U-
and VU-mode the word is illegal, in VS-mode a virtual instruction.

R58, R63 to R65: cancel, pre-emption and status by where the launch stands. -/
def Obligations.KelrenWords : Prop :=
  (∀ (s : State) (rd rs1 rs2 : BitVec 5) (fn : Nat) (i : Instr),
     (fn, i) ∈ [(0, .klnLaunch rd rs1 rs2), (1, .klnCancel rd rs1 rs2), (2, .klnPreempt rd rs1 rs2), (3, .klnStatus rd rs1 rs2)] →
     let n := s.iss.hart
     let h := s.hart n
     let word : Dword := BitVec.ofNat 64 (rs2.toNat * 2 ^ 20 + rs1.toNat * 2 ^ 15 + fn * 2 ^ 12 + rd.toNat * 2 ^ 7 + 0x0B)
     let traps (c : Nat) : Prop := ∃ t, exec i s = .next t ∧ t.hart n = h.takeException c word ∧ t.launches = s.launches ∧ t.mem = s.mem
     let answer : Dword :=
       if fn = 0 then
         (if (h.reg rs2).toNat / 2 ^ 16 ≠ 0 then 2 else (s.accept (n / 4) ((h.reg rs2).setWidth 16) (h.reg rs1)).2.setWidth 64)
       else if fn = 1 then (if rs2 ≠ 0 then 2 else (s.cancel ((h.reg rs1).setWidth 32)).2)
       else if fn = 2 then (s.preempt ((h.reg rs1).setWidth 32) ((h.reg rs2).toNat % 2 ^ 24)).2
       else if rs2 ≠ 0 then 2 else s.status ((h.reg rs1).setWidth 32)
     (h.mode = .u ∨ h.mode = .vu → traps 2) ∧ (h.mode = .vs → traps 22)
     ∧ (h.mode = .m ∨ h.mode = .s → ∃ t, exec i s = .next t ∧ (t.hart n).pc = h.pc + 4 ∧ (t.hart n).mode = h.mode
         ∧ (∀ r, (t.hart n).reg r = if r = 0 then 0 else if r = rd then answer else h.reg r)
         ∧ (∀ k, k ≠ n → t.hart k = s.hart k) ∧ (fn = 3 → t = (s.setHart n (t.hart n)).markIssued)))
  ∧ (∀ (s : State) (h : Word) (team : Nat),
       let l := s.launch h
       let st (cause n : Nat) : Dword := BitVec.ofNat 64 (h.toNat * 2 ^ 32 + cause % 256 * 2 ^ 24 + n % 2 ^ 24)
       (l.state = .none → s.status h = 0 ∧ (s.cancel h).2 = 2 ∧ (s.preempt h team).2 = 2)
       ∧ (l.state = .queued ∨ (l.state = .ending ∧ l.dispatched = 0) → s.status h = st 0xFD 0)
       ∧ (l.state = .running ∨ (l.state = .ending ∧ l.dispatched ≠ 0) → s.status h = st 0xFC 0)
       ∧ (l.state = .ended → s.status h = st l.cause l.team)
       ∧ ((l.state = .queued ∨ l.state = .running) → (s.cancel h).2 = 0
           ∧ (s.cancel h).1.launch h = { l with state := .ending, cause := 0xFE, team := 0 }
           ∧ h ∉ tabGet [] (s.cancel h).1.queues l.queue)
       ∧ ((l.state = .ending ∨ l.state = .ended) → s.cancel h = (s, 1))
       ∧ (l.state ≠ .none → (l.teams ≤ team → s.preempt h team = (s, 2))
           ∧ (team < l.teams → (s.team (teamKey h team)).resident = false ∨ (s.team (teamKey h team)).ended = true →
               s.preempt h team = (s, 1))
           ∧ (team < l.teams → (s.team (teamKey h team)).resident = true → (s.team (teamKey h team)).ended = false →
               (s.preempt h team).2 = 0)))

/-- R57, R60, R56: a launch is refused for the first reason that holds: context, alignment, record, fields, grant, handle table, queue.
Otherwise it enters the end of its queue under a handle: bits [31:30] are the die that owns the queue, and bits [29:0] the first sequence
number from the unit's next one, with wrap from 0x3FFFFFFF to 0x10, that is no handle in use and none that R45 keeps. A full table drops
the launch that ended earliest; that it does so before the dependences are looked up is the model's choice (assumption 84), and which records
cannot be read its reading (assumption 33). -/
def Obligations.LaunchAcceptance : Prop :=
  ∀ (s : State) (die : Nat) (ctx : BitVec 16) (va : Dword),
    let a := s.accept die ctx va
    let refused (n : Word) : Prop := a = (s, n)
    (s.ctxValid ctx = false → refused 4)
    ∧ (s.ctxValid ctx = true →
      (va.toNat % 64 ≠ 0 → refused 1) ∧ (va.toNat % 64 = 0 →
        (s.unitRead die ctx va 64 0x102 = none → refused 1) ∧ (∀ r, s.unitRead die ctx va 64 0x102 = some r →
          let l := launchOfRecord r
          let own := l.queue % 4
          let q := tabGet [] s.queues l.queue
          (l.fieldsOk = false → refused 2) ∧ (l.fieldsOk = true →
            (s.ctxGrant ctx l.queue = false → refused 6) ∧ (s.ctxGrant ctx l.queue = true →
              (s.handleRoom own = none → refused 5) ∧ (∀ u, s.handleRoom own = some u →
                (256 ≤ q.length → refused 3) ∧ (q.length < 256 →
                  (a.1.launch a.2).state = .queued ∧ (a.1.launch a.2).handle = a.2 ∧ (a.1.launch a.2).ctx = ctx
                    ∧ (a.1.launch a.2).entry = l.entry ∧ (a.1.launch a.2).teams = l.teams
                    ∧ tabGet [] a.1.queues l.queue = q ++ [a.2] ∧ a.1.groups = s.groups ∧ a.1.mem = s.mem
                    ∧ (let first := (u.die own).nextSeq
                       let num (k : Nat) : Nat := 16 + (first - 16 + k) % (2 ^ 30 - 16)
                       16 ≤ first → first < 2 ^ 30 →
                         a.2.toNat / 2 ^ 30 = own ∧ a.2.toNat / 2 ^ 4 % 2 ^ 26 ≠ 0
                         ∧ ∀ k, k ≤ 2 * Config.handles + u.releases.length + u.retired.length →
                             (∀ j, j < k → u.seqBusy own (num j) = true) → u.seqBusy own (num k) = false →
                             a.2.toNat % 2 ^ 30 = num k ∧ (u.launch a.2).open' = false
                             ∧ (∀ r ∈ u.releases, r.handle ≠ a.2) ∧ (a.1.die own).nextSeq = num (k + 1)))))))))

/-! ### The package: bring-up, resets, its parts -/

/-- R25 to R27, R23, R15, R13: bring-up. Each stage that succeeds brings its die to the next, and each that fails leaves its code and its die
in the status; READY rises when every die has passed stage 0x8. A stage beyond its limit fails with code 0x07, whichever event comes. A
package that a thermal trip took down does not start again while the trip stands. That the slot mismatch is found in D2D_LINK_TRAIN is the
model's reading (assumption 50); that SHEET_SELF_CALIBRATE leaves the die's sheet memory reading 0 is its choice (assumption 2).

R12, R52, R412: stage 0x8 places the fault log, and on die 0 the context table, in the die's fixed area; its harts go to their entries. The
modes, the delegations and the vectors that firmware leaves them, and that an input which it cannot place changes nothing, are the model's
choice (assumption 61). -/
def Obligations.BringUp : Prop :=
  ∀ (s : State),
    let d := s.inp.die
    let enters (i : Instr) (k : Nat) (more : State → Prop) : Prop :=
      ∃ t, exec i s = .next t ∧ (t.die d).stage = k ∧ (t.die d).stageAt = s.now ∧ (∀ e, e ≠ d → t.die e = s.die e)
        ∧ t.errCode = s.errCode ∧ t.ready = s.ready ∧ more t
    let fails (i : Instr) (e : Nat) (code : Byte) : Prop :=
      ∃ t, exec i s = .next t ∧ t.errCode = code ∧ t.errDie = BitVec.ofNat 4 (2 ^ e) ∧ t.dies = s.dies ∧ t.ready = false
    let zeroed (t : State) (lo n : Nat) : Prop :=
      (∀ a, lo ≤ a → a < lo + n → t.rd a = 0) ∧ ∀ a, tabWf State.emptyByte s.mem = true → (a < lo ∨ lo + n ≤ a) → t.rd a = s.rd a
    let at_ (k : Nat) : Prop := s.inStage d k = true ∧ s.late d = false
    let fw := s.inp.fw
    let log := (fw.logBase.getD d 0).toNat
    (s.tripped = false → (∀ e, e < 4 → (s.die e).stage = 0) → ∃ t, exec .powerGood s = .next t ∧ t.powered = true ∧ t.tripped = false
        ∧ ∀ e, e < 4 → (t.die e).stage = 1 ∧ (t.die e).stageAt = s.now)
    ∧ (s.tripped = true → exec .powerGood s = .next s)
    ∧ (at_ 1 → enters .imageVerify 2 fun _ => True)
    ∧ (at_ 2 → (∀ e, s.bootSlot = .error e → fails .imageVerify d e)
        ∧ ∀ b, s.bootSlot = .ok b → enters .imageVerify 3 fun t =>
            (t.die d).slot = b ∧ t.image = if d = 0 then s.header b else s.image)
    ∧ (at_ 3 → (s.inp.ok = true → enters .sheetSelfCalibrate 4 fun t => zeroed t (sheetBase + d * 2 ^ 30) (2 ^ 30))
        ∧ (s.inp.ok = false → fails .sheetSelfCalibrate d 0x03))
    ∧ (at_ 4 → 3 ≤ (s.die 0).stage → (s.inp.ok = false → fails .d2dLinkTrain d 0x06)
        ∧ (s.inp.ok = true → (s.die d).slot ≠ (s.die 0).slot → fails .d2dLinkTrain d 0x0A)
        ∧ (s.inp.ok = true → (s.die d).slot = (s.die 0).slot → enters .d2dLinkTrain 5 fun _ => True))
    ∧ ((∀ e, e < 4 → s.inStage e 5 = true) → (∀ e, e < 4 → s.late e = false) → (∀ r, trainRate s.inp.bads = .ok r → ∃ t, exec .lpddrTrain s = .next t ∧ t.rate = r
          ∧ t.errCode = s.errCode ∧ ∀ e, e < 4 → (t.die e).stage = 6 ∧ ∀ c, c < 48 → tabGet 0 (t.die e).trained c = s.inp.temp)
        ∧ ∀ c, trainRate s.inp.bads = .error c → fails .lpddrTrain (c / 48 % 4) 0x04)
    ∧ (at_ 6 → (s.inp.ok = true → enters .lpddrInit 7 fun t => zeroed t (lpddrBase + d * lpddrSize) lpddrSize)
        ∧ (s.inp.ok = false → fails .lpddrInit d 0x05))
    ∧ (at_ 7 → enters .ndenathLinkTrain 8 fun t => t.fabUp = s.fabUp ||| s.inp.mask)
    ∧ (at_ 8 → (s.inFixed d log 262144 = true → (d = 0 → s.fwBuilds fw = true) →
          enters .firmwareServicesStart 9 fun t => (t.die d).logBase = fw.logBase.getD d 0 ∧ (t.die d).ordPending = none
            ∧ (∀ k, k < 4 → (t.hart (4 * d + k)).pc = fw.entries.getD k 0 ∧ ((t.hart (4 * d + k)).mode = if k = 3 then .m else .s)
                ∧ (t.hart (4 * d + k)).mtvec = vecBase (fw.vectors.getD k 0)
                ∧ (k ≠ 3 → (t.hart (4 * d + k)).medeleg = 0xF8B5FF ∧ tabGet 0 (t.hart (4 * d + k)).csrs 0x303 = 0x222))
            ∧ (d = 0 → t.ctxBase = fw.ctxTable ∧ t.capPa = fw.capPa ∧ t.capVa = fw.capVa))
        ∧ (s.inFixed d log 262144 = false ∨ (d = 0 ∧ s.fwBuilds fw = false) → exec .firmwareServicesStart s = .next s))
    ∧ ((∀ e, e < 4 → s.inStage e 9 = true) → ∃ t, exec .readySet s = .next t ∧ t = { s with ready := true, readyAt := s.now, windowAt := s.now })
    ∧ (∀ k i, (k, i) ∈ [(1, .imageVerify), (2, .imageVerify), (3, .sheetSelfCalibrate), (4, .d2dLinkTrain), (6, .lpddrInit),
          (7, .ndenathLinkTrain), (8, .firmwareServicesStart)] → s.inStage d k = true → stageLimit k < s.now - (s.die d).stageAt →
        fails i d 0x07)
    ∧ (∀ k, 1 ≤ k → k ≤ 8 → s.inStage d k = true → stageLimit k < s.now - (s.die d).stageAt → fails .stageLimitExceeded d 0x07)
    ∧ ((∀ e, e < 4 → s.inStage e 5 = true) → (∃ e, e < 4 ∧ s.late e = true) → ∃ t, exec .lpddrTrain s = .next t ∧ t.errCode = 0x07)

/-- R20, R23, R24, R27 to R29, R10: what the board, the management port and the die links do. A warm reset keeps flash, fuses, field
records and LPDDR-6 until bring-up, and restarts every die at stage 0x2; power loss drops what no flush saved. A link between two dies is retried 64
times; then it has failed, once. The source address and the tag of the responder's reply are the model's choice (assumption 63). -/
def Obligations.BoardAndResets : Prop :=
  ∀ (s : State),
    let d := s.inp.die
    let f := s.inp.frame
    let b := s.inp.peer
    let key := min d b * 4 + max d b
    let link : Prop := d ≠ b ∧ d < 4 ∧ b < 4
    let restarts (i : Instr) : Prop := ∃ t, exec i s = .next t ∧ (∀ e, e < 4 → (t.die e).stage = 2) ∧ t.ready = false ∧ t.warm = true
      ∧ t.errCode = 0 ∧ t.flash = s.flash ∧ t.fuses = s.fuses ∧ t.fieldNow = s.fieldNow ∧ t.fieldSaved = s.fieldSaved
      ∧ t.groups = [] ∧ t.teams = [] ∧ t.launches = [] ∧ t.net = [] ∧ t.harts = [] ∧ t.now = s.now
      ∧ (∀ a, tabWf State.emptyByte s.mem = true → a < cxlBase → t.rd a = s.rd a) ∧ t.poison = s.poison
    let powered : Prop := s.powered = true ∧ s.tripped = false ∧ 1 ≤ s.lowStage
    let up : Prop := s.powered = true ∧ (s.ethPort 0).up = true ∧ 1 ≤ s.lowStage
    (s.powered = true → s.tripped = false → 115 ≤ s.inp.temp → ∃ t, exec .thermalTrip s = .next t ∧ t.tripped = true
        ∧ t.errCode = (if s.errCode = 0 then 0x08 else s.errCode))
    ∧ (s.powered = true → s.ready = false → (s.die d).stage ≠ 0 → ∃ t, exec .coolantOutOfRange s = .next t
        ∧ t.errCode = (if s.errCode = 0 then 0x09 else s.errCode))
    ∧ (s.ready = true → s.image.mgmt.getLsbD 1 = true → s.fuses.rollback.toNat < s.image.rollver.toNat →
        exec .rollbackRaise s = .next { s with fuses := { s.fuses with rollback := s.image.rollver } })
    ∧ (up → mgmtCode f = 1 → 0 < s.eth.length → ∃ t, exec .mgmtQuery s = .next t
        ∧ (t.ethPort 0).replies = (s.ethPort 0).replies ++ [{ srcMac := f.dstMac, dstMac := f.srcMac, tag := f.tag, etherType := 0x88B5
                                                              payload := (leBytes 8 s.statusWord.toNat).reverse }])
    ∧ (up → powered → mgmtCode f = 2 → s.image.ok = true → s.image.mgmt.getLsbD 0 = true → restarts .mgmtWarmReset)
    ∧ exec .mgmtDrop s = .next s
    ∧ (powered → s.inp.v.getLsbD 0 = true → restarts .resetRegisterWrite)
    ∧ (∃ t, exec .powerLoss s = .next t ∧ t.powered = false ∧ t.fieldNow = s.fieldSaved ∧ t.flash = s.flash ∧ t.fuses = s.fuses
        ∧ t.ready = false ∧ t.groups = [] ∧ t.mem = [])
    ∧ (¬ link → exec .d2dRetry s = .next s ∧ exec .dieLinkFailure s = .next s)
    ∧ (link → tabGet 0 s.retries key < 64 → ∃ t, exec .d2dRetry s = .next t
        ∧ tabGet 0 t.retries key = if s.inp.ok then 0 else tabGet 0 s.retries key + 1)
    ∧ (64 ≤ tabGet 0 s.retries key → exec .d2dRetry s = .next s)
    ∧ ((min d b, max d b) ∈ s.links → exec .dieLinkFailure s = .next s)
    ∧ (tabGet 0 s.retries key < 64 → exec .dieLinkFailure s = .next s)
    ∧ (link → s.powered = true → 64 ≤ tabGet 0 s.retries key → (min d b, max d b) ∉ s.links → ∃ t, exec .dieLinkFailure s = .next t
        ∧ (min d b, max d b) ∈ t.links ∧ (t.errCode = if s.errCode = 0 then 0x06 else s.errCode)
        ∧ (s.ready = true → (t.die d).winError = true ∧ (t.die b).winError = true)
        ∧ ∀ h, s.ready = true → (s.launch h).state = .running → (s.launch h).handle = h →
            (t.launch h).state = .ending ∧ (t.launch h).cause = 0x15)
    ∧ (s.ready = true → s.inp.idx < 48 → 10 ≤ max (tabGet 0 (s.die d).trained s.inp.idx) s.inp.temp
          - min (tabGet 0 (s.die d).trained s.inp.idx) s.inp.temp →
        ∃ t, exec .lpddrDqRetrain s = .next t ∧ tabGet 0 (t.die d).trained s.inp.idx = s.inp.temp ∧ t.mem = s.mem)

/-- R16 to R19, R22, R23, R29, R226 to R228, R234, R239, R242, R71: what the package's parts do after bring-up. A governor's window ends
1 ms after the last one; a glint replay is counted for its column or engine and in its die's window. An error of the operand buffer is
consumed by the engine operation that read it, which has no effect, nor has a younger one. The model's own: how a frame's size
is counted (assumption 63), its checksums (65), the replay rate (66), which die the power cap moves (53), and how a control core enters
exception 19 (9, of the RISC-V manuals). -/
def Obligations.PackageParts : Prop :=
  ∀ (s : State),
    let i := s.inp
    let d := i.die
    let n := i.port
    let tooLong := 9216 < frameSize i.frame
    let p := s.ethPort n
    let a := i.addr.toNat
    let k := i.v.toNat
    let out := frameOf (s.rdBytes a k)
    s.ready = true →
    (s.now - s.windowAt < 1000000 → exec .governorWindow s = .next s)
    ∧ (tabWf {} s.slots = true → 1000000 ≤ s.now - s.windowAt → ∃ t, exec .governorWindow s = .next t
        ∧ t.windowAt = s.windowAt + 1000000 ∧ (s.powered = true → s.tripped = false → (∃ e, e < 4 ∧ 115 ≤ (s.meas e).temp) → t.tripped = true ∧ t.errCode ≠ 0)
        ∧ ∀ e, e < 4 → (t.die e).winReplays = 0 ∧ (t.die e).winError = false
          ∧ (105 < (s.meas e).temp → (t.die e).point = 4)
          ∧ (s.capDie ≠ some e → (s.meas e).temp ≤ 105 → (s.die e).point ≠ 4 →
            ((s.die e).winError = true → (t.die e).point = 0 ∧ (t.die e).holdN = s.now + 1000000000)
            ∧ ((s.die e).winError = false → 100 * max 1 (s.issuedIn e) < (s.die e).winReplays * 1000000 →
                (t.die e).point = (s.die e).point - 1)))
    ∧ ((s.die d).changing.isSome = true → ∃ t, exec .operatingPointChangeDone s = .next t ∧ (t.die d).changing = none
        ∧ (t.die d).point = (s.die d).point)
    ∧ exec .fieldRecordFlush s = .next { s with fieldSaved := s.fieldNow, flushedAt := s.now }
    ∧ (∃ t, exec .scrub s = .next t ∧ t.mem = s.mem
        ∧ ∀ l, tabGet false t.poison l = (i.uncorrectable.contains l || tabGet false s.poison l))
    ∧ (n < 2 → n < s.eth.length → p.up = true → (n = 0 → i.frame.etherType = 0x88B5 → tooLong) →
        (tooLong ∨ s.backedRange a (frameBytes i.frame).length = true) → ∃ t, exec .ethFrameReceive s = .next t
        ∧ (t.ethPort n).rx = (if tooLong then p.rx else p.rx ++ [(i.frame, a, s.now, frameGood i.frame)])
        ∧ (t.ethPort n).dropped = (if tooLong then p.dropped + 1 else p.dropped)
        ∧ (tooLong → t.mem = s.mem) ∧ (¬ tooLong → t.rdBytes a (frameBytes i.frame).length = frameBytes i.frame))
    ∧ (n < 2 → n < s.eth.length → p.up = true → k ≤ 9220 → s.backedRange a k = true → ∃ t, exec .ethFrameTransmit s = .next t
        ∧ (t.ethPort n).tx = (if 9216 < frameSize out then p.tx else p.tx ++ [(frameFilled out, s.now)])
        ∧ (t.ethPort n).dropped = (if 9216 < frameSize out then p.dropped + 1 else p.dropped) ∧ t.mem = s.mem)
    ∧ (s.powered = true → n < 2 → n < s.eth.length → ∃ t, exec .ethLinkStateChange s = .next t ∧ (t.ethPort n).up = i.ok)
    ∧ (n < 4 → n < s.cxl.length → ∃ t, exec .cxlLinkTrain s = .next t
        ∧ (i.ok = true → cxlSupported i.device = true → 4 ≤ i.width → 16 ≤ i.rate → (t.cxlPort n).trained = true ∧ (t.cxlPort n).width ≤ i.width
            ∧ (t.cxlPort n).width ∈ [16, 8, 4] ∧ (t.cxlPort n).rate ≤ i.rate ∧ (t.cxlPort n).rate ∈ [64, 32, 16])
        ∧ (i.ok = false → (t.cxlPort n).trained = false)
        ∧ (cxlSupported i.device = (decide (i.device.type = 3) && i.device.hdmH && !i.device.backInvalidate
            && decide (i.device.switches ≤ 1)))
        ∧ (cxlSupported i.device = false → (t.cxlPort n).trained = false ∧ (t.cxlPort n).unsupported = true))
    ∧ (i.v ≠ 0 → ∃ t, exec .cxlDeviceRemoved s = .next t ∧ (i.addr.toNat, i.v.toNat) ∈ t.removed
        ∧ ∀ x ∈ t.decoders, x.base + x.size ≤ i.addr.toNat ∨ i.addr.toNat + i.v.toNat ≤ x.base)
    ∧ (n < 4 → n < s.cxl.length → ∃ t, exec .cxlLinkDown s = .next t ∧ (t.cxlPort n).trained = false)
    ∧ (n < 32 → ∃ t, exec .ndenathPortStateChange s = .next t
        ∧ ∀ k, k < 32 → t.fabUp.getLsbD k = if k = n then i.ok else s.fabUp.getLsbD k)
    ∧ (i.bad = false → ∃ t, exec .glintReplay s = .next t ∧ t.groups = s.groups ∧ t.mem = s.mem
        ∧ (let r : Rec := if i.idx = 0 then .glintSlot i.slot i.lane else .glintEngine i.quad
           let e := if i.idx = 0 then i.slot / 576 else i.quad / 36
           recCount t.live r = min (recCount s.live r + 1) r.cap ∧ recCount t.fieldNow r = min (recCount s.fieldNow r + 1) r.cap
             ∧ (t.die e).winReplays = (s.die e).winReplays + 1))
    ∧ (∀ o, i.source = 3 → (s.group i.gid).engineOps[i.idx]? = some o → (s.cluster (s.group i.gid).ck).state = .placed →
        ∃ t x, exec .uncorrectableConsume s = .next t ∧ (t.cluster (s.group i.gid).ck).state = .frozen
          ∧ (∀ m ∈ (t.group i.gid).mats, m.id < o.1) ∧ (∀ m ∈ (t.group i.gid).tiles, m.id < o.1)
          ∧ (t.cluster (s.group i.gid).ck).snap = some x ∧ x.gid = i.gid ∧ x.source = 3 ∧ x.pc = o.2 ∧ x.lanes = allLanes)
    ∧ (1 ≤ i.source → i.source ≤ 11 → i.source ≠ 8 → i.source ≠ 3 → (s.group i.gid).live = true → (s.group i.gid).stopped = false →
        (s.cluster (s.group i.gid).ck).state = .placed → ∃ t, exec .uncorrectableConsume s = .next t
          ∧ (t.cluster (s.group i.gid).ck).state = .frozen
          ∧ (4 ≤ i.source → i.source ≤ 6 → tabGet false t.poison (a / 128) = true)
          ∧ (i.source = 7 ∨ i.source = 11 → s.inSheet a = true → tabGet false t.poison (a / 128) = true)
          ∧ ∃ x, (t.cluster (s.group i.gid).ck).snap = some x ∧ x.gid = i.gid ∧ x.source = i.source ∧ x.lanes = i.lanes
              ∧ x.pc = (if i.source = 7 then 0 else (s.issueOf i.gid).pc)
              ∧ (x.die, x.unit, x.addr) = s.partOf i.gid i.source a k)
    ∧ (∃ t, exec .controlCoreHwError s = .next t ∧ t.hart i.hart = (s.hart i.hart).takeException 19 i.addr
        ∧ (∀ k, k ≠ i.hart → t.hart k = s.hart k)
        ∧ (s.backed a = true → tabGet false t.poison (a / 128) = true ∧ (t.die (errorAt (a / 128 * 128) 0).2.1).winError = true)
        ∧ (s.backed a = false → t.poison = s.poison ∧ (t.die (i.hart / 4)).winError = true))

/-! ### Events: owners, requesters, copies -/

/-- R31 to R36, R43 to R46, R49, R237: what an owner does with what reaches it. A flit that ends a good packet hands it on; a load is
answered each time; a watermarked request executes once for its key and serial, and any later copy of it is answered from the
cache and writes nothing; notices, restarts and the drain of held updates. The model's own: a request with a lane that nothing backs is
dropped whole (assumption 68), a restart during a restart or a quarantine (51), a duplicate of a launch's notice changes no record and no mark (83). -/
def Obligations.OwnerPackets : Prop :=
  (∀ (s : State),
    let i := s.inp
    let p := i.pkt
    let goodFlit : Prop := s.fabUp.getLsbD i.port = true ∧ i.errs0 ≤ 4 ∧ i.errs1 ≤ 4
    let good : Prop := goodFlit ∧ i.crc = packetCrc p ∧ p.age ≤ Config.maxAge ∧ p.dst ≠ 0xFFFF
    (¬ goodFlit → exec .flitReceive s = .next s)
    ∧ (goodFlit → i.crc ≠ packetCrc p → exec .flitReceive s = .next (s.count (.crcFail i.port)))
    ∧ (good → (9 < p.kind.toNat → exec .flitReceive s = .next (s.count .discarded))
        ∧ ∀ e, packetStep p = some e → p.dst = s.image.pkgnum → p.src ≠ s.image.pkgnum →
          exec .flitReceive s = .next { s with sched := .event e i :: s.sched }))
  ∧ (∀ (s u : State),
    let p := s.inp.pkt
    let o := u.owner p.owner
    let d := o.dir.find? fun d => d.isOf p
    let floor := (d.map fun d => if later p.ackpt d.floor then p.ackpt else d.floor).getD p.ackpt
    let full := d = none ∧ Config.directoryKeys ≤ o.dir.length
    let answering := o.answers = true ∧ o.endedFor u.now p = false ∧ u.reaches p = true
    s.takePacket p = some u →
    (∀ n sg, p.kind = 0 → p.op = .load n sg → o.answers = true → u.reaches p = true → ∃ q, exec .loadRequest s = .next (u.emit q) ∧ q.kind = 1 ∧ q.dst = p.src
        ∧ q.lhandle = p.lhandle ∧ q.key = p.key ∧ q.serial = p.serial
        ∧ q.recs = p.recs.map fun r => { lane := r.lane, pa := 0, check := r.check, va := 0
                                         data := if u.laneBad p.op r then [] else loadWords n sg (u.rdLe r.pa.toNat n) })
    ∧ (∀ n sg, p.kind = 0 → p.op = .load n sg → (o.answers = false ∨ u.reaches p = false) → exec .loadRequest s = .next u)
    ∧ (∀ w gen mode r, p.kind = 0 → p.op = .cline w gen mode → p.recs = [r] → o.answers = true → u.reaches p = true → u.laneBad p.op r = false →
        ∃ q, exec .clineRequest s = .next ((u.declareLine p.owner r.pa.toNat w gen mode).1.emit q) ∧ q.kind = 1 ∧ q.dst = p.src
          ∧ q.serial = p.serial ∧ q.recs.map LaneRec.data = [[(u.declareLine p.owner r.pa.toNat w gen mode).2]])
    ∧ (p.kind = 2 → ¬ answering → exec .watermarkedRequest s = .next u)
    ∧ (p.kind = 2 → answering → full → exec .watermarkedRequest s = .next (u.emit (u.reply p 5)))
    ∧ (p.kind = 2 → answering → ¬ full → ∃ t x, exec .watermarkedRequest s = .next t ∧ (∀ e ∈ x.cache, e ∈ o.cache)
        ∧ x.hold = o.hold ∧ x.lines = o.lines ∧ x.incarn = o.incarn
        ∧ (later floor p.serial = true → t = (u.setOwner p.owner x).countLive (.stale p.owner))
        ∧ (later floor p.serial = false → t = (u.setOwner p.owner x).lookup p))
    ∧ (p.kind = 4 → p.alone = false → o.answers = true → o.endedFor u.now p = false → (d = none → exec .releaseNotice s = .next (u.setOwner p.owner o))
        ∧ ∀ x, d = some x → ∃ t, exec .releaseNotice s = .next t ∧ (∀ k, k ≠ p.owner → t.owner k = u.owner k) ∧ t.mem = u.mem
            ∧ (t.owner p.owner).cache = o.cache.filter fun e =>
                !(e.isOf p && (later floor e.serial || 2 ^ 31 < (x.newest - e.serial).toNat)))
    ∧ (p.kind = 4 → p.alone = true → (∀ k, k < 68 → (u.owner k).answers = true) → u.endedBefore p.src p.lhandle = true →
        exec .releaseNoticeLaunchEnd s = .next ((u.ownersAgain p.src p.lhandle).emit { (u.ownersAgain p.src p.lhandle).reply p 9 with alone := true })
          ∧ ∀ k, (u.ownersAgain p.src p.lhandle).owner k = { u.owner k with ended := ((u.ownersAgain p.src p.lhandle).owner k).ended }
            ∧ ∀ q, ((u.ownersAgain p.src p.lhandle).owner k).endedFor u.now q = (u.owner k).endedFor u.now q)
    ∧ (p.kind = 4 → p.alone = true → (∃ k, k < 68 ∧ (u.owner k).answers = false) → exec .releaseNoticeLaunchEnd s = .next u)
    ∧ (p.kind = 4 → p.alone = true → (∀ k, k < 68 → (u.owner k).answers = true) → u.endedBefore p.src p.lhandle = false →
        ∃ t, exec .releaseNoticeLaunchEnd s = .next t ∧ t.mem = u.mem ∧ ∀ k, k < 68 → (∀ e ∈ (t.owner k).cache, ¬ (e.src = p.src ∧ e.handle = p.lhandle))
            ∧ (∀ x ∈ (t.owner k).dir, ¬ (x.src = p.src ∧ x.handle = p.lhandle)) ∧ (t.owner k).endedFor u.now p = true))
  ∧ (∀ (u : State) (p : Packet),
    let o := u.owner p.owner
    let e := o.cache.find? fun e => e.isOf p && e.serial = p.serial
    let held (e : Entry) (r : LaneRec) (same : Bool) : Prop := ∃ x ∈ e.recs, x.1 = r.lane ∧ (x.2.1 = r.check ↔ same = true)
    let lost : Prop := o.quarantined u.now = true ∧ p.retx = true
    let room : Prop := o.used + opSize p.op ≤ cacheRoom p.owner ∧ u.opBusy p = false
    let once := u.executeOnce p none p.recs
    (e = none → lost → u.lookup p = u.emit { u.reply p 6 with reason := 2 })
    ∧ (e = none → ¬ lost → ¬ room → u.lookup p = u.emit (u.reply p 5))
    ∧ (e = none → ¬ lost → room → u.lookup p = once)
    ∧ (∀ x, e = some x → x.lost = true → u.lookup p = u.emit { u.reply p 6 with reason := 2 })
    ∧ (∀ x, e = some x → x.lost = false → (∃ r ∈ p.recs, held x r false) → u.lookup p = u.emit { u.reply p 6 with reason := 3 })
    ∧ (∀ x, e = some x → x.lost = false → (∀ r ∈ p.recs, held x r true ∧ ¬ held x r false) →
        (u.lookup p).mem = u.mem ∧ (u.lookup p).owners = u.owners ∧ (u.lookup p).net = (u.emit (u.resultOf p 3 x)).net)
    ∧ once.mem = (u.serveLanes p p.recs).1.mem ∧ (once.lookup p).mem = once.mem ∧ (once.lookup p).owners = once.owners)
  ∧ ∀ (s : State),
    let i := s.inp
    let n := i.owner
    let o := s.owner n
    let l := s.launch i.handle
    let others (t : State) : Prop := ∀ k, k ≠ n → t.owner k = s.owner k
    (∃ t, exec .launchEndMarkExpiry s = .next t ∧ others t ∧ (t.owner n).cache = o.cache
        ∧ ∀ q, (t.owner n).endedFor s.now q = true ↔ ∃ e ∈ o.ended, e.src = q.src ∧ e.handle = q.lhandle ∧ e.live = true
            ∧ s.now < e.since + us 500 ∧ ¬ (e.src = i.pkg ∧ e.handle = i.handle ∧ e.since + us 250 ≤ s.now))
    ∧ (∃ t x, exec .ownerRestart s = .next t ∧ others t ∧ t.owner n = { o with phase := x }
        ∧ (o.phase = .serving → x = .silent (s.now + us 250) (!i.ok) none)
        ∧ (∀ e, o.phase = .quarantine e → x = .silent (s.now + us 250) (!i.ok) (some e))
        ∧ (∀ till lost q, o.phase = .silent till lost q → x = .silent (s.now + us 250) (lost || !i.ok) q))
    ∧ (∀ till q, o.phase = .silent till false q → till ≤ s.now → ∃ t, exec .ownerRestore s = .next t ∧ others t
        ∧ t.owner n = { o with incarn := o.incarn + 1, phase := (q.map Phase.quarantine).getD .serving })
    ∧ (∀ till q, o.phase = .silent till true q → till ≤ s.now → ∃ t, exec .ownerRestore s = .next t ∧ others t
        ∧ t.owner n = { o with incarn := o.incarn + 1, cache := [], dir := [], phase := .quarantine (s.now + us 3500) })
    ∧ (∀ till, o.phase = .quarantine till → till ≤ s.now → ∃ t, exec .quarantineEnd s = .next t ∧ others t
        ∧ t.owner n = { o with phase := .serving })
    ∧ (i.pkg = s.image.pkgnum → l.state = .ending → l.determ = true → ∃ t, exec .heldDrain s = .next t
        ∧ (∀ e ∈ (t.owner n).hold ++ (t.owner n).log.flatten, e.owner ≠ (i.pkg, i.handle)) ∧ others t
        ∧ (l.cause ≠ 0 → t.mem = s.mem)
        ∧ (l.cause = 0 →
            let mine (x : List HeldOp) : List HeldOp := x.filter fun e => e.owner = (i.pkg, i.handle)
            let all := holdMerge (o.log.map mine ++ [mine o.hold])
            t.mem = (all.foldl (fun v e => (v.applyHeld e).1) s).mem ∧ (t.launch i.handle).held = l.held + all.length))

/-- R39 to R42, R45, R237: what becomes of a request after its issue: its reply, a busy reply, an unknown outcome, its retransmissions
by the schedule, its release notices. -/
def Obligations.RequesterPackets : Prop :=
  (∀ (s u : State) (gid : Nat) (o : OutReq) (wm : Bool),
    let p := s.inp.pkt
    let g := u.group gid
    let gone (t : State) : Prop := ∀ x ∈ (t.group gid).outs, x.seq ≠ o.seq
    let word (k l : Nat) : Word :=
      ((if opBroad o.packet.op then p.recs.head? else p.recs.find? fun r => r.lane = l).map fun r => r.data.getD k 0).getD 0
    let lands (t : State) : Prop := gone t ∧ (t.group gid).fpflags = mergeFlags g.fpflags p.flags
      ∧ ∀ x ∈ g.late, x.isOf o = true → o.lanes ≠ 0 → ∃ y ∈ (t.group gid).late, y.ready = true ∧ y.dst = x.dst
          ∧ y.regs = (x.regs.map fun r => (r.1, r.2 &&& o.lanes))
          ∧ ∀ k d, x.dst[k]? = some d → ∃ row ∈ y.rows, row.1 = d ∧ ∀ l, l < 32 → laneAt row.2 l = word k l
    let lost : Lanes := if opBroad o.packet.op || p.recs.isEmpty then o.lanes else p.lanes &&& o.lanes
    let first : Prop := ∀ w ∈ g.unknowns, w.op = o.serial → w.wm ≠ o.watermarked
    s.takePacket p = some u → u.matchReply p wm = some (gid, o) →
    (wm = true → p.kind = 3 → p.bad = 0 → ∃ t, exec .resultReply s = .next t ∧ lands t)
    ∧ (wm = false → p.kind = 1 → p.bad = 0 → ∃ t, exec .loadReply s = .next t ∧ lands t)
    ∧ (wm = true → p.kind = 3 → p.bad ≠ 0 →
        let c := u.closeRequest gid o
        let k := (c.group gid).ck
        ∃ t, exec .resultReply s = .next t ∧ gone t
          ∧ ((c.cluster k).state ≠ .frozen → (c.cluster k).state ≠ .ended → (t.cluster k).state = .frozen
              ∧ ∃ x, (t.cluster k).snap = some x ∧ x.gid = gid ∧ x.pc = o.pc ∧ x.lanes = p.bad))
    ∧ (wm = true → p.kind = 5 → ∃ t, exec .busyReply s = .next t ∧ t.mem = u.mem
        ∧ (t.group gid).outs = g.outs.map fun y => if y.seq = o.seq then { y with busy := true, next := s.now + us 16 } else y)
    ∧ (wm = true → p.kind = 6 → (∀ x ∈ g.late, x.isOf o = true → ∀ r ∈ x.regs, r.1 < 0x2000) →
        ∃ t, exec .unknownReply s = .next t ∧ gone t
          ∧ ∃ v ∈ (t.group gid).unknowns, v.op = o.serial ∧ v.wm = true ∧ lost &&& ~~~v.lanes = 0
              ∧ (first → v.serial = o.serial ∧ v.reason = p.reason ∧ v.pc = o.pc ∧ v.seq = o.order ∧ v.lanes = lost)))
  ∧ (∀ (s u : State),
    let p := s.inp.pkt
    s.takePacket p = some u →
      (p.kind = 3 → u.matchReply p true = none → exec .resultReply s = .next u)
      ∧ (p.kind = 1 → u.matchReply p false = none → exec .loadReply s = .next u))
  ∧ ∀ (s : State) (o : OutReq),
    let i := s.inp
    let g := s.group i.gid
    let wait : Nat := [16, 32, 64, 128, 256, 512, 1000, 1000].getD o.tries 1000
    let sent (t : State) (p : Packet) : Prop :=
      t.net = if p.dst ≠ s.image.pkgnum ∧ s.fabUp = 0 then s.net else s.net ++ [{ p with sent := s.now }]
    let again : Packet := { o.packet with ackpt := g.ackpt, retx := true }
    let due := g.notices.any fun n => n.1 = i.pkg && n.2.1 = i.owner && s.now ≤ n.2.2 + us 4
    (g.outs[i.idx]? = some o →
      (s.sends i.gid = true → o.held = false → o.busy = false → o.tries < 8 → o.next ≤ s.now →
        ∃ t, exec .requestRetransmit s = .next t ∧ sent t again
          ∧ (t.group i.gid).outs[i.idx]? = some { o with
              tries := o.tries + 1, next := o.next + us wait, first := false, packet := again, port := s.portFor again o.port })
      ∧ (o.next > s.now → exec .requestRetransmit s = .next s)
      ∧ (s.sends i.gid = true → o.busy = true → o.next ≤ s.now →
        ∃ t, exec .busyResend s = .next t ∧ sent t again
          ∧ (t.group i.gid).outs[i.idx]? = some { o with
              tries := 1, start := s.now, next := s.now + us 16, busy := false, first := false, packet := again
              port := s.portFor again o.port })
      ∧ (s.sends i.gid = true → o.held = false → o.busy = false → o.start + us 3008 ≤ s.now →
        (∀ x ∈ g.late, x.isOf o = true → ∀ r ∈ x.regs, r.1 < 0x2000) →
        ∃ t, exec .scheduleExhausted s = .next t ∧ (∀ x ∈ (t.group i.gid).outs, x.seq ≠ o.seq)
          ∧ ∃ v ∈ (t.group i.gid).unknowns, v.op = o.serial ∧ v.wm = o.watermarked ∧ o.lanes &&& ~~~v.lanes = 0
              ∧ ((∀ w ∈ g.unknowns, w.op = o.serial → w.wm ≠ o.watermarked) → v.reason = 1 ∧ v.lanes = o.lanes ∧ v.seq = o.order
                  ∧ v.pc = o.pc ∧ v.serial = if o.watermarked then o.serial else 0)))
    ∧ (g.live = true → due = true → ∃ p, exec .requesterReleaseNotice s = .next ((s.setGroup i.gid { g with
          notices := g.notices.filter fun n => !(n.1 = i.pkg && n.2.1 = i.owner) }).emit p) ∧ p.kind = 4 ∧ p.dst = i.pkg ∧ p.owner = i.owner
        ∧ p.lhandle = keyHandle (groupTeam i.gid) ∧ p.key = requesterKey (s.launchOf i.gid).ctx i.gid ∧ p.ackpt = g.ackpt
        ∧ p.alone = false)
    ∧ (due = false → exec .requesterReleaseNotice s = .next s)
    ∧ (∀ r, (s.releases.find? fun r => r.handle = i.handle && r.pkg = i.pkg) = some r → r.next ≤ s.now →
        ∃ t p, exec .releaseNoticeResend s = .next t ∧ sent t p ∧ p.kind = 4 ∧ p.alone = true ∧ p.retx = true ∧ p.dst = i.pkg
          ∧ p.lhandle = i.handle ∧ { r with sends := r.sends + 1, next := r.next + us (retryWait (r.sends + 1)), port := s.portFor p r.port } ∈ t.releases)

/-- R36, R45, R69, R116, R137, R352: the steps of a copy: another package's chunks served; its own chunks land whole or not at all, are
retransmitted, acknowledged and retired in order; a fault's verdict lets it go on or fails it. The model's own: a chunk or a read request
that is not wholly served is dropped whole (assumption 68); a chunk waits for the older accesses of its bytes (41, its reading of R151); a copy
whose chunk is never acknowledged fails at that chunk's first destination byte (54: the last clause of the retransmissions). -/
def Obligations.CopySteps : Prop :=
  (∀ (s u : State),
    let p := s.inp.pkt
    let served := u.copyServed p = true
    s.takePacket p = some u →
    (p.kind = 7 → served → ∃ t, exec .copyWriteChunk s = .next t
        ∧ t.mem = ((writePieces p.recs p.bytes).foldl (fun s x => s.memWrite x.1 x.2) u).mem
        ∧ ∃ q, t.net = (u.emit q).net ∧ q.kind = 9 ∧ q.dst = p.src ∧ q.copyId = p.copyId ∧ q.chunk = p.chunk)
    ∧ (p.kind = 7 → ¬ served → exec .copyWriteChunk s = .next u)
    ∧ (p.kind = 8 → served → ∃ q, exec .copyReadRequest s = .next (u.emit q) ∧ q.kind = 9 ∧ q.dst = p.src ∧ q.copyId = p.copyId
        ∧ q.chunk = p.chunk
        ∧ ((∀ r ∈ p.recs, u.rangeBad r.pa.toNat (recLen r) = false) → q.bad = 0 ∧ q.recs = p.recs
            ∧ q.bytes = p.recs.flatMap fun r => u.rdBytes r.pa.toNat (recLen r))
        ∧ ((∃ r ∈ p.recs, u.rangeBad r.pa.toNat (recLen r) = true) → q.bad ≠ 0 ∧ q.bytes = []))
    ∧ (p.kind = 9 → p.alone = true → (∃ r ∈ u.releases, r.handle = p.lhandle ∧ r.pkg = p.src) → ∃ t, exec .copyAck s = .next t
        ∧ (∀ r, r ∈ t.releases ↔ r ∈ u.releases ∧ ¬ (r.handle = p.lhandle ∧ r.pkg = p.src)))
    ∧ (p.kind = 9 → p.alone = false → ∀ c m, (u.group (keyGroup p.lhandle p.key)).copy p.copyId = some c → c.chunk = p.chunk →
        c.unacked = [m] →
        let gid := keyGroup p.lhandle p.key
        let mine : Prop := m.packet.dst = p.src ∧ m.packet.addr = p.addr ∧ m.packet.kind.toNat = p.oper.toNat
        (¬ mine → exec .copyAck s = .next u)
        ∧ (mine → p.oper = 7 → c.written = true → ∃ t d, exec .copyAck s = .next t ∧ (t.group gid).copy p.copyId = some d
            ∧ d.chunk = c.chunk + 1 ∧ d.unacked = [] ∧ d.written = false
            ∧ d.state = if c.size ≤ 4096 * (c.chunk + 1) then .done else .running)
        ∧ (mine → p.oper = 8 → p.bad = 0 → ∃ t, exec .copyAck s = .next t ∧ (t.group gid).copy p.copyId = some { c with
              unacked := [], got := c.got ++ ackPieces p.src p.recs p.bytes })
        ∧ (mine → p.oper = 8 → p.bad ≠ 0 → ∃ t d a, exec .copyAck s = .next t ∧ (t.group gid).copy p.copyId = some d
            ∧ d.state = .failed a)))
  ∧ ∀ (s : State),
    let i := s.inp
    let gid := i.gid
    let g := s.group gid
    (∀ c, g.copy i.copyId = some c → c.moves = true → s.copiesRun gid = true →
        let lo := 4096 * c.chunk
        let hi := min (lo + 4096) c.size
        let u := s.copyChunk gid c
        let ws := s.olderWrites gid c
        let first (ps : List (Piece × Place)) : Prop := (∀ y ∈ ps, ∀ w ∈ ws, Span.meets (y.2, y.1.n) w = false)
          ∧ ∀ x ∈ s.copyLines gid c lo hi, s.olderPending c x = false
        exec .copyChunkLand s = .next (u.tidy gid)
        ∧ (s.obBusy gid c = true → u = s)
        ∧ (s.obBusy gid c = false → ∀ x ps, s.chunkData gid c ws = .ok x → x.missing = [] → c.ob = false →
            s.dstPlaces gid { c with spos := x.spos } (c.dstPieces lo hi) = .ok ps → ¬ first ps → u = s)
        ∧ (s.obBusy gid c = false → ∀ x ps, s.chunkData gid c ws = .ok x → x.missing = [] → c.ob = false →
            s.dstPlaces gid { c with spos := x.spos } (c.dstPieces lo hi) = .ok ps → (∀ y ∈ ps, y.2.kind ≤ 1) → first ps →
            u.mem = (ps.foldl (fun v y => v.memWrite y.2.pa (cutBytes x.bytes lo y.1)) s).mem
            ∧ ∃ e, (u.group gid).copy i.copyId = some e ∧ e.chunk = c.chunk + 1
                ∧ e.state = if c.size ≤ 4096 * (c.chunk + 1) then .done else .running)
        ∧ (s.obBusy gid c = false → ∀ a, s.chunkData gid c ws = .error (.failed a) → u.mem = s.mem
            ∧ ∃ e, (u.group gid).copy i.copyId = some e ∧ e.state = .failed a))
    ∧ (∀ c rest, g.copies = c :: rest →
        (c.state = .done → exec .copyComplete s = .next ((s.setGroup gid { g with copies := rest }).tidy gid))
        ∧ (∀ a, c.state = .failed a → exec .copyComplete s = .next ((s.setGroup gid { g with
              copies := rest
              copyFails := g.copyFails ++ [{ seq := c.seq, cause := 0x12, addr := a, pc := c.pc, lanes := c.run }] }).tidy gid)))
    ∧ (∀ c m, g.copy i.copyId = some c → c.unacked[i.idx]? = some m → m.next ≤ s.now → s.chunkRuns gid c = true →
        (m.tries < 8 → ∃ t d, exec .copyChunkRetransmit s = .next t ∧ (t.group gid).copy i.copyId = some d
            ∧ d.unacked[i.idx]? = some { m with tries := m.tries + 1, next := m.next + us (retryWait (m.tries + 1)), port := s.portFor m.packet m.port }
            ∧ t.net = (s.emit { m.packet with retx := true }).net)
        ∧ (8 ≤ m.tries → ∃ t d, exec .copyChunkRetransmit s = .next t ∧ (t.group gid).copy i.copyId = some d
            ∧ d.state = .failed (c.dstAt (4096 * c.chunk))))
    ∧ (∀ k c, s.faulted i.die i.faultId = some (k, c) →
        let answered (t : State) : Prop := ∀ f ∈ (t.die i.die).copyFaults, f.1 ≠ i.faultId
        (∃ t d, exec .copyFaultRetry s = .next t ∧ answered t ∧ (t.group k).copy c.id = some d ∧ d.state = .running
          ∧ d.chunk = c.chunk ∧ t.mem = s.mem)
        ∧ (∃ t d, exec .copyFaultFail s = .next t ∧ answered t ∧ (t.group k).copy c.id = some d
          ∧ d.state = .failed (c.dstAt (4096 * c.chunk))))

/-! ### Events: launches, translation, placement -/

/-- R61 to R64, R67, R45, R80, R236, R238: the life of a launch. Of the eligible heads one that no other precedes is dispatched; a
dependence's cause other than 0 ends it; the watchdog ends it; its end releases everything of it once nothing is left to drain.
Its completion word, HANDLE, CAUSE and TEAM, goes to DONE, or a kind-4 record says that it could not (R63, R414). The supervisor relaunches a
frozen cluster at its team start, or ends the launch; that the groups' copies are discarded then (assumption 48), that REPLAY
keeps an earlier mark that a group had not reached (46), and what the launch unit's write reaches (33) are the model's readings; that a
launch's end has the number of its step as its time (`endedAt`) is the model's choice (84). -/
def Obligations.LaunchLife : Prop :=
  ∀ (s : State),
    let i := s.inp
    let h := i.handle
    let l := s.launch h
    (s.heads = [] → exec .launchDispatch s = .next s)
    ∧ (s.heads ≠ [] → ∃ t k, exec .launchDispatch s = .next t ∧ k ∈ s.heads ∧ (∀ x ∈ s.heads, s.firstLaunch x k = false)
        ∧ (t.launch k).state = .running ∧ (t.launch k).prio = (s.launch k).prio
        ∧ tabGet [] t.queues (s.launch k).queue = (tabGet [] s.queues (s.launch k).queue).drop 1
        ∧ ∀ c, c < (s.launch k).teams / ((s.launch k).cw * (s.launch k).ch) →
            (t.cluster (clusterKey k c)).state = .pending ∧ (t.cluster (clusterKey k c)).handle = k
              ∧ (t.cluster (clusterKey k c)).index = c ∧ (t.cluster (clusterKey k c)).since = s.now)
    ∧ (∀ d c, l.state = .queued → l.deps[i.idx]? = some d → l.answer d = some c → ∃ t, exec .dependenceAnswer s = .next t
        ∧ (t.launch h).deps = l.deps.eraseIdx i.idx ∧ (c = 0 → (t.launch h).state = .queued)
        ∧ (c ≠ 0 → (t.launch h).state = .ending ∧ (t.launch h).cause = 0xFF ∧ h ∉ tabGet [] t.queues l.queue))
    ∧ (∀ d, (s.depAnswer d = none ↔ (s.launch d).state ∈ [LaunchState.queued, .running, .ending])
        ∧ ((s.launch d).state = .ended → s.depAnswer d = some (s.launch d).cause) ∧ ((s.launch d).state = .none → s.depAnswer d = some 0))
    ∧ (l.state = .running → us l.watchdog ≤ l.resident → ∃ t, exec .watchdogExpiry s = .next t
        ∧ (t.launch h).state = .ending ∧ (t.launch h).cause = 0x16)
    ∧ (l.state = .running → l.resident < us l.watchdog → exec .watchdogExpiry s = .next s)
    ∧ (l.state = .ending → s.drained h = true → ∃ t, exec .launchEnd s = .next t
        ∧ (t.launch h).state = .ended ∧ (t.launch h).endedAt = s.fresh ∧ (t.launch h).cause = l.cause
        ∧ t.mem = ((((s.releaseAll h).writeReport h).retireLaunch h).writeDone h).mem
        ∧ (∀ g ∈ t.groups, keyHandle (groupTeam g.1) ≠ h) ∧ (∀ c ∈ t.teams, c.2.handle ≠ h) ∧ (∀ c ∈ t.clusters, c.2.handle ≠ h)
        ∧ (∀ o, o < 68 → ∀ e ∈ (t.owner o).cache, ¬ (e.src = s.image.pkgnum ∧ e.handle = h))
        ∧ (∀ k, k ≠ h → h ∈ (s.launch k).deps → (t.launch k).answers = (s.launch k).answers ++ [(h, l.cause)])
        ∧ ∀ p ∈ l.pkgs, { handle := h, pkg := p, sends := 1, next := s.now + us 16, port := s.portFor (s.endNotice h p) none } ∈ t.releases)
    ∧ (s.drained h = false → exec .launchEnd s = .next s)
    ∧ (let w := s.unitWrite (handleDie h) l.ctx l.done 8 (completionWord h l.cause l.team).toNat 0x201
       (l.done = 0 → s.writeDone h = s)
       ∧ (l.done ≠ 0 → ∀ t, w = some t → s.writeDone h = t
          ∧ ∀ p, s.unitPlace (handleDie h) l.ctx l.done true 0x201 = some p → s.unitFar p = false → s.isRemoved p.pa = false →
              s.backedRange p.pa 8 = true →
              leVal (t.rdBytes p.pa 8) = h.toNat * 2 ^ 32 + l.cause % 2 ^ 8 * 2 ^ 24 + l.team % 2 ^ 24)
       ∧ (l.done ≠ 0 → w = none → s.writeDone h = s.log (handleDie h)
            { kind := 4, handle := h, id := BitVec.ofNat 64 (l.ctx.toNat * 2 ^ 48), code := BitVec.ofNat 32 l.cause, addr := l.done }))
    ∧ (∃ t, exec .faultLogConsume s = .next t ∧ (t.die i.die).logCons = i.v.setWidth 12
        ∧ ((s.die i.die).logWait = [] → t.mem = s.mem ∧ (t.die i.die).logProd = (s.die i.die).logProd))
    ∧ (∀ x, (s.cluster i.ck).snap = some x → (s.cluster i.ck).state = .frozen →
        let c := s.cluster i.ck
        let k := s.launch c.handle
        let gs := (s.teamsOf i.ck).flatMap s.groupsOf
        let again : Prop := k.relaunch = true ∧ s.committed i.ck = false ∧ c.relaunches < 3
        k.state = .running →
        (again → gs.Nodup → ∃ t, exec .supervisorDecision s = .next t ∧ (t.cluster i.ck).state = .pending
          ∧ (t.cluster i.ck).resumed = true ∧ (t.cluster i.ck).relaunches = c.relaunches + 1 ∧ (t.cluster i.ck).snap = none
          ∧ ∀ g ∈ gs, (t.group g).ckpt = some (startCkpt (s.launchOf g) (newer (s.group g).replay (s.group g).wserial)) ∧ (t.group g).live = false
              ∧ (t.group g).outs = [] ∧ (t.group g).copies = [])
        ∧ (¬ again → ∃ t, exec .supervisorDecision s = .next t ∧ (t.launch c.handle).state = .ending
            ∧ (t.launch c.handle).cause = 0x15 ∧ (t.launch c.handle).team = teamIndex (groupTeam x.gid)))

/-- R129, R136, R9, R26: the registers of the control-core range. An invalidation takes what the registers name when it starts, and
on its completion, which waits for the accesses that used one, no covered translation is left on any die; the ordering boundary takes effect once nothing lies below. Which accesses
under way count as having used a translation, the pages of held stores and the addresses of held updates among them, is the model's reading
(assumption 75). -/
def Obligations.TranslationRegisters : Prop :=
  ∀ (s : State),
    let i := s.inp
    let d := i.die
    let x := s.die d
    let v := i.v
    let named (n : Nat) : BitVec 2 × BitVec 44 × BitVec 16 := (BitVec.ofNat 2 n, x.invVa, BitVec.ofNat 16 (v.toNat / 2 ^ 48))
    let starts (e : Instr) (n : Nat) : Prop :=
      (v.getLsbD 8 = true → v.setWidth 2 = BitVec.ofNat 2 n → ∃ t, exec e s = .next t ∧ t.tlb = s.tlb ∧ t.mem = s.mem
          ∧ (t.die d).inval = (if x.inval.isSome then x.inval else some (named n)) ∧ ∀ k, k ≠ d → t.die k = s.die k)
        ∧ (v.getLsbD 8 = false → exec e s = .next s)
    let reg (a : Nat) : Prop := i.addr.toNat = a
    starts .invalidatePage 0 ∧ starts .invalidateContext 1 ∧ starts .invalidateAll 2
    ∧ (∀ n, x.inval = some n → ∃ t, exec .invalidateComplete s = .next t ∧ t.mem = s.mem
        ∧ (t.die d).inval = (if s.coherent n then none else some n)
        ∧ ∀ e, e ∈ t.tlb ↔ e ∈ s.tlb ∧ ¬ (n.1 = 0 ∧ e.ctx = n.2.2 ∧ e.page = n.2.1.toNat * 2 ^ 12 / 2 ^ e.shift)
            ∧ ¬ (n.1 = 1 ∧ e.ctx = n.2.2) ∧ n.1.toNat < 2)
    ∧ ((v.setWidth 9).toNat ≤ s.ordMax → ∃ t, exec .ordsizeWrite s = .next t ∧ t.die d = { x with ordPending := some (v.setWidth 9) }
        ∧ ∀ k, k ≠ d → t.die k = s.die k)
    ∧ (s.ordMax < (v.setWidth 9).toNat → exec .ordsizeWrite s = .next s)
    ∧ (∀ n, x.ordPending = some n → ((∀ a ∈ x.areas, sheetOf d + n.toNat * 2 ^ 21 ≤ a.base) →
          ∃ t, exec .ordsizeTakeEffect s = .next t ∧ t.die d = { x with ordSize := n, ordPending := none })
        ∧ ((∃ a ∈ x.areas, a.base < sheetOf d + n.toNat * 2 ^ 21) → exec .ordsizeTakeEffect s = .next s))
    ∧ (reg 0x00F000000000 → exec .registerWrite s = .next (if v.getLsbD 22 then { s with warm := false } else s))
    ∧ (∀ k, k < 4 → reg (0x00F000020000 + 0x1000 * k) → ∃ t, exec .registerWrite s = .next t
        ∧ t.die k = { s.die k with invVa := BitVec.ofNat 44 (v.toNat / 2 ^ 12) })
    ∧ (∀ k, k < 4 → reg (0x00F000020010 + 0x1000 * k) → ∃ t, exec .registerWrite s = .next t
        ∧ t.die k = { s.die k with acThresh := v.setWidth 32 })

/-- R73 to R79, R83 to R87, R112: placing, moving and pre-empting clusters. What a checkpoint keeps beside R109's words, and REPLAY of a replay
that is pre-empted again, are the model's readings (assumption 46). -/
def Obligations.Placement : Prop :=
  (∀ (s : State),
    let i := s.inp
    let ck := i.ck
    let c := s.cluster ck
    let l := s.launch c.handle
    let began (t : State) (m : List Nat) : Prop := (∀ k ∈ m, (s.cluster k).state = .placed → (t.cluster k).state = .saving)
      ∧ ∀ k, k ∉ m → t.cluster k = s.cluster k
    (∃ t, exec .clusterPlace s = .next t
      ∧ (tabWf {} s.clusters = true → ∀ k, (s.cluster k).state ≠ .pending → t.cluster k = s.cluster k)
      ∧ (s.placeable s.pendingList [] = [] → t = s)
      ∧ ∀ k rest, s.placeable s.pendingList [] = k :: rest →
          (s.rectFor k = none → rest = [] → t = s)
          ∧ ∀ d o, s.rectFor k = some (d, o) →
              s.rectFits {} k d o = true ∧ ((s.cluster k).target = none → d < 4 ∧ ∀ o', o' < o → s.rectFits {} k d o' = false)
              ∧ ((s.placeAt k d o).2 = true → t = (s.placeAt k d o).1 ∧ (t.cluster k).die = d ∧ (t.cluster k).origin = o
                  ∧ ((t.cluster k).state = .placed ∨ (t.cluster k).state = .ended))
              ∧ ((s.placeAt k d o).2 = false → rest = [] → t.clusters = s.clusters ∧ t.mem = s.mem
                  ∧ ∀ g r l, (t.group g).v l r = (s.group g).v l r))
    ∧ (∃ t, exec .clusterBlocking s = .next t
      ∧ (c.state = .pending → c.blocking = none → us 20 ≤ s.now - c.since → t = s.setCluster ck { c with blocking := some s.now })
      ∧ (c.state ≠ .pending ∨ c.blocking ≠ none ∨ s.now - c.since < us 20 → t = s))
    ∧ (∃ t, exec .victimPreempt s = .next t
      ∧ (c.blocking.isSome = true → us 50 ≤ s.now - c.since → s.stuck ck = true → s.moveSets ck = [] →
          ∀ m, (s.dieOrder ck).findSome? (s.victimsOn ck) = some m → (∀ k ∈ m, s.prioOf k < s.prioOf ck) ∧ began t m)
      ∧ (c.blocking = none ∨ s.now - c.since < us 50 ∨ s.stuck ck = false ∨ s.moveSets ck ≠ [] → t = s))
    ∧ (c.blocking.isSome = true → s.stuck ck = true → s.moveSets ck ≠ [] → ∃ t m, exec .clusterMove s = .next t ∧ m ∈ s.moveSets ck
        ∧ (∀ r ∈ m, r.1 ∈ s.movable ck) ∧ (∀ k, k ∉ m.map (·.1) → k ≠ ck → t.cluster k = s.cluster k)
        ∧ (ck ∉ m.map (·.1) → t.cluster ck = { c with moves := c.moves + m.length })
        ∧ (s.placedClusters.Nodup → ∀ r ∈ m, (s.cluster r.1).state = .placed → (t.cluster r.1).state = .saving
            ∧ (t.cluster r.1).movedAt = some s.now ∧ (t.cluster r.1).target = some r.2))
    ∧ (c.state = .pending → l.state = .running → l.determ = true → c.resumed = true → us 50 ≤ s.now - c.since →
        ∃ t, exec .deterministicPreempt s = .next t
          ∧ (∀ k, t.cluster k ≠ s.cluster k → (t.cluster k).state = .saving ∧ (s.cluster k).handle = c.handle ∧ s.allOrdwait k = true)
          ∧ ((s.findRect { soon := true } ck).isSome = true → t = s)
          ∧ (let waits (k : Nat) : Prop := k ∈ s.placedClusters ∧ (s.cluster k).handle = c.handle ∧ s.allOrdwait k = true
             tabWf {} s.clusters = true → s.findRect { soon := true } ck = none → (∃ k, waits k) →
               ∃ k, waits k ∧ (∀ y, waits y → (s.cluster y).index ≤ (s.cluster k).index) ∧ (t.cluster k).state = .saving))
    ∧ (c.state = .saving → l.state = .running → s.mustWait ck = true → exec .clusterPreempt s = .next s)
    ∧ (c.state = .saving → l.state = .running → s.mustWait ck = false → (s.liveGroups ck).Nodup →
        (∀ g ∈ s.liveGroups ck, (s.group g).mats = [] ∧ (s.group g).tiles = []) →
        ∃ t, exec .clusterPreempt s = .next t ∧ (t.cluster ck).state = .saved ∧ t.mem = s.mem ∧ ∀ g ∈ s.liveGroups ck,
          (t.group g).outs = [] ∧ (t.group g).late = [] ∧ (t.group g).wait = none ∧ (t.group g).regs = (s.group g).regs
            ∧ ∃ k, (t.group g).ckpt = some k ∧ k.outs = (s.group g).outs.filter OutReq.watermarked ∧ k.hold = (s.group g).hold
                ∧ k.replay = newer (s.group g).replay (s.group g).wserial
                ∧ k.unknowns = (s.group g).oldUnknowns ((s.group g).ckpt.getD (startCkpt (s.launchOf g) 0)))
    ∧ (c.state = .saved → l.state = .running → ∃ t, exec .preemptRelease s = .next t ∧ (t.cluster ck).state = .pending
        ∧ (t.cluster ck).resumed = true ∧ (t.cluster ck).since = s.now ∧ (∀ g ∈ s.liveGroups ck, (t.group g).live = false)
        ∧ ∀ k ∈ s.teamsOf ck, (t.team k).units = [] ∧ (t.team k).resident = false))
  ∧ ∀ (s : State),
    let clears (t : State) : Prop := exec .backgroundClearDone s = .next t
    (∀ n b, s.inp.cleared = .band n b → clears (s.setSlot n { s.slot n with clearing := (s.slot n).clearing.erase b }))
    ∧ (∀ k u, s.inp.cleared = .unit k u → clears (s.setCore k { s.core k with clearing := (s.core k).clearing.erase u }))
    ∧ (∀ q k, s.inp.cleared = .granule q k →
        s.waitingTeams q = [] → clears (s.setQuad q { s.quad q with clearing := (s.quad q).clearing.erase k }))

/-! ### Events: between bundles -/

/-- R88 to R91, R93, R229, R231: passes of the engine, and the turns of a slot. A pass goes to an entry that no other precedes; each
other entry has lost once more. A pass that ends frees its entry and the engine at once (R89), and retires in its turn: that of two equal
entries the earlier in the table is taken is the model's choice (assumption 72). Each residue mismatch of a pass takes a spare column, and at
one that finds none the pass ends without committing (R229, R231). -/
def Obligations.PassesAndTurns : Prop :=
  ∀ (s : State),
    let i := s.inp
    let q := i.quad
    let x := s.quad q
    let turn (e : Instr) (n : Nat) : Prop := exec e s = .next { s with sched := .slot n :: s.sched }
    (x.pass = none → x.table ≠ [] → ∃ t e, exec .enginePassGrant s = .next t ∧ e ∈ x.table
        ∧ (∀ y ∈ x.table, s.passBefore y e = false)
        ∧ (let p : Pass := { gid := e.gid, left := (s.launchOf e.gid).lease, readyAt := s.now, ops := [], locked := [] }
           let y := { x with pass := some p, table := x.table.map fun y => if y.gid = e.gid then y else { y with lost := y.lost + 1 } }
           t.quad q = if (s.group e.gid).stopped then y.endTurn p s.now else y))
    ∧ (∀ p, x.endTurn p s.now = Quad.letIn { x with
          pass := none, past := (if p.ops = [] then x.past else x.past ++ [p]), table := x.table.filter fun e => e.gid != p.gid } s.now)
    ∧ (x.pass.isSome = true → exec .enginePassGrant s = .next s)
    ∧ (∀ p, x.pass = some p → 64 ≤ s.cyclesOf (q / Config.quads) (s.now - p.readyAt) →
        s.engineReady p.gid = false → exec .passIdleEnd s = .next (s.setQuad q (x.endTurn p s.now)))
    ∧ (∀ p, x.pass = some p → s.engineReady p.gid = true → exec .passIdleEnd s = .next s)
    ∧ (∀ n, (s.takeSpares q n).2 = true ↔ n = 0 ∨ x.spares + n ≤ 2)
    ∧ (x.past = [] → exec .matrixPassRetire s = .next s)
    ∧ (∀ p rest, x.past = p :: rest →
        let waits : Prop := ∃ o ∈ (s.group p.gid).tiles, o.id ∈ p.ops
        let r := s.takeSpares q i.mismatches
        (waits → exec .matrixPassRetire s = .next s)
        ∧ (¬ waits → r.2 = true → ∃ t, exec .matrixPassRetire s = .next t
            ∧ (t.group p.gid).fpflags = ((r.1.retireMats p.gid p.ops).group p.gid).fpflags ∧ t.mem = (r.1.retireMats p.gid p.ops).mem
            ∧ ∀ o ∈ (t.group p.gid).mats, o.id ∉ p.ops)
        ∧ (¬ waits → r.2 = false → ∃ t, exec .matrixPassRetire s = .next t ∧ t.mem = s.mem
            ∧ (t.group p.gid).mats = (s.group p.gid).mats.filter (fun o => o.id < p.ops.headD 0)
            ∧ (∀ y ∈ (t.quad (s.quadOf p.gid)).passes, y.gid ≠ p.gid)
            ∧ ((s.cluster (s.group p.gid).ck).state = .placed → (t.cluster (s.group p.gid).ck).state = .frozen)))
    ∧ ((s.slot i.slot).expired = true → turn .quantumExpiry i.slot)
    ∧ (∀ g, g ∈ s.residents i.slot → s.awake g = true → s.starved g = true → turn .starvationSwitch i.slot)
    ∧ (s.awake i.gid = true → (s.group i.gid).yields = true → (s.slot (s.group i.gid).slot).cur = some i.gid →
        turn .yieldBundle (s.group i.gid).slot)

/-- R107, R123, R160, R219, R325, R337 to R346, R387: what wakes a parked group. A result lands in the registers that no younger write
has taken; a parked word acts again with its own run, or its waiting lanes take their steps. That a monitored line is read again only when its
value has changed since it was last read is the model's reading (assumption 27); that a service answers the oldest request of a group in its
mailbox (89), and that the steps of an `LDFE` or `STFE` are kept for an undoing (87), are the model's too. -/
def Obligations.Wakes : Prop :=
  ∀ (s : State),
    let gid := s.inp.gid
    let g := s.group gid
    (∀ x, g.live = true → g.late[s.inp.idx]? = some x → x.ready = true → x.isHidden = false →
        ∃ t, exec .registerWriteback s = .next t ∧ (t.group gid).late.length + 1 = g.late.length ∧ t.mem = s.mem
          ∧ (∀ k, k ≠ gid → t.group k = s.group k)
          ∧ ∀ r l, l < 32 → (t.group gid).v l r =
              if x.regs.any fun p => p.1 = r && p.2.getLsbD l then
                ((x.rows.find? fun y => y.1 = r).map fun y => laneAt y.2 l).getD 0
              else g.v l r)
    ∧ (∀ w, g.wait = some w → s.unstopped gid = true →
        let v : State := { s.setGroup gid { g with wait := none } with iss := s.issueWait gid w }
        let again (e i : Instr) : Prop := w.absent = false → w.i = i → ∃ u, exec i v = .next u ∧ exec e s = .next u.finishIssue
        let steps (load : Bool) (f : XM) : Prop := w.absent = false →
          let r := v.feSteps load f w.left
          exec .fullEmptyWake s = .next (if r.2 = 0 then r.1.feDone.afterX
            else (r.1.repark w r.2).took (v.feTaken f (w.left &&& ~~~r.2))).finishIssue
        let line := s.inp.line
        let hit := (s.monitors gid).any fun m => m.line = line && m.value != s.lineValue (groupTeam gid) line
        let v' : State := if hit then v.readMonitors gid line else v
        let idle := 512 ≤ s.cyclesOf (coreDie (slotCore g.slot)) (s.now - w.since)
        (w.absent = true → exec .presenceWake s = .next (s.setGroup gid { g with wait := none }))
        ∧ (∀ f, again .barrierDeparture (.bar f) ∧ again .barrierDeparture (.bara f) ∧ again .barrierDeparture (.barw f)
            ∧ again .waitcRelease (.waitc f) ∧ again .ordwaitRelease (.ordwait f))
        ∧ (∀ f, again .queueVectorWake (.qrcv f)) ∧ (∀ f, again .qsndRoomWake (.qsnd f)) ∧ (∀ f, again .obrelComplete (.obrel f))
        ∧ (∀ f, w.i = .ldfe f → steps true f) ∧ (∀ f, w.i = .stfe f → steps false f)
        ∧ (∀ f, w.i = .waita f → w.absent = false →
            exec .waitaMonitorReread s = .next (v'.waitaRead w f
              (v'.waitaLanes f w.left fun p => p.kind = 3 || (hit && p.kind ≤ 1 && p.pa / 128 = line))).finishIssue
            ∧ (idle → exec .waitaPoll s = .next (v.waitaRead { w with since := s.now } f
              (w.left &&& ~~~v.watched f w.left &&& ~~~v.waitaLanes f w.left fun p => p.kind = 3)).finishIssue)
            ∧ (¬ idle → exec .waitaPoll s = .next s))
        ∧ (∀ f r, w.i = .svc f → w.absent = false → (s.mailbox.find? fun r => r.gid = gid) = some r →
            (∀ x ∈ s.mailbox.erase r, x.gid ≠ gid) → ∃ t, exec .svcReply s = .next t ∧ (t.group gid).wait = none ∧ t.mem = s.mem
            ∧ t.mailbox = s.mailbox.erase r
            ∧ ∀ l r, (t.group gid).v l r =
                if w.left.getLsbD l && r = f.e0.toNat then s.inp.v.setWidth 32
                else if w.left.getLsbD l && r = f.e0.toNat + 1 then (s.inp.v >>> 32).setWidth 32
                else g.v l r))

/-! ### The whole machine -/

/-- R154, Coherence, and R145: in an execution that satisfies the axioms, an event that happens before another access of its
location is neither overtaken in the location's order nor read from the future. R159: a store that its team holds stands, for the events
outside, at the event that releases it.

R150, R153: message passing. A write before a release write that an acquire read in mutual scope reads from is not missed by an
access after that read, whatever the scopes' width, unless one of the two accesses is to a UN page.

R151: an access of an operation is not missed by an access after a `WAITC` that covers the operation. -/
def Obligations.OrderingAxioms : Prop :=
  ∀ x : Ordering.Exec, x.consistent = true →
    (∀ l a b, (x.ev a).touches l = true → (x.ev b).touches l = true → x.outside a b = false → x.hb.has a b = true →
       x.frAt l b a = false ∧ x.coLt l b a = false ∧ x.rfAt l b a = false)
    ∧ (∀ l a b c, (x.ev a).touches l = true → (x.ev b).touches l = true → x.outside a b = true → c ∈ x.freed a → x.hb.has c b = true →
       x.frAt l b a = false ∧ x.coLt l b a = false ∧ x.rfAt l b a = false)
    ∧ (∀ l m w f r d, (x.ev w).isWrite = true → (x.ev w).touches l = true → (x.ev w).unordered = false → x.po w f = true →
         (x.ev f).isWrite = true → (x.ev f).releases = true → x.rfAt m f r = true → (x.ev r).acquires = true →
         x.mutualScope f r = true → x.po r d = true → (x.ev d).touches l = true → (x.ev d).unordered = false →
         x.outside w d = false → x.frAt l d w = false)
    ∧ (∀ l k ks w v d, (x.ev w).isWrite = true → (x.ev w).touches l = true → (x.ev w).op = some k →
         (x.ev v).act = .waitc ks → k ∈ ks → x.po v d = true → (x.ev d).touches l = true → x.frAt l d w = false)

/-- R254 to R269, R58, R270: the words that the spec's chapters write out as examples of their encodings decode to the instructions
that the same tables name, field by field; an unassigned opcode and a broken field rule are told apart. -/
def Obligations.DecodeExamples : Prop :=
  let t (dst : BitVec 8) (sa sb sc : BitVec 9) : TF :=
    { dst, nw := false, sa, sb, sc, ua := false, ub := false, uc := false, rnd := 0, guard := 0, mod := 0 }
  let m (data addr : BitVec 8) (offs : BitVec 16) : XM :=
    { data, addr, offs, scope := 5, ord := 0, width := 2, pln := 0, rb := false, guard := 0 }
  let e (e0 e1 e2 e3 : BitVec 8) : XE := { e0, e1, e2, e3, e4 := 0, flags := 0, guard := 0 }
  decode 0x08615020140C0000 = .ok (.ffma { t 0x0A 4 5 6 with nw := true })
  ∧ decode 0x8222A15FD0000000 = .ok (.orI { w := 0, dst := 0x15, sa := 0x15, imm := 0xFD000000, nw := false, ua := false })
  ∧ decode 0x4001060001040D00 = .ok (.iaddP { hdst := 1, hsrc := 12, hmod := 0, himm := 0 } .isub { hdst := 2, hsrc := 13, hmod := 0, himm := 0 })
  ∧ decode 0xC000185001028800 = .ok (.ld (m 6 20 0x40))
  ∧ decode 0xD00000000001F003 = .ok (.bra { breg := 0, mask := 0, boff := 0x1F, guard := 3 })
  ∧ decode 0xD01C004000000000 = .ok (.join { breg := 0, mask := 1, boff := 0, guard := 0 })
  ∧ decode 0x0400E0301000000E = .ok (.icmp { t 7 6 4 0 with mod := 0xE })
  ∧ decode 0x06A2806000000008 = .ok (.scan { t 0x14 12 0 0 with mod := 8 })
  ∧ decode 0x0801402018001001 = .ok (.fadd { t 0x0A 4 6 0 with rnd := 2, mod := 1 })
  ∧ decode 0x0E01802000102802 = .ok (.fcvt { t 0x0C 4 0 8 with rnd := 5, mod := 2 })
  ∧ decode 0xC014185000014800 = .ok (.stfe { m 6 20 0 with scope := 2, ord := 2 })
  ∧ decode 0xC104302000028900 = .ok (.red { m 12 8 0 with pln := 1 })
  ∧ decode 0xC108205008028A00 = .ok (.atomv { m 8 20 0x200 with pln := 2 })
  ∧ decode 0xC200000000000080 = .ok (.bar { e 0 0 0 0 with flags := 1 })
  ∧ decode 0xE000505860000000 = .ok (.cpy (e 20 22 24 0))
  ∧ decode 0xE80C205060700080 = .ok (.mma { e 8 20 24 28 with flags := 1 })
  ∧ decode 0xF008A0A8B0000080 = .ok (.tmac { e 40 42 44 0 with flags := 1 })
  ∧ decode 0xF404501820000000 = .ok (.oadam (e 20 6 8 0))
  ∧ decode 0xF804181400000000 = .ok (.rdsr (e 6 5 0 0))
  ∧ decodeHart (BitVec.ofNat 32 (12 * 2 ^ 20 + 11 * 2 ^ 15 + 2 * 2 ^ 12 + 10 * 2 ^ 7 + 0x0B)) = some (.klnPreempt 10 11 12)
  ∧ decodeHart (BitVec.ofNat 32 (1 * 2 ^ 25 + 12 * 2 ^ 20 + 11 * 2 ^ 15 + 10 * 2 ^ 7 + 0x0B)) = none
  ∧ decode (BitVec.ofNat 64 (0x00C * 2 ^ 53)) = .error .illegalOpcode
  ∧ decode (BitVec.ofNat 64 (3 * 2 ^ 62 + 0x10 * 2 ^ 56 + 0x0F * 2 ^ 50)) = .error .illegalOpcode
  ∧ decode (BitVec.ofNat 64 (0x40 * 2 ^ 4)) = .error .reservedField
  ∧ decode (BitVec.ofNat 64 (3 * 2 ^ 62 + 0x10 * 2 ^ 56 + 0x07 * 2 ^ 50 + 12 * 2 ^ 38)) = .error .reservedField

/-- R254 to R271, R58: every well-formed instruction, with every operand at every value that its encoding admits, is what the decoder
reads from its encoding. -/
def Obligations.DecodeEncode : Prop :=
  ∀ (i : Instr) (n w : Nat), i.wellFormed = true → encode i = some (n, w) → w < 2 ^ n ∧ decodeTableWord n w = some i

/-- R254 to R271, R58: the other way. No bit of a word that decodes is dropped: a word that the decoder accepts is the encoding of
what it reads, and what it reads is well formed. -/
def Obligations.EncodeDecode : Prop :=
  (∀ (w : BitVec 64) (i : Instr), decode w = .ok i → encode i = some (64, w.toNat) ∧ i.wellFormed = true)
  ∧ ∀ (w : BitVec 32) (i : Instr), decodeHart w = some i → encode i = some (32, w.toNat) ∧ i.wellFormed = true

/-- R91, R255, R270, R58: a step runs the decoded instruction. A slot's turn takes the group that R91 picks; its bundle is `exec` of the
word at the PC of its next run, and a bundle that issued is then counted. A word that is none traps with the word in TINFO2. A control
core's turn takes a pending interrupt, or is `exec` of an Xkelren word at its PC or the RISC-V word there (R52, R53); a core whose die has
not finished stage 0x8 runs its ROM, not that word (R25). Without power, after a trip (R23) and in stage 0xF (R25) slots and cores stand
still. An event's turn is `exec` of its row, and every row of an event answers a next state in every state. (That a turn takes the reservations of the control cores'
LR whose lines it changed is the model's choice, assumption 9: `kept`.) -/
def Obligations.StepRuns : Prop :=
  ∀ (s : State) (rest : List Turn),
    let u : State := { s with sched := rest, fresh := s.fresh + 1 }
    let kept (o : Out) : Out := Out.map o u.keepReserved
    let bundle (gid : Nat) (w : BitVec 64) (o : Out) : Prop :=
      (∀ i, decode w = .ok i → o = Out.map (exec i (u.inHand gid)) State.finishIssue)
      ∧ (decode w = .error .illegalOpcode → o = .next ((u.inHand gid).takeTrap 1 (u.inHand gid).iss.run 0 w).finishIssue)
      ∧ (decode w = .error .reservedField → o = .next ((u.inHand gid).takeTrap 2 (u.inHand gid).iss.run 0 w).finishIssue)
    (s.running = false → ∀ n, (s.sched = .slot n :: rest ∨ s.sched = .hart n :: rest) → step s = kept (.next u))
    ∧ (s.running = true → ∀ n, s.sched = .slot n :: rest →
        let r := u.survey (u.candidates n)
        (∀ gid, r.1.pick n r.2 = some gid → step s = kept ((r.1.switchTo n gid).bundle gid))
        ∧ (r.1.pick n r.2 = none → step s = kept (.next r.1))
        ∧ (∀ gid w, u.residents n = [gid] → u.awake gid = true → (u.slot n).cur = some gid → (u.slot n).expired = false →
            u.fetch gid (u.group gid).nextPc = .word w → u.moved gid (u.bundle gid) = true →
            ∃ o, step s = kept o ∧ bundle gid w o))
    ∧ (∀ gid w, u.fetch gid (u.group gid).nextPc = .word w → bundle gid w (u.bundle gid))
    ∧ (∀ n, s.sched = .hart n :: rest → (s.die (n / 4)).stage ≠ 9 → step s = kept (.next u))
    ∧ (s.running = true → ∀ n, s.sched = .hart n :: rest → n < 16 → (s.die (n / 4)).stage = 9 →
        (∀ h, u.interrupt n = some h → step s = kept (.next (u.setHart n h)))
        ∧ (u.interrupt n = none → ∀ w, u.hartWord (u.hart n) = .word w →
          (∀ i, decodeHart (BitVec.ofNat 32 w) = some i → step s = kept (exec i { u with iss := { hart := n } }))
          ∧ (decodeHart (BitVec.ofNat 32 w) = none → step s = kept (u.hartBase n (u.hart n) w))))
    ∧ (∀ e inp, s.sched = .event e inp :: rest → encode e = none → s.running = false → alwaysOn e = false → step s = kept (.next u))
    ∧ (∀ e inp, s.sched = .event e inp :: rest → encode e = none → s.running = true ∨ alwaysOn e = true → step s = kept (exec e { u with inp, iss := {} }))
    ∧ (∀ e, encode e = none → ∃ t, exec e s = .next t)

/-- Every step keeps memory in its one canonical form: addresses strictly rising, no byte listed that is what an unlisted address
reads as. (The form is the model's; that memory is bytes at addresses is R5, R125.) -/
def Obligations.MemoryCanonicalStep : Prop := ∀ (s t : State), s.memWf = true → step s = .next t → t.memWf = true

/-- R25, R28, R43, R60: what reset leaves: no stage begun, READY down, no launch, no group, no request in flight, the caches of the
owners empty; and memory in its canonical form. (That memory then reads 0 everywhere is the model's choice, assumption 2.) -/
def Obligations.ResetState : Prop :=
  let s := State.reset
  s.memWf = true ∧ s.ready = false ∧ s.errCode = 0 ∧ (∀ d, (s.die d).stage = 0) ∧ s.fabUp = 0
    ∧ (∀ h, (s.launch h).state = .none) ∧ (∀ g, (s.group g).live = false) ∧ (∀ q, tabGet [] s.queues q = []) ∧ s.net = []
    ∧ (∀ o, (s.owner o).cache = [] ∧ (s.owner o).dir = [] ∧ (s.owner o).hold = []) ∧ ∀ a, s.rd a = 0
end

