-- ==== Sys2Proof/Laws/PerInstr.lean ====
section
/-! SUPPORT. The family `Bits`: what an instruction's encoding fits in. One lemma for each constructor. -/
namespace Sys2Proof.Laws.Bits

/-- The encoding of an instruction is a number of as many bits as it says. -/
def Statement (i : Instr) : Prop := ∀ n w, encode i = some (n, w) → w < 2 ^ n

theorem b1_lt (b : Bool) : b1 b < 2 := by cases b <;> decide

theorem bits_event {i : Instr} (h : i.view = .event) : Statement i := by
  intro n w e; simp [encode, h] at e

theorem bits_t {i : Instr} {opc : Nat} {f : TF} (h : i.view = .t opc f) (ho : opc < 512) : Statement i := by
  intro n w e
  simp only [encode, h, Option.some.injEq, Prod.mk.injEq] at e
  obtain ⟨rfl, rfl⟩ := e
  have := b1_lt f.nw; have := b1_lt f.ua; have := b1_lt f.ub; have := b1_lt f.uc
  have := f.dst.isLt; have := f.sa.isLt; have := f.sb.isLt; have := f.sc.isLt; have := f.rnd.isLt
  have := f.guard.isLt; have := f.mod.isLt
  simp only [encT]; omega

theorem bits_i {i : Instr} {opc : Nat} {f : IF} (h : i.view = .i opc f) (ho : opc < 128) : Statement i := by
  intro n w e
  simp only [encode, h, Option.some.injEq, Prod.mk.injEq] at e
  obtain ⟨rfl, rfl⟩ := e
  have := b1_lt f.nw; have := b1_lt f.ua
  have := f.dst.isLt; have := f.sa.isLt; have := f.imm.isLt; have := f.w.isLt
  simp only [encI]; omega

theorem popNum_lt (o : POp) : popNum o < 128 := by cases o <;> decide

theorem encH_lt (o : POp) (h : HF) : encH o h < 2 ^ 31 := by
  have := popNum_lt o
  have := h.hdst.isLt; have := h.hsrc.isLt; have := h.hmod.isLt; have := h.himm.isLt
  simp only [encH]; omega

theorem bits_p {i : Instr} {o p : POp} {g k : HF} (h : i.view = .p o g p k) : Statement i := by
  intro n w e
  simp only [encode, h, Option.some.injEq, Prod.mk.injEq] at e
  obtain ⟨rfl, rfl⟩ := e
  have := encH_lt o g; have := encH_lt p k
  omega

theorem bits_xm {i : Instr} {grp op : Nat} {f : XM} (h : i.view = .xm grp op f) (hg : grp < 64) (ho : op < 64) :
    Statement i := by
  intro n w e
  simp only [encode, h, Option.some.injEq, Prod.mk.injEq] at e
  obtain ⟨rfl, rfl⟩ := e
  have := b1_lt f.rb
  have := f.data.isLt; have := f.addr.isLt; have := f.offs.isLt; have := f.scope.isLt; have := f.ord.isLt
  have := f.width.isLt; have := f.pln.isLt; have := f.guard.isLt
  simp only [encXM]; omega

theorem bits_xb {i : Instr} {op : Nat} {f : XB} (h : i.view = .xb op f) (ho : op < 64) : Statement i := by
  intro n w e
  simp only [encode, h, Option.some.injEq, Prod.mk.injEq] at e
  obtain ⟨rfl, rfl⟩ := e
  have := f.breg.isLt; have := f.mask.isLt; have := f.boff.isLt; have := f.guard.isLt
  simp only [encXB]; omega

theorem bits_xe {i : Instr} {grp op : Nat} {f : XE} (h : i.view = .xe grp op f) (hg : grp < 64) (ho : op < 64) :
    Statement i := by
  intro n w e
  simp only [encode, h, Option.some.injEq, Prod.mk.injEq] at e
  obtain ⟨rfl, rfl⟩ := e
  have := f.e0.isLt; have := f.e1.isLt; have := f.e2.isLt; have := f.e3.isLt; have := f.e4.isLt
  have := f.flags.isLt; have := f.guard.isLt
  simp only [encXE]; omega

theorem bits_kln {i : Instr} {fn : Nat} {rd rs1 rs2 : BitVec 5} (h : i.view = .kln fn rd rs1 rs2) (hf : fn < 8) :
    Statement i := by
  intro n w e
  simp only [encode, h, Option.some.injEq, Prod.mk.injEq] at e
  obtain ⟨rfl, rfl⟩ := e
  have := rd.isLt; have := rs1.isLt; have := rs2.isLt
  omega

theorem iadd (f : TF) : Statement (.iadd f) := bits_t rfl (by decide)
theorem isub (f : TF) : Statement (.isub f) := bits_t rfl (by decide)
theorem imul (f : TF) : Statement (.imul f) := bits_t rfl (by decide)
theorem imulh (f : TF) : Statement (.imulh f) := bits_t rfl (by decide)
theorem imad (f : TF) : Statement (.imad f) := bits_t rfl (by decide)
theorem imin (f : TF) : Statement (.imin f) := bits_t rfl (by decide)
theorem imax (f : TF) : Statement (.imax f) := bits_t rfl (by decide)
theorem iabs (f : TF) : Statement (.iabs f) := bits_t rfl (by decide)
theorem ineg (f : TF) : Statement (.ineg f) := bits_t rfl (by decide)
theorem idiv (f : TF) : Statement (.idiv f) := bits_t rfl (by decide)
theorem irem (f : TF) : Statement (.irem f) := bits_t rfl (by decide)
theorem lea (f : TF) : Statement (.lea f) := bits_t rfl (by decide)
theorem and (f : TF) : Statement (.and f) := bits_t rfl (by decide)
theorem or (f : TF) : Statement (.or f) := bits_t rfl (by decide)
theorem xor (f : TF) : Statement (.xor f) := bits_t rfl (by decide)
theorem andn (f : TF) : Statement (.andn f) := bits_t rfl (by decide)
theorem orn (f : TF) : Statement (.orn f) := bits_t rfl (by decide)
theorem shl (f : TF) : Statement (.shl f) := bits_t rfl (by decide)
theorem shr (f : TF) : Statement (.shr f) := bits_t rfl (by decide)
theorem sar (f : TF) : Statement (.sar f) := bits_t rfl (by decide)
theorem rotl (f : TF) : Statement (.rotl f) := bits_t rfl (by decide)
theorem funsh (f : TF) : Statement (.funsh f) := bits_t rfl (by decide)
theorem bfx (f : TF) : Statement (.bfx f) := bits_t rfl (by decide)
theorem bfi (f : TF) : Statement (.bfi f) := bits_t rfl (by decide)
theorem popc (f : TF) : Statement (.popc f) := bits_t rfl (by decide)
theorem clz (f : TF) : Statement (.clz f) := bits_t rfl (by decide)
theorem ctz (f : TF) : Statement (.ctz f) := bits_t rfl (by decide)
theorem brev (f : TF) : Statement (.brev f) := bits_t rfl (by decide)
theorem icmp (f : TF) : Statement (.icmp f) := bits_t rfl (by decide)
theorem sel (f : TF) : Statement (.sel f) := bits_t rfl (by decide)
theorem mov (f : TF) : Statement (.mov f) := bits_t rfl (by decide)
theorem movx (f : TF) : Statement (.movx f) := bits_t rfl (by decide)
theorem movxw (f : TF) : Statement (.movxw f) := bits_t rfl (by decide)
theorem shfl (f : TF) : Statement (.shfl f) := bits_t rfl (by decide)
theorem xperm (f : TF) : Statement (.xperm f) := bits_t rfl (by decide)
theorem vote (f : TF) : Statement (.vote f) := bits_t rfl (by decide)
theorem ballot (f : TF) : Statement (.ballot f) := bits_t rfl (by decide)
theorem matchv (f : TF) : Statement (.matchv f) := bits_t rfl (by decide)
theorem scan (f : TF) : Statement (.scan f) := bits_t rfl (by decide)
theorem fadd (f : TF) : Statement (.fadd f) := bits_t rfl (by decide)
theorem fsub (f : TF) : Statement (.fsub f) := bits_t rfl (by decide)
theorem fmul (f : TF) : Statement (.fmul f) := bits_t rfl (by decide)
theorem ffma (f : TF) : Statement (.ffma f) := bits_t rfl (by decide)
theorem ffms (f : TF) : Statement (.ffms f) := bits_t rfl (by decide)
theorem fmin (f : TF) : Statement (.fmin f) := bits_t rfl (by decide)
theorem fmax (f : TF) : Statement (.fmax f) := bits_t rfl (by decide)
theorem fminm (f : TF) : Statement (.fminm f) := bits_t rfl (by decide)
theorem fmaxm (f : TF) : Statement (.fmaxm f) := bits_t rfl (by decide)
theorem fabs (f : TF) : Statement (.fabs f) := bits_t rfl (by decide)
theorem fneg (f : TF) : Statement (.fneg f) := bits_t rfl (by decide)
theorem fcpys (f : TF) : Statement (.fcpys f) := bits_t rfl (by decide)
theorem fcmp (f : TF) : Statement (.fcmp f) := bits_t rfl (by decide)
theorem fclass (f : TF) : Statement (.fclass f) := bits_t rfl (by decide)
theorem frint (f : TF) : Statement (.frint f) := bits_t rfl (by decide)
theorem fscl (f : TF) : Statement (.fscl f) := bits_t rfl (by decide)
theorem fgete (f : TF) : Statement (.fgete f) := bits_t rfl (by decide)
theorem fdiv (f : TF) : Statement (.fdiv f) := bits_t rfl (by decide)
theorem fsqrt (f : TF) : Statement (.fsqrt f) := bits_t rfl (by decide)
theorem frcp (f : TF) : Statement (.frcp f) := bits_t rfl (by decide)
theorem frsq (f : TF) : Statement (.frsq f) := bits_t rfl (by decide)
theorem fexp (f : TF) : Statement (.fexp f) := bits_t rfl (by decide)
theorem fexp2 (f : TF) : Statement (.fexp2 f) := bits_t rfl (by decide)
theorem flog (f : TF) : Statement (.flog f) := bits_t rfl (by decide)
theorem flog2 (f : TF) : Statement (.flog2 f) := bits_t rfl (by decide)
theorem fsin (f : TF) : Statement (.fsin f) := bits_t rfl (by decide)
theorem fcos (f : TF) : Statement (.fcos f) := bits_t rfl (by decide)
theorem ftan (f : TF) : Statement (.ftan f) := bits_t rfl (by decide)
theorem fatan (f : TF) : Statement (.fatan f) := bits_t rfl (by decide)
theorem ftanh (f : TF) : Statement (.ftanh f) := bits_t rfl (by decide)
theorem ferf (f : TF) : Statement (.ferf f) := bits_t rfl (by decide)
theorem fcvt (f : TF) : Statement (.fcvt f) := bits_t rfl (by decide)
theorem fcvti (f : TF) : Statement (.fcvti f) := bits_t rfl (by decide)
theorem icvtf (f : TF) : Statement (.icvtf f) := bits_t rfl (by decide)
theorem plsplit (f : TF) : Statement (.plsplit f) := bits_t rfl (by decide)
theorem pljoin (f : TF) : Statement (.pljoin f) := bits_t rfl (by decide)
theorem bpack (f : TF) : Statement (.bpack f) := bits_t rfl (by decide)
theorem bunpk (f : TF) : Statement (.bunpk f) := bits_t rfl (by decide)
theorem iaddI (f : IF) : Statement (.iaddI f) := bits_i rfl (by decide)
theorem isubI (f : IF) : Statement (.isubI f) := bits_i rfl (by decide)
theorem imulI (f : IF) : Statement (.imulI f) := bits_i rfl (by decide)
theorem imulhI (f : IF) : Statement (.imulhI f) := bits_i rfl (by decide)
theorem imadI (f : IF) : Statement (.imadI f) := bits_i rfl (by decide)
theorem iminI (f : IF) : Statement (.iminI f) := bits_i rfl (by decide)
theorem imaxI (f : IF) : Statement (.imaxI f) := bits_i rfl (by decide)
theorem iabsI (f : IF) : Statement (.iabsI f) := bits_i rfl (by decide)
theorem inegI (f : IF) : Statement (.inegI f) := bits_i rfl (by decide)
theorem idivI (f : IF) : Statement (.idivI f) := bits_i rfl (by decide)
theorem iremI (f : IF) : Statement (.iremI f) := bits_i rfl (by decide)
theorem leaI (f : IF) : Statement (.leaI f) := bits_i rfl (by decide)
theorem andI (f : IF) : Statement (.andI f) := bits_i rfl (by decide)
theorem orI (f : IF) : Statement (.orI f) := bits_i rfl (by decide)
theorem xorI (f : IF) : Statement (.xorI f) := bits_i rfl (by decide)
theorem andnI (f : IF) : Statement (.andnI f) := bits_i rfl (by decide)
theorem ornI (f : IF) : Statement (.ornI f) := bits_i rfl (by decide)
theorem shlI (f : IF) : Statement (.shlI f) := bits_i rfl (by decide)
theorem shrI (f : IF) : Statement (.shrI f) := bits_i rfl (by decide)
theorem sarI (f : IF) : Statement (.sarI f) := bits_i rfl (by decide)
theorem rotlI (f : IF) : Statement (.rotlI f) := bits_i rfl (by decide)
theorem funshI (f : IF) : Statement (.funshI f) := bits_i rfl (by decide)
theorem bfxI (f : IF) : Statement (.bfxI f) := bits_i rfl (by decide)
theorem bfiI (f : IF) : Statement (.bfiI f) := bits_i rfl (by decide)
theorem popcI (f : IF) : Statement (.popcI f) := bits_i rfl (by decide)
theorem clzI (f : IF) : Statement (.clzI f) := bits_i rfl (by decide)
theorem ctzI (f : IF) : Statement (.ctzI f) := bits_i rfl (by decide)
theorem brevI (f : IF) : Statement (.brevI f) := bits_i rfl (by decide)
theorem icmpI (f : IF) : Statement (.icmpI f) := bits_i rfl (by decide)
theorem selI (f : IF) : Statement (.selI f) := bits_i rfl (by decide)
theorem movI (f : IF) : Statement (.movI f) := bits_i rfl (by decide)
theorem movxI (f : IF) : Statement (.movxI f) := bits_i rfl (by decide)
theorem movxwI (f : IF) : Statement (.movxwI f) := bits_i rfl (by decide)
theorem faddI (f : IF) : Statement (.faddI f) := bits_i rfl (by decide)
theorem fmulI (f : IF) : Statement (.fmulI f) := bits_i rfl (by decide)
theorem ffmaI (f : IF) : Statement (.ffmaI f) := bits_i rfl (by decide)
theorem iaddP (h0 : HF) (op1 : POp) (h1 : HF) : Statement (.iaddP h0 op1 h1) := bits_p rfl
theorem isubP (h0 : HF) (op1 : POp) (h1 : HF) : Statement (.isubP h0 op1 h1) := bits_p rfl
theorem iminP (h0 : HF) (op1 : POp) (h1 : HF) : Statement (.iminP h0 op1 h1) := bits_p rfl
theorem imaxP (h0 : HF) (op1 : POp) (h1 : HF) : Statement (.imaxP h0 op1 h1) := bits_p rfl
theorem andP (h0 : HF) (op1 : POp) (h1 : HF) : Statement (.andP h0 op1 h1) := bits_p rfl
theorem orP (h0 : HF) (op1 : POp) (h1 : HF) : Statement (.orP h0 op1 h1) := bits_p rfl
theorem xorP (h0 : HF) (op1 : POp) (h1 : HF) : Statement (.xorP h0 op1 h1) := bits_p rfl
theorem andnP (h0 : HF) (op1 : POp) (h1 : HF) : Statement (.andnP h0 op1 h1) := bits_p rfl
theorem shlP (h0 : HF) (op1 : POp) (h1 : HF) : Statement (.shlP h0 op1 h1) := bits_p rfl
theorem shrP (h0 : HF) (op1 : POp) (h1 : HF) : Statement (.shrP h0 op1 h1) := bits_p rfl
theorem sarP (h0 : HF) (op1 : POp) (h1 : HF) : Statement (.sarP h0 op1 h1) := bits_p rfl
theorem movP (h0 : HF) (op1 : POp) (h1 : HF) : Statement (.movP h0 op1 h1) := bits_p rfl
theorem icmpP (h0 : HF) (op1 : POp) (h1 : HF) : Statement (.icmpP h0 op1 h1) := bits_p rfl
theorem faddP (h0 : HF) (op1 : POp) (h1 : HF) : Statement (.faddP h0 op1 h1) := bits_p rfl
theorem fmulP (h0 : HF) (op1 : POp) (h1 : HF) : Statement (.fmulP h0 op1 h1) := bits_p rfl
theorem fminP (h0 : HF) (op1 : POp) (h1 : HF) : Statement (.fminP h0 op1 h1) := bits_p rfl
theorem fmaxP (h0 : HF) (op1 : POp) (h1 : HF) : Statement (.fmaxP h0 op1 h1) := bits_p rfl
theorem ld (f : XM) : Statement (.ld f) := bits_xm rfl (by decide) (by decide)
theorem st (f : XM) : Statement (.st f) := bits_xm rfl (by decide) (by decide)
theorem ldp (f : XM) : Statement (.ldp f) := bits_xm rfl (by decide) (by decide)
theorem stp (f : XM) : Statement (.stp f) := bits_xm rfl (by decide) (by decide)
theorem ldfe (f : XM) : Statement (.ldfe f) := bits_xm rfl (by decide) (by decide)
theorem stfe (f : XM) : Statement (.stfe f) := bits_xm rfl (by decide) (by decide)
theorem feinit (f : XM) : Statement (.feinit f) := bits_xm rfl (by decide) (by decide)
theorem sptest (f : XM) : Statement (.sptest f) := bits_xm rfl (by decide) (by decide)
theorem spcast (f : XM) : Statement (.spcast f) := bits_xm rfl (by decide) (by decide)
theorem fence (f : XM) : Statement (.fence f) := bits_xm rfl (by decide) (by decide)
theorem atom (f : XM) : Statement (.atom f) := bits_xm rfl (by decide) (by decide)
theorem red (f : XM) : Statement (.red f) := bits_xm rfl (by decide) (by decide)
theorem atomv (f : XM) : Statement (.atomv f) := bits_xm rfl (by decide) (by decide)
theorem waita (f : XM) : Statement (.waita f) := bits_xm rfl (by decide) (by decide)
theorem bar (f : XE) : Statement (.bar f) := bits_xe rfl (by decide) (by decide)
theorem bara (f : XE) : Statement (.bara f) := bits_xe rfl (by decide) (by decide)
theorem barw (f : XE) : Statement (.barw f) := bits_xe rfl (by decide) (by decide)
theorem regn (f : XE) : Statement (.regn f) := bits_xe rfl (by decide) (by decide)
theorem commit (f : XE) : Statement (.commit f) := bits_xe rfl (by decide) (by decide)
theorem ordwait (f : XE) : Statement (.ordwait f) := bits_xe rfl (by decide) (by decide)
theorem qsnd (f : XE) : Statement (.qsnd f) := bits_xe rfl (by decide) (by decide)
theorem qrcv (f : XE) : Statement (.qrcv f) := bits_xe rfl (by decide) (by decide)
theorem bra (f : XB) : Statement (.bra f) := bits_xb rfl (by decide)
theorem brx (f : XB) : Statement (.brx f) := bits_xb rfl (by decide)
theorem call (f : XB) : Statement (.call f) := bits_xb rfl (by decide)
theorem callx (f : XB) : Statement (.callx f) := bits_xb rfl (by decide)
theorem ret (f : XB) : Statement (.ret f) := bits_xb rfl (by decide)
theorem exit (f : XB) : Statement (.exit f) := bits_xb rfl (by decide)
theorem yield (f : XB) : Statement (.yield f) := bits_xb rfl (by decide)
theorem join (f : XB) : Statement (.join f) := bits_xb rfl (by decide)
theorem leave (f : XB) : Statement (.leave f) := bits_xb rfl (by decide)
theorem waitm (f : XB) : Statement (.waitm f) := bits_xb rfl (by decide)
theorem mkrd (f : XB) : Statement (.mkrd f) := bits_xb rfl (by decide)
theorem mkwr (f : XB) : Statement (.mkwr f) := bits_xb rfl (by decide)
theorem nop (f : XB) : Statement (.nop f) := bits_xb rfl (by decide)
theorem brk (f : XB) : Statement (.brk f) := bits_xb rfl (by decide)
theorem trap (f : XB) : Statement (.trap f) := bits_xb rfl (by decide)
theorem cpy (f : XE) : Statement (.cpy f) := bits_xe rfl (by decide) (by decide)
theorem cpy2 (f : XE) : Statement (.cpy2 f) := bits_xe rfl (by decide) (by decide)
theorem cpyx (f : XE) : Statement (.cpyx f) := bits_xe rfl (by decide) (by decide)
theorem cpyp (f : XE) : Statement (.cpyp f) := bits_xe rfl (by decide) (by decide)
theorem ctld (f : XE) : Statement (.ctld f) := bits_xe rfl (by decide) (by decide)
theorem ptld (f : XE) : Statement (.ptld f) := bits_xe rfl (by decide) (by decide)
theorem waitc (f : XE) : Statement (.waitc f) := bits_xe rfl (by decide) (by decide)
theorem cntrd (f : XE) : Statement (.cntrd f) := bits_xe rfl (by decide) (by decide)
theorem obres (f : XE) : Statement (.obres f) := bits_xe rfl (by decide) (by decide)
theorem obrel (f : XE) : Statement (.obrel f) := bits_xe rfl (by decide) (by decide)
theorem obset (f : XE) : Statement (.obset f) := bits_xe rfl (by decide) (by decide)
theorem mma (f : XE) : Statement (.mma f) := bits_xe rfl (by decide) (by decide)
theorem mrd (f : XE) : Statement (.mrd f) := bits_xe rfl (by decide) (by decide)
theorem mwr (f : XE) : Statement (.mwr f) := bits_xe rfl (by decide) (by decide)
theorem mwrMem (f : XE) : Statement (.mwrMem f) := bits_xe rfl (by decide) (by decide)
theorem mzero (f : XE) : Statement (.mzero f) := bits_xe rfl (by decide) (by decide)
theorem mpri (f : XE) : Statement (.mpri f) := bits_xe rfl (by decide) (by decide)
theorem tpool (f : XE) : Statement (.tpool f) := bits_xe rfl (by decide) (by decide)
theorem tpoolEmpty (f : XE) : Statement (.tpoolEmpty f) := bits_xe rfl (by decide) (by decide)
theorem tzero (f : XE) : Statement (.tzero f) := bits_xe rfl (by decide) (by decide)
theorem tmac (f : XE) : Statement (.tmac f) := bits_xe rfl (by decide) (by decide)
theorem tadd (f : XE) : Statement (.tadd f) := bits_xe rfl (by decide) (by decide)
theorem trnd (f : XE) : Statement (.trnd f) := bits_xe rfl (by decide) (by decide)
theorem tdense (f : XE) : Statement (.tdense f) := bits_xe rfl (by decide) (by decide)
theorem tcomp (f : XE) : Statement (.tcomp f) := bits_xe rfl (by decide) (by decide)
theorem tlu (f : XE) : Statement (.tlu f) := bits_xe rfl (by decide) (by decide)
theorem ttrs (f : XE) : Statement (.ttrs f) := bits_xe rfl (by decide) (by decide)
theorem tinfo (f : XE) : Statement (.tinfo f) := bits_xe rfl (by decide) (by decide)
theorem tsamp (f : XE) : Statement (.tsamp f) := bits_xe rfl (by decide) (by decide)
theorem osgd (f : XE) : Statement (.osgd f) := bits_xe rfl (by decide) (by decide)
theorem oadam (f : XE) : Statement (.oadam f) := bits_xe rfl (by decide) (by decide)
theorem cline (f : XE) : Statement (.cline f) := bits_xe rfl (by decide) (by decide)
theorem ccon (f : XE) : Statement (.ccon f) := bits_xe rfl (by decide) (by decide)
theorem launch (f : XE) : Statement (.launch f) := bits_xe rfl (by decide) (by decide)
theorem rdsr (f : XE) : Statement (.rdsr f) := bits_xe rfl (by decide) (by decide)
theorem wrsr (f : XE) : Statement (.wrsr f) := bits_xe rfl (by decide) (by decide)
theorem svc (f : XE) : Statement (.svc f) := bits_xe rfl (by decide) (by decide)
theorem tret (f : XE) : Statement (.tret f) := bits_xe rfl (by decide) (by decide)
theorem klnLaunch (rd : BitVec 5) (rs1 : BitVec 5) (rs2 : BitVec 5) : Statement (.klnLaunch rd rs1 rs2) := bits_kln rfl (by decide)
theorem klnCancel (rd : BitVec 5) (rs1 : BitVec 5) (rs2 : BitVec 5) : Statement (.klnCancel rd rs1 rs2) := bits_kln rfl (by decide)
theorem klnPreempt (rd : BitVec 5) (rs1 : BitVec 5) (rs2 : BitVec 5) : Statement (.klnPreempt rd rs1 rs2) := bits_kln rfl (by decide)
theorem klnStatus (rd : BitVec 5) (rs1 : BitVec 5) (rs2 : BitVec 5) : Statement (.klnStatus rd rs1 rs2) := bits_kln rfl (by decide)
theorem powerGood : Statement .powerGood := bits_event rfl
theorem imageVerify : Statement .imageVerify := bits_event rfl
theorem sheetSelfCalibrate : Statement .sheetSelfCalibrate := bits_event rfl
theorem d2dLinkTrain : Statement .d2dLinkTrain := bits_event rfl
theorem lpddrTrain : Statement .lpddrTrain := bits_event rfl
theorem lpddrInit : Statement .lpddrInit := bits_event rfl
theorem ndenathLinkTrain : Statement .ndenathLinkTrain := bits_event rfl
theorem firmwareServicesStart : Statement .firmwareServicesStart := bits_event rfl
theorem readySet : Statement .readySet := bits_event rfl
theorem stageLimitExceeded : Statement .stageLimitExceeded := bits_event rfl
theorem thermalTrip : Statement .thermalTrip := bits_event rfl
theorem coolantOutOfRange : Statement .coolantOutOfRange := bits_event rfl
theorem rollbackRaise : Statement .rollbackRaise := bits_event rfl
theorem lpddrDqRetrain : Statement .lpddrDqRetrain := bits_event rfl
theorem d2dRetry : Statement .d2dRetry := bits_event rfl
theorem dieLinkFailure : Statement .dieLinkFailure := bits_event rfl
theorem mgmtQuery : Statement .mgmtQuery := bits_event rfl
theorem mgmtWarmReset : Statement .mgmtWarmReset := bits_event rfl
theorem mgmtDrop : Statement .mgmtDrop := bits_event rfl
theorem resetRegisterWrite : Statement .resetRegisterWrite := bits_event rfl
theorem governorWindow : Statement .governorWindow := bits_event rfl
theorem operatingPointChangeDone : Statement .operatingPointChangeDone := bits_event rfl
theorem fieldRecordFlush : Statement .fieldRecordFlush := bits_event rfl
theorem scrub : Statement .scrub := bits_event rfl
theorem ethFrameReceive : Statement .ethFrameReceive := bits_event rfl
theorem ethFrameTransmit : Statement .ethFrameTransmit := bits_event rfl
theorem cxlLinkTrain : Statement .cxlLinkTrain := bits_event rfl
theorem cxlDeviceRemoved : Statement .cxlDeviceRemoved := bits_event rfl
theorem ndenathPortStateChange : Statement .ndenathPortStateChange := bits_event rfl
theorem flitReceive : Statement .flitReceive := bits_event rfl
theorem loadRequest : Statement .loadRequest := bits_event rfl
theorem loadReply : Statement .loadReply := bits_event rfl
theorem watermarkedRequest : Statement .watermarkedRequest := bits_event rfl
theorem resultReply : Statement .resultReply := bits_event rfl
theorem busyReply : Statement .busyReply := bits_event rfl
theorem unknownReply : Statement .unknownReply := bits_event rfl
theorem releaseNotice : Statement .releaseNotice := bits_event rfl
theorem releaseNoticeLaunchEnd : Statement .releaseNoticeLaunchEnd := bits_event rfl
theorem copyWriteChunk : Statement .copyWriteChunk := bits_event rfl
theorem copyReadRequest : Statement .copyReadRequest := bits_event rfl
theorem copyAck : Statement .copyAck := bits_event rfl
theorem requestRetransmit : Statement .requestRetransmit := bits_event rfl
theorem scheduleExhausted : Statement .scheduleExhausted := bits_event rfl
theorem busyResend : Statement .busyResend := bits_event rfl
theorem requesterReleaseNotice : Statement .requesterReleaseNotice := bits_event rfl
theorem releaseNoticeResend : Statement .releaseNoticeResend := bits_event rfl
theorem launchEndMarkExpiry : Statement .launchEndMarkExpiry := bits_event rfl
theorem ownerRestart : Statement .ownerRestart := bits_event rfl
theorem ownerRestore : Statement .ownerRestore := bits_event rfl
theorem quarantineEnd : Statement .quarantineEnd := bits_event rfl
theorem clineRequest : Statement .clineRequest := bits_event rfl
theorem heldDrain : Statement .heldDrain := bits_event rfl
theorem launchDispatch : Statement .launchDispatch := bits_event rfl
theorem dependenceAnswer : Statement .dependenceAnswer := bits_event rfl
theorem launchEnd : Statement .launchEnd := bits_event rfl
theorem watchdogExpiry : Statement .watchdogExpiry := bits_event rfl
theorem faultLogConsume : Statement .faultLogConsume := bits_event rfl
theorem copyFaultRetry : Statement .copyFaultRetry := bits_event rfl
theorem copyFaultFail : Statement .copyFaultFail := bits_event rfl
theorem invalidatePage : Statement .invalidatePage := bits_event rfl
theorem invalidateContext : Statement .invalidateContext := bits_event rfl
theorem invalidateAll : Statement .invalidateAll := bits_event rfl
theorem invalidateComplete : Statement .invalidateComplete := bits_event rfl
theorem ordsizeWrite : Statement .ordsizeWrite := bits_event rfl
theorem ordsizeTakeEffect : Statement .ordsizeTakeEffect := bits_event rfl
theorem registerWrite : Statement .registerWrite := bits_event rfl
theorem clusterPlace : Statement .clusterPlace := bits_event rfl
theorem clusterBlocking : Statement .clusterBlocking := bits_event rfl
theorem victimPreempt : Statement .victimPreempt := bits_event rfl
theorem clusterMove : Statement .clusterMove := bits_event rfl
theorem deterministicPreempt : Statement .deterministicPreempt := bits_event rfl
theorem clusterPreempt : Statement .clusterPreempt := bits_event rfl
theorem preemptRelease : Statement .preemptRelease := bits_event rfl
theorem backgroundClearDone : Statement .backgroundClearDone := bits_event rfl
theorem enginePassGrant : Statement .enginePassGrant := bits_event rfl
theorem passIdleEnd : Statement .passIdleEnd := bits_event rfl
theorem quantumExpiry : Statement .quantumExpiry := bits_event rfl
theorem starvationSwitch : Statement .starvationSwitch := bits_event rfl
theorem yieldBundle : Statement .yieldBundle := bits_event rfl
theorem registerWriteback : Statement .registerWriteback := bits_event rfl
theorem presenceWake : Statement .presenceWake := bits_event rfl
theorem fullEmptyWake : Statement .fullEmptyWake := bits_event rfl
theorem barrierDeparture : Statement .barrierDeparture := bits_event rfl
theorem waitcRelease : Statement .waitcRelease := bits_event rfl
theorem queueVectorWake : Statement .queueVectorWake := bits_event rfl
theorem qsndRoomWake : Statement .qsndRoomWake := bits_event rfl
theorem ordwaitRelease : Statement .ordwaitRelease := bits_event rfl
theorem waitaMonitorReread : Statement .waitaMonitorReread := bits_event rfl
theorem waitaPoll : Statement .waitaPoll := bits_event rfl
theorem svcReply : Statement .svcReply := bits_event rfl
theorem obrelComplete : Statement .obrelComplete := bits_event rfl
theorem matrixPassRetire : Statement .matrixPassRetire := bits_event rfl
theorem tileOpExecute : Statement .tileOpExecute := bits_event rfl
theorem copyChunkLand : Statement .copyChunkLand := bits_event rfl
theorem copyComplete : Statement .copyComplete := bits_event rfl
theorem glintReplay : Statement .glintReplay := bits_event rfl
theorem uncorrectableConsume : Statement .uncorrectableConsume := bits_event rfl
theorem supervisorDecision : Statement .supervisorDecision := bits_event rfl
theorem controlCoreHwError : Statement .controlCoreHwError := bits_event rfl
theorem powerLoss : Statement .powerLoss := bits_event rfl
theorem ethLinkStateChange : Statement .ethLinkStateChange := bits_event rfl
theorem cxlLinkDown : Statement .cxlLinkDown := bits_event rfl
theorem copyChunkRetransmit : Statement .copyChunkRetransmit := bits_event rfl

end Sys2Proof.Laws.Bits
end

