-- ==== Sys2Proof/Laws/State.lean ====
section
/-! SUPPORT. One lemma for each field and each update of the state and of a group: what the update leaves as it was, true by
unfolding the update. -/
namespace Sys2Proof.Machine

section setGroup
variable (s : State) (k : Nat) (x : Group)
@[simp] theorem State.setGroup_now : (s.setGroup k x).now = s.now := rfl
@[simp] theorem State.setGroup_sched : (s.setGroup k x).sched = s.sched := rfl
@[simp] theorem State.setGroup_fresh : (s.setGroup k x).fresh = s.fresh := rfl
@[simp] theorem State.setGroup_iss : (s.setGroup k x).iss = s.iss := rfl
@[simp] theorem State.setGroup_inp : (s.setGroup k x).inp = s.inp := rfl
@[simp] theorem State.setGroup_powered : (s.setGroup k x).powered = s.powered := rfl
@[simp] theorem State.setGroup_tripped : (s.setGroup k x).tripped = s.tripped := rfl
@[simp] theorem State.setGroup_fuses : (s.setGroup k x).fuses = s.fuses := rfl
@[simp] theorem State.setGroup_flash : (s.setGroup k x).flash = s.flash := rfl
@[simp] theorem State.setGroup_image : (s.setGroup k x).image = s.image := rfl
@[simp] theorem State.setGroup_errCode : (s.setGroup k x).errCode = s.errCode := rfl
@[simp] theorem State.setGroup_errDie : (s.setGroup k x).errDie = s.errDie := rfl
@[simp] theorem State.setGroup_ready : (s.setGroup k x).ready = s.ready := rfl
@[simp] theorem State.setGroup_readyAt : (s.setGroup k x).readyAt = s.readyAt := rfl
@[simp] theorem State.setGroup_warm : (s.setGroup k x).warm = s.warm := rfl
@[simp] theorem State.setGroup_rate : (s.setGroup k x).rate = s.rate := rfl
@[simp] theorem State.setGroup_capPa : (s.setGroup k x).capPa = s.capPa := rfl
@[simp] theorem State.setGroup_capVa : (s.setGroup k x).capVa = s.capVa := rfl
@[simp] theorem State.setGroup_caps : (s.setGroup k x).caps = s.caps := rfl
@[simp] theorem State.setGroup_ctxBase : (s.setGroup k x).ctxBase = s.ctxBase := rfl
@[simp] theorem State.setGroup_fabUp : (s.setGroup k x).fabUp = s.fabUp := rfl
@[simp] theorem State.setGroup_links : (s.setGroup k x).links = s.links := rfl
@[simp] theorem State.setGroup_retries : (s.setGroup k x).retries = s.retries := rfl
@[simp] theorem State.setGroup_eth : (s.setGroup k x).eth = s.eth := rfl
@[simp] theorem State.setGroup_cxl : (s.setGroup k x).cxl = s.cxl := rfl
@[simp] theorem State.setGroup_decoders : (s.setGroup k x).decoders = s.decoders := rfl
@[simp] theorem State.setGroup_removed : (s.setGroup k x).removed = s.removed := rfl
@[simp] theorem State.setGroup_mem : (s.setGroup k x).mem = s.mem := rfl
@[simp] theorem State.setGroup_poison : (s.setGroup k x).poison = s.poison := rfl
@[simp] theorem State.setGroup_tlb : (s.setGroup k x).tlb = s.tlb := rfl
@[simp] theorem State.setGroup_net : (s.setGroup k x).net = s.net := rfl
@[simp] theorem State.setGroup_fieldNow : (s.setGroup k x).fieldNow = s.fieldNow := rfl
@[simp] theorem State.setGroup_fieldSaved : (s.setGroup k x).fieldSaved = s.fieldSaved := rfl
@[simp] theorem State.setGroup_live : (s.setGroup k x).live = s.live := rfl
@[simp] theorem State.setGroup_flushedAt : (s.setGroup k x).flushedAt = s.flushedAt := rfl
@[simp] theorem State.setGroup_windowAt : (s.setGroup k x).windowAt = s.windowAt := rfl
@[simp] theorem State.setGroup_active : (s.setGroup k x).active = s.active := rfl
@[simp] theorem State.setGroup_inactive : (s.setGroup k x).inactive = s.inactive := rfl
@[simp] theorem State.setGroup_dies : (s.setGroup k x).dies = s.dies := rfl
@[simp] theorem State.setGroup_owners : (s.setGroup k x).owners = s.owners := rfl
@[simp] theorem State.setGroup_cores : (s.setGroup k x).cores = s.cores := rfl
@[simp] theorem State.setGroup_slots : (s.setGroup k x).slots = s.slots := rfl
@[simp] theorem State.setGroup_quads : (s.setGroup k x).quads = s.quads := rfl
@[simp] theorem State.setGroup_harts : (s.setGroup k x).harts = s.harts := rfl
@[simp] theorem State.setGroup_launches : (s.setGroup k x).launches = s.launches := rfl
@[simp] theorem State.setGroup_queues : (s.setGroup k x).queues = s.queues := rfl
@[simp] theorem State.setGroup_clusters : (s.setGroup k x).clusters = s.clusters := rfl
@[simp] theorem State.setGroup_teams : (s.setGroup k x).teams = s.teams := rfl
@[simp] theorem State.setGroup_releases : (s.setGroup k x).releases = s.releases := rfl
@[simp] theorem State.setGroup_retired : (s.setGroup k x).retired = s.retired := rfl
@[simp] theorem State.setGroup_mailbox : (s.setGroup k x).mailbox = s.mailbox := rfl
end setGroup

section setTeam
variable (s : State) (k : Nat) (x : Team)
@[simp] theorem State.setTeam_now : (s.setTeam k x).now = s.now := rfl
@[simp] theorem State.setTeam_sched : (s.setTeam k x).sched = s.sched := rfl
@[simp] theorem State.setTeam_fresh : (s.setTeam k x).fresh = s.fresh := rfl
@[simp] theorem State.setTeam_iss : (s.setTeam k x).iss = s.iss := rfl
@[simp] theorem State.setTeam_inp : (s.setTeam k x).inp = s.inp := rfl
@[simp] theorem State.setTeam_powered : (s.setTeam k x).powered = s.powered := rfl
@[simp] theorem State.setTeam_tripped : (s.setTeam k x).tripped = s.tripped := rfl
@[simp] theorem State.setTeam_fuses : (s.setTeam k x).fuses = s.fuses := rfl
@[simp] theorem State.setTeam_flash : (s.setTeam k x).flash = s.flash := rfl
@[simp] theorem State.setTeam_image : (s.setTeam k x).image = s.image := rfl
@[simp] theorem State.setTeam_errCode : (s.setTeam k x).errCode = s.errCode := rfl
@[simp] theorem State.setTeam_errDie : (s.setTeam k x).errDie = s.errDie := rfl
@[simp] theorem State.setTeam_ready : (s.setTeam k x).ready = s.ready := rfl
@[simp] theorem State.setTeam_readyAt : (s.setTeam k x).readyAt = s.readyAt := rfl
@[simp] theorem State.setTeam_warm : (s.setTeam k x).warm = s.warm := rfl
@[simp] theorem State.setTeam_rate : (s.setTeam k x).rate = s.rate := rfl
@[simp] theorem State.setTeam_capPa : (s.setTeam k x).capPa = s.capPa := rfl
@[simp] theorem State.setTeam_capVa : (s.setTeam k x).capVa = s.capVa := rfl
@[simp] theorem State.setTeam_caps : (s.setTeam k x).caps = s.caps := rfl
@[simp] theorem State.setTeam_ctxBase : (s.setTeam k x).ctxBase = s.ctxBase := rfl
@[simp] theorem State.setTeam_fabUp : (s.setTeam k x).fabUp = s.fabUp := rfl
@[simp] theorem State.setTeam_links : (s.setTeam k x).links = s.links := rfl
@[simp] theorem State.setTeam_retries : (s.setTeam k x).retries = s.retries := rfl
@[simp] theorem State.setTeam_eth : (s.setTeam k x).eth = s.eth := rfl
@[simp] theorem State.setTeam_cxl : (s.setTeam k x).cxl = s.cxl := rfl
@[simp] theorem State.setTeam_decoders : (s.setTeam k x).decoders = s.decoders := rfl
@[simp] theorem State.setTeam_removed : (s.setTeam k x).removed = s.removed := rfl
@[simp] theorem State.setTeam_mem : (s.setTeam k x).mem = s.mem := rfl
@[simp] theorem State.setTeam_poison : (s.setTeam k x).poison = s.poison := rfl
@[simp] theorem State.setTeam_tlb : (s.setTeam k x).tlb = s.tlb := rfl
@[simp] theorem State.setTeam_net : (s.setTeam k x).net = s.net := rfl
@[simp] theorem State.setTeam_fieldNow : (s.setTeam k x).fieldNow = s.fieldNow := rfl
@[simp] theorem State.setTeam_fieldSaved : (s.setTeam k x).fieldSaved = s.fieldSaved := rfl
@[simp] theorem State.setTeam_live : (s.setTeam k x).live = s.live := rfl
@[simp] theorem State.setTeam_flushedAt : (s.setTeam k x).flushedAt = s.flushedAt := rfl
@[simp] theorem State.setTeam_windowAt : (s.setTeam k x).windowAt = s.windowAt := rfl
@[simp] theorem State.setTeam_active : (s.setTeam k x).active = s.active := rfl
@[simp] theorem State.setTeam_inactive : (s.setTeam k x).inactive = s.inactive := rfl
@[simp] theorem State.setTeam_dies : (s.setTeam k x).dies = s.dies := rfl
@[simp] theorem State.setTeam_owners : (s.setTeam k x).owners = s.owners := rfl
@[simp] theorem State.setTeam_cores : (s.setTeam k x).cores = s.cores := rfl
@[simp] theorem State.setTeam_slots : (s.setTeam k x).slots = s.slots := rfl
@[simp] theorem State.setTeam_quads : (s.setTeam k x).quads = s.quads := rfl
@[simp] theorem State.setTeam_harts : (s.setTeam k x).harts = s.harts := rfl
@[simp] theorem State.setTeam_launches : (s.setTeam k x).launches = s.launches := rfl
@[simp] theorem State.setTeam_queues : (s.setTeam k x).queues = s.queues := rfl
@[simp] theorem State.setTeam_clusters : (s.setTeam k x).clusters = s.clusters := rfl
@[simp] theorem State.setTeam_groups : (s.setTeam k x).groups = s.groups := rfl
@[simp] theorem State.setTeam_releases : (s.setTeam k x).releases = s.releases := rfl
@[simp] theorem State.setTeam_retired : (s.setTeam k x).retired = s.retired := rfl
@[simp] theorem State.setTeam_mailbox : (s.setTeam k x).mailbox = s.mailbox := rfl
end setTeam

section setCluster
variable (s : State) (k : Nat) (x : Cluster)
@[simp] theorem State.setCluster_now : (s.setCluster k x).now = s.now := rfl
@[simp] theorem State.setCluster_sched : (s.setCluster k x).sched = s.sched := rfl
@[simp] theorem State.setCluster_fresh : (s.setCluster k x).fresh = s.fresh := rfl
@[simp] theorem State.setCluster_iss : (s.setCluster k x).iss = s.iss := rfl
@[simp] theorem State.setCluster_inp : (s.setCluster k x).inp = s.inp := rfl
@[simp] theorem State.setCluster_powered : (s.setCluster k x).powered = s.powered := rfl
@[simp] theorem State.setCluster_tripped : (s.setCluster k x).tripped = s.tripped := rfl
@[simp] theorem State.setCluster_fuses : (s.setCluster k x).fuses = s.fuses := rfl
@[simp] theorem State.setCluster_flash : (s.setCluster k x).flash = s.flash := rfl
@[simp] theorem State.setCluster_image : (s.setCluster k x).image = s.image := rfl
@[simp] theorem State.setCluster_errCode : (s.setCluster k x).errCode = s.errCode := rfl
@[simp] theorem State.setCluster_errDie : (s.setCluster k x).errDie = s.errDie := rfl
@[simp] theorem State.setCluster_ready : (s.setCluster k x).ready = s.ready := rfl
@[simp] theorem State.setCluster_readyAt : (s.setCluster k x).readyAt = s.readyAt := rfl
@[simp] theorem State.setCluster_warm : (s.setCluster k x).warm = s.warm := rfl
@[simp] theorem State.setCluster_rate : (s.setCluster k x).rate = s.rate := rfl
@[simp] theorem State.setCluster_capPa : (s.setCluster k x).capPa = s.capPa := rfl
@[simp] theorem State.setCluster_capVa : (s.setCluster k x).capVa = s.capVa := rfl
@[simp] theorem State.setCluster_caps : (s.setCluster k x).caps = s.caps := rfl
@[simp] theorem State.setCluster_ctxBase : (s.setCluster k x).ctxBase = s.ctxBase := rfl
@[simp] theorem State.setCluster_fabUp : (s.setCluster k x).fabUp = s.fabUp := rfl
@[simp] theorem State.setCluster_links : (s.setCluster k x).links = s.links := rfl
@[simp] theorem State.setCluster_retries : (s.setCluster k x).retries = s.retries := rfl
@[simp] theorem State.setCluster_eth : (s.setCluster k x).eth = s.eth := rfl
@[simp] theorem State.setCluster_cxl : (s.setCluster k x).cxl = s.cxl := rfl
@[simp] theorem State.setCluster_decoders : (s.setCluster k x).decoders = s.decoders := rfl
@[simp] theorem State.setCluster_removed : (s.setCluster k x).removed = s.removed := rfl
@[simp] theorem State.setCluster_mem : (s.setCluster k x).mem = s.mem := rfl
@[simp] theorem State.setCluster_poison : (s.setCluster k x).poison = s.poison := rfl
@[simp] theorem State.setCluster_tlb : (s.setCluster k x).tlb = s.tlb := rfl
@[simp] theorem State.setCluster_net : (s.setCluster k x).net = s.net := rfl
@[simp] theorem State.setCluster_fieldNow : (s.setCluster k x).fieldNow = s.fieldNow := rfl
@[simp] theorem State.setCluster_fieldSaved : (s.setCluster k x).fieldSaved = s.fieldSaved := rfl
@[simp] theorem State.setCluster_live : (s.setCluster k x).live = s.live := rfl
@[simp] theorem State.setCluster_flushedAt : (s.setCluster k x).flushedAt = s.flushedAt := rfl
@[simp] theorem State.setCluster_windowAt : (s.setCluster k x).windowAt = s.windowAt := rfl
@[simp] theorem State.setCluster_active : (s.setCluster k x).active = s.active := rfl
@[simp] theorem State.setCluster_inactive : (s.setCluster k x).inactive = s.inactive := rfl
@[simp] theorem State.setCluster_dies : (s.setCluster k x).dies = s.dies := rfl
@[simp] theorem State.setCluster_owners : (s.setCluster k x).owners = s.owners := rfl
@[simp] theorem State.setCluster_cores : (s.setCluster k x).cores = s.cores := rfl
@[simp] theorem State.setCluster_slots : (s.setCluster k x).slots = s.slots := rfl
@[simp] theorem State.setCluster_quads : (s.setCluster k x).quads = s.quads := rfl
@[simp] theorem State.setCluster_harts : (s.setCluster k x).harts = s.harts := rfl
@[simp] theorem State.setCluster_launches : (s.setCluster k x).launches = s.launches := rfl
@[simp] theorem State.setCluster_queues : (s.setCluster k x).queues = s.queues := rfl
@[simp] theorem State.setCluster_teams : (s.setCluster k x).teams = s.teams := rfl
@[simp] theorem State.setCluster_groups : (s.setCluster k x).groups = s.groups := rfl
@[simp] theorem State.setCluster_releases : (s.setCluster k x).releases = s.releases := rfl
@[simp] theorem State.setCluster_retired : (s.setCluster k x).retired = s.retired := rfl
@[simp] theorem State.setCluster_mailbox : (s.setCluster k x).mailbox = s.mailbox := rfl
end setCluster

section setLaunch
variable (s : State) (k : Word) (x : Launch)
@[simp] theorem State.setLaunch_now : (s.setLaunch k x).now = s.now := rfl
@[simp] theorem State.setLaunch_sched : (s.setLaunch k x).sched = s.sched := rfl
@[simp] theorem State.setLaunch_fresh : (s.setLaunch k x).fresh = s.fresh := rfl
@[simp] theorem State.setLaunch_iss : (s.setLaunch k x).iss = s.iss := rfl
@[simp] theorem State.setLaunch_inp : (s.setLaunch k x).inp = s.inp := rfl
@[simp] theorem State.setLaunch_powered : (s.setLaunch k x).powered = s.powered := rfl
@[simp] theorem State.setLaunch_tripped : (s.setLaunch k x).tripped = s.tripped := rfl
@[simp] theorem State.setLaunch_fuses : (s.setLaunch k x).fuses = s.fuses := rfl
@[simp] theorem State.setLaunch_flash : (s.setLaunch k x).flash = s.flash := rfl
@[simp] theorem State.setLaunch_image : (s.setLaunch k x).image = s.image := rfl
@[simp] theorem State.setLaunch_errCode : (s.setLaunch k x).errCode = s.errCode := rfl
@[simp] theorem State.setLaunch_errDie : (s.setLaunch k x).errDie = s.errDie := rfl
@[simp] theorem State.setLaunch_ready : (s.setLaunch k x).ready = s.ready := rfl
@[simp] theorem State.setLaunch_readyAt : (s.setLaunch k x).readyAt = s.readyAt := rfl
@[simp] theorem State.setLaunch_warm : (s.setLaunch k x).warm = s.warm := rfl
@[simp] theorem State.setLaunch_rate : (s.setLaunch k x).rate = s.rate := rfl
@[simp] theorem State.setLaunch_capPa : (s.setLaunch k x).capPa = s.capPa := rfl
@[simp] theorem State.setLaunch_capVa : (s.setLaunch k x).capVa = s.capVa := rfl
@[simp] theorem State.setLaunch_caps : (s.setLaunch k x).caps = s.caps := rfl
@[simp] theorem State.setLaunch_ctxBase : (s.setLaunch k x).ctxBase = s.ctxBase := rfl
@[simp] theorem State.setLaunch_fabUp : (s.setLaunch k x).fabUp = s.fabUp := rfl
@[simp] theorem State.setLaunch_links : (s.setLaunch k x).links = s.links := rfl
@[simp] theorem State.setLaunch_retries : (s.setLaunch k x).retries = s.retries := rfl
@[simp] theorem State.setLaunch_eth : (s.setLaunch k x).eth = s.eth := rfl
@[simp] theorem State.setLaunch_cxl : (s.setLaunch k x).cxl = s.cxl := rfl
@[simp] theorem State.setLaunch_decoders : (s.setLaunch k x).decoders = s.decoders := rfl
@[simp] theorem State.setLaunch_removed : (s.setLaunch k x).removed = s.removed := rfl
@[simp] theorem State.setLaunch_mem : (s.setLaunch k x).mem = s.mem := rfl
@[simp] theorem State.setLaunch_poison : (s.setLaunch k x).poison = s.poison := rfl
@[simp] theorem State.setLaunch_tlb : (s.setLaunch k x).tlb = s.tlb := rfl
@[simp] theorem State.setLaunch_net : (s.setLaunch k x).net = s.net := rfl
@[simp] theorem State.setLaunch_fieldNow : (s.setLaunch k x).fieldNow = s.fieldNow := rfl
@[simp] theorem State.setLaunch_fieldSaved : (s.setLaunch k x).fieldSaved = s.fieldSaved := rfl
@[simp] theorem State.setLaunch_live : (s.setLaunch k x).live = s.live := rfl
@[simp] theorem State.setLaunch_flushedAt : (s.setLaunch k x).flushedAt = s.flushedAt := rfl
@[simp] theorem State.setLaunch_windowAt : (s.setLaunch k x).windowAt = s.windowAt := rfl
@[simp] theorem State.setLaunch_active : (s.setLaunch k x).active = s.active := rfl
@[simp] theorem State.setLaunch_inactive : (s.setLaunch k x).inactive = s.inactive := rfl
@[simp] theorem State.setLaunch_dies : (s.setLaunch k x).dies = s.dies := rfl
@[simp] theorem State.setLaunch_owners : (s.setLaunch k x).owners = s.owners := rfl
@[simp] theorem State.setLaunch_cores : (s.setLaunch k x).cores = s.cores := rfl
@[simp] theorem State.setLaunch_slots : (s.setLaunch k x).slots = s.slots := rfl
@[simp] theorem State.setLaunch_quads : (s.setLaunch k x).quads = s.quads := rfl
@[simp] theorem State.setLaunch_harts : (s.setLaunch k x).harts = s.harts := rfl
@[simp] theorem State.setLaunch_queues : (s.setLaunch k x).queues = s.queues := rfl
@[simp] theorem State.setLaunch_clusters : (s.setLaunch k x).clusters = s.clusters := rfl
@[simp] theorem State.setLaunch_teams : (s.setLaunch k x).teams = s.teams := rfl
@[simp] theorem State.setLaunch_groups : (s.setLaunch k x).groups = s.groups := rfl
@[simp] theorem State.setLaunch_releases : (s.setLaunch k x).releases = s.releases := rfl
@[simp] theorem State.setLaunch_retired : (s.setLaunch k x).retired = s.retired := rfl
@[simp] theorem State.setLaunch_mailbox : (s.setLaunch k x).mailbox = s.mailbox := rfl
end setLaunch

section setDie
variable (s : State) (k : Nat) (x : Die)
@[simp] theorem State.setDie_now : (s.setDie k x).now = s.now := rfl
@[simp] theorem State.setDie_sched : (s.setDie k x).sched = s.sched := rfl
@[simp] theorem State.setDie_fresh : (s.setDie k x).fresh = s.fresh := rfl
@[simp] theorem State.setDie_iss : (s.setDie k x).iss = s.iss := rfl
@[simp] theorem State.setDie_inp : (s.setDie k x).inp = s.inp := rfl
@[simp] theorem State.setDie_powered : (s.setDie k x).powered = s.powered := rfl
@[simp] theorem State.setDie_tripped : (s.setDie k x).tripped = s.tripped := rfl
@[simp] theorem State.setDie_fuses : (s.setDie k x).fuses = s.fuses := rfl
@[simp] theorem State.setDie_flash : (s.setDie k x).flash = s.flash := rfl
@[simp] theorem State.setDie_image : (s.setDie k x).image = s.image := rfl
@[simp] theorem State.setDie_errCode : (s.setDie k x).errCode = s.errCode := rfl
@[simp] theorem State.setDie_errDie : (s.setDie k x).errDie = s.errDie := rfl
@[simp] theorem State.setDie_ready : (s.setDie k x).ready = s.ready := rfl
@[simp] theorem State.setDie_readyAt : (s.setDie k x).readyAt = s.readyAt := rfl
@[simp] theorem State.setDie_warm : (s.setDie k x).warm = s.warm := rfl
@[simp] theorem State.setDie_rate : (s.setDie k x).rate = s.rate := rfl
@[simp] theorem State.setDie_capPa : (s.setDie k x).capPa = s.capPa := rfl
@[simp] theorem State.setDie_capVa : (s.setDie k x).capVa = s.capVa := rfl
@[simp] theorem State.setDie_caps : (s.setDie k x).caps = s.caps := rfl
@[simp] theorem State.setDie_ctxBase : (s.setDie k x).ctxBase = s.ctxBase := rfl
@[simp] theorem State.setDie_fabUp : (s.setDie k x).fabUp = s.fabUp := rfl
@[simp] theorem State.setDie_links : (s.setDie k x).links = s.links := rfl
@[simp] theorem State.setDie_retries : (s.setDie k x).retries = s.retries := rfl
@[simp] theorem State.setDie_eth : (s.setDie k x).eth = s.eth := rfl
@[simp] theorem State.setDie_cxl : (s.setDie k x).cxl = s.cxl := rfl
@[simp] theorem State.setDie_decoders : (s.setDie k x).decoders = s.decoders := rfl
@[simp] theorem State.setDie_removed : (s.setDie k x).removed = s.removed := rfl
@[simp] theorem State.setDie_mem : (s.setDie k x).mem = s.mem := rfl
@[simp] theorem State.setDie_poison : (s.setDie k x).poison = s.poison := rfl
@[simp] theorem State.setDie_tlb : (s.setDie k x).tlb = s.tlb := rfl
@[simp] theorem State.setDie_net : (s.setDie k x).net = s.net := rfl
@[simp] theorem State.setDie_fieldNow : (s.setDie k x).fieldNow = s.fieldNow := rfl
@[simp] theorem State.setDie_fieldSaved : (s.setDie k x).fieldSaved = s.fieldSaved := rfl
@[simp] theorem State.setDie_live : (s.setDie k x).live = s.live := rfl
@[simp] theorem State.setDie_flushedAt : (s.setDie k x).flushedAt = s.flushedAt := rfl
@[simp] theorem State.setDie_windowAt : (s.setDie k x).windowAt = s.windowAt := rfl
@[simp] theorem State.setDie_active : (s.setDie k x).active = s.active := rfl
@[simp] theorem State.setDie_inactive : (s.setDie k x).inactive = s.inactive := rfl
@[simp] theorem State.setDie_owners : (s.setDie k x).owners = s.owners := rfl
@[simp] theorem State.setDie_cores : (s.setDie k x).cores = s.cores := rfl
@[simp] theorem State.setDie_slots : (s.setDie k x).slots = s.slots := rfl
@[simp] theorem State.setDie_quads : (s.setDie k x).quads = s.quads := rfl
@[simp] theorem State.setDie_harts : (s.setDie k x).harts = s.harts := rfl
@[simp] theorem State.setDie_launches : (s.setDie k x).launches = s.launches := rfl
@[simp] theorem State.setDie_queues : (s.setDie k x).queues = s.queues := rfl
@[simp] theorem State.setDie_clusters : (s.setDie k x).clusters = s.clusters := rfl
@[simp] theorem State.setDie_teams : (s.setDie k x).teams = s.teams := rfl
@[simp] theorem State.setDie_groups : (s.setDie k x).groups = s.groups := rfl
@[simp] theorem State.setDie_releases : (s.setDie k x).releases = s.releases := rfl
@[simp] theorem State.setDie_retired : (s.setDie k x).retired = s.retired := rfl
@[simp] theorem State.setDie_mailbox : (s.setDie k x).mailbox = s.mailbox := rfl
end setDie

section setOwner
variable (s : State) (k : Nat) (x : Owner)
@[simp] theorem State.setOwner_now : (s.setOwner k x).now = s.now := rfl
@[simp] theorem State.setOwner_sched : (s.setOwner k x).sched = s.sched := rfl
@[simp] theorem State.setOwner_fresh : (s.setOwner k x).fresh = s.fresh := rfl
@[simp] theorem State.setOwner_iss : (s.setOwner k x).iss = s.iss := rfl
@[simp] theorem State.setOwner_inp : (s.setOwner k x).inp = s.inp := rfl
@[simp] theorem State.setOwner_powered : (s.setOwner k x).powered = s.powered := rfl
@[simp] theorem State.setOwner_tripped : (s.setOwner k x).tripped = s.tripped := rfl
@[simp] theorem State.setOwner_fuses : (s.setOwner k x).fuses = s.fuses := rfl
@[simp] theorem State.setOwner_flash : (s.setOwner k x).flash = s.flash := rfl
@[simp] theorem State.setOwner_image : (s.setOwner k x).image = s.image := rfl
@[simp] theorem State.setOwner_errCode : (s.setOwner k x).errCode = s.errCode := rfl
@[simp] theorem State.setOwner_errDie : (s.setOwner k x).errDie = s.errDie := rfl
@[simp] theorem State.setOwner_ready : (s.setOwner k x).ready = s.ready := rfl
@[simp] theorem State.setOwner_readyAt : (s.setOwner k x).readyAt = s.readyAt := rfl
@[simp] theorem State.setOwner_warm : (s.setOwner k x).warm = s.warm := rfl
@[simp] theorem State.setOwner_rate : (s.setOwner k x).rate = s.rate := rfl
@[simp] theorem State.setOwner_capPa : (s.setOwner k x).capPa = s.capPa := rfl
@[simp] theorem State.setOwner_capVa : (s.setOwner k x).capVa = s.capVa := rfl
@[simp] theorem State.setOwner_caps : (s.setOwner k x).caps = s.caps := rfl
@[simp] theorem State.setOwner_ctxBase : (s.setOwner k x).ctxBase = s.ctxBase := rfl
@[simp] theorem State.setOwner_fabUp : (s.setOwner k x).fabUp = s.fabUp := rfl
@[simp] theorem State.setOwner_links : (s.setOwner k x).links = s.links := rfl
@[simp] theorem State.setOwner_retries : (s.setOwner k x).retries = s.retries := rfl
@[simp] theorem State.setOwner_eth : (s.setOwner k x).eth = s.eth := rfl
@[simp] theorem State.setOwner_cxl : (s.setOwner k x).cxl = s.cxl := rfl
@[simp] theorem State.setOwner_decoders : (s.setOwner k x).decoders = s.decoders := rfl
@[simp] theorem State.setOwner_removed : (s.setOwner k x).removed = s.removed := rfl
@[simp] theorem State.setOwner_mem : (s.setOwner k x).mem = s.mem := rfl
@[simp] theorem State.setOwner_poison : (s.setOwner k x).poison = s.poison := rfl
@[simp] theorem State.setOwner_tlb : (s.setOwner k x).tlb = s.tlb := rfl
@[simp] theorem State.setOwner_net : (s.setOwner k x).net = s.net := rfl
@[simp] theorem State.setOwner_fieldNow : (s.setOwner k x).fieldNow = s.fieldNow := rfl
@[simp] theorem State.setOwner_fieldSaved : (s.setOwner k x).fieldSaved = s.fieldSaved := rfl
@[simp] theorem State.setOwner_live : (s.setOwner k x).live = s.live := rfl
@[simp] theorem State.setOwner_flushedAt : (s.setOwner k x).flushedAt = s.flushedAt := rfl
@[simp] theorem State.setOwner_windowAt : (s.setOwner k x).windowAt = s.windowAt := rfl
@[simp] theorem State.setOwner_active : (s.setOwner k x).active = s.active := rfl
@[simp] theorem State.setOwner_inactive : (s.setOwner k x).inactive = s.inactive := rfl
@[simp] theorem State.setOwner_dies : (s.setOwner k x).dies = s.dies := rfl
@[simp] theorem State.setOwner_cores : (s.setOwner k x).cores = s.cores := rfl
@[simp] theorem State.setOwner_slots : (s.setOwner k x).slots = s.slots := rfl
@[simp] theorem State.setOwner_quads : (s.setOwner k x).quads = s.quads := rfl
@[simp] theorem State.setOwner_harts : (s.setOwner k x).harts = s.harts := rfl
@[simp] theorem State.setOwner_launches : (s.setOwner k x).launches = s.launches := rfl
@[simp] theorem State.setOwner_queues : (s.setOwner k x).queues = s.queues := rfl
@[simp] theorem State.setOwner_clusters : (s.setOwner k x).clusters = s.clusters := rfl
@[simp] theorem State.setOwner_teams : (s.setOwner k x).teams = s.teams := rfl
@[simp] theorem State.setOwner_groups : (s.setOwner k x).groups = s.groups := rfl
@[simp] theorem State.setOwner_releases : (s.setOwner k x).releases = s.releases := rfl
@[simp] theorem State.setOwner_retired : (s.setOwner k x).retired = s.retired := rfl
@[simp] theorem State.setOwner_mailbox : (s.setOwner k x).mailbox = s.mailbox := rfl
end setOwner

section setCore
variable (s : State) (k : Nat) (x : CoreSt)
@[simp] theorem State.setCore_now : (s.setCore k x).now = s.now := rfl
@[simp] theorem State.setCore_sched : (s.setCore k x).sched = s.sched := rfl
@[simp] theorem State.setCore_fresh : (s.setCore k x).fresh = s.fresh := rfl
@[simp] theorem State.setCore_iss : (s.setCore k x).iss = s.iss := rfl
@[simp] theorem State.setCore_inp : (s.setCore k x).inp = s.inp := rfl
@[simp] theorem State.setCore_powered : (s.setCore k x).powered = s.powered := rfl
@[simp] theorem State.setCore_tripped : (s.setCore k x).tripped = s.tripped := rfl
@[simp] theorem State.setCore_fuses : (s.setCore k x).fuses = s.fuses := rfl
@[simp] theorem State.setCore_flash : (s.setCore k x).flash = s.flash := rfl
@[simp] theorem State.setCore_image : (s.setCore k x).image = s.image := rfl
@[simp] theorem State.setCore_errCode : (s.setCore k x).errCode = s.errCode := rfl
@[simp] theorem State.setCore_errDie : (s.setCore k x).errDie = s.errDie := rfl
@[simp] theorem State.setCore_ready : (s.setCore k x).ready = s.ready := rfl
@[simp] theorem State.setCore_readyAt : (s.setCore k x).readyAt = s.readyAt := rfl
@[simp] theorem State.setCore_warm : (s.setCore k x).warm = s.warm := rfl
@[simp] theorem State.setCore_rate : (s.setCore k x).rate = s.rate := rfl
@[simp] theorem State.setCore_capPa : (s.setCore k x).capPa = s.capPa := rfl
@[simp] theorem State.setCore_capVa : (s.setCore k x).capVa = s.capVa := rfl
@[simp] theorem State.setCore_caps : (s.setCore k x).caps = s.caps := rfl
@[simp] theorem State.setCore_ctxBase : (s.setCore k x).ctxBase = s.ctxBase := rfl
@[simp] theorem State.setCore_fabUp : (s.setCore k x).fabUp = s.fabUp := rfl
@[simp] theorem State.setCore_links : (s.setCore k x).links = s.links := rfl
@[simp] theorem State.setCore_retries : (s.setCore k x).retries = s.retries := rfl
@[simp] theorem State.setCore_eth : (s.setCore k x).eth = s.eth := rfl
@[simp] theorem State.setCore_cxl : (s.setCore k x).cxl = s.cxl := rfl
@[simp] theorem State.setCore_decoders : (s.setCore k x).decoders = s.decoders := rfl
@[simp] theorem State.setCore_removed : (s.setCore k x).removed = s.removed := rfl
@[simp] theorem State.setCore_mem : (s.setCore k x).mem = s.mem := rfl
@[simp] theorem State.setCore_poison : (s.setCore k x).poison = s.poison := rfl
@[simp] theorem State.setCore_tlb : (s.setCore k x).tlb = s.tlb := rfl
@[simp] theorem State.setCore_net : (s.setCore k x).net = s.net := rfl
@[simp] theorem State.setCore_fieldNow : (s.setCore k x).fieldNow = s.fieldNow := rfl
@[simp] theorem State.setCore_fieldSaved : (s.setCore k x).fieldSaved = s.fieldSaved := rfl
@[simp] theorem State.setCore_live : (s.setCore k x).live = s.live := rfl
@[simp] theorem State.setCore_flushedAt : (s.setCore k x).flushedAt = s.flushedAt := rfl
@[simp] theorem State.setCore_windowAt : (s.setCore k x).windowAt = s.windowAt := rfl
@[simp] theorem State.setCore_active : (s.setCore k x).active = s.active := rfl
@[simp] theorem State.setCore_inactive : (s.setCore k x).inactive = s.inactive := rfl
@[simp] theorem State.setCore_dies : (s.setCore k x).dies = s.dies := rfl
@[simp] theorem State.setCore_owners : (s.setCore k x).owners = s.owners := rfl
@[simp] theorem State.setCore_slots : (s.setCore k x).slots = s.slots := rfl
@[simp] theorem State.setCore_quads : (s.setCore k x).quads = s.quads := rfl
@[simp] theorem State.setCore_harts : (s.setCore k x).harts = s.harts := rfl
@[simp] theorem State.setCore_launches : (s.setCore k x).launches = s.launches := rfl
@[simp] theorem State.setCore_queues : (s.setCore k x).queues = s.queues := rfl
@[simp] theorem State.setCore_clusters : (s.setCore k x).clusters = s.clusters := rfl
@[simp] theorem State.setCore_teams : (s.setCore k x).teams = s.teams := rfl
@[simp] theorem State.setCore_groups : (s.setCore k x).groups = s.groups := rfl
@[simp] theorem State.setCore_releases : (s.setCore k x).releases = s.releases := rfl
@[simp] theorem State.setCore_retired : (s.setCore k x).retired = s.retired := rfl
@[simp] theorem State.setCore_mailbox : (s.setCore k x).mailbox = s.mailbox := rfl
end setCore

section setSlot
variable (s : State) (k : Nat) (x : Slot)
@[simp] theorem State.setSlot_now : (s.setSlot k x).now = s.now := rfl
@[simp] theorem State.setSlot_sched : (s.setSlot k x).sched = s.sched := rfl
@[simp] theorem State.setSlot_fresh : (s.setSlot k x).fresh = s.fresh := rfl
@[simp] theorem State.setSlot_iss : (s.setSlot k x).iss = s.iss := rfl
@[simp] theorem State.setSlot_inp : (s.setSlot k x).inp = s.inp := rfl
@[simp] theorem State.setSlot_powered : (s.setSlot k x).powered = s.powered := rfl
@[simp] theorem State.setSlot_tripped : (s.setSlot k x).tripped = s.tripped := rfl
@[simp] theorem State.setSlot_fuses : (s.setSlot k x).fuses = s.fuses := rfl
@[simp] theorem State.setSlot_flash : (s.setSlot k x).flash = s.flash := rfl
@[simp] theorem State.setSlot_image : (s.setSlot k x).image = s.image := rfl
@[simp] theorem State.setSlot_errCode : (s.setSlot k x).errCode = s.errCode := rfl
@[simp] theorem State.setSlot_errDie : (s.setSlot k x).errDie = s.errDie := rfl
@[simp] theorem State.setSlot_ready : (s.setSlot k x).ready = s.ready := rfl
@[simp] theorem State.setSlot_readyAt : (s.setSlot k x).readyAt = s.readyAt := rfl
@[simp] theorem State.setSlot_warm : (s.setSlot k x).warm = s.warm := rfl
@[simp] theorem State.setSlot_rate : (s.setSlot k x).rate = s.rate := rfl
@[simp] theorem State.setSlot_capPa : (s.setSlot k x).capPa = s.capPa := rfl
@[simp] theorem State.setSlot_capVa : (s.setSlot k x).capVa = s.capVa := rfl
@[simp] theorem State.setSlot_caps : (s.setSlot k x).caps = s.caps := rfl
@[simp] theorem State.setSlot_ctxBase : (s.setSlot k x).ctxBase = s.ctxBase := rfl
@[simp] theorem State.setSlot_fabUp : (s.setSlot k x).fabUp = s.fabUp := rfl
@[simp] theorem State.setSlot_links : (s.setSlot k x).links = s.links := rfl
@[simp] theorem State.setSlot_retries : (s.setSlot k x).retries = s.retries := rfl
@[simp] theorem State.setSlot_eth : (s.setSlot k x).eth = s.eth := rfl
@[simp] theorem State.setSlot_cxl : (s.setSlot k x).cxl = s.cxl := rfl
@[simp] theorem State.setSlot_decoders : (s.setSlot k x).decoders = s.decoders := rfl
@[simp] theorem State.setSlot_removed : (s.setSlot k x).removed = s.removed := rfl
@[simp] theorem State.setSlot_mem : (s.setSlot k x).mem = s.mem := rfl
@[simp] theorem State.setSlot_poison : (s.setSlot k x).poison = s.poison := rfl
@[simp] theorem State.setSlot_tlb : (s.setSlot k x).tlb = s.tlb := rfl
@[simp] theorem State.setSlot_net : (s.setSlot k x).net = s.net := rfl
@[simp] theorem State.setSlot_fieldNow : (s.setSlot k x).fieldNow = s.fieldNow := rfl
@[simp] theorem State.setSlot_fieldSaved : (s.setSlot k x).fieldSaved = s.fieldSaved := rfl
@[simp] theorem State.setSlot_live : (s.setSlot k x).live = s.live := rfl
@[simp] theorem State.setSlot_flushedAt : (s.setSlot k x).flushedAt = s.flushedAt := rfl
@[simp] theorem State.setSlot_windowAt : (s.setSlot k x).windowAt = s.windowAt := rfl
@[simp] theorem State.setSlot_active : (s.setSlot k x).active = s.active := rfl
@[simp] theorem State.setSlot_inactive : (s.setSlot k x).inactive = s.inactive := rfl
@[simp] theorem State.setSlot_dies : (s.setSlot k x).dies = s.dies := rfl
@[simp] theorem State.setSlot_owners : (s.setSlot k x).owners = s.owners := rfl
@[simp] theorem State.setSlot_cores : (s.setSlot k x).cores = s.cores := rfl
@[simp] theorem State.setSlot_quads : (s.setSlot k x).quads = s.quads := rfl
@[simp] theorem State.setSlot_harts : (s.setSlot k x).harts = s.harts := rfl
@[simp] theorem State.setSlot_launches : (s.setSlot k x).launches = s.launches := rfl
@[simp] theorem State.setSlot_queues : (s.setSlot k x).queues = s.queues := rfl
@[simp] theorem State.setSlot_clusters : (s.setSlot k x).clusters = s.clusters := rfl
@[simp] theorem State.setSlot_teams : (s.setSlot k x).teams = s.teams := rfl
@[simp] theorem State.setSlot_groups : (s.setSlot k x).groups = s.groups := rfl
@[simp] theorem State.setSlot_releases : (s.setSlot k x).releases = s.releases := rfl
@[simp] theorem State.setSlot_retired : (s.setSlot k x).retired = s.retired := rfl
@[simp] theorem State.setSlot_mailbox : (s.setSlot k x).mailbox = s.mailbox := rfl
end setSlot

section setQuad
variable (s : State) (k : Nat) (x : Quad)
@[simp] theorem State.setQuad_now : (s.setQuad k x).now = s.now := rfl
@[simp] theorem State.setQuad_sched : (s.setQuad k x).sched = s.sched := rfl
@[simp] theorem State.setQuad_fresh : (s.setQuad k x).fresh = s.fresh := rfl
@[simp] theorem State.setQuad_iss : (s.setQuad k x).iss = s.iss := rfl
@[simp] theorem State.setQuad_inp : (s.setQuad k x).inp = s.inp := rfl
@[simp] theorem State.setQuad_powered : (s.setQuad k x).powered = s.powered := rfl
@[simp] theorem State.setQuad_tripped : (s.setQuad k x).tripped = s.tripped := rfl
@[simp] theorem State.setQuad_fuses : (s.setQuad k x).fuses = s.fuses := rfl
@[simp] theorem State.setQuad_flash : (s.setQuad k x).flash = s.flash := rfl
@[simp] theorem State.setQuad_image : (s.setQuad k x).image = s.image := rfl
@[simp] theorem State.setQuad_errCode : (s.setQuad k x).errCode = s.errCode := rfl
@[simp] theorem State.setQuad_errDie : (s.setQuad k x).errDie = s.errDie := rfl
@[simp] theorem State.setQuad_ready : (s.setQuad k x).ready = s.ready := rfl
@[simp] theorem State.setQuad_readyAt : (s.setQuad k x).readyAt = s.readyAt := rfl
@[simp] theorem State.setQuad_warm : (s.setQuad k x).warm = s.warm := rfl
@[simp] theorem State.setQuad_rate : (s.setQuad k x).rate = s.rate := rfl
@[simp] theorem State.setQuad_capPa : (s.setQuad k x).capPa = s.capPa := rfl
@[simp] theorem State.setQuad_capVa : (s.setQuad k x).capVa = s.capVa := rfl
@[simp] theorem State.setQuad_caps : (s.setQuad k x).caps = s.caps := rfl
@[simp] theorem State.setQuad_ctxBase : (s.setQuad k x).ctxBase = s.ctxBase := rfl
@[simp] theorem State.setQuad_fabUp : (s.setQuad k x).fabUp = s.fabUp := rfl
@[simp] theorem State.setQuad_links : (s.setQuad k x).links = s.links := rfl
@[simp] theorem State.setQuad_retries : (s.setQuad k x).retries = s.retries := rfl
@[simp] theorem State.setQuad_eth : (s.setQuad k x).eth = s.eth := rfl
@[simp] theorem State.setQuad_cxl : (s.setQuad k x).cxl = s.cxl := rfl
@[simp] theorem State.setQuad_decoders : (s.setQuad k x).decoders = s.decoders := rfl
@[simp] theorem State.setQuad_removed : (s.setQuad k x).removed = s.removed := rfl
@[simp] theorem State.setQuad_mem : (s.setQuad k x).mem = s.mem := rfl
@[simp] theorem State.setQuad_poison : (s.setQuad k x).poison = s.poison := rfl
@[simp] theorem State.setQuad_tlb : (s.setQuad k x).tlb = s.tlb := rfl
@[simp] theorem State.setQuad_net : (s.setQuad k x).net = s.net := rfl
@[simp] theorem State.setQuad_fieldNow : (s.setQuad k x).fieldNow = s.fieldNow := rfl
@[simp] theorem State.setQuad_fieldSaved : (s.setQuad k x).fieldSaved = s.fieldSaved := rfl
@[simp] theorem State.setQuad_live : (s.setQuad k x).live = s.live := rfl
@[simp] theorem State.setQuad_flushedAt : (s.setQuad k x).flushedAt = s.flushedAt := rfl
@[simp] theorem State.setQuad_windowAt : (s.setQuad k x).windowAt = s.windowAt := rfl
@[simp] theorem State.setQuad_active : (s.setQuad k x).active = s.active := rfl
@[simp] theorem State.setQuad_inactive : (s.setQuad k x).inactive = s.inactive := rfl
@[simp] theorem State.setQuad_dies : (s.setQuad k x).dies = s.dies := rfl
@[simp] theorem State.setQuad_owners : (s.setQuad k x).owners = s.owners := rfl
@[simp] theorem State.setQuad_cores : (s.setQuad k x).cores = s.cores := rfl
@[simp] theorem State.setQuad_slots : (s.setQuad k x).slots = s.slots := rfl
@[simp] theorem State.setQuad_harts : (s.setQuad k x).harts = s.harts := rfl
@[simp] theorem State.setQuad_launches : (s.setQuad k x).launches = s.launches := rfl
@[simp] theorem State.setQuad_queues : (s.setQuad k x).queues = s.queues := rfl
@[simp] theorem State.setQuad_clusters : (s.setQuad k x).clusters = s.clusters := rfl
@[simp] theorem State.setQuad_teams : (s.setQuad k x).teams = s.teams := rfl
@[simp] theorem State.setQuad_groups : (s.setQuad k x).groups = s.groups := rfl
@[simp] theorem State.setQuad_releases : (s.setQuad k x).releases = s.releases := rfl
@[simp] theorem State.setQuad_retired : (s.setQuad k x).retired = s.retired := rfl
@[simp] theorem State.setQuad_mailbox : (s.setQuad k x).mailbox = s.mailbox := rfl
end setQuad

section setHart
variable (s : State) (k : Nat) (x : Hart)
@[simp] theorem State.setHart_now : (s.setHart k x).now = s.now := rfl
@[simp] theorem State.setHart_sched : (s.setHart k x).sched = s.sched := rfl
@[simp] theorem State.setHart_fresh : (s.setHart k x).fresh = s.fresh := rfl
@[simp] theorem State.setHart_iss : (s.setHart k x).iss = s.iss := rfl
@[simp] theorem State.setHart_inp : (s.setHart k x).inp = s.inp := rfl
@[simp] theorem State.setHart_powered : (s.setHart k x).powered = s.powered := rfl
@[simp] theorem State.setHart_tripped : (s.setHart k x).tripped = s.tripped := rfl
@[simp] theorem State.setHart_fuses : (s.setHart k x).fuses = s.fuses := rfl
@[simp] theorem State.setHart_flash : (s.setHart k x).flash = s.flash := rfl
@[simp] theorem State.setHart_image : (s.setHart k x).image = s.image := rfl
@[simp] theorem State.setHart_errCode : (s.setHart k x).errCode = s.errCode := rfl
@[simp] theorem State.setHart_errDie : (s.setHart k x).errDie = s.errDie := rfl
@[simp] theorem State.setHart_ready : (s.setHart k x).ready = s.ready := rfl
@[simp] theorem State.setHart_readyAt : (s.setHart k x).readyAt = s.readyAt := rfl
@[simp] theorem State.setHart_warm : (s.setHart k x).warm = s.warm := rfl
@[simp] theorem State.setHart_rate : (s.setHart k x).rate = s.rate := rfl
@[simp] theorem State.setHart_capPa : (s.setHart k x).capPa = s.capPa := rfl
@[simp] theorem State.setHart_capVa : (s.setHart k x).capVa = s.capVa := rfl
@[simp] theorem State.setHart_caps : (s.setHart k x).caps = s.caps := rfl
@[simp] theorem State.setHart_ctxBase : (s.setHart k x).ctxBase = s.ctxBase := rfl
@[simp] theorem State.setHart_fabUp : (s.setHart k x).fabUp = s.fabUp := rfl
@[simp] theorem State.setHart_links : (s.setHart k x).links = s.links := rfl
@[simp] theorem State.setHart_retries : (s.setHart k x).retries = s.retries := rfl
@[simp] theorem State.setHart_eth : (s.setHart k x).eth = s.eth := rfl
@[simp] theorem State.setHart_cxl : (s.setHart k x).cxl = s.cxl := rfl
@[simp] theorem State.setHart_decoders : (s.setHart k x).decoders = s.decoders := rfl
@[simp] theorem State.setHart_removed : (s.setHart k x).removed = s.removed := rfl
@[simp] theorem State.setHart_mem : (s.setHart k x).mem = s.mem := rfl
@[simp] theorem State.setHart_poison : (s.setHart k x).poison = s.poison := rfl
@[simp] theorem State.setHart_tlb : (s.setHart k x).tlb = s.tlb := rfl
@[simp] theorem State.setHart_net : (s.setHart k x).net = s.net := rfl
@[simp] theorem State.setHart_fieldNow : (s.setHart k x).fieldNow = s.fieldNow := rfl
@[simp] theorem State.setHart_fieldSaved : (s.setHart k x).fieldSaved = s.fieldSaved := rfl
@[simp] theorem State.setHart_live : (s.setHart k x).live = s.live := rfl
@[simp] theorem State.setHart_flushedAt : (s.setHart k x).flushedAt = s.flushedAt := rfl
@[simp] theorem State.setHart_windowAt : (s.setHart k x).windowAt = s.windowAt := rfl
@[simp] theorem State.setHart_active : (s.setHart k x).active = s.active := rfl
@[simp] theorem State.setHart_inactive : (s.setHart k x).inactive = s.inactive := rfl
@[simp] theorem State.setHart_dies : (s.setHart k x).dies = s.dies := rfl
@[simp] theorem State.setHart_owners : (s.setHart k x).owners = s.owners := rfl
@[simp] theorem State.setHart_cores : (s.setHart k x).cores = s.cores := rfl
@[simp] theorem State.setHart_slots : (s.setHart k x).slots = s.slots := rfl
@[simp] theorem State.setHart_quads : (s.setHart k x).quads = s.quads := rfl
@[simp] theorem State.setHart_launches : (s.setHart k x).launches = s.launches := rfl
@[simp] theorem State.setHart_queues : (s.setHart k x).queues = s.queues := rfl
@[simp] theorem State.setHart_clusters : (s.setHart k x).clusters = s.clusters := rfl
@[simp] theorem State.setHart_teams : (s.setHart k x).teams = s.teams := rfl
@[simp] theorem State.setHart_groups : (s.setHart k x).groups = s.groups := rfl
@[simp] theorem State.setHart_releases : (s.setHart k x).releases = s.releases := rfl
@[simp] theorem State.setHart_retired : (s.setHart k x).retired = s.retired := rfl
@[simp] theorem State.setHart_mailbox : (s.setHart k x).mailbox = s.mailbox := rfl
end setHart

section setCur
variable (s : State) (x : Group)
@[simp] theorem State.setCur_now : (s.setCur x).now = s.now := rfl
@[simp] theorem State.setCur_sched : (s.setCur x).sched = s.sched := rfl
@[simp] theorem State.setCur_fresh : (s.setCur x).fresh = s.fresh := rfl
@[simp] theorem State.setCur_iss : (s.setCur x).iss = s.iss := rfl
@[simp] theorem State.setCur_inp : (s.setCur x).inp = s.inp := rfl
@[simp] theorem State.setCur_powered : (s.setCur x).powered = s.powered := rfl
@[simp] theorem State.setCur_tripped : (s.setCur x).tripped = s.tripped := rfl
@[simp] theorem State.setCur_fuses : (s.setCur x).fuses = s.fuses := rfl
@[simp] theorem State.setCur_flash : (s.setCur x).flash = s.flash := rfl
@[simp] theorem State.setCur_image : (s.setCur x).image = s.image := rfl
@[simp] theorem State.setCur_errCode : (s.setCur x).errCode = s.errCode := rfl
@[simp] theorem State.setCur_errDie : (s.setCur x).errDie = s.errDie := rfl
@[simp] theorem State.setCur_ready : (s.setCur x).ready = s.ready := rfl
@[simp] theorem State.setCur_readyAt : (s.setCur x).readyAt = s.readyAt := rfl
@[simp] theorem State.setCur_warm : (s.setCur x).warm = s.warm := rfl
@[simp] theorem State.setCur_rate : (s.setCur x).rate = s.rate := rfl
@[simp] theorem State.setCur_capPa : (s.setCur x).capPa = s.capPa := rfl
@[simp] theorem State.setCur_capVa : (s.setCur x).capVa = s.capVa := rfl
@[simp] theorem State.setCur_caps : (s.setCur x).caps = s.caps := rfl
@[simp] theorem State.setCur_ctxBase : (s.setCur x).ctxBase = s.ctxBase := rfl
@[simp] theorem State.setCur_fabUp : (s.setCur x).fabUp = s.fabUp := rfl
@[simp] theorem State.setCur_links : (s.setCur x).links = s.links := rfl
@[simp] theorem State.setCur_retries : (s.setCur x).retries = s.retries := rfl
@[simp] theorem State.setCur_eth : (s.setCur x).eth = s.eth := rfl
@[simp] theorem State.setCur_cxl : (s.setCur x).cxl = s.cxl := rfl
@[simp] theorem State.setCur_decoders : (s.setCur x).decoders = s.decoders := rfl
@[simp] theorem State.setCur_removed : (s.setCur x).removed = s.removed := rfl
@[simp] theorem State.setCur_mem : (s.setCur x).mem = s.mem := rfl
@[simp] theorem State.setCur_poison : (s.setCur x).poison = s.poison := rfl
@[simp] theorem State.setCur_tlb : (s.setCur x).tlb = s.tlb := rfl
@[simp] theorem State.setCur_net : (s.setCur x).net = s.net := rfl
@[simp] theorem State.setCur_fieldNow : (s.setCur x).fieldNow = s.fieldNow := rfl
@[simp] theorem State.setCur_fieldSaved : (s.setCur x).fieldSaved = s.fieldSaved := rfl
@[simp] theorem State.setCur_live : (s.setCur x).live = s.live := rfl
@[simp] theorem State.setCur_flushedAt : (s.setCur x).flushedAt = s.flushedAt := rfl
@[simp] theorem State.setCur_windowAt : (s.setCur x).windowAt = s.windowAt := rfl
@[simp] theorem State.setCur_active : (s.setCur x).active = s.active := rfl
@[simp] theorem State.setCur_inactive : (s.setCur x).inactive = s.inactive := rfl
@[simp] theorem State.setCur_dies : (s.setCur x).dies = s.dies := rfl
@[simp] theorem State.setCur_owners : (s.setCur x).owners = s.owners := rfl
@[simp] theorem State.setCur_cores : (s.setCur x).cores = s.cores := rfl
@[simp] theorem State.setCur_slots : (s.setCur x).slots = s.slots := rfl
@[simp] theorem State.setCur_quads : (s.setCur x).quads = s.quads := rfl
@[simp] theorem State.setCur_harts : (s.setCur x).harts = s.harts := rfl
@[simp] theorem State.setCur_launches : (s.setCur x).launches = s.launches := rfl
@[simp] theorem State.setCur_queues : (s.setCur x).queues = s.queues := rfl
@[simp] theorem State.setCur_clusters : (s.setCur x).clusters = s.clusters := rfl
@[simp] theorem State.setCur_teams : (s.setCur x).teams = s.teams := rfl
@[simp] theorem State.setCur_releases : (s.setCur x).releases = s.releases := rfl
@[simp] theorem State.setCur_retired : (s.setCur x).retired = s.retired := rfl
@[simp] theorem State.setCur_mailbox : (s.setCur x).mailbox = s.mailbox := rfl
end setCur

section wr
variable (s : State) (k : Nat) (x : Byte)
@[simp] theorem State.wr_now : (s.wr k x).now = s.now := rfl
@[simp] theorem State.wr_sched : (s.wr k x).sched = s.sched := rfl
@[simp] theorem State.wr_fresh : (s.wr k x).fresh = s.fresh := rfl
@[simp] theorem State.wr_iss : (s.wr k x).iss = s.iss := rfl
@[simp] theorem State.wr_inp : (s.wr k x).inp = s.inp := rfl
@[simp] theorem State.wr_powered : (s.wr k x).powered = s.powered := rfl
@[simp] theorem State.wr_tripped : (s.wr k x).tripped = s.tripped := rfl
@[simp] theorem State.wr_fuses : (s.wr k x).fuses = s.fuses := rfl
@[simp] theorem State.wr_flash : (s.wr k x).flash = s.flash := rfl
@[simp] theorem State.wr_image : (s.wr k x).image = s.image := rfl
@[simp] theorem State.wr_errCode : (s.wr k x).errCode = s.errCode := rfl
@[simp] theorem State.wr_errDie : (s.wr k x).errDie = s.errDie := rfl
@[simp] theorem State.wr_ready : (s.wr k x).ready = s.ready := rfl
@[simp] theorem State.wr_readyAt : (s.wr k x).readyAt = s.readyAt := rfl
@[simp] theorem State.wr_warm : (s.wr k x).warm = s.warm := rfl
@[simp] theorem State.wr_rate : (s.wr k x).rate = s.rate := rfl
@[simp] theorem State.wr_capPa : (s.wr k x).capPa = s.capPa := rfl
@[simp] theorem State.wr_capVa : (s.wr k x).capVa = s.capVa := rfl
@[simp] theorem State.wr_caps : (s.wr k x).caps = s.caps := rfl
@[simp] theorem State.wr_ctxBase : (s.wr k x).ctxBase = s.ctxBase := rfl
@[simp] theorem State.wr_fabUp : (s.wr k x).fabUp = s.fabUp := rfl
@[simp] theorem State.wr_links : (s.wr k x).links = s.links := rfl
@[simp] theorem State.wr_retries : (s.wr k x).retries = s.retries := rfl
@[simp] theorem State.wr_eth : (s.wr k x).eth = s.eth := rfl
@[simp] theorem State.wr_cxl : (s.wr k x).cxl = s.cxl := rfl
@[simp] theorem State.wr_decoders : (s.wr k x).decoders = s.decoders := rfl
@[simp] theorem State.wr_removed : (s.wr k x).removed = s.removed := rfl
@[simp] theorem State.wr_poison : (s.wr k x).poison = s.poison := rfl
@[simp] theorem State.wr_tlb : (s.wr k x).tlb = s.tlb := rfl
@[simp] theorem State.wr_net : (s.wr k x).net = s.net := rfl
@[simp] theorem State.wr_fieldNow : (s.wr k x).fieldNow = s.fieldNow := rfl
@[simp] theorem State.wr_fieldSaved : (s.wr k x).fieldSaved = s.fieldSaved := rfl
@[simp] theorem State.wr_live : (s.wr k x).live = s.live := rfl
@[simp] theorem State.wr_flushedAt : (s.wr k x).flushedAt = s.flushedAt := rfl
@[simp] theorem State.wr_windowAt : (s.wr k x).windowAt = s.windowAt := rfl
@[simp] theorem State.wr_active : (s.wr k x).active = s.active := rfl
@[simp] theorem State.wr_inactive : (s.wr k x).inactive = s.inactive := rfl
@[simp] theorem State.wr_dies : (s.wr k x).dies = s.dies := rfl
@[simp] theorem State.wr_owners : (s.wr k x).owners = s.owners := rfl
@[simp] theorem State.wr_cores : (s.wr k x).cores = s.cores := rfl
@[simp] theorem State.wr_slots : (s.wr k x).slots = s.slots := rfl
@[simp] theorem State.wr_quads : (s.wr k x).quads = s.quads := rfl
@[simp] theorem State.wr_harts : (s.wr k x).harts = s.harts := rfl
@[simp] theorem State.wr_launches : (s.wr k x).launches = s.launches := rfl
@[simp] theorem State.wr_queues : (s.wr k x).queues = s.queues := rfl
@[simp] theorem State.wr_clusters : (s.wr k x).clusters = s.clusters := rfl
@[simp] theorem State.wr_teams : (s.wr k x).teams = s.teams := rfl
@[simp] theorem State.wr_groups : (s.wr k x).groups = s.groups := rfl
@[simp] theorem State.wr_releases : (s.wr k x).releases = s.releases := rfl
@[simp] theorem State.wr_retired : (s.wr k x).retired = s.retired := rfl
@[simp] theorem State.wr_mailbox : (s.wr k x).mailbox = s.mailbox := rfl
end wr

section setPoison
variable (s : State) (k : Nat) (x : Bool)
@[simp] theorem State.setPoison_now : (s.setPoison k x).now = s.now := rfl
@[simp] theorem State.setPoison_sched : (s.setPoison k x).sched = s.sched := rfl
@[simp] theorem State.setPoison_fresh : (s.setPoison k x).fresh = s.fresh := rfl
@[simp] theorem State.setPoison_iss : (s.setPoison k x).iss = s.iss := rfl
@[simp] theorem State.setPoison_inp : (s.setPoison k x).inp = s.inp := rfl
@[simp] theorem State.setPoison_powered : (s.setPoison k x).powered = s.powered := rfl
@[simp] theorem State.setPoison_tripped : (s.setPoison k x).tripped = s.tripped := rfl
@[simp] theorem State.setPoison_fuses : (s.setPoison k x).fuses = s.fuses := rfl
@[simp] theorem State.setPoison_flash : (s.setPoison k x).flash = s.flash := rfl
@[simp] theorem State.setPoison_image : (s.setPoison k x).image = s.image := rfl
@[simp] theorem State.setPoison_errCode : (s.setPoison k x).errCode = s.errCode := rfl
@[simp] theorem State.setPoison_errDie : (s.setPoison k x).errDie = s.errDie := rfl
@[simp] theorem State.setPoison_ready : (s.setPoison k x).ready = s.ready := rfl
@[simp] theorem State.setPoison_readyAt : (s.setPoison k x).readyAt = s.readyAt := rfl
@[simp] theorem State.setPoison_warm : (s.setPoison k x).warm = s.warm := rfl
@[simp] theorem State.setPoison_rate : (s.setPoison k x).rate = s.rate := rfl
@[simp] theorem State.setPoison_capPa : (s.setPoison k x).capPa = s.capPa := rfl
@[simp] theorem State.setPoison_capVa : (s.setPoison k x).capVa = s.capVa := rfl
@[simp] theorem State.setPoison_caps : (s.setPoison k x).caps = s.caps := rfl
@[simp] theorem State.setPoison_ctxBase : (s.setPoison k x).ctxBase = s.ctxBase := rfl
@[simp] theorem State.setPoison_fabUp : (s.setPoison k x).fabUp = s.fabUp := rfl
@[simp] theorem State.setPoison_links : (s.setPoison k x).links = s.links := rfl
@[simp] theorem State.setPoison_retries : (s.setPoison k x).retries = s.retries := rfl
@[simp] theorem State.setPoison_eth : (s.setPoison k x).eth = s.eth := rfl
@[simp] theorem State.setPoison_cxl : (s.setPoison k x).cxl = s.cxl := rfl
@[simp] theorem State.setPoison_decoders : (s.setPoison k x).decoders = s.decoders := rfl
@[simp] theorem State.setPoison_removed : (s.setPoison k x).removed = s.removed := rfl
@[simp] theorem State.setPoison_mem : (s.setPoison k x).mem = s.mem := rfl
@[simp] theorem State.setPoison_tlb : (s.setPoison k x).tlb = s.tlb := rfl
@[simp] theorem State.setPoison_net : (s.setPoison k x).net = s.net := rfl
@[simp] theorem State.setPoison_fieldNow : (s.setPoison k x).fieldNow = s.fieldNow := rfl
@[simp] theorem State.setPoison_fieldSaved : (s.setPoison k x).fieldSaved = s.fieldSaved := rfl
@[simp] theorem State.setPoison_live : (s.setPoison k x).live = s.live := rfl
@[simp] theorem State.setPoison_flushedAt : (s.setPoison k x).flushedAt = s.flushedAt := rfl
@[simp] theorem State.setPoison_windowAt : (s.setPoison k x).windowAt = s.windowAt := rfl
@[simp] theorem State.setPoison_active : (s.setPoison k x).active = s.active := rfl
@[simp] theorem State.setPoison_inactive : (s.setPoison k x).inactive = s.inactive := rfl
@[simp] theorem State.setPoison_dies : (s.setPoison k x).dies = s.dies := rfl
@[simp] theorem State.setPoison_owners : (s.setPoison k x).owners = s.owners := rfl
@[simp] theorem State.setPoison_cores : (s.setPoison k x).cores = s.cores := rfl
@[simp] theorem State.setPoison_slots : (s.setPoison k x).slots = s.slots := rfl
@[simp] theorem State.setPoison_quads : (s.setPoison k x).quads = s.quads := rfl
@[simp] theorem State.setPoison_harts : (s.setPoison k x).harts = s.harts := rfl
@[simp] theorem State.setPoison_launches : (s.setPoison k x).launches = s.launches := rfl
@[simp] theorem State.setPoison_queues : (s.setPoison k x).queues = s.queues := rfl
@[simp] theorem State.setPoison_clusters : (s.setPoison k x).clusters = s.clusters := rfl
@[simp] theorem State.setPoison_teams : (s.setPoison k x).teams = s.teams := rfl
@[simp] theorem State.setPoison_groups : (s.setPoison k x).groups = s.groups := rfl
@[simp] theorem State.setPoison_releases : (s.setPoison k x).releases = s.releases := rfl
@[simp] theorem State.setPoison_retired : (s.setPoison k x).retired = s.retired := rfl
@[simp] theorem State.setPoison_mailbox : (s.setPoison k x).mailbox = s.mailbox := rfl
end setPoison

section markIssued
variable (s : State) 
@[simp] theorem State.markIssued_now : (s.markIssued).now = s.now := rfl
@[simp] theorem State.markIssued_sched : (s.markIssued).sched = s.sched := rfl
@[simp] theorem State.markIssued_fresh : (s.markIssued).fresh = s.fresh := rfl
@[simp] theorem State.markIssued_inp : (s.markIssued).inp = s.inp := rfl
@[simp] theorem State.markIssued_powered : (s.markIssued).powered = s.powered := rfl
@[simp] theorem State.markIssued_tripped : (s.markIssued).tripped = s.tripped := rfl
@[simp] theorem State.markIssued_fuses : (s.markIssued).fuses = s.fuses := rfl
@[simp] theorem State.markIssued_flash : (s.markIssued).flash = s.flash := rfl
@[simp] theorem State.markIssued_image : (s.markIssued).image = s.image := rfl
@[simp] theorem State.markIssued_errCode : (s.markIssued).errCode = s.errCode := rfl
@[simp] theorem State.markIssued_errDie : (s.markIssued).errDie = s.errDie := rfl
@[simp] theorem State.markIssued_ready : (s.markIssued).ready = s.ready := rfl
@[simp] theorem State.markIssued_readyAt : (s.markIssued).readyAt = s.readyAt := rfl
@[simp] theorem State.markIssued_warm : (s.markIssued).warm = s.warm := rfl
@[simp] theorem State.markIssued_rate : (s.markIssued).rate = s.rate := rfl
@[simp] theorem State.markIssued_capPa : (s.markIssued).capPa = s.capPa := rfl
@[simp] theorem State.markIssued_capVa : (s.markIssued).capVa = s.capVa := rfl
@[simp] theorem State.markIssued_caps : (s.markIssued).caps = s.caps := rfl
@[simp] theorem State.markIssued_ctxBase : (s.markIssued).ctxBase = s.ctxBase := rfl
@[simp] theorem State.markIssued_fabUp : (s.markIssued).fabUp = s.fabUp := rfl
@[simp] theorem State.markIssued_links : (s.markIssued).links = s.links := rfl
@[simp] theorem State.markIssued_retries : (s.markIssued).retries = s.retries := rfl
@[simp] theorem State.markIssued_eth : (s.markIssued).eth = s.eth := rfl
@[simp] theorem State.markIssued_cxl : (s.markIssued).cxl = s.cxl := rfl
@[simp] theorem State.markIssued_decoders : (s.markIssued).decoders = s.decoders := rfl
@[simp] theorem State.markIssued_removed : (s.markIssued).removed = s.removed := rfl
@[simp] theorem State.markIssued_mem : (s.markIssued).mem = s.mem := rfl
@[simp] theorem State.markIssued_poison : (s.markIssued).poison = s.poison := rfl
@[simp] theorem State.markIssued_tlb : (s.markIssued).tlb = s.tlb := rfl
@[simp] theorem State.markIssued_net : (s.markIssued).net = s.net := rfl
@[simp] theorem State.markIssued_fieldNow : (s.markIssued).fieldNow = s.fieldNow := rfl
@[simp] theorem State.markIssued_fieldSaved : (s.markIssued).fieldSaved = s.fieldSaved := rfl
@[simp] theorem State.markIssued_live : (s.markIssued).live = s.live := rfl
@[simp] theorem State.markIssued_flushedAt : (s.markIssued).flushedAt = s.flushedAt := rfl
@[simp] theorem State.markIssued_windowAt : (s.markIssued).windowAt = s.windowAt := rfl
@[simp] theorem State.markIssued_active : (s.markIssued).active = s.active := rfl
@[simp] theorem State.markIssued_inactive : (s.markIssued).inactive = s.inactive := rfl
@[simp] theorem State.markIssued_dies : (s.markIssued).dies = s.dies := rfl
@[simp] theorem State.markIssued_owners : (s.markIssued).owners = s.owners := rfl
@[simp] theorem State.markIssued_cores : (s.markIssued).cores = s.cores := rfl
@[simp] theorem State.markIssued_slots : (s.markIssued).slots = s.slots := rfl
@[simp] theorem State.markIssued_quads : (s.markIssued).quads = s.quads := rfl
@[simp] theorem State.markIssued_harts : (s.markIssued).harts = s.harts := rfl
@[simp] theorem State.markIssued_launches : (s.markIssued).launches = s.launches := rfl
@[simp] theorem State.markIssued_queues : (s.markIssued).queues = s.queues := rfl
@[simp] theorem State.markIssued_clusters : (s.markIssued).clusters = s.clusters := rfl
@[simp] theorem State.markIssued_teams : (s.markIssued).teams = s.teams := rfl
@[simp] theorem State.markIssued_groups : (s.markIssued).groups = s.groups := rfl
@[simp] theorem State.markIssued_releases : (s.markIssued).releases = s.releases := rfl
@[simp] theorem State.markIssued_retired : (s.markIssued).retired = s.retired := rfl
@[simp] theorem State.markIssued_mailbox : (s.markIssued).mailbox = s.mailbox := rfl
end markIssued

section advance
variable (s : State) 
@[simp] theorem State.advance_now : (s.advance).now = s.now := rfl
@[simp] theorem State.advance_sched : (s.advance).sched = s.sched := rfl
@[simp] theorem State.advance_fresh : (s.advance).fresh = s.fresh := rfl
@[simp] theorem State.advance_inp : (s.advance).inp = s.inp := rfl
@[simp] theorem State.advance_powered : (s.advance).powered = s.powered := rfl
@[simp] theorem State.advance_tripped : (s.advance).tripped = s.tripped := rfl
@[simp] theorem State.advance_fuses : (s.advance).fuses = s.fuses := rfl
@[simp] theorem State.advance_flash : (s.advance).flash = s.flash := rfl
@[simp] theorem State.advance_image : (s.advance).image = s.image := rfl
@[simp] theorem State.advance_errCode : (s.advance).errCode = s.errCode := rfl
@[simp] theorem State.advance_errDie : (s.advance).errDie = s.errDie := rfl
@[simp] theorem State.advance_ready : (s.advance).ready = s.ready := rfl
@[simp] theorem State.advance_readyAt : (s.advance).readyAt = s.readyAt := rfl
@[simp] theorem State.advance_warm : (s.advance).warm = s.warm := rfl
@[simp] theorem State.advance_rate : (s.advance).rate = s.rate := rfl
@[simp] theorem State.advance_capPa : (s.advance).capPa = s.capPa := rfl
@[simp] theorem State.advance_capVa : (s.advance).capVa = s.capVa := rfl
@[simp] theorem State.advance_caps : (s.advance).caps = s.caps := rfl
@[simp] theorem State.advance_ctxBase : (s.advance).ctxBase = s.ctxBase := rfl
@[simp] theorem State.advance_fabUp : (s.advance).fabUp = s.fabUp := rfl
@[simp] theorem State.advance_links : (s.advance).links = s.links := rfl
@[simp] theorem State.advance_retries : (s.advance).retries = s.retries := rfl
@[simp] theorem State.advance_eth : (s.advance).eth = s.eth := rfl
@[simp] theorem State.advance_cxl : (s.advance).cxl = s.cxl := rfl
@[simp] theorem State.advance_decoders : (s.advance).decoders = s.decoders := rfl
@[simp] theorem State.advance_removed : (s.advance).removed = s.removed := rfl
@[simp] theorem State.advance_mem : (s.advance).mem = s.mem := rfl
@[simp] theorem State.advance_poison : (s.advance).poison = s.poison := rfl
@[simp] theorem State.advance_tlb : (s.advance).tlb = s.tlb := rfl
@[simp] theorem State.advance_net : (s.advance).net = s.net := rfl
@[simp] theorem State.advance_fieldNow : (s.advance).fieldNow = s.fieldNow := rfl
@[simp] theorem State.advance_fieldSaved : (s.advance).fieldSaved = s.fieldSaved := rfl
@[simp] theorem State.advance_live : (s.advance).live = s.live := rfl
@[simp] theorem State.advance_flushedAt : (s.advance).flushedAt = s.flushedAt := rfl
@[simp] theorem State.advance_windowAt : (s.advance).windowAt = s.windowAt := rfl
@[simp] theorem State.advance_active : (s.advance).active = s.active := rfl
@[simp] theorem State.advance_inactive : (s.advance).inactive = s.inactive := rfl
@[simp] theorem State.advance_dies : (s.advance).dies = s.dies := rfl
@[simp] theorem State.advance_owners : (s.advance).owners = s.owners := rfl
@[simp] theorem State.advance_cores : (s.advance).cores = s.cores := rfl
@[simp] theorem State.advance_slots : (s.advance).slots = s.slots := rfl
@[simp] theorem State.advance_quads : (s.advance).quads = s.quads := rfl
@[simp] theorem State.advance_harts : (s.advance).harts = s.harts := rfl
@[simp] theorem State.advance_launches : (s.advance).launches = s.launches := rfl
@[simp] theorem State.advance_queues : (s.advance).queues = s.queues := rfl
@[simp] theorem State.advance_clusters : (s.advance).clusters = s.clusters := rfl
@[simp] theorem State.advance_teams : (s.advance).teams = s.teams := rfl
@[simp] theorem State.advance_releases : (s.advance).releases = s.releases := rfl
@[simp] theorem State.advance_retired : (s.advance).retired = s.retired := rfl
@[simp] theorem State.advance_mailbox : (s.advance).mailbox = s.mailbox := rfl
end advance

section supersede
variable (g : Group) (r : Nat) (m : Lanes)
@[simp] theorem Group.supersede_live : (g.supersede r m).live = g.live := rfl
@[simp] theorem Group.supersede_team : (g.supersede r m).team = g.team := rfl
@[simp] theorem Group.supersede_ck : (g.supersede r m).ck = g.ck := rfl
@[simp] theorem Group.supersede_slot : (g.supersede r m).slot = g.slot := rfl
@[simp] theorem Group.supersede_band : (g.supersede r m).band = g.band := rfl
@[simp] theorem Group.supersede_nbands : (g.supersede r m).nbands = g.nbands := rfl
@[simp] theorem Group.supersede_regs : (g.supersede r m).regs = g.regs := rfl
@[simp] theorem Group.supersede_pcs : (g.supersede r m).pcs = g.pcs := rfl
@[simp] theorem Group.supersede_exited : (g.supersede r m).exited = g.exited := rfl
@[simp] theorem Group.supersede_waiting : (g.supersede r m).waiting = g.waiting := rfl
@[simp] theorem Group.supersede_masks : (g.supersede r m).masks = g.masks := rfl
@[simp] theorem Group.supersede_stand : (g.supersede r m).stand = g.stand := rfl
@[simp] theorem Group.supersede_latches : (g.supersede r m).latches = g.latches := rfl
@[simp] theorem Group.supersede_lvalid : (g.supersede r m).lvalid = g.lvalid := rfl
@[simp] theorem Group.supersede_ycount : (g.supersede r m).ycount = g.ycount := rfl
@[simp] theorem Group.supersede_ylane : (g.supersede r m).ylane = g.ylane := rfl
@[simp] theorem Group.supersede_yforce : (g.supersede r m).yforce = g.yforce := rfl
@[simp] theorem Group.supersede_fpflags : (g.supersede r m).fpflags = g.fpflags := rfl
@[simp] theorem Group.supersede_trap : (g.supersede r m).trap = g.trap := rfl
@[simp] theorem Group.supersede_handler : (g.supersede r m).handler = g.handler := rfl
@[simp] theorem Group.supersede_wserial : (g.supersede r m).wserial = g.wserial := rfl
@[simp] theorem Group.supersede_rstart : (g.supersede r m).rstart = g.rstart := rfl
@[simp] theorem Group.supersede_tstart : (g.supersede r m).tstart = g.tstart := rfl
@[simp] theorem Group.supersede_hold : (g.supersede r m).hold = g.hold := rfl
@[simp] theorem Group.supersede_replay : (g.supersede r m).replay = g.replay := rfl
@[simp] theorem Group.supersede_outs : (g.supersede r m).outs = g.outs := rfl
@[simp] theorem Group.supersede_rem : (g.supersede r m).rem = g.rem := rfl
@[simp] theorem Group.supersede_first : (g.supersede r m).first = g.first := rfl
@[simp] theorem Group.supersede_last : (g.supersede r m).last = g.last := rfl
@[simp] theorem Group.supersede_noLive : (g.supersede r m).noLive = g.noLive := rfl
@[simp] theorem Group.supersede_ckpt : (g.supersede r m).ckpt = g.ckpt := rfl
@[simp] theorem Group.supersede_inBar : (g.supersede r m).inBar = g.inBar := rfl
@[simp] theorem Group.supersede_copies : (g.supersede r m).copies = g.copies := rfl
@[simp] theorem Group.supersede_copyFails : (g.supersede r m).copyFails = g.copyFails := rfl
@[simp] theorem Group.supersede_mats : (g.supersede r m).mats = g.mats := rfl
@[simp] theorem Group.supersede_matOps : (g.supersede r m).matOps = g.matOps := rfl
@[simp] theorem Group.supersede_tiles : (g.supersede r m).tiles = g.tiles := rfl
@[simp] theorem Group.supersede_tileFail : (g.supersede r m).tileFail = g.tileFail := rfl
@[simp] theorem Group.supersede_wait : (g.supersede r m).wait = g.wait := rfl
@[simp] theorem Group.supersede_arT : (g.supersede r m).arT = g.arT := rfl
@[simp] theorem Group.supersede_dpT : (g.supersede r m).dpT = g.dpT := rfl
@[simp] theorem Group.supersede_arC : (g.supersede r m).arC = g.arC := rfl
@[simp] theorem Group.supersede_dpC : (g.supersede r m).dpC = g.dpC := rfl
@[simp] theorem Group.supersede_prio : (g.supersede r m).prio = g.prio := rfl
@[simp] theorem Group.supersede_lastIssue : (g.supersede r m).lastIssue = g.lastIssue := rfl
@[simp] theorem Group.supersede_lastStep : (g.supersede r m).lastStep = g.lastStep := rfl
@[simp] theorem Group.supersede_placedAt : (g.supersede r m).placedAt = g.placedAt := rfl
@[simp] theorem Group.supersede_movingTill : (g.supersede r m).movingTill = g.movingTill := rfl
@[simp] theorem Group.supersede_stopped : (g.supersede r m).stopped = g.stopped := rfl
@[simp] theorem Group.supersede_nextOp : (g.supersede r m).nextOp = g.nextOp := rfl
@[simp] theorem Group.supersede_nCopy : (g.supersede r m).nCopy = g.nCopy := rfl
@[simp] theorem Group.supersede_nTile : (g.supersede r m).nTile = g.nTile := rfl
@[simp] theorem Group.supersede_nMat : (g.supersede r m).nMat = g.nMat := rfl
@[simp] theorem Group.supersede_nRem : (g.supersede r m).nRem = g.nRem := rfl
@[simp] theorem Group.supersede_nReq : (g.supersede r m).nReq = g.nReq := rfl
@[simp] theorem Group.supersede_notices : (g.supersede r m).notices = g.notices := rfl
@[simp] theorem Group.supersede_units : (g.supersede r m).units = g.units := rfl
@[simp] theorem Group.supersede_steps : (g.supersede r m).steps = g.steps := rfl
end supersede

section claim
variable (g : Group) (l : List (Nat × Lanes))
@[simp] theorem Group.claim_live : (g.claim l).live = g.live := rfl
@[simp] theorem Group.claim_team : (g.claim l).team = g.team := rfl
@[simp] theorem Group.claim_ck : (g.claim l).ck = g.ck := rfl
@[simp] theorem Group.claim_slot : (g.claim l).slot = g.slot := rfl
@[simp] theorem Group.claim_band : (g.claim l).band = g.band := rfl
@[simp] theorem Group.claim_nbands : (g.claim l).nbands = g.nbands := rfl
@[simp] theorem Group.claim_regs : (g.claim l).regs = g.regs := rfl
@[simp] theorem Group.claim_pcs : (g.claim l).pcs = g.pcs := rfl
@[simp] theorem Group.claim_exited : (g.claim l).exited = g.exited := rfl
@[simp] theorem Group.claim_waiting : (g.claim l).waiting = g.waiting := rfl
@[simp] theorem Group.claim_masks : (g.claim l).masks = g.masks := rfl
@[simp] theorem Group.claim_stand : (g.claim l).stand = g.stand := rfl
@[simp] theorem Group.claim_latches : (g.claim l).latches = g.latches := rfl
@[simp] theorem Group.claim_lvalid : (g.claim l).lvalid = g.lvalid := rfl
@[simp] theorem Group.claim_ycount : (g.claim l).ycount = g.ycount := rfl
@[simp] theorem Group.claim_ylane : (g.claim l).ylane = g.ylane := rfl
@[simp] theorem Group.claim_yforce : (g.claim l).yforce = g.yforce := rfl
@[simp] theorem Group.claim_fpflags : (g.claim l).fpflags = g.fpflags := rfl
@[simp] theorem Group.claim_trap : (g.claim l).trap = g.trap := rfl
@[simp] theorem Group.claim_handler : (g.claim l).handler = g.handler := rfl
@[simp] theorem Group.claim_wserial : (g.claim l).wserial = g.wserial := rfl
@[simp] theorem Group.claim_rstart : (g.claim l).rstart = g.rstart := rfl
@[simp] theorem Group.claim_tstart : (g.claim l).tstart = g.tstart := rfl
@[simp] theorem Group.claim_hold : (g.claim l).hold = g.hold := rfl
@[simp] theorem Group.claim_replay : (g.claim l).replay = g.replay := rfl
@[simp] theorem Group.claim_outs : (g.claim l).outs = g.outs := rfl
@[simp] theorem Group.claim_rem : (g.claim l).rem = g.rem := rfl
@[simp] theorem Group.claim_first : (g.claim l).first = g.first := rfl
@[simp] theorem Group.claim_last : (g.claim l).last = g.last := rfl
@[simp] theorem Group.claim_noLive : (g.claim l).noLive = g.noLive := rfl
@[simp] theorem Group.claim_ckpt : (g.claim l).ckpt = g.ckpt := rfl
@[simp] theorem Group.claim_inBar : (g.claim l).inBar = g.inBar := rfl
@[simp] theorem Group.claim_copies : (g.claim l).copies = g.copies := rfl
@[simp] theorem Group.claim_copyFails : (g.claim l).copyFails = g.copyFails := rfl
@[simp] theorem Group.claim_mats : (g.claim l).mats = g.mats := rfl
@[simp] theorem Group.claim_matOps : (g.claim l).matOps = g.matOps := rfl
@[simp] theorem Group.claim_tiles : (g.claim l).tiles = g.tiles := rfl
@[simp] theorem Group.claim_tileFail : (g.claim l).tileFail = g.tileFail := rfl
@[simp] theorem Group.claim_late : (g.claim l).late = g.late := rfl
@[simp] theorem Group.claim_wait : (g.claim l).wait = g.wait := rfl
@[simp] theorem Group.claim_arT : (g.claim l).arT = g.arT := rfl
@[simp] theorem Group.claim_dpT : (g.claim l).dpT = g.dpT := rfl
@[simp] theorem Group.claim_arC : (g.claim l).arC = g.arC := rfl
@[simp] theorem Group.claim_dpC : (g.claim l).dpC = g.dpC := rfl
@[simp] theorem Group.claim_prio : (g.claim l).prio = g.prio := rfl
@[simp] theorem Group.claim_lastIssue : (g.claim l).lastIssue = g.lastIssue := rfl
@[simp] theorem Group.claim_lastStep : (g.claim l).lastStep = g.lastStep := rfl
@[simp] theorem Group.claim_placedAt : (g.claim l).placedAt = g.placedAt := rfl
@[simp] theorem Group.claim_movingTill : (g.claim l).movingTill = g.movingTill := rfl
@[simp] theorem Group.claim_stopped : (g.claim l).stopped = g.stopped := rfl
@[simp] theorem Group.claim_nextOp : (g.claim l).nextOp = g.nextOp := rfl
@[simp] theorem Group.claim_nCopy : (g.claim l).nCopy = g.nCopy := rfl
@[simp] theorem Group.claim_nTile : (g.claim l).nTile = g.nTile := rfl
@[simp] theorem Group.claim_nMat : (g.claim l).nMat = g.nMat := rfl
@[simp] theorem Group.claim_nRem : (g.claim l).nRem = g.nRem := rfl
@[simp] theorem Group.claim_nReq : (g.claim l).nReq = g.nReq := rfl
@[simp] theorem Group.claim_notices : (g.claim l).notices = g.notices := rfl
@[simp] theorem Group.claim_units : (g.claim l).units = g.units := rfl
@[simp] theorem Group.claim_steps : (g.claim l).steps = g.steps := rfl
end claim

section setReg
variable (g : Group) (r : Nat) (m : Lanes) (x : Nat → Word)
@[simp] theorem Group.setReg_live : (g.setReg r m x).live = g.live := rfl
@[simp] theorem Group.setReg_team : (g.setReg r m x).team = g.team := rfl
@[simp] theorem Group.setReg_ck : (g.setReg r m x).ck = g.ck := rfl
@[simp] theorem Group.setReg_slot : (g.setReg r m x).slot = g.slot := rfl
@[simp] theorem Group.setReg_band : (g.setReg r m x).band = g.band := rfl
@[simp] theorem Group.setReg_nbands : (g.setReg r m x).nbands = g.nbands := rfl
@[simp] theorem Group.setReg_pcs : (g.setReg r m x).pcs = g.pcs := rfl
@[simp] theorem Group.setReg_exited : (g.setReg r m x).exited = g.exited := rfl
@[simp] theorem Group.setReg_waiting : (g.setReg r m x).waiting = g.waiting := rfl
@[simp] theorem Group.setReg_masks : (g.setReg r m x).masks = g.masks := rfl
@[simp] theorem Group.setReg_stand : (g.setReg r m x).stand = g.stand := rfl
@[simp] theorem Group.setReg_latches : (g.setReg r m x).latches = g.latches := rfl
@[simp] theorem Group.setReg_lvalid : (g.setReg r m x).lvalid = g.lvalid := rfl
@[simp] theorem Group.setReg_ycount : (g.setReg r m x).ycount = g.ycount := rfl
@[simp] theorem Group.setReg_ylane : (g.setReg r m x).ylane = g.ylane := rfl
@[simp] theorem Group.setReg_yforce : (g.setReg r m x).yforce = g.yforce := rfl
@[simp] theorem Group.setReg_fpflags : (g.setReg r m x).fpflags = g.fpflags := rfl
@[simp] theorem Group.setReg_trap : (g.setReg r m x).trap = g.trap := rfl
@[simp] theorem Group.setReg_handler : (g.setReg r m x).handler = g.handler := rfl
@[simp] theorem Group.setReg_wserial : (g.setReg r m x).wserial = g.wserial := rfl
@[simp] theorem Group.setReg_rstart : (g.setReg r m x).rstart = g.rstart := rfl
@[simp] theorem Group.setReg_tstart : (g.setReg r m x).tstart = g.tstart := rfl
@[simp] theorem Group.setReg_hold : (g.setReg r m x).hold = g.hold := rfl
@[simp] theorem Group.setReg_replay : (g.setReg r m x).replay = g.replay := rfl
@[simp] theorem Group.setReg_outs : (g.setReg r m x).outs = g.outs := rfl
@[simp] theorem Group.setReg_rem : (g.setReg r m x).rem = g.rem := rfl
@[simp] theorem Group.setReg_first : (g.setReg r m x).first = g.first := rfl
@[simp] theorem Group.setReg_last : (g.setReg r m x).last = g.last := rfl
@[simp] theorem Group.setReg_noLive : (g.setReg r m x).noLive = g.noLive := rfl
@[simp] theorem Group.setReg_ckpt : (g.setReg r m x).ckpt = g.ckpt := rfl
@[simp] theorem Group.setReg_inBar : (g.setReg r m x).inBar = g.inBar := rfl
@[simp] theorem Group.setReg_copies : (g.setReg r m x).copies = g.copies := rfl
@[simp] theorem Group.setReg_copyFails : (g.setReg r m x).copyFails = g.copyFails := rfl
@[simp] theorem Group.setReg_mats : (g.setReg r m x).mats = g.mats := rfl
@[simp] theorem Group.setReg_matOps : (g.setReg r m x).matOps = g.matOps := rfl
@[simp] theorem Group.setReg_tiles : (g.setReg r m x).tiles = g.tiles := rfl
@[simp] theorem Group.setReg_tileFail : (g.setReg r m x).tileFail = g.tileFail := rfl
@[simp] theorem Group.setReg_wait : (g.setReg r m x).wait = g.wait := rfl
@[simp] theorem Group.setReg_arT : (g.setReg r m x).arT = g.arT := rfl
@[simp] theorem Group.setReg_dpT : (g.setReg r m x).dpT = g.dpT := rfl
@[simp] theorem Group.setReg_arC : (g.setReg r m x).arC = g.arC := rfl
@[simp] theorem Group.setReg_dpC : (g.setReg r m x).dpC = g.dpC := rfl
@[simp] theorem Group.setReg_prio : (g.setReg r m x).prio = g.prio := rfl
@[simp] theorem Group.setReg_lastIssue : (g.setReg r m x).lastIssue = g.lastIssue := rfl
@[simp] theorem Group.setReg_lastStep : (g.setReg r m x).lastStep = g.lastStep := rfl
@[simp] theorem Group.setReg_placedAt : (g.setReg r m x).placedAt = g.placedAt := rfl
@[simp] theorem Group.setReg_movingTill : (g.setReg r m x).movingTill = g.movingTill := rfl
@[simp] theorem Group.setReg_stopped : (g.setReg r m x).stopped = g.stopped := rfl
@[simp] theorem Group.setReg_nextOp : (g.setReg r m x).nextOp = g.nextOp := rfl
@[simp] theorem Group.setReg_nCopy : (g.setReg r m x).nCopy = g.nCopy := rfl
@[simp] theorem Group.setReg_nTile : (g.setReg r m x).nTile = g.nTile := rfl
@[simp] theorem Group.setReg_nMat : (g.setReg r m x).nMat = g.nMat := rfl
@[simp] theorem Group.setReg_nRem : (g.setReg r m x).nRem = g.nRem := rfl
@[simp] theorem Group.setReg_nReq : (g.setReg r m x).nReq = g.nReq := rfl
@[simp] theorem Group.setReg_notices : (g.setReg r m x).notices = g.notices := rfl
@[simp] theorem Group.setReg_units : (g.setReg r m x).units = g.units := rfl
@[simp] theorem Group.setReg_steps : (g.setReg r m x).steps = g.steps := rfl
end setReg

section setReg64
variable (g : Group) (r : Nat) (m : Lanes) (x : Nat → Dword)
@[simp] theorem Group.setReg64_live : (g.setReg64 r m x).live = g.live := rfl
@[simp] theorem Group.setReg64_team : (g.setReg64 r m x).team = g.team := rfl
@[simp] theorem Group.setReg64_ck : (g.setReg64 r m x).ck = g.ck := rfl
@[simp] theorem Group.setReg64_slot : (g.setReg64 r m x).slot = g.slot := rfl
@[simp] theorem Group.setReg64_band : (g.setReg64 r m x).band = g.band := rfl
@[simp] theorem Group.setReg64_nbands : (g.setReg64 r m x).nbands = g.nbands := rfl
@[simp] theorem Group.setReg64_pcs : (g.setReg64 r m x).pcs = g.pcs := rfl
@[simp] theorem Group.setReg64_exited : (g.setReg64 r m x).exited = g.exited := rfl
@[simp] theorem Group.setReg64_waiting : (g.setReg64 r m x).waiting = g.waiting := rfl
@[simp] theorem Group.setReg64_masks : (g.setReg64 r m x).masks = g.masks := rfl
@[simp] theorem Group.setReg64_stand : (g.setReg64 r m x).stand = g.stand := rfl
@[simp] theorem Group.setReg64_latches : (g.setReg64 r m x).latches = g.latches := rfl
@[simp] theorem Group.setReg64_lvalid : (g.setReg64 r m x).lvalid = g.lvalid := rfl
@[simp] theorem Group.setReg64_ycount : (g.setReg64 r m x).ycount = g.ycount := rfl
@[simp] theorem Group.setReg64_ylane : (g.setReg64 r m x).ylane = g.ylane := rfl
@[simp] theorem Group.setReg64_yforce : (g.setReg64 r m x).yforce = g.yforce := rfl
@[simp] theorem Group.setReg64_fpflags : (g.setReg64 r m x).fpflags = g.fpflags := rfl
@[simp] theorem Group.setReg64_trap : (g.setReg64 r m x).trap = g.trap := rfl
@[simp] theorem Group.setReg64_handler : (g.setReg64 r m x).handler = g.handler := rfl
@[simp] theorem Group.setReg64_wserial : (g.setReg64 r m x).wserial = g.wserial := rfl
@[simp] theorem Group.setReg64_rstart : (g.setReg64 r m x).rstart = g.rstart := rfl
@[simp] theorem Group.setReg64_tstart : (g.setReg64 r m x).tstart = g.tstart := rfl
@[simp] theorem Group.setReg64_hold : (g.setReg64 r m x).hold = g.hold := rfl
@[simp] theorem Group.setReg64_replay : (g.setReg64 r m x).replay = g.replay := rfl
@[simp] theorem Group.setReg64_outs : (g.setReg64 r m x).outs = g.outs := rfl
@[simp] theorem Group.setReg64_rem : (g.setReg64 r m x).rem = g.rem := rfl
@[simp] theorem Group.setReg64_first : (g.setReg64 r m x).first = g.first := rfl
@[simp] theorem Group.setReg64_last : (g.setReg64 r m x).last = g.last := rfl
@[simp] theorem Group.setReg64_noLive : (g.setReg64 r m x).noLive = g.noLive := rfl
@[simp] theorem Group.setReg64_ckpt : (g.setReg64 r m x).ckpt = g.ckpt := rfl
@[simp] theorem Group.setReg64_inBar : (g.setReg64 r m x).inBar = g.inBar := rfl
@[simp] theorem Group.setReg64_copies : (g.setReg64 r m x).copies = g.copies := rfl
@[simp] theorem Group.setReg64_copyFails : (g.setReg64 r m x).copyFails = g.copyFails := rfl
@[simp] theorem Group.setReg64_mats : (g.setReg64 r m x).mats = g.mats := rfl
@[simp] theorem Group.setReg64_matOps : (g.setReg64 r m x).matOps = g.matOps := rfl
@[simp] theorem Group.setReg64_tiles : (g.setReg64 r m x).tiles = g.tiles := rfl
@[simp] theorem Group.setReg64_tileFail : (g.setReg64 r m x).tileFail = g.tileFail := rfl
@[simp] theorem Group.setReg64_wait : (g.setReg64 r m x).wait = g.wait := rfl
@[simp] theorem Group.setReg64_arT : (g.setReg64 r m x).arT = g.arT := rfl
@[simp] theorem Group.setReg64_dpT : (g.setReg64 r m x).dpT = g.dpT := rfl
@[simp] theorem Group.setReg64_arC : (g.setReg64 r m x).arC = g.arC := rfl
@[simp] theorem Group.setReg64_dpC : (g.setReg64 r m x).dpC = g.dpC := rfl
@[simp] theorem Group.setReg64_prio : (g.setReg64 r m x).prio = g.prio := rfl
@[simp] theorem Group.setReg64_lastIssue : (g.setReg64 r m x).lastIssue = g.lastIssue := rfl
@[simp] theorem Group.setReg64_lastStep : (g.setReg64 r m x).lastStep = g.lastStep := rfl
@[simp] theorem Group.setReg64_placedAt : (g.setReg64 r m x).placedAt = g.placedAt := rfl
@[simp] theorem Group.setReg64_movingTill : (g.setReg64 r m x).movingTill = g.movingTill := rfl
@[simp] theorem Group.setReg64_stopped : (g.setReg64 r m x).stopped = g.stopped := rfl
@[simp] theorem Group.setReg64_nextOp : (g.setReg64 r m x).nextOp = g.nextOp := rfl
@[simp] theorem Group.setReg64_nCopy : (g.setReg64 r m x).nCopy = g.nCopy := rfl
@[simp] theorem Group.setReg64_nTile : (g.setReg64 r m x).nTile = g.nTile := rfl
@[simp] theorem Group.setReg64_nMat : (g.setReg64 r m x).nMat = g.nMat := rfl
@[simp] theorem Group.setReg64_nRem : (g.setReg64 r m x).nRem = g.nRem := rfl
@[simp] theorem Group.setReg64_nReq : (g.setReg64 r m x).nReq = g.nReq := rfl
@[simp] theorem Group.setReg64_notices : (g.setReg64 r m x).notices = g.notices := rfl
@[simp] theorem Group.setReg64_units : (g.setReg64 r m x).units = g.units := rfl
@[simp] theorem Group.setReg64_steps : (g.setReg64 r m x).steps = g.steps := rfl
end setReg64

section advance
variable (g : Group) (m : Lanes)
@[simp] theorem Group.advance_live : (g.advance m).live = g.live := by rw [Group.advance]
@[simp] theorem Group.advance_team : (g.advance m).team = g.team := by rw [Group.advance]
@[simp] theorem Group.advance_ck : (g.advance m).ck = g.ck := by rw [Group.advance]
@[simp] theorem Group.advance_slot : (g.advance m).slot = g.slot := by rw [Group.advance]
@[simp] theorem Group.advance_band : (g.advance m).band = g.band := by rw [Group.advance]
@[simp] theorem Group.advance_nbands : (g.advance m).nbands = g.nbands := by rw [Group.advance]
@[simp] theorem Group.advance_regs : (g.advance m).regs = g.regs := by rw [Group.advance]
@[simp] theorem Group.advance_exited : (g.advance m).exited = g.exited := by rw [Group.advance]
@[simp] theorem Group.advance_waiting : (g.advance m).waiting = g.waiting := by rw [Group.advance]
@[simp] theorem Group.advance_masks : (g.advance m).masks = g.masks := by rw [Group.advance]
@[simp] theorem Group.advance_stand : (g.advance m).stand = g.stand := by rw [Group.advance]
@[simp] theorem Group.advance_latches : (g.advance m).latches = g.latches := by rw [Group.advance]
@[simp] theorem Group.advance_lvalid : (g.advance m).lvalid = g.lvalid := by rw [Group.advance]
@[simp] theorem Group.advance_ycount : (g.advance m).ycount = g.ycount := by rw [Group.advance]
@[simp] theorem Group.advance_ylane : (g.advance m).ylane = g.ylane := by rw [Group.advance]
@[simp] theorem Group.advance_yforce : (g.advance m).yforce = g.yforce := by rw [Group.advance]
@[simp] theorem Group.advance_fpflags : (g.advance m).fpflags = g.fpflags := by rw [Group.advance]
@[simp] theorem Group.advance_trap : (g.advance m).trap = g.trap := by rw [Group.advance]
@[simp] theorem Group.advance_handler : (g.advance m).handler = g.handler := by rw [Group.advance]
@[simp] theorem Group.advance_wserial : (g.advance m).wserial = g.wserial := by rw [Group.advance]
@[simp] theorem Group.advance_rstart : (g.advance m).rstart = g.rstart := by rw [Group.advance]
@[simp] theorem Group.advance_tstart : (g.advance m).tstart = g.tstart := by rw [Group.advance]
@[simp] theorem Group.advance_hold : (g.advance m).hold = g.hold := by rw [Group.advance]
@[simp] theorem Group.advance_replay : (g.advance m).replay = g.replay := by rw [Group.advance]
@[simp] theorem Group.advance_outs : (g.advance m).outs = g.outs := by rw [Group.advance]
@[simp] theorem Group.advance_rem : (g.advance m).rem = g.rem := by rw [Group.advance]
@[simp] theorem Group.advance_first : (g.advance m).first = g.first := by rw [Group.advance]
@[simp] theorem Group.advance_last : (g.advance m).last = g.last := by rw [Group.advance]
@[simp] theorem Group.advance_noLive : (g.advance m).noLive = g.noLive := by rw [Group.advance]
@[simp] theorem Group.advance_ckpt : (g.advance m).ckpt = g.ckpt := by rw [Group.advance]
@[simp] theorem Group.advance_inBar : (g.advance m).inBar = g.inBar := by rw [Group.advance]
@[simp] theorem Group.advance_copies : (g.advance m).copies = g.copies := by rw [Group.advance]
@[simp] theorem Group.advance_copyFails : (g.advance m).copyFails = g.copyFails := by rw [Group.advance]
@[simp] theorem Group.advance_mats : (g.advance m).mats = g.mats := by rw [Group.advance]
@[simp] theorem Group.advance_matOps : (g.advance m).matOps = g.matOps := by rw [Group.advance]
@[simp] theorem Group.advance_tiles : (g.advance m).tiles = g.tiles := by rw [Group.advance]
@[simp] theorem Group.advance_tileFail : (g.advance m).tileFail = g.tileFail := by rw [Group.advance]
@[simp] theorem Group.advance_late : (g.advance m).late = g.late := by rw [Group.advance]
@[simp] theorem Group.advance_unknowns : (g.advance m).unknowns = g.unknowns := by rw [Group.advance]
@[simp] theorem Group.advance_wait : (g.advance m).wait = g.wait := by rw [Group.advance]
@[simp] theorem Group.advance_arT : (g.advance m).arT = g.arT := by rw [Group.advance]
@[simp] theorem Group.advance_dpT : (g.advance m).dpT = g.dpT := by rw [Group.advance]
@[simp] theorem Group.advance_arC : (g.advance m).arC = g.arC := by rw [Group.advance]
@[simp] theorem Group.advance_dpC : (g.advance m).dpC = g.dpC := by rw [Group.advance]
@[simp] theorem Group.advance_prio : (g.advance m).prio = g.prio := by rw [Group.advance]
@[simp] theorem Group.advance_lastIssue : (g.advance m).lastIssue = g.lastIssue := by rw [Group.advance]
@[simp] theorem Group.advance_lastStep : (g.advance m).lastStep = g.lastStep := by rw [Group.advance]
@[simp] theorem Group.advance_placedAt : (g.advance m).placedAt = g.placedAt := by rw [Group.advance]
@[simp] theorem Group.advance_movingTill : (g.advance m).movingTill = g.movingTill := by rw [Group.advance]
@[simp] theorem Group.advance_stopped : (g.advance m).stopped = g.stopped := by rw [Group.advance]
@[simp] theorem Group.advance_nextOp : (g.advance m).nextOp = g.nextOp := by rw [Group.advance]
@[simp] theorem Group.advance_nCopy : (g.advance m).nCopy = g.nCopy := by rw [Group.advance]
@[simp] theorem Group.advance_nTile : (g.advance m).nTile = g.nTile := by rw [Group.advance]
@[simp] theorem Group.advance_nMat : (g.advance m).nMat = g.nMat := by rw [Group.advance]
@[simp] theorem Group.advance_nRem : (g.advance m).nRem = g.nRem := by rw [Group.advance]
@[simp] theorem Group.advance_nReq : (g.advance m).nReq = g.nReq := by rw [Group.advance]
@[simp] theorem Group.advance_notices : (g.advance m).notices = g.notices := by rw [Group.advance]
@[simp] theorem Group.advance_units : (g.advance m).units = g.units := by rw [Group.advance]
@[simp] theorem Group.advance_steps : (g.advance m).steps = g.steps := by rw [Group.advance]
end advance

section setPcs
variable (g : Group) (m : Lanes) (x : Nat → Dword)
@[simp] theorem Group.setPcs_live : (g.setPcs m x).live = g.live := by rw [Group.setPcs]
@[simp] theorem Group.setPcs_team : (g.setPcs m x).team = g.team := by rw [Group.setPcs]
@[simp] theorem Group.setPcs_ck : (g.setPcs m x).ck = g.ck := by rw [Group.setPcs]
@[simp] theorem Group.setPcs_slot : (g.setPcs m x).slot = g.slot := by rw [Group.setPcs]
@[simp] theorem Group.setPcs_band : (g.setPcs m x).band = g.band := by rw [Group.setPcs]
@[simp] theorem Group.setPcs_nbands : (g.setPcs m x).nbands = g.nbands := by rw [Group.setPcs]
@[simp] theorem Group.setPcs_regs : (g.setPcs m x).regs = g.regs := by rw [Group.setPcs]
@[simp] theorem Group.setPcs_exited : (g.setPcs m x).exited = g.exited := by rw [Group.setPcs]
@[simp] theorem Group.setPcs_waiting : (g.setPcs m x).waiting = g.waiting := by rw [Group.setPcs]
@[simp] theorem Group.setPcs_masks : (g.setPcs m x).masks = g.masks := by rw [Group.setPcs]
@[simp] theorem Group.setPcs_stand : (g.setPcs m x).stand = g.stand := by rw [Group.setPcs]
@[simp] theorem Group.setPcs_latches : (g.setPcs m x).latches = g.latches := by rw [Group.setPcs]
@[simp] theorem Group.setPcs_lvalid : (g.setPcs m x).lvalid = g.lvalid := by rw [Group.setPcs]
@[simp] theorem Group.setPcs_ycount : (g.setPcs m x).ycount = g.ycount := by rw [Group.setPcs]
@[simp] theorem Group.setPcs_ylane : (g.setPcs m x).ylane = g.ylane := by rw [Group.setPcs]
@[simp] theorem Group.setPcs_yforce : (g.setPcs m x).yforce = g.yforce := by rw [Group.setPcs]
@[simp] theorem Group.setPcs_fpflags : (g.setPcs m x).fpflags = g.fpflags := by rw [Group.setPcs]
@[simp] theorem Group.setPcs_trap : (g.setPcs m x).trap = g.trap := by rw [Group.setPcs]
@[simp] theorem Group.setPcs_handler : (g.setPcs m x).handler = g.handler := by rw [Group.setPcs]
@[simp] theorem Group.setPcs_wserial : (g.setPcs m x).wserial = g.wserial := by rw [Group.setPcs]
@[simp] theorem Group.setPcs_rstart : (g.setPcs m x).rstart = g.rstart := by rw [Group.setPcs]
@[simp] theorem Group.setPcs_tstart : (g.setPcs m x).tstart = g.tstart := by rw [Group.setPcs]
@[simp] theorem Group.setPcs_hold : (g.setPcs m x).hold = g.hold := by rw [Group.setPcs]
@[simp] theorem Group.setPcs_replay : (g.setPcs m x).replay = g.replay := by rw [Group.setPcs]
@[simp] theorem Group.setPcs_outs : (g.setPcs m x).outs = g.outs := by rw [Group.setPcs]
@[simp] theorem Group.setPcs_rem : (g.setPcs m x).rem = g.rem := by rw [Group.setPcs]
@[simp] theorem Group.setPcs_first : (g.setPcs m x).first = g.first := by rw [Group.setPcs]
@[simp] theorem Group.setPcs_last : (g.setPcs m x).last = g.last := by rw [Group.setPcs]
@[simp] theorem Group.setPcs_noLive : (g.setPcs m x).noLive = g.noLive := by rw [Group.setPcs]
@[simp] theorem Group.setPcs_ckpt : (g.setPcs m x).ckpt = g.ckpt := by rw [Group.setPcs]
@[simp] theorem Group.setPcs_inBar : (g.setPcs m x).inBar = g.inBar := by rw [Group.setPcs]
@[simp] theorem Group.setPcs_copies : (g.setPcs m x).copies = g.copies := by rw [Group.setPcs]
@[simp] theorem Group.setPcs_copyFails : (g.setPcs m x).copyFails = g.copyFails := by rw [Group.setPcs]
@[simp] theorem Group.setPcs_mats : (g.setPcs m x).mats = g.mats := by rw [Group.setPcs]
@[simp] theorem Group.setPcs_matOps : (g.setPcs m x).matOps = g.matOps := by rw [Group.setPcs]
@[simp] theorem Group.setPcs_tiles : (g.setPcs m x).tiles = g.tiles := by rw [Group.setPcs]
@[simp] theorem Group.setPcs_tileFail : (g.setPcs m x).tileFail = g.tileFail := by rw [Group.setPcs]
@[simp] theorem Group.setPcs_late : (g.setPcs m x).late = g.late := by rw [Group.setPcs]
@[simp] theorem Group.setPcs_unknowns : (g.setPcs m x).unknowns = g.unknowns := by rw [Group.setPcs]
@[simp] theorem Group.setPcs_wait : (g.setPcs m x).wait = g.wait := by rw [Group.setPcs]
@[simp] theorem Group.setPcs_arT : (g.setPcs m x).arT = g.arT := by rw [Group.setPcs]
@[simp] theorem Group.setPcs_dpT : (g.setPcs m x).dpT = g.dpT := by rw [Group.setPcs]
@[simp] theorem Group.setPcs_arC : (g.setPcs m x).arC = g.arC := by rw [Group.setPcs]
@[simp] theorem Group.setPcs_dpC : (g.setPcs m x).dpC = g.dpC := by rw [Group.setPcs]
@[simp] theorem Group.setPcs_prio : (g.setPcs m x).prio = g.prio := by rw [Group.setPcs]
@[simp] theorem Group.setPcs_lastIssue : (g.setPcs m x).lastIssue = g.lastIssue := by rw [Group.setPcs]
@[simp] theorem Group.setPcs_lastStep : (g.setPcs m x).lastStep = g.lastStep := by rw [Group.setPcs]
@[simp] theorem Group.setPcs_placedAt : (g.setPcs m x).placedAt = g.placedAt := by rw [Group.setPcs]
@[simp] theorem Group.setPcs_movingTill : (g.setPcs m x).movingTill = g.movingTill := by rw [Group.setPcs]
@[simp] theorem Group.setPcs_stopped : (g.setPcs m x).stopped = g.stopped := by rw [Group.setPcs]
@[simp] theorem Group.setPcs_nextOp : (g.setPcs m x).nextOp = g.nextOp := by rw [Group.setPcs]
@[simp] theorem Group.setPcs_nCopy : (g.setPcs m x).nCopy = g.nCopy := by rw [Group.setPcs]
@[simp] theorem Group.setPcs_nTile : (g.setPcs m x).nTile = g.nTile := by rw [Group.setPcs]
@[simp] theorem Group.setPcs_nMat : (g.setPcs m x).nMat = g.nMat := by rw [Group.setPcs]
@[simp] theorem Group.setPcs_nRem : (g.setPcs m x).nRem = g.nRem := by rw [Group.setPcs]
@[simp] theorem Group.setPcs_nReq : (g.setPcs m x).nReq = g.nReq := by rw [Group.setPcs]
@[simp] theorem Group.setPcs_notices : (g.setPcs m x).notices = g.notices := by rw [Group.setPcs]
@[simp] theorem Group.setPcs_units : (g.setPcs m x).units = g.units := by rw [Group.setPcs]
@[simp] theorem Group.setPcs_steps : (g.setPcs m x).steps = g.steps := by rw [Group.setPcs]
end setPcs

section setMask
variable (g : Group) (k : Nat) (x : Mask)
@[simp] theorem Group.setMask_live : (g.setMask k x).live = g.live := rfl
@[simp] theorem Group.setMask_team : (g.setMask k x).team = g.team := rfl
@[simp] theorem Group.setMask_ck : (g.setMask k x).ck = g.ck := rfl
@[simp] theorem Group.setMask_slot : (g.setMask k x).slot = g.slot := rfl
@[simp] theorem Group.setMask_band : (g.setMask k x).band = g.band := rfl
@[simp] theorem Group.setMask_nbands : (g.setMask k x).nbands = g.nbands := rfl
@[simp] theorem Group.setMask_regs : (g.setMask k x).regs = g.regs := rfl
@[simp] theorem Group.setMask_pcs : (g.setMask k x).pcs = g.pcs := rfl
@[simp] theorem Group.setMask_exited : (g.setMask k x).exited = g.exited := rfl
@[simp] theorem Group.setMask_waiting : (g.setMask k x).waiting = g.waiting := rfl
@[simp] theorem Group.setMask_stand : (g.setMask k x).stand = g.stand := rfl
@[simp] theorem Group.setMask_latches : (g.setMask k x).latches = g.latches := rfl
@[simp] theorem Group.setMask_lvalid : (g.setMask k x).lvalid = g.lvalid := rfl
@[simp] theorem Group.setMask_ycount : (g.setMask k x).ycount = g.ycount := rfl
@[simp] theorem Group.setMask_ylane : (g.setMask k x).ylane = g.ylane := rfl
@[simp] theorem Group.setMask_yforce : (g.setMask k x).yforce = g.yforce := rfl
@[simp] theorem Group.setMask_fpflags : (g.setMask k x).fpflags = g.fpflags := rfl
@[simp] theorem Group.setMask_trap : (g.setMask k x).trap = g.trap := rfl
@[simp] theorem Group.setMask_handler : (g.setMask k x).handler = g.handler := rfl
@[simp] theorem Group.setMask_wserial : (g.setMask k x).wserial = g.wserial := rfl
@[simp] theorem Group.setMask_rstart : (g.setMask k x).rstart = g.rstart := rfl
@[simp] theorem Group.setMask_tstart : (g.setMask k x).tstart = g.tstart := rfl
@[simp] theorem Group.setMask_hold : (g.setMask k x).hold = g.hold := rfl
@[simp] theorem Group.setMask_replay : (g.setMask k x).replay = g.replay := rfl
@[simp] theorem Group.setMask_outs : (g.setMask k x).outs = g.outs := rfl
@[simp] theorem Group.setMask_rem : (g.setMask k x).rem = g.rem := rfl
@[simp] theorem Group.setMask_first : (g.setMask k x).first = g.first := rfl
@[simp] theorem Group.setMask_last : (g.setMask k x).last = g.last := rfl
@[simp] theorem Group.setMask_noLive : (g.setMask k x).noLive = g.noLive := rfl
@[simp] theorem Group.setMask_ckpt : (g.setMask k x).ckpt = g.ckpt := rfl
@[simp] theorem Group.setMask_inBar : (g.setMask k x).inBar = g.inBar := rfl
@[simp] theorem Group.setMask_copies : (g.setMask k x).copies = g.copies := rfl
@[simp] theorem Group.setMask_copyFails : (g.setMask k x).copyFails = g.copyFails := rfl
@[simp] theorem Group.setMask_mats : (g.setMask k x).mats = g.mats := rfl
@[simp] theorem Group.setMask_matOps : (g.setMask k x).matOps = g.matOps := rfl
@[simp] theorem Group.setMask_tiles : (g.setMask k x).tiles = g.tiles := rfl
@[simp] theorem Group.setMask_tileFail : (g.setMask k x).tileFail = g.tileFail := rfl
@[simp] theorem Group.setMask_late : (g.setMask k x).late = g.late := rfl
@[simp] theorem Group.setMask_unknowns : (g.setMask k x).unknowns = g.unknowns := rfl
@[simp] theorem Group.setMask_wait : (g.setMask k x).wait = g.wait := rfl
@[simp] theorem Group.setMask_arT : (g.setMask k x).arT = g.arT := rfl
@[simp] theorem Group.setMask_dpT : (g.setMask k x).dpT = g.dpT := rfl
@[simp] theorem Group.setMask_arC : (g.setMask k x).arC = g.arC := rfl
@[simp] theorem Group.setMask_dpC : (g.setMask k x).dpC = g.dpC := rfl
@[simp] theorem Group.setMask_prio : (g.setMask k x).prio = g.prio := rfl
@[simp] theorem Group.setMask_lastIssue : (g.setMask k x).lastIssue = g.lastIssue := rfl
@[simp] theorem Group.setMask_lastStep : (g.setMask k x).lastStep = g.lastStep := rfl
@[simp] theorem Group.setMask_placedAt : (g.setMask k x).placedAt = g.placedAt := rfl
@[simp] theorem Group.setMask_movingTill : (g.setMask k x).movingTill = g.movingTill := rfl
@[simp] theorem Group.setMask_stopped : (g.setMask k x).stopped = g.stopped := rfl
@[simp] theorem Group.setMask_nextOp : (g.setMask k x).nextOp = g.nextOp := rfl
@[simp] theorem Group.setMask_nCopy : (g.setMask k x).nCopy = g.nCopy := rfl
@[simp] theorem Group.setMask_nTile : (g.setMask k x).nTile = g.nTile := rfl
@[simp] theorem Group.setMask_nMat : (g.setMask k x).nMat = g.nMat := rfl
@[simp] theorem Group.setMask_nRem : (g.setMask k x).nRem = g.nRem := rfl
@[simp] theorem Group.setMask_nReq : (g.setMask k x).nReq = g.nReq := rfl
@[simp] theorem Group.setMask_notices : (g.setMask k x).notices = g.notices := rfl
@[simp] theorem Group.setMask_units : (g.setMask k x).units = g.units := rfl
@[simp] theorem Group.setMask_steps : (g.setMask k x).steps = g.steps := rfl
end setMask

section shiftLatch
variable (g : Group) (x : Nat → Dword)
@[simp] theorem Group.shiftLatch_live : (g.shiftLatch x).live = g.live := rfl
@[simp] theorem Group.shiftLatch_team : (g.shiftLatch x).team = g.team := rfl
@[simp] theorem Group.shiftLatch_ck : (g.shiftLatch x).ck = g.ck := rfl
@[simp] theorem Group.shiftLatch_slot : (g.shiftLatch x).slot = g.slot := rfl
@[simp] theorem Group.shiftLatch_band : (g.shiftLatch x).band = g.band := rfl
@[simp] theorem Group.shiftLatch_nbands : (g.shiftLatch x).nbands = g.nbands := rfl
@[simp] theorem Group.shiftLatch_regs : (g.shiftLatch x).regs = g.regs := rfl
@[simp] theorem Group.shiftLatch_pcs : (g.shiftLatch x).pcs = g.pcs := rfl
@[simp] theorem Group.shiftLatch_exited : (g.shiftLatch x).exited = g.exited := rfl
@[simp] theorem Group.shiftLatch_waiting : (g.shiftLatch x).waiting = g.waiting := rfl
@[simp] theorem Group.shiftLatch_masks : (g.shiftLatch x).masks = g.masks := rfl
@[simp] theorem Group.shiftLatch_stand : (g.shiftLatch x).stand = g.stand := rfl
@[simp] theorem Group.shiftLatch_ycount : (g.shiftLatch x).ycount = g.ycount := rfl
@[simp] theorem Group.shiftLatch_ylane : (g.shiftLatch x).ylane = g.ylane := rfl
@[simp] theorem Group.shiftLatch_yforce : (g.shiftLatch x).yforce = g.yforce := rfl
@[simp] theorem Group.shiftLatch_fpflags : (g.shiftLatch x).fpflags = g.fpflags := rfl
@[simp] theorem Group.shiftLatch_trap : (g.shiftLatch x).trap = g.trap := rfl
@[simp] theorem Group.shiftLatch_handler : (g.shiftLatch x).handler = g.handler := rfl
@[simp] theorem Group.shiftLatch_wserial : (g.shiftLatch x).wserial = g.wserial := rfl
@[simp] theorem Group.shiftLatch_rstart : (g.shiftLatch x).rstart = g.rstart := rfl
@[simp] theorem Group.shiftLatch_tstart : (g.shiftLatch x).tstart = g.tstart := rfl
@[simp] theorem Group.shiftLatch_hold : (g.shiftLatch x).hold = g.hold := rfl
@[simp] theorem Group.shiftLatch_replay : (g.shiftLatch x).replay = g.replay := rfl
@[simp] theorem Group.shiftLatch_outs : (g.shiftLatch x).outs = g.outs := rfl
@[simp] theorem Group.shiftLatch_rem : (g.shiftLatch x).rem = g.rem := rfl
@[simp] theorem Group.shiftLatch_first : (g.shiftLatch x).first = g.first := rfl
@[simp] theorem Group.shiftLatch_last : (g.shiftLatch x).last = g.last := rfl
@[simp] theorem Group.shiftLatch_noLive : (g.shiftLatch x).noLive = g.noLive := rfl
@[simp] theorem Group.shiftLatch_ckpt : (g.shiftLatch x).ckpt = g.ckpt := rfl
@[simp] theorem Group.shiftLatch_inBar : (g.shiftLatch x).inBar = g.inBar := rfl
@[simp] theorem Group.shiftLatch_copies : (g.shiftLatch x).copies = g.copies := rfl
@[simp] theorem Group.shiftLatch_copyFails : (g.shiftLatch x).copyFails = g.copyFails := rfl
@[simp] theorem Group.shiftLatch_mats : (g.shiftLatch x).mats = g.mats := rfl
@[simp] theorem Group.shiftLatch_matOps : (g.shiftLatch x).matOps = g.matOps := rfl
@[simp] theorem Group.shiftLatch_tiles : (g.shiftLatch x).tiles = g.tiles := rfl
@[simp] theorem Group.shiftLatch_tileFail : (g.shiftLatch x).tileFail = g.tileFail := rfl
@[simp] theorem Group.shiftLatch_late : (g.shiftLatch x).late = g.late := rfl
@[simp] theorem Group.shiftLatch_unknowns : (g.shiftLatch x).unknowns = g.unknowns := rfl
@[simp] theorem Group.shiftLatch_wait : (g.shiftLatch x).wait = g.wait := rfl
@[simp] theorem Group.shiftLatch_arT : (g.shiftLatch x).arT = g.arT := rfl
@[simp] theorem Group.shiftLatch_dpT : (g.shiftLatch x).dpT = g.dpT := rfl
@[simp] theorem Group.shiftLatch_arC : (g.shiftLatch x).arC = g.arC := rfl
@[simp] theorem Group.shiftLatch_dpC : (g.shiftLatch x).dpC = g.dpC := rfl
@[simp] theorem Group.shiftLatch_prio : (g.shiftLatch x).prio = g.prio := rfl
@[simp] theorem Group.shiftLatch_lastIssue : (g.shiftLatch x).lastIssue = g.lastIssue := rfl
@[simp] theorem Group.shiftLatch_lastStep : (g.shiftLatch x).lastStep = g.lastStep := rfl
@[simp] theorem Group.shiftLatch_placedAt : (g.shiftLatch x).placedAt = g.placedAt := rfl
@[simp] theorem Group.shiftLatch_movingTill : (g.shiftLatch x).movingTill = g.movingTill := rfl
@[simp] theorem Group.shiftLatch_stopped : (g.shiftLatch x).stopped = g.stopped := rfl
@[simp] theorem Group.shiftLatch_nextOp : (g.shiftLatch x).nextOp = g.nextOp := rfl
@[simp] theorem Group.shiftLatch_nCopy : (g.shiftLatch x).nCopy = g.nCopy := rfl
@[simp] theorem Group.shiftLatch_nTile : (g.shiftLatch x).nTile = g.nTile := rfl
@[simp] theorem Group.shiftLatch_nMat : (g.shiftLatch x).nMat = g.nMat := rfl
@[simp] theorem Group.shiftLatch_nRem : (g.shiftLatch x).nRem = g.nRem := rfl
@[simp] theorem Group.shiftLatch_nReq : (g.shiftLatch x).nReq = g.nReq := rfl
@[simp] theorem Group.shiftLatch_notices : (g.shiftLatch x).notices = g.notices := rfl
@[simp] theorem Group.shiftLatch_units : (g.shiftLatch x).units = g.units := rfl
@[simp] theorem Group.shiftLatch_steps : (g.shiftLatch x).steps = g.steps := rfl
end shiftLatch

end Sys2Proof.Machine
end

