-- ==== Sys2Proof/Laws/Tab.lean ====
section
/-! SUPPORT. Tables: a value read after a write, at the key written and at any other, and the canonical form kept. -/
namespace Sys2Proof.Machine

variable {β : Type} {d : β}

@[simp] theorem tabGet_nil (k : Nat) : tabGet d [] k = d := rfl

theorem tabGet_skip_le (t : Tab β) (j k : Nat) (h : j ≤ k) : tabGet d (tabSkip k t) j = d := by
  induction t with
  | nil => rfl
  | cons p t ih =>
    obtain ⟨a, x⟩ := p
    by_cases ha : a ≤ k
    · simpa [tabSkip, ha] using ih
    · simp [tabSkip, ha, tabGet, show ¬ j = a by omega, show j < a by omega]

theorem tabGet_skip_gt (t : Tab β) (j k : Nat) (h : k < j) : tabGet d (tabSkip k t) j = tabGet d t j := by
  induction t with
  | nil => rfl
  | cons p t ih =>
    obtain ⟨a, x⟩ := p
    by_cases ha : a ≤ k
    · simp [tabSkip, ha, tabGet, ih, show ¬ j = a by omega, show ¬ j < a by omega]
    · simp [tabSkip, ha]

variable [DecidableEq β]

@[simp] theorem tabGet_tabSet_same (t : Tab β) (k : Nat) (v : β) : tabGet d (tabSet d t k v) k = v := by
  induction t with
  | nil => by_cases hv : v = d <;> simp [tabSet, tabGet, hv]
  | cons p t ih =>
    obtain ⟨a, x⟩ := p
    by_cases h1 : k < a
    · by_cases hv : v = d <;> simp [tabSet, tabGet, h1, hv, show ¬ k = a by omega]
    · by_cases h2 : k = a
      · by_cases hv : v = d
        · subst h2; simp [tabSet, hv, tabGet_skip_le]
        · subst h2; simp [tabSet, tabGet, hv]
      · simp [tabSet, tabGet, h1, h2, ih]

theorem tabGet_tabSet_ne (t : Tab β) (k j : Nat) (v : β) (h : j ≠ k) : tabGet d (tabSet d t k v) j = tabGet d t j := by
  induction t with
  | nil => by_cases hv : v = d <;> simp [tabSet, tabGet, hv, h]
  | cons p t ih =>
    obtain ⟨a, x⟩ := p
    by_cases h1 : k < a
    · by_cases hv : v = d
      · simp [tabSet, h1, hv]
      · by_cases h3 : j < k
        · simp [tabSet, tabGet, h1, hv, h, h3, show ¬ j = a by omega, show j < a by omega]
        · simp [tabSet, tabGet, h1, hv, h, h3]
    · by_cases h2 : k = a
      · subst h2
        by_cases hv : v = d
        · by_cases h3 : j < k
          · simp [tabSet, hv, tabGet, h, h3, tabGet_skip_le _ _ _ (Nat.le_of_lt h3)]
          · simp [tabSet, hv, tabGet, h, h3, tabGet_skip_gt _ _ _ (show k < j by omega)]
        · by_cases h3 : j < k
          · simp [tabSet, hv, tabGet, h, h3]
          · simp [tabSet, hv, tabGet, h, h3, tabGet_skip_gt _ _ _ (show k < j by omega)]
      · simp only [tabSet, h1, h2, if_false]
        by_cases h4 : j = a <;> simp [tabGet, h4, ih]

theorem tabGet_tabSet (t : Tab β) (k j : Nat) (v : β) : tabGet d (tabSet d t k v) j = if j = k then v else tabGet d t j := by
  by_cases h : j = k
  · subst h; simp
  · simp [h, tabGet_tabSet_ne]

omit [DecidableEq β] in
theorem tabSkip_skip (t : Tab β) (k : Nat) : tabSkip k (tabSkip k t) = tabSkip k t := by
  induction t with
  | nil => rfl
  | cons p t ih =>
    by_cases h : p.1 ≤ k <;> simp [tabSkip, h, ih]

theorem tabSet_skip (t : Tab β) (k : Nat) (v : β) :
    tabSet d (tabSkip k t) k v = if v = d then tabSkip k t else (k, v) :: tabSkip k t := by
  induction t with
  | nil => simp [tabSkip, tabSet]
  | cons p t ih =>
    by_cases h : p.1 ≤ k
    · simpa [tabSkip, h] using ih
    · simp [tabSkip, h, tabSet, show k < p.1 by omega]

/-- The second of two writes at one key stands alone. -/
theorem tabSet_tabSet (t : Tab β) (k : Nat) (v w : β) : tabSet d (tabSet d t k v) k w = tabSet d t k w := by
  induction t with
  | nil => by_cases hv : v = d <;> by_cases hw : w = d <;> simp [tabSet, tabSkip, hv, hw]
  | cons p t ih =>
    obtain ⟨a, x⟩ := p
    by_cases h1 : k < a
    · by_cases hv : v = d
      · simp [tabSet, h1, hv]
      · simp [tabSet, h1, hv, tabSkip, show ¬ a ≤ k by omega]
    · by_cases h2 : k = a
      · subst h2
        by_cases hv : v = d
        · simp [tabSet, hv, tabSet_skip]
        · simp [tabSet, hv, tabSkip_skip]
      · simp [tabSet, h1, h2, ih]

theorem tabFrom_mono (t : Tab β) (a b : Nat) (h : b ≤ a) : tabFrom d a t = true → tabFrom d b t = true := by
  cases t with
  | nil => simp [tabFrom]
  | cons p t =>
    simp only [tabFrom, Bool.and_eq_true, decide_eq_true_eq]
    exact fun hp => ⟨⟨Nat.le_trans h hp.1.1, hp.1.2⟩, hp.2⟩

theorem tabSkip_of_wf (t : Tab β) (k lo : Nat) (h : tabFrom d lo t = true) (hk : k < lo) : tabSkip k t = t := by
  cases t with
  | nil => rfl
  | cons p t =>
    simp only [tabFrom, Bool.and_eq_true, decide_eq_true_eq] at h
    simp [tabSkip, show ¬ p.1 ≤ k by omega]

theorem tabFrom_tabSet (t : Tab β) (lo k : Nat) (v : β) (hk : lo ≤ k) (h : tabFrom d lo t = true) :
    tabFrom d lo (tabSet d t k v) = true := by
  induction t generalizing lo with
  | nil => by_cases hv : v = d <;> simp [tabSet, tabFrom, hv, hk]
  | cons p t ih =>
    obtain ⟨a, x⟩ := p
    simp only [tabFrom, Bool.and_eq_true, decide_eq_true_eq] at h
    obtain ⟨⟨hlo, hx⟩, ht⟩ := h
    by_cases h1 : k < a
    · by_cases hv : v = d
      · simp [tabSet, h1, hv, tabFrom, hlo, hx, ht]
      · simp [tabSet, h1, hv, tabFrom, hk, hx, ht, show k + 1 ≤ a by omega]
    · by_cases h2 : k = a
      · subst h2
        by_cases hv : v = d
        · simpa [tabSet, hv, tabSkip_of_wf t k (k + 1) ht (by omega)] using tabFrom_mono t (k + 1) lo (by omega) ht
        · simp [tabSet, hv, tabFrom, hlo, ht, tabSkip_of_wf t k (k + 1) ht (by omega)]
      · simp [tabSet, h1, h2, tabFrom, hlo, hx, ih (a + 1) (by omega) ht]

/-- A write keeps the canonical form. -/
theorem tabWf_tabSet (t : Tab β) (k : Nat) (v : β) (h : tabWf d t = true) : tabWf d (tabSet d t k v) = true :=
  tabFrom_tabSet t 0 k v (Nat.zero_le k) h

theorem tabFrom_filter (t : Tab β) (lo : Nat) (p : Nat × β → Bool) (h : tabFrom d lo t = true) :
    tabFrom d lo (t.filter p) = true := by
  induction t generalizing lo with
  | nil => simp [tabFrom]
  | cons e t ih =>
    obtain ⟨a, x⟩ := e
    simp only [tabFrom, Bool.and_eq_true, decide_eq_true_eq] at h
    have hr := ih (a + 1) h.2
    by_cases hp : p (a, x) = true
    · simp [hp, tabFrom, h.1.1, h.1.2, hr]
    · simpa [hp] using tabFrom_mono _ _ lo (by omega) hr

/-- So does the clearing of a range. -/
theorem tabWf_tabClear (t : Tab β) (lo hi : Nat) (h : tabWf d t = true) : tabWf d (tabClear t lo hi) = true :=
  tabFrom_filter t 0 _ h

/-- Two canonical tables that read alike are equal. -/
theorem tabFrom_ext (t u : Tab β) (lo : Nat) (ht : tabFrom d lo t = true) (hu : tabFrom d lo u = true)
    (h : ∀ k, tabGet d t k = tabGet d u k) : t = u := by
  have below : ∀ (w : Tab β) (m j : Nat), tabFrom d m w = true → j < m → tabGet d w j = d := by
    intro w m j hw hj
    cases w with
    | nil => rfl
    | cons q w =>
      simp only [tabFrom, Bool.and_eq_true, decide_eq_true_eq] at hw
      simp [tabGet, show ¬ j = q.1 by omega, show j < q.1 by omega]
  induction t generalizing u lo with
  | nil =>
    cases u with
    | nil => rfl
    | cons q u =>
      simp only [tabFrom, Bool.and_eq_true, decide_eq_true_eq, bne_iff_ne] at hu
      have := h q.1
      simp only [tabGet, if_true] at this
      exact absurd this.symm hu.1.2
  | cons p t ih =>
    simp only [tabFrom, Bool.and_eq_true, decide_eq_true_eq, bne_iff_ne] at ht
    cases u with
    | nil =>
      have := h p.1
      simp only [tabGet, if_true] at this
      exact absurd this ht.1.2
    | cons q u =>
      simp only [tabFrom, Bool.and_eq_true, decide_eq_true_eq, bne_iff_ne] at hu
      have hpq : p.1 = q.1 := by
        rcases Nat.lt_trichotomy p.1 q.1 with hlt | heq | hgt
        · have := h p.1
          simp only [tabGet, if_true, show ¬ p.1 = q.1 by omega, if_false, hlt] at this
          exact absurd this ht.1.2
        · exact heq
        · have := h q.1
          simp only [tabGet, if_true, show ¬ q.1 = p.1 by omega, if_false, hgt] at this
          exact absurd this.symm hu.1.2
      have hv : p.2 = q.2 := by simpa [tabGet, hpq] using h p.1
      have hrest : ∀ k, tabGet d t k = tabGet d u k := by
        intro k
        by_cases hk : k ≤ p.1
        · rw [below t (p.1 + 1) k ht.2 (by omega), below u (q.1 + 1) k hu.2 (by omega)]
        · have := h k
          simpa [tabGet, hpq, show ¬ k = q.1 by omega, show ¬ k < q.1 by omega] using this
      have := ih u (p.1 + 1) ht.2 (by rw [hpq]; exact hu.2) hrest
      rw [this]
      exact congrArg (· :: u) (Prod.ext hpq hv)

/-- The canonical form is one form: tables that read alike at every key are the same data. -/
theorem tab_ext (t u : Tab β) (ht : tabWf d t = true) (hu : tabWf d u = true) (h : ∀ k, tabGet d t k = tabGet d u k) :
    t = u := tabFrom_ext t u 0 ht hu h

end Sys2Proof.Machine
end

