-- ==== Sys2Proof/Laws/Regs.lean ====
section
/-! SUPPORT. What a read gives after a write: tables of the state, bytes of memory, lanes of a row, registers of a group. -/
namespace Sys2Proof.Machine

/-! ### The tables of the state -/

section tables
variable (s : State) (k j : Nat)

@[simp] theorem State.iss_setCur (g : Group) : (s.setCur g).iss = s.iss := rfl
@[simp] theorem State.cur_setCur (g : Group) : (s.setCur g).cur = g := by simp [State.cur, State.setCur, State.setGroup, State.group]
@[simp] theorem State.group_setGroup (g : Group) : (s.setGroup k g).group k = g := by simp [State.group, State.setGroup]
theorem State.group_setGroup_ne (g : Group) (h : j ≠ k) : (s.setGroup k g).group j = s.group j := by
  simp [State.group, State.setGroup, tabGet_tabSet, h]
theorem State.group_setCur_ne (g : Group) (h : j ≠ s.iss.gid) : (s.setCur g).group j = s.group j :=
  s.group_setGroup_ne _ _ g h
@[simp] theorem State.slot_setSlot (x : Slot) : (s.setSlot k x).slot k = x := by simp [State.slot, State.setSlot]
theorem State.slot_setSlot_ne (x : Slot) (h : j ≠ k) : (s.setSlot k x).slot j = s.slot j := by
  simp [State.slot, State.setSlot, tabGet_tabSet, h]
@[simp] theorem State.team_setTeam (x : Team) : (s.setTeam k x).team k = x := by simp [State.team, State.setTeam]
theorem State.team_setTeam_ne (x : Team) (h : j ≠ k) : (s.setTeam k x).team j = s.team j := by
  simp [State.team, State.setTeam, tabGet_tabSet, h]
@[simp] theorem State.cluster_setCluster (x : Cluster) : (s.setCluster k x).cluster k = x := by
  simp [State.cluster, State.setCluster]
@[simp] theorem State.die_setDie (x : Die) : (s.setDie k x).die k = x := by simp [State.die, State.setDie]
theorem State.die_setDie_ne (x : Die) (h : j ≠ k) : (s.setDie k x).die j = s.die j := by
  simp [State.die, State.setDie, tabGet_tabSet, h]
@[simp] theorem State.owner_setOwner (x : Owner) : (s.setOwner k x).owner k = x := by simp [State.owner, State.setOwner]
@[simp] theorem State.core_setCore (x : CoreSt) : (s.setCore k x).core k = x := by simp [State.core, State.setCore]
@[simp] theorem State.quad_setQuad (x : Quad) : (s.setQuad k x).quad k = x := by simp [State.quad, State.setQuad]
@[simp] theorem State.hart_setHart (x : Hart) : (s.setHart k x).hart k = x := by simp [State.hart, State.setHart]
@[simp] theorem State.launch_setLaunch (h : Word) (x : Launch) : (s.setLaunch h x).launch h = x := by
  simp [State.launch, State.setLaunch]
theorem State.launch_setLaunch_ne (h i : Word) (x : Launch) (hn : i ≠ h) : (s.setLaunch h x).launch i = s.launch i := by
  simp [State.launch, State.setLaunch, tabGet_tabSet, BitVec.toNat_inj, hn]
end tables

/-! ### Bytes of memory -/

section bytes
variable (s : State)

@[simp] theorem State.rd_wr (pa : Nat) (b : Byte) : (s.wr pa b).rd pa = b := by simp [State.rd, State.wr]
theorem State.rd_wr_ne (pa x : Nat) (b : Byte) (h : x ≠ pa) : (s.wr pa b).rd x = s.rd x := by
  simp [State.rd, State.wr, tabGet_tabSet, h]

/-- Every address outside the bytes written reads as before. -/
theorem State.rd_wrBytes_out (bs : List Byte) (pa x : Nat) (h : x < pa ∨ pa + bs.length ≤ x) :
    (s.wrBytes pa bs).rd x = s.rd x := by
  induction bs generalizing s pa with
  | nil => rfl
  | cons b bs ih =>
    simp only [List.length_cons] at h
    rw [State.wrBytes, ih _ _ (by omega), s.rd_wr_ne _ _ _ (by omega)]

/-- And each byte written reads back. -/
theorem State.rd_wrBytes (bs : List Byte) (pa i : Nat) (h : i < bs.length) : (s.wrBytes pa bs).rd (pa + i) = bs[i] := by
  induction bs generalizing s pa i with
  | nil => simp at h
  | cons b bs ih =>
    cases i with
    | zero => simp [State.wrBytes, State.rd_wrBytes_out]
    | succ i =>
      have := ih (s.wr pa b) (pa + 1) i (by simpa using h)
      simpa [State.wrBytes, Nat.add_assoc, Nat.add_comm 1 i] using this

@[simp] theorem leBytes_length (n x : Nat) : (leBytes n x).length = n := by
  induction n generalizing x with
  | zero => rfl
  | succ n ih => simp [leBytes, ih]

theorem leVal_leBytes (n x : Nat) : leVal (leBytes n x) = x % 256 ^ n := by
  induction n generalizing x with
  | zero => simp [leBytes, leVal, Nat.mod_one]
  | succ n ih =>
    have h : 256 ^ (n + 1) = 256 * 256 ^ n := by rw [Nat.pow_succ, Nat.mul_comm]
    rw [h, Nat.mod_mul]
    simp [leBytes, leVal, ih]

theorem State.rdBytes_wrBytes (bs : List Byte) (pa : Nat) : (s.wrBytes pa bs).rdBytes pa bs.length = bs := by
  have aux : ∀ (t : State) (n p : Nat), (∀ i, i < n → t.rd (p + i) = bs.getD (bs.length - n + i) 0) → n ≤ bs.length →
      t.rdBytes p n = bs.drop (bs.length - n) := by
    intro t n
    induction n with
    | zero => intro p _ _; simp [State.rdBytes]
    | succ n ih =>
      intro p h hn
      have h0 := h 0 (by omega)
      have hlt : bs.length - (n + 1) < bs.length := by omega
      rw [State.rdBytes, ih (p + 1) (fun i hi => by
        rw [Nat.add_assoc, Nat.add_comm 1 i, h (i + 1) (by omega)]
        congr 1; omega) (by omega)]
      rw [List.drop_eq_getElem_cons hlt]
      simp only [Nat.add_zero] at h0
      rw [h0]
      simp [hlt, show bs.length - (n + 1) + 1 = bs.length - n by omega]
  rw [aux _ bs.length pa (fun i hi => by rw [s.rd_wrBytes bs pa i hi]; simp [hi]) (Nat.le_refl _)]
  simp

/-- A little-endian value read where it was written. -/
theorem State.rdLe_wrLe (pa n x : Nat) : (s.wrLe pa n x).rdLe pa n = x % 256 ^ n := by
  have := s.rdBytes_wrBytes (leBytes n x) pa
  rw [leBytes_length] at this
  rw [State.rdLe, State.wrLe, this, leVal_leBytes]

/-- Bytes written keep the canonical form of memory. -/
theorem State.wrBytes_wf (bs : List Byte) (pa : Nat) (h : tabWf State.emptyByte s.mem = true) :
    tabWf State.emptyByte (s.wrBytes pa bs).mem = true := by
  induction bs generalizing s pa with
  | nil => exact h
  | cons b bs ih => exact ih (s.wr pa b) (pa + 1) (tabWf_tabSet _ _ _ h)
end bytes

/-! ### Rows and registers -/

@[simp] theorem laneAt_rowSet (r : Row) (m : Lanes) (f : Nat → Word) (l : Nat) :
    laneAt (rowSet r m f) l = if m.getLsbD l then f l else laneAt r l := by
  by_cases h : l < 32
  · simp [laneAt, rowSet, Array.getD, h]
  · have : m.getLsbD l = false := BitVec.getLsbD_of_ge m l (by omega)
    simp [laneAt, rowSet, Array.getD, h, this]

@[simp] theorem laneAt64_rowSet64 (r : Row64) (m : Lanes) (f : Nat → Dword) (l : Nat) :
    laneAt64 (rowSet64 r m f) l = if m.getLsbD l then f l else laneAt64 r l := by
  by_cases h : l < 32
  · simp [laneAt64, rowSet64, Array.getD, h]
  · have : m.getLsbD l = false := BitVec.getLsbD_of_ge m l (by omega)
    simp [laneAt64, rowSet64, Array.getD, h, this]

section regs
variable (g : Group) (r q : Nat) (m : Lanes) (l : Nat)

@[simp] theorem Group.v_setReg_same (f : Nat → Word) : (g.setReg r m f).v l r = if m.getLsbD l then f l else g.v l r := by
  simp [Group.v, Group.reg, Group.setReg]

theorem Group.v_setReg_ne (f : Nat → Word) (h : q ≠ r) : (g.setReg r m f).v l q = g.v l q := by
  simp [Group.v, Group.reg, Group.setReg, tabGet_tabSet, h]

theorem Group.v_setReg (f : Nat → Word) : (g.setReg r m f).v l q = if q = r && m.getLsbD l then f l else g.v l q := by
  by_cases h : q = r
  · subst h; simp
  · simp [h, Group.v_setReg_ne]

/-- A pair written reads back whole. -/
theorem Group.v64_setReg64 (f : Nat → Dword) : (g.setReg64 r m f).v64 l r = if m.getLsbD l then f l else g.v64 l r := by
  have h1 : (g.setReg64 r m f).v l (r + 1) = if m.getLsbD l then (f l >>> 32).setWidth 32 else g.v l (r + 1) := by
    simp [Group.setReg64, Group.v_setReg]
  have h0 : (g.setReg64 r m f).v l r = if m.getLsbD l then (f l).setWidth 32 else g.v l r := by
    simp [Group.setReg64, Group.v_setReg]
  rw [Group.v64, h1, h0]
  split
  · ext i hi
    simp only [BitVec.getElem_append, BitVec.getElem_setWidth, BitVec.getLsbD_ushiftRight]
    split
    · simp [BitVec.getLsbD_eq_getElem hi]
    · rw [show 32 + (i - 32) = i by omega]
      simp [BitVec.getLsbD_eq_getElem hi]
  · rfl

@[simp] theorem Group.v_advance (n : Lanes) : (g.advance n).v l q = g.v l q := by simp [Group.v, Group.reg]
@[simp] theorem Group.v_setPcs (n : Lanes) (f : Nat → Dword) : (g.setPcs n f).v l q = g.v l q := by simp [Group.v, Group.reg]
@[simp] theorem Group.v_shiftLatch (f : Nat → Dword) : (g.shiftLatch f).v l q = g.v l q := rfl

@[simp] theorem Group.mask_advance (n : Lanes) (k : Nat) : (g.advance n).mask k = g.mask k := by simp [Group.mask]
@[simp] theorem Group.v64_advance (n : Lanes) : (g.advance n).v64 l q = g.v64 l q := by simp [Group.v64]

/-- Consecutive registers: each takes its word. -/
theorem Group.v_setRegs (f : Nat → List Word) (n : Nat) :
    (g.setRegs r m f n).v l q = if r ≤ q && q < r + n && m.getLsbD l then (f l).getD (q - r) 0 else g.v l q := by
  induction n with
  | zero =>
    by_cases h : r ≤ q
    · simp [Group.setRegs, show ¬ q < r by omega]
    · simp [Group.setRegs, h]
  | succ n ih =>
    rw [Group.setRegs, Group.v_setReg, ih]
    by_cases h : q = r + n
    · subst h
      by_cases hm : m.getLsbD l = true <;> simp [hm]
    · by_cases h1 : r ≤ q
      · by_cases h2 : q < r + n
        · simp [h, h1, h2, show q < r + (n + 1) by omega]
        · simp [h, h1, h2, show ¬ q < r + (n + 1) by omega]
      · simp [h, h1]
end regs

/-! ### Sets of lanes -/

theorem lanesOf_aux (p : Nat → Bool) (n i : Nat) :
    ((List.range n).foldl (fun k l => if p l then k + 2 ^ l else k) 0 < 2 ^ n) ∧
    ((List.range n).foldl (fun k l => if p l then k + 2 ^ l else k) 0).testBit i = (decide (i < n) && p i) := by
  induction n with
  | zero => simp
  | succ n ih =>
    rw [List.range_succ, List.foldl_append]
    simp only [List.foldl_cons, List.foldl_nil]
    generalize (List.range n).foldl (fun k l => if p l then k + 2 ^ l else k) 0 = x at ih
    obtain ⟨hx, hb⟩ := ih
    have hp : 2 ^ (n + 1) = 2 ^ n + 2 ^ n := by rw [Nat.pow_succ]; omega
    by_cases hpn : p n = true
    · refine ⟨by simp [hpn]; omega, ?_⟩
      simp only [hpn, if_true]
      rcases Nat.lt_trichotomy i n with h | h | h
      · rw [Nat.add_comm, Nat.testBit_two_pow_add_gt h, hb]
        simp [h, show i < n + 1 by omega]
      · subst h
        rw [Nat.add_comm, Nat.testBit_two_pow_add_eq, hb]
        simp [hpn]
      · rw [Nat.testBit_lt_two_pow (by
          have : 2 ^ (n + 1) ≤ 2 ^ i := Nat.pow_le_pow_right (by omega) h
          omega)]
        simp [show ¬ i < n + 1 by omega]
    · refine ⟨by simp [hpn]; omega, ?_⟩
      simp only [hpn, Bool.false_eq_true, if_false, hb]
      rcases Nat.lt_trichotomy i n with h | h | h
      · simp [h, show i < n + 1 by omega]
      · subst h; simp [hpn]
      · simp [show ¬ i < n by omega, show ¬ i < n + 1 by omega]

/-- A lane is in the set exactly when the test holds of it. -/
@[simp] theorem getLsbD_lanesOf (p : Nat → Bool) (l : Nat) : (lanesOf p).getLsbD l = (decide (l < 32) && p l) := by
  rw [lanesOf, BitVec.getLsbD_ofNat, (lanesOf_aux p 32 l).2]
  by_cases h : l < 32 <;> simp [h]

@[simp] theorem mem_lanesList (m : Lanes) (l : Nat) : l ∈ lanesList m ↔ l < 32 ∧ m.getLsbD l = true := by
  simp [lanesList]

end Sys2Proof.Machine
end

