-- ==== Sys2Proof/Laws/Words.lean ====
section
/-! SUPPORT. What the shared runs of a word do: the tests before it, the delivery of a T or I word, a P word, an X word. -/
namespace Sys2Proof.Machine

/-- With nothing before it, the word goes on with its active lanes. -/
theorem State.pre_of_clear {s : State} {n : Needs} {m : Lanes} (h : s.Clear n m) : s.pre n = .go m := by
  have f1 : (n.regs ++ guardRegs n.guard).any (s.cur.nregs ≤ ·) = false := by
    rw [List.any_eq_false]
    intro r hr
    have := h.fields r hr
    simp; omega
  have f2 : (n.coll && (s.iss.run != allLanes || (m != 0 && m != allLanes))) = false := by
    by_cases hc : n.coll = true
    · obtain ⟨hr, rfl | rfl⟩ := h.converged hc <;> simp [hr]
    · simp [hc]
  have f3 : (n.latches.any fun b => !s.cur.lvalid.getLsbD b) = false := by
    rw [List.any_eq_false]
    intro b hb
    simp [h.latched b hb]
  have f4 : (n.region && s.cur.handler.isSome) = false := by
    by_cases hr : n.region = true
    · simp [h.noHandler hr]
    · simp [hr]
  simp only [State.pre, f1, h.guardLanded, h.guardKnown, ← h.active, h.allowed, f2, f3, f4, h.landed, h.ordered, h.known,
    h.keysLanded, h.unreserved, Option.isSome_none, Bool.and_false, Bool.or_false, Bool.false_eq_true, if_false]

/-! ### The operand cache and the end of a word -/

theorem State.setCache_only (s : State) (keep written : List Nat) :
    s.setCache keep written = { s with slots := (s.setCache keep written).slots } := by
  simp only [State.setCache]
  split <;> rfl

@[simp] theorem State.setCache_groups (s : State) (keep written : List Nat) : (s.setCache keep written).groups = s.groups := by
  rw [State.setCache_only]

@[simp] theorem State.setCache_iss (s : State) (keep written : List Nat) : (s.setCache keep written).iss = s.iss := by
  rw [State.setCache_only]

@[simp] theorem State.setCache_mem (s : State) (keep written : List Nat) : (s.setCache keep written).mem = s.mem := by
  rw [State.setCache_only]

@[simp] theorem State.setCache_cur (s : State) (keep written : List Nat) : (s.setCache keep written).cur = s.cur := by
  simp [State.cur, State.group]

theorem State.setCache_slot_ne (s : State) (keep written : List Nat) (k : Nat) (h : k ≠ s.cur.slot) :
    (s.setCache keep written).slot k = s.slot k := by
  simp only [State.setCache]
  split
  · rfl
  · exact s.slot_setSlot_ne _ _ _ h

theorem State.setCache_slot (s : State) (keep written : List Nat) (k : Nat) :
    (s.setCache keep written).slot k = { s.slot k with ocache := ((s.setCache keep written).slot k).ocache } := by
  by_cases h : k = s.cur.slot
  · subst h
    simp only [State.setCache]
    split
    · rfl
    · rw [State.slot_setSlot]
  · rw [s.setCache_slot_ne _ _ _ h]

theorem State.setCache_empty (s : State) : ((s.setCache [] []).slot s.cur.slot).ocache = [] := by
  simp only [State.setCache, List.filter_nil]
  by_cases h : (s.slot s.cur.slot).ocache = []
  · simp [h]
  · simp [h]

@[simp] theorem State.markIssued_cur (s : State) : s.markIssued.cur = s.cur := rfl

@[simp] theorem State.advance_cur (s : State) : s.advance.cur = s.cur.advance s.iss.run := by
  rw [State.advance, State.markIssued_cur, State.cur_setCur]

/-- A group written back, the operand cache set, the word issued: nothing else changed. -/
theorem State.finish_only (s : State) (g : Group) (keep written : List Nat) (hs : g.slot = s.cur.slot) :
    s.onlyCur ((s.setCur g).setCache keep written).advance := by
  refine ⟨?_, ?_, ?_, ?_, ?_⟩
  · obtain ⟨x, hx⟩ : ∃ x, (s.setCur g).setCache keep written = { s.setCur g with slots := x } := ⟨_, State.setCache_only _ _ _⟩
    rw [hx]
    rfl
  · intro k hk
    show (((s.setCur g).setCache keep written).setCur _).group k = _
    rw [State.group_setCur_ne _ _ _ (by simpa using hk)]
    simp [State.group, State.setCur, State.setGroup, tabGet_tabSet, hk]
  · intro k
    exact (s.setCur g).setCache_slot keep written k
  · intro k hk
    exact (s.setCur g).setCache_slot_ne keep written k (by simpa [hs] using hk)
  · rw [State.advance, State.markIssued]
    simp

theorem Group.setRegs_only (g : Group) (d : Nat) (m : Lanes) (f : Nat → List Word) (n : Nat) :
    g.setRegs d m f n =
      { g with regs := (g.setRegs d m f n).regs, late := (g.setRegs d m f n).late, unknowns := (g.setRegs d m f n).unknowns } := by
  induction n with
  | zero => rfl
  | succ n ih =>
    rw [Group.setRegs]
    generalize g.setRegs d m f n = h at ih
    rw [Group.setReg, Group.supersede, ih]

theorem Group.v_of_regs {g h : Group} (e : h.regs = g.regs) : h.v = g.v := by
  funext l q
  simp [Group.v, Group.reg, e]

/-- What `deliver` writes into the group. -/
def Group.wrote (g : Group) (nw : Bool) (d : Nat) (m : Lanes) (n : Nat) (r : Nat → LaneRes) : Group :=
  if nw then g else g.setRegs d m (fun l => (r l).words) n

theorem Group.wrote_only (g : Group) (nw : Bool) (d : Nat) (m : Lanes) (n : Nat) (r : Nat → LaneRes) :
    g.wrote nw d m n r =
      { g with regs := (g.wrote nw d m n r).regs, late := (g.wrote nw d m n r).late, unknowns := (g.wrote nw d m n r).unknowns } := by
  unfold Group.wrote
  split
  · rfl
  · exact g.setRegs_only d m _ n

theorem Group.v_wrote (g : Group) (nw : Bool) (d : Nat) (m : Lanes) (n : Nat) (r : Nat → LaneRes) (l q : Nat) :
    (g.wrote nw d m n r).v l q = if m.getLsbD l then (dstWords d n nw r l q).getD (g.v l q) else g.v l q := by
  unfold Group.wrote dstWords
  cases nw
  · simp only [Bool.false_eq_true, if_false, Group.v_setRegs, Bool.not_false, Bool.true_and]
    by_cases h : d ≤ q ∧ q < d + n
    · by_cases hm : m.getLsbD l = true <;> simp [h.1, h.2, hm]
    · have h3 : (decide (d ≤ q) && decide (q < d + n)) = false := by simpa using h
      simp only [h3, Bool.false_and, Bool.false_eq_true, if_false, Option.getD_none, ite_self]
  · simp

/-- The group after a T or I word. -/
def Group.after (g : Group) (m run : Lanes) (d n : Nat) (pair nw : Bool) (r : Nat → LaneRes) : Group :=
  let g1 := g.wrote nw d m n r
  (({ g1 with fpflags := mergeFlags g1.fpflags (flagsOf m fun l => (r l).flags) } : Group).shiftLatch
    (latchVal g1 m d pair r)).advance run

theorem State.deliver_eq (s : State) (m : Lanes) (d n : Nat) (pair nw : Bool) (keep : List Nat) (r : Nat → LaneRes) :
    ∃ g : Group, g.slot = s.cur.slot ∧ g.advance s.iss.run = s.cur.after m s.iss.run d n pair nw r ∧
      s.deliver m d n pair nw keep r
        = ((s.setCur g).setCache keep (if nw then [] else (List.range n).map (d + ·))).advance := by
  refine ⟨_, ?_, ?_, rfl⟩
  · show (s.cur.wrote nw d m n r).slot = _
    rw [Group.wrote_only]
  · rfl

theorem Group.wrote_eq (g : Group) (nw : Bool) (d : Nat) (m : Lanes) (n : Nat) (r : Nat → LaneRes) :
    ∃ R L U, g.wrote nw d m n r = { g with regs := R, late := L, unknowns := U } := ⟨_, _, _, g.wrote_only nw d m n r⟩

theorem Group.after_same (g : Group) (m run : Lanes) (d n : Nat) (pair nw : Bool) (r : Nat → LaneRes) :
    g.sameBut (g.after m run d n pair nw r) ∧
      (g.after m run d n pair nw r).pcs = rowSet64 g.pcs run (fun l => laneAt64 g.pcs l + 8) ∧
      (g.after m run d n pair nw r).fpflags = mergeFlags g.fpflags (flagsOf m fun l => (r l).flags) ∧
      (g.after m run d n pair nw r).lvalid = g.lvalid <<< 1 ||| 1 ∧
      (g.after m run d n pair nw r).latches =
        (Vector.ofFn fun i : Fin 32 => latchVal (g.wrote nw d m n r) m d pair r i.val) ::
          (List.range 3).map fun i => g.latches.getD i zeroRow64 := by
  obtain ⟨R, L, U, hW⟩ := g.wrote_eq nw d m n r
  unfold Group.sameBut Group.after
  rw [hW]
  simp only [Group.shiftLatch, Group.advance, and_self]

/-- The delivery of a T or I word. -/
theorem State.deliver_spec (s : State) (m : Lanes) (d n : Nat) (pair nw : Bool) (keep : List Nat) (r : Nat → LaneRes) :
    Delivered s (s.deliver m d n pair nw keep r) m (dstWords d n nw r) (fun l => (r l).flags)
      ∧ Latched s.cur (s.deliver m d n pair nw keep r).cur (latchVal s.cur m d pair r) := by
  obtain ⟨g, hs, hg, ht⟩ := s.deliver_eq m d n pair nw keep r
  have hc : (s.deliver m d n pair nw keep r).cur = s.cur.after m s.iss.run d n pair nw r := by
    rw [ht, State.advance_cur, State.setCache_cur, State.setCache_iss, State.cur_setCur, State.iss_setCur, hg]
  obtain ⟨h1, h2, h3, h4, h5⟩ := s.cur.after_same m s.iss.run d n pair nw r
  refine ⟨⟨?_, ?_, ?_, ?_, ?_, ?_⟩, ?_⟩
  · intro l q
    rw [hc, Group.after, Group.v_advance, Group.v_shiftLatch]
    exact s.cur.v_wrote nw d m n r l q
  · rw [hc, h3]
  · intro l
    rw [hc, h2, laneAt64_rowSet64]
  · rw [hc]; exact h1
  · rw [ht]; exact s.finish_only g _ _ hs
  · intro a
    rw [ht]
    simp [State.rd]
  · rw [hc, Latched, h4, h5]
    refine ⟨?_, ?_, rfl⟩
    · intro l hl
      have hv (q : Nat) (hm : ¬ m.getLsbD l = true) : (s.cur.wrote nw d m n r).v l q = s.cur.v l q := by
        rw [s.cur.v_wrote]; simp [hm]
      by_cases hm : m.getLsbD l = true
      · simp [laneAt64, Array.getD, hl, latchVal, hm]
      · simp [laneAt64, Array.getD, hl, latchVal, Group.v64, hv _ hm]
    · intro i hi
      simp [hi]

/-- A T word with nothing before it. -/
theorem State.runT_done {s : State} {m : Lanes} {opc : Nat} {f : TF} (h : s.Clear (tNeeds opc f) m)
    (op : Lanes → (Nat → Dword) → (Nat → Dword) → (Nat → Dword) → Nat → LaneRes) : TDone s (s.runT opc f op) m opc f op := by
  simp only [State.runT, State.pre_of_clear h, State.afterPre]
  exact s.deliver_spec m _ _ _ _ _ _

/-- An I word with nothing before it. -/
theorem State.runI_done {s : State} {m : Lanes} {opc : Nat} {f : IF} (h : s.Clear (iNeeds opc f) m)
    (imm : Shape.Src → Word → Dword) (op : Dword → Dword → Dword → LaneRes) :
    IDone s (s.runI opc f imm op) m opc f imm op := by
  simp only [State.runI, State.pre_of_clear h, State.afterPre]
  exact s.deliver_spec m _ _ _ _ _ _

/-- A P word with nothing before it. -/
theorem State.runP_done {s : State} {m : Lanes} {op0 : POp} {h0 : HF} {op1 : POp} {h1 : HF}
    (h : s.Clear (pNeeds op0 h0 op1 h1) m) : PDone s (s.runP op0 h0 op1 h1 halfOp) m op0 h0 op1 h1 := by
  obtain ⟨g1, hg1⟩ : ∃ g1, g1 = (s.cur.setRegs (lowReg h0) m (fun l => (halfLane s op0 h0 (lowReg h0) l).words) 1).setRegs
      (highReg h1) m (fun l => (halfLane s op1 h1 (highReg h1) l).words) 1 := ⟨_, rfl⟩
  have hone : g1 = { s.cur with regs := g1.regs, late := g1.late, unknowns := g1.unknowns } := by
    have a := s.cur.setRegs_only (lowReg h0) m (fun l => (halfLane s op0 h0 (lowReg h0) l).words) 1
    generalize s.cur.setRegs (lowReg h0) m (fun l => (halfLane s op0 h0 (lowReg h0) l).words) 1 = x at a hg1
    have b := x.setRegs_only (highReg h1) m (fun l => (halfLane s op1 h1 (highReg h1) l).words) 1
    rw [← hg1] at b
    rw [b, a]
  have hv : ∀ l q, g1.v l q = if m.getLsbD l then (halfWords s op0 h0 op1 h1 l q).getD (s.cur.v l q) else s.cur.v l q := by
    intro l q
    rw [hg1]
    simp only [Group.v_setRegs, halfWords]
    have e1 : (decide (highReg h1 ≤ q) && decide (q < highReg h1 + 1)) = decide (q = highReg h1) := by
      rw [Bool.eq_iff_iff]; simp; omega
    have e0 : (decide (lowReg h0 ≤ q) && decide (q < lowReg h0 + 1)) = decide (q = lowReg h0) := by
      rw [Bool.eq_iff_iff]; simp; omega
    rw [e1, e0]
    by_cases hm : m.getLsbD l = true
    · by_cases c1 : q = highReg h1
      · simp [c1, hm]
      · by_cases c0 : q = lowReg h0
        · have : ¬ lowReg h0 = highReg h1 := by rw [← c0]; exact c1
          simp [c0, hm, this]
        · simp [c1, c0, hm]
    · simp [hm]
  obtain ⟨fl, hfl⟩ : ∃ fl, fl = fun l => (halfLane s op0 h0 (lowReg h0) l).flags ||| (halfLane s op1 h1 (highReg h1) l).flags :=
    ⟨_, rfl⟩
  obtain ⟨g2, hg2⟩ : ∃ g2 : Group, g2 = ((({ g1 with fpflags := mergeFlags g1.fpflags (flagsOf m fl) } : Group).shiftLatch
      fun l => (g1.v l (lowReg h0)).setWidth 64).shiftLatch fun l => (g1.v l (highReg h1)).setWidth 64) := ⟨_, rfl⟩
  have ht : s.runP op0 h0 op1 h1 halfOp = ((s.setCur g2).setCache [] []).advance := by
    simp only [State.runP, State.pre_of_clear h, State.afterPre]
    rw [hg2, hg1, hfl]
    rfl
  have hc : (s.runP op0 h0 op1 h1 halfOp).cur = g2.advance s.iss.run := by
    rw [ht, State.advance_cur, State.setCache_cur, State.setCache_iss, State.cur_setCur, State.iss_setCur]
  have hs : g2.slot = s.cur.slot := by rw [hg2, Group.shiftLatch_slot, Group.shiftLatch_slot, hone]
  have h2v : ∀ l q, g2.v l q = g1.v l q := by intro l q; rw [hg2]; rfl
  have hsame : s.cur.sameBut (g2.advance s.iss.run) ∧
      (g2.advance s.iss.run).pcs = rowSet64 s.cur.pcs s.iss.run (fun l => laneAt64 s.cur.pcs l + 8) ∧
      g2.fpflags = mergeFlags s.cur.fpflags (flagsOf m fl) ∧ g2.lvalid = s.cur.lvalid <<< 1 <<< 1 ||| 3 := by
    rw [hg2]
    clear hg2 ht hc hs h2v hg1
    obtain ⟨R, L, U, hW⟩ : ∃ R L U, g1 = { s.cur with regs := R, late := L, unknowns := U } := ⟨_, _, _, hone⟩
    rw [hW]
    unfold Group.sameBut
    simp only [Group.shiftLatch, Group.advance, true_and]
    ext i hi
    have : i = 0 ∨ i = 1 ∨ i = 2 ∨ i = 3 := by omega
    rcases this with rfl | rfl | rfl | rfl <;> simp
  obtain ⟨h3, h4, h5, h6⟩ := hsame
  refine ⟨⟨?_, ?_, ?_, ?_, ?_, ?_⟩, ?_, ?_, ?_⟩
  · intro l q
    rw [hc, Group.v_advance, h2v, hv]
  · rw [hc, Group.advance_fpflags, h5, hfl]
  · intro l
    rw [hc, h4, laneAt64_rowSet64]
  · rw [hc]; exact h3
  · rw [ht]; exact s.finish_only g2 _ _ hs
  · intro a
    rw [ht]
    simp [State.rd]
  · intro l hl
    rw [hc, Group.advance_latches, Group.v_advance, Group.v_advance, h2v, h2v, hg2]
    simp [Group.shiftLatch, laneAt64, Array.getD, hl]
  · intro i hi
    have hl : g1.latches = s.cur.latches := by rw [hone]
    rw [hc, Group.advance_latches, hg2]
    have : i = 0 ∨ i = 1 := by omega
    rcases this with rfl | rfl <;> simp [Group.shiftLatch, hl]
  · rw [hc, Group.advance_lvalid, h6]

/-! ### X words -/

@[simp] theorem noFault_eq (m : Lanes) : noFault m = none := rfl

/-- An X word with nothing before it and no data fault, whose effect issued. -/
theorem State.runX_go {s : State} {n : Needs} {m : Lanes} {fault : Lanes → Option DataFault}
    {act : State → Lanes → Option State} {u : State} (h : s.Clear n m) (hf : fault m = none) (ha : act s m = some u)
    (hi : u.iss.issued = true) : s.runX n fault act = u.afterX := by
  simp only [State.runX, State.pre_of_clear h, State.afterPre, hf, ha, hi, if_true]

/-- An effect that did not issue: a stall's is the state as it was, a parked word's the state that it made. -/
theorem State.runX_stall {s : State} {n : Needs} {m : Lanes} {fault : Lanes → Option DataFault}
    {act : State → Lanes → Option State} (h : s.Clear n m) (hf : fault m = none) (ha : act s m = none) :
    s.runX n fault act = s := by
  simp only [State.runX, State.pre_of_clear h, State.afterPre, hf, ha]

theorem State.runX_parked {s : State} {n : Needs} {m : Lanes} {fault : Lanes → Option DataFault}
    {act : State → Lanes → Option State} {u : State} (h : s.Clear n m) (hf : fault m = none) (ha : act s m = some u)
    (hi : u.iss.issued = false) : s.runX n fault act = u := by
  simp only [State.runX, State.pre_of_clear h, State.afterPre, hf, ha, hi, Bool.false_eq_true, if_false]

/-- A data fault of an X word is taken as a trap. -/
theorem State.runX_fault {s : State} {n : Needs} {m : Lanes} {fault : Lanes → Option DataFault}
    {act : State → Lanes → Option State} {d : DataFault} (h : s.Clear n m) (hf : fault m = some d) :
    s.runX n fault act = s.takeTrap d.cause d.lanes d.addr d.info := by
  simp only [State.runX, State.pre_of_clear h, State.afterPre, hf]

theorem State.afterX_done (s : State) (g : Group) (hs : g.slot = s.cur.slot) : XDone s ((s.setCur g).markIssued).afterX g := by
  have hd : ((s.setCur g).markIssued).dropLatches = (s.setCur { g with lvalid := 0 }).markIssued := by
    unfold State.dropLatches
    rw [State.markIssued_cur, State.cur_setCur]
    simp [State.setCur, State.setGroup, State.markIssued, tabSet_tabSet]
  have hm : ((s.setCur { g with lvalid := 0 }).markIssued).cur = { g with lvalid := 0 } := by
    rw [State.markIssued_cur, State.cur_setCur]
  rw [State.afterX, hd]
  have hx := State.setCache_only ((s.setCur { g with lvalid := 0 }).markIssued) [] []
  refine ⟨?_, ⟨?_, ?_, ?_, ?_, ?_⟩, ?_, ?_⟩
  · rw [State.setCache_cur, hm]
  · obtain ⟨x, hx⟩ : ∃ x, ((s.setCur { g with lvalid := 0 }).markIssued).setCache [] [] =
      { (s.setCur { g with lvalid := 0 }).markIssued with slots := x } := ⟨_, hx⟩
    rw [hx]
    rfl
  · intro k hk
    rw [State.group, State.setCache_groups]
    exact s.group_setCur_ne k _ hk
  · intro k
    exact ((s.setCur { g with lvalid := 0 }).markIssued).setCache_slot [] [] k
  · intro k hk
    exact ((s.setCur { g with lvalid := 0 }).markIssued).setCache_slot_ne [] [] k (by rw [hm]; simpa [hs] using hk)
  · rw [State.setCache_iss]; rfl
  · have := ((s.setCur { g with lvalid := 0 }).markIssued).setCache_empty
    rw [hm] at this
    rw [← hs]
    exact this
  · intro a
    simp [State.rd, State.setCur]

/-- An X word whose effect is on its group alone. -/
theorem State.runX_done {s : State} {n : Needs} {m : Lanes} {fault : Lanes → Option DataFault}
    {act : State → Lanes → Option State} {g : Group} (h : s.Clear n m) (hf : fault m = none)
    (ha : act s m = some (s.setCur g).markIssued) (hs : g.slot = s.cur.slot) : XDone s (s.runX n fault act) g := by
  rw [State.runX_go h hf ha rfl]
  exact s.afterX_done g hs

theorem State.markIssued_setCur (s : State) (g h : Group) : ((s.setCur g).markIssued).setCur h = (s.setCur h).markIssued := by
  simp [State.setCur, State.setGroup, State.markIssued, tabSet_tabSet]

theorem State.setCur_setCur (s : State) (g h : Group) : (s.setCur g).setCur h = s.setCur h := by
  simp [State.setCur, State.setGroup, tabSet_tabSet]

theorem State.advance_setCur (s : State) (h : Group) : s.advance.setCur h = (s.setCur h).markIssued :=
  s.markIssued_setCur _ h

theorem State.setCur_advance (s : State) (g : Group) : (s.setCur g).advance = (s.setCur (g.advance s.iss.run)).markIssued := by
  rw [State.advance, State.cur_setCur, State.iss_setCur, State.setCur_setCur]

theorem Group.releaseMask_slot (g : Group) (k : Nat) : (g.releaseMask k).slot = g.slot := by
  simp only [Group.releaseMask]
  split <;> simp [Group.goOn]

end Sys2Proof.Machine
end

