-- ==== Sys2Proof/Laws/Requests.lean ====
section
/-! SUPPORT. What sending the requests of a word does: the outstanding list of the group grows, and registers, PCs and memory stay. -/
namespace Sys2Proof.Machine

/-- Of a group, everything but its outstanding list, its results to land, its unknown outcomes, its request count and its release notices
is as it was. -/
def Group.sameSend (g h : Group) : Prop :=
  h = { g with outs := h.outs, late := h.late, unknowns := h.unknowns, nReq := h.nReq, notices := h.notices }

/-- The package but for its groups, launches and packets is as it was. -/
def State.sameSend (s t : State) : Prop := t = { s with groups := t.groups, launches := t.launches, net := t.net }

theorem State.addressed_same (s : State) (h : Word) (p : BitVec 16) :
    s.addressed h p = { s with launches := (s.addressed h p).launches } := by
  simp only [State.addressed]
  split <;> rfl

theorem State.emit_same (s : State) (p : Packet) : s.emit p = { s with net := (s.emit p).net } := by
  simp only [State.emit]
  split <;> rfl

theorem State.cur_of_eq {s t : State} (h1 : t.groups = s.groups) (h2 : t.iss = s.iss) : t.cur = s.cur := by
  simp [State.cur, State.group, h1, h2]

/-- Two growths in turn are one: a request of the same instance is none that a resume restored. -/
theorem Group.outsGrow_trans {g h k : Group} {op : OwnerOp} {wm : Bool} {n : Word} {pc : Dword} {a b : List OutReq}
    (h1 : g.outsGrow h wm n a) (ha : ∀ o ∈ a, o.sentAs op wm n pc) (h2 : h.outsGrow k wm n b) : g.outsGrow k wm n (a ++ b) := by
  obtain ⟨p, hp, e1⟩ := h1
  obtain ⟨q, hq, e2⟩ := h2
  refine ⟨fun o => p o && q o, ?_, ?_⟩
  · intro o ho
    rcases Bool.and_eq_false_iff.1 ho with ho | ho
    · exact hp o ho
    · exact hq o ho
  · have hk : a.filter q = a := by
      rw [List.filter_eq_self]
      intro o ho
      rcases hb : q o with _ | _
      · have h3 := (hq o hb).2.1
        rw [(ha o ho).2.2.2.2.2] at h3
        cases h3
      · rfl
    rw [e2, e1, List.filter_append, hk, List.filter_filter, List.append_assoc]
    congr 2
    funext o
    exact Bool.and_comm _ _

/-- Release notices that were told are gone, and nothing else of the group is other than it was (R45). -/
theorem Group.told_spec (g : Group) (wm : Bool) (pkg : BitVec 16) (owner : Nat) :
    g.sameSend (g.told wm pkg owner) ∧ (g.told wm pkg owner).outs = g.outs := ⟨rfl, rfl⟩

/-- One request. -/
theorem State.sendOne_spec (s : State) (op : OwnerOp) (oper : Word) (wm : Bool) (n : Word) (dst : List Nat) (pkg : BitVec 16)
    (owner : Nat) (ls : List ReqLane) (order : Option Nat := none) :
    let t := s.sendOne op oper wm n dst pkg owner ls order
    s.sameSend t ∧ s.cur.sameSend t.cur ∧ ∃ o : OutReq, s.cur.outsGrow t.cur wm n [o] ∧ o.sentAs op wm n s.iss.pc
      ∧ o.lanes = lanesOf fun l => ls.any fun x => x.lane = l := by
  intro t
  obtain ⟨g, o, hg, ho, h1, h2, h, p, q, ht⟩ : ∃ (g : Group) (o : OutReq), s.cur.sameSend g ∧ s.cur.outsGrow g wm n [o]
      ∧ o.sentAs op wm n s.iss.pc ∧ (o.lanes = lanesOf fun l => ls.any fun x => x.lane = l) ∧
      ∃ h p q, t = (if o.held then (s.setCur g).addressed h p
        else (((s.setCur g).addressed h p).setCur (((s.setCur g).addressed h p).cur.told wm pkg owner)).emit q) := by
    refine ⟨_, _, ?_, ⟨fun x => !(wm && x.restored && x.serial = n && x.opkg = pkg && x.owner = owner), ?_, ?_⟩, ?_, ?_, _, _, _, rfl⟩
    · rfl
    · intro x hx
      simp at hx
      exact ⟨hx.1.1.1.1, hx.1.1.1.2, hx.1.1.2⟩
    · rfl
    · exact ⟨rfl, rfl, rfl, rfl, rfl, rfl⟩
    · rfl
  obtain ⟨x, hx⟩ : ∃ x, (s.setCur g).addressed h p = { s.setCur g with launches := x } := ⟨_, State.addressed_same _ _ _⟩
  have hu : ({ s.setCur g with launches := x } : State).cur = g := (State.cur_of_eq rfl rfl).trans (s.cur_setCur g)
  rw [hx, hu] at ht
  cases hh : o.held with
  | true =>
    rw [hh, if_pos rfl] at ht
    rw [ht, hu]
    exact ⟨rfl, hg, o, ho, h1, h2⟩
  | false =>
    rw [hh, if_neg Bool.false_ne_true, State.emit_same] at ht
    have hc : t.cur = g.told wm pkg owner := by
      rw [ht]
      exact (State.cur_of_eq rfl rfl).trans (State.cur_setCur _ _)
    refine ⟨by rw [ht]; rfl, ?_, o, ?_, h1, h2⟩
    · rw [hc]
      unfold Group.sameSend at *
      rw [(g.told_spec wm pkg owner).1, hg]
    · obtain ⟨keep, hk, e⟩ := ho
      exact ⟨keep, hk, by rw [hc, (g.told_spec wm pkg owner).2, e]⟩

/-- Every request of an instance: one for each owner. -/
theorem State.sendFold_spec (op : OwnerOp) (oper : Word) (wm : Bool) (n : Word) (dst : List Nat) (own : ReqLane → BitVec 16 × Nat)
    (ls : List ReqLane) (os : List (BitVec 16 × Nat)) (s : State) :
    let t := os.foldl (fun s o => s.sendOne op oper wm n dst o.1 o.2 (ls.filter fun x => own x = o)) s
    s.sameSend t ∧ s.cur.sameSend t.cur ∧ ∃ reqs, s.cur.outsGrow t.cur wm n reqs ∧ (∀ o ∈ reqs, o.sentAs op wm n s.iss.pc)
      ∧ ∀ l, l < 32 → ((∃ o ∈ reqs, o.lanes.getLsbD l = true) ↔ ∃ x ∈ ls, x.lane = l ∧ own x ∈ os) := by
  induction os generalizing s with
  | nil => exact ⟨rfl, rfl, [], ⟨fun _ => true, by simp, by rw [List.filter_eq_self.2 (fun _ _ => rfl)]; simp⟩, by simp, by simp⟩
  | cons k os ih =>
    obtain ⟨a1, a2, o, a3, b1, b6⟩ := s.sendOne_spec op oper wm n dst k.1 k.2 (ls.filter fun x => own x = k)
    obtain ⟨c1, c2, reqs, c3, c4, c5⟩ := ih (s.sendOne op oper wm n dst k.1 k.2 (ls.filter fun x => own x = k))
    have hi : (s.sendOne op oper wm n dst k.1 k.2 (ls.filter fun x => own x = k)).iss = s.iss := by rw [a1]
    have hb : ∀ r ∈ [o], r.sentAs op wm n s.iss.pc := by simpa using b1
    rw [List.foldl_cons]
    refine ⟨?_, ?_, o :: reqs, Group.outsGrow_trans a3 hb c3, ?_, ?_⟩
    · unfold State.sameSend at *
      rw [c1, a1]
    · unfold Group.sameSend at *
      rw [c2, a2]
    · intro r hr
      rcases List.mem_cons.1 hr with rfl | hr
      · exact b1
      · rw [hi] at c4
        exact c4 r hr
    · intro l hl
      have hh : o.lanes.getLsbD l = true ↔ ∃ x ∈ ls, x.lane = l ∧ own x = k := by
        rw [b6, getLsbD_lanesOf]
        simp [hl]
        constructor <;> rintro ⟨x, h1, h2, h3⟩ <;> exact ⟨x, h1, h3, h2⟩
      constructor
      · rintro ⟨r, hr, hx⟩
        rcases List.mem_cons.1 hr with rfl | hr
        · obtain ⟨x, h1, h2, h3⟩ := hh.1 hx
          exact ⟨x, h1, h2, by simp [h3]⟩
        · obtain ⟨x, h1, h2, h3⟩ := (c5 l hl).1 ⟨r, hr, hx⟩
          exact ⟨x, h1, h2, List.mem_cons_of_mem _ h3⟩
      · rintro ⟨x, h1, h2, h3⟩
        rcases List.mem_cons.1 h3 with h3 | h3
        · exact ⟨o, List.mem_cons_self .., hh.2 ⟨x, h1, h2, h3⟩⟩
        · obtain ⟨r, hr, hb⟩ := (c5 l hl).2 ⟨x, h1, h2, h3⟩
          exact ⟨r, List.mem_cons_of_mem _ hr, hb⟩

/-- All the requests of one instance. -/
theorem State.sendAll_spec (s : State) (op : OwnerOp) (scope : BitVec 3) (ord : BitVec 2) (wm : Bool) (dst : List Nat)
    (ls : List ReqLane) :
    let t := s.sendAll op scope ord wm dst ls
    let n : Word := if wm then s.cur.wserial else BitVec.ofNat 32 s.cur.nextOp
    s.sameSend t
      ∧ (∃ O L U Q N, t.cur =
          { s.cur with
            outs := O, late := L, unknowns := U, nReq := Q, notices := N
            wserial := if wm && !ls.isEmpty then s.cur.wserial + 1 else s.cur.wserial
            nextOp := if !wm && !ls.isEmpty then s.cur.nextOp + 1 else s.cur.nextOp })
      ∧ ∃ reqs, s.cur.outsGrow t.cur wm n reqs ∧ (∀ o ∈ reqs, o.sentAs op wm n s.iss.pc)
      ∧ ∀ l, l < 32 → ((∃ o ∈ reqs, o.lanes.getLsbD l = true) ↔ ∃ x ∈ ls, x.lane = l) := by
  intro t n
  by_cases he : ls.isEmpty = true
  · have hn : ls = [] := by simpa using he
    subst hn
    have ht : t = s := rfl
    rw [ht]
    exact ⟨rfl, ⟨s.cur.outs, s.cur.late, s.cur.unknowns, s.cur.nReq, s.cur.notices, by simp⟩, [],
      ⟨fun _ => true, by simp, by rw [List.filter_eq_self.2 (fun _ _ => rfl)]; simp⟩, by simp, by simp⟩
  · obtain ⟨g, hg⟩ : ∃ g : Group, g = if wm then { s.cur with wserial := s.cur.wserial + 1 }
        else { s.cur with nextOp := s.cur.nextOp + 1 } := ⟨_, rfl⟩
    have ht : t = ((ls.map fun x => s.laneOwner x.place).eraseDups).foldl
        (fun r o => r.sendOne op (operWord op scope ord) wm n dst o.1 o.2 (ls.filter fun x => s.laneOwner x.place = o))
        (s.setCur g) := by
      rw [hg]
      simp only [t, n, State.sendAll, he, if_false, Bool.false_eq_true]
    obtain ⟨c1, c2, reqs, c3, c4, c5⟩ := State.sendFold_spec op (operWord op scope ord) wm n dst (fun x => s.laneOwner x.place) ls
      ((ls.map fun x => s.laneOwner x.place).eraseDups) (s.setCur g)
    rw [← ht] at c1 c2 c3
    rw [State.cur_setCur] at c2 c3
    have ho : g.outs = s.cur.outs := by rw [hg]; split <;> rfl
    have c6 : s.cur.outsGrow t.cur wm n reqs := by
      obtain ⟨p, h1, h2⟩ := c3
      exact ⟨p, h1, by rw [h2, ho]⟩
    refine ⟨?_, ⟨t.cur.outs, t.cur.late, t.cur.unknowns, t.cur.nReq, t.cur.notices, ?_⟩, reqs, c6, ?_, ?_⟩
    · unfold State.sameSend at *
      rw [c1]; rfl
    · unfold Group.sameSend at c2
      rw [c2, hg]
      cases wm <;> simp [he]
    · simpa using c4
    · intro l hl
      rw [c5 l hl]
      constructor
      · rintro ⟨x, h1, h2, _⟩; exact ⟨x, h1, h2⟩
      · rintro ⟨x, h1, h2⟩
        exact ⟨x, h1, h2, List.mem_eraseDups.2 (List.mem_map_of_mem h1)⟩

end Sys2Proof.Machine
end

