-- ==== Sys2Proof/Machine/Events.lean ====
section
/-! DEFINITION. The events of the memory model that the group in hand, its copies, its engine and tile operations, and the placer produce
(spec/07_memory_model.md R144, R145, R148, R150, R156, R159, spec/16_isa_copy_matrix.md R348, R350, R367). What an execution numbers (a barrier
instance, a channel vector, an operation, a launch, the full states of a word) and how a plane-form tensor lies on its page, the caller says:
`Names`. -/
namespace Sys2Proof.Machine

open Sys2Proof.Machine.Ordering

/-- What an instruction's events name. -/
structure Names where
  /-- The barrier instance, the vector, the operation, or the launch entered. -/
  id : Nat
  /-- The operations that a `WAITC` covers. -/
  covers : List Nat := []
  /-- The number of the full state that the instruction sets or empties at a word. -/
  full : Nat → Nat := fun _ => 0
  /-- Of a byte's location on a plane-form page: the bytes of its element in one plane (2 for an IEEE element, 16 for a DE block's row, 4 for
  a DE header), and the plane. -/
  layout : Nat → Nat × Nat := fun _ => (2, 0)

/-! ### Agents, scopes, locations -/

/-- A lane of a group as an agent, where its group now stands (R146). -/
def State.agentOf (s : State) (gid l : Nat) : Agent :=
  let g := s.group gid
  .lane s.image.pkgnum.toNat (coreDie (slotCore g.slot)) (keyHandle (groupTeam gid)).toNat (s.cluster g.ck).index
    (teamIndex (groupTeam gid)) (groupIndex gid) l

/-- The scope of a SCOPE code (R265). -/
def scopeOf (c : BitVec 3) : Scope :=
  [Scope.lane, .group, .team, .cluster, .die, .pkg, .node, .fab].getD c.toNat .pkg

/-- The kind of a place's page (R148); a scratchpad's is RC (R145). -/
def Place.page (p : Place) : Page := if p.kind = 3 || p.order = 0 then .rc else if p.order = 1 then .so else .un

/-- The location of byte `i` of a place: packages and scratchpads apart from one another. -/
def Place.loc (p : Place) (i : Nat) : Nat :=
  (if p.kind = 3 then 2 ^ 80 + p.core * 2 ^ 20 else if p.kind = 2 then (p.pkg.toNat + 1) * 2 ^ 48 else 0) + p.pa + i

/-- The parts of an access of `n` bytes, each one event (R145): offset and length. What is neither aligned nor of a length that one
event takes comes byte by byte. -/
def accessParts (p : Place) (n : Nat) : List (Nat × Nat) :=
  if n ≤ 8 && p.pa % n = 0 || n = 16 && p.pa % 16 = 0 && (p.kind = 0 || p.kind = 3) then [(0, n)]
  else if n = 16 && p.pa % 16 = 0 then [(0, 8), (8, 8)]
  else (List.range n).map fun i => (i, 1)

/-- Byte cells from `i` on, with the values of a write. -/
def byteCells (p : Place) (i n : Nat) (v : Nat → Val) : List (Nat × List (Nat × Val)) :=
  (List.range n).map fun k => (p.loc (i + k), [(0, v (i + k))])

/-- Of byte `i` of a place on a plane-form page: its element's location, its plane, the bytes of the element in the plane, its offset among
them (R156). -/
def Place.unit (p : Place) (layout : Nat → Nat × Nat) (i : Nat) : Nat × Nat × Nat × Nat :=
  let l := p.loc i
  let y := layout l
  (l - l % y.1 - y.2 * p.stride, y.2, y.1, l % y.1)

/-- The cells of `n` bytes of a place from byte `i` on: bytes, or on a plane-form page the elements, each with the plane covered; `v j k` is
the value of the `k` bytes from byte `j` on (R145, R156). -/
def Place.cells (p : Place) (layout : Nat → Nat × Nat) (i n : Nat) (v : Nat → Nat → Val) : List (Nat × List (Nat × Val)) :=
  if !p.pf then byteCells p i n fun k => v k 1
  else
    let unit := p.unit layout
    let same (a b : Nat) : Bool := (unit a).1 = (unit b).1 && (unit a).2.1 = (unit b).2.1
    (range' i n).filterMap fun a =>
      if i < a && same (a - 1) a then none
      else
        let k := ((range' i n).filter fun b => a ≤ b && same a b).length
        let u := unit a
        some (u.1, [(u.2.1, if k = u.2.2.1 then v a k else .part (8 * u.2.2.2) (8 * k) (v a k))])

/-- The scratchpad line of a place (R152). -/
def Place.padLine (p : Place) : Option Nat := if p.kind = 3 then some (p.loc 0 / 128) else none

/-- `n` bytes of a value from byte `k` on. -/
def valBytes (x k n : Nat) : Val := .num (x / 2 ^ (8 * k) % 2 ^ (8 * n))

/-- A place of an engine's write, and of a page that a tile operation translated, at a physical address. -/
def Target.place (t : Target) : Place :=
  { kind := t.kind, core := t.core, pa := t.pa, pkg := t.pkg, pf := t.pf, stride := t.stride, order := t.order }
def TilePage.place (t : TilePage) (pa : Nat) : Place := { kind := t.kind, pa, pkg := t.pkg, pf := t.pf, stride := t.stride, order := t.order }

/-- An event of an operation's engine: it belongs to lane `l` and to the other lanes that issued the operation (R144). -/
def State.opEvent (s : State) (gid op l : Nat) (lanes : Lanes) (act : Act) (cells : List (Nat × List (Nat × Val))) : Ev :=
  { agent := s.agentOf gid l, also := (lanesList lanes).map (s.agentOf gid), act, cells, op := some op }

/-- The completion of an operation, in each lane that issued it (R144). -/
def State.completions (s : State) (gid op : Nat) (lanes : Lanes) : List Ev :=
  (lanesList lanes).map fun l => { agent := s.agentOf gid l, act := .complete op }

/-! ### The lanes of an XM word (R144: only active lanes produce events) -/

/-- What a word's order and scope give its events. -/
def Ordering.Ev.ordered (e : Ev) (f : XM) : Ev := { e with acq := f.ord.getLsbD 0, rel := f.ord.getLsbD 1, scope := scopeOf f.scope }

/-- An access to the package's memory by a group whose team has not committed (R159). -/
def State.holds (s : State) (p : Place) : Bool := s.cur.hold && (p.kind = 0 || p.kind = 1)

/-- The events of plain accesses of `n` bytes; `value` gives what a lane writes. A store to another package is a `.rem` operation
(R320). -/
def State.plainEvents (s : State) (nm : Names) (f : XM) (act : Act) (n : Nat) (xs : List LaneAcc) (value : Nat → Nat) : List Ev :=
  xs.flatMap fun x =>
    let parts := accessParts x.place n
    let rem := act == .write && x.place.kind = 2
    parts.map fun q =>
      ({ agent := s.agentOf s.iss.gid x.lane, act, cells := x.place.cells nm.layout q.1 q.2 (valBytes (value x.lane)), page := x.place.page
         whole := parts.length = 1, line := x.place.padLine, held := s.holds x.place, op := if rem then some nm.id else none
         memLine := if rem then some (x.place.loc 0 / 128) else none : Ev }).ordered f

/-- The events of plane accesses: one location for each element, whose planes are those named (R156). -/
def State.planeEvents (s : State) (f : XM) (act : Act) (k : Nat) (xs : List LaneAcc) (value : Nat → Nat → Nat) : List Ev :=
  xs.map fun x =>
    ({ agent := s.agentOf s.iss.gid x.lane, act, page := x.place.page, held := s.holds x.place
       cells := [(x.place.loc 0, (List.range k).map fun j => (j, Val.num (value x.lane j)))] : Ev }).ordered f

/-- The two events of one lane's read-modify-write, over all that it names. -/
def State.rmwPair (s : State) (gid : Nat) (op : Option Nat) (x : LaneAcc) (cells : (Nat → Val) → List (Nat × List (Nat × Val))) (e : OwnerOp)
    (ws : List Word) : List Ev :=
  let r : Ev :=
    { agent := s.agentOf gid x.lane, act := .read, cells := cells fun _ => .num 0, page := x.place.page, scope := .pkg, line := x.place.padLine
      held := (s.group gid).hold && (x.place.kind = 0 || x.place.kind = 1)
      memLine := if x.place.kind = 3 then none else some (x.place.loc 0 / 128), op }
  [r, { r with act := .write, cells := cells fun k => .rmw e ws k }]

/-- The events of a word of group 0x01 with its orders; those of a deterministic `RED` carry its place in the drain's order (R155). -/
def State.rmwEvents (s : State) (nm : Names) (k : RmwKind) (f : XM) (xs : List LaneAcc) : List Ev :=
  let gid := s.iss.gid
  let n := rmwBytes k f
  let det := k = .red && (s.launchOf gid).determ
  xs.flatMap fun x =>
    (s.rmwPair gid (if rmwReturns k f then none else some nm.id) x (byteCells x.place 0 n) (rmwOp k f det)
      (s.cur.words x.lane (rmwOperands k f))).map fun e =>
        { e with
          acq := e.isRead && f.ord.getLsbD 0, rel := e.isWrite && f.ord.getLsbD 1, scope := scopeOf f.scope
          detRed := det && isGlobal x.place
          detKey := [x.place.pa, teamIndex (groupTeam gid), groupIndex gid, x.lane, s.cur.wserial.toNat] }

/-- The relaxed reads at `.pkg` of a record in `n` parts of `w` bytes, by lane `l` (R353, R377). -/
def State.recordReads (s : State) (nm : Names) (l : Nat) (a : Dword) (w n : Nat) : List Ev :=
  (List.range n).flatMap fun i =>
    match s.resolve s.iss.gid l (a + BitVec.ofNat 64 (w * i)) w w false with
    | .ok p => [{ agent := s.agentOf s.iss.gid l, act := .read, cells := p.cells nm.layout 0 w fun _ _ => .num 0, page := p.page, scope := .pkg
                  line := p.padLine, held := s.holds p }]
    | .error _ => []

/-- The events of an optimiser update: the reads of its parameters, then of one element's planes in each lane (R377, R379). -/
def State.optEvents (s : State) (nm : Names) (adam : Bool) (f : XE) : List Ev :=
  let wide := f.flags == 1
  let planes := optPlanes adam wide
  let g := s.cur
  let m := g.active s.iss.run f.guard
  let par := optParams ((s.peek (lead m) (g.v64 (lead m) f.e2.toNat) 64).getD [])
  (if m = 0 then [] else s.recordReads nm (lead m) (g.v64 (lead m) f.e2.toNat) 8 8) ++
  (lanePlaces m (s.planeRes f.e0 0 planes 2 2 true)).flatMap fun x =>
    s.rmwPair s.iss.gid (some nm.id) x (fun v => [(x.place.loc 0, (List.range planes).map fun j => (j, v j))])
      (.opt adam wide (f.e4.setWidth 3) 0 par)
      (g.words x.lane (range' f.e1.toNat (if wide then 2 else 1)) ++ valWords 3 (x.place.stride + x.va.toNat * 2 ^ 32))

/-- The events of a contribution, in each active lane, over its line; its own bytes it leaves as they are. -/
def State.cconEvents (s : State) (nm : Names) (f : XE) : List Ev :=
  let m := s.cur.active s.iss.run f.guard
  (lanePlaces (BitVec.ofNat 32 (2 ^ lead m) &&& m) (s.lineRes f.e0)).flatMap fun x =>
    (lanesList m).flatMap fun l =>
      s.rmwPair s.iss.gid (some nm.id) { x with lane := l } (byteCells x.place 0 256) (.ccon (s.cur.v (lead m) f.e1.toNat).toNat) []

/-- What the owner writes for the contribution that fills a line's last slot: the result's elements, then the ready word, a release at `.fab`
(R49, R382). -/
def State.lineEvents (s : State) (gid op l : Nat) (lanes : Lanes) (p : Place) (c : CLine) : List Ev :=
  let r := lineCombine c.word c.rnd (c.slots.map fun v => (v.getD []).map BitVec.toNat)
  let n := if lineWide c.word then 8 else 4
  let put (o k x : Nat) : Ev :=
    { s.opEvent gid op l lanes .write (p.cells (fun _ => (2, 0)) o k (valBytes (x * 2 ^ (8 * o)))) with page := p.page }
  (r.1.zipIdx.map fun v => put (0x10 + n * v.2) n v.1) ++
    [{ put 0 8 ((c.gen + 1).toNat + if c.error then 2 ^ 63 else 0) with rel := true, scope := .fab }]

/-- The event of one word of a full/empty instruction; `v k` is its byte `k`. -/
def State.feEvent (s : State) (nm : Names) (f : XM) (act : Act) (l : Nat) (p : Place) (full : Bool) (v : Nat → Val) : Ev :=
  ({ agent := s.agentOf s.iss.gid l, act, cells := byteCells p 0 4 v, line := p.padLine
     fullState := if full then some (p.loc 0, nm.full (p.loc 0)) else none : Ev }).ordered f

/-- One event of each active lane, which accesses nothing. -/
def State.laneEvents (s : State) (m : Lanes) (act : Act) (acq rel : Bool) (scope : Scope) : List Ev :=
  (lanesList m).map fun l => { agent := s.agentOf s.iss.gid l, act, acq, rel, scope }

/-- The events of a `COMMIT`, in lanes `m`: the team's release of what it holds, or in a team that holds nothing a release fence (R159, R241).
What commits by itself has the same events before its own (R40, R240, R241), and so has the team's last exit. -/
def State.commitEvents (s : State) (m : Lanes) : List Ev := s.laneEvents m (if s.cur.hold then .release else .fence) false true .fab

/-- The reads of a table or pattern load, of `n` bytes by lane J (R353). -/
def State.tableReads (s : State) (nm : Names) (f : XE) (size : Nat → Dword → Nat) : List Ev :=
  let m := s.cur.active s.iss.run f.guard
  let a := s.cur.v64 (lead m) f.e0.toNat
  if m = 0 then [] else s.recordReads nm (lead m) a 1 (size (lead m) a)

/-- The scope of a barrier. -/
def barScope (f : XE) : Scope := if f.flags == 1 then .cluster else .team

/-! ### R144's table -/

/-- The events that an instruction produces when the group in hand executes it. The accesses of copies, engines and the tile sequencer are not
among them: see `State.chunkEvents`, `State.matEvents`, `State.tileEvents`. Stores that the team holds are marked so (R159). What a `WAITC` orders is the same at every scope (R151); its own is the widest, that of a copy (R348). -/
def State.eventsOf (s : State) (i : Instr) (nm : Names) : List Ev :=
  let g := s.cur
  let act (gd : BitVec 7) : Lanes := g.active s.iss.run gd
  let val (f : XM) (l : Nat) : Nat := wordsVal (g.words l (dataRegs f))
  let issue (gd : BitVec 7) : List Ev := s.laneEvents (act gd) (.issue nm.id) false false .lane
  let rmw (k : RmwKind) (f : XM) : List Ev :=
    s.rmwEvents nm k f (s.reach f.guard (s.rmwRes f (rmwBytes k f) true)) ++ if rmwReturns k f then [] else issue f.guard
  match i with
  | .ld f =>
    let n := widthBytes f.width
    s.plainEvents nm f .read n (s.reach f.guard (s.plainRes f.addr (offWhole f) n n false)) fun _ => 0
  | .st f =>
    let n := widthBytes f.width
    let xs := s.reach f.guard (s.plainRes f.addr (offWhole f) n n true)
    s.plainEvents nm f .write n xs (val f) ++ if (remotes xs).isEmpty then [] else issue f.guard
  | .ldp f =>
    let k := f.pln.toNat + (if f.rb then 2 else 1)
    s.planeEvents f .read k (s.reach f.guard (s.planeRes f.addr (offWhole f) k (if isDe f then 16 else 2) (if isDe f then 16 else 2) false)) fun _ _ => 0
  | .stp f =>
    let k := f.pln.toNat + 1
    let F := planeElem f
    let code := f.offs.toNat / 2 ^ 13
    let n := F.bits / 32
    let mode (l : Nat) : Rnd :=
      if code = 5 then
        { code := 5, hash := hashBits (s.xmAddr s.iss.gid l f.addr (offStp f)) (g.v l (f.data.toNat + n)) (g.v l (f.data.toNat + n + 1)) }
      else { code }
    s.planeEvents f .write k (s.reach f.guard (s.planeRes f.addr (offStp f) k 2 2 true)) fun l j =>
      (planeRound F k (mode l) (wordsVal (g.words l (range' f.data.toNat n)))).1 / 2 ^ (F.bits - 16 * (j + 1)) % 2 ^ 16
  | .ldfe f =>
    (s.reach f.guard (s.feRes f fun _ => 4)).map fun x => { s.feEvent nm f .read x.lane x.place true fun _ => .num 0 with acq := true }
  | .stfe f =>
    (s.reach f.guard (s.feRes f fun _ => 4)).map fun x =>
      { s.feEvent nm f .write x.lane x.place true fun k => valBytes (g.v x.lane f.data.toNat).toNat k 1 with rel := true }
  | .feinit f =>
    (lanesList (act f.guard)).flatMap fun l => (s.feRange f l).map fun p => s.feEvent nm f .write l p f.rb fun _ => .part 0 0 (.num 0)
  | .waita f => let n := widthBytes f.width; s.plainEvents nm f .read n (s.reach f.guard (s.rmwRes f n false)) fun _ => 0
  | .atom f => rmw .atom f
  | .red f => rmw .red f
  | .atomv f => rmw .atomv f
  | .ctld f => s.tableReads nm f fun l a => match s.peek l a 0x20 with
    | some hd => tableSize hd
    | none => 0x20
  | .ptld f => s.tableReads nm f fun _ _ => 256
  | .osgd f => s.optEvents nm false f ++ issue f.guard
  | .oadam f => s.optEvents nm true f ++ issue f.guard
  | .ccon f => s.cconEvents nm f ++ issue f.guard
  | .fence f => s.laneEvents (act f.guard) .fence (f.ord.getLsbD 0) (f.ord.getLsbD 1) (scopeOf f.scope)
  | .commit f => s.commitEvents (act f.guard)
  | .bar f => s.laneEvents (act f.guard) (.arrive nm.id) false true (barScope f) ++ s.laneEvents (act f.guard) (.depart nm.id) true false (barScope f)
  | .bara f => s.laneEvents (act f.guard) (.arrive nm.id) false true (barScope f)
  | .barw f => s.laneEvents (act f.guard) (.depart nm.id) true false (barScope f)
  | .qsnd f => s.laneEvents (act f.guard) (.send nm.id) false true .die
  | .qrcv f => s.laneEvents (act f.guard) (.take nm.id) true false .die
  | .waitc f => s.laneEvents (act f.guard) (.waitc nm.covers) true false .fab
  | .launch f => (s.laneEvents (act f.guard) (.issue nm.id) false true .node).map fun e => { e with enters := some nm.id }
  | .cpy f | .cpy2 f | .cpyx f | .cpyp f | .mma f | .mrd f | .mwr f | .mwrMem f | .mzero f | .tzero f | .tmac f | .tadd f | .trnd f
  | .tdense f | .tcomp f | .tlu f | .ttrs f | .tsamp f => issue f.guard
  | _ => []

/-! ### Accesses of copies (R144, R145, R348, R350) -/

/-- A copy's access to one byte of a place: it belongs to every lane of its run. -/
def State.byteEvent (s : State) (gid : Nat) (c : Copy) (op : Nat) (layout : Nat → Nat × Nat) (act : Act) (p : Place) (i : Nat) (v : Val) : Ev :=
  { s.opEvent gid op c.lane c.run act (p.cells layout i 1 fun _ _ => v) with page := p.page, whole := false, line := p.padLine }

/-- Byte `off` of the operand-buffer range at a quad's offset `base`: the locations of R367. -/
def obLoc (q off : Nat) : Nat := 2 ^ 96 + q * 2 ^ 24 + off

/-- The bytes of pieces, in order: place and offset. -/
def State.pieceBytes (s : State) (gid : Nat) (c : Copy) (write : Bool) (ps : List Piece) : List (Place × Nat) :=
  ps.flatMap fun p =>
    match s.copyPlace gid c.lane p.va p.n write (if write then p.at' + 2 ^ 13 else 0) with
    | .ok x => (List.range p.n).map fun i => (x, i)
    | .error _ => []

/-- The reads of unit `i` of a `CPYP`: an element's planes, or a block's header and its rows, each one event (R350). -/
def State.unitEvents (s : State) (gid : Nat) (c : Copy) (op i : Nat) : List Ev :=
  let read (va : Dword) (n planes : Nat) : List Ev :=
    match s.copyPlace gid c.lane va n false i with
    | .ok p => [{ s.opEvent gid op c.lane c.run .read [(p.loc 0, (List.range planes).map fun j => (j, .num 0))] with page := p.page }]
    | .error _ => []
  if c.elem = 4 then
    let h := c.src + BitVec.ofNat 64 (4 * i)
    read h 4 1 ++
      match s.copyPlace gid c.lane h 4 false i with
      | .ok p => read (c.src + BitVec.ofNat 64 (p.stride + 16 * i)) 16 c.planes
      | .error _ => []
  else read (c.src + BitVec.ofNat 64 (2 * i)) 2 c.planes

/-- The bytes of its source that a copy's next chunk reads, in order. -/
def State.chunkSource (s : State) (gid : Nat) (c : Copy) : List (Place × Nat) :=
  let lo := 4096 * c.chunk
  match c.kind with
  | 2 =>
    let head := s.pieceBytes gid c false (rangePieces c.spos 8)
    let bits := leVal ((head.map fun b => s.placeByte (groupTeam gid) b.1 b.2).drop 4)
    head ++ s.pieceBytes gid c false (rangePieces (c.spos + 8) ((bits + 63) / 64 * 8))
  | _ => s.pieceBytes gid c false (c.srcPieces lo (min (lo + 4096) c.size))

/-- The events of a copy's next chunk, the first of which is event `first` of its execution: its reads, then its writes. What `CPY` and `CPY2`
write is what the reads took; what the others write is worked out of the source as it stands. -/
def State.chunkEvents (s : State) (gid : Nat) (c : Copy) (op first : Nat) (layout : Nat → Nat × Nat) : List Ev :=
  let lo := 4096 * c.chunk
  let hi := min (lo + 4096) c.size
  let source := s.chunkSource gid c
  let reads :=
    if c.kind = 3 then (range' ((lo + c.unit - 1) / c.unit) ((hi + c.unit - 1) / c.unit - (lo + c.unit - 1) / c.unit)).flatMap (s.unitEvents gid c op)
    else source.map fun b => s.byteEvent gid c op layout .read b.1 b.2 (.num 0)
  let bytes := match s.chunkData gid c [] with
    | .ok x => x.bytes
    | .error _ => []
  let value (k : Nat) : Val :=
    if c.kind = 2 || c.kind = 3 then .num (bytes.getD k 0).toNat
    else
      match source[k]? with
      | some b =>
        if b.1.pf then
          let u := b.1.unit layout b.2
          .bits (8 * u.2.2.2) 8 (.same (first + k) u.1 u.2.1)
        else .same (first + k) (b.1.loc b.2) 0
      | none => .num 0
  let base := ((s.resvOf gid c.handle).map fun r => r.granule * 4096).getD 0
  let writes :=
    if c.ob then
      ((c.dstPieces lo hi).flatMap fun p => range' p.va.toNat p.n).zipIdx.map fun b =>
        { s.opEvent gid op c.lane c.run .write [(obLoc (s.quadOf gid) (base + b.1), [(0, value b.2)])] with whole := false }
    else (s.pieceBytes gid c true (c.dstPieces lo hi)).zipIdx.map fun b => s.byteEvent gid c op layout .write b.1.1 b.1.2 (value b.2)
  reads ++ writes

/-! ### Accesses of the matrix engine (R144, R366, R367) -/

/-- One access of an operation to bytes of the operand buffer, as `t` holds them. -/
def State.obEvent (s t : State) (gid op q : Nat) (act : Act) (offs : List Nat) : Ev :=
  s.opEvent gid op 0 allLanes act (offs.map fun o => (obLoc q o, [(0, .num (t.obByte q o).toNat)]))

/-- The accesses of a matrix operation of a group: one event an element, read or written, and the writes of `MWR.mem`, which the lane of the
element's row and the other issuing lanes make. -/
def State.matEvents (s : State) (gid : Nat) (o : MatOp) (op : Nat) (layout : Nat → Nat × Nat) : List Ev :=
  let q := s.quadOf gid
  let t := s.matRetire gid o
  let base (h : Word) : Nat := ((s.resvOf gid h).map fun r => r.granule * 4096).getD 0
  let rb := matRec o.recB
  let rc := matRec o.recC
  let span (h : Word) (r : MatRec) (p : Nat × Nat) : List Nat := range' (base h + r.elemOff p.1 p.2) r.width
  let read (h : Word) (r : MatRec) (p : Nat × Nat) : Ev := s.obEvent s gid op q .read (span h r p)
  let write (p : Nat × Nat) : Ev := s.obEvent t gid op q .write (span o.c rc p)
  let deRead (p : Nat × Nat) : Ev :=
    let b := base o.b + rb.blockOff (p.1 / 32) p.2
    s.obEvent s gid op q .read (range' b 4 ++ (List.range rb.planes).map fun j => b + 16 * (j + 1) + p.1 % 32 / 2)
  match o.kind with
  | .mma m n k _ _ =>
    ((grid k n).map fun p => if rb.fmt = 4 then deRead p else read o.b rb p) ++ (grid m n).flatMap fun p => [read o.c rc p, write p]
  | .mrd _ m n => (grid m n).map (read o.c rc)
  | .mwr m n _ => (grid m n).map write
  | .mwrMem m n ts =>
    ((grid m n).zip ts).flatMap fun x =>
      let p := x.2.place
      let v := valBytes (s.obVal q (base o.c + rc.elemOff x.1.1 x.1.2) rc.width)
      [read o.c rc x.1,
       { s.opEvent gid op x.1.1 allLanes .write (p.cells layout 0 rc.width v) with page := p.page, line := p.padLine }]
  | .mzero =>
    if rc.fmt = 4 then (grid rc.blocks rc.cols).map fun p => s.obEvent t gid op q .write (range' (base o.c + rc.blockOff p.1 p.2) 4)
    else (grid rc.rows rc.cols).map write

/-! ### Accesses of the tile sequencer (R144, R212, R214) -/

/-- One access of a tile operation: an element's planes, or bytes, in as many events as R145 makes of them. -/
def State.tileAccess (s : State) (gid op : Nat) (pages : List TilePage) (layout : Nat → Nat × Nat) (act : Act) (w : TileWrite) : List Ev :=
  match tileAt pages w.va with
  | none => []
  | some (g, pa) =>
    let p := g.place pa
    let ev (cells : List (Nat × List (Nat × Val))) : Ev := { s.opEvent gid op 0 allLanes act cells with page := p.page }
    match w.planes with
    | [bs] => (accessParts p bs.length).map fun q => ev (p.cells layout q.1 q.2 (valBytes (leVal bs)))
    | ps => [ev [(p.loc 0, ps.zipIdx.map fun b => (b.2, .num (leVal b.1)))]]

/-- The elements that a tile's value reads; of one of FMT 2, the planes read. -/
def Deckle.elems (d : Deckle) : List TileWrite :=
  let w := tileWidth d.fmt
  d.reads.flatMap fun r => (List.range (r.2 / w)).map fun i =>
    { va := r.1 + i * w, planes := if d.fmt = 2 then List.replicate (d.planes + 1) [0, 0] else [List.replicate w 0] }

/-- The reads of a tile operation's operands: the deckles by halves, then the elements. -/
def State.tileOperands (s : State) (o : TileOp) : List TileWrite :=
  (o.decks.flatMap fun d => [0, 16].map fun h => ({ va := d.toNat + h, planes := [List.replicate 16 0] } : TileWrite)) ++
    o.decks.flatMap fun d => (s.deckAt o.pages d).elems

/-- The accesses of a tile operation: its operands, which one that fails has read too, the check record, then its writes. -/
def State.tileEvents (s : State) (gid : Nat) (o : TileOp) (op : Nat) (layout : Nat → Nat × Nat) : List Ev :=
  let access (pages : List TilePage) (act : Act) (ws : List TileWrite) : List Ev := ws.flatMap (s.tileAccess gid op pages layout act)
  let operands := if o.kind = .tsamp then [] else access o.pages .read (s.tileOperands o)
  match s.tilePlan gid o with
  | .writes ws new _ _ =>
    let record := if o.kind != .tsamp && o.armed != 0 && ws.any fun w => w.va = o.armed.toNat + 4 then
      (List.range 10).map fun i => ({ va := o.armed.toNat + 4 * i, planes := [List.replicate 4 0] } : TileWrite) else []
    operands ++ access (o.pages ++ new) .read record ++ access (o.pages ++ new) .write ws
  | _ => operands

/-! ### Zeroing, operations -/

/-- The placer's zeroing of a team's scratchpad, byte by byte; the placer is an agent of its own (R79, R144, R150). -/
def State.zeroEvents (s : State) (tk : Nat) : List Ev :=
  let t := s.team tk
  t.units.flatMap fun u => (List.range 4096).map fun i =>
    { agent := .control s.image.pkgnum.toNat 128, act := .write, whole := false
      cells := [(({ kind := 3, core := t.core, pa := u * 4096 } : Place).loc i, [(0, .num 0)])]
      zeroes := some ((keyHandle tk).toNat, (s.cluster t.ck).index, teamIndex tk) }

/-- The class of an operation, its group, its place in the group's issue order, its ranges (R151, R351). -/
def copyOp (gid : Nat) (c : Copy) : Op := { cls := .copy, group := gid, seq := c.id, ranges := if c.ob then [c.handle.toNat] else [] }
def matOp (gid : Nat) (o : MatOp) : Op := { cls := .mat, group := gid, seq := o.id, ranges := [o.b.toNat, o.c.toNat] }
def tileOp (gid : Nat) (o : TileOp) : Op := { cls := .tile, group := gid, seq := o.id }
def remOp (gid seq : Nat) : Op := { cls := .rem, group := gid, seq }

end Sys2Proof.Machine
end

