-- ==== Sys2Proof/Tests/Slice0.lean ====
section
/-! SUPPORT. Tests: words of every family decoded, ill-formed terms refused, the spec's worked values, single steps, and for each
statement with hypotheses a state and operands that meet them. -/
namespace Sys2Proof.Tests
open Sys2Proof.Machine

set_option Elab.async false

/-! ### Decoding: words that the spec writes out, family by family -/

/-- What the table's decoder reads from a 64-bit word. -/
def dec (w : Nat) : Option Instr := decodeTableWord 64 w

/-- A T word's fields with everything but the operands zero. -/
def tf (dst : BitVec 8) (sa sb sc : BitVec 9) : TF :=
  { dst, nw := false, sa, sb, sc, ua := false, ub := false, uc := false, rnd := 0, guard := 0, mod := 0 }
def ifm (dst : BitVec 8) (sa : BitVec 9) (imm : Word) : IF := { w := 0, dst, sa, imm, nw := false, ua := false }
def xm (data addr : BitVec 8) : XM :=
  { data, addr, offs := 0, scope := 5, ord := 0, width := 2, pln := 0, rb := false, guard := 0 }
def xb (breg : BitVec 8) (boff : BitVec 20) : XB := { breg, mask := 0, boff, guard := 0 }
def xe (e0 e1 e2 e3 : BitVec 8) : XE := { e0, e1, e2, e3, e4 := 0, flags := 0, guard := 0 }

/-- Compare (13, worked encodings): `ICMP.ge.s32 v7, v4, v6`, with the operands exchanged. -/
theorem test_decode_compare : dec 0x0400E0301000000E = some (.icmp { tf 7 6 4 0 with mod := 0xE }) := by decide
/-- Integer and logic (12, R256): `IADD.b64 v4, v2, v6` under `!v7`; `XOR v1, v2, v3`, field by field. -/
theorem test_decode_integer :
    dec (0x000 * 2 ^ 53 + 4 * 2 ^ 45 + 2 * 2 ^ 35 + 6 * 2 ^ 26 + 0x47 * 2 ^ 4 + 1) = some (.iadd { tf 4 2 6 0 with guard := 0x47, mod := 1 })
    ∧ dec (0x012 * 2 ^ 53 + 1 * 2 ^ 45 + 2 * 2 ^ 35 + 3 * 2 ^ 26) = some (.xor (tf 1 2 3 0)) := by decide
/-- Cross-lane (13): `SCAN.add.excl v20, v12`; (19) `SHFL.idx v32, v20, v9`. -/
theorem test_decode_lanes : dec 0x06A2806000000008 = some (.scan { tf 0x14 12 0 0 with mod := 8 })
    ∧ dec 0x060400A024000000 = some (.shfl (tf 0x20 0x14 9 0)) := by decide
/-- Arithmetic (14): `FADD.f64.rup v10, v4, v6`; `FMINM.f32 v7, v4, v5` with the opcode of the map of R268 (assumption 13); (12)
`FFMA.f32.rne.nw v10, v4, v5, v6`. -/
theorem test_decode_float : dec 0x0801402018001001 = some (.fadd { tf 0x0A 4 6 0 with rnd := 2, mod := 1 })
    ∧ dec (0x047 * 2 ^ 53 + 7 * 2 ^ 45 + 4 * 2 ^ 35 + 5 * 2 ^ 26) = some (.fminm (tf 7 4 5 0)) ∧ dec 0x08615020140C0000 = some (.ffma { tf 0x0A 4 5 6 with nw := true }) := by decide
/-- Function block (14, R308): `FSQRT.f32.rdn v9, v8`. -/
theorem test_decode_function : dec (0x061 * 2 ^ 53 + 9 * 2 ^ 45 + 8 * 2 ^ 35 + 3 * 2 ^ 11) = some (.fsqrt { tf 9 8 0 0 with rnd := 3 }) := by decide
/-- Conversions (14): `FCVT.f16.f32.rsh v12, v4, v8…`, `BPACK.de4.f32.row.rne v20, v4, v6`. -/
theorem test_decode_convert : dec 0x0E01802000102802 = some (.fcvt { tf 0x0C 4 0 8 with rnd := 5, mod := 2 })
    ∧ dec 0x0EA2802018000008 = some (.bpack { tf 0x14 4 6 0 with mod := 8 }) := by decide
/-- The I form (12, 14, 20): `OR v21, v21, 0xFD00_0000`, `FMUL.f32 v6, v6, 0.5`, `IADD.b64 v22, v20, 0x20`. -/
theorem test_decode_immediate : dec 0x8222A15FD0000000 = some (.orI (ifm 0x15 0x15 0xFD000000))
    ∧ dec 0x8840C063F0000000 = some (.fmulI (ifm 6 6 0x3F000000))
    ∧ dec 0x9002C14000000200 = some (.iaddI { ifm 22 0x14 0x20 with w := 1 }) := by decide
/-- The P form (12): `IADD v2, v2, v12 || ISUB v5, v5, v13`. -/
theorem test_decode_halves : dec 0x4001060001040D00 =
    some (.iaddP { hdst := 1, hsrc := 12, hmod := 0, himm := 0 } .isub { hdst := 2, hsrc := 13, hmod := 0, himm := 0 }) := by decide
/-- Control (12, 13): `(v3) BRA`, `JOIN m1`, `WAITM m1`, `EXIT`. -/
theorem test_decode_control : dec 0xD00000000001F003 = some (.bra { xb 0 0x1F with guard := 3 })
    ∧ dec 0xD01C004000000000 = some (.join { xb 0 0 with mask := 1 }) ∧ dec 0xD024004000000000 = some (.waitm { xb 0 0 with mask := 1 })
    ∧ dec 0xD014000000000000 = some (.exit (xb 0 0)) := by decide
/-- Loads and stores (12, 15): `LD.b32 v6, [v20+0x40]`, `LDP.f64.p2.rnd v6, [v20]`, `STFE.rel.team [v20], v6`. -/
theorem test_decode_memory : dec 0xC000185001028800 = some (.ld { xm 6 20 with offs := 0x40 })
    ∧ dec 0xC008185000028D80 = some (.ldp { xm 6 20 with width := 3, pln := 1, rb := true })
    ∧ dec 0xC014185000014800 = some (.stfe { xm 6 20 with scope := 2, ord := 2 }) := by decide
/-- Atomics (15): `RED.add.s32 [v8], v12`, `ATOMV.or.b32.v32 [v20], v8`, `WAITA.eq.b32.acq.pkg [v22], v7`. -/
theorem test_decode_atomics : dec 0xC104302000028900 = some (.red { xm 12 8 with pln := 1 })
    ∧ dec 0xC108205008028A00 = some (.atomv { xm 8 20 with offs := 0x200, pln := 2 })
    ∧ dec 0xC10C1C580002A800 = some (.waita { xm 7 22 with ord := 1 }) := by decide
/-- Team synchronisation (15): `REGN v4, v9`, `BAR .cluster`. -/
theorem test_decode_sync : dec 0xC20C102400000000 = some (.regn (xe 4 9 0 0))
    ∧ dec 0xC200000000000080 = some (.bar { xe 0 0 0 0 with flags := 1 }) := by decide
/-- Copies and matrix (16): `CPY v20, v22, v24`, `WAITC .copy, 3`, `OBRES v20, v2`, `MMA.r v8, …`, `MRD v40, …`. -/
theorem test_decode_engines : dec 0xE000505860000000 = some (.cpy (xe 20 22 24 0)) ∧ dec 0xE0180C0000000000 = some (.waitc (xe 3 0 0 0))
    ∧ dec 0xE800500800000000 = some (.obres (xe 20 2 0 0)) ∧ dec 0xE80C205060700080 = some (.mma { xe 8 20 24 28 with flags := 1 })
    ∧ dec 0xE810A06070000000 = some (.mrd (xe 40 24 28 0)) := by decide
/-- Tiles (17): `TMAC.sub v40, v42, v44`, `TRND v40`, `TSAMP.clr v30`, `TPOOL.p1 v20, v22`. -/
theorem test_decode_tiles : dec 0xF008A0A8B0000080 = some (.tmac { xe 40 42 44 0 with flags := 1 })
    ∧ dec 0xF010A00000000000 = some (.trnd (xe 40 0 0 0)) ∧ dec 0xF028780000000080 = some (.tsamp { xe 30 0 0 0 with flags := 1 })
    ∧ dec 0xF000505800000080 = some (.tpool { xe 20 22 0 0 with flags := 1 }) := by decide
/-- Updates and system (17): `OADAM.f32.rne [v20], v6, v8`, `CCON [v20], v2, v4`, `LAUNCH v4, v20`, `RDSR v6, FPFLAGS`, `TRET.skip`. -/
theorem test_decode_system : dec 0xF404501820000000 = some (.oadam (xe 20 6 8 0)) ∧ dec 0xF40C500810000000 = some (.ccon (xe 20 2 4 0))
    ∧ dec 0xF800105000000000 = some (.launch (xe 4 20 0 0)) ∧ dec 0xF804181400000000 = some (.rdsr (xe 6 5 0 0))
    ∧ dec 0xF810000000000080 = some (.tret { xe 0 0 0 0 with flags := 1 }) := by decide
/-- Xkelren (03, R58): funct7 0, rs2, rs1, funct3, rd, custom-0. -/
theorem test_decode_kelren : decodeTableWord 32 (12 * 2 ^ 20 + 11 * 2 ^ 15 + 3 * 2 ^ 12 + 10 * 2 ^ 7 + 0x0B) = some (.klnStatus 10 11 12)
    ∧ decodeTableWord 32 (2 ^ 25 + 0x0B) = none ∧ decodeTableWord 32 (4 * 2 ^ 12 + 0x0B) = none := by decide
/-- Unassigned encodings (12, R270): an opcode, an I opcode, a P opcode, a group, an operation. -/
theorem test_decode_unassigned : dec (0x077 * 2 ^ 53) = none ∧ dec (2 * 2 ^ 62 + 0x44 * 2 ^ 53) = none ∧ dec (2 ^ 62 + 0x11 * 2 ^ 55) = none
    ∧ dec (3 * 2 ^ 62 + 0x03 * 2 ^ 56) = none ∧ dec (3 * 2 ^ 62 + 0x01 * 2 ^ 56 + 0x04 * 2 ^ 50) = none := by decide

/-! ### WellFormed: for each check, a term that it refuses -/

/-- T words: MOD, the three operand codes, a set reuse bit, an odd pair, a run, rounding, the guard, an odd destination, NW of `MOVXW`. -/
theorem smoke_t : Instr.wellFormed (.iadd (tf 1 2 3 0)) = true
    ∧ Instr.wellFormed (.iadd { tf 1 2 3 0 with mod := 8 }) = false ∧ Instr.wellFormed (.iadd (tf 1 0x104 3 0)) = false
    ∧ Instr.wellFormed (.iadd (tf 1 2 0x11F 0)) = false ∧ Instr.wellFormed (.iadd (tf 1 2 3 4)) = false
    ∧ Instr.wellFormed (.iadd { tf 1 2 3 0 with uc := true }) = false ∧ Instr.wellFormed (.iadd { tf 2 3 4 0 with mod := 1 }) = false
    ∧ Instr.wellFormed (.iadd { tf 1 2 4 0 with mod := 1 }) = false ∧ Instr.wellFormed (.iadd { tf 1 2 3 0 with rnd := 1 }) = false
    ∧ Instr.wellFormed (.fadd { tf 1 2 3 0 with rnd := 6 }) = false ∧ Instr.wellFormed (.iadd { tf 1 2 3 0 with guard := 0x40 }) = false
    ∧ Instr.wellFormed (.fcvt { tf 1 2 0 9 with rnd := 5, mod := 2 }) = false
    ∧ Instr.wellFormed (.movxw { tf 1 2 3 0 with nw := true }) = false := by decide
/-- I words: W, an operand beside an only immediate, the operand code, an odd destination, NW of `MOVXW`. -/
theorem smoke_i : Instr.wellFormed (.orI (ifm 1 2 3)) = true ∧ Instr.wellFormed (.faddI { ifm 2 2 0 with w := 2 }) = false
    ∧ Instr.wellFormed (.movI (ifm 1 2 0)) = false ∧ Instr.wellFormed (.orI (ifm 1 0x120 0)) = false
    ∧ Instr.wellFormed (.orI { ifm 1 2 0 with w := 1 }) = false ∧ Instr.wellFormed (.movxwI { ifm 1 2 0 with nw := true }) = false := by decide
/-- P words: HMOD, the immediate of an FP half, HIMM without its code, the operand code, the parity of each half. -/
theorem smoke_p :
    let h (hsrc : BitVec 9) (hmod himm : BitVec 4) : HF := { hdst := 1, hsrc, hmod, himm }
    Instr.wellFormed (.iaddP (h 2 0 0) .isub (h 3 0 0)) = true ∧ Instr.wellFormed (.iaddP (h 2 1 0) .isub (h 3 0 0)) = false
    ∧ Instr.wellFormed (.faddP (h 0x11F 0 1) .isub (h 3 0 0)) = false ∧ Instr.wellFormed (.iaddP (h 2 0 1) .isub (h 3 0 0)) = false
    ∧ Instr.wellFormed (.iaddP (h 0x104 0 0) .isub (h 3 0 0)) = false ∧ Instr.wellFormed (.iaddP (h 3 0 0) .isub (h 3 0 0)) = false
    ∧ Instr.wellFormed (.iaddP (h 2 0 0) .isub (h 2 0 0)) = false := by decide
/-- XM words: guard, address pair, width, plane, order, scope, flag, data alignment, rounding and operation codes. -/
theorem smoke_xm : Instr.wellFormed (.ld (xm 6 20)) = true
    ∧ Instr.wellFormed (.ld { xm 6 20 with guard := 0x40 }) = false ∧ Instr.wellFormed (.ld (xm 6 21)) = false
    ∧ Instr.wellFormed (.ld { xm 6 20 with width := 5 }) = false ∧ Instr.wellFormed (.ld { xm 6 20 with pln := 1 }) = false
    ∧ Instr.wellFormed (.ld { xm 6 20 with ord := 2 }) = false ∧ Instr.wellFormed (.ld { xm 6 20 with rb := true }) = false
    ∧ Instr.wellFormed (.ld { xm 7 20 with width := 3 }) = false ∧ Instr.wellFormed (.ld { xm 6 20 with width := 4 }) = false
    ∧ Instr.wellFormed (.st { xm 6 20 with ord := 1 }) = false ∧ Instr.wellFormed (.stp { xm 6 20 with offs := 0xC000 }) = false
    ∧ Instr.wellFormed (.ldp { xm 6 20 with pln := 2 }) = false ∧ Instr.wellFormed (.sptest { xm 6 20 with width := 0 }) = false
    ∧ Instr.wellFormed (.atom { xm 6 20 with offs := 0x0B00 }) = false ∧ Instr.wellFormed (.atom { xm 6 20 with offs := 0x2000 }) = false
    ∧ Instr.wellFormed (.red { xm 6 20 with offs := 0x0600 }) = false ∧ Instr.wellFormed (.atomv { xm 6 20 with pln := 0 }) = false
    ∧ Instr.wellFormed (.waita { xm 6 20 with offs := 0x0800 }) = false ∧ Instr.wellFormed (.fence (xm 6 20)) = false
    ∧ Instr.wellFormed (.ldfe (xm 6 20)) = false ∧ Instr.wellFormed (.stfe (xm 6 20)) = false := by decide
/-- XB words: guard, mask, register, offset. -/
theorem smoke_xb : Instr.wellFormed (.bra (xb 0 5)) = true ∧ Instr.wellFormed (.bra { xb 0 5 with guard := 0x40 }) = false
    ∧ Instr.wellFormed (.join { xb 0 0 with mask := 12 }) = false ∧ Instr.wellFormed (.bra (xb 2 5)) = false
    ∧ Instr.wellFormed (.bra { xb 0 5 with mask := 1 }) = false ∧ Instr.wellFormed (.brx (xb 3 0)) = false
    ∧ Instr.wellFormed (.brx (xb 2 1)) = false ∧ Instr.wellFormed (.callx (xb 2 0x100)) = false
    ∧ Instr.wellFormed (.callx (xb 2 3)) = false ∧ Instr.wellFormed (.nop (xb 0 1)) = false := by decide
/-- XE words: guard, fields past the last, flags, pairs, a live range, state numbers, rounding, and the flags that tell `MWR` from
`MWR.mem` and `TPOOL` from `TPOOL.empty`. -/
theorem smoke_xe : Instr.wellFormed (.bar (xe 0 0 0 0)) = true ∧ Instr.wellFormed (.bar { xe 0 0 0 0 with guard := 0x40 }) = false
    ∧ Instr.wellFormed (.bar (xe 1 0 0 0)) = false ∧ Instr.wellFormed (.bar { xe 0 0 0 0 with flags := 2 }) = false
    ∧ Instr.wellFormed (.regn (xe 9 4 0 0)) = false ∧ Instr.wellFormed (.cpy (xe 21 22 24 0)) = false
    ∧ Instr.wellFormed (.cpy (xe 20 22 24 1)) = false ∧ Instr.wellFormed (.waitc { xe 0 0 0 0 with flags := 4 }) = false
    ∧ Instr.wellFormed (.mma { xe 8 20 24 28 with e4 := 5 }) = false ∧ Instr.wellFormed (.rdsr (xe 6 0x0B 0 0)) = false
    ∧ Instr.wellFormed (.rdsr (xe 7 1 0 0)) = false ∧ Instr.wellFormed (.mwr { xe 2 2 4 0 with flags := 1 }) = false
    ∧ Instr.wellFormed (.mwrMem (xe 2 2 4 0)) = false ∧ Instr.wellFormed (.tpool { xe 0 0 0 0 with flags := 2 }) = false
    ∧ Instr.wellFormed (.tpoolEmpty (xe 0 0 0 0)) = false ∧ Instr.wellFormed (.tret { xe 0 0 0 0 with guard := 1 }) = false
    ∧ Instr.wellFormed (.oadam { xe 20 6 8 0 with e4 := 6 }) = false := by decide

/-! ### Worked values of the spec's tables -/

/-- 13, R282, "Integer results at the limits"; the type codes are 0 `.b32`, 2 `.s32`, 3 `.s64`, and variant 1 is `.sat`. -/
theorem test_integer_limits : intOp 0x000 2 1 0x7FFFFFFF 1 0 = (0x7FFFFFFF, flSAT) ∧ intOp 0x000 2 0 0x7FFFFFFF 1 0 = (0x80000000, 0)
    ∧ intOp 0x001 0 1 3 5 0 = (0, flSAT) ∧ intOp 0x003 2 0 0xFFFFFFFF 0xFFFFFFFF 0 = (0, 0)
    ∧ intOp 0x003 0 0 0xFFFFFFFF 0xFFFFFFFF 0 = (0xFFFFFFFE, 0) ∧ intOp 0x007 2 0 0x80000000 0 0 = (0x80000000, 0)
    ∧ intOp 0x007 2 1 0x80000000 0 0 = (0x7FFFFFFF, flSAT) := by decide
theorem test_division : intOp 0x009 2 0 0xFFFFFFF9 2 0 = (0xFFFFFFFD, 0) ∧ intOp 0x00A 2 0 0xFFFFFFF9 2 0 = (0xFFFFFFFF, 0)
    ∧ intOp 0x009 0 0 7 0 0 = (0xFFFFFFFF, 0) ∧ intOp 0x009 2 0 0x80000000 0xFFFFFFFF 0 = (0x80000000, 0)
    ∧ intOp 0x00B 3 3 0x10000 0xFFFFFFFE 0 = (0xFFF0, 0) := by decide
/-- 14, "Worked values of the arithmetic block". -/
theorem test_min_max : fpLane 0x045 0 0 0 0x80000000 0 = { words := [0x80000000], flags := 0 }
    ∧ fpLane 0x046 0 0 0 0x80000000 0 = { words := [0], flags := 0 }
    ∧ fpLane 0x045 0 0 0x7FC01234 0x3F800000 0 = { words := [0x3F800000], flags := 0 }
    ∧ fpLane 0x045 0 0 0x7F800001 0x3F800000 0 = { words := [0x3F800000], flags := flNV }
    ∧ fpLane 0x045 0 0 0x7FC01234 0xFFC00000 0 = { words := [0x7FC00000], flags := 0 }
    ∧ fpLane 0x047 0 0 0x7FC01234 0x3F800000 0 = { words := [0x7FC00000], flags := 0 }
    ∧ fpLane 0x04A 0 0 0x7F800001 0 0 = { words := [0xFF800001], flags := 0 } := by decide
theorem test_compare_float : fpLane 0x04C 0 0 0x7FC00000 0x3F800000 0 = { words := [0], flags := 0 }
    ∧ fpLane 0x04C 12 0 0x7FC00000 0x3F800000 0 = { words := [1], flags := 0 }
    ∧ fpLane 0x04C 0 0 0 0x80000000 0 = { words := [1], flags := 0 }
    ∧ fpLane 0x04C 4 0 0x7FC00000 0x3F800000 0 = { words := [0], flags := flNV } := by decide
theorem test_round_float : fpLane 0x04E 0 0 0x40200000 0 0 = { words := [0x40000000], flags := 0 }
    ∧ fpLane 0x04E 4 0 0x40200000 0 0 = { words := [0x40000000], flags := flNX }
    ∧ fpLane 0x040 0 3 0x3F800000 0xBF800000 0 = { words := [0x80000000], flags := 0 }
    ∧ fpLane 0x04F 0 0 0x3F800000 (BitVec.ofInt 64 (-150)) 0 = { words := [0], flags := flUF ||| flNX }
    ∧ fpLane 0x050 1 0 1 0 0 = { words := [0xFFFFFBCE], flags := 0 } := by decide

/-! ### States for the witnesses -/

/-- The one group of `withFetchWord`'s launch, with 256 registers, and its issue stage. -/
def gid0 : Nat := groupKey (teamKey 0x10 0) 0
def team0 : Nat := groupTeam gid0
def base : State := { State.reset.withFetchWord 64 0 with iss := { gid := gid0, run := allLanes, pc := fetchVa, yield := false, yend := 0 } }

/-- A run of lane 31 alone. -/
def m1 : Lanes := 0x80000000
def one (s : State) : State := { s with iss := { s.iss with run := m1 } }

/-- Register `r` of every lane. -/
def put (s : State) (r : Nat) (x : Word) : State := s.setCur (s.cur.setReg r allLanes fun _ => x)
def with_ (s : State) (f : Group → Group) : State := s.setCur (f s.cur)

/-- A request outstanding. -/
def default_out : OutReq :=
  { serial := 0, opkg := 0, owner := 0, lanes := 1, tries := 1, first := true, replay := false, watermarked := true, held := false
    start := 0, next := 0, busy := false, pc := 0, packet := Packet.zero, seq := 0, order := 0
    port := none, restored := false, acq := 0 }

/-- No request is out, or the word's events follow none. -/
def Calm (s : State) (n : Needs) : Prop := s.cur.outs = [] ∨ (n.mem = false ∧ n.issues = false ∧ n.after = false ∧ n.rel = false)
theorem Calm.ordered {s : State} {n : Needs} (h : Calm s n) (m : Lanes) : s.cur.mustFollow n m = false := by
  rcases h with h | ⟨h1, h4, h2, h3⟩
  · simp [Group.mustFollow, Group.acquiring, Group.opening, Group.pending, Group.storesOut, h]
  · simp [Group.mustFollow, h1, h2, h3, h4]

/-- Nothing stands before a word without a guard in a group that awaits nothing. -/
theorem clear_of {s : State} {n : Needs} (hr : s.iss.run = allLanes) (ha : s.cur.nregs = 256) (hl : s.cur.late = [])
    (hu : s.cur.unknowns = []) (hh : s.cur.handler = none) (hg : n.guard = 0) (hn : (n.regs.all fun r => r < 256) = true)
    (hp : n.priv = false) (hb : n.latches = [])
    (ho : Calm s n := by first | exact Or.inl rfl | exact Or.inr ⟨rfl, rfl, rfl, rfl⟩) (hv : n.reserved = none := by rfl) :
    s.Clear n allLanes where
  active := by simp [hg, Group.active, hr]
  fields := by
    intro r h
    rw [hg] at h
    have h : r ∈ n.regs := by simpa [guardRegs] using h
    rw [ha]; simpa using List.all_eq_true.mp hn r h
  guardLanded := by simp [Group.awaits, hl]
  landed := by simp [Group.lacks, Group.awaits, hl]
  guardKnown := by simp [Group.unknownFor, hu]
  known := by simp [hu]
  allowed := hp
  converged := fun _ => ⟨hr, Or.inr rfl⟩
  latched := by simp [hb]
  noHandler := fun _ => hh
  ordered := ho.ordered _
  keysLanded := by simp [Group.awaits, hl]
  unreserved := hv

/-- The same for a word that is not collective, whatever the run. -/
theorem clear_run {s : State} {n : Needs} (ha : s.cur.nregs = 256) (hl : s.cur.late = []) (hu : s.cur.unknowns = [])
    (hh : s.cur.handler = none) (hg : n.guard = 0) (hn : (n.regs.all fun r => r < 256) = true) (hp : n.priv = false)
    (hb : n.latches = []) (hc : n.coll = false)
    (ho : Calm s n := by first | exact Or.inl rfl | exact Or.inr ⟨rfl, rfl, rfl, rfl⟩) (hv : n.reserved = none := by rfl) :
    s.Clear n s.iss.run where
  active := by simp [hg, Group.active]
  fields := by
    intro r h
    rw [hg] at h
    have h : r ∈ n.regs := by simpa [guardRegs] using h
    rw [ha]; simpa using List.all_eq_true.mp hn r h
  guardLanded := by simp [Group.awaits, hl]
  landed := by simp [Group.lacks, Group.awaits, hl]
  guardKnown := by simp [Group.unknownFor, hu]
  known := by simp [hu]
  allowed := hp
  converged := by simp [hc]
  latched := by simp [hb]
  noHandler := fun _ => hh
  ordered := ho.ordered _
  keysLanded := by simp [Group.awaits, hl]
  unreserved := hv

/-- The same under the guard `(v1)`, when bit 0 of v1 is zero in every lane: no lane is active. -/
theorem clear_none {s : State} {n : Needs} (hr : s.iss.run = allLanes) (ha : s.cur.nregs = 256) (hl : s.cur.late = [])
    (hu : s.cur.unknowns = []) (hh : s.cur.handler = none) (hg : n.guard = 1) (hz : s.cur.active s.iss.run 1 = 0)
    (hn : (n.regs.all fun r => r < 256) = true) (hp : n.priv = false) (hb : n.latches = [])
    (ho : Calm s n := by first | exact Or.inl rfl | exact Or.inr ⟨rfl, rfl, rfl, rfl⟩) (hv : n.reserved = none := by rfl) :
    s.Clear n 0 where
  active := by rw [hg, hz]
  fields := by
    intro r h
    rw [hg, List.mem_append] at h
    rw [ha]
    rcases h with h | h
    · simpa using List.all_eq_true.mp hn r h
    · have : r = 1 := by simpa [guardRegs] using h
      omega
  guardLanded := by simp [Group.awaits, hl]
  landed := by simp [Group.lacks, Group.awaits, hl]
  guardKnown := by simp [Group.unknownFor, hu]
  known := by simp [hu]
  allowed := hp
  converged := fun _ => ⟨hr, Or.inl rfl⟩
  latched := by simp [hb]
  noHandler := fun _ => hh
  ordered := ho.ordered _
  keysLanded := by simp [Group.awaits, hl]
  unreserved := hv

theorem base_clear (n : Needs) (hg : n.guard = 0) (hn : (n.regs.all fun r => r < 256) = true) (hp : n.priv = false)
    (hb : n.latches = []) (hv : n.reserved = none := by rfl) : base.Clear n allLanes :=
  clear_of rfl rfl rfl rfl rfl hg hn hp hb (.inl rfl) hv

theorem base_idle : base.cur.active base.iss.run 1 = 0 := by decide
theorem base_none (n : Needs) (hg : n.guard = 1) (hn : (n.regs.all fun r => r < 256) = true) (hp : n.priv = false)
    (hb : n.latches = []) (hv : n.reserved = none := by rfl) : base.Clear n 0 :=
  clear_none rfl rfl rfl rfl rfl hg base_idle hn hp hb (.inl rfl) hv

/-! ### Witnesses: T, I and P words -/

theorem wit_arithmetic : ((.iadd (tf 1 2 3 0), 0x000) ∈ intRows (tf 1 2 3 0) ∧ base.Clear (tNeeds 0x000 (tf 1 2 3 0)) allLanes)
    ∧ (.fadd (tf 1 2 255 0), 0x040) ∈ fpRows (tf 1 2 255 0) ∧ base.Clear (tNeeds 0x040 (tf 1 2 255 0)) allLanes :=
  ⟨⟨by simp [intRows], base_clear _ rfl rfl rfl rfl⟩, by simp [fpRows], base_clear _ rfl rfl rfl rfl⟩
theorem wit_immediate : base.Clear (iNeeds 0x000 (ifm 255 0 7)) allLanes ∧ (.iaddI (ifm 255 0 7), 0x000) ∈ intRowsI (ifm 255 0 7)
    ∧ base.Clear (iNeeds 0x043 (ifm 0 1 7)) allLanes ∧ (.ffmaI (ifm 0 1 7), 0x043) ∈ fpRowsI (ifm 0 1 7) :=
  ⟨base_clear _ rfl rfl rfl rfl, by simp [intRowsI], base_clear _ rfl rfl rfl rfl, by simp [fpRowsI]⟩
def h0 : HF := { hdst := 127, hsrc := 2, hmod := 0, himm := 0 }
def h1 : HF := { hdst := 127, hsrc := 3, hmod := 0, himm := 0 }
theorem wit_halves : (.icmpP h0 .fadd h1, POp.icmp) ∈ halfRows h0 .fadd h1 ∧ base.Clear (pNeeds .icmp h0 .fadd h1) allLanes :=
  ⟨by simp [halfRows], base_clear _ rfl rfl rfl rfl⟩
theorem wit_lanes : base.Clear (tNeeds 0x030 (tf 1 2 3 0)) allLanes ∧ base.Clear (tNeeds 0x031 (tf 1 2 3 0)) allLanes
    ∧ base.Clear (tNeeds 0x032 (tf 1 2 0 0)) allLanes ∧ base.Clear (tNeeds 0x033 (tf 1 2 0 0)) allLanes
    ∧ base.Clear (tNeeds 0x034 (tf 1 2 0 0)) allLanes ∧ base.Clear (tNeeds 0x035 (tf 1 2 0 0)) allLanes :=
  ⟨base_clear _ rfl rfl rfl rfl, base_clear _ rfl rfl rfl rfl, base_clear _ rfl rfl rfl rfl, base_clear _ rfl rfl rfl rfl,
    base_clear _ rfl rfl rfl rfl, base_clear _ rfl rfl rfl rfl⟩
theorem wit_convert : base.Clear (tNeeds 0x070 { tf 1 2 0 0 with mod := 2 }) allLanes ∧ base.Clear (tNeeds 0x071 (tf 1 2 0 0)) allLanes
    ∧ base.Clear (tNeeds 0x072 (tf 1 2 0 0)) allLanes ∧ base.Clear (tNeeds 0x073 (tf 1 2 0 0)) allLanes
    ∧ base.Clear (tNeeds 0x074 (tf 1 2 0 0)) allLanes ∧ base.Clear (tNeeds 0x075 (tf 2 4 6 0)) allLanes
    ∧ base.Clear (tNeeds 0x076 (tf 2 4 6 0)) allLanes :=
  ⟨base_clear _ rfl rfl rfl rfl, base_clear _ rfl rfl rfl rfl, base_clear _ rfl rfl rfl rfl, base_clear _ rfl rfl rfl rfl,
    base_clear _ rfl rfl rfl rfl, base_clear _ rfl rfl rfl rfl, base_clear _ rfl rfl rfl rfl⟩
/-- A number, a rounding and a NaN for the results of numbers. -/
theorem wit_numbers : (2 : Nat) ≤ 3 ∧ (3 : Nat) < 4 ∧ (3 : Nat) % 2 = 1 ∧ (0 : Nat) < 1 ∧ f16 ∈ [f16, bf16, f32, f64]
    ∧ 0x7C00 < 2 ^ f16.bits ∧ fdecode f16 0x7C00 = .inf false ∧ (fdecode f32 0x7F800001).isNan = true ∧ (31 : Nat) < 32 := by decide
/-- Register v255 of every lane is the highest index; the index is the sum of v2 and v3, and of v2 and the immediate. -/
theorem wit_indexed :
    let s := put (put base 2 250) 3 5
    let f := tf 1 2 3 0
    let g := ifm 1 2 5
    s.Clear { movxNeeds false false 1 f.sa f.sb 0 with drain := true } allLanes ∧ s.Clear { movxNeeds false false 1 g.sa 0x110 0 with drain := true } allLanes
      ∧ s.Clear (movxNeeds false true 1 f.sa f.sb 0) allLanes ∧ s.Clear (movxNeeds false true 1 g.sa 0x110 0) allLanes
      ∧ (∀ l : Fin 32, (s.src s.iss.gid l f.sa false).setWidth 32 + (s.src s.iss.gid l f.sb false).setWidth 32 = (255 : Word)) :=
  ⟨clear_of rfl rfl rfl rfl rfl rfl rfl rfl rfl, clear_of rfl rfl rfl rfl rfl rfl rfl rfl rfl, clear_of rfl rfl rfl rfl rfl rfl rfl rfl rfl,
    clear_of rfl rfl rfl rfl rfl rfl rfl rfl rfl, by decide⟩
/-- An index of 256, beyond the last register; an odd index of a pair. -/
theorem wit_index_traps :
    let s := put (put base 2 250) 3 6
    let f := tf 1 2 3 0
    let g := ifm 1 2 6
    s.Clear { movxNeeds false false 1 f.sa f.sb 0 with drain := true } allLanes ∧ s.Clear { movxNeeds false false 1 g.sa 0x110 0 with drain := true } allLanes
      ∧ s.Clear (movxNeeds false true 1 f.sa f.sb 0) allLanes ∧ s.Clear (movxNeeds false true 1 g.sa 0x110 0) allLanes
      ∧ s.cur.unknownAt allLanes false (fun _ => 256) = none
      ∧ (∀ l : Fin 32, (s.src s.iss.gid l f.sa false).setWidth 32 + (s.src s.iss.gid l f.sb false).setWidth 32 = (256 : Word))
      ∧ (lanesOf fun l => allLanes.getLsbD l && !decide (256 < s.cur.nregs ∧ (false = true → 256 % 2 = 0 ∧ 256 + 1 < s.cur.nregs))) ≠ 0
      ∧ (lanesOf fun l => allLanes.getLsbD l && !decide (251 < s.cur.nregs ∧ (true = true → 251 % 2 = 0 ∧ 251 + 1 < s.cur.nregs))) ≠ 0 :=
  ⟨clear_of rfl rfl rfl rfl rfl rfl rfl rfl rfl, clear_of rfl rfl rfl rfl rfl rfl rfl rfl rfl, clear_of rfl rfl rfl rfl rfl rfl rfl rfl rfl,
    clear_of rfl rfl rfl rfl rfl rfl rfl rfl rfl, by decide +kernel⟩
/-- v16 with an allocation of 16 registers; a run of one lane at `XPERM`; b0 before any word filled it. -/
theorem wit_encoding_traps :
    let s := with_ base fun g => { g with nbands := 1 }
    let u := { base with iss := { base.iss with run := 1 } }
    (16 ∈ (tNeeds 0x000 (tf 16 2 3 0)).regs ∧ s.cur.nregs ≤ 16)
    ∧ (u.iss.run ≠ allLanes ∧ ∀ r ∈ (tNeeds 0x031 (tf 255 2 3 0)).regs, r < u.cur.nregs)
    ∧ (0 ∈ (tNeeds 0x000 (tf 1 0x100 3 0)).latches ∧ base.cur.lvalid.getLsbD 0 = false)
    ∧ base.cur.awaits (guardRegs 0) base.iss.run = false ∧ base.cur.unknownFor (guardRegs 0) base.iss.run = none := by decide
/-- X words of which no register's value makes a reserved one: a field beyond 16 registers; collective words of a run of one lane; words that
begin a region, in a trap handler. -/
theorem wit_encoding_traps_x :
    let rows (s : State) (r : BitVec 8) := s.xRows (xb r 4) (xm 4 r) (xe 6 r 4 8)
    let s := with_ base fun g => { g with nbands := 1 }
    let u := { base with iss := { base.iss with run := 1 } }
    let h := with_ base fun g => { g with handler := some { pcs := g.pcs, waiting := 0, stood := [], latches := [], lvalid := 0, entered := allLanes } }
    ((rows s 16).any fun r => r.2.regs.contains 16 && r.2.keys.isEmpty && r.2.reserved.isNone) = true
      ∧ ((rows u 2).any fun r => r.2.coll && !r.2.priv && r.2.regs.all (· < 256) && r.2.reserved.isNone) = true
      ∧ ((rows h 2).any fun r => r.2.region && r.2.latches.isEmpty && r.2.regs.all (· < 256) && r.2.reserved.isNone) = true
      ∧ h.iss.run = allLanes ∧ h.cur.handler.isSome = true ∧ h.cur.awaits [] h.iss.run = false := by decide +kernel

/-! ### Witnesses: control words -/

theorem wit_control : base.Clear { guard := 0 } allLanes ∧ base.Clear { guard := 1 } 0
    ∧ base.Clear { guard := 0, regs := pairRegs 254, reads := pairRegs 254 } allLanes
    ∧ base.Clear { guard := 0, regs := pairRegs 2 ++ [4, 5], reads := [4, 5] } allLanes
    ∧ base.Clear { guard := 0, regs := [255], reads := [255] } allLanes ∧ base.Clear { guard := 1, regs := [255], reads := [255] } 0
    ∧ lowestLane allLanes = some 0 ∧ allLanes ≠ 0 :=
  ⟨base_clear _ rfl rfl rfl rfl, base_none _ rfl rfl rfl rfl, base_clear _ rfl rfl rfl rfl, base_clear _ rfl rfl rfl rfl,
    base_clear _ rfl rfl rfl rfl, base_none _ rfl rfl rfl rfl, by decide +kernel⟩
/-- Mask 11, the last: full with both lanes arrived, and not full with one of them, or with none enrolled. -/
theorem wit_masks :
    let full (x : Mask) : Bool := x.arrived != 0 && x.enrolled &&& ~~~x.arrived == 0
    base.Clear { guard := 0 } allLanes ∧ base.Clear { guard := 0, regs := pairRegs 4 } allLanes
      ∧ base.Clear { guard := 1, regs := pairRegs 4, reads := pairRegs 4 } 0 ∧ full { enrolled := 3, arrived := 3 } = true
      ∧ full { enrolled := 3, arrived := 1 } = false ∧ full {} = false ∧ 11 < 12 :=
  ⟨base_clear _ rfl rfl rfl rfl, base_clear _ rfl rfl rfl rfl, base_none _ rfl rfl rfl rfl, by decide +kernel⟩
/-- A trap handler entered while lanes 0 and 1 waited at mask 3. -/
theorem wit_mask_handler :
    let g := { base.cur with handler := some { pcs := base.cur.pcs, waiting := 3, stood := [0, 0, 0, 3], latches := [], lvalid := 0, entered := allLanes }
                             masks := [{}, {}, {}, { enrolled := 3, arrived := 3 }] }
    g.handler.isSome = true ∧ (g.handler.map fun h => h.stands 3) = some 3 ∧ ((g.mask 3).arrived != 0) = true
      ∧ (g.mask 3).enrolled &&& ~~~(g.mask 3).arrived = 0 := by decide +kernel
/-- The last exit with nothing outstanding; a last exit with a request outstanding; an exit of lanes that are not the last. -/
theorem wit_exits :
    let s := with_ base fun g => { g with outs := [{ default_out with seq := 0 }] }
    let u := { base with iss := { base.iss with run := 1 } }
    base.Clear { guard := 0, deliver := true } allLanes
      ∧ ((base.cur.advance (base.iss.run &&& ~~~allLanes)).exitLanes allLanes).releaseMasks.exited = allLanes ∧ base.cur.outs = []
      ∧ s.cur.lastExit allLanes = true ∧ s.cur.outs ≠ []
      ∧ ((u.cur.advance (u.iss.run &&& ~~~1)).exitLanes 1).releaseMasks.exited ≠ allLanes :=
  ⟨base_clear _ rfl rfl rfl rfl, by decide +kernel, rfl, by decide +kernel⟩

/-! ### Witnesses: memory words -/

/-- Addresses of a scratchpad of one unit: lane l names the word at 4 l, by v2:v3. -/
def padBase : State :=
  let s := base.setLaunch 0x10 { base.launch 0x10 with scratch := 1 }
  let s := s.setTeam team0 { s.team team0 with units := [0] }
  put (s.setCur (s.cur.setReg 2 allLanes fun l => BitVec.ofNat 32 (4 * l))) 3 0xFC000000

/-- The same page tables with the one page in plane form. -/
def planeBase : State := base.wrLe (fetchTables + 0x2000) 8 (lpddrBase + 0x21B)
/-- The same, with the one page on another package, to which a port is up. -/
def farBase : State := { base.wrLe (fetchTables + 0x2000) 8 (5 * 2 ^ 48 + 0x11B) with fabUp := 1 }

/-- An access resolves to a place for which a test holds. -/
def placeOk (x : Except Nat Place) (ok : Place → Bool) : Bool :=
  match x with
  | .ok p => ok p
  | .error _ => false
/-- Every lane of a set resolves to a place for which a test holds. -/
def allOk (m : Lanes) (res : Resolver) (ok : Place → Bool) : Bool :=
  (List.range 32).all fun l => !m.getLsbD l || placeOk (res l).2 ok

theorem ok_of {m : Lanes} {res : Resolver} {ok : Place → Bool} (h : allOk m res ok = true) :
    ∀ l, m.getLsbD l = true → ∃ p, (res l).2 = .ok p ∧ ok p = true := by
  intro l hl
  have hl' : l < 32 := by
    rcases Nat.lt_or_ge l 32 with h | h
    · exact h
    · simp [BitVec.getLsbD_of_ge m l h] at hl
  have := List.all_eq_true.mp h l (List.mem_range.mpr hl')
  rw [hl, Bool.not_true, Bool.false_or] at this
  revert this
  unfold placeOk
  split
  · rename_i p hp; intro h; exact ⟨p, hp, h⟩
  · intro h; cases h

theorem reached_of {s : State} {res : Resolver} {m : Lanes} (h : allOk m res (fun p => !s.absent p && !s.bad p) = true) : Reached s m res := by
  intro l hl
  obtain ⟨p, hp, h⟩ := ok_of h l hl
  refine ⟨p, hp, ?_, ?_⟩ <;> revert h <;> cases s.absent p <;> cases s.bad p <;> decide

theorem uncounted_of {res : Resolver} {m : Lanes} (h : allOk m res (fun p => p.ac == none) = true) : Uncounted m res := by
  intro l p hl hp
  obtain ⟨q, hq, h⟩ := ok_of h l hl
  rw [hp] at hq; cases hq; simpa using h

/-- The states with one active lane. -/
def b1 : State := one base
def pad1 : State := one padBase
def plane1 : State := one planeBase
def far1 : State := one farBase

/-- A load near and far, 4 bytes at address 0; a load of the last word of a scratchpad. -/
theorem wit_loads :
    let f := { xm 6 2 with scope := 0 }
    b1.Clear { guard := 0, regs := addrRegs f ++ dataRegs f, reads := addrRegs f, mem := true
               about := b1.updatedBy 4 (lanePlaces m1 (b1.plainRes 2 (offWhole f) 4 4 false)) } m1
      ∧ b1.clash (fun _ => false) 4 (lanePlaces m1 (b1.plainRes 2 (offWhole f) 4 4 false)) = false
      ∧ Reached b1 m1 (b1.plainRes 2 (offWhole f) 4 4 false) ∧ Uncounted m1 (b1.plainRes 2 (offWhole f) 4 4 false)
      ∧ Reached far1 m1 (far1.plainRes 2 0 4 4 false) ∧ farLane (far1.plainRes 2 0 4 4 false) 31 = true
      ∧ Reached pad1 m1 (pad1.plainRes 2 0 4 4 false) :=
  ⟨clear_run rfl rfl rfl rfl rfl rfl rfl rfl rfl, by decide +kernel, reached_of (by decide +kernel), uncounted_of (by decide +kernel),
    reached_of (by decide +kernel), by decide +kernel, reached_of (by decide +kernel)⟩
/-- Lanes that fault: one misaligned, for each kind of access; a page not in plane form; a word that a lower lane names; in a deterministic
launch, the last serial of a store, and an atomic on a global word. -/
theorem wit_data_faults :
    let f := { xm 6 2 with scope := 0 }
    let s := put b1 2 1
    let t := put pad1 2 1
    let both := put padBase 2 0
    let det (s : State) : State := s.setLaunch 0x10 { s.launch 0x10 with determ := true }
    let last := with_ (det far1) fun g => { g with wserial := 0xFFFFFFFF }
    s.Clear { guard := 0, regs := addrRegs f ++ dataRegs f, reads := addrRegs f, mem := true
              about := s.updatedBy 4 (lanePlaces m1 (s.plainRes 2 (offWhole f) 4 4 false)) } m1
      ∧ s.Clear { guard := 0, regs := addrRegs f ++ rmwOperands .atom f, reads := addrRegs f ++ rmwOperands .atom f, mem := true, deliver := true } m1
      ∧ resFault (s.plainRes 2 (offWhole f) 4 4 true) 31 = some (6, 1) ∧ resFault (s.rmwRes f 4 true) 31 = some (6, 1)
      ∧ (resFault ((put plane1 2 1).planeRes 2 0 2 2 2 false) 31).isSome = true ∧ (resFault (b1.planeRes 2 (offStp f) 2 2 2 true) 31).isSome = true
      ∧ (resFault (t.feRes f fun _ => 4) 31).isSome = true
      ∧ (match (both.feRes f fun _ => 4) 30, (both.feRes f fun _ => 4) 31 with
         | (_, .ok p), (_, .ok q) => p.core == q.core && p.pa == q.pa
         | _, _ => false) = true
      ∧ last.lastSerial = true ∧ allOk m1 (last.plainRes 2 (offWhole f) 4 4 true) (fun p => p.kind == 2) = true
      ∧ ((det b1).launchOf (det b1).iss.gid).determ = true ∧ allOk m1 ((det b1).rmwRes f 4 true) (fun p => p.kind != 3) = true :=
  ⟨clear_run rfl rfl rfl rfl rfl rfl rfl rfl rfl, clear_run rfl rfl rfl rfl rfl rfl rfl rfl rfl, by decide +kernel⟩
/-- A held team whose buffer has no chunk left, which may commit; the same while a request is out. -/
def fullBuffer (s : State) : State :=
  (with_ s fun g => { g with hold := true }).setTeam team0
    { s.team team0 with buffer := List.replicate 8192 { loc := 0, pa := 2 ^ 40, mask := 1, bytes := [1], pages := [] } }
theorem wit_full_buffer :
    let f := xm 6 2
    let s := fullBuffer b1
    let p := fullBuffer plane1
    let out := with_ s fun g => { g with outs := [{ default_out with watermarked := true, opkg := 5, packet := { Packet.zero with op := .store 4, dst := 5 } }] }
    let xs := lanePlaces m1 (s.plainRes 2 (offWhole f) 4 4 true)
    let ps := lanePlaces m1 (p.planeRes 2 (offStp f) 1 2 2 true)
    (s.writeLanes s.cur.hold (locals xs) fun l => ((xs).filter fun x => x.lane = l).map fun x => (x.place, [0, 0, 0, 0])).isNone = true
      ∧ (p.writeLanes p.cur.hold ps (p.stpPut f ps)).isNone = true
      ∧ s.cur.mayCommit = true ∧ s.iss.gid ∈ s.groupsOf team0 ∧ out.cur.mayCommit = false ∧ s.cur.handler = none := by decide +kernel
/-- A near store with its write, and a far one in a free window. -/
theorem wit_stores :
    let f := xm 6 2
    let xs (s : State) := lanePlaces m1 (s.plainRes 2 (offWhole f) 4 4 true)
    let put (s : State) (l : Nat) := ((xs s).filter fun x => x.lane = l).map fun x => (x.place, leBytes 4 (wordsVal (s.cur.words l (dataRegs f))))
    let n (s : State) : Needs := { guard := 0, regs := addrRegs f ++ dataRegs f, reads := addrRegs f ++ dataRegs f
                                   deliver := f.scope == 7 && (xs s).any fun x => isRelease f.ord x.place, mem := true
                                   rel := (xs s).any fun x => isRelease f.ord x.place, issues := !(remotes (xs s)).isEmpty
                                   region := !(remotes (xs s)).isEmpty && s.cur.windowRegion }
    b1.Clear (n b1) m1 ∧ far1.Clear (n far1) m1
      ∧ b1.clash (fun x => x.place.kind = 2) 4 (xs b1) = false
      ∧ allOk m1 (b1.plainRes 2 (offWhole f) 4 4 true) (fun p => !b1.absent p) = true ∧ ((xs b1).any fun x => isRelease f.ord x.place) = false
      ∧ (remotes (xs b1)).isEmpty = true ∧ (b1.writeLanes b1.cur.hold (locals (xs b1)) (put b1)).isSome = true
      ∧ (remotes (xs far1)).isEmpty = false ∧ far1.lastSerial = false ∧ far1.cur.rem.length < 255 ∧ far1.cur.window = .free
      ∧ (with_ b1 fun g => { g with hold := true }).cur.hold = true ∧ (b1.team team0).buffer.length + 32 ≤ Config.holdChunks :=
  ⟨clear_run rfl rfl rfl rfl rfl rfl rfl rfl rfl, clear_run rfl rfl rfl rfl rfl rfl rfl rfl rfl, by decide +kernel⟩
/-- A place on the package, one in a scratchpad, one in a held team; a buffer of one chunk. -/
theorem wit_where_stores_go :
    let p : Place := { kind := 0, pa := lpddrBase }
    let q : Place := { kind := 3, pa := 4095 }
    let held := b1.setTeam team0 { b1.team team0 with buffer := [{ loc := 0, pa := 7, mask := 1, bytes := [9], pages := [] }] }
    let none_ : Place := { kind := 0, pa := cxlBase }
    (b1.writePlace team0 false p [1, 2]).isSome = true ∧ b1.backed p.pa = true ∧ b1.backed none_.pa = false
      ∧ (b1.writePlace team0 false none_ [1, 2]).isSome = true ∧ b1.isRemoved none_.pa = false ∧ b1.isRemoved p.pa = false ∧ (b1.writePlace team0 false q [1]).isSome = true
      ∧ (b1.writePlace team0 true p [1]).isSome = true ∧ ((held.team team0).buffer.map (·.pa)).Nodup := by decide +kernel
theorem wit_planes :
    let f := { xm 6 2 with pln := 1 }
    let xs := lanePlaces m1 (plane1.planeRes 2 (offStp f) 2 2 2 true)
    plane1.Clear { guard := 0, regs := addrRegs f ++ range' 6 1, reads := addrRegs f, mem := true
                   about := plane1.updatedBy 2 ((lanePlaces m1 (plane1.planeRes 2 0 2 2 2 false)).flatMap fun x =>
                     (List.range 2).map fun j => { x with place := x.place.plane j }) } m1
      ∧ plane1.Clear { guard := 0, regs := addrRegs f ++ [6], reads := addrRegs f ++ [6], mem := true, rel := xs.any fun x => isRelease f.ord x.place
                       deliver := f.scope == 7 && xs.any fun x => isRelease f.ord x.place } m1
      ∧ allOk m1 (plane1.planeRes 2 0 2 2 2 false) (fun p => !plane1.bad (p.plane 0) && !plane1.bad (p.plane 1)) = true
      ∧ allOk m1 (plane1.planeRes 2 (offStp f) 2 2 2 true) (fun p => p.kind != 2) = true
      ∧ ((lanePlaces m1 (plane1.planeRes 2 (offStp f) 2 2 2 true)).any fun x => isRelease f.ord x.place) = false
      ∧ (plane1.writeLanes plane1.cur.hold (lanePlaces m1 (plane1.planeRes 2 (offStp f) 2 2 2 true)) fun _ => []).isSome = true
      ∧ plane1.clash (fun _ => false) 2 (lanePlaces m1 (plane1.planeRes 2 0 2 2 2 false)) = false :=
  ⟨clear_run rfl rfl rfl rfl rfl rfl rfl rfl rfl, clear_run rfl rfl rfl rfl rfl rfl rfl rfl rfl, by decide +kernel⟩
/-- `LDFE` of empty words waits, `STFE` of them goes on; `FEINIT` of one word a lane; a full word for a load's step. -/
theorem wit_full_empty :
    let f := xm 6 2
    let xs := lanePlaces m1 (pad1.feRes f fun _ => 4)
    let full := pad1.setFull { kind := 3, pa := 0 } true
    pad1.Clear { guard := 0, regs := addrRegs f ++ [6], reads := addrRegs f ++ [6], region := true, mem := true, rel := true } m1
      ∧ pad1.iss.issued = false ∧ pad1.cur.canBegin = true ∧ feFaults m1 (pad1.feRes f fun _ => 4) = none
      ∧ (xs.all fun x => !pad1.absent x.place) = true ∧ pad1.cur.storesOut = false
      ∧ (pad1.feSteps true f m1).2 ≠ 0 ∧ (pad1.feSteps false f m1).2 = 0
      ∧ (full.feStep true f { lane := 0, va := 0, place := { kind := 3, pa := 0 } }).isSome = true
      ∧ (pad1.feStep true f { lane := 0, va := 0, place := { kind := 3, pa := 0 } }).isSome = false
      ∧ (pad1.feStep false f { lane := 31, va := 0, place := { kind := 3, pa := 0 } }).isSome = true
      ∧ resFaults m1 ((put pad1 6 1).feRes f fun l => 4 * ((put pad1 6 1).cur.v l 6).toNat) = none :=
  ⟨clear_run rfl rfl rfl rfl rfl rfl rfl rfl rfl, rfl, by decide +kernel⟩
/-- A release fence with a store outstanding, and without one. -/
theorem wit_address_words :
    let s := with_ b1 fun g => { g with outs := [{ default_out with watermarked := true, opkg := 5, packet := { Packet.zero with op := .store 4, dst := 5 } }] }
    b1.Clear { guard := 0, regs := pairRegs 2 ++ [6, 7], reads := pairRegs 2 } m1 ∧ b1.Clear { guard := 0, deliver := releaseFab 7 2 } m1
      ∧ b1.cur.storesOut = false ∧ s.cur.storesOut = true ∧ b1.cur.pending m1 = false
      ∧ (with_ b1 fun g => { g with outs := [{ default_out with lanes := m1 }] }).cur.pending m1 = true ∧ 2 ≤ (2 : BitVec 2).toNat :=
  ⟨clear_run rfl rfl rfl rfl rfl rfl rfl rfl rfl, clear_run rfl rfl rfl rfl rfl rfl rfl rfl rfl, by decide +kernel⟩
/-- An address of each class at its ends: global, private, a scratchpad (the group's, another core's, a sibling's), none; the last word
inside and the first outside; the walks of the translation. -/
theorem wit_classes :
    let s := pad1
    let k (a : Dword) : Nat := s.classOf gid0 a
    let res (s : State) (a : Dword) (write : Bool) : Option Nat := match s.resolve gid0 0 a 4 4 write with | .error c => some c | .ok _ => none
    let leaf (e : Nat) : State := base.wrLe (fetchTables + 0x2000) 8 (lpddrBase + e)
    let walk (s : State) : Nat := match s.translate 0 0 0 0 with
      | .absent => 0
      | .malformed false => 1
      | .malformed true => 2
      | .leaf _ e => 4 + (if pteCA e then 1 else 0) + (if pteW e then 2 else 0)
    k 0x00FFFFFFFFFFFFFF = 0 ∧ k 0x0100000000000000 = 7 ∧ k 0xFE000000FFFFFFFF = 1 ∧ k 0xFE00000100000000 = 7
      ∧ k 0xFD00000000000000 = 2 ∧ k 0xFD00000100000000 = 3 ∧ k 0xFD00009000000000 = 7 ∧ k 0xFC00000000000FFC = 4 ∧ k 0xFC00000100000000 = 7
      ∧ res s 0xFC00000000000FFC true = none ∧ res s 0xFC00000000001000 true = some 9 ∧ res s 0xFD00000000000002 false = some 6
      ∧ res s 0xFE00000000000000 false = some 0x14
      ∧ res (s.setTeam team0 { s.team team0 with psize := 4 }) 0xFE00000000000000 false = none ∧ res s 2 false = some 6
      ∧ walk (leaf 0x1B) = 7 ∧ walk (leaf 0) = 0 ∧ res (leaf 0) 0 false = some 10 ∧ res (leaf 0x1B) 0 true = none
      ∧ walk (leaf 0x05) = 1 ∧ walk (leaf 0x0D) = 2 ∧ walk (leaf 0x13) = 6 ∧ walk (leaf 0x0B) = 5 ∧ res (leaf 0x0B) 0 true = some 11 := by decide +kernel
/-- Read-modify-writes on global words, and on a scratchpad's. -/
theorem wit_atomics :
    let f := xm 6 2
    (.atom f, RmwKind.atom) ∈ [(Instr.atom f, RmwKind.atom), (.red f, .red), (.atomv f, .atomv)]
      ∧ (∀ k ∈ [RmwKind.atom, .red, .atomv],
          b1.Clear { guard := 0, regs := addrRegs f ++ rmwOperands k f, reads := addrRegs f ++ rmwOperands k f, mem := true
                     issues := !rmwReturns k f
                     deliver := rmwReturns k f || (f.scope == 7 && (lanePlaces m1 (b1.rmwRes f 4 true)).any fun x => isRelease f.ord x.place)
                     rel := (lanePlaces m1 (b1.rmwRes f 4 true)).any fun x => isRelease f.ord x.place, region := b1.cur.windowRegion } m1
          ∧ pad1.Clear { guard := 0, regs := addrRegs f ++ rmwOperands k f, reads := addrRegs f ++ rmwOperands k f, mem := true
                         issues := !rmwReturns k f
                         deliver := rmwReturns k f || (f.scope == 7 && (lanePlaces m1 (pad1.rmwRes f 4 true)).any fun x => isRelease f.ord x.place)
                         rel := (lanePlaces m1 (pad1.rmwRes f 4 true)).any fun x => isRelease f.ord x.place } m1)
      ∧ allOk m1 (b1.rmwRes f 4 true) (fun p => p.kind != 3 && p.ac == none) = true
      ∧ (b1.launchOf b1.iss.gid).determ = false ∧ b1.clash (fun _ => true) 4 (lanePlaces m1 (b1.rmwRes f 4 true)) = false
      ∧ b1.cur.window = .free ∧ b1.cur.rem.length < 255
      ∧ ((lanePlaces m1 (b1.rmwRes f 4 true)).any fun x => isRelease f.ord x.place) = false
      ∧ allOk m1 (pad1.rmwRes f 4 true) (fun p => p.kind == 3 && p.ac == none && !pad1.absent p) = true
      ∧ (∀ x ∈ lanePlaces m1 (b1.rmwRes f 4 true), ∀ y ∈ lanePlaces m1 (b1.rmwRes f 4 true), overlaps x.place y.place 4 = true → x.place.pa = y.place.pa) ∧ (2 ^ 32 - 1 : Nat) < 2 ^ 32 :=
  ⟨by simp, fun k _ => by
    cases k <;> exact ⟨clear_run rfl rfl rfl rfl rfl rfl rfl rfl rfl, clear_run rfl rfl rfl rfl rfl rfl rfl rfl rfl⟩, by decide +kernel⟩
/-- `WAITA.eq` on a zero word against zero passes, and against one waits. -/
theorem wit_waita :
    let f := xm 6 2
    let s := put b1 6 1
    b1.Clear { guard := 0, regs := addrRegs f ++ [6], reads := addrRegs f ++ [6], mem := true } m1 ∧ b1.iss.issued = false
      ∧ b1.clash (fun _ => false) 4 (lanePlaces m1 (b1.rmwRes f 4 false)) = false
      ∧ Reached b1 m1 (b1.rmwRes f 4 false) ∧ Uncounted m1 (b1.rmwRes f 4 false)
      ∧ m1 &&& ~~~b1.waitaDone f m1 = 0 ∧ m1 &&& ~~~s.waitaDone f m1 ≠ 0 :=
  ⟨clear_run rfl rfl rfl rfl rfl rfl rfl rfl rfl, rfl, by decide +kernel, reached_of (by decide +kernel), uncounted_of (by decide +kernel), by decide +kernel⟩

/-! ### Witnesses: synchronisation -/

/-- The same launch with two groups a team: this one has arrived once, the other not. -/
def twoBase : State := with_ (base.setLaunch 0x10 { base.launch 0x10 with groups := 2 }) fun g => { g with arT := 1, arC := 1 }

/-- A barrier that all have met, and one that the other group has not; each with and without an arrival that stands from before. -/
theorem wit_barriers :
    let meet (u : State) (cl : Bool) : Prop := u.cur.arrivals cl = u.cur.departures cl
      ∨ ∀ k ∈ u.participants u.iss.gid cl, u.arrived cl (u.cur.arrivals cl) k = true
    let n : Needs := { guard := 0, coll := true, region := true, mem := true, rel := true }
    (base.Clear n allLanes ∧ base.iss.issued = false ∧ base.cur.canBegin = true ∧ meet base false ∧ meet base true ∧ base.cur.inBar = false
        ∧ meet (base.barArrive false) false)
      ∧ (twoBase.Clear n allLanes ∧ twoBase.iss.issued = false ∧ twoBase.cur.canBegin = true ∧ ¬ meet twoBase false ∧ ¬ meet twoBase true)
      ∧ (let s := with_ base fun g => { g with inBar := true, arT := 1 }
         s.Clear n allLanes ∧ s.cur.canBegin = true ∧ s.cur.inBar = true ∧ meet s false)
      ∧ (let s := with_ twoBase fun g => { g with inBar := true }
         s.cur.inBar = true ∧ s.cur.canBegin = true ∧ ¬ meet s false)
      ∧ (let s := with_ twoBase fun g => { g with arT := 0 }
         meet s false ∧ ¬ meet (s.barArrive false) false) :=
  ⟨⟨base_clear _ rfl rfl rfl rfl, by decide +kernel⟩, ⟨clear_of rfl rfl rfl rfl rfl rfl rfl rfl rfl, by decide +kernel⟩,
    ⟨clear_of rfl rfl rfl rfl rfl rfl rfl rfl rfl, by decide +kernel⟩, by decide +kernel⟩

/-- A watermarked request outstanding keeps a region from beginning. -/
def watermarkedOut : OutReq := { default_out with watermarked := true, opkg := 5, packet := { Packet.zero with op := .store 4, dst := 5 } }
/-- Team 1 of a deterministic launch of two teams. -/
def gid1 : Nat := groupKey (teamKey 0x10 1) 0
def ordBase (ends : Nat) : State :=
  let s := base.setLaunch 0x10 { base.launch 0x10 with determ := true, teams := 2 }
  let s := s.setTeam team0 { s.team team0 with ends }
  let s := s.setGroup gid1 { s.group gid0 with team := teamKey 0x10 1 }
  { s with iss := { s.iss with gid := gid1 } }

theorem wit_regions :
    let s := with_ base fun g => { g with outs := [watermarkedOut] }
    let n : Needs := { guard := 0, coll := true, region := true, deliver := true }
    (base.Clear { n with regs := [255] } allLanes ∧ base.Clear { n with mem := true, rel := true } allLanes ∧ base.cur.canBegin = true ∧ base.iss.gid ∈ base.groupsOf team0
        ∧ { base.cur with first := 0, last := 255, noLive := false }.canBegin = true)
      ∧ (s.Clear n allLanes ∧ s.cur.canBegin = false)
      ∧ (let w := with_ base fun g => { g with outs := [{ default_out with watermarked := true, packet := { Packet.zero with op := .launch 0 0 },
                                                                            lanes := 0 }] }
         w.Clear { n with mem := true, rel := true } allLanes ∧ w.cur.canBegin = false)
      ∧ (∀ e ∈ [0, 1], (ordBase e).Clear { guard := 0, regs := [1], reads := [1], coll := true } allLanes)
      ∧ (let l := (ordBase 0).launchOf gid1
         l.determ = true ∧ ((ordBase 0).cur.v 0 1).toNat < teamIndex (groupTeam gid1)
           ∧ ((ordBase 1).team (teamKey l.handle 0)).ends = l.groups ∧ ((ordBase 0).team (teamKey l.handle 0)).ends ≠ l.groups)
      ∧ ((base.launchOf gid0).determ = false ∧ base.Clear { guard := 0, regs := [1], reads := [1], coll := true } allLanes) := by
  refine ⟨⟨base_clear _ rfl rfl rfl rfl, base_clear _ rfl rfl rfl rfl, by decide +kernel⟩,
    ⟨clear_of rfl rfl rfl rfl rfl rfl rfl rfl rfl, by decide +kernel⟩, ⟨⟨?_, ?_, ?_, ?_, ?_, ?_, rfl, ?_, ?_, ?_, ?_, ?_, ?_⟩, by decide +kernel⟩,
    ?_, by decide +kernel, by decide +kernel, base_clear _ rfl rfl rfl rfl⟩
  iterate 12 decide +kernel
  intro e he
  exact clear_of rfl rfl rfl rfl rfl rfl rfl rfl rfl

/-- A reservation of one granule, with a record of FP32, 4 by 4, leading dimension 4. -/
def rec32 : Dword := BitVec.ofNat 64 (1 * 2 ^ 60 + 3 * 2 ^ 42 + 3 * 2 ^ 34 + 4 * 2 ^ 18)
def resv (n : Nat) (r : Dword) : Resv :=
  { handle := BitVec.ofNat 32 n, launch := 0x10, team := team0, granule := 8 * n, count := 1, record := r, save := 0, saved := [] }
def withResvs (s : State) (xs : List Resv) : State := s.setQuad 0 { s.quad 0 with resvs := xs }
/-- A full queue: as many vectors of this launch as fit. -/
def fullQueue (s : State) : State :=
  s.setCore 0 { s.core 0 with queue := List.replicate 64 { sender := 0, launch := 0x10, words := zeroRow } }

/-- Vectors sent to member 0 (mask 1) and to the reservation (mask 16, the last row of its granule); full and empty queues. -/
theorem wit_queues :
    let f := xe 1 2 3 4
    let s := put base 1 1
    let u := put (put (put (withResvs base [resv 1 rec32]) 1 16) 3 1) 4 31
    let n (s : State) : Needs := { guard := 0, regs := [1, 2, 3, 4], region := true, mem := true, rel := true, reads := [2]
                                   lane0 := 1 :: if (s.cur.v 0 1).getLsbD 4 then [3, 4] else [] }
    (s.Clear (n s) allLanes ∧ s.cur.canBegin = true ∧ s.qRoom f = true ∧ (s.cur.v 0 1).getLsbD 4 = false ∧ s.iss.issued = false)
      ∧ (u.Clear (n u) allLanes ∧ (u.cur.v 0 1).getLsbD 4 = true ∧ u.qRoom f = true ∧ u.resvOf u.iss.gid (u.cur.v 0 3) = some (resv 1 rec32)
          ∧ 128 * (u.cur.v 0 4).toNat + 128 ≤ (resv 1 rec32).count * 4096)
      ∧ (fullQueue s).qRoom f = false
      ∧ (base.Clear { guard := 0, regs := [1], region := true, mem := true, after := true } allLanes ∧ ∀ v ∈ (base.core 0).queue, v.sender ≠ 0)
      ∧ (fullQueue s).Clear { guard := 0, regs := [1], region := true, mem := true, after := true } allLanes
      ∧ (((fullQueue s).core 0).queue.head?.map fun v => (v.sender, v.launch)) = some (0, keyHandle (groupTeam gid0)) :=
  ⟨⟨clear_of rfl rfl rfl rfl rfl rfl (by decide +kernel) rfl rfl, by decide +kernel⟩,
    ⟨clear_of rfl rfl rfl rfl rfl rfl (by decide +kernel) rfl rfl, by decide +kernel⟩, by decide +kernel,
    ⟨base_clear _ rfl rfl rfl rfl, by decide +kernel⟩, clear_of rfl rfl rfl rfl rfl rfl rfl rfl rfl, by decide +kernel⟩

/-! ### Witnesses: copies, tables, counters -/

/-- A copy of 16 bytes to global memory, in a team that does not hold and in one that does; an `.ob` copy to no reservation and one
to a granule; `CPYP` of a type that it does not take and of FP64; 255 copies outstanding. -/
theorem wit_copies :
    let f := xe 2 4 6 0
    let g := { f with flags := 1 }
    let s := put base 6 16
    let held := with_ s fun x => { x with hold := true }
    let ob := put (withResvs s [resv 1 rec32]) 2 1
    let p := put s 7 12
    let n (k : List Nat) : Needs := { guard := 0, regs := [2, 3, 4, 5] ++ k, reads := [2, 3, 4, 5] ++ k, after := true }
    (s.Clear (n [6]) allLanes ∧ s.cur.copies.length < 255 ∧ (s.mkCopy f 0 0).ob = false
        ∧ s.linesFull (s.copyLines gid0 (s.mkCopy f 0 0) 0 16) = false ∧ (s.cur.hold && s.copyGlobal gid0 (s.mkCopy f 0 0)) = false)
      ∧ (held.Clear { n [6] with region := true, deliver := true } allLanes ∧ (held.cur.hold && held.copyGlobal gid0 (held.mkCopy f 0 0)) = true
          ∧ held.cur.mayCommit = true)
      ∧ s.obReason gid0 (s.mkCopy g 0 0) = some 1 ∧ (s.mkCopy g 0 0).ob = true
      ∧ (ob.obReason gid0 (ob.mkCopy g 0 0) = none ∧ ob.Clear (n [6]) allLanes)
      ∧ cpypBad (s.mkCopy f 3 0) = true ∧ s.Clear (n [6, 7]) allLanes ∧ cpypBad (p.mkCopy f 3 0) = false
      ∧ 255 ≤ (with_ s fun x => { x with copies := List.replicate 255 (s.mkCopy f 0 0) }).cur.copies.length
      ∧ s.Clear (n [6, 7, 8, 9]) allLanes :=
  ⟨⟨clear_of rfl rfl rfl rfl rfl rfl rfl rfl rfl, by decide +kernel⟩, ⟨clear_of rfl rfl rfl rfl rfl rfl rfl rfl rfl, by decide +kernel⟩,
    by decide +kernel, by decide +kernel, ⟨by decide +kernel, clear_of rfl rfl rfl rfl rfl rfl rfl rfl rfl⟩, by decide +kernel,
    clear_of rfl rfl rfl rfl rfl rfl rfl rfl rfl, by decide +kernel, by decide +kernel, clear_of rfl rfl rfl rfl rfl rfl rfl rfl rfl⟩

/-- The code table of one symbol, of length 1, stands at address 0; the one at 0x100 is empty. -/
def tableBase : State :=
  let s := (base.wrLe lpddrBase 8 0x00010100).wrLe (lpddrBase + 0x10) 1 1
  { s with caps := [{ id := 6, version := 1, payload := 1 }] }
theorem wit_tables :
    let n : Needs := { guard := 0, regs := [2, 3], reads := [2, 3], mem := true }
    let hd := (tableBase.peek 0 0 0x20).getD []
    let bs := (tableBase.peek 0 0 (tableSize hd)).getD []
    tableBase.Clear n allLanes ∧ tableBase.iss.issued = false ∧ tableBase.cur.unknowns = [] ∧ tableBase.slotBusy 0 = false
      ∧ tableBase.clash (fun _ => false) 16 (tableBase.blockAccs 0 0 256) = false ∧ (∀ x ∈ tableBase.blockAccs 0 0 256, x.place.ac = none)
      ∧ tableBase.byteFault 0 0 0x20 = none ∧ tableBase.peek 0 0 0x20 = some hd ∧ tableBase.peek 0 0 (tableSize hd) = some bs
      ∧ parseTable tableBase.formats bs = some { nibble := false, maxLen := 1, counts := [1, 0, 0, 0, 0, 0, 0, 0, 0, 0, 0, 0, 0, 0, 0], syms := [0] }
      ∧ (tableBase.peek 0 0x100 0x20).map (parseTable tableBase.formats) = some none
      ∧ tableBase.byteFault 0 0 256 = none ∧ (tableBase.peek 0 0 256).isSome = true
      ∧ tableBase.byteFault 0 16 256 = none :=
  ⟨clear_of rfl rfl rfl rfl rfl rfl rfl rfl rfl, by decide +kernel⟩

def failure (seq : Nat) : Deferred := { seq, cause := 0x12, addr := 5, pc := fetchVa, lanes := allLanes }
def unknownRem : Unknown := { serial := 0, op := 0, wm := true, reason := 1, lanes := 1, pc := fetchVa, va := 0, regs := [], cls := some (3, 0), seq := 0, data := [] }
/-- Each class with nothing outstanding, with an operation outstanding, and with a failure that `WAITC 0` covers. -/
theorem wit_counters :
    let f (cls : BitVec 3) : XE := { xe 0 0 0 0 with flags := cls }
    let s := with_ base fun g => { g with copyFails := [failure 0], nCopy := 1, tileFail := some (failure 0), nTile := 1, nRem := 1,
                                          unknowns := [unknownRem] }
    let u := with_ base fun g => { g with rem := [{ serial := some 0, seq := 0, done := false }] }
    base.Clear { guard := 0 } allLanes ∧ base.Clear { guard := 1 } 0 ∧ base.Clear { guard := 0, regs := [0] } allLanes
      ∧ u.Clear { guard := 0 } allLanes ∧ 0 < u.cur.rem.length ∧ (f 3).flags.toNat = 3
      ∧ s.cur.copyFails = [] ++ failure 0 :: [] ∧ (failure 0).seq + 0 < s.cur.nCopy ∧ s.cur.tileFail = some (failure 0)
      ∧ (failure 0).seq + 0 < s.cur.nTile ∧ s.cur.unknowns = [] ++ unknownRem :: [] ∧ unknownRem.cls = some (3, 0) ∧ 0 + 0 < s.cur.nRem
      ∧ s.cur.unknowns.find? (({ guard := 0 } : Needs).delivers allLanes) = none :=
  ⟨base_clear _ rfl rfl rfl rfl, base_none _ rfl rfl rfl rfl, base_clear _ rfl rfl rfl rfl, clear_of rfl rfl rfl rfl rfl rfl rfl rfl rfl, by decide +kernel⟩
/-- `WAITC` with a failure, or an unknown outcome of a `.rem` operation, waiting. -/
theorem wit_counters_clear :
    let s := with_ base fun g => { g with copyFails := [failure 0], nCopy := 1, tileFail := some (failure 0), nTile := 1 }
    let u := with_ base fun g => { g with unknowns := [unknownRem], nRem := 1 }
    s.Clear { guard := 0 } allLanes ∧ u.Clear { guard := 0 } allLanes := by
  refine ⟨clear_of rfl rfl rfl rfl rfl rfl rfl rfl rfl, ⟨?_, ?_, ?_, ?_, ?_, ?_, rfl, ?_, ?_, ?_, ?_, ?_, ?_⟩⟩ <;> decide +kernel

/-! ### Witnesses: the matrix engine -/

/-- Reservations 1 and 2 of FP32; a pass of this group. -/
def matBase : State := withResvs base [resv 1 rec32, resv 2 rec32]
def passOf (s : State) : State :=
  s.setQuad 0 { s.quad 0 with pass := some { gid := gid0, left := 4, readyAt := 0, ops := [], locked := [] } }

/-- Sizes 0, 4096 and too large; a reservation that is there, one that is not, one of another team, one that a copy names; records
that fit, that are no record, and that are too large. -/
theorem wit_reservations :
    let s := put matBase 1 1
    let f := xe 1 2 3 0
    let n : Needs := { guard := 0, regs := [1, 2], reads := [2], coll := true }
    let busy := with_ s fun g => { g with copies := [{ s.mkCopy { f with flags := 1 } 0 0 with ob := true, handle := 1 }] }
    base.Clear n allLanes ∧ (base.cur.v 0 2).toNat = 0 ∧ ((put base 2 1835009).cur.v 0 2).toNat = 1835009
      ∧ (put base 2 4096).Clear n allLanes
      ∧ (withResvs base (List.replicate 64 (resv 1 rec32))).reserve gid0 4096 = none
      ∧ s.Clear { guard := 0, regs := [1], reads := [1], coll := true } allLanes ∧ base.resvOf gid0 (base.cur.v 0 1) = none
      ∧ s.resvOf gid0 (s.cur.v 0 1) = some (resv 1 rec32) ∧ (resv 1 rec32).team = team0 ∧ s.handleBusy gid0 1 = false ∧ busy.handleBusy gid0 1 = true
      ∧ (withResvs s [{ resv 1 rec32 with team := team0 + 1 }]).resvOf gid0 1 = some { resv 1 rec32 with team := team0 + 1 }
      ∧ s.Clear { guard := 0, regs := [1, 2, 3], reads := [1, 2, 3], coll := true } allLanes
      ∧ recReason (resv 1 rec32) rec32 = none ∧ recReason (resv 1 rec32) unsetRec = some 2
      ∧ recReason (resv 1 rec32) (BitVec.ofNat 64 (1 * 2 ^ 60 + 255 * 2 ^ 42 + 255 * 2 ^ 34 + 256 * 2 ^ 18)) = some 4 :=
  ⟨base_clear _ rfl rfl rfl rfl, by decide +kernel, by decide +kernel, clear_of rfl rfl rfl rfl rfl rfl rfl rfl rfl, by decide +kernel,
    clear_of rfl rfl rfl rfl rfl rfl rfl rfl rfl, by decide +kernel, by decide +kernel, rfl, by decide +kernel, by decide +kernel, by decide +kernel,
    clear_of rfl rfl rfl rfl rfl rfl rfl rfl rfl, by decide +kernel⟩

/-- A span of 4 by 4, with and without a pass, and with 255 operations outstanding; `MWR.mem` of one element to address 0. -/
theorem wit_matrix_issues :
    let s := put (put (put matBase 1 1) 2 4) 3 4
    let f := xe 8 1 2 0
    let g := xe 1 8 2 0
    let full := with_ s fun x => { x with mats := List.replicate 255 { id := 0, kind := .mzero, b := 0, c := 1, recB := 0, recC := 0, pc := 0, serial := none, order := 0 } }
    let one := put (put (put matBase 6 1) 8 1) 9 1
    let h := xe 4 6 8 7
    let regs := [4, 5, 6, 7, 8, 9]
    ((match s.spanCheck (s.cur.v 0 1) 2 8 with | .ok x => x.2 | .error _ => (0, 0)) = (4, 4))
      ∧ (∃ r, s.spanCheck (s.cur.v 0 1) 2 8 = .ok (r, 4, 4))
      ∧ s.Clear { guard := f.guard, regs := [8, 1, 2, 3], reads := [1, 2, 3], coll := true, after := true } allLanes
      ∧ s.Clear { guard := g.guard, regs := [8, 1, 2, 3], reads := [1, 2, 3] ++ range' 8 4, coll := true, after := true } allLanes
      ∧ s.holdsPass gid0 = false ∧ (passOf s).holdsPass gid0 = true ∧ (passOf s).Clear { guard := 0, regs := [8, 1, 2, 3], reads := [1, 2, 3], coll := true, after := true } allLanes
      ∧ full.cur.mats.length = 255 ∧ (∃ r, s.setRecord gid0 (s.cur.v 0 1) = .ok r) ∧ s.Clear { guard := 0, regs := [1], reads := [1], coll := true, after := true } allLanes
      ∧ (∃ r n xs, one.memCheck h = .ok (r, 1, n, xs) ∧ (xs.all fun a => !one.absent a.place && a.place.ac == none) = true)
      ∧ one.Clear { guard := 0, regs, reads := regs, coll := true, after := true } allLanes ∧ one.cur.hold = false :=
  ⟨by decide +kernel, ⟨_, rfl⟩, clear_of rfl rfl rfl rfl rfl rfl rfl rfl rfl, clear_of rfl rfl rfl rfl rfl rfl rfl rfl rfl, by decide +kernel, by decide +kernel,
    clear_of rfl rfl rfl rfl rfl rfl rfl rfl rfl, by decide +kernel, ⟨_, rfl⟩, clear_of rfl rfl rfl rfl rfl rfl rfl rfl rfl,
    ⟨_, _, _, rfl, by decide +kernel⟩, clear_of rfl rfl rfl rfl rfl rfl rfl rfl rfl, rfl⟩

/-- The package once placed memory is given: the pools have room. -/
def poolBase (s : State) : State := { s with image := { s.image with placed := 512 } }
theorem wit_reserve : ((put (poolBase base) 2 4096).reserve gid0 4096).isSome = true := by decide +kernel

/-- `MMA` 4 by 4 by 4 on reservations 1 and 2: B is 1, C is 2, the sizes in v4 to v6. -/
def mmaBase : State := put (put (put (put (put matBase 2 1) 3 2) 4 4) 5 4) 6 4
def heldIn (s : State) (g : Nat) : State := s.setSlot 0 { s.slot 0 with heldA := some { gid := g, va := 8, fmt := 1, k := 4, rows := [] } }
theorem wit_mma :
    let f := xe 8 2 3 4
    let s := mmaBase
    let n : Needs := { guard := 0, regs := [8, 2, 3, 4, 5, 6], reads := [2, 3, 4, 5, 6] ++ range' 8 4, coll := true, after := true }
    let rb := matRec rec32
    (s.Clear n allLanes ∧ s.resvOf gid0 (s.cur.v 0 2) = some (resv 1 rec32) ∧ s.resvOf gid0 (s.cur.v 0 3) = some (resv 2 rec32)
        ∧ rb.ok = true ∧ (rb.fmt, rb.fmt, 128) ∈ [(0, 0, 64), (1, 1, 128), (2, 1, 256), (3, 1, 256), (4, 1, 256)]
        ∧ (s.cur.v 0 4).toNat = 4 ∧ 4 ≤ rb.rows ∧ 4 ≤ rb.cols ∧ f.e0.toNat + rowSpan rb.fmt 4 ≤ s.cur.nregs ∧ s.cur.v 0 2 ≠ s.cur.v 0 3
        ∧ s.heldOf gid0 = none ∧ s.holdsPass gid0 = false ∧ s.cur.mats.length < 255)
      ∧ ((passOf s).holdsPass gid0 = true ∧ (passOf s).Clear n allLanes)
      ∧ ((heldIn (passOf s) gid0).heldOf gid0).isSome = true
      ∧ (heldIn s gid0).Clear { guard := 0, regs := [8, 2, 3, 4, 5, 6], reads := [2, 3, 4, 5, 6], coll := true, after := true } allLanes
      ∧ (heldIn s gid1).Clear n allLanes ∧ (heldIn s gid1).heldOf gid0 = none :=
  ⟨⟨clear_of rfl rfl rfl rfl rfl rfl rfl rfl rfl, by decide +kernel⟩, ⟨by decide +kernel, clear_of rfl rfl rfl rfl rfl rfl rfl rfl rfl⟩, by decide +kernel,
    clear_of rfl rfl rfl rfl rfl rfl rfl rfl rfl, clear_of rfl rfl rfl rfl rfl rfl rfl rfl rfl, by decide +kernel⟩
/-- An operation of each kind on reservation 2, and a late result of `MRD`'s. -/
theorem wit_matrix_results :
    let s := with_ matBase fun g => { g with late := [{ serial := 7, owner := none, dst := [], regs := [], rows := [], ready := false }] }
    let rc := matRec rec32
    s.resvOf gid0 2 = some (resv 2 rec32) ∧ s.resvOf gid0 1 = some (resv 1 rec32) ∧ rc.fmt ≤ 3 ∧ rc.rows ≤ rc.ld ∧ rc.rows = 4 ∧ rc.cols = 4
      ∧ (∃ z ∈ (s.group gid0).late, z.owner = none ∧ z.serial = BitVec.ofNat 32 7) := by decide +kernel

/-! ### Witnesses: tiles -/

/-- A dense deckle of one FP64 element at address 0x40; elsewhere memory is zero, which is a zero tile's deckle. -/
def tileBase : State :=
  let s := (base.wrLe (lpddrBase + 0x40) 8 (2 ^ 62)).wrLe (lpddrBase + 0x48) 8 0x200
  put (put s 2 0) 4 0x40
def oldTile : TileOp := { id := 0, seq := 0, kind := .tzero, c := 0, a := 0, b := 0, flags := 0, pages := [], armed := 0, pc := fetchVa, serial := none, order := 0 }
/-- Whether the issue checks of a tile word at the addresses given pass, and the cause where they do not. -/
def checkCode (s : State) (k : TileKind) (as : List Dword) : Option (Option Nat) :=
  (s.tileKnown k 0 as).map fun x => (errorsOf [x]).head?.map (·.1)

theorem wit_tile_issues :
    let s := tileBase
    let n (rs : List Nat) : Needs := { guard := 0, regs := rs, reads := rs, coll := true, after := true }
    (s.Clear (n [2, 3]) allLanes ∧ s.Clear (n [2, 3, 4, 5]) allLanes ∧ s.Clear (n [2, 3, 4, 5, 6, 7]) allLanes ∧ s.iss.issued = false)
      ∧ s.Clear { guard := 0, regs := range' 8 4 ++ [2, 3], reads := [2, 3], coll := true, after := true } allLanes
      ∧ s.cur.tiles = [] ∧ s.holdsPass gid0 = false ∧ (passOf s).holdsPass gid0 = true ∧ s.cur.hold = false
      ∧ (with_ s fun g => { g with tiles := [oldTile] }).cur.tiles ≠ []
      ∧ lowestFault (errorsOf (s.deckAddrs gid0 [16])) = some (0x06, 16) ∧ lowestFault (errorsOf (s.deckAddrs gid0 [0, 0x40])) = none
      ∧ checkCode s .tzero [0] = some none ∧ checkCode s .tmac [0, 0, 0] = some none ∧ checkCode s .tlu [0x40] = some none
      ∧ checkCode s .ttrs [0, 0x40] = some none ∧ checkCode s .tlu [0] = some (some 0x0E)
      ∧ (errorsOf [s.tsampPages 0]).isEmpty ∧ (errorsOf [s.tsampPages 0x80]).isEmpty ∧ (errorsOf [s.tsampPages 4]).isEmpty = false
      ∧ errorsOf [s.deckAddr gid0 0 false 0x07] = [] :=
  ⟨⟨clear_of rfl rfl rfl rfl rfl rfl rfl rfl rfl, clear_of rfl rfl rfl rfl rfl rfl rfl rfl rfl, clear_of rfl rfl rfl rfl rfl rfl rfl rfl rfl, rfl⟩, clear_of rfl rfl rfl rfl rfl rfl rfl rfl rfl, by decide +kernel⟩

/-- An extent of two units of class 0 at address 0; a pool with a block of class 1 free. -/
theorem wit_tile_pools :
    let s := put (poolBase base) 4 0x20000
    let n : Needs := { guard := 0, regs := [2, 3, 4], reads := [2, 3, 4], coll := true }
    let x : Extent := { base := 0, top := 1, units := 1, die := 0, area := 0, far := false, free := [(1, 0)], used := [] }
    let full := s.setTeam team0 ((s.team team0).setPool 0 (List.replicate 8 x))
    s.Clear n allLanes
      ∧ s.Clear { guard := 0, coll := true } allLanes
      ∧ s.tpoolFault 0 0 0x20000 = none ∧ (s.tpoolFault 0 1 0x20000).isSome = true ∧ 8 ≤ ((full.team team0).pool 0).length
      ∧ (∀ k ∈ s.groupsOf team0, (s.group k).tiles = [])
      ∧ (∃ k ∈ s.groupsOf team0, ((with_ s fun g => { g with tiles := [oldTile] }).group k).tiles ≠ [])
      ∧ poolTake [x] 0 = some ([{ x with free := [(0, 256)], used := [(0, 0)] }], 0) :=
  ⟨clear_of rfl rfl rfl rfl rfl rfl rfl rfl rfl, clear_of rfl rfl rfl rfl rfl rfl rfl rfl rfl, by decide +kernel⟩
/-- A group with one tile operation, named by the event; one tile of each kind with lists of its rank. -/
theorem wit_tile_execution :
    let s := { with_ base fun g => { g with tiles := [oldTile] } with inp := { base.inp with gid := gid0 } }
    (s.group s.inp.gid).tiles = oldTile :: [] ∧ (base.group gid1).tiles = [] ∧ (s.team team0).ended = false ∧ s.inp.bad = false := by decide +kernel

/-! ### Witnesses: updates, counted lines, launches, special state -/

/-- The planes of the page in plane form; the parameter record at 0x1000 × 0 = 0. -/
theorem wit_updates :
    let s := plane1
    let regs := [2, 3, 6, 8, 9]
    s.Clear { guard := 0, regs, reads := regs, region := s.cur.windowRegion, mem := true, issues := true } m1 ∧ ((List.range 8).all fun k => placeOk (s.resolve gid0 31 (BitVec.ofNat 64 (8 * k)) 8 8 false) fun _ => true) = true
      ∧ ((List.range 4).all fun b => placeOk (s.resolve gid0 31 (BitVec.ofNat 64 (b * 16)) 1 1 false) fun p => p.kind != 2 && !s.absent p && !s.bad p) = true
      ∧ s.cur.v64 31 8 = 0 ∧ s.clash (fun _ => true) 2 (lanePlaces m1 (s.planeRes 2 0 (optPlanes true false) 2 2 true)) = false
      ∧ (s.peek 31 0 64).isSome = true ∧ s.cur.unknowns = [] ∧ allOk m1 (s.planeRes 2 0 (optPlanes true false) 2 2 true) (fun _ => true) = true
      ∧ s.lastSerial = false ∧ s.cur.rem.length < 255 ∧ s.cur.window = .free :=
  ⟨clear_run rfl rfl rfl rfl rfl rfl rfl rfl rfl, by decide +kernel⟩
theorem wit_counted_lines :
    let n : Needs := { guard := 0, regs := [6, 2, 3, 4, 5], reads := [2, 3, 4, 5], mem := true, keys := guardRegs 0 ++ [4] }
    (match (base.lineRes 2 0).2 with | .ok p => p.kind | .error _ => 9) = 0 ∧ base.Clear n allLanes ∧ lineBad 0 = false ∧ lineBad 0x1000 = true
      ∧ base.Clear { guard := 0, regs := [2, 3, 4, 5, 6], reads := [2, 3, 4, 5, 6], region := base.cur.windowRegion, mem := true, issues := true } allLanes
      ∧ base.cur.late.find? Late.isHidden = none
      ∧ base.clash (fun _ => true) 256 (lanePlaces 1 (base.lineRes 2)) = false
      ∧ base.lastSerial = false ∧ base.cur.rem.length < 255 ∧ base.cur.window = .free :=
  ⟨by decide +kernel, base_clear _ rfl rfl rfl rfl, by decide +kernel, by decide +kernel, base_clear _ rfl rfl rfl rfl, by decide +kernel⟩
/-- Service 3 present and absent, with and without a store outstanding; a launch record in class 0 and one in a scratchpad. -/
theorem wit_special :
    let s := { base with caps := [{ id := 0x8003, version := 1, payload := 0 }] }
    let w := with_ s fun g => { g with outs := [watermarkedOut] }
    base.Clear { guard := 0, regs := [6] } allLanes ∧ base.Clear { guard := 0, regs := [6, 7] } allLanes
      ∧ base.Clear { guard := 0, regs := [7], reads := [7], drain := true } allLanes
      ∧ base.Clear { guard := 0, regs := [6, 7, 8, 9, 10], reads := [8, 9, 10] } allLanes
      ∧ s.Clear { guard := 0, regs := [6, 7, 8, 9, 10], reads := [8, 9, 10], mem := true, rel := true } allLanes
      ∧ w.Clear { guard := 0, regs := [6, 7, 8, 9, 10], reads := [8, 9, 10] } allLanes ∧ w.cur.pending 1 = true
      ∧ base.Clear { guard := 0, regs := [6, 8, 9], reads := [8, 9], region := true && base.cur.windowRegion, mem := true, issues := true } allLanes
      ∧ base.unitOf 0 = 64 ∧ base.cur.units = []
      ∧ base.hasService 0x8003 = false ∧ s.hasService 0x8003 = true ∧ s.cur.storesOut = false ∧ w.cur.storesOut = true
      ∧ base.classOf gid0 0 = 0 ∧ base.classOf gid0 0xFC00000000000000 ≠ 0 ∧ base.cur.awaits [] allLanes = false :=
  ⟨base_clear _ rfl rfl rfl rfl, base_clear _ rfl rfl rfl rfl, base_clear _ rfl rfl rfl rfl, base_clear _ rfl rfl rfl rfl,
    clear_of rfl rfl rfl rfl rfl rfl rfl rfl rfl, clear_of rfl rfl rfl rfl rfl rfl rfl rfl rfl, by decide +kernel, base_clear _ rfl rfl rfl rfl, by decide +kernel⟩

/-! ### Witnesses: traps -/

def hbase : State := base.setLaunch 0x10 { base.launch 0x10 with handler := 0x400100 }
def inHandler (s : State) : State := with_ s fun g => { g with handler := some { pcs := g.pcs, waiting := 0, stood := [], latches := [], lvalid := 0, entered := allLanes } }
theorem wit_traps :
    (hbase.launchOf gid0).handler ≠ 0 ∧ hbase.cur.handler = none ∧ (base.launchOf gid0).handler = 0 ∧ (inHandler hbase).cur.handler ≠ none
      ∧ (base.launchOf gid0).state = .running ∧ base.cur.live = true ∧ (base.die 0).logFull = false ∧ (base.die 0).logWait = [] := by decide +kernel
theorem wit_trap_return :
    let s := inHandler hbase
    (∃ h, s.cur.handler = some h ∧ s.iss.run = h.entered &&& ~~~s.cur.exited ∧ (one s).iss.run ≠ h.entered &&& ~~~s.cur.exited)
      ∧ hbase.cur.handler = none ∧ (∀ k, k < 12 → (s.cur.mask k).arrived = 0)
      ∧ (∃ t : TrapState, t.cause = 0x12 ∧ t.info = 3) ∧ (∃ t : TrapState, t.cause = 0x10) ∧ (3 : Nat) < 0xFFFFFF :=
  ⟨⟨_, rfl, by decide +kernel⟩, by decide +kernel, by decide +kernel, ⟨{ cause := 0x12, info := 3 }, rfl, rfl⟩, ⟨{ cause := 0x10 }, rfl⟩, by decide⟩

/-! ### Witnesses: control cores, launches, the package -/

/-- A state with the inputs of an event. -/
def ev (s : State) (i : Input) : State := { s with inp := i }
/-- A powered package, and one with every die in a stage. -/
def staged (k : Nat) : State := (List.range 4).foldl (fun s d => s.enter d k) State.reset
def readyPkg : State := { staged 9 with ready := true, eth := [{ up := true }, { up := true }] }

/-- A hart in each mode; launches in each state: 0x10 runs with a resident team, the others are queued, ending, ended. -/
def launched : State :=
  let put (s : State) (h : Word) (x : LaunchState) : State := s.setLaunch h { base.launch 0x10 with state := x, handle := h }
  put (put (put base 0x20 .queued) 0x30 .ending) 0x40 .ended
theorem wit_kelren :
    let s := launched
    (∀ x ∈ [HartMode.m, .s, .u, .vs, .vu], ((s.setHart 0 { s.hart 0 with mode := x }).hart s.iss.hart).mode = x)
      ∧ (s.launch 0).state = .none ∧ (s.launch 0x10).state = .running ∧ (s.launch 0x20).state = .queued ∧ (s.launch 0x30).state = .ending
      ∧ (s.launch 0x40).state = .ended ∧ (s.launch 0x10).teams = 1 ∧ (s.team team0).resident = true ∧ (s.team team0).ended = false
      ∧ ((s.setTeam team0 { s.team team0 with resident := false }).team team0).resident = false := by decide +kernel

/-- A launch record at address 0x800, one team of one group in queue 0, and a grant of queue 0 to context 0. -/
def recordBase : State :=
  let s := base.wrLe (lpddrBase + 0x800) 8 0x400000
  let s := s.wrLe (lpddrBase + 0x820) 8 (1 + (1 * 2 ^ 24 + 15 * 2 ^ 20 + 1 * 2 ^ 16 + 1 * 2 ^ 12) * 2 ^ 32)
  s.wrLe (fetchContexts + 24) 8 1
theorem wit_acceptance :
    let s := recordBase
    s.ctxValid 0 = true ∧ s.ctxValid 1 = false ∧ (s.unitRead 0 0 0x800 64 0x102).isSome = true ∧ s.unitRead 0 0 0x40000000 64 0x102 = none
      ∧ ((s.unitRead 0 0 0x800 64 0x102).map fun r => (launchOfRecord r).fieldsOk) = some true
      ∧ ((s.unitRead 0 0 0 64 0x102).map fun r => (launchOfRecord r).fieldsOk) = some false
      ∧ s.ctxGrant 0 0 = true ∧ base.ctxGrant 0 0 = false ∧ (s.handleRoom 0).isSome = true ∧ (tabGet [] s.queues 0).length < 256 := by decide +kernel

/-- Every die in each stage; slots that do not verify (that one verifies rests on the signature, which is opaque here, assumption 24). -/
theorem wit_bring_up :
    let image (d : Nat) : State := ev (staged 2) { die := d }
    (∀ e, e < 4 → (State.reset.die e).stage = 0) ∧ (∀ k ∈ [1, 2, 3, 4, 5, 6, 7, 8], ∀ d, d < 4 → (staged k).inStage d k = true)
      ∧ (match (image 0).bootSlot with | .error e => e | .ok _ => 0) ≠ 0 ∧ (staged 4).inStage 3 4 = true ∧ 3 ≤ ((staged 4).die 0).stage
      ∧ ((staged 4).die 1).slot = ((staged 4).die 0).slot
      ∧ ((((staged 4).setDie 1 { (staged 4).die 1 with slot := 1 }).die 1).slot ≠ (((staged 4).setDie 1 { (staged 4).die 1 with slot := 1 }).die 0).slot)
      ∧ (∀ e, e < 4 → (staged 5).inStage e 5 = true) ∧ (match trainRate [] with | .error _ => 9 | .ok r => r) = 0
      ∧ (match trainRate [[7], [7], [7]] with | .error c => c | .ok _ => 0) = 7 ∧ (∀ e, e < 4 → (staged 9).inStage e 9 = true)
      ∧ stageLimit 1 < ({ staged 1 with now := 10 ^ 12 }).now - ((staged 1).die 0).stageAt
      ∧ State.reset.tripped = false ∧ ({ State.reset with tripped := true } : State).tripped = true := by decide +kernel

theorem wit_board :
    let s := readyPkg
    let q : EthFrame := { srcMac := 1, dstMac := 2, tag := none, etherType := 0x88B5, payload := [0, 0, 0, 1] }
    s.powered = true ∧ s.tripped = false ∧ 1 ≤ s.lowStage ∧ (s.ethPort 0).up = true ∧ mgmtCode q = 1
      ∧ mgmtCode { q with payload := [0, 0, 0, 2] } = 2 ∧ 0 < s.eth.length ∧ (staged 2).ready = false ∧ ((staged 2).die 0).stage ≠ 0
      ∧ (let t := { s with image := { s.image with mgmt := 3, ok := true, rollver := 5 } }
         t.image.mgmt.getLsbD 0 = true ∧ t.image.mgmt.getLsbD 1 = true ∧ t.fuses.rollback.toNat < t.image.rollver.toNat)
      ∧ (64 : Nat) ≤ tabGet 0 { s with retries := [(1, 64)] }.retries 1
      ∧ (let t := ev s { temp := 60 }
         t.inp.idx < 48 ∧ 10 ≤ max (tabGet 0 (t.die 0).trained 0) t.inp.temp - min (tabGet 0 (t.die 0).trained 0) t.inp.temp)
      ∧ (ev s { temp := 115 }).inp.temp = 115 ∧ (ev s { v := 1 }).inp.v.getLsbD 0 = true := by decide +kernel

/-- After READY, with a group of a placed cluster. -/
def readyBase : State := { base with ready := true, eth := readyPkg.eth }
theorem wit_parts :
    let s := readyBase
    s.ready = true ∧ (s.ethPort 1).up = true ∧ 1 < s.eth.length ∧ s.powered = true ∧ 3 < s.cxl.length ∧ s.capDie = none
      ∧ (let t := ev (s.setDie 0 { s.die 0 with winReplays := 1 }) { meas := [{ power := 0, temp := 50 }] }
         (t.meas 0).temp ≤ 105 ∧ (t.die 0).winError = false ∧ 100 * max 1 (t.issuedIn 0) < (t.die 0).winReplays * 1000000 ∧ (t.die 0).point ≠ 4 ∧ tabWf {} t.slots = true)
      ∧ ((s.setDie 0 { s.die 0 with winError := true }).die 0).winError = true
      ∧ ((s.setDie 0 { s.die 0 with changing := some 1 }).die 0).changing.isSome = true
      ∧ (s.group gid0).live = true ∧ (s.group gid0).stopped = false ∧ (s.cluster (s.group gid0).ck).state = .placed
      ∧ frameSize s.inp.frame ≤ 9216 ∧ s.backedRange lpddrBase (frameBytes s.inp.frame).length = true
      ∧ cxlSupported { type := 3, hdmH := true, backInvalidate := false, switches := 1 } = true
      ∧ cxlSupported { type := 2, hdmH := true, backInvalidate := false, switches := 0 } = false := by decide +kernel

/-! ### Witnesses: packets and copies -/

/-- Package 5's requests reach package 0 through port 0. -/
def pkgBase : State := { base with fabUp := 1 }
def pk (kind : BitVec 4) : Packet := { Packet.zero with kind, src := 5 }
def lrec : LaneRec := { lane := 0, pa := BitVec.ofNat 48 lpddrBase, check := 0, data := [], va := 0 }
def entryOf (p : Packet) (lost : Bool) : Entry :=
  { src := p.src, handle := p.lhandle, key := p.key, serial := p.serial, lanes := 1, recs := [(0, 0, [], false)], flags := 0, lost }
theorem wit_owner_flit :
    let p := { pk 0 with op := .load 4 }
    let s := ev pkgBase { pkt := p, crc := packetCrc p }
    s.fabUp.getLsbD s.inp.port = true ∧ s.inp.errs0 ≤ 4 ∧ s.inp.crc = packetCrc p ∧ p.age ≤ Config.maxAge ∧ p.dst ≠ 0xFFFF
      ∧ packetStep p = some .loadRequest ∧ p.dst = s.image.pkgnum ∧ p.src ≠ s.image.pkgnum ∧ (9 : Nat) < (pk 10).kind.toNat
      ∧ s.inp.crc + 1 ≠ packetCrc p := by decide +kernel
theorem wit_owner :
    let s := pkgBase
    let p := pk 2
    let o := s.owner 0
    let key : DirRec := { src := 5, handle := 0, key := 0, floor := 5, newest := 0 }
    let quiet := s.setOwner 0 { o with phase := .silent 9 false none }
    (s.takePacket p).isSome = true ∧ o.answers = true ∧ o.endedFor s.now p = false ∧ s.reaches { p with recs := [lrec] } = true ∧ (quiet.owner 0).answers = false
      ∧ (o.dir.find? fun d => d.isOf p) = none ∧ later key.floor p.serial = true
      ∧ ((s.setOwner 0 { o with dir := [key] }).owner 0).dir.find? (fun d => d.isOf p) = some key
      ∧ s.laneBad (.cline 0 0 0) lrec = false ∧ (∀ k, k < 68 → (s.owner k).answers = true)
      ∧ o.used + opSize p.op ≤ cacheRoom 0 ∧ s.opBusy p = false
      ∧ ((s.setOwner 0 { o with cache := [entryOf p false] }).owner 0).cache.find? (fun e => e.isOf p && e.serial = p.serial) = some (entryOf p false)
      ∧ (∃ x ∈ (entryOf p false).recs, x.1 = lrec.lane ∧ x.2.1 = lrec.check) ∧ (entryOf p true).lost = true := by decide +kernel
theorem wit_owner_events :
    let s := pkgBase
    let at_ (x : Phase) : State := s.setOwner 0 { s.owner 0 with phase := x }
    let l : State := s.setLaunch 0x10 { s.launch 0x10 with state := .ending, determ := true }
    ((at_ (.silent 0 false none)).owner 0).phase = .silent 0 false none ∧ ((at_ (.silent 0 true (some 9))).owner 0).phase = .silent 0 true (some 9)
      ∧ ((at_ (.quarantine 0)).owner 0).phase = .quarantine 0 ∧ 0 ≤ s.now ∧ (ev l { handle := 0x10 }).inp.pkg = l.image.pkgnum
      ∧ (l.launch 0x10).state = .ending ∧ (l.launch 0x10).determ = true := by decide +kernel

/-- A request of the group to package 5, its reply, and replies that match none. -/
def reqBase : State := with_ pkgBase fun g => { g with outs := [{ watermarkedOut with held := false }] }
def replyTo (s : State) (kind : BitVec 4) : Packet := { pk kind with lhandle := 0x10, key := requesterKey (s.launchOf gid0).ctx gid0 }
theorem wit_requester :
    let s := reqBase
    let o := { watermarkedOut with held := false }
    let load := with_ pkgBase fun g => { g with outs := [{ o with watermarked := false }] }
    let t := ev s { gid := gid0 }
    (s.takePacket (replyTo s 3)).isSome = true ∧ s.matchReply (replyTo s 3) true = some (gid0, o)
      ∧ (load.matchReply (replyTo s 1) false).isSome = true ∧ s.matchReply { replyTo s 3 with serial := 9 } true = none
      ∧ (s.cluster (s.group gid0).ck).state = .placed
      ∧ (t.group t.inp.gid).outs[t.inp.idx]? = some o ∧ t.sends gid0 = true ∧ o.held = false ∧ o.busy = false
      ∧ o.tries < 8 ∧ o.next ≤ t.now ∧ { o with next := 1 }.next > t.now ∧ o.start + us 3008 ≤ { t with now := us 4000 }.now
      ∧ (t.group gid0).live = true ∧ (t.group gid0).late = []
      ∧ (({ t with releases := [{ handle := 0, pkg := 0, sends := 1, next := 0, port := none }] } : State).releases.find? fun (r : Release) => r.handle = t.inp.handle && r.pkg = t.inp.pkg)
          = some { handle := 0, pkg := 0, sends := 1, next := 0, port := none } := by decide +kernel

/-- A copy of 16 bytes from address 0 to 0x40, and one with its packet to package 5 not answered. -/
def copy0 : Copy := { base.mkCopy (xe 2 4 6 0) 0 0 with id := 1, dst := 0x40, len := 16 }
def msg0 : CopyMsg := { packet := { pk 7 with dst := 5 }, tries := 1, next := 0, start := 0, port := none }
def copyBase (c : Copy) : State := ev (with_ pkgBase fun g => { g with copies := [c] }) { gid := gid0, copyId := 1 }
theorem wit_copy_packets :
    let p := { pk 7 with recs := [lrec] }
    let c := { copy0 with unacked := [msg0], written := true }
    let s := copyBase c
    let a := { replyTo s 9 with copyId := 1, oper := 7 }
    pkgBase.copyServed p = true ∧ (pkgBase.setOwner (ownerOf lpddrBase 0) { pkgBase.owner 0 with phase := .silent 9 false none }).copyServed p = false
      ∧ (pkgBase.takePacket p).isSome = true ∧ pkgBase.rangeBad lpddrBase 16 = false
      ∧ { pkgBase with poison := [(lpddrBase / 128, true)] }.rangeBad lpddrBase 16 = true
      ∧ (s.group (keyGroup a.lhandle a.key)).copy a.copyId = some c ∧ c.chunk = a.chunk ∧ msg0.packet.dst = a.src ∧ msg0.packet.addr = a.addr
      ∧ msg0.packet.kind.toNat = a.oper.toNat ∧ msg0.packet.kind.toNat ≠ (8 : Nat)
      ∧ (∃ r ∈ [({ handle := 0, pkg := 5, sends := 1, next := 0, port := none } : Release)], r.handle = (pk 9).lhandle ∧ r.pkg = (pk 9).src) := by decide +kernel
theorem wit_copy_steps :
    let s := copyBase copy0
    let d := { copy0 with chunk := 0 }
    let far := copyBase { copy0 with unacked := [msg0] }
    let park := copyBase { copy0 with state := .parked 3 }
    let f := ev (park.setDie 0 { park.die 0 with copyFaults := [(3, gid0, 1)] }) { faultId := 3, gid := gid0 }
    (s.group gid0).copy s.inp.copyId = some copy0 ∧ copy0.moves = true ∧ s.copiesRun gid0 = true ∧ s.obBusy gid0 d = false
      ∧ (match s.chunkData gid0 d (s.olderWrites gid0 d) with
         | .ok x => x.missing.isEmpty && (match s.dstPlaces gid0 { d with spos := x.spos } (d.dstPieces 0 16) with
             | .ok ps => ps.all fun y => y.2.kind ≤ 1 && (s.olderWrites gid0 d).all (fun w => !Span.meets (y.2, y.1.n) w)
             | .error _ => false)
         | .error _ => false) = true
      ∧ (far.group gid0).copy 1 = some { copy0 with unacked := [msg0] } ∧ msg0.next ≤ far.now ∧ far.chunkRuns gid0 { copy0 with unacked := [msg0] } = true
      ∧ msg0.tries < 8 ∧ (f.faulted f.inp.die f.inp.faultId).isSome = true
      ∧ ((copyBase { copy0 with state := .done }).group gid0).copies = [{ copy0 with state := .done }]
      ∧ ((copyBase { copy0 with state := .failed 5 }).group gid0).copies = [{ copy0 with state := .failed 5 }] := by decide +kernel

/-! ### Witnesses: launches, placement, passes -/

/-- Launch 0x20 stands at the head of queue 0 and depends on launches 0x40, which ended with a cause, and 0x50, which is unknown. -/
def queued : State :=
  let s := launched.setLaunch 0x20 { launched.launch 0x20 with deps := [0x40, 0x50] }
  let s := s.setLaunch 0x40 { s.launch 0x40 with cause := 9 }
  { s with queues := [(0, [0x20])] }
/-- A frozen cluster of the running launch. -/
def frozen (rel : Bool) : State :=
  let s := base.setLaunch 0x10 { base.launch 0x10 with relaunch := rel }
  let snap : Snapshot := { gid := gid0, source := 1, die := 0, unit := 0, pc := fetchVa, lanes := 1, addr := 0, time := 0 }
  ev (s.setCluster team0 { s.cluster team0 with state := .frozen, snap := some snap }) { ck := team0 }
theorem wit_launch_life :
    let s := queued
    let free := { s.setLaunch 0x20 { s.launch 0x20 with deps := [] } with queues := [(0, [0x20])] }
    let late := base.setLaunch 0x10 { base.launch 0x10 with resident := 1, watchdog := 0 }
    base.heads = [] ∧ free.heads = [0x20] ∧ (s.launch 0x20).state = .queued ∧ (s.launch 0x20).deps[0]? = some 0x40 ∧ s.depAnswer 0x40 = some 9
      ∧ (s.launch 0x20).deps[1]? = some 0x50 ∧ s.depAnswer 0x50 = some 0 ∧ s.depAnswer 0x10 = none
      ∧ (late.launch 0x10).state = .running ∧ us (late.launch 0x10).watchdog ≤ (late.launch 0x10).resident
      ∧ (s.launch 0x30).state = .ending ∧ s.drained 0x30 = true
      ∧ (with_ s fun g => { g with mats := [{ id := 0, kind := .mzero, b := 0, c := 1, recB := 0, recC := 0, pc := 0, serial := none, order := 0 }] }).drained 0x10 = false
      ∧ (let f := frozen true
         (f.cluster f.inp.ck).snap.isSome = true ∧ (f.cluster f.inp.ck).state = .frozen ∧ (f.launch 0x10).state = .running ∧ (f.launch 0x10).relaunch = true
           ∧ f.committed f.inp.ck = false ∧ (f.cluster f.inp.ck).relaunches < 3 ∧ ((f.teamsOf f.inp.ck).flatMap f.groupsOf).Nodup)
      ∧ ((frozen false).launch 0x10).relaunch = false := by decide +kernel

theorem wit_registers :
    let s := base
    let named : BitVec 2 × BitVec 44 × BitVec 16 := (1, 0, 5)
    let x := { s.die 0 with inval := some named, ordPending := some 2 }
    let low := { x with areas := [{ kind := .team, team := 0, die := 0, base := sheetOf 0, size := 1 }] }
    let high := { x with areas := [{ kind := .team, team := 0, die := 0, base := sheetOf 0 + 2 ^ 22, size := 1 }] }
    (0x0005000000000101 : Dword).getLsbD 8 = true ∧ (0x0005000000000101 : Dword).setWidth 2 = BitVec.ofNat 2 1 ∧ (0 : Dword).getLsbD 8 = false
      ∧ ((s.setDie 0 x).die 0).inval = some named ∧ ((1 : Dword).setWidth 9).toNat ≤ (poolBase s).ordMax ∧ s.ordMax < ((1 : Dword).setWidth 9).toNat
      ∧ (∀ a ∈ x.areas, sheetOf 0 + (2 : BitVec 9).toNat * 2 ^ 21 ≤ a.base) ∧ (∀ a ∈ high.areas, sheetOf 0 + (2 : BitVec 9).toNat * 2 ^ 21 ≤ a.base)
      ∧ (∃ a ∈ low.areas, a.base < sheetOf 0 + (2 : BitVec 9).toNat * 2 ^ 21) := by decide +kernel

/-- Cluster 0 of launch 0x10 waits to be placed; it, and the same after 20 µs and 50 µs. -/
def waiting (t : Nat) : State :=
  let s := poolBase (base.setGroup gid0 {})
  { ev ((s.setTeam team0 {}).setCluster team0 { state := .pending, handle := 0x10 }) { ck := team0 } with now := t }
theorem waiting_list : (waiting 0).placeable (waiting 0).pendingList [] = [team0] := by
  have h : (waiting 0).pendingClusters = [team0] := by decide +kernel
  have t : ((waiting 0).cluster team0).target = none := by decide +kernel
  have b : ((waiting 0).cluster team0).blocking = none := by decide +kernel
  simp [State.pendingList, State.placeable, h, t, b]
theorem base_list : base.placeable base.pendingList [] = [] := by
  have h : base.pendingClusters = [] := by decide +kernel
  simp [State.pendingList, State.placeable, h]
theorem wit_placement :
    let s := waiting 0
    let saving (x : ClusterState) : State := ev (base.setCluster team0 { base.cluster team0 with state := x }) { ck := team0 }
    s.rectFor team0 = some (0, 0) ∧ (s.placeAt team0 0 0).2 = true ∧ tabWf {} s.clusters = true ∧ (s.cluster team0).target = none
      ∧ ((waiting (us 20)).cluster team0).state = .pending ∧ ((waiting (us 20)).cluster team0).blocking = none
      ∧ us 20 ≤ (waiting (us 20)).now - ((waiting (us 20)).cluster team0).since
      ∧ ((saving .saving).cluster team0).state = .saving ∧ ((saving .saving).launch 0x10).state = .running ∧ (saving .saving).mustWait team0 = false
      ∧ ((saving .saving).liveGroups team0).Nodup ∧ (∀ g ∈ (saving .saving).liveGroups team0, ((saving .saving).group g).mats = [] ∧ ((saving .saving).group g).tiles = [])
      ∧ (saving .saved).inp.ck = team0 ∧ ((saving .saved).cluster team0).state = .saved
      ∧ (ev base { cleared := .band 0 3 }).inp.cleared = .band 0 3 ∧ (ev base { cleared := .unit 0 3 }).inp.cleared = .unit 0 3
      ∧ (ev base { cleared := .granule 0 3 }).inp.cleared = .granule 0 3 ∧ base.waitingTeams 0 = [] := by decide +kernel

/-- Only quad 0 of die 0 takes part, and no pool of another die has room. A cluster of launch 0x10 fills slot 0 of core 0; one of launch
0x11, of higher priority, waits, and of the quad's cores only core 0 is open to it. -/
def crowded (migratable : Bool) : State :=
  let s := { base with image := { base.image with placed := 4 } }
  let s := s.setDie 0 { s.die 0 with quadsOut := range' 1 35 }
  let s := [1, 2, 3].foldl (fun s d => s.setDie d { s.die d with ordSize := 32 }) s
  let l := s.launch 0x10
  let s := (s.setLaunch 0x10 { l with migratable }).setLaunch 0x11 { l with handle := 0x11, prio := 1 }
  let s := s.setGroup gid0 { s.group gid0 with nbands := 128 }
  let p := clusterKey 0x11 0
  { ev (s.setCluster p { state := .pending, handle := 0x11, blocking := some 0, barred := [1, 12, 13] }) { ck := p } with now := us 50 }
/-- The waiting cluster is stuck and nothing may move: the cluster of lower priority is its victim. -/
theorem wit_victim :
    let s := crowded false
    let p := clusterKey 0x11 0
    (s.cluster p).blocking.isSome = true ∧ us 50 ≤ s.now - (s.cluster p).since ∧ s.stuck p = true ∧ s.moveSets p = [] := by decide +kernel
theorem victim_found : (crowded false).victimsOn (clusterKey 0x11 0) 0 = some [team0] := by
  have h : ((crowded false).placedClusters.filter fun c => ((crowded false).cluster c).die = 0
      && (crowded false).prioOf c < (crowded false).prioOf (clusterKey 0x11 0)) = [team0] := by decide +kernel
  have f : (List.range 2).find? (fun k => ((crowded false).dieFits { gone := [team0].take k, soon := true } (clusterKey 0x11 0) 0).isSome) = some 1 := by
    decide +kernel
  simp only [State.victimsOn, h, List.mergeSort_singleton, List.length_singleton, f]
  rfl
/-- A migratable cluster that fits on another core moves. -/
theorem wit_move :
    let s := crowded true
    let p := clusterKey 0x11 0
    s.stuck p = true ∧ (s.moveSets p).map (fun m => m.map (·.1)) = [[team0]] ∧ s.placedClusters.Nodup ∧ (s.cluster p).blocking.isSome = true := by decide +kernel
theorem wit_deterministic :
    let s := waiting (us 50)
    let t := (s.setLaunch 0x10 { s.launch 0x10 with determ := true }).setCluster team0 { s.cluster team0 with resumed := true }
    (t.cluster team0).state = .pending ∧ (t.launch 0x10).state = .running ∧ (t.launch 0x10).determ = true ∧ (t.cluster team0).resumed = true
      ∧ us 50 ≤ t.now - (t.cluster team0).since := by decide +kernel

/-- A quad whose table holds this group's request; a pass in force, idle; one that has ended, whose tile operation is still to be executed, and
whose is not; mismatches that find spares, and one that finds none; a slot whose quantum has ended, and a group that is starved. -/
theorem wit_passes :
    let req : PassReq := { gid := gid0, base := 0, arrival := 0, lost := 0 }
    let s := base.setQuad 0 { base.quad 0 with table := [req] }
    let p : Pass := { gid := gid0, left := 4, readyAt := 0, ops := [], locked := [] }
    let old := { passOf base with now := 10 ^ 9 }
    let done (ops : List Nat) : State := ev (base.setQuad 0 { base.quad 0 with past := [{ p with ops }] }) { mismatches := 2 }
    let t := with_ (done [7]) fun g => { g with tiles := [{ oldTile with id := 7 }] }
    let none_ := (done [7]).setQuad 0 { (done [7]).quad 0 with spares := 1 }
    (s.quad 0).pass = none ∧ (s.quad 0).table ≠ [] ∧ ((passOf base).quad 0).pass = some p
      ∧ 64 ≤ old.cyclesOf 0 (old.now - p.readyAt) ∧ old.engineReady gid0 = false ∧ (s.quad 0).past = []
      ∧ ((done [7]).quad 0).past = { p with ops := [7] } :: [] ∧ (t.group gid0).tiles.any (fun o => o.id = 7) = true
      ∧ ((done [7]).group gid0).tiles = [] ∧ ((done [7]).takeSpares 0 2).2 = true ∧ (none_.takeSpares 0 2).2 = false
      ∧ ((base.setSlot 0 { base.slot 0 with expired := true }).slot 0).expired = true
      ∧ gid0 ∈ base.residents 0 ∧ base.awake gid0 = true ∧ ({ base with now := 10 ^ 9 }).starved gid0 = true := by decide +kernel

/-- A group of a state in which each wait stands, and a landed result. -/
def parked (i : Instr) (absent : Bool) : State :=
  ev (with_ base fun g => { g with wait := some { i, run := allLanes, pc := fetchVa, left := allLanes, absent, since := 0 } }) { gid := gid0 }
theorem wit_wakes :
    (∀ i ∈ [Instr.bar (xe 0 0 0 0), .bara (xe 0 0 0 0), .barw (xe 0 0 0 0), .waitc (xe 0 0 0 0), .ordwait (xe 0 0 0 0), .qrcv (xe 0 0 0 0),
        .qsnd (xe 0 0 0 0), .obrel (xe 0 0 0 0), .svc (xe 0 0 0 0), .ldfe (xm 6 2), .stfe (xm 6 2), .waita (xm 6 2)],
      ((parked i false).group gid0).wait = some { i, run := allLanes, pc := fetchVa, left := allLanes, absent := false, since := 0 }
        ∧ (parked i false).unstopped gid0 = true)
      ∧ ((parked (.ldfe (xm 6 2)) true).group gid0).wait.isSome = true
      ∧ (let x : Late := { serial := 0, owner := none, dst := [6], regs := [(6, 1)], rows := [], ready := true }
         let s := with_ base fun g => { g with late := [x] }
         (s.group gid0).late[0]? = some x ∧ x.isHidden = false ∧ (s.group gid0).live = true) := by decide +kernel

/-! ### Witnesses: more of the events' premises -/

/-- Stages within their limits and one beyond; where firmware may put its log and its tables, and where not. -/
theorem wit_stage_limits :
    let s := { poolBase base with dies := (staged 9).dies }
    let fw : FwBoot := { FwBoot.zero with ctxTable := BitVec.ofNat 64 (sheetBase + s.placedBytes - 0x200000), rootPa := 0x001000000000
                                          capPa := BitVec.ofNat 64 (lpddrBase + 0x5000)
                                          tables := [(lpddrBase + 0x1000, List.replicate 4096 0)] }
    (∀ k ∈ [1, 2, 3, 4, 5, 6, 7, 8], (staged k).late 0 = false) ∧ ({ staged 1 with now := 10 ^ 12 }).late 0 = true
      ∧ s.inFixed 0 (sheetBase + s.placedBytes - 0x100000) 262144 = true ∧ s.inFixed 0 sheetBase 262144 = false
      ∧ s.fwBuilds { fw with rootPa := BitVec.ofNat 64 (lpddrBase + 0x1000) } = true ∧ s.fwBuilds FwBoot.zero = false := by decide +kernel
/-- An invalidation that no access under way used, and one that a request's translation did. -/
theorem wit_coherence :
    let r := { default_out with packet := { Packet.zero with recs := [lrec] } }
    base.coherent (0, 0, 0) = true ∧ (with_ base fun g => { g with outs := [r] }).coherent (1, 0, 0) = false := by decide +kernel
/-- A register of unknown outcome that `MOVX` reads by its index; a notice that is due; a dependence whose answer came; an owner that an
operation without lanes reaches; a copy before which an older one writes. -/
theorem wit_more :
    let u : Unknown := { unknownRem with regs := [(5, m1)], cls := none }
    let s := with_ b1 fun g => { g with unknowns := [u] }
    let o : Owner := { phase := .quarantine 9 }
    let x := { copy0 with seq := 1, id := 2 }
    let t := copyBase copy0
    s.cur.unknownAt m1 false (fun _ => 5) = some u ∧ s.cur.unanswered u = false
      ∧ ((with_ base fun g => { g with notices := [(5, 0, 0)] }).cur.notices.any fun n => n.1 = 5 && n.2.1 = 0 && base.now ≤ n.2.2 + us 4) = true
      ∧ ({ base.launch 0x10 with answers := [(0x40, 9)] } : Launch).answer 0x40 = some 9
      ∧ o.quarantined 0 = true ∧ o.quarantined 9 = false
      ∧ ((t.olderWrites gid0 x).any fun w => (t.olderWrites gid0 x).any fun v => Span.meets w v) = true := by decide +kernel
/-- A link retried 63 times, 64 times, and found failed before; a governor's window that ends, and one that does not; a frame that is too long;
a consumed line of sheet memory; an address that nothing backs. -/
theorem wit_parts_more :
    let s := ev { readyPkg with retries := [(1, 64)] } { die := 0, peer := 1 }
    let w := ev { readyBase with now := 1000000 } { meas := [{ power := 0, temp := 115 }] }
    (tabGet 0 { s with retries := [(1, 63)] }.retries 1 < 64 ∧ 64 ≤ tabGet 0 s.retries 1 ∧ s.powered = true ∧ (0, 1) ∉ s.links
        ∧ s.inp.die ≠ s.inp.peer ∧ s.inp.peer < 4 ∧ ¬ (ev s { die := 2, peer := 2 }).inp.die ≠ (ev s { die := 2, peer := 2 }).inp.peer ∧ ¬ (6 : Nat) < 4
        ∧ (0, 1) ∈ ({ s with links := [(0, 1)] } : State).links ∧ s.ready = true)
      ∧ (tabWf {} w.slots = true ∧ 1000000 ≤ w.now - w.windowAt ∧ readyBase.now - readyBase.windowAt < 1000000 ∧ w.powered = true
          ∧ w.tripped = false ∧ (∃ e, e < 4 ∧ 115 ≤ (w.meas e).temp))
      ∧ 9216 < frameSize { srcMac := 0, dstMac := 0, tag := none, etherType := 0x88B5, payload := List.replicate 9300 0 }
      ∧ (let t := with_ readyBase fun g => { g with tiles := [{ oldTile with id := 7 }] }
         (t.group gid0).engineOps[0]? = some (7, fetchVa) ∧ (t.cluster (t.group gid0).ck).state = .placed)
      ∧ (1 ≤ 7 ∧ 7 ≤ 11 ∧ (7 : Nat) ≠ 8 ∧ (7 : Nat) ≠ 3)
      ∧ readyBase.ready = true ∧ readyBase.inp.bad = false ∧ (poolBase readyBase).inSheet sheetBase = true
      ∧ (readyBase.group gid0).stopped = false ∧ (readyBase.cluster (readyBase.group gid0).ck).state = .placed
      ∧ (poolBase readyBase).backed lpddrBase = true ∧ (poolBase readyBase).backed 0x100 = false := by decide +kernel
/-- A launch that has a mark, and one that has none; the first free sequence number, and one after a number in use. -/
theorem wit_marks :
    let s := pkgBase
    let m := s.setOwner 0 { s.owner 0 with ended := [{ src := 5, handle := 0, since := 0, live := true, last := 0 }] }
    let busy := (recordBase.setDie 0 { recordBase.die 0 with nextSeq := 16 }).setLaunch 16 { recordBase.launch 16 with state := .queued }
    s.endedBefore 5 0 = false ∧ m.endedBefore 5 0 = true ∧ (∀ k, k < 68 → (m.owner k).answers = true)
      ∧ 16 ≤ (recordBase.die 0).nextSeq ∧ (recordBase.die 0).nextSeq < 2 ^ 30
      ∧ recordBase.handleRoom 0 = some recordBase ∧ busy.seqBusy 0 16 = true ∧ busy.seqBusy 0 17 = false := by decide +kernel
/-- DONE on a page that can be written, and on none. -/
theorem wit_done :
    let s := base.setLaunch 0x10 { base.launch 0x10 with done := 0x40 }
    let u := base.setLaunch 0x10 { base.launch 0x10 with done := 0x40000000 }
    let w (s : State) : Option State := s.unitWrite (handleDie 0x10) 0 (s.launch 0x10).done 8 (completionWord 0x10 0 0).toNat 0x201
    (base.launch 0x10).done = 0 ∧ (w s).isSome = true ∧ (w u).isNone = true
      ∧ (match s.unitPlace (handleDie 0x10) 0 0x40 true 0x201 with
         | some p => !s.unitFar p && !s.isRemoved p.pa && s.backedRange p.pa 8
         | none => false) = true := by decide +kernel
/-- The cluster that fills the quad is of the same deterministic launch as the one that waits, and its group is parked in `ORDWAIT`. -/
theorem wit_ordwaits :
    let s := crowded false
    let p := clusterKey 0x10 1
    let s := (s.setLaunch 0x10 { s.launch 0x10 with determ := true }).setCluster p
      { state := .pending, handle := 0x10, index := 1, resumed := true, blocking := some 0, barred := [1, 12, 13] }
    let s := s.setGroup gid0 { s.group gid0 with wait := some { i := .ordwait (xe 0 0 0 0), run := allLanes, pc := fetchVa, left := allLanes, absent := false, since := 0 } }
    (s.cluster p).state = .pending ∧ (s.launch 0x10).determ = true ∧ (s.cluster p).resumed = true ∧ us 50 ≤ s.now - (s.cluster p).since
      ∧ tabWf {} s.clusters = true ∧ s.findRect { soon := true } p = none ∧ team0 ∈ s.placedClusters ∧ (s.cluster team0).handle = 0x10
      ∧ s.allOrdwait team0 = true := by decide +kernel
/-- A range of a DE format that is to be zeroed; a request in a service's mailbox; an unknown outcome of the load of a `CLINE`; a held team that
may commit before a tile word. -/
theorem wit_review :
    let de := resv 3 (BitVec.ofNat 64 (4 * 2 ^ 60 + 31 * 2 ^ 42 + 3 * 2 ^ 34 + 4 * 2 ^ 18))
    let s := withResvs base [de]
    let r : SvcReq := { service := 0x8003, ctx := 0, gid := gid0, pc := fetchVa, wserial := 0, addr := 0, posted := 0 }
    let m := { parked (.svc (xe 6 8 10 0)) false with mailbox := [r] }
    let u : Unknown := { unknownRem with regs := [(hiddenReg 0, allLanes)], cls := none }
    (s.resvOf gid0 3 = some de ∧ (matRec de.record).fmt = 4)
      ∧ ((m.mailbox.find? fun r => r.gid = gid0) = some r ∧ (∀ x ∈ m.mailbox.erase r, x.gid ≠ gid0) ∧ (m.group gid0).wait.isSome = true)
      ∧ (u ∈ (with_ base fun g => { g with unknowns := [u] }).cur.unknowns ∧ (u.regs.any fun p => p.1 = hiddenReg 0) = true)
      ∧ (with_ tileBase fun g => { g with hold := true }).cur.mayCommit = true
      ∧ ((with_ base fun g => { g with stopped := true }).group gid0).stopped = true := by decide +kernel
/-- A group that yields; a `WAITA` whose monitored line holds another value, and one that has stood 512 cycles. -/
theorem wit_yields :
    let g : Group := { (base.group gid0) with yforce := true, pcs := Vector.ofFn fun i : Fin 32 => BitVec.ofNat 64 (8 * i.val) }
    let s := (base.setGroup gid0 g).setSlot 0 { base.slot 0 with cur := some gid0 }
    let w := parked (.waita (xm 6 2)) false
    let v := w.setDie 0 { w.die 0 with monitors := [{ gid := gid0, lane := 0, line := lpddrBase / 128, value := 7 }] }
    s.awake gid0 = true ∧ (s.group gid0).yields = true ∧ (s.slot 0).cur = some gid0
      ∧ ((v.monitors gid0).any fun m => m.line = lpddrBase / 128 && m.value != v.lineValue team0 (lpddrBase / 128)) = true
      ∧ 512 ≤ ({ w with now := 10 ^ 9 }).cyclesOf 0 (10 ^ 9 - 0) := by decide +kernel

/-! ### Witnesses: the whole machine; single steps -/

theorem wit_round_trip : (Instr.iadd (tf 4 2 6 0)).wellFormed = true ∧ encode (.iadd (tf 4 2 6 0)) = some (64, 4 * 2 ^ 45 + 2 * 2 ^ 35 + 6 * 2 ^ 26)
    ∧ decode (BitVec.ofNat 64 (4 * 2 ^ 45 + 2 * 2 ^ 35 + 6 * 2 ^ 26)) = .ok (.iadd (tf 4 2 6 0))
    ∧ decodeHart (BitVec.ofNat 32 0x0B) = some (.klnLaunch 0 0 0) :=
  ⟨by decide, by decide, rfl, by decide⟩

/-- `IADD v6, v2, v3` stands where the slot fetches; the control core's word is `kln.status x10, x0, x0`. -/
def iaddWord : Nat := 6 * 2 ^ 45 + 2 * 2 ^ 35 + 3 * 2 ^ 26
def stepBase : State := State.reset.withFetchWord 64 iaddWord
def hartBase : State := State.reset.withFetchWord 32 (3 * 2 ^ 12 + 10 * 2 ^ 7 + 0x0B)
theorem wit_step :
    let s := stepBase
    let u : State := { s with sched := [], fresh := s.fresh + 1 }
    s.running = true ∧ s.sched = [.slot 0] ∧ u.residents 0 = [gid0] ∧ u.awake gid0 = true
      ∧ (match u.fetch gid0 (u.group gid0).nextPc with | .word w => w.toNat | _ => 0) = iaddWord ∧ u.moved gid0 (u.bundle gid0) = true
      ∧ ((u.setSlot 0 { u.slot 0 with cur := some gid0 }).slot 0).cur = some gid0 ∧ (u.slot 0).expired = false
      ∧ ({ s with powered := false } : State).running = false ∧ alwaysOn .powerGood = true ∧ alwaysOn .scrub = false
      ∧ (hartBase.die (0 / 4)).stage = 9 ∧ ((hartBase.setDie 0 { hartBase.die 0 with stage := 8 }).die (0 / 4)).stage ≠ 9
      ∧ hartBase.sched = [.hart 0] ∧ (hartBase.interrupt 0).isNone = true
      ∧ (match hartBase.hartWord (hartBase.hart 0) with | .word w => w | .ends _ => 0) = 3 * 2 ^ 12 + 10 * 2 ^ 7 + 0x0B
      ∧ decodeHart (BitVec.ofNat 32 (3 * 2 ^ 12 + 10 * 2 ^ 7 + 0x0B)) = some (.klnStatus 10 0 0)
      ∧ ({ s with sched := [.event .powerGood {}] }).sched = [.event .powerGood {}] ∧ encode .powerGood = none := by decide +kernel
theorem wit_memory : stepBase.memWf = true ∧ State.reset.memWf = true := by decide +kernel

/-- What one step leaves of a state, and whether it answered one. -/
def after (o : Out) (p : State → Bool) : Bool := match o with | .next t => p t | _ => false
/-- `IADD v6, v2, v3` with 7 and −1 wraps to 6 in every lane, and the PC of every lane moves by 8 (R93, R281). -/
theorem test_step_iadd : after (step (with_ (put (put { stepBase with iss := { gid := gid0 } } 2 7) 3 0xFFFFFFFF) id))
    (fun t => let g := t.group gid0; g.v 0 6 = 6 && g.v 31 6 = 6 && laneAt64 g.pcs 31 = fetchVa + 8) = true := by decide +kernel
/-- An unassigned opcode traps with ILLEGAL; without a handler the launch ends with that cause (R114, R117). -/
theorem test_step_illegal : after (step (State.reset.withFetchWord 64 (0x00C * 2 ^ 53)))
    (fun t => (t.launch 0x10).cause = 1 && (t.launch 0x10).state == .ending) = true := by decide +kernel
/-- `kln.status` of an unknown handle answers 0 and the hart goes on (R58, R65). -/
theorem test_step_status : after (step hartBase) (fun t => (t.hart 0).reg 10 = 0 && (t.hart 0).pc = BitVec.ofNat 64 fetchPa + 4) = true := by
  decide +kernel
/-- Power-good begins stage 0x1 of every die (R25). -/
theorem test_step_power_good : after (step { State.reset with sched := [.event .powerGood {}] })
    (fun t => (List.range 4).all fun d => (t.die d).stage = 1) = true := by decide +kernel
/-- `EXIT` of the one group ends its team (R97, R80). -/
theorem test_step_exit : after (step (State.reset.withFetchWord 64 0xD014000000000000)) (fun t => (t.team team0).ended) = true := by decide +kernel

/-- Control core 0 with a RISC-V word at its PC, and what it leaves. -/
def hartAfter (w : Nat) (f : Hart → Hart) (p : State → Hart → Bool) : Bool :=
  let s := State.reset.withFetchWord 32 w
  after (step (s.setHart 0 (f (s.hart 0)))) fun t => p t (t.hart 0)
/-- R52, RV64GC (assumption 9): `addi x5, x6, -1`; `c.li x10, 5`; `mulh x5, x6, x7` of −1 and 2. -/
theorem test_hart_integer :
    hartAfter 0xFFF30293 (fun h => h.setReg 6 7) (fun _ h => h.reg 5 = 6 && h.pc = BitVec.ofNat 64 fetchPa + 4) = true
    ∧ hartAfter 0x4515 id (fun _ h => h.reg 10 = 5 && h.pc = BitVec.ofNat 64 fetchPa + 2) = true
    ∧ hartAfter 0x027312B3 (fun h => (h.setReg 6 (-1)).setReg 7 2) (fun _ h => h.reg 5 = -1) = true := by decide +kernel
/-- A store (R53): `sd x5, 8(x6)` to LPDDR-6. A load of the status word (R26): `ld x5, 0(x6)`, READY alone. -/
theorem test_hart_store :
    let s := State.reset.withFetchWord 32 0x00533423
    after (step (s.setHart 0 (((s.hart 0).setReg 6 (BitVec.ofNat 64 lpddrBase)).setReg 5 0x1122))) (fun t => t.rd (lpddrBase + 9) = 0x11) = true := by
  decide +kernel
theorem test_hart_load :
    let s := State.reset.withFetchWord 32 0x00033283
    after (step { s.setHart 0 ((s.hart 0).setReg 6 0xF000000000) with ready := true }) (fun t => (t.hart 0).reg 5 = 1) = true := by decide +kernel
/-- `ecall` in M-mode and in U-mode. -/
theorem test_hart_traps :
    hartAfter 0x00000073 id (fun _ h => h.mcause = 11 && h.mepc = BitVec.ofNat 64 fetchPa) = true
    ∧ hartAfter 0x00000073 (fun h => { h with mode := .u }) (fun _ h => h.mcause = 8 && h.mode == .m) = true := by decide +kernel

/-! ### The tests of R162

Each outcome marked in R162, asked of the axioms: locations 1 (x), 2 (f or y) and so on. -/

namespace Litmus
open Sys2Proof.Machine.Ordering

/-- A lane of a launch on package 1: die, launch, cluster, team, group. -/
def party (die cluster team group : Nat) : Agent := .lane 1 die 0 cluster team group 0

/-- A load and a store of one plane of a location. -/
def ld (a : Agent) (l : Nat) (acq : Bool := false) (s : Scope := .lane) (page : Page := .rc) : Ev :=
  { agent := a, act := .read, cells := [(l, [(0, .num 0)])], acq := acq, scope := s, page := page }

def st (a : Agent) (l v : Nat) (rel : Bool := false) (s : Scope := .lane) (page : Page := .rc) : Ev :=
  { agent := a, act := .write, cells := [(l, [(0, .num v)])], rel := rel, scope := s, page := page }

def fenceOf (a : Agent) (acq rel : Bool) (s : Scope) : Ev :=
  { agent := a, act := .fence, acq := acq, rel := rel, scope := s }

def exec (evs : List Ev) : Exec := { evs := evs, rf := [], co := [] }

def pA : Agent := party 0 0 0 0
def pB : Agent := party 0 0 0 1

/-- Message passing: events 2 and 3 are the loads of f and x. -/
def mp (rel acq : Bool) (sA sB : Scope) (a b : Agent) : Exec :=
  exec [st a 1 1, st a 2 1 rel sA, ld b 2 acq sB, ld b 1]

def out2 (v2 v3 : Nat) : List (Nat × Nat × Nat × Nat) := [(2, 2, 0, v2), (3, 1, 0, v3)]

theorem test_litmus_message_passing :
    let x := mp true true .team .team pA pB
    (x.allows (out2 1 1) && x.allows (out2 0 0) && x.allows (out2 0 1) && !x.allows (out2 1 0) &&
      (mp false true .team .team pA pB).allows (out2 1 0)) = true := by decide +kernel

theorem test_litmus_cross_scope :
    let b := party 1 1 0 0
    ((mp true true .cluster .pkg pA b).allows (out2 1 0) && (mp true true .die .die pA b).allows (out2 1 0) &&
      !(mp true true .pkg .pkg pA b).allows (out2 1 0) &&
      !(mp true true .pkg .fab pA b).allows (out2 1 0)) = true := by decide +kernel

/-- Store buffering, with what stands between each party's store and load. -/
def sb (sep : Agent → List Ev) (rel acq : Bool) (s : Scope) (page : Page) (a b : Agent) : Exec :=
  exec ([st a 1 1 rel s page] ++ sep a ++ [ld a 2 acq s page] ++ [st b 2 1 rel s page] ++ sep b ++
    [ld b 1 acq s page])

theorem test_litmus_store_buffering :
    let b := party 1 1 0 0
    let none_ : Agent → List Ev := fun _ => []
    let full : Scope → Agent → List Ev := fun s p => [fenceOf p true true s]
    ((sb none_ false false .lane .rc pA b).allows [(1, 2, 0, 0), (3, 1, 0, 0)] &&
      (sb none_ true true .pkg .rc pA b).allows [(1, 2, 0, 0), (3, 1, 0, 0)] &&
      (sb none_ false false .lane .so pA b).allows [(1, 2, 0, 0), (3, 1, 0, 0)] &&
      !(sb (full .pkg) false false .lane .rc pA b).allows [(2, 2, 0, 0), (5, 1, 0, 0)] &&
      (sb (full .team) false false .lane .rc pA b).allows [(2, 2, 0, 0), (5, 1, 0, 0)]) = true := by
  decide +kernel

/-- Load buffering: event 0 reads x, 2 reads y; the stores' values and the dependences. -/
def lb (vA vB : Val) (dep : List (Nat × Nat)) : Exec :=
  { exec [ld pA 1, { st pA 2 0 with cells := [(2, [(0, vA)])] }, ld pB 2,
      { st pB 1 0 with cells := [(1, [(0, vB)])] }] with dep := dep }

theorem test_litmus_load_buffering :
    let o := [(0, 1, 0, 1), (2, 2, 0, 1)]
    ((lb (.num 1) (.num 1) []).allows o && (lb (.same 0 1 0) (.num 1) [(0, 1)]).allows o &&
      !(lb (.same 0 1 0) (.same 2 2 0) [(0, 1), (2, 3)]).allows o) = true := by decide +kernel

theorem test_litmus_read_read_coherence :
    let x := exec [st pA 1 1, st pA 1 2, ld pB 1, ld pB 1]
    let o := fun a b => x.allows [(2, 1, 0, a), (3, 1, 0, b)]
    (o 0 0 && o 0 1 && o 0 2 && o 1 1 && o 1 2 && o 2 2 && !o 2 1 && !o 1 0 && !o 2 0) = true := by
  decide +kernel

/-- Copy then flag: the copy reads g (location 3) and writes x; with or without the `WAITC`. -/
def copyFlag (wait : Bool) : Exec :=
  { exec ([{ agent := pA, act := .issue 0 },
      { ld pA 3 with op := some 0 },
      { st pA 1 0 with cells := [(1, [(0, .same 1 3 0)])], op := some 0 }] ++
      [if wait then { agent := pA, act := .waitc [0] } else { agent := pA, act := .complete 0 }] ++
      [st pA 2 1 true .pkg, ld pB 2 true .pkg, ld pB 1]) with
    ops := [⟨.copy, 0, 0, []⟩], init := [(3, 0, 5)] }

theorem test_litmus_engine_completion :
    let o := fun w a b => (copyFlag w).allows [(5, 2, 0, a), (6, 1, 0, b)]
    (o true 1 5 && o true 0 0 && o true 0 5 && !o true 1 0 && o false 1 0) = true := by decide +kernel

/-- Copy and presence: event 3 is the load of group 0, event 4 that of team U, of the same line. -/
def presenceTest : Exec :=
  { exec [{ agent := pA, act := .issue 0 }, { ld pA 3 with op := some 0 },
      { st pA 1 0 with cells := [(1, [(0, .same 1 3 0)])], op := some 0, line := some 2 },
      { ld pA 1 with line := some 2 }, { ld (party 0 0 1 0) 1 with line := some 2 }] with
    ops := [⟨.copy, 0, 0, []⟩], init := [(3, 0, 7)] }

theorem test_litmus_presence :
    let o := fun a b => presenceTest.allows [(3, 1, 0, a), (4, 1, 0, b)]
    (o 7 0 && o 7 7 && !o 0 0 && !o 0 7) = true := by decide +kernel

theorem test_litmus_full_empty :
    let x := exec [st pA 1 9, { st pA 2 1 true .team with fullState := some 0 },
      { ld pB 2 true .team with fullState := some 0 }, ld pB 1]
    (x.allows (out2 1 9) && !x.allows (out2 1 0) && !x.allows (out2 0 9) && !x.allows (out2 0 0)) = true := by
  decide +kernel

/-- An `STP` of e (location 1) with the given planes. -/
def stp (a : Agent) (vs : List (Nat × Nat)) : Ev :=
  { agent := a, act := .write, cells := [(1, vs.map fun v => (v.1, .num v.2))] }

def ldp2 (a : Agent) : Ev :=
  { agent := a, act := .read, cells := [(1, [(0, .num 0), (1, .num 0)])] }

theorem test_litmus_plane_tearing :
    let pC := party 0 0 2 0
    let x := exec [stp pA [(0, 0x3FF0), (1, 1), (2, 0), (3, 0)], stp pC [(0, 0x4000), (1, 2), (2, 0), (3, 0)],
      ldp2 pB]
    let o := fun a b => x.allows [(2, 1, 0, a), (2, 1, 1, b)]
    let y := exec [stp pA [(0, 0x3FF0)], stp pA [(1, 1)], stp pC [(0, 0x4000), (1, 2), (2, 0), (3, 0)], ldp2 pB]
    let q := fun a b => y.allows [(3, 1, 0, a), (3, 1, 1, b)]
    (o 0 0 && o 0x3FF0 1 && o 0x4000 2 && !o 0x3FF0 2 && !o 0x4000 1 && !o 0x3FF0 0 && !o 0 1 &&
      q 0x3FF0 0 && !q 0 1) = true := by decide +kernel

/-- The duplicated reduction is one event (R155): an RMW of x (location 1) that adds 5. -/
theorem test_litmus_duplicated_reduction :
    let h : Agent := .lane 3 0 1 0 0 0 0
    let x : Exec := { exec [{ agent := pA, act := .issue 0 },
      { ld pA 1 with op := some 0 }, { st pA 1 5 with op := some 0 },
      { agent := pA, act := .waitc [0] }, st pA 2 1 true .fab, ld h 2 true .fab, ld h 1] with
      ops := [⟨.rem, 0, 0, []⟩], rmw := [(1, 2)] }
    let o := fun a b => x.allows [(5, 2, 0, a), (6, 1, 0, b)]
    (o 1 5 && o 0 0 && o 0 5 && !o 1 10 && !o 1 0) = true := by decide +kernel

/-- Unordered pages: x on a UN page, with what stands between the accesses of each side. -/
def un (sA sB : List Ev) (relA acqB : Bool) : Exec :=
  exec ([st pA 1 1 (page := .un)] ++ sA ++ [st pA 2 1 relA .pkg] ++ [ld pB 2 acqB .pkg] ++ sB ++
    [ld pB 1 (page := .un)])

theorem test_litmus_unordered_pages :
    let f := [fenceOf pA false true .pkg]
    let g := [fenceOf pB true false .pkg]
    ((un [] [] true true).allows (out2 1 0) && !(un f g false false).allows [(3, 2, 0, 1), (5, 1, 0, 0)] &&
      (un f [] false true).allows [(3, 2, 0, 1), (4, 1, 0, 0)]) = true := by decide +kernel

/-- A barrier (R338) orders the arrivals before the departures: no pair of loads reads 0 and 0. -/
theorem test_litmus_split_barrier :
    let x := exec [st pA 1 1, { agent := pA, act := .arrive 0, scope := .team },
      { agent := pA, act := .depart 0, scope := .team }, ld pA 2,
      st pB 2 1, { agent := pB, act := .arrive 0, scope := .team },
      { agent := pB, act := .depart 0, scope := .team }, ld pB 1]
    (x.allows [(3, 2, 0, 1), (7, 1, 0, 1)] && !x.allows [(3, 2, 0, 0), (7, 1, 0, 1)] &&
      !x.allows [(3, 2, 0, 1), (7, 1, 0, 0)]) = true := by decide +kernel

/-- Message passing with the acquire load reading the release store, and the data read: the choices are fixed. -/
def mpRun : Exec := { mp true true .team .team pA pB with rf := [(2, 2, some 1), (3, 1, some 0)], co := [(1, [0]), (2, [1])] }

/-- For `OrderingAxioms`: each clause's hypotheses, met by executions that satisfy the axioms. -/
theorem wit_ordering_messages :
    mpRun.consistent = true ∧ mpRun.hb.has 0 3 = true ∧ (mpRun.ev 0).isWrite = true ∧ (mpRun.ev 0).touches 1 = true
      ∧ (mpRun.ev 0).unordered = false ∧ mpRun.po 0 1 = true ∧ (mpRun.ev 1).isWrite = true ∧ (mpRun.ev 1).releases = true
      ∧ mpRun.rfAt 2 1 2 = true ∧ (mpRun.ev 2).acquires = true ∧ mpRun.mutualScope 1 2 = true ∧ mpRun.po 2 3 = true
      ∧ (mpRun.ev 3).touches 1 = true ∧ (mpRun.ev 3).unordered = false := by decide +kernel

/-- A copy to x, its `WAITC`, and a load of x by the same lane. -/
def copyRun : Exec :=
  { exec [{ agent := pA, act := .issue 0 }, { st pA 1 5 with op := some 0 }, { agent := pA, act := .waitc [0] }, ld pA 1] with
    ops := [⟨.copy, 0, 0, []⟩], rf := [(3, 1, some 1)], co := [(1, [1])] }

/-- A held store, its release, and a load of another team's that the release happens before. -/
def mpHeld : Exec :=
  let p := party 0 0 1 0
  { exec [{ st pA 1 1 with held := true }, { agent := pA, act := .release, scope := .pkg }, st pA 2 1 true .pkg, ld p 2 true .pkg, ld p 1] with
    rf := [(3, 2, some 2), (4, 1, some 0)], co := [(1, [0]), (2, [2])] }
theorem wit_ordering_held :
    mpHeld.consistent = true ∧ (mpHeld.ev 0).touches 1 = true ∧ (mpHeld.ev 4).touches 1 = true ∧ mpHeld.outside 0 4 = true
      ∧ 1 ∈ mpHeld.freed 0 ∧ mpHeld.hb.has 1 4 = true ∧ mpRun.outside 0 3 = false := by decide +kernel

theorem wit_ordering_engine :
    copyRun.consistent = true ∧ (copyRun.ev 1).isWrite = true ∧ (copyRun.ev 1).touches 1 = true ∧ (copyRun.ev 1).op = some 0
      ∧ (copyRun.ev 2).act = .waitc [0] ∧ copyRun.po 2 3 = true ∧ (copyRun.ev 3).touches 1 = true := by decide +kernel

end Litmus

end Sys2Proof.Tests
end

/-! SUPPORT. Folds, tables and memory: what a fold's turns do, tables read after a clearing, what changes memory alone. -/
namespace Sys2Proof.Machine

/-! ### Folds -/

/-- One element's turn in a fold: the steps before it keep `I`, its own step turns `I` into `P`, and the steps of the other elements
keep `P`. -/
theorem foldl_turn {σ α : Type} [DecidableEq α] {f : σ → α → σ} {I P : σ → Prop} {l : List α} {e : α} (he : e ∈ l)
    (before : ∀ t a, a ≠ e → I t → I (f t a)) (turn : ∀ t, I t → P (f t e)) (after : ∀ t a, a ∈ l.erase e → P t → P (f t a))
    {s : σ} (h : I s) : P (l.foldl f s) := by
  obtain ⟨as, bs, rfl, hn⟩ := List.eq_append_cons_of_mem he
  rw [List.foldl_append, List.foldl_cons]
  refine List.foldlRecOn bs f (motive := P) (turn _ ?_) fun t ht a ha => after t a ?_ ht
  · exact List.foldlRecOn as f (motive := I) h fun t ht a ha => before t a (fun hae => hn (hae ▸ ha)) ht
  · rw [List.erase_append_right _ hn, List.erase_cons_head]
    exact List.mem_append_right _ ha

/-- The same over the numbers below a bound, each of which has one turn. -/
theorem foldl_range_turn {σ : Type} {f : σ → Nat → σ} {I P : σ → Prop} {n e : Nat} (he : e < n)
    (before : ∀ t a, a ≠ e → I t → I (f t a)) (turn : ∀ t, I t → P (f t e)) (after : ∀ t a, a ≠ e → P t → P (f t a))
    {s : σ} (h : I s) : P ((List.range n).foldl f s) :=
  foldl_turn (List.mem_range.2 he) before turn (fun t a ha => after t a ((List.nodup_range.mem_erase_iff.1 ha).1)) h

/-! ### Tables -/

section tables
variable {β : Type} {d : β} [DecidableEq β]

/-- A canonical table lists no key below its bound. -/
theorem tabGet_below {t : Tab β} {lo k : Nat} (ht : tabFrom d lo t = true) (hk : k < lo) : tabGet d t k = d := by
  cases t with
  | nil => rfl
  | cons p t =>
    simp only [tabFrom, Bool.and_eq_true, decide_eq_true_eq] at ht
    simp [tabGet, show ¬ k = p.1 by omega, show k < p.1 by omega]

omit [DecidableEq β] in
/-- A value other than the default is read from an entry. -/
theorem tabGet_mem {t : Tab β} {k : Nat} (h : tabGet d t k ≠ d) : (k, tabGet d t k) ∈ t := by
  induction t with
  | nil => exact absurd rfl h
  | cons p t ih =>
    obtain ⟨a, x⟩ := p
    simp only [tabGet] at h ⊢
    by_cases hk : k = a
    · simp [hk]
    · by_cases hlt : k < a
      · simp [hk, hlt] at h
      · simp only [hk, hlt, if_false] at h ⊢
        exact List.mem_cons_of_mem _ (ih h)

omit [DecidableEq β] in
/-- A key that a table does not list reads as the default. -/
theorem tabGet_of_notMem {t : Tab β} {k : Nat} (h : ∀ e ∈ t, e.1 ≠ k) : tabGet d t k = d := by
  by_contra hd
  exact h _ (tabGet_mem hd) rfl

omit [DecidableEq β] in
/-- A cleared range reads as the default. -/
theorem tabGet_tabClear_in (t : Tab β) {lo hi k : Nat} (h : lo ≤ k ∧ k < hi) : tabGet d (tabClear t lo hi) k = d := by
  refine tabGet_of_notMem fun e he hk => ?_
  have := (List.mem_filter.1 he).2
  simp only [Bool.or_eq_true, decide_eq_true_eq] at this
  omega

/-- Outside a cleared range a canonical table reads as before. -/
theorem tabGet_tabClear_out {t : Tab β} {m lo hi k : Nat} (ht : tabFrom d m t = true) (h : k < lo ∨ hi ≤ k) :
    tabGet d (tabClear t lo hi) k = tabGet d t k := by
  induction t generalizing m with
  | nil => rfl
  | cons p t ih =>
    obtain ⟨a, x⟩ := p
    simp only [tabFrom, Bool.and_eq_true, decide_eq_true_eq] at ht
    obtain ⟨-, ht⟩ := ht
    have ih := ih ht
    by_cases hp : a < lo ∨ hi ≤ a
    · simp only [tabClear, List.filter_cons, Bool.or_eq_true, decide_eq_true_eq, hp, if_true, tabGet]
      rw [← ih, tabClear]
    · have hc : tabClear ((a, x) :: t) lo hi = tabClear t lo hi := by simp [tabClear, hp]
      rw [hc, ih, tabGet, if_neg (by omega)]
      split
      · exact tabGet_below ht (by omega)
      · rfl

omit [DecidableEq β] in
/-- A function of every value that keeps the default commutes with reading. -/
theorem tabGet_map (f : β → β) (hf : f d = d) (t : Tab β) (k : Nat) :
    tabGet d (t.map fun p => (p.1, f p.2)) k = f (tabGet d t k) := by
  induction t with
  | nil => exact hf.symm
  | cons p t ih =>
    simp only [List.map_cons, tabGet, ih]
    split
    · rfl
    · split
      · exact hf.symm
      · rfl

end tables

/-! ### The state's tables at another key -/

section others
variable (s : State) (k j : Nat)
theorem State.hart_setHart_ne (x : Hart) (h : j ≠ k) : (s.setHart k x).hart j = s.hart j := by
  simp [State.hart, State.setHart, tabGet_tabSet, h]
theorem State.die_setDie_eq (x : Die) : (s.setDie k x).die j = if j = k then x else s.die j := by
  simp [State.die, State.setDie, tabGet_tabSet]
end others

/-! ### What changes memory alone -/

/-- The package but for its memory is as it was. -/
def State.sameButMem (s t : State) : Prop := t = { s with mem := t.mem }

theorem State.sameButMem_refl (s : State) : s.sameButMem s := rfl

theorem State.sameButMem_trans {s t u : State} (h : s.sameButMem t) (k : t.sameButMem u) : s.sameButMem u := by
  unfold State.sameButMem at *
  rw [k, h]

theorem State.sameButMem_wrBytes (s : State) (pa : Nat) (bs : List Byte) : s.sameButMem (s.wrBytes pa bs) := by
  induction bs generalizing s pa with
  | nil => rfl
  | cons b bs ih => exact State.sameButMem_trans (t := s.wr pa b) rfl (ih _ _)

theorem State.sameButMem_foldl {α : Type} {f : State → α → State} (hf : ∀ (s : State) a, s.sameButMem (f s a)) (l : List α) (s : State) :
    s.sameButMem (l.foldl f s) :=
  List.foldlRecOn l f (motive := s.sameButMem) s.sameButMem_refl fun _ ht a _ => State.sameButMem_trans ht (hf _ a)

theorem State.sameButMem_setCap (s : State) (id : BitVec 16) (v : Nat) : s.sameButMem (s.setCap id v) := by
  unfold State.setCap
  split
  · exact s.sameButMem_wrBytes _ _
  · rfl

@[simp] theorem State.die_setCap (s : State) (id : BitVec 16) (v d : Nat) : (s.setCap id v).die d = s.die d := by
  rw [s.sameButMem_setCap]; rfl

theorem State.sameButMem_writeCaps (s : State) : s.sameButMem s.writeCaps :=
  State.sameButMem_foldl (fun s _ => s.sameButMem_wrBytes _ _) _ s

end Sys2Proof.Machine

/-! PROOF. Reset, and bring-up to stage 0x4 (spec/01_package_and_bringup.md R13, R23 to R27). -/
namespace Sys2Proof.Machine

/-! ### Reset (R25, R28) -/

/-- Settles O60: every table of the reset state is empty, so whatever is read of it is its default. -/
theorem resetState : Obligations.ResetState :=
  ⟨rfl, rfl, rfl, fun _ => rfl, rfl, fun _ => rfl, fun _ => rfl, fun _ => rfl, rfl, fun _ => ⟨rfl, rfl, rfl⟩, fun _ => rfl⟩

/-! ### Steps with a condition, stages, failures (R25 to R27) -/

theorem State.when_pos {s : State} {c : Bool} {f : State → State} (h : c = true) : s.when c f = .next (f s) := by
  simp [State.when, h]

theorem State.when_neg {s : State} {c : Bool} {f : State → State} (h : c = false) : s.when c f = .next s := by
  simp [State.when, h]

theorem State.inStage_iff {s : State} {d k : Nat} :
    s.inStage d k = true ↔ s.powered = true ∧ s.tripped = false ∧ s.halted = false ∧ s.ready = false ∧ d < 4 ∧ (s.die d).stage = k := by
  simp only [State.inStage, Bool.and_eq_true, Bool.not_eq_true', beq_iff_eq, decide_eq_true_eq, and_assoc]
  rfl

/-- Bring-up that goes on has recorded no error, and READY is down. -/
theorem State.errCode_of_inStage {s : State} {d k : Nat} (h : s.inStage d k = true) : s.errCode = 0 ∧ s.ready = false := by
  obtain ⟨-, -, hh, hr, -⟩ := State.inStage_iff.1 h
  exact ⟨by simpa [State.halted, hr] using hh, hr⟩

theorem State.fail_of_clear {s : State} (h : s.errCode = 0) (d : Nat) (c : Byte) :
    s.fail d c = { s with errCode := c, errDie := BitVec.ofNat 4 (2 ^ d) } := by
  simp [State.fail, h]

theorem State.endStage_out {s : State} {d k : Nat} {go : State → State} (h : s.inStage d k = true) :
    s.endStage d k go = .next (if s.late d then s.fail d 0x07 else go s) := State.when_pos h

/-- A stage that ends within its limit. -/
theorem State.endStage_in_time {s : State} {d k : Nat} {go : State → State} (h : s.inStage d k = true ∧ s.late d = false) :
    s.endStage d k go = .next (go s) := by
  simp [State.endStage_out h.1, h.2]

/-- A stage that ends past its limit. -/
theorem State.endStage_late {s : State} {d k : Nat} {go : State → State} (h : s.inStage d k = true) (hl : s.late d = true) :
    s.endStage d k go = .next (s.fail d 0x07) := by
  simp [State.endStage_out h, hl]

theorem State.late_of_limit {s : State} {d k : Nat} (h1 : 1 ≤ k) (h8 : k ≤ 8) (h : s.inStage d k = true)
    (hl : stageLimit k < s.now - (s.die d).stageAt) : s.late d = true := by
  obtain ⟨-, -, -, -, -, hk⟩ := State.inStage_iff.1 h
  simp [State.late, hk, h, h1, h8, hl]

theorem State.allIn_iff {s : State} {k : Nat} : s.allIn k = true ↔ ∀ e, e < 4 → s.inStage e k = true := by
  simp [State.allIn, Config.dies]

/-- The outcome of a step that brings die `d` to stage `k`, and does `more`. -/
def State.Enters (s : State) (o : Out) (d k : Nat) (more : State → Prop) : Prop :=
  ∃ t, o = .next t ∧ (t.die d).stage = k ∧ (t.die d).stageAt = s.now ∧ (∀ e, e ≠ d → t.die e = s.die e)
    ∧ t.errCode = s.errCode ∧ t.ready = s.ready ∧ more t

/-- The outcome of a step that fails with a code on die `e`. -/
def State.Fails (s : State) (o : Out) (e : Nat) (code : Byte) : Prop :=
  ∃ t, o = .next t ∧ t.errCode = code ∧ t.errDie = BitVec.ofNat 4 (2 ^ e) ∧ t.dies = s.dies ∧ t.ready = false

/-- A failure of a bring-up that goes on. -/
theorem State.fails_of_inStage {s : State} {o : Out} {a k e : Nat} {code : Byte} (h : s.inStage a k = true)
    (ho : o = .next (s.fail e code)) : s.Fails o e code := by
  obtain ⟨h0, hr⟩ := State.errCode_of_inStage h
  rw [State.fail_of_clear h0] at ho
  exact ⟨_, ho, rfl, rfl, rfl, hr⟩

/-- A die that enters a stage, from a state whose dies, error and READY are as before. -/
theorem State.enters_of_enter {s u : State} {o : Out} {d k : Nat} {more : State → Prop} (ho : o = .next (u.enter d k))
    (hd : ∀ e, e ≠ d → u.die e = s.die e) (hn : u.now = s.now) (he : u.errCode = s.errCode) (hr : u.ready = s.ready)
    (hm : more (u.enter d k)) : s.Enters o d k more := by
  refine ⟨_, ho, ?_, ?_, fun e hne => ?_, he, hr, hm⟩
  · simp [State.enter]
  · simp [State.enter, hn]
  · rw [State.enter, State.die_setDie_ne _ _ _ _ hne, hd e hne]

/-- The stage that a die has entered, and since when. -/
theorem State.stage_enter (s : State) (d k e : Nat) :
    ((s.enter d k).die e).stage = if e = d then k else (s.die e).stage := by
  rw [State.enter, State.die_setDie_eq]; split <;> rfl

theorem State.stageAt_enter (s : State) (d k e : Nat) :
    ((s.enter d k).die e).stageAt = if e = d then s.now else (s.die e).stageAt := by
  rw [State.enter, State.die_setDie_eq]; split <;> rfl

/-- Every die enters a stage. -/
theorem State.stage_enterAll (s : State) {k e : Nat} (he : e < 4) :
    let t := (List.range Config.dies).foldl (fun s d => s.enter d k) s
    (t.die e).stage = k ∧ (t.die e).stageAt = s.now := by
  refine foldl_range_turn (f := fun t a => State.enter t a k) (n := Config.dies) (I := fun t : State => t.now = s.now)
    (P := fun t : State => (t.die e).stage = k ∧ (t.die e).stageAt = s.now) he (fun t a _ ht => ht) (fun t ht => ?_) (fun t a ha ht => ?_) rfl
  · simp [State.stage_enter, State.stageAt_enter, ht]
  · simpa [State.stage_enter, State.stageAt_enter, Ne.symm ha] using ht

/-! ### Memory cleared at bring-up (R13, R15) -/

theorem State.rd_clearRange_in (s : State) {lo n a : Nat} (h1 : lo ≤ a) (h2 : a < lo + n) : (s.clearRange lo n).rd a = 0 :=
  tabGet_tabClear_in _ ⟨h1, h2⟩

theorem State.rd_clearRange_out (s : State) {lo n a : Nat} (hw : tabWf State.emptyByte s.mem = true) (h : a < lo ∨ lo + n ≤ a) :
    (s.clearRange lo n).rd a = s.rd a := tabGet_tabClear_out hw h

/-! ### POWER_GOOD, and stages 0x1 to 0x4 -/

section stages
variable {s : State}

theorem execPowerGood_spec (ht : s.tripped = false) (h0 : ∀ e, e < 4 → (s.die e).stage = 0) :
    ∃ t, execPowerGood s = .next t ∧ t.powered = true ∧ t.tripped = false
      ∧ ∀ e, e < 4 → (t.die e).stage = 1 ∧ (t.die e).stageAt = s.now := by
  refine ⟨_, State.when_pos (by simpa [ht, Config.dies] using h0), rfl, ht, fun e he => ?_⟩
  exact State.stage_enterAll { s with powered := true, windowAt := s.now } he

theorem execPowerGood_tripped (ht : s.tripped = true) : execPowerGood s = .next s := State.when_neg (by simp [ht])

theorem execImageVerify_begin (h : s.inStage s.inp.die 1 = true ∧ s.late s.inp.die = false) :
    s.Enters (execImageVerify s) s.inp.die 2 fun _ => True :=
  State.enters_of_enter (u := s) (by simp [execImageVerify, h.1, State.endStage_in_time h]) (fun _ _ => rfl) rfl rfl rfl trivial

/-- Stage 0x2 checks the slots. -/
theorem execImageVerify_eq (h : s.inStage s.inp.die 2 = true) :
    execImageVerify s = s.endStage s.inp.die 2 fun s => match s.bootSlot with
      | .error e => s.fail s.inp.die e
      | .ok slot =>
        let s := (s.setDie s.inp.die { s.die s.inp.die with slot }).enter s.inp.die 3
        if s.inp.die = 0 then { s with image := s.header slot } else s := by
  have h1 : ¬ s.inStage s.inp.die 1 = true := by
    rw [State.inStage_iff] at h ⊢
    omega
  rw [execImageVerify, if_neg h1]
  rfl

theorem execImageVerify_error (h : s.inStage s.inp.die 2 = true ∧ s.late s.inp.die = false) {e : Byte} (he : s.bootSlot = .error e) :
    s.Fails (execImageVerify s) s.inp.die e := by
  refine State.fails_of_inStage h.1 ?_
  rw [execImageVerify_eq h.1, State.endStage_in_time h]
  simp only [he]

theorem execImageVerify_ok (h : s.inStage s.inp.die 2 = true ∧ s.late s.inp.die = false) {b : Nat} (hb : s.bootSlot = .ok b) :
    s.Enters (execImageVerify s) s.inp.die 3 fun t =>
      (t.die s.inp.die).slot = b ∧ t.image = if s.inp.die = 0 then s.header b else s.image := by
  obtain ⟨u, hu⟩ : ∃ u, u = (s.setDie s.inp.die { s.die s.inp.die with slot := b }).enter s.inp.die 3 := ⟨_, rfl⟩
  have ho : execImageVerify s = .next (if s.inp.die = 0 then { u with image := s.header b } else u) := by
    rw [execImageVerify_eq h.1, State.endStage_in_time h]
    simp only [hb, hu]
    rfl
  have hd : u.die s.inp.die = { s.die s.inp.die with slot := b, stage := 3, stageAt := s.now } := by
    simp [hu, State.enter]
  have hne : ∀ e, e ≠ s.inp.die → u.die e = s.die e := fun e he => by
    simp [hu, State.enter, State.die_setDie_eq, he]
  have hrest : u.errCode = s.errCode ∧ u.ready = s.ready ∧ u.image = s.image := by simp [hu, State.enter]
  obtain ⟨herr, hready, himage⟩ := hrest
  by_cases h0 : s.inp.die = 0
  · rw [if_pos h0] at ho
    exact ⟨_, ho, congrArg Die.stage hd, congrArg Die.stageAt hd, hne, herr, hready, congrArg Die.slot hd, (if_pos h0).symm⟩
  · rw [if_neg h0] at ho
    exact ⟨_, ho, congrArg Die.stage hd, congrArg Die.stageAt hd, hne, herr, hready, congrArg Die.slot hd,
      himage.trans (if_neg h0).symm⟩

/-- The range reads 0, and every other byte of a memory in its canonical form as before. -/
def State.Zeroed (s t : State) (lo n : Nat) : Prop :=
  (∀ a, lo ≤ a → a < lo + n → t.rd a = 0) ∧ ∀ a, tabWf State.emptyByte s.mem = true → (a < lo ∨ lo + n ≤ a) → t.rd a = s.rd a

theorem State.zeroed_clearRange (s : State) (lo n : Nat) : s.Zeroed (s.clearRange lo n) lo n :=
  ⟨fun _ => s.rd_clearRange_in, fun _ => s.rd_clearRange_out⟩

theorem execSheetSelfCalibrate_ok (h : s.inStage s.inp.die 3 = true ∧ s.late s.inp.die = false) (hok : s.inp.ok = true) :
    s.Enters (execSheetSelfCalibrate s) s.inp.die 4 fun t => s.Zeroed t (sheetBase + s.inp.die * 2 ^ 30) (2 ^ 30) := by
  refine State.enters_of_enter (u := s.clearRange (sheetBase + s.inp.die * 2 ^ 30) (2 ^ 30)) ?_ (fun _ _ => rfl) rfl rfl rfl
    (s.zeroed_clearRange _ _)
  rw [execSheetSelfCalibrate, State.endStage_in_time h, if_pos hok]

theorem execSheetSelfCalibrate_bad (h : s.inStage s.inp.die 3 = true ∧ s.late s.inp.die = false) (hok : s.inp.ok = false) :
    s.Fails (execSheetSelfCalibrate s) s.inp.die 0x03 :=
  State.fails_of_inStage h.1 (by simp [execSheetSelfCalibrate, State.endStage_in_time h, hok])

/-- Stage 0x4, once die 0 has passed stage 0x2. -/
theorem execD2dLinkTrain_eq (h : s.inStage s.inp.die 4 = true ∧ s.late s.inp.die = false) (h0 : 3 ≤ (s.die 0).stage) :
    execD2dLinkTrain s = .next (if s.inp.ok = false then s.fail s.inp.die 0x06
      else if (s.die s.inp.die).slot ≠ (s.die 0).slot then s.fail s.inp.die 0x0A else s.enter s.inp.die 5) := by
  rw [execD2dLinkTrain, State.endStage_in_time h]
  simp [show ¬ (s.die 0).stage < 3 by omega]

end stages
end Sys2Proof.Machine

/-! PROOF. Bring-up from stage 0x5 to READY (spec/01_package_and_bringup.md R15, R25 to R27, R412). -/
namespace Sys2Proof.Machine

/-! ### LPDDR_TRAIN -/

section lpddr
variable {s : State}

/-- The channels of a die, trained at a temperature. -/
def channelsAt (temp : Nat) : Tab Nat := (List.range 48).foldl (fun t c => tabSet 0 t c temp) []

/-- One die's training: its channels take the temperature, and stage 0x6 begins. -/
def State.trainDie (s : State) (d : Nat) : State := (s.setDie d { s.die d with trained := channelsAt s.inp.temp }).enter d 6

@[simp] theorem State.trainDie_inp (s : State) (d : Nat) : (s.trainDie d).inp = s.inp := rfl
@[simp] theorem State.trainDie_errCode (s : State) (d : Nat) : (s.trainDie d).errCode = s.errCode := rfl
@[simp] theorem State.trainDie_rate (s : State) (d : Nat) : (s.trainDie d).rate = s.rate := rfl

theorem State.die_trainDie (s : State) (d e : Nat) : (s.trainDie d).die e =
    if e = d then { s.die d with trained := channelsAt s.inp.temp, stage := 6, stageAt := s.now } else s.die e := by
  rw [State.trainDie, State.enter, State.die_setDie_eq]
  split
  · simp
  · next h => rw [State.die_setDie_ne _ _ _ _ h]

/-- Every channel of the table holds the temperature. -/
theorem tabGet_channelsAt (temp : Nat) {c : Nat} (hc : c < 48) : tabGet 0 (channelsAt temp) c = temp := by
  refine foldl_range_turn (f := fun t c => tabSet 0 t c temp) (I := fun _ => True) (P := fun t => tabGet 0 t c = temp) hc (fun _ _ _ _ => trivial)
    (fun t _ => tabGet_tabSet_same ..) (fun t a ha ht => ?_) trivial
  rw [tabGet_tabSet_ne _ _ _ _ (Ne.symm ha), ht]

theorem State.trained_trainAll (s : State) {e : Nat} (he : e < 4) :
    let t := (List.range Config.dies).foldl State.trainDie s
    (t.die e).stage = 6 ∧ ∀ c, c < 48 → tabGet 0 (t.die e).trained c = s.inp.temp := by
  refine foldl_range_turn (f := State.trainDie) (n := Config.dies) (I := fun t : State => t.inp = s.inp)
    (P := fun t : State => (t.die e).stage = 6 ∧ ∀ c, c < 48 → tabGet 0 (t.die e).trained c = s.inp.temp) he
    (fun t a _ ht => (t.trainDie_inp a).trans ht) (fun t ht => ?_) (fun t a ha ht => ?_) rfl
  · rw [State.die_trainDie, if_pos rfl, ← ht]
    exact ⟨rfl, fun c hc => by rw [tabGet_channelsAt _ hc]⟩
  · rwa [State.die_trainDie, if_neg (Ne.symm ha)]

theorem execLpddrTrain_eq (h : ∀ e, e < 4 → s.inStage e 5 = true) (hl : ∀ e, e < 4 → s.late e = false) :
    execLpddrTrain s = .next (match trainRate s.inp.bads with
      | .error c => s.fail (c / 48 % 4) 0x04
      | .ok r => (List.range Config.dies).foldl State.trainDie { s with rate := r }) := by
  have hf : (List.range Config.dies).find? s.late = none := by
    simpa [List.find?_eq_none, Config.dies] using hl
  rw [execLpddrTrain, State.when_pos (State.allIn_iff.2 h), hf]
  rfl

theorem execLpddrTrain_ok (h : ∀ e, e < 4 → s.inStage e 5 = true) (hl : ∀ e, e < 4 → s.late e = false) {r : Nat}
    (hr : trainRate s.inp.bads = .ok r) : ∃ t, execLpddrTrain s = .next t ∧ t.rate = r ∧ t.errCode = s.errCode
      ∧ ∀ e, e < 4 → (t.die e).stage = 6 ∧ ∀ c, c < 48 → tabGet 0 (t.die e).trained c = s.inp.temp := by
  refine ⟨_, (execLpddrTrain_eq h hl).trans (by rw [hr]), ?_⟩
  have hkeep := List.foldlRecOn (List.range Config.dies) State.trainDie (b := { s with rate := r })
    (motive := fun t => t.rate = r ∧ t.errCode = s.errCode) ⟨rfl, rfl⟩ fun t ht d _ => by simpa using ht
  exact ⟨hkeep.1, hkeep.2, fun e he => State.trained_trainAll { s with rate := r } he⟩

theorem execLpddrTrain_error (h : ∀ e, e < 4 → s.inStage e 5 = true) (hl : ∀ e, e < 4 → s.late e = false) {c : Nat}
    (hc : trainRate s.inp.bads = .error c) : s.Fails (execLpddrTrain s) (c / 48 % 4) 0x04 :=
  State.fails_of_inStage (h 0 (by decide)) (by rw [execLpddrTrain_eq h hl, hc])

theorem execLpddrTrain_late (h : ∀ e, e < 4 → s.inStage e 5 = true) (hl : ∃ e, e < 4 ∧ s.late e = true) :
    ∃ t, execLpddrTrain s = .next t ∧ t.errCode = 0x07 := by
  obtain ⟨e, he, hle⟩ := hl
  obtain ⟨d, hd⟩ : ∃ d, (List.range Config.dies).find? s.late = some d :=
    Option.isSome_iff_exists.1 (List.find?_isSome.2 ⟨e, List.mem_range.2 he, hle⟩)
  rw [execLpddrTrain, State.when_pos (State.allIn_iff.2 h), hd]
  refine ⟨s.fail d 0x07, rfl, ?_⟩
  rw [State.fail_of_clear (State.errCode_of_inStage (h 0 (by decide))).1]

/-! ### LPDDR_INIT and NDENATH_LINK_TRAIN -/

theorem execLpddrInit_ok (h : s.inStage s.inp.die 6 = true ∧ s.late s.inp.die = false) (hok : s.inp.ok = true) :
    s.Enters (execLpddrInit s) s.inp.die 7 fun t => s.Zeroed t (lpddrBase + s.inp.die * lpddrSize) lpddrSize := by
  refine State.enters_of_enter (u := s.clearRange (lpddrBase + s.inp.die * lpddrSize) lpddrSize) ?_ (fun _ _ => rfl) rfl rfl rfl
    (s.zeroed_clearRange _ _)
  rw [execLpddrInit, State.endStage_in_time h]
  exact congrArg _ (if_pos hok)

/-- The readback fails (R15): the memory is cleared all the same. -/
theorem execLpddrInit_bad (h : s.inStage s.inp.die 6 = true ∧ s.late s.inp.die = false) (hok : s.inp.ok = false) :
    s.Fails (execLpddrInit s) s.inp.die 0x05 := by
  obtain ⟨h0, hr⟩ := State.errCode_of_inStage h.1
  have ho : execLpddrInit s = .next ((s.clearRange (lpddrBase + s.inp.die * lpddrSize) lpddrSize).fail s.inp.die 0x05) := by
    rw [execLpddrInit, State.endStage_in_time h]
    exact congrArg _ (if_neg (Bool.eq_false_iff.1 hok))
  rw [State.fail_of_clear (by exact h0)] at ho
  exact ⟨_, ho, rfl, rfl, rfl, hr⟩

theorem execNdenathLinkTrain_spec (h : s.inStage s.inp.die 7 = true ∧ s.late s.inp.die = false) :
    s.Enters (execNdenathLinkTrain s) s.inp.die 8 fun t => t.fabUp = s.fabUp ||| s.inp.mask := by
  obtain ⟨u, hu⟩ : ∃ u, u = ({ s with fabUp := s.fabUp ||| s.inp.mask } : State).enter s.inp.die 8 := ⟨_, rfl⟩
  have ho : execNdenathLinkTrain s = .next (u.setCap 5 u.fabUp.toNat) := by
    rw [hu, execNdenathLinkTrain, State.endStage_in_time h]
  rw [u.sameButMem_setCap 5 u.fabUp.toNat] at ho
  refine ⟨_, ho, ?_, ?_, fun e he => ?_, ?_⟩
  · show (u.die _).stage = 8
    rw [hu, State.stage_enter, if_pos rfl]
  · show (u.die _).stageAt = s.now
    rw [hu, State.stageAt_enter, if_pos rfl]
  · show u.die e = s.die e
    rw [hu, State.enter, State.die_setDie_ne _ _ _ _ he]
    rfl
  · rw [hu]
    exact ⟨rfl, rfl, rfl⟩

end lpddr

/-! ### FIRMWARE_SERVICES_START (R12, R52, R412) -/

section booted
variable (h : Hart) (k : Nat) (entry vector : Dword)

@[simp] theorem Hart.booted_pc : (h.booted k entry vector).pc = entry := by
  unfold Hart.booted; split <;> rfl

@[simp] theorem Hart.booted_mtvec : (h.booted k entry vector).mtvec = vecBase vector := by
  unfold Hart.booted; split <;> rfl

@[simp] theorem Hart.booted_mode : (h.booted k entry vector).mode = if k = 3 then .m else .s := by
  unfold Hart.booted; split <;> rfl

/-- A control core of the runtime: its delegations. -/
theorem Hart.booted_delegates (hk : k ≠ 3) : (h.booted k entry vector).medeleg = 0xF8B5FF
    ∧ tabGet 0 (h.booted k entry vector).csrs 0x303 = 0x222 := by
  rw [Hart.booted, if_neg hk]
  exact ⟨rfl, by rw [tabGet_tabSet_ne _ _ _ _ (by decide), tabGet_tabSet_same]⟩

end booted

/-- The harts of die `d` leave the boot ROM. -/
def State.bootHarts (s : State) (d : Nat) (f : FwBoot) : State :=
  (List.range Config.harts).foldl (fun s k =>
    s.setHart (d * Config.harts + k) ((s.hart (d * Config.harts + k)).booted k (f.entries.getD k 0) (f.vectors.getD k 0))) s

theorem State.bootHarts_only (s : State) (d : Nat) (f : FwBoot) :
    s.bootHarts d f = { s with harts := (s.bootHarts d f).harts } :=
by
  unfold State.bootHarts
  exact List.foldlRecOn (List.range Config.harts) _ (b := s) (motive := fun t : State => t = { s with harts := t.harts }) rfl
    fun t ht k _ => by rw [State.setHart]; rw [ht]

theorem State.hart_bootHarts (s : State) (d : Nat) (f : FwBoot) {k : Nat} (hk : k < 4) :
    (s.bootHarts d f).hart (4 * d + k) = (s.hart (4 * d + k)).booted k (f.entries.getD k 0) (f.vectors.getD k 0) := by
  have hn : 4 * d + k = d * Config.harts + k := by simp [Config.harts, Nat.mul_comm]
  rw [hn]
  refine foldl_range_turn (n := Config.harts) (f := fun s k => State.setHart s (d * Config.harts + k)
      ((s.hart (d * Config.harts + k)).booted k (f.entries.getD k 0) (f.vectors.getD k 0)))
    (I := fun t : State => t.hart (d * Config.harts + k) = s.hart (d * Config.harts + k))
    (P := fun t : State => t.hart (d * Config.harts + k) = (s.hart (d * Config.harts + k)).booted k (f.entries.getD k 0) (f.vectors.getD k 0))
    hk (fun t a ha ht => ?_) (fun t ht => ?_) (fun t a ha ht => ?_) rfl
  · rw [State.hart_setHart_ne _ _ _ _ (by omega), ht]
  · rw [State.hart_setHart, ht]
  · rw [State.hart_setHart_ne _ _ _ _ (by omega), ht]

/-- What die 0's firmware builds. -/
def State.buildRuntime (s : State) (f : FwBoot) : State :=
  let s := (f.tables.foldl (fun s t => s.wrBytes t.1 t.2) s).writeContexts f
  ({ s with capPa := f.capPa, capVa := f.capVa, caps := s.buildCaps f } : State).writeCaps

/-- It changes memory, the context table's base and the capability list alone. -/
theorem State.buildRuntime_eq (s : State) (f : FwBoot) : ∃ m c, s.buildRuntime f =
    { s with mem := m, caps := c, ctxBase := f.ctxTable, capPa := f.capPa, capVa := f.capVa } := by
  obtain ⟨t, ht⟩ : ∃ t, t = f.tables.foldl (fun s t => State.wrBytes s t.1 t.2) s := ⟨_, rfl⟩
  have h1 : s.sameButMem t := ht ▸ State.sameButMem_foldl (fun s _ => s.sameButMem_wrBytes _ _) _ _
  obtain ⟨m, hm⟩ : ∃ m, t.writeContexts f = { t with ctxBase := f.ctxTable, mem := m } :=
    ⟨_, State.sameButMem_wrBytes { t with ctxBase := f.ctxTable, mem := _ } _ _⟩
  obtain ⟨w, hw⟩ : ∃ w, w = ({ t.writeContexts f with capPa := f.capPa, capVa := f.capVa, caps := (t.writeContexts f).buildCaps f } : State) :=
    ⟨_, rfl⟩
  obtain ⟨n, hn⟩ : ∃ n, w.writeCaps = { w with mem := n } := ⟨_, w.sameButMem_writeCaps⟩
  refine ⟨n, w.caps, ?_⟩
  rw [State.buildRuntime, ← ht, ← hw, hn, hw, hm, h1]

section firmware
variable {s : State}

/-- The log and, on die 0, what its firmware builds lie where R12 and R412 want them. -/
def State.fwPlaced (s : State) : Bool :=
  s.inFixed s.inp.die (s.inp.fw.logBase.getD s.inp.die 0).toNat 262144 && (s.inp.die != 0 || s.fwBuilds s.inp.fw)

/-- The die as its firmware leaves it: the log and the sheet registers. -/
def State.fwDie (s : State) : Die :=
  { s.die s.inp.die with
    stage := 9, stageAt := s.now, logBase := s.inp.fw.logBase.getD s.inp.die 0, ordSize := BitVec.ofNat 9 (s.ordMax / 2)
    ordPending := none }

/-- Stage 0x8 of a die, when its firmware's places are right: the die, then its harts, then die 0's tables. -/
theorem execFirmwareServicesStart_eq (h : s.inStage s.inp.die 8 = true ∧ s.late s.inp.die = false) :
    execFirmwareServicesStart s = .next (if s.fwPlaced then
      if s.inp.die = 0 then ((s.setDie s.inp.die s.fwDie).bootHarts s.inp.die s.inp.fw).buildRuntime s.inp.fw
      else (s.setDie s.inp.die s.fwDie).bootHarts s.inp.die s.inp.fw
      else s) := by
  rw [execFirmwareServicesStart, State.endStage_in_time h]
  rfl

theorem execFirmwareServicesStart_unplaced (h : s.inStage s.inp.die 8 = true ∧ s.late s.inp.die = false)
    (hp : s.fwPlaced = false) : execFirmwareServicesStart s = .next s := by
  rw [execFirmwareServicesStart_eq h, hp]
  rfl

theorem execFirmwareServicesStart_placed (h : s.inStage s.inp.die 8 = true ∧ s.late s.inp.die = false) (hp : s.fwPlaced = true) :
    s.Enters (execFirmwareServicesStart s) s.inp.die 9 fun t =>
      (t.die s.inp.die).logBase = s.inp.fw.logBase.getD s.inp.die 0 ∧ (t.die s.inp.die).ordPending = none
      ∧ (∀ k, k < 4 → (t.hart (4 * s.inp.die + k)).pc = s.inp.fw.entries.getD k 0
          ∧ ((t.hart (4 * s.inp.die + k)).mode = if k = 3 then .m else .s)
          ∧ (t.hart (4 * s.inp.die + k)).mtvec = vecBase (s.inp.fw.vectors.getD k 0)
          ∧ (k ≠ 3 → (t.hart (4 * s.inp.die + k)).medeleg = 0xF8B5FF ∧ tabGet 0 (t.hart (4 * s.inp.die + k)).csrs 0x303 = 0x222))
      ∧ (s.inp.die = 0 → t.ctxBase = s.inp.fw.ctxTable ∧ t.capPa = s.inp.fw.capPa ∧ t.capVa = s.inp.fw.capVa) := by
  obtain ⟨u, hu⟩ : ∃ u, u = (s.setDie s.inp.die s.fwDie).bootHarts s.inp.die s.inp.fw := ⟨_, rfl⟩
  have hdie : ∀ e, u.die e = if e = s.inp.die then s.fwDie else s.die e := fun e => by
    rw [← State.die_setDie_eq, hu, State.die, State.bootHarts_only, State.die]
  have hhart : ∀ k, k < 4 → u.hart (4 * s.inp.die + k) =
      (s.hart (4 * s.inp.die + k)).booted k (s.inp.fw.entries.getD k 0) (s.inp.fw.vectors.getD k 0) := fun k hk => by
    rw [hu, State.hart_bootHarts _ _ _ hk]
    rfl
  have hsame : u.errCode = s.errCode ∧ u.ready = s.ready := by rw [hu, State.bootHarts_only]; exact ⟨rfl, rfl⟩
  obtain ⟨t, ho, hd, hh, he, hr, hc⟩ : ∃ t, execFirmwareServicesStart s = .next t ∧ t.dies = u.dies ∧ t.harts = u.harts
      ∧ t.errCode = u.errCode ∧ t.ready = u.ready
      ∧ (s.inp.die = 0 → t.ctxBase = s.inp.fw.ctxTable ∧ t.capPa = s.inp.fw.capPa ∧ t.capVa = s.inp.fw.capVa) := by
    rw [execFirmwareServicesStart_eq h, if_pos hp, ← hu]
    by_cases h0 : s.inp.die = 0
    · obtain ⟨m, c, hb⟩ := u.buildRuntime_eq s.inp.fw
      rw [if_pos h0, hb]
      exact ⟨_, rfl, rfl, rfl, rfl, rfl, fun _ => ⟨rfl, rfl, rfl⟩⟩
    · rw [if_neg h0]
      exact ⟨_, rfl, rfl, rfl, rfl, rfl, fun hz => absurd hz h0⟩
  have hself : t.die s.inp.die = s.fwDie := by rw [State.die, hd, ← State.die, hdie, if_pos rfl]
  have hbooted : ∀ k, k < 4 → t.hart (4 * s.inp.die + k) =
      (s.hart (4 * s.inp.die + k)).booted k (s.inp.fw.entries.getD k 0) (s.inp.fw.vectors.getD k 0) := fun k hk => by
    rw [State.hart, hh, ← State.hart, hhart k hk]
  refine ⟨t, ho, ?_, ?_, fun e hne => ?_, he.trans hsame.1, hr.trans hsame.2, ?_, ?_, fun k hk => ?_, hc⟩
  · rw [hself, State.fwDie]
  · rw [hself, State.fwDie]
  · rw [State.die, hd, ← State.die, hdie, if_neg hne]
  · rw [hself, State.fwDie]
  · rw [hself, State.fwDie]
  · rw [hbooted k hk]
    exact ⟨Hart.booted_pc .., Hart.booted_mode .., Hart.booted_mtvec .., Hart.booted_delegates _ _ _ _⟩

/-! ### READY, and stages past their limit -/

theorem execReadySet_eq (h : ∀ e, e < 4 → s.inStage e 9 = true) :
    execReadySet s = .next { s with ready := true, readyAt := s.now, windowAt := s.now } := State.when_pos (State.allIn_iff.2 h)

/-- Every event that ends a stage of one die fails it past the limit. -/
theorem exec_late {k : Nat} {i : Instr} (hi : (k, i) ∈ [(1, .imageVerify), (2, .imageVerify), (3, .sheetSelfCalibrate), (4, .d2dLinkTrain),
    (6, .lpddrInit), (7, .ndenathLinkTrain), (8, .firmwareServicesStart)]) (h : s.inStage s.inp.die k = true)
    (hl : stageLimit k < s.now - (s.die s.inp.die).stageAt) : s.Fails (exec i s) s.inp.die 0x07 := by
  refine State.fails_of_inStage h ?_
  have late (h1 : 1 ≤ k) (h8 : k ≤ 8) := State.late_of_limit h1 h8 h hl
  simp only [List.mem_cons, Prod.mk.injEq, List.not_mem_nil, or_false] at hi
  rcases hi with ⟨rfl, rfl⟩ | ⟨rfl, rfl⟩ | ⟨rfl, rfl⟩ | ⟨rfl, rfl⟩ | ⟨rfl, rfl⟩ | ⟨rfl, rfl⟩ | ⟨rfl, rfl⟩
  · exact (if_pos h).trans (State.endStage_late h (late (by decide) (by decide)))
  · exact (execImageVerify_eq h).trans (State.endStage_late h (late (by decide) (by decide)))
  · exact (show execSheetSelfCalibrate s = _ from State.endStage_late h (late (by decide) (by decide)))
  · exact (show execD2dLinkTrain s = _ from State.endStage_late h (late (by decide) (by decide)))
  · exact (show execLpddrInit s = _ from State.endStage_late h (late (by decide) (by decide)))
  · exact (show execNdenathLinkTrain s = _ from State.endStage_late h (late (by decide) (by decide)))
  · exact (show execFirmwareServicesStart s = _ from State.endStage_late h (late (by decide) (by decide)))

theorem execStageLimitExceeded_fails {k : Nat} (h1 : 1 ≤ k) (h8 : k ≤ 8) (h : s.inStage s.inp.die k = true)
    (hl : stageLimit k < s.now - (s.die s.inp.die).stageAt) : s.Fails (execStageLimitExceeded s) s.inp.die 0x07 :=
  State.fails_of_inStage h (by rw [execStageLimitExceeded, State.overrun, if_pos (State.late_of_limit h1 h8 h hl)])

end firmware

/-- Settles O43: each clause is the lemma of its event above. -/
theorem bringUp : Obligations.BringUp := by
  intro s
  refine ⟨execPowerGood_spec, execPowerGood_tripped, execImageVerify_begin,
    fun h => ⟨fun _ => execImageVerify_error h, fun _ => execImageVerify_ok h⟩,
    fun h => ⟨execSheetSelfCalibrate_ok h, execSheetSelfCalibrate_bad h⟩,
    fun h h0 => ⟨fun hok => ?_, fun hok hs => ?_, fun hok hs => ?_⟩,
    fun h hl => ⟨fun _ => execLpddrTrain_ok h hl, fun _ => execLpddrTrain_error h hl⟩,
    fun h => ⟨execLpddrInit_ok h, execLpddrInit_bad h⟩, execNdenathLinkTrain_spec, fun h => ⟨fun hf hb => ?_, fun hp => ?_⟩,
    fun h => ⟨_, execReadySet_eq h, rfl⟩, fun _ _ => exec_late, fun _ => execStageLimitExceeded_fails, execLpddrTrain_late⟩
  · exact State.fails_of_inStage h.1 ((execD2dLinkTrain_eq h h0).trans (by rw [if_pos hok]))
  · exact State.fails_of_inStage h.1 ((execD2dLinkTrain_eq h h0).trans (by rw [if_neg (by simp [hok]), if_pos hs]))
  · exact State.enters_of_enter (u := s) ((execD2dLinkTrain_eq h h0).trans (by rw [if_neg (by simp [hok]), if_neg (not_not.2 hs)]))
      (fun _ _ => rfl) rfl rfl rfl trivial
  · refine execFirmwareServicesStart_placed h ?_
    by_cases h0 : s.inp.die = 0
    · rw [State.fwPlaced, hf, hb h0, Bool.or_true]; rfl
    · rw [State.fwPlaced, hf, bne_iff_ne.2 h0]; rfl
  · refine execFirmwareServicesStart_unplaced h ?_
    rcases hp with hp | ⟨h0, hb⟩
    · rw [State.fwPlaced, hp, Bool.false_and]
    · rw [State.fwPlaced, hb, h0]; simp

end Sys2Proof.Machine

/-! PROOF. The board, the management port, resets and die-to-die links (spec/01_package_and_bringup.md R10, R14, R20, R23, R24, R27 to R29). -/
namespace Sys2Proof.Machine

/-! ### Ports: a port read after a write of it -/

theorem State.ethPort_setEth (s : State) {n : Nat} (h : n < s.eth.length) (x : EthPort) : (s.setEth n x).ethPort n = x := by
  simp [State.ethPort, State.setEth, h]

/-! ### Warm reset and power loss (R28, R29) -/

theorem State.sameButMem_loseCxl (s : State) : s.sameButMem s.loseCxl := by
  refine State.sameButMem_foldl (fun s c => ?_) _ s
  split <;> rfl

/-- A warm reset changes no byte below the CXL window (R28). -/
theorem State.rd_loseCxl (s : State) {a : Nat} (h : a < cxlBase) : s.loseCxl.rd a = s.rd a := by
  refine List.foldlRecOn (Config.freeCells s.fresh) _ (motive := fun t : State => t.rd a = s.rd a) rfl fun t ht c _ => ?_
  split
  · next hc =>
    have : cxlBase ≤ c.1 := by simp only [inCxl, Bool.and_eq_true, decide_eq_true_eq] at hc; exact hc.1
    rw [State.rd_wr_ne _ _ _ _ (by omega), ht]
  · exact ht

/-- Every die enters a stage: nothing changes but the dies. -/
theorem State.enterAll_only (s : State) (k : Nat) : (List.range Config.dies).foldl (fun s d => s.enter d k) s =
    { s with dies := ((List.range Config.dies).foldl (fun s d => s.enter d k) s).dies } :=
  List.foldlRecOn (List.range Config.dies) (fun s d => State.enter s d k) (b := s) (motive := fun t : State => t = { s with dies := t.dies })
    rfl fun t ht d _ => by rw [State.enter, State.setDie]; rw [ht]

/-- What a warm reset leaves of `s`. -/
def State.Restarts (s : State) (o : Out) : Prop := ∃ t, o = .next t ∧ (∀ e, e < 4 → (t.die e).stage = 2) ∧ t.ready = false ∧ t.warm = true
  ∧ t.errCode = 0 ∧ t.flash = s.flash ∧ t.fuses = s.fuses ∧ t.fieldNow = s.fieldNow ∧ t.fieldSaved = s.fieldSaved
  ∧ t.groups = [] ∧ t.teams = [] ∧ t.launches = [] ∧ t.net = [] ∧ t.harts = [] ∧ t.now = s.now
  ∧ (∀ a, tabWf State.emptyByte s.mem = true → a < cxlBase → t.rd a = s.rd a) ∧ t.poison = s.poison

/-- The state that a warm reset begins from: everything wiped but what R28 keeps. -/
def State.warmed (s : State) : State :=
  { s.wiped with warm := true, windowAt := s.now, poison := s.poison, eth := s.eth.map fun (p : EthPort) => { up := p.up }, mem := s.mem }

/-- A warm reset is that state with CXL bytes lost and the dies in stage 0x2. -/
theorem State.warmReset_eq (s : State) : ∃ m ds, s.warmReset = { s.warmed with mem := m, dies := ds }
    ∧ (∀ a, a < cxlBase → tabGet State.emptyByte m a = s.rd a) ∧ ∀ e, e < 4 → (tabGet {} ds e : Die).stage = 2 := by
  obtain ⟨m, hm⟩ : ∃ m, s.warmed.loseCxl = { s.warmed with mem := m } := ⟨_, s.warmed.sameButMem_loseCxl⟩
  have hw : s.warmReset = (List.range Config.dies).foldl (fun s d => s.enter d 2) { s.warmed with mem := m } := by
    rw [← hm]; rfl
  refine ⟨m, s.warmReset.dies, ?_, fun a ha => ?_, fun e he => ?_⟩
  · rw [hw]; exact State.enterAll_only _ _
  · have := s.warmed.rd_loseCxl ha
    rw [hm] at this
    exact this
  · rw [hw]; exact (State.stage_enterAll _ he).1

theorem State.restarts_warmReset (s : State) : s.Restarts (.next s.warmReset) := by
  obtain ⟨m, ds, ht, hm, hd⟩ := s.warmReset_eq
  exact ⟨_, congrArg _ ht, hd, rfl, rfl, rfl, rfl, rfl, rfl, rfl, rfl, rfl, rfl, rfl, rfl, rfl, fun a _ => hm a, rfl⟩

section board
variable {s : State}

theorem State.lowStage_pos : s.lowStage != 0 ↔ 1 ≤ s.lowStage := by simp; omega

theorem execResetRegisterWrite_restarts (h : s.powered = true ∧ s.tripped = false ∧ 1 ≤ s.lowStage) (hv : s.inp.v.getLsbD 0 = true) :
    s.Restarts (execResetRegisterWrite s) := by
  obtain ⟨hp, ht, hl⟩ := h
  rw [execResetRegisterWrite, State.when_pos (by simp [State.canReset, hp, ht, State.lowStage_pos.2 hl, hv])]
  exact s.restarts_warmReset

/-! ### The management port (R20) -/

theorem State.mgmtUp_of (h : s.powered = true ∧ (s.ethPort 0).up = true ∧ 1 ≤ s.lowStage) : s.mgmtUp = true := by
  obtain ⟨hp, hu, hl⟩ := h
  simp [State.mgmtUp, hp, hu, State.lowStage_pos.2 hl]

theorem execMgmtQuery_replies (h : s.powered = true ∧ (s.ethPort 0).up = true ∧ 1 ≤ s.lowStage) (hc : mgmtCode s.inp.frame = 1)
    (hn : 0 < s.eth.length) : ∃ t, execMgmtQuery s = .next t ∧ (t.ethPort 0).replies = (s.ethPort 0).replies ++
      [{ srcMac := s.inp.frame.dstMac, dstMac := s.inp.frame.srcMac, tag := s.inp.frame.tag, etherType := 0x88B5
         payload := (leBytes 8 s.statusWord.toNat).reverse }] := by
  unfold execMgmtQuery
  dsimp only
  rw [State.when_pos (by rw [State.mgmtUp_of h, hc]; rfl)]
  exact ⟨_, rfl, by rw [State.ethPort_setEth _ hn]; rfl⟩

theorem execMgmtWarmReset_restarts (h : s.powered = true ∧ (s.ethPort 0).up = true ∧ 1 ≤ s.lowStage)
    (hp : s.powered = true ∧ s.tripped = false ∧ 1 ≤ s.lowStage) (hc : mgmtCode s.inp.frame = 2) (hi : s.image.ok = true)
    (hm : s.image.mgmt.getLsbD 0 = true) : s.Restarts (execMgmtWarmReset s) := by
  obtain ⟨hpow, ht, hl⟩ := hp
  have hr : s.canReset = true := by simp [State.canReset, hpow, ht, State.lowStage_pos.2 hl]
  rw [execMgmtWarmReset, State.when_pos (by rw [State.mgmtUp_of h, hc, hr, hi, hm]; rfl)]
  exact s.restarts_warmReset

/-! ### Board events (R23, R24, R14) -/

theorem State.fail_errCode (s : State) (d : Nat) (c : Byte) : (s.fail d c).errCode = if s.errCode = 0 then c else s.errCode := by
  unfold State.fail; split <;> simp [*]

theorem execThermalTrip_trips (hp : s.powered = true) (ht : s.tripped = false) (h : 115 ≤ s.inp.temp) : ∃ t, execThermalTrip s = .next t
    ∧ t.tripped = true ∧ t.errCode = (if s.errCode = 0 then 0x08 else s.errCode) := by
  refine ⟨_, rfl, ?_⟩
  rw [State.tripAt, if_pos (by simp [hp, ht, h])]
  exact ⟨rfl, s.fail_errCode _ _⟩

theorem execCoolantOutOfRange_fails (hp : s.powered = true) (hr : s.ready = false) (h : (s.die s.inp.die).stage ≠ 0) :
    ∃ t, execCoolantOutOfRange s = .next t ∧ t.errCode = (if s.errCode = 0 then 0x09 else s.errCode) :=
  ⟨_, State.when_pos (by simp [hp, hr, h]), s.fail_errCode _ _⟩

theorem execRollbackRaise_raises (hr : s.ready = true) (hm : s.image.mgmt.getLsbD 1 = true)
    (hv : s.fuses.rollback.toNat < s.image.rollver.toNat) :
    execRollbackRaise s = .next { s with fuses := { s.fuses with rollback := s.image.rollver } } :=
  congrArg _ (if_pos (by rw [State.raiseDue, hr, hm, decide_eq_true hv]; rfl))

theorem execLpddrDqRetrain_trains (hr : s.ready = true) (hc : s.inp.idx < 48)
    (ht : 10 ≤ max (tabGet 0 (s.die s.inp.die).trained s.inp.idx) s.inp.temp
      - min (tabGet 0 (s.die s.inp.die).trained s.inp.idx) s.inp.temp) :
    ∃ t, execLpddrDqRetrain s = .next t ∧ tabGet 0 (t.die s.inp.die).trained s.inp.idx = s.inp.temp ∧ t.mem = s.mem := by
  unfold execLpddrDqRetrain
  dsimp only
  rw [State.when_pos (by rw [hr, decide_eq_true ht, decide_eq_true hc]; rfl)]
  exact ⟨_, rfl, by rw [State.die_setDie, tabGet_tabSet_same], rfl⟩

/-! ### Retries of a die-to-die link (R10) -/

theorem isLink_iff (a b : Nat) : isLink a b = true ↔ a ≠ b ∧ a < 4 ∧ b < 4 := by
  simp only [isLink, Bool.and_eq_true, bne_iff_ne, decide_eq_true_eq, and_assoc]
  rfl

theorem State.linkDead_iff (s : State) (a b : Nat) :
    s.linkDead a b = true ↔ (a ≠ b ∧ a < 4 ∧ b < 4) ∧ 64 ≤ tabGet 0 s.retries (linkKey a b) := by
  rw [State.linkDead, Bool.and_eq_true, isLink_iff, decide_eq_true_eq]

theorem execD2dRetry_eq (s : State) : execD2dRetry s = .next (
    if !isLink s.inp.die s.inp.peer || s.linkDead s.inp.die s.inp.peer then s
    else { s with
      retries := tabSet 0 s.retries (linkKey s.inp.die s.inp.peer)
        (if s.inp.ok then 0 else tabGet 0 s.retries (linkKey s.inp.die s.inp.peer) + 1) }) := rfl

/-- Two dies that name no link, or a link past its retries: no retry. -/
theorem execD2dRetry_none (h : ¬ (s.inp.die ≠ s.inp.peer ∧ s.inp.die < 4 ∧ s.inp.peer < 4)
    ∨ 64 ≤ tabGet 0 s.retries (linkKey s.inp.die s.inp.peer)) : execD2dRetry s = .next s := by
  rw [execD2dRetry_eq, if_pos]
  rw [Bool.or_eq_true, Bool.not_eq_true', ← Bool.not_eq_true, isLink_iff, State.linkDead_iff]
  tauto

theorem execD2dRetry_counts (hl : s.inp.die ≠ s.inp.peer ∧ s.inp.die < 4 ∧ s.inp.peer < 4)
    (h : tabGet 0 s.retries (linkKey s.inp.die s.inp.peer) < 64) : ∃ t, execD2dRetry s = .next t
      ∧ tabGet 0 t.retries (linkKey s.inp.die s.inp.peer) =
        if s.inp.ok then 0 else tabGet 0 s.retries (linkKey s.inp.die s.inp.peer) + 1 := by
  refine ⟨_, (execD2dRetry_eq s).trans (congrArg _ (if_neg ?_)), tabGet_tabSet_same ..⟩
  rw [Bool.or_eq_true, Bool.not_eq_true', ← Bool.not_eq_true, isLink_iff, State.linkDead_iff]
  omega

/-- A link that is none, that has retries left, or that has failed already: no failure. -/
theorem execDieLinkFailure_none (h : ¬ (s.inp.die ≠ s.inp.peer ∧ s.inp.die < 4 ∧ s.inp.peer < 4)
    ∨ tabGet 0 s.retries (linkKey s.inp.die s.inp.peer) < 64
    ∨ (min s.inp.die s.inp.peer, max s.inp.die s.inp.peer) ∈ s.links) : execDieLinkFailure s = .next s := by
  refine congrArg _ (if_neg ?_)
  rw [Bool.and_eq_true, Bool.and_eq_true, State.linkDead_iff, Bool.not_eq_true', List.contains_eq_mem, decide_eq_false_iff_not]
  rintro ⟨⟨-, hl, hr⟩, hn⟩
  rcases h with h | h | h
  · exact h hl
  · omega
  · exact hn h

/-! ### What the failure of a link ends -/

theorem State.die_dieError (s : State) (d e : Nat) :
    (s.dieError d).die e = if e = d then { s.die e with winError := true } else s.die e := by
  rw [State.dieError, State.die_setDie_eq]
  split
  · next h => rw [h]
  · rfl

/-- A record in a fault log changes memory and the log's fields of its die. -/
theorem State.log_eq (s : State) (d : Nat) (r : LogRec) :
    ∃ m x, s.log d r = ({ s with mem := m } : State).setDie d x ∧ x.winError = (s.die d).winError := by
  unfold State.log
  dsimp only
  split
  · exact ⟨s.mem, _, rfl, rfl⟩
  · exact ⟨_, _, congrArg (State.setDie · d _) (s.sameButMem_wrBytes _ _), rfl⟩

theorem State.winError_log (s : State) (d : Nat) (r : LogRec) (e : Nat) : ((s.log d r).die e).winError = (s.die e).winError := by
  obtain ⟨m, x, h, hx⟩ := s.log_eq d r
  rw [h, State.die_setDie_eq]
  split
  · next he => rw [he, hx]
  · rfl

theorem State.winError_discardParked (s : State) (h : Word) (e : Nat) : ((s.discardParked h).die e).winError = (s.die e).winError := by
  rw [State.discardParked, State.die, State.die]
  rw [tabGet_map (fun x : Die => { x with copyFaults := x.copyFaults.filter fun f => !decide (keyHandle (groupTeam f.2.1) = h) }) rfl]

/-- The links, the error of the package and the errors of its dies are as they were. -/
def State.sameErrors (s t : State) : Prop :=
  t.links = s.links ∧ t.errCode = s.errCode ∧ ∀ e, (t.die e).winError = (s.die e).winError

/-- A launch has ended with UNCORRECTABLE. -/
def State.endsUncorrectable (s : State) (h : Word) : Prop := (s.launch h).state = .ending ∧ (s.launch h).cause = 0x15

/-- The end of a launch changes no error, and no other launch; a running one takes the cause, and one that has a cause keeps it. -/
theorem State.endLaunch_spec (s : State) (h : Word) (cause team : Nat) :
    s.sameErrors (s.endLaunch h cause team) ∧ (∀ k, k ≠ h → (s.endLaunch h cause team).launch k = s.launch k)
      ∧ ((s.launch h).state = .running → (s.endLaunch h cause team).launch h = { s.launch h with state := .ending, cause, team })
      ∧ ((s.launch h).state = .ending → (s.launch h).cause ≠ 0 → (s.endLaunch h cause team).launch h = s.launch h) := by
  unfold State.endLaunch
  dsimp only
  split
  · next hq =>
    exact ⟨⟨rfl, rfl, s.winError_discardParked h⟩, fun k hk => (s.discardParked h).launch_setLaunch_ne h k _ hk,
      fun hr => by simp [hq] at hr, fun he => by simp [hq] at he⟩
  · next hq =>
    exact ⟨⟨rfl, rfl, s.winError_discardParked h⟩, fun k hk => (s.discardParked h).launch_setLaunch_ne h k _ hk,
      fun _ => (s.discardParked h).launch_setLaunch h _, fun he => by simp [hq] at he⟩
  · next hq =>
    split
    · next hc =>
      exact ⟨⟨rfl, rfl, fun _ => rfl⟩, fun k hk => s.launch_setLaunch_ne h k _ hk, fun hr => by simp [hq] at hr, fun _ hn => absurd hc hn⟩
    · exact ⟨⟨rfl, rfl, fun _ => rfl⟩, fun _ _ => rfl, fun hr => by simp [hq] at hr, fun _ _ => rfl⟩
  · next hq hr he => exact ⟨⟨rfl, rfl, fun _ => rfl⟩, fun _ _ => rfl, fun h => absurd h hr, fun h => absurd h he⟩

/-- The same of an end with UNCORRECTABLE: its record goes to a log first. -/
theorem State.endUnattributed_spec (s : State) (h : Word) (info : Dword) :
    s.sameErrors (s.endUnattributed h info) ∧ (∀ k, k ≠ h → (s.endUnattributed h info).launch k = s.launch k)
      ∧ ((s.launch h).state = .running ∨ s.endsUncorrectable h → (s.endUnattributed h info).endsUncorrectable h) := by
  obtain ⟨u, hu⟩ : ∃ u, u = s.fatalNone h 0x15 info := ⟨_, rfl⟩
  have hlog : s.sameErrors u ∧ u.launches = s.launches := by
    obtain ⟨m, x, hm, -⟩ := s.log_eq (h.toNat / 2 ^ 30)
      { kind := 1, handle := h, id := logId (s.launch h).ctx 0 0 0 0, code := BitVec.ofNat 32 0x15, info }
    refine ⟨⟨?_, ?_, fun e => hu ▸ s.winError_log _ _ e⟩, ?_⟩ <;> rw [hu, State.fatalNone, hm] <;> rfl
  obtain ⟨hsame, hl⟩ := hlog
  have hlaunch : ∀ k, u.launch k = s.launch k := fun k => by rw [State.launch, hl, State.launch]
  obtain ⟨⟨e1, e2, e3⟩, others, running, ended⟩ := u.endLaunch_spec h 0x15 0
  have hend : s.endUnattributed h info = (u.endLaunch h 0x15 0).countLive (.uncorrectableEnds (h.toNat / 2 ^ 30)) := by rw [hu]; rfl
  rw [hend]
  refine ⟨⟨e1.trans hsame.1, e2.trans hsame.2.1, fun e => (e3 e).trans (hsame.2.2 e)⟩, fun k hk => (others k hk).trans (hlaunch k), ?_⟩
  rw [← hlaunch, State.endsUncorrectable, ← hlaunch]
  show _ → ((u.endLaunch h 0x15 0).launch h).state = .ending ∧ ((u.endLaunch h 0x15 0).launch h).cause = 0x15
  rintro (hr | ⟨hs, hc⟩)
  · rw [running hr]
    exact ⟨rfl, rfl⟩
  · rw [ended hs (by rw [hc]; decide)]
    exact ⟨hs, hc⟩

/-- A running launch is among the running ones. -/
theorem State.mem_runningLaunches {h : Word} (hr : (s.launch h).state = .running) (hh : (s.launch h).handle = h) :
    h ∈ s.runningLaunches := by
  have hm : (h.toNat, s.launch h) ∈ s.launches := tabGet_mem fun he => by
    rw [State.launch, he] at hr
    exact absurd hr (by decide)
  exact List.mem_map.2 ⟨_, List.mem_filter.2 ⟨hm, decide_eq_true hr⟩, hh⟩

/-- Every running launch ends, and no error changes. -/
theorem State.endAll_spec (s : State) (info : Dword) :
    let t := s.runningLaunches.foldl (fun s h => s.endUnattributed h info) s
    s.sameErrors t ∧ ∀ h, (s.launch h).state = .running → (s.launch h).handle = h → t.endsUncorrectable h := by
  refine ⟨?_, fun h hr hh => ?_⟩
  · refine List.foldlRecOn _ (fun s h => State.endUnattributed s h info) (motive := fun t => s.sameErrors t) ⟨rfl, rfl, fun _ => rfl⟩
      fun t ⟨h1, h2, h3⟩ k _ => ?_
    obtain ⟨⟨e1, e2, e3⟩, -⟩ := t.endUnattributed_spec k info
    exact ⟨e1.trans h1, e2.trans h2, fun e => (e3 e).trans (h3 e)⟩
  · refine foldl_turn (f := fun s h => State.endUnattributed s h info) (I := fun t : State => (t.launch h).state = .running)
      (P := fun t : State => t.endsUncorrectable h) (State.mem_runningLaunches hr hh) (fun t k hk ht => ?_) (fun t ht => ?_) (fun t k _ ht => ?_) hr
    · rw [(t.endUnattributed_spec k info).2.1 h hk.symm, ht]
    · exact (t.endUnattributed_spec h info).2.2 (.inl ht)
    · by_cases hk : h = k
      · subst hk
        exact (t.endUnattributed_spec h info).2.2 (.inr ht)
      · rwa [State.endsUncorrectable, (t.endUnattributed_spec k info).2.1 h hk]

/-- The first failure of a link past its retries. -/
theorem execDieLinkFailure_fails (hl : s.inp.die ≠ s.inp.peer ∧ s.inp.die < 4 ∧ s.inp.peer < 4) (hp : s.powered = true)
    (hd : 64 ≤ tabGet 0 s.retries (linkKey s.inp.die s.inp.peer))
    (hn : (min s.inp.die s.inp.peer, max s.inp.die s.inp.peer) ∉ s.links) :
    ∃ t, execDieLinkFailure s = .next t ∧ (min s.inp.die s.inp.peer, max s.inp.die s.inp.peer) ∈ t.links
      ∧ (t.errCode = if s.errCode = 0 then 0x06 else s.errCode)
      ∧ (s.ready = true → (t.die s.inp.die).winError = true ∧ (t.die s.inp.peer).winError = true)
      ∧ ∀ h, s.ready = true → (s.launch h).state = .running → (s.launch h).handle = h → t.endsUncorrectable h := by
  obtain ⟨lo, hlo⟩ : ∃ lo, lo = min s.inp.die s.inp.peer := ⟨_, rfl⟩
  obtain ⟨hi, hhi⟩ : ∃ hi, hi = max s.inp.die s.inp.peer := ⟨_, rfl⟩
  rw [← hlo, ← hhi] at hn ⊢
  obtain ⟨u, hu⟩ : ∃ u, u = ({ s with links := s.links ++ [(lo, hi)] } : State).fail s.inp.die 0x06 := ⟨_, rfl⟩
  have ho : execDieLinkFailure s = .next (if u.ready then
      ((u.dieError lo).dieError hi).runningLaunches.foldl (fun s h => s.endUnattributed h (errorInfo 8 lo hi 0)) ((u.dieError lo).dieError hi)
      else u) := by
    have hc : (s.powered && s.linkDead s.inp.die s.inp.peer && !s.links.contains (lo, hi)) = true := by
      rw [hp, (s.linkDead_iff _ _).2 ⟨hl, hd⟩, List.contains_eq_mem, decide_eq_false hn]; rfl
    rw [execDieLinkFailure, State.linkFails, ← hlo, ← hhi, if_pos hc, hu]
  have hready : u.ready = s.ready := by rw [hu]; unfold State.fail; split <;> rfl
  rw [hready] at ho
  have hlinks : u.links = s.links ++ [(lo, hi)] ∧ u.launches = s.launches := by
    rw [hu]; unfold State.fail; split <;> exact ⟨rfl, rfl⟩
  have hcode : u.errCode = if s.errCode = 0 then 0x06 else s.errCode := by rw [hu, State.fail_errCode]
  by_cases hr : s.ready = true
  · rw [if_pos hr] at ho
    obtain ⟨⟨e1, e2, e3⟩, e4⟩ := ((u.dieError lo).dieError hi).endAll_spec (errorInfo 8 lo hi 0)
    have hlaunch : ∀ h, ((u.dieError lo).dieError hi).launch h = s.launch h := fun h => by
      show tabGet {} u.launches h.toNat = _
      rw [hlinks.2, State.launch]
    have herr : ∀ e, e = lo ∨ e = hi → (((u.dieError lo).dieError hi).die e).winError = true := fun e he => by
      rw [State.die_dieError, State.die_dieError]
      rcases he with rfl | rfl
      · split <;> simp
      · simp
    refine ⟨_, ho, ?_, e2.trans hcode, fun _ => ⟨(e3 _).trans (herr _ (by omega)), (e3 _).trans (herr _ (by omega))⟩,
      fun h _ hs hh => e4 h (by rw [hlaunch, hs]) (by rw [hlaunch, hh])⟩
    rw [e1]
    show (lo, hi) ∈ u.links
    rw [hlinks.1]
    exact List.mem_append_right _ (List.mem_singleton_self _)
  · rw [if_neg hr] at ho
    refine ⟨u, ho, ?_, hcode, fun h => absurd h hr, fun h hs => absurd hs hr⟩
    rw [hlinks.1]
    exact List.mem_append_right _ (List.mem_singleton_self _)

theorem execPowerLoss_spec : ∃ t, execPowerLoss s = .next t ∧ t.powered = false ∧ t.fieldNow = s.fieldSaved ∧ t.flash = s.flash
    ∧ t.fuses = s.fuses ∧ t.ready = false ∧ t.groups = [] ∧ t.mem = [] := ⟨_, rfl, rfl, rfl, rfl, rfl, rfl, rfl, rfl⟩

end board

/-- Settles O44: each clause is the lemma of its event above. -/
theorem boardAndResets : Obligations.BoardAndResets := by
  intro s
  exact ⟨execThermalTrip_trips, execCoolantOutOfRange_fails, execRollbackRaise_raises, execMgmtQuery_replies, execMgmtWarmReset_restarts,
    rfl, execResetRegisterWrite_restarts, execPowerLoss_spec,
    fun h => ⟨execD2dRetry_none (.inl h), execDieLinkFailure_none (.inl h)⟩,
    execD2dRetry_counts, fun h => execD2dRetry_none (.inr h),
    fun h => execDieLinkFailure_none (.inr (.inr h)), fun h => execDieLinkFailure_none (.inr (.inl h)),
    execDieLinkFailure_fails, execLpddrDqRetrain_trains⟩

end Sys2Proof.Machine

/-! PROOF. The records and the governor (spec/01_package_and_bringup.md R22, R23, R29, spec/10_determinism_and_reliability.md R227). -/
namespace Sys2Proof.Machine

/-! ### Records (R29) -/

theorem recCount_bump (l : List (Rec × Nat)) (r : Rec) (n : Nat) : recCount (bump l r n) r = min (recCount l r + n) r.cap := by
  induction l with
  | nil => simp [bump, recCount]
  | cons p l ih =>
    obtain ⟨a, k⟩ := p
    by_cases h : a = r
    · simp [bump, recCount, h]
    · simpa [bump, recCount, h] using ih

/-- The package but for its counters is as it was. -/
def State.sameButCounts (s t : State) : Prop := t = { s with live := t.live, fieldNow := t.fieldNow }

theorem State.sameButCounts_foldl {α : Type} {f : State → α → State} (hf : ∀ (s : State) a, s.sameButCounts (f s a)) (l : List α)
    (s : State) : s.sameButCounts (l.foldl f s) :=
  List.foldlRecOn l f (motive := s.sameButCounts) rfl fun t ht a _ => by
    have h := hf t a
    unfold State.sameButCounts at ht h ⊢
    rw [h, ht]

/-! ### The governor (R22, R23, R227) -/

section governor

@[simp] theorem Die.moveTo_point (x : Die) (now p mhz : Nat) : (x.moveTo now p mhz).point = p := by
  unfold Die.moveTo
  split
  · next h => simp only [Bool.and_eq_true, decide_eq_true_eq] at h; exact h.1
  · rfl

@[simp] theorem Die.cap_point (x : Die) (now : Nat) : (x.cap now).point = 4 := Die.moveTo_point ..

/-- An error in the window brings a die to point N for a second (R227). -/
theorem Die.scale_error {x : Die} (h : x.winError = true) (now : Nat) (low high : Bool) :
    (x.scale now low high).point = 0 ∧ (x.scale now low high).holdN = now + 1000000000 := by
  rw [Die.scale, if_pos h]
  exact ⟨Die.moveTo_point .., rfl⟩

/-- A high replay rate brings a die one point down. -/
theorem Die.scale_high {x : Die} (h : x.winError = false) (now : Nat) (low : Bool) :
    (x.scale now low true).point = x.point - 1 := by
  rw [Die.scale, if_neg (by simp [h]), if_pos rfl]
  exact Die.moveTo_point ..

/-- The bundles issued by the slots of a die, in a table of slots. -/
def issuedOf (e : Nat) (l : Tab Slot) : Nat := ((l.filter fun p => p.1 / 576 = e).map (·.2.issued)).sum

theorem issuedOf_cons (e : Nat) (p : Nat × Slot) (l : Tab Slot) :
    issuedOf e (p :: l) = (if p.1 / 576 = e then p.2.issued else 0) + issuedOf e l := by
  by_cases h : p.1 / 576 = e <;> simp [issuedOf, h]

/-- A slot that has nothing to list has issued nothing. -/
theorem issuedOf_used (e : Nat) (l : Tab Slot) : issuedOf e (l.filter fun p => p.2 != ({} : Slot)) = issuedOf e l := by
  induction l with
  | nil => rfl
  | cons p l ih =>
    by_cases hx : p.2 = {}
    · rw [List.filter_cons_of_neg (by simp [hx]), ih, issuedOf_cons, hx]
      simp
    · rw [List.filter_cons_of_pos (by simpa using hx), issuedOf_cons, issuedOf_cons, ih]

/-- The counts of one die start again: those of the others stay. -/
theorem issuedOf_restart {d e : Nat} (h : e ≠ d) (l : Tab Slot) :
    issuedOf e (l.map fun p => if p.1 / 576 = d then (p.1, { p.2 with issued := 0 }) else p) = issuedOf e l := by
  induction l with
  | nil => rfl
  | cons p l ih =>
    rw [List.map_cons, issuedOf_cons, issuedOf_cons, ih]
    by_cases hd : p.1 / 576 = d
    · have he : ¬ p.1 / 576 = e := fun hpe => h (hpe.symm.trans hd)
      simp [hd, h.symm]
    · rw [if_neg hd]

variable (s : State) {c : Option Nat} {d e : Nat}

theorem State.governDie_only (c : Option Nat) (d : Nat) :
    s.governDie c d = { s with dies := (s.governDie c d).dies, slots := (s.governDie c d).slots } := rfl

theorem State.die_governDie_ne (h : e ≠ d) : (s.governDie c d).die e = s.die e := by
  simp [State.governDie, State.newWindow, State.die, State.setDie, tabGet_tabSet, h]

theorem State.issuedIn_governDie_ne (h : e ≠ d) : (s.governDie c d).issuedIn e = s.issuedIn e :=
  (issuedOf_used e _).trans (issuedOf_restart h _)

/-- What the governor's window makes of a die (R23, R227). -/
def State.governs (s : State) (e : Nat) (x : Die) : Prop :=
  x.winReplays = 0 ∧ x.winError = false
    ∧ (105 < (s.meas e).temp → x.point = 4)
    ∧ (s.capDie ≠ some e → (s.meas e).temp ≤ 105 → (s.die e).point ≠ 4 →
      ((s.die e).winError = true → x.point = 0 ∧ x.holdN = s.now + 1000000000)
      ∧ ((s.die e).winError = false → 100 * max 1 (s.issuedIn e) < (s.die e).winReplays * 1000000 → x.point = (s.die e).point - 1))

theorem State.sameButCounts_resideDie (s : State) (d : Nat) : s.sameButCounts (s.resideDie d) := rfl

/-- The move that a die makes in the window: down when it is capped, up again once it may, by its replay rate otherwise. -/
def State.governMove (s : State) (c : Option Nat) (d : Nat) : Die :=
  let x := s.die d
  if c = some d || 105 < (s.meas d).temp then { x.cap s.now with holdN := if x.winError then s.now + 1000000000 else x.holdN }
  else if x.point = 4 then
    { x.uncap s.now (c.isNone && s.choose d) with holdN := if x.winError then s.now + 1000000000 else x.holdN }
  else x.scale s.now (s.rateBelow d 10) (s.rateAbove d 100)

theorem State.governMove_capped (h : c = some d ∨ 105 < (s.meas d).temp) : (s.governMove c d).point = 4 := by
  rw [State.governMove, if_pos (by simpa using h)]
  exact Die.cap_point ..

theorem State.governMove_scaled (h : ¬ (c = some d ∨ 105 < (s.meas d).temp)) (hp : (s.die d).point ≠ 4) :
    s.governMove c d = (s.die d).scale s.now (s.rateBelow d 10) (s.rateAbove d 100) := by
  rw [State.governMove, if_neg (by simpa using h), if_neg hp]

/-- The die after its turn: it has moved, and its window's counts start again. -/
theorem State.die_governDie (c : Option Nat) (d : Nat) : ∃ t, (s.governDie c d).die d =
    { s.governMove c d with cappedHot := t, winReplays := 0, winError := false } := by
  refine ⟨if 105 < (s.meas d).temp then some s.now else (s.die d).cappedHot, ?_⟩
  show ((State.setDie _ d _).die d) = _
  rw [State.die_setDie, State.die_setDie]
  rfl

theorem State.governs_governDie {u : State} (hd : s.die e = u.die e) (hi : s.issuedIn e = u.issuedIn e) (hn : s.now = u.now)
    (hp : s.inp = u.inp) : u.governs e ((s.governDie u.capDie e).die e) := by
  obtain ⟨c, hc⟩ := s.die_governDie u.capDie e
  have hm : s.meas e = u.meas e := by rw [State.meas, hp, State.meas]
  rw [hc]
  refine ⟨rfl, rfl, fun ht => s.governMove_capped (.inr (hm ▸ ht)), fun hn' ht hpt => ?_⟩
  dsimp only
  rw [s.governMove_scaled (by rw [hm]; simp [hn', ht]) (by rwa [hd]), hd, hn]
  refine ⟨fun he => Die.scale_error he .., fun he hr => ?_⟩
  have ha : s.rateAbove e 100 = true := by rw [State.rateAbove, hd, hi]; exact decide_eq_true hr
  rw [ha]
  exact Die.scale_high he _ _

/-- Every die has its turn, with what it was before the window. -/
theorem State.governAll_spec {u : State} (hd : u.dies = s.dies) (hs : u.slots = s.slots) (hn : u.now = s.now) (hp : u.inp = s.inp) :
    let t := (List.range Config.dies).foldl (fun t d => t.governDie s.capDie d) u
    t = { u with dies := t.dies, slots := t.slots } ∧ ∀ e, e < 4 → s.governs e (t.die e) := by
  refine ⟨?_, fun e he => ?_⟩
  · exact List.foldlRecOn (List.range Config.dies) (fun t d => State.governDie t s.capDie d)
      (motive := fun t : State => t = { u with dies := t.dies, slots := t.slots }) rfl
      fun t ht d _ => by rw [t.governDie_only]; rw [ht]
  · refine foldl_range_turn (f := fun t d => State.governDie t s.capDie d) (n := Config.dies)
      (I := fun t : State => t.die e = s.die e ∧ t.issuedIn e = s.issuedIn e ∧ t.now = s.now ∧ t.inp = s.inp)
      (P := fun t : State => s.governs e (t.die e)) he (fun t a ha ⟨h1, h2, h3, h4⟩ => ?_) (fun t ⟨h1, h2, h3, h4⟩ => ?_)
      (fun t a ha ht => ?_) ⟨?_, ?_, hn, hp⟩
    · exact ⟨(t.die_governDie_ne ha.symm).trans h1, (t.issuedIn_governDie_ne ha.symm).trans h2, h3, h4⟩
    · exact t.governs_governDie h1 h2 h3 h4
    · rw [t.die_governDie_ne ha.symm]; exact ht
    · rw [State.die, hd, State.die]
    · rw [State.issuedIn, hs, State.issuedIn]

/-- A trip changes the package's error alone. -/
theorem State.tripAt_only (d temp : Nat) : s.tripAt d temp =
    { s with errCode := (s.tripAt d temp).errCode, errDie := (s.tripAt d temp).errDie, tripped := (s.tripAt d temp).tripped } := by
  unfold State.tripAt State.fail
  split
  · split <;> rfl
  · rfl

/-- The package has tripped, with its error. -/
def State.hasTripped (s : State) : Prop := s.tripped = true ∧ s.errCode ≠ 0

theorem State.hasTripped_tripAt (hp : s.powered = true) (ht : s.tripped = true → s.errCode ≠ 0) (d : Nat) {temp : Nat} (h : 115 ≤ temp) :
    (s.tripAt d temp).hasTripped := by
  cases hs : s.tripped with
  | true =>
    rw [State.tripAt, hs, if_neg (by simp)]
    exact ⟨hs, ht hs⟩
  | false =>
    rw [State.tripAt, if_pos (by simp [hp, hs, h])]
    refine ⟨rfl, ?_⟩
    show (s.fail d 0x08).errCode ≠ 0
    rw [s.fail_errCode]
    split
    · decide
    · assumption

theorem State.tripAt_of_tripped (h : s.tripped = true) (d temp : Nat) : s.tripAt d temp = s := by
  rw [State.tripAt, h, if_neg (by simp)]

/-- The dies' temperatures are looked at in turn; one at 115 degrees trips the package (R23). -/
theorem State.tripAll_spec (m : Nat → Nat) :
    let t := (List.range Config.dies).foldl (fun t d => t.tripAt d (m d)) s
    (t.dies = s.dies ∧ t.windowAt = s.windowAt) ∧
      (s.powered = true → s.tripped = false → (∃ e, e < 4 ∧ 115 ≤ m e) → t.hasTripped) := by
  refine ⟨?_, fun hp ht ⟨e, he, hm⟩ => ?_⟩
  · refine List.foldlRecOn (List.range Config.dies) (fun t d => State.tripAt t d (m d))
      (motive := fun t : State => t.dies = s.dies ∧ t.windowAt = s.windowAt) ⟨rfl, rfl⟩ fun t ht d _ => ?_
    rw [t.tripAt_only]
    exact ht
  · refine foldl_range_turn (f := fun t d => State.tripAt t d (m d)) (n := Config.dies)
      (I := fun t : State => t.powered = true ∧ (t.tripped = true → t.errCode ≠ 0)) (P := State.hasTripped) he
      (fun t a _ ⟨h1, h2⟩ => ?_) (fun t ⟨h1, h2⟩ => t.hasTripped_tripAt h1 h2 e hm)
      (fun t a _ h => by rw [t.tripAt_of_tripped h.1]; exact h) ⟨hp, fun h => by simp [ht] at h⟩
    refine ⟨by rw [t.tripAt_only]; exact h1, fun h => ?_⟩
    by_cases hm : 115 ≤ m a
    · exact (t.hasTripped_tripAt h1 h2 a hm).2
    · rw [State.tripAt, if_neg (by simp [hm])] at h ⊢
      exact h2 h

theorem execGovernorWindow_none (h : s.now - s.windowAt < 1000000) : execGovernorWindow s = .next s :=
  State.when_neg (by rw [State.windowMs, Nat.div_eq_of_lt h]; simp)

theorem execGovernorWindow_spec (hr : s.ready = true) (h : 1000000 ≤ s.now - s.windowAt) : ∃ t, execGovernorWindow s = .next t
    ∧ t.windowAt = s.windowAt + 1000000
    ∧ (s.powered = true → s.tripped = false → (∃ e, e < 4 ∧ 115 ≤ (s.meas e).temp) → t.tripped = true ∧ t.errCode ≠ 0)
    ∧ ∀ e, e < 4 → s.governs e (t.die e) := by
  obtain ⟨l, f, hu⟩ : ∃ l f, (List.range Config.dies).foldl State.resideDie { s with windowAt := s.windowAt + 1000000 } =
      { s with windowAt := s.windowAt + 1000000, live := l, fieldNow := f } :=
    ⟨_, _, State.sameButCounts_foldl State.sameButCounts_resideDie _ _⟩
  obtain ⟨g, hg⟩ : ∃ g, g = (List.range Config.dies).foldl (fun t d => State.governDie t s.capDie d)
      { s with windowAt := s.windowAt + 1000000, live := l, fieldNow := f } := ⟨_, rfl⟩
  have ho : execGovernorWindow s = .next ((List.range Config.dies).foldl (fun t d => t.tripAt d (s.meas d).temp) g) := by
    have hw : 1 ≤ s.windowMs := (Nat.le_div_iff_mul_le (by decide)).2 (by omega)
    rw [execGovernorWindow, State.when_pos (by simp [State.begun, hr]; omega), State.window, hu, if_pos hr, hg]
  obtain ⟨honly, hgov⟩ := s.governAll_spec (u := { s with windowAt := s.windowAt + 1000000, live := l, fieldNow := f }) rfl rfl rfl rfl
  rw [← hg] at honly hgov
  obtain ⟨⟨hdies, hwin⟩, htrip⟩ := g.tripAll_spec fun d => (s.meas d).temp
  refine ⟨_, ho, ?_, fun hp ht he => htrip ?_ ?_ he, fun e he => ?_⟩
  · rw [hwin, honly]
  · rw [honly]; exact hp
  · rw [honly]; exact ht
  · rw [State.die, hdies]; exact hgov e he

theorem execOperatingPointChangeDone_spec (h : (s.die s.inp.die).changing.isSome = true) :
    ∃ t, execOperatingPointChangeDone s = .next t ∧ (t.die s.inp.die).changing = none ∧ (t.die s.inp.die).point = (s.die s.inp.die).point := by
  obtain ⟨u, hu⟩ : ∃ u, u = s.setDie s.inp.die { s.die s.inp.die with changing := none } := ⟨_, rfl⟩
  have hc : s.changeDone s.inp.die = u.setCap 8 u.pointCap := by rw [hu]; rfl
  have ho : execOperatingPointChangeDone s = .next (u.setCap 8 u.pointCap) := by
    unfold execOperatingPointChangeDone
    dsimp only
    rw [State.when_pos h, hc]
  have hd : u.die s.inp.die = { s.die s.inp.die with changing := none } := by rw [hu, State.die_setDie]
  exact ⟨_, ho, by rw [State.die_setCap, hd], by rw [State.die_setCap, hd]⟩

end governor
end Sys2Proof.Machine

/-! PROOF. The package's other parts after bring-up (spec/01_package_and_bringup.md R16 to R19, spec/03_control_cores_and_launch.md R71,
spec/10_determinism_and_reliability.md R226, R228, R234 to R239). -/
namespace Sys2Proof.Machine

section parts
variable {s : State}

/-! ### Scrubbing (R234) -/

theorem State.sameButCounts_countEcc (s : State) (l : Nat) (u : Bool) : s.sameButCounts (s.countEcc l u) := rfl

theorem State.sameButCounts_count (s : State) (r : Rec) : s.sameButCounts (s.count r) := rfl

theorem State.poison_lineLost (s : State) (k l : Nat) :
    tabGet false (s.lineLost k).poison l = (l == k || tabGet false s.poison l) := by
  show tabGet false (tabSet false s.poison k true) l = _
  rw [tabGet_tabSet]
  by_cases h : l = k <;> simp [h]

/-- Every line of a list is lost: poisoned, and nothing of memory changes. -/
theorem State.loseLines_spec (ls : List Nat) (s : State) :
    (ls.foldl State.lineLost s).mem = s.mem
      ∧ ∀ l, tabGet false (ls.foldl State.lineLost s).poison l = (ls.contains l || tabGet false s.poison l) := by
  induction ls generalizing s with
  | nil => exact ⟨rfl, fun _ => rfl⟩
  | cons k ls ih =>
    obtain ⟨hm, hp⟩ := ih (s.lineLost k)
    refine ⟨hm, fun l => ?_⟩
    rw [List.foldl_cons, hp, State.poison_lineLost, List.contains_cons]
    cases ls.contains l <;> simp

theorem execScrub_spec (hr : s.ready = true) : ∃ t, execScrub s = .next t ∧ t.mem = s.mem
    ∧ ∀ l, tabGet false t.poison l = (s.inp.uncorrectable.contains l || tabGet false s.poison l) := by
  obtain ⟨u, hu⟩ : ∃ u, u = s.inp.corrected.foldl (fun s l => State.countEcc s l false) s := ⟨_, rfl⟩
  obtain ⟨v, hv⟩ : ∃ v, v = u.inp.correctedAt.foldl (fun (s : State) e => s.count (.ecc e.1 e.2.1 e.2.2 false)) u := ⟨_, rfl⟩
  have ho : execScrub s = .next (v.inp.uncorrectable.foldl State.lineLost v) := by
    rw [execScrub, State.when_pos hr, hv, hu]
  have h1 : s.sameButCounts u := hu ▸ State.sameButCounts_foldl (fun s l => s.sameButCounts_countEcc l false) _ s
  have h2 : u.sameButCounts v := hv ▸ State.sameButCounts_foldl (fun s _ => s.sameButCounts_count _) _ u
  have hi : v.inp = s.inp ∧ v.mem = s.mem ∧ v.poison = s.poison := by rw [h2, h1]; exact ⟨rfl, rfl, rfl⟩
  obtain ⟨hinp, hmem, hpoison⟩ := hi
  obtain ⟨hm, hp⟩ := State.loseLines_spec v.inp.uncorrectable v
  exact ⟨_, ho, hm.trans hmem, fun l => by rw [hp, hinp, hpoison]⟩

/-! ### Ethernet (R19) -/

/-- Bytes are read of memory alone. -/
theorem State.rdBytes_of_mem {s t : State} (h : t.mem = s.mem) (n pa : Nat) : t.rdBytes pa n = s.rdBytes pa n := by
  induction n generalizing pa with
  | zero => rfl
  | succ n ih => rw [State.rdBytes, State.rdBytes, ih, State.rd, h, State.rd]

theorem State.rdBytes_setEth (s : State) (n : Nat) (x : EthPort) (pa k : Nat) : (s.setEth n x).rdBytes pa k = s.rdBytes pa k :=
  State.rdBytes_of_mem (s := s) (t := s.setEth n x) rfl k pa

theorem execEthFrameReceive_spec (hr : s.ready = true) (hn : s.inp.port < 2) (hl : s.inp.port < s.eth.length)
    (hu : (s.ethPort s.inp.port).up = true)
    (hm : s.inp.port = 0 → s.inp.frame.etherType = 0x88B5 → 9216 < frameSize s.inp.frame)
    (hb : 9216 < frameSize s.inp.frame ∨ s.backedRange s.inp.addr.toNat (frameBytes s.inp.frame).length = true) :
    let p := s.ethPort s.inp.port
    let tooLong := 9216 < frameSize s.inp.frame
    ∃ t, execEthFrameReceive s = .next t
      ∧ (t.ethPort s.inp.port).rx = (if tooLong then p.rx else p.rx ++ [(s.inp.frame, s.inp.addr.toNat, s.now, frameGood s.inp.frame)])
      ∧ (t.ethPort s.inp.port).dropped = (if tooLong then p.dropped + 1 else p.dropped)
      ∧ (tooLong → t.mem = s.mem)
      ∧ (¬ tooLong → t.rdBytes s.inp.addr.toNat (frameBytes s.inp.frame).length = frameBytes s.inp.frame) := by
  have hf : (s.inp.port = 0 && mgmtFrame s.inp.frame) = false := by
    rw [Bool.and_eq_false_iff, decide_eq_false_iff_not, mgmtFrame, Bool.and_eq_false_iff, decide_eq_false_iff_not, decide_eq_false_iff_not,
      Nat.not_le]
    by_cases h0 : s.inp.port = 0
    · exact .inr (or_iff_not_imp_left.2 fun he => hm h0 (not_not.1 he))
    · exact .inl h0
  unfold execEthFrameReceive
  dsimp only
  rw [State.when_pos (by rw [hf, hu, decide_eq_true hn]; rfl)]
  by_cases ht : 9216 < frameSize s.inp.frame
  · rw [if_pos (show Config.maxFrame < frameSize s.inp.frame from ht), if_pos ht, if_pos ht]
    refine ⟨_, rfl, ?_, ?_, fun _ => rfl, fun h => absurd ht h⟩ <;> rw [State.ethPort_setEth _ hl]
  · rw [if_neg (show ¬ Config.maxFrame < frameSize s.inp.frame from ht), if_neg ht, if_neg ht]
    have hback := hb.resolve_left ht
    rw [if_pos (by rw [hr, hback]; rfl)]
    have hlen : s.inp.port < (s.wrBytes s.inp.addr.toNat (frameBytes s.inp.frame)).eth.length := by
      rw [State.sameButMem_wrBytes]; exact hl
    refine ⟨_, rfl, ?_, ?_, fun h => absurd h ht, fun _ => ?_⟩
    · rw [State.ethPort_setEth _ hlen]
    · rw [State.ethPort_setEth _ hlen]
    · rw [State.rdBytes_setEth, State.rdBytes_wrBytes]

theorem execEthFrameTransmit_spec (hr : s.ready = true) (hn : s.inp.port < 2) (hl : s.inp.port < s.eth.length)
    (hu : (s.ethPort s.inp.port).up = true) (hk : s.inp.v.toNat ≤ 9220)
    (hb : s.backedRange s.inp.addr.toNat s.inp.v.toNat = true) :
    let p := s.ethPort s.inp.port
    let out := frameOf (s.rdBytes s.inp.addr.toNat s.inp.v.toNat)
    ∃ t, execEthFrameTransmit s = .next t
      ∧ (t.ethPort s.inp.port).tx = (if 9216 < frameSize out then p.tx else p.tx ++ [(frameFilled out, s.now)])
      ∧ (t.ethPort s.inp.port).dropped = (if 9216 < frameSize out then p.dropped + 1 else p.dropped) ∧ t.mem = s.mem := by
  unfold execEthFrameTransmit
  dsimp only
  rw [State.when_pos (by rw [hr, hu, decide_eq_true hn]; rfl), if_neg (show ¬ Config.maxFrame + 4 < s.inp.v.toNat from Nat.not_lt.2 hk),
    if_pos hb]
  by_cases ht : 9216 < frameSize (frameOf (s.rdBytes s.inp.addr.toNat s.inp.v.toNat))
  · rw [if_pos (show Config.maxFrame < _ from ht), if_pos ht, if_pos ht]
    refine ⟨_, rfl, ?_, ?_, rfl⟩ <;> rw [State.ethPort_setEth _ hl]
  · rw [if_neg (show ¬ Config.maxFrame < _ from ht), if_neg ht, if_neg ht]
    refine ⟨_, rfl, ?_, ?_, rfl⟩ <;> rw [State.ethPort_setEth _ hl]

theorem execEthLinkStateChange_spec (hp : s.powered = true) (hn : s.inp.port < 2) (hl : s.inp.port < s.eth.length) :
    ∃ t, execEthLinkStateChange s = .next t ∧ (t.ethPort s.inp.port).up = s.inp.ok := by
  unfold execEthLinkStateChange
  dsimp only
  rw [State.when_pos (by simp [hp, hn])]
  exact ⟨_, rfl, by rw [State.ethPort_setEth _ hl]⟩

/-! ### CXL (R16, R18, R71) and Ndenath ports -/

theorem State.cxlPort_setCxl (s : State) {n : Nat} (h : n < s.cxl.length) (x : CxlPort) : (s.setCxl n x).cxlPort n = x := by
  simp [State.cxlPort, State.setCxl, h]

/-- The highest of a list of values that a device reaches is one of them, and the device reaches it. -/
theorem highest_spec {l : List Nat} {x v : Nat} (hv : v ∈ l) (h : v ≤ x) : highest l x ∈ l ∧ highest l x ≤ x := by
  obtain ⟨a, ha⟩ : ∃ a, l.find? (fun v => v ≤ x) = some a :=
    Option.isSome_iff_exists.1 (List.find?_isSome.2 ⟨v, hv, decide_eq_true h⟩)
  have hh : highest l x = a := by rw [highest, ha]; rfl
  rw [hh]
  exact ⟨List.mem_of_find?_eq_some ha, by simpa using List.find?_some ha⟩

theorem execCxlLinkTrain_eq (hr : s.ready = true) (hn : s.inp.port < 4) : execCxlLinkTrain s = .next (s.setCxl s.inp.port
    (let x := { s.cxlPort s.inp.port with device := s.inp.device, unsupported := !cxlSupported s.inp.device }
    let w := highest [16, 8, 4] s.inp.width
    let r := highest [64, 32, 16] s.inp.rate
    if cxlSupported s.inp.device && s.inp.ok && w != 0 && r != 0 then { x with trained := true, width := w, rate := r }
    else { x with trained := false, width := 0, rate := 0 })) := by
  unfold execCxlLinkTrain
  dsimp only
  rw [State.when_pos (by simp [hr, hn])]
  split <;> rfl

theorem execCxlLinkTrain_spec (hr : s.ready = true) (hn : s.inp.port < 4) (hl : s.inp.port < s.cxl.length) :
    ∃ t, execCxlLinkTrain s = .next t
      ∧ (s.inp.ok = true → cxlSupported s.inp.device = true → 4 ≤ s.inp.width → 16 ≤ s.inp.rate →
          (t.cxlPort s.inp.port).trained = true ∧ (t.cxlPort s.inp.port).width ≤ s.inp.width
          ∧ (t.cxlPort s.inp.port).width ∈ [16, 8, 4] ∧ (t.cxlPort s.inp.port).rate ≤ s.inp.rate
          ∧ (t.cxlPort s.inp.port).rate ∈ [64, 32, 16])
      ∧ (s.inp.ok = false → (t.cxlPort s.inp.port).trained = false)
      ∧ (cxlSupported s.inp.device = false → (t.cxlPort s.inp.port).trained = false ∧ (t.cxlPort s.inp.port).unsupported = true) := by
  refine ⟨_, execCxlLinkTrain_eq hr hn, ?_⟩
  rw [State.cxlPort_setCxl _ hl]
  dsimp only
  refine ⟨fun ho hs hw hx => ?_, fun ho => ?_, fun hs => ?_⟩
  · obtain ⟨w1, w2⟩ := highest_spec (l := [16, 8, 4]) (by simp) hw
    obtain ⟨r1, r2⟩ := highest_spec (l := [64, 32, 16]) (by simp) hx
    have w0 : highest [16, 8, 4] s.inp.width ≠ 0 := fun h => by rw [h] at w1; simp at w1
    have r0 : highest [64, 32, 16] s.inp.rate ≠ 0 := fun h => by rw [h] at r1; simp at r1
    rw [if_pos (by simp [ho, hs, w0, r0])]
    exact ⟨rfl, w2, w1, r2, r1⟩
  · rw [ho, if_neg (by simp)]
  · rw [hs, if_neg (by simp)]
    exact ⟨rfl, rfl⟩

/-- Capability 0x0004 is written in memory. -/
theorem State.sameButMem_writeCxlCap (s : State) : s.sameButMem s.writeCxlCap := s.sameButMem_setCap _ _

theorem execCxlDeviceRemoved_spec (hr : s.ready = true) (hv : s.inp.v ≠ 0) : ∃ t, execCxlDeviceRemoved s = .next t
    ∧ (s.inp.addr.toNat, s.inp.v.toNat) ∈ t.removed
    ∧ ∀ x ∈ t.decoders, x.base + x.size ≤ s.inp.addr.toNat ∨ s.inp.addr.toNat + s.inp.v.toNat ≤ x.base := by
  have hn : s.inp.v.toNat ≠ 0 := fun h => hv (BitVec.eq_of_toNat_eq h)
  unfold execCxlDeviceRemoved
  dsimp only
  rw [State.when_pos (by simp [hr, hn]), State.sameButMem_writeCxlCap]
  refine ⟨_, rfl, List.mem_append_right _ (List.mem_singleton_self _), fun x hx => ?_⟩
  simpa using (List.mem_filter.1 hx).2

theorem execCxlLinkDown_spec (hr : s.ready = true) (hn : s.inp.port < 4) (hl : s.inp.port < s.cxl.length) :
    ∃ t, execCxlLinkDown s = .next t ∧ (t.cxlPort s.inp.port).trained = false := by
  unfold execCxlLinkDown
  dsimp only
  rw [State.when_pos (by simp [hr, hn]), State.sameButMem_writeCxlCap]
  refine ⟨_, rfl, ?_⟩
  show ((s.setCxl s.inp.port _).cxlPort s.inp.port).trained = false
  rw [State.cxlPort_setCxl _ hl]

theorem execNdenathPortStateChange_spec (hr : s.ready = true) (hn : s.inp.port < 32) : ∃ t, execNdenathPortStateChange s = .next t
    ∧ ∀ k, k < 32 → t.fabUp.getLsbD k = if k = s.inp.port then s.inp.ok else s.fabUp.getLsbD k := by
  unfold execNdenathPortStateChange
  dsimp only
  rw [State.when_pos (by rw [hr]; exact decide_eq_true hn), State.sameButMem_setCap]
  refine ⟨_, rfl, fun k hk => ?_⟩
  show (if s.inp.ok then s.fabUp ||| BitVec.ofNat 32 (2 ^ s.inp.port) else s.fabUp &&& ~~~BitVec.ofNat 32 (2 ^ s.inp.port)).getLsbD k = _
  have hbit : (BitVec.ofNat 32 (2 ^ s.inp.port)).getLsbD k = decide (s.inp.port = k) := by
    rw [BitVec.getLsbD_ofNat, Nat.testBit_two_pow]; simp [hk]
  cases s.inp.ok
  · rw [if_neg Bool.false_ne_true, BitVec.getLsbD_and, BitVec.getLsbD_not, hbit]
    by_cases h : k = s.inp.port
    · simp [h]
    · simp [h, Ne.symm h, hk]
  · rw [if_pos rfl, BitVec.getLsbD_or, hbit]
    by_cases h : k = s.inp.port
    · simp [h]
    · simp [h, Ne.symm h]

/-! ### Glint replays (R228) -/

theorem execGlintReplay_good (hb : s.inp.bad = false) : ∃ t, execGlintReplay s = .next t ∧ t.groups = s.groups ∧ t.mem = s.mem
    ∧ (let r : Rec := if s.inp.idx = 0 then .glintSlot s.inp.slot s.inp.lane else .glintEngine s.inp.quad
       let e := if s.inp.idx = 0 then s.inp.slot / 576 else s.inp.quad / 36
       recCount t.live r = min (recCount s.live r + 1) r.cap ∧ recCount t.fieldNow r = min (recCount s.fieldNow r + 1) r.cap
         ∧ (t.die e).winReplays = (s.die e).winReplays + 1) := by
  have hd : coreDie (slotCore s.inp.slot) = s.inp.slot / 576 := Nat.div_div_eq_div_mul ..
  unfold execGlintReplay
  dsimp only
  rw [hb, if_neg (by simp), hd]
  refine ⟨_, rfl, rfl, rfl, recCount_bump _ _ _, recCount_bump _ _ _, ?_⟩
  rw [State.die_setDie]
  rfl

/-! ### Consumption of an error (R234, R235, R238, R239) -/

/-- The cluster of a group freezes with a snapshot; the poison marks stay, and of every group all but that it is stopped. -/
def State.freezesTo (s t : State) (gid : Nat) (x : Snapshot) : Prop :=
  t.cluster (s.group gid).ck = { s.cluster (s.group gid).ck with state := .frozen, snap := some x } ∧ t.poison = s.poison
    ∧ ∀ g, t.group g = { s.group g with stopped := (t.group g).stopped }

/-- A group stops. -/
def State.stopGroup (s : State) (g : Nat) : State := s.setGroup g { s.group g with stopped := true }

/-- Groups stopped one after another. -/
theorem State.stopAll_spec (l : List Nat) (s : State) :
    let t := l.foldl State.stopGroup s
    t.clusters = s.clusters ∧ t.poison = s.poison ∧ ∀ g, t.group g = { s.group g with stopped := (t.group g).stopped } := by
  refine List.foldlRecOn l State.stopGroup
    (motive := fun t : State => t.clusters = s.clusters ∧ t.poison = s.poison
      ∧ ∀ g, t.group g = { s.group g with stopped := (t.group g).stopped }) ⟨rfl, rfl, fun _ => rfl⟩
    fun t ⟨hc, hp, hg⟩ k _ => ⟨hc, hp, fun g => ?_⟩
  by_cases h : g = k
  · rw [h, State.stopGroup, State.group_setGroup, hg k]
  · rw [State.stopGroup, State.group_setGroup_ne _ _ _ _ h]
    exact hg g

theorem State.freezesTo_freeze (s : State) {gid : Nat} (h : (s.cluster (s.group gid).ck).state = .placed) (source die unit : Nat)
    (addr : Dword) (lanes : Lanes) : s.freezesTo (s.freeze gid source die unit addr lanes) gid
      { gid, source, die, unit, pc := s.iss.pc, lanes, addr, time := s.now } := by
  obtain ⟨x, hx⟩ : ∃ x : Snapshot, x = { gid, source, die, unit, pc := s.iss.pc, lanes, addr, time := s.now } := ⟨_, rfl⟩
  obtain ⟨u, hu⟩ : ∃ u, u = s.setCluster (s.group gid).ck { s.cluster (s.group gid).ck with state := .frozen, snap := some x } := ⟨_, rfl⟩
  have hf : s.freeze gid source die unit addr lanes =
      (((u.teamsOf (s.group gid).ck).flatMap u.groupsOf).foldl State.stopGroup u).countLive
        (.freezes (s.cluster (s.group gid).ck).die) := by
    rw [State.freeze, hu, hx]
    exact if_neg (by simp [h])
  obtain ⟨hc, hp, hg⟩ := State.stopAll_spec ((u.teamsOf (s.group gid).ck).flatMap u.groupsOf) u
  rw [hf, ← hx]
  refine ⟨?_, hp.trans (by rw [hu]; rfl), fun g => (hg g).trans (by rw [hu]; rfl)⟩
  exact (congrArg (tabGet {} · _) hc).trans (by rw [hu, ← State.cluster, State.cluster_setCluster])

theorem State.freezesTo_consume (s : State) {gid : Nat} (h : (s.cluster (s.group gid).ck).state = .placed) (source die unit : Nat)
    (addr : Dword) (lanes : Lanes) : s.freezesTo (s.consume gid source die unit addr lanes) gid
      { gid, source, die, unit, pc := s.iss.pc, lanes, addr, time := s.now } := by
  have hc : s.consume gid source die unit addr lanes = (s.dieError die).freeze gid source die unit addr lanes := by
    rw [State.consume]
    exact if_neg (by simp [h])
  rw [hc]
  exact (s.dieError die).freezesTo_freeze h source die unit addr lanes

/-- The same with another issue stage, which gives the snapshot its PC. -/
theorem State.freezesTo_consumeAt (s : State) (j : Issue) {gid : Nat} (h : (s.cluster (s.group gid).ck).state = .placed)
    (source die unit : Nat) (addr : Dword) (lanes : Lanes) : s.freezesTo (({ s with iss := j } : State).consume gid source die unit addr lanes)
      gid { gid, source, die, unit, pc := j.pc, lanes, addr, time := s.now } :=
  State.freezesTo_consume { s with iss := j } h source die unit addr lanes

/-- The state in which an error's storage has been counted, and a line of memory poisoned (R234). -/
def State.storageLost (s : State) : State :=
  let i := s.inp
  let x := s.partOf i.gid i.source i.addr.toNat i.v.toNat
  if 4 ≤ i.source && i.source ≤ 6 then s.lineLost (i.addr.toNat / 128)
  else (if i.source = 7 || i.source = 11 then s.areaLost i.addr.toNat else s).count (.ecc i.source x.1 (s.eccUnit i.gid i.source x.2.1) true)

theorem State.storageLost_eq (s : State) : ∃ p ds l f, s.storageLost = { s with poison := p, dies := ds, live := l, fieldNow := f } := by
  unfold State.storageLost State.areaLost
  dsimp only
  split
  · exact ⟨_, _, _, _, rfl⟩
  · split
    · split <;> exact ⟨_, _, _, _, rfl⟩
    · exact ⟨_, _, _, _, rfl⟩

@[simp] theorem State.group_storageLost (s : State) (g : Nat) : s.storageLost.group g = s.group g := by
  obtain ⟨p, ds, l, f, h⟩ := s.storageLost_eq
  rw [h]; rfl

@[simp] theorem State.cluster_storageLost (s : State) (k : Nat) : s.storageLost.cluster k = s.cluster k := by
  obtain ⟨p, ds, l, f, h⟩ := s.storageLost_eq
  rw [h]; rfl

theorem State.issueOf_storageLost (s : State) (g : Nat) : s.storageLost.issueOf g = s.issueOf g := by
  simp only [State.issueOf, State.group_storageLost]

theorem State.poison_storageLost_line (h4 : 4 ≤ s.inp.source) (h6 : s.inp.source ≤ 6) :
    tabGet false s.storageLost.poison (s.inp.addr.toNat / 128) = true := by
  unfold State.storageLost
  rw [if_pos (by simp [h4, h6]), State.poison_lineLost]
  simp

theorem State.poison_storageLost_area (h : s.inp.source = 7 ∨ s.inp.source = 11) (ha : s.inSheet s.inp.addr.toNat = true) :
    tabGet false s.storageLost.poison (s.inp.addr.toNat / 128) = true := by
  unfold State.storageLost
  rw [if_neg (by simp; omega), if_pos (by simpa using h), State.areaLost, if_pos ha]
  exact tabGet_tabSet_same ..

/-- What an error of the sources 1 to 7 and 9 to 11 does once its storage is lost. -/
theorem execUncorrectableConsume_eq (h1 : 1 ≤ s.inp.source) (h11 : s.inp.source ≤ 11) (h8 : s.inp.source ≠ 8) :
    execUncorrectableConsume s = .next (
      let i := s.inp
      let x := s.partOf i.gid i.source i.addr.toNat i.v.toNat
      let u := s.storageLost
      if i.source = 3 then
        match (u.group i.gid).engineOps[i.idx]? with
        | some o => u.opConsumes i.gid 3 o.1 o.2
        | none => u
      else if i.source = 7 then
        (if (u.group i.gid).live then { u with iss := {} }.consume i.gid 7 x.1 x.2.1 x.2.2 i.lanes else u)
      else u.consumeNext i.gid i.source x.1 x.2.1 x.2.2 i.lanes) := by
  unfold execUncorrectableConsume
  dsimp only
  rw [if_neg (by omega : ¬ s.inp.source = 12), if_neg (by omega : ¬ s.inp.source = 13), if_neg (by simp; omega)]
  rfl

/-- An operand buffer's error is consumed by the engine operation that read it: neither it nor a younger one has effect. -/
theorem State.opConsumes_spec (s : State) {gid : Nat} (h : (s.cluster (s.group gid).ck).state = .placed) (source n : Nat) (pc : Dword) :
    ∃ x : Snapshot, ((s.opConsumes gid source n pc).cluster (s.group gid).ck).state = .frozen
      ∧ (∀ m ∈ ((s.opConsumes gid source n pc).group gid).mats, m.id < n)
      ∧ (∀ m ∈ ((s.opConsumes gid source n pc).group gid).tiles, m.id < n)
      ∧ ((s.opConsumes gid source n pc).cluster (s.group gid).ck).snap = some x
      ∧ x.gid = gid ∧ x.source = source ∧ x.pc = pc ∧ x.lanes = allLanes := by
  obtain ⟨u, hu⟩ : ∃ u, u = ({ s with iss := { gid, pc } } : State).consume gid source (s.quadOf gid / Config.quads)
    (quadLow (s.quadOf gid)) 0 allLanes := ⟨_, rfl⟩
  obtain ⟨g, hg, hmats, htiles⟩ : ∃ g : Group, s.opConsumes gid source n pc = u.setGroup gid g
      ∧ g.mats = (u.group gid).mats.filter (fun o => o.id < n) ∧ g.tiles = (u.group gid).tiles.filter fun o => o.id < n :=
    ⟨_, by rw [hu]; rfl, by subst hu; rfl, by subst hu; rfl⟩
  obtain ⟨hc, -, -⟩ := s.freezesTo_consumeAt { gid, pc } h source (s.quadOf gid / Config.quads) (quadLow (s.quadOf gid)) 0 allLanes
  rw [← hu] at hc
  have hcl : (s.opConsumes gid source n pc).cluster (s.group gid).ck = u.cluster (s.group gid).ck := by rw [hg]; rfl
  rw [hcl, hc, hg, State.group_setGroup, hmats, htiles]
  exact ⟨_, rfl, fun m hm => by simpa using (List.mem_filter.1 hm).2, fun m hm => by simpa using (List.mem_filter.1 hm).2, rfl,
    rfl, rfl, rfl, rfl⟩

theorem execUncorrectableConsume_engine {o : Nat × Dword} (h3 : s.inp.source = 3)
    (ho : (s.group s.inp.gid).engineOps[s.inp.idx]? = some o) (hc : (s.cluster (s.group s.inp.gid).ck).state = .placed) :
    ∃ t x, execUncorrectableConsume s = .next t ∧ (t.cluster (s.group s.inp.gid).ck).state = .frozen
      ∧ (∀ m ∈ (t.group s.inp.gid).mats, m.id < o.1) ∧ (∀ m ∈ (t.group s.inp.gid).tiles, m.id < o.1)
      ∧ (t.cluster (s.group s.inp.gid).ck).snap = some x ∧ x.gid = s.inp.gid ∧ x.source = 3 ∧ x.pc = o.2 ∧ x.lanes = allLanes := by
  obtain ⟨x, hx⟩ := s.storageLost.opConsumes_spec (gid := s.inp.gid) (by simpa using hc) 3 o.1 o.2
  rw [State.group_storageLost] at hx
  refine ⟨_, x, ?_, hx⟩
  rw [execUncorrectableConsume_eq (by omega) (by omega) (by omega)]
  dsimp only
  rw [if_pos h3, State.group_storageLost, ho]

/-- The state after a core's error of a source other than the operand buffer: the group consumes it, with no PC for a checkpoint area. -/
theorem execUncorrectableConsume_group (h1 : 1 ≤ s.inp.source) (h11 : s.inp.source ≤ 11) (h8 : s.inp.source ≠ 8) (h3 : s.inp.source ≠ 3)
    (hl : (s.group s.inp.gid).live = true) (hs : (s.group s.inp.gid).stopped = false) :
    execUncorrectableConsume s = .next (
      let x := s.partOf s.inp.gid s.inp.source s.inp.addr.toNat s.inp.v.toNat
      let j : Issue := if s.inp.source = 7 then {} else s.issueOf s.inp.gid
      ({ s.storageLost with iss := j } : State).consume s.inp.gid s.inp.source x.1 x.2.1 x.2.2 s.inp.lanes) := by
  rw [execUncorrectableConsume_eq h1 h11 h8]
  dsimp only
  rw [if_neg h3, State.group_storageLost]
  by_cases h7 : s.inp.source = 7
  · rw [if_pos h7, if_pos hl, if_pos h7, h7]
  · rw [if_neg h7, if_neg h7, State.consumeNext, State.group_storageLost, State.issueOf_storageLost]
    exact congrArg _ (if_pos (by rw [hl, hs]; rfl))

theorem execUncorrectableConsume_spec (h1 : 1 ≤ s.inp.source) (h11 : s.inp.source ≤ 11) (h8 : s.inp.source ≠ 8) (h3 : s.inp.source ≠ 3)
    (hl : (s.group s.inp.gid).live = true) (hs : (s.group s.inp.gid).stopped = false)
    (hc : (s.cluster (s.group s.inp.gid).ck).state = .placed) : ∃ t, execUncorrectableConsume s = .next t
      ∧ (t.cluster (s.group s.inp.gid).ck).state = .frozen
      ∧ (4 ≤ s.inp.source → s.inp.source ≤ 6 → tabGet false t.poison (s.inp.addr.toNat / 128) = true)
      ∧ (s.inp.source = 7 ∨ s.inp.source = 11 → s.inSheet s.inp.addr.toNat = true → tabGet false t.poison (s.inp.addr.toNat / 128) = true)
      ∧ ∃ x, (t.cluster (s.group s.inp.gid).ck).snap = some x ∧ x.gid = s.inp.gid ∧ x.source = s.inp.source ∧ x.lanes = s.inp.lanes
        ∧ x.pc = (if s.inp.source = 7 then 0 else (s.issueOf s.inp.gid).pc)
        ∧ (x.die, x.unit, x.addr) = s.partOf s.inp.gid s.inp.source s.inp.addr.toNat s.inp.v.toNat := by
  obtain ⟨x, hx⟩ : ∃ x, x = s.partOf s.inp.gid s.inp.source s.inp.addr.toNat s.inp.v.toNat := ⟨_, rfl⟩
  obtain ⟨j, hj⟩ : ∃ j : Issue, j = if s.inp.source = 7 then {} else s.issueOf s.inp.gid := ⟨_, rfl⟩
  have ho := execUncorrectableConsume_group h1 h11 h8 h3 hl hs
  dsimp only at ho
  rw [← hx, ← hj] at ho
  obtain ⟨hcl, hp, -⟩ := s.storageLost.freezesTo_consumeAt j (gid := s.inp.gid) (by simpa using hc) s.inp.source x.1 x.2.1 x.2.2 s.inp.lanes
  rw [State.group_storageLost] at hcl
  have hpc : j.pc = if s.inp.source = 7 then 0 else (s.issueOf s.inp.gid).pc := by rw [hj]; split <;> rfl
  refine ⟨_, ho, congrArg Cluster.state hcl, fun h4 h6 => ?_, fun h ha => ?_, _, congrArg Cluster.snap hcl, rfl, rfl, rfl, hpc, hx⟩
  · rw [hp]; exact State.poison_storageLost_line h4 h6
  · rw [hp]; exact State.poison_storageLost_area h ha

/-! ### Control cores (R239) -/

theorem execControlCoreHwError_spec (s : State) : ∃ t, execControlCoreHwError s = .next t
    ∧ t.hart s.inp.hart = (s.hart s.inp.hart).takeException 19 s.inp.addr
    ∧ (∀ k, k ≠ s.inp.hart → t.hart k = s.hart k)
    ∧ (s.backed s.inp.addr.toNat = true → tabGet false t.poison (s.inp.addr.toNat / 128) = true
        ∧ (t.die (errorAt (s.inp.addr.toNat / 128 * 128) 0).2.1).winError = true)
    ∧ (s.backed s.inp.addr.toNat = false → t.poison = s.poison ∧ (t.die (s.inp.hart / 4)).winError = true) := by
  obtain ⟨u, hu⟩ : ∃ u, u = if s.backed s.inp.addr.toNat then s.lineLost (s.inp.addr.toNat / 128) else s.dieError (s.inp.hart / Config.harts) :=
    ⟨_, rfl⟩
  have hh : u.harts = s.harts := by rw [hu]; split <;> rfl
  have hi : u.inp = s.inp := by rw [hu]; split <;> rfl
  have hhart : ∀ k, u.hart k = s.hart k := fun k => by rw [State.hart, hh, State.hart]
  have ho : execControlCoreHwError s = .next (u.setHart s.inp.hart ((u.hart s.inp.hart).takeException 19 u.inp.addr)) := by
    rw [hu]; rfl
  rw [hhart, hi] at ho
  refine ⟨_, ho, State.hart_setHart .., fun k hk => (u.hart_setHart_ne _ _ _ hk).trans (hhart k), fun hb => ?_, fun hb => ?_⟩
  · rw [if_pos hb] at hu
    refine ⟨?_, ?_⟩
    · show tabGet false u.poison _ = true
      rw [hu, State.poison_lineLost]
      simp
    · show (u.die _).winError = true
      rw [hu, State.lineLost, State.die_dieError, if_pos rfl]
  · rw [if_neg (by simp [hb])] at hu
    refine ⟨by rw [hu]; rfl, ?_⟩
    show (u.die _).winError = true
    rw [hu]
    exact congrArg Die.winError (State.die_setDie ..)

end parts

/-- Settles O45: each clause is the lemma of its event above. -/
theorem packageParts : Obligations.PackageParts := by
  intro s
  dsimp only
  intro hr
  exact ⟨execGovernorWindow_none s, fun _ => execGovernorWindow_spec s hr, execOperatingPointChangeDone_spec s, rfl, execScrub_spec hr,
    execEthFrameReceive_spec hr, execEthFrameTransmit_spec hr, execEthLinkStateChange_spec,
    fun hn hl => (execCxlLinkTrain_spec hr hn hl).imp fun _ ⟨h, h1, h2, h3⟩ => ⟨h, h1, h2, rfl, h3⟩,
    execCxlDeviceRemoved_spec hr, execCxlLinkDown_spec hr, execNdenathPortStateChange_spec hr, execGlintReplay_good,
    fun _ => execUncorrectableConsume_engine, execUncorrectableConsume_spec, execControlCoreHwError_spec s⟩

end Sys2Proof.Machine

/-! SUPPORT. What the fabric's packets and the writes of memory leave as it was: a packet taken, a packet sent, bytes written, poison marks
cleared. -/
namespace Sys2Proof.Machine

/-! ### Packets taken and sent -/

section packets
variable {s u : State} {p : Packet}

/-- Taking a packet changes the list of those in flight alone. -/
theorem State.takePacket_only (h : s.takePacket p = some u) : u = { s with net := u.net } := by
  unfold State.takePacket at h
  split at h
  · cases h
  · split at h
    · split at h
      · cases h; rfl
      · cases h
    · cases h; rfl

theorem State.now_of_takePacket (h : s.takePacket p = some u) : u.now = s.now := by
  rw [State.takePacket_only h]

/-- A packet of the step's kind that can be taken is handled. -/
theorem State.onPacket_taken {k : BitVec 4} {go : Packet → State → State} (hk : s.inp.pkt.kind = k) (ht : s.takePacket s.inp.pkt = some u) :
    s.onPacket k go = .next (go s.inp.pkt u) := by
  simp [State.onPacket, hk, ht]

end packets

section emit
variable (s : State) (p : Packet) (k : Nat)
@[simp] theorem State.emit_mem : (s.emit p).mem = s.mem := by rw [State.emit_same]
@[simp] theorem State.emit_owners : (s.emit p).owners = s.owners := by rw [State.emit_same]
@[simp] theorem State.emit_groups : (s.emit p).groups = s.groups := by rw [State.emit_same]
@[simp] theorem State.emit_releases : (s.emit p).releases = s.releases := by rw [State.emit_same]
@[simp] theorem State.owner_emit : (s.emit p).owner k = s.owner k := by rw [State.owner, State.emit_owners, State.owner]
@[simp] theorem State.group_emit : (s.emit p).group k = s.group k := by rw [State.group, State.emit_groups, State.group]

/-- A packet leaves unless it is for another package and no port is up (R35). -/
theorem State.net_emit : (s.emit p).net =
    if p.dst ≠ s.image.pkgnum ∧ s.fabUp = 0 then s.net else s.net ++ [{ p with sent := s.now }] := by
  unfold State.emit
  by_cases h : p.dst ≠ s.image.pkgnum ∧ s.fabUp = 0
  · rw [if_pos h, if_pos (by simpa using h)]
  · rw [if_neg h, if_neg (by simpa using h)]

end emit

/-! ### Memory written -/

/-- The package but for its memory and the reservations of its harts is as it was. -/
def State.sameButBytes (s t : State) : Prop := t = { s with mem := t.mem, harts := t.harts }

theorem State.sameButBytes_trans {s t u : State} (h : s.sameButBytes t) (k : t.sameButBytes u) : s.sameButBytes u := by
  unfold State.sameButBytes at *
  rw [k, h]

theorem State.sameButBytes_memWrite (s : State) (pa : Nat) (bs : List Byte) : s.sameButBytes (s.memWrite pa bs) := by
  unfold State.memWrite
  split
  · rfl
  · unfold State.sameButBytes State.loseReserved
    rw [s.sameButMem_wrBytes pa bs]

theorem State.sameButBytes_foldl {α : Type} {f : State → α → State} (hf : ∀ (s : State) a, s.sameButBytes (f s a)) (l : List α) (s : State) :
    s.sameButBytes (l.foldl f s) :=
  List.foldlRecOn l f (motive := s.sameButBytes) rfl fun _ ht a _ => State.sameButBytes_trans ht (hf _ a)

/-- Clearing the marks of covered lines changes poison marks alone. -/
theorem State.clearCovered_only (s : State) (ps : List (Nat × List Byte)) : s.clearCovered ps = { s with poison := (s.clearCovered ps).poison } := by
  unfold State.clearCovered
  split
  · rfl
  · refine List.foldlRecOn _ _ (motive := fun t : State => t = { s with poison := t.poison }) rfl fun t ht l _ => ?_
    split
    · rw [ht]; rfl
    · exact ht

@[simp] theorem State.clearCovered_mem (s : State) (ps : List (Nat × List Byte)) : (s.clearCovered ps).mem = s.mem := by
  rw [State.clearCovered_only]

end Sys2Proof.Machine

/-! PROOF. What an owner does with packets (spec/02_fabric_and_exactly_once.md R31 to R36, R43 to R46, R49). -/
namespace Sys2Proof.Machine

/-! ### Flits (R31 to R35) -/

section flits
variable {s : State}

/-- The flit came through a port that is up, and its codewords can be corrected (R31). -/
def State.goodFlit (s : State) : Prop := s.fabUp.getLsbD s.inp.port = true ∧ s.inp.errs0 ≤ 4 ∧ s.inp.errs1 ≤ 4

theorem State.goodFlit_iff : (!s.fabUp.getLsbD s.inp.port || 4 < s.inp.errs0 || 4 < s.inp.errs1) = false ↔ s.goodFlit := by
  simp [State.goodFlit, and_assoc]

theorem execFlitReceive_uncorrectable (h : ¬ s.goodFlit) : execFlitReceive s = .next s := by
  unfold execFlitReceive
  dsimp only
  rw [if_pos (by rwa [← State.goodFlit_iff, Bool.not_eq_false] at h)]

theorem execFlitReceive_crcFail (h : s.goodFlit) (hc : s.inp.crc ≠ packetCrc s.inp.pkt) :
    execFlitReceive s = .next (s.count (.crcFail s.inp.port)) := by
  unfold execFlitReceive
  dsimp only
  rw [if_neg (Bool.eq_false_iff.1 (State.goodFlit_iff.2 h)), if_pos (by simpa using hc)]

/-- The flit ends a packet that passes its CRC, is young enough and names a package. -/
def State.goodPacket (s : State) : Prop :=
  s.goodFlit ∧ s.inp.crc = packetCrc s.inp.pkt ∧ s.inp.pkt.age ≤ Config.maxAge ∧ s.inp.pkt.dst ≠ 0xFFFF

theorem packetStep_reserved {p : Packet} (h : 9 < p.kind.toNat) : packetStep p = none := by
  obtain ⟨k, hk⟩ : ∃ k, p.kind.toNat = k + 10 := ⟨_, (Nat.sub_add_cancel h).symm⟩
  rw [packetStep, hk]
  rfl

theorem execFlitReceive_reserved (h : s.goodPacket) (hk : 9 < s.inp.pkt.kind.toNat) : execFlitReceive s = .next (s.count .discarded) := by
  obtain ⟨hf, hc, ha, hd⟩ := h
  unfold execFlitReceive
  dsimp only
  rw [if_neg (Bool.eq_false_iff.1 (State.goodFlit_iff.2 hf)), if_neg (by simpa using hc), if_neg (by simpa [ha] using hd),
    packetStep_reserved hk]

/-- A packet of another package for this one goes on to the step of its kind. -/
theorem execFlitReceive_handled (h : s.goodPacket) {e : Instr} (he : packetStep s.inp.pkt = some e) (hm : s.inp.pkt.dst = s.image.pkgnum)
    (hs : s.inp.pkt.src ≠ s.image.pkgnum) : execFlitReceive s = .next { s with sched := .event e s.inp :: s.sched } := by
  obtain ⟨hf, hc, ha, hd⟩ := h
  unfold execFlitReceive
  dsimp only
  rw [if_neg (Bool.eq_false_iff.1 (State.goodFlit_iff.2 hf)), if_neg (by simpa using hc), if_neg (by simpa [ha] using hd), he]
  dsimp only
  rw [if_pos (by simp [hm, hs])]

end flits

/-! ### Loads and declarations (R41, R381) -/

section loads
variable {s u : State} {p : Packet}

/-- An operation that leaves the state as it is: its lanes' words in their order. -/
theorem State.serveLanes_reading {f : LaneRec → List Word} (h : ∀ r, u.serveLane p r = (u, f r, 0)) (rs : List LaneRec) :
    u.serveLanes p rs = (u, rs.map fun r => (r.lane, r.check, if u.laneBad p.op r then [] else f r, u.laneBad p.op r), 0) := by
  induction rs with
  | nil => rfl
  | cons r rs ih =>
    cases hb : u.laneBad p.op r <;> simp [State.serveLanes, hb, h, ih]

/-- A reply whose entry names the request's lanes alone brings every record of the entry. -/
theorem State.recs_resultOf (s : State) (k : BitVec 4) {e : Entry} (h : ∀ x ∈ e.recs, ∃ q ∈ p.recs, q.lane = x.1) :
    (s.resultOf p k e).recs = e.recs.map fun x => { lane := x.1, pa := 0, check := x.2.1, data := x.2.2.1, va := 0 } := by
  have hf : e.recs.filter (fun x => p.recs.any fun q => q.lane = x.1) = e.recs :=
    List.filter_eq_self.2 fun x hx => by simpa using h x hx
  exact congrArg (List.map fun x => ({ lane := x.1, pa := 0, check := x.2.1, data := x.2.2.1, va := 0 } : LaneRec)) hf

/-- The entry that a load's or a declaration's reply is made of. -/
def loadEntry (p : Packet) (rs : List (Nat × BitVec 16 × List Word × Bool)) : Entry :=
  { src := p.src, handle := p.lhandle, key := p.key, serial := p.serial, lanes := p.lanes, recs := rs, flags := 0, lost := false }

theorem State.serveLoad_answered (ha : (u.owner p.owner).answers = true) (hr : u.reaches p = true) : u.serveLoad p =
    (u.serveLanes p p.recs).1.emit ((u.serveLanes p p.recs).1.resultOf p 1 (loadEntry p (u.serveLanes p p.recs).2.1)) := by
  unfold State.serveLoad
  rw [if_pos (by simp [ha, hr])]
  rfl

theorem State.serveLoad_dropped (h : (u.owner p.owner).answers = false ∨ u.reaches p = false) : u.serveLoad p = u := by
  unfold State.serveLoad
  rw [if_neg (by rcases h with h | h <;> simp [h])]

theorem execLoadRequest_eq (ht : s.takePacket s.inp.pkt = some u) (hk : s.inp.pkt.kind = 0) {n : Nat} {sg : Bool}
    (ho : s.inp.pkt.op = .load n sg) : execLoadRequest s = .next (u.serveLoad s.inp.pkt) := by
  unfold execLoadRequest
  rw [State.onPacket_taken hk ht, ho]

theorem execClineRequest_eq (ht : s.takePacket s.inp.pkt = some u) (hk : s.inp.pkt.kind = 0) {w gen : Word} {mode : BitVec 3}
    (ho : s.inp.pkt.op = .cline w gen mode) : execClineRequest s = .next (u.serveLoad s.inp.pkt) := by
  unfold execClineRequest
  rw [State.onPacket_taken hk ht, ho]

theorem execLoadRequest_answered (ht : s.takePacket s.inp.pkt = some u) (hk : s.inp.pkt.kind = 0) {n : Nat} {sg : Bool}
    (ho : s.inp.pkt.op = .load n sg) (ha : (u.owner s.inp.pkt.owner).answers = true) (hr : u.reaches s.inp.pkt = true) :
    ∃ q, execLoadRequest s = .next (u.emit q) ∧ q.kind = 1 ∧ q.dst = s.inp.pkt.src ∧ q.lhandle = s.inp.pkt.lhandle ∧ q.key = s.inp.pkt.key
      ∧ q.serial = s.inp.pkt.serial ∧ q.recs = s.inp.pkt.recs.map fun r =>
        { lane := r.lane, pa := 0, check := r.check, va := 0
          data := if u.laneBad s.inp.pkt.op r then [] else loadWords n sg (u.rdLe r.pa.toNat n) } := by
  have hl : ∀ r, u.serveLane s.inp.pkt r = (u, loadWords n sg (u.rdLe r.pa.toNat n), 0) := fun r => by
    rw [State.serveLane, ho]
  rw [execLoadRequest_eq ht hk ho, State.serveLoad_answered ha hr, State.serveLanes_reading hl]
  refine ⟨_, rfl, rfl, rfl, rfl, rfl, rfl, ?_⟩
  rw [State.recs_resultOf]
  · simp [loadEntry]
  · intro x hx
    obtain ⟨r, hr, rfl⟩ := List.mem_map.1 hx
    exact ⟨r, hr, rfl⟩

theorem execClineRequest_answered (ht : s.takePacket s.inp.pkt = some u) (hk : s.inp.pkt.kind = 0) {w gen : Word} {mode : BitVec 3}
    {r : LaneRec} (ho : s.inp.pkt.op = .cline w gen mode) (hs : s.inp.pkt.recs = [r]) (ha : (u.owner s.inp.pkt.owner).answers = true)
    (hr : u.reaches s.inp.pkt = true) (hb : u.laneBad s.inp.pkt.op r = false) :
    ∃ q, execClineRequest s = .next ((u.declareLine s.inp.pkt.owner r.pa.toNat w gen mode).1.emit q) ∧ q.kind = 1 ∧ q.dst = s.inp.pkt.src
      ∧ q.serial = s.inp.pkt.serial ∧ q.recs.map LaneRec.data = [[(u.declareLine s.inp.pkt.owner r.pa.toNat w gen mode).2]] := by
  obtain ⟨x, hx⟩ : ∃ x, x = u.declareLine s.inp.pkt.owner r.pa.toNat w gen mode := ⟨_, rfl⟩
  have hl : u.serveLane s.inp.pkt r = (x.1, [x.2], 0) := by
    rw [State.serveLane, ho, hx]
  have hls : u.serveLanes s.inp.pkt s.inp.pkt.recs = (x.1, [(r.lane, r.check, [x.2], false)], 0) := by
    rw [hs]
    simp [State.serveLanes, hb, hl]
  rw [execClineRequest_eq ht hk ho, State.serveLoad_answered ha hr, hls, ← hx]
  refine ⟨_, rfl, rfl, rfl, rfl, ?_⟩
  rw [State.recs_resultOf _ _ (by simp [loadEntry, hs])]
  rfl

end loads

/-! ### The key directory (R43, R44) -/

section directory
variable {o : Owner} {p : Packet} {d : DirRec}

/-- The record of a packet's key in an owner's directory. -/
def Owner.recordOf (o : Owner) (p : Packet) : Option DirRec := o.dir.find? fun d => d.isOf p

/-- A record's floor risen to a packet's ACKPT. -/
def DirRec.raised (d : DirRec) (p : Packet) : DirRec := if later p.ackpt d.floor then { d with floor := p.ackpt } else d

/-- The floor of a packet's key once its ACKPT has been taken: that of its record, risen, or of the record to come. -/
def floorWith (p : Packet) (d : Option DirRec) : Word := (d.map fun d => if later p.ackpt d.floor then p.ackpt else d.floor).getD p.ackpt

theorem DirRec.floor_raised (d : DirRec) (p : Packet) : (d.raised p).floor = if later p.ackpt d.floor then p.ackpt else d.floor := by
  unfold DirRec.raised; split <;> rfl

theorem DirRec.newest_raised (d : DirRec) (p : Packet) : (d.raised p).newest = d.newest := by
  unfold DirRec.raised; split <;> rfl

/-- What a packet does to a directory: its key's record rises. -/
def DirRec.raiseOf (p : Packet) (d : DirRec) : DirRec := if d.isOf p && later p.ackpt d.floor then { d with floor := p.ackpt } else d

theorem DirRec.isOf_raiseOf (d : DirRec) (p : Packet) : (DirRec.raiseOf p d).isOf p = d.isOf p := by
  unfold DirRec.raiseOf; split <;> rfl

theorem DirRec.raiseOf_of_isOf (h : d.isOf p = true) : DirRec.raiseOf p d = d.raised p := by
  simp [DirRec.raiseOf, DirRec.raised, h]

/-- Retiring takes entries away, and nothing else. -/
theorem Owner.retire_only (o : Owner) (p : Packet) : o.retire p = { o with cache := (o.retire p).cache } := by
  unfold Owner.retire
  split <;> rfl

theorem Owner.retire_unknown (h : o.recordOf p = none) : o.retire p = o := by
  unfold Owner.retire
  rw [← Owner.recordOf, h]

theorem Owner.cache_retire (h : o.recordOf p = some d) : (o.retire p).cache =
    o.cache.filter fun e => !(e.isOf p && (later d.floor e.serial || 2 ^ 31 < (d.newest - e.serial).toNat)) := by
  unfold Owner.retire
  rw [← Owner.recordOf, h]

theorem Owner.mem_of_mem_retire {e : Entry} (h : e ∈ (o.retire p).cache) : e ∈ o.cache := by
  cases hd : o.recordOf p with
  | none => rwa [Owner.retire_unknown hd] at h
  | some d => exact List.mem_of_mem_filter (Owner.cache_retire hd ▸ h)

theorem Owner.raise_eq (o : Owner) (p : Packet) : o.raise p = Owner.retire { o with dir := o.dir.map (DirRec.raiseOf p) } p := rfl

/-- Raising changes the directory and takes entries away. -/
theorem Owner.raise_only (o : Owner) (p : Packet) : o.raise p = { o with cache := (o.raise p).cache, dir := o.dir.map (DirRec.raiseOf p) } := by
  rw [Owner.raise_eq, Owner.retire_only]

theorem Owner.recordOf_map {f : DirRec → DirRec} (hf : ∀ d, (f d).isOf p = d.isOf p) (o : Owner) :
    ({ o with dir := o.dir.map f } : Owner).recordOf p = (o.recordOf p).map f := by
  rw [Owner.recordOf, Owner.recordOf, List.find?_map]
  exact congrArg (fun q => (o.dir.find? q).map f) (funext hf)

theorem Owner.isOf_of_recordOf (h : o.recordOf p = some d) : d.isOf p = true :=
  List.find?_some (p := fun d : DirRec => d.isOf p) h

theorem Owner.recordOf_raised (h : o.recordOf p = some d) :
    ({ o with dir := o.dir.map (DirRec.raiseOf p) } : Owner).recordOf p = some (d.raised p) := by
  rw [Owner.recordOf_map (fun d => d.isOf_raiseOf p), h, ← DirRec.raiseOf_of_isOf (Owner.isOf_of_recordOf h)]
  rfl

theorem Owner.recordOf_raise (h : o.recordOf p = some d) : (o.raise p).recordOf p = some (d.raised p) := by
  rw [Owner.raise_only]
  exact Owner.recordOf_raised h

theorem Owner.cache_raise (h : o.recordOf p = some d) : (o.raise p).cache = o.cache.filter fun e =>
    !(e.isOf p && (later (floorWith p (some d)) e.serial || 2 ^ 31 < (d.newest - e.serial).toNat)) := by
  rw [Owner.raise_eq, Owner.cache_retire (Owner.recordOf_raised h), d.floor_raised p, d.newest_raised p]
  rfl

theorem Owner.raise_unknown (h : o.recordOf p = none) : o.raise p = o := by
  have hn : ∀ d ∈ o.dir, DirRec.raiseOf p d = d := fun d hd => by
    simp [DirRec.raiseOf, Bool.eq_false_iff.2 (List.find?_eq_none.1 h d hd)]
  have hm : o.dir.map (DirRec.raiseOf p) = o.dir := (List.map_congr_left hn).trans (List.map_id _)
  rw [Owner.raise_eq, hm]
  exact Owner.retire_unknown h

theorem Owner.any_isOf (o : Owner) (p : Packet) : (o.dir.any fun d => d.isOf p) = (o.recordOf p).isSome := by
  rw [Owner.recordOf, Bool.eq_iff_iff, List.find?_isSome, List.any_eq_true]

/-- The owner with a record of the packet's key, its own or a new one. -/
def Owner.withKey (o : Owner) (p : Packet) : Owner :=
  if o.dir.any fun d => d.isOf p then o else
    { o with dir := o.dir ++ [{ src := p.src, handle := p.lhandle, key := normKey p.key, floor := p.ackpt, newest := p.ackpt }] }

/-- No entry is new, and what an owner holds, its lines and its incarnation are as they were. -/
def Owner.keeps (o y : Owner) : Prop := (∀ e ∈ y.cache, e ∈ o.cache) ∧ y.hold = o.hold ∧ y.lines = o.lines ∧ y.incarn = o.incarn

theorem Owner.keeps_trans {o y z : Owner} (h : o.keeps y) (k : y.keeps z) : o.keeps z := by
  obtain ⟨hc, hh, hl, hi⟩ := h
  obtain ⟨kc, kh, kl, ki⟩ := k
  exact ⟨fun e he => hc e (kc e he), kh.trans hh, kl.trans hl, ki.trans hi⟩

theorem Owner.keeps_dir (o : Owner) (l : List DirRec) : o.keeps { o with dir := l } := ⟨fun _ he => he, rfl, rfl, rfl⟩

theorem Owner.keeps_retire (o : Owner) (p : Packet) : o.keeps (o.retire p) :=
  ⟨fun _ he => Owner.mem_of_mem_retire he, by rw [Owner.retire_only], by rw [Owner.retire_only], by rw [Owner.retire_only]⟩

theorem Owner.keeps_raise (o : Owner) (p : Packet) : o.keeps (o.raise p) := Owner.keeps_trans (o.keeps_dir _) (Owner.keeps_retire _ p)

theorem Owner.keeps_withKey (o : Owner) (p : Packet) : o.keeps (o.withKey p) := by
  unfold Owner.withKey
  split
  · exact o.keeps_dir o.dir
  · exact o.keeps_dir _

theorem later_self (a : Word) : later a a = false := by simp [later]

/-- The record that a packet finds there: its floor, once risen, is the one of the statement of R44. -/
theorem Owner.recordOf_withKey (o : Owner) (p : Packet) : ∃ d, (o.withKey p).recordOf p = some d ∧ (d.raised p).floor = floorWith p (o.recordOf p) := by
  cases h : o.recordOf p with
  | some d =>
    refine ⟨d, ?_, d.floor_raised p⟩
    rw [Owner.withKey, if_pos (by rw [Owner.any_isOf, h]; rfl), h]
  | none =>
    refine ⟨{ src := p.src, handle := p.lhandle, key := normKey p.key, floor := p.ackpt, newest := p.ackpt }, ?_, ?_⟩
    · have h' : o.dir.find? (fun d => d.isOf p) = none := h
      rw [Owner.withKey, if_neg (by rw [Owner.any_isOf, h]; simp), Owner.recordOf, List.find?_append, h']
      simp [DirRec.isOf]
    · rw [DirRec.floor_raised, later_self]
      rfl

end directory

/-! ### Watermarked requests (R44) -/

section watermarked
variable {s u : State} {p : Packet}

/-- The owner takes a watermarked request: it answers, the launch has not ended for it, and every lane is backed (assumption 68). -/
def State.answering (u : State) (p : Packet) : Prop :=
  (u.owner p.owner).answers = true ∧ (u.owner p.owner).endedFor u.now p = false ∧ u.reaches p = true

/-- The directory has no record of the packet's key, and no room for one. -/
def Owner.dirFull (o : Owner) (p : Packet) : Prop := o.recordOf p = none ∧ Config.directoryKeys ≤ o.dir.length

theorem execWatermarkedRequest_eq (ht : s.takePacket s.inp.pkt = some u) (hk : s.inp.pkt.kind = 2) :
    execWatermarkedRequest s = .next (u.watermarked s.inp.pkt) := State.onPacket_taken hk ht

theorem State.watermarked_dropped (h : ¬ u.answering p) : u.watermarked p = u := by
  unfold State.watermarked
  refine if_pos ?_
  by_contra hc
  exact h (by simpa [State.answering, and_assoc] using hc)

/-- The packet's newest serial, in its key's record. -/
def DirRec.newestOf (p : Packet) (d : DirRec) : DirRec := if d.isOf p && later p.serial d.newest then { d with newest := p.serial } else d

/-- An owner that takes the request: busy, or the request is stale or looked up. -/
theorem State.watermarked_answered (h : u.answering p) : u.watermarked p =
    if !((u.owner p.owner).dir.any fun d => d.isOf p) && Config.directoryKeys ≤ (u.owner p.owner).dir.length then u.emit (u.reply p 5)
    else if later ((((u.owner p.owner).withKey p).raise p).recordOf p |>.map (·.floor) |>.getD 0) p.serial then
      (u.setOwner p.owner (((u.owner p.owner).withKey p).raise p)).countLive (.stale p.owner)
    else
      (u.setOwner p.owner (Owner.retire { ((u.owner p.owner).withKey p).raise p with
        dir := (((u.owner p.owner).withKey p).raise p).dir.map (DirRec.newestOf p) } p)).lookup p := by
  obtain ⟨ha, he, hr⟩ := h
  unfold State.watermarked
  rw [if_neg (by simp [ha, he, hr])]
  rfl

theorem Owner.dirFull_iff (o : Owner) (p : Packet) :
    (!(o.dir.any fun d => d.isOf p) && Config.directoryKeys ≤ o.dir.length) = true ↔ o.dirFull p := by
  rw [Owner.any_isOf]
  simp [Owner.dirFull]

theorem State.watermarked_full (h : u.answering p) (hf : (u.owner p.owner).dirFull p) : u.watermarked p = u.emit (u.reply p 5) := by
  rw [State.watermarked_answered h, if_pos ((Owner.dirFull_iff _ p).2 hf)]

/-- An owner with room in its directory: no entry is new, what it holds is as it was, and the floor decides. -/
theorem State.watermarked_taken (h : u.answering p) (hf : ¬ (u.owner p.owner).dirFull p) : ∃ x : Owner,
    (u.owner p.owner).keeps x
    ∧ (later (floorWith p ((u.owner p.owner).recordOf p)) p.serial = true → u.watermarked p = (u.setOwner p.owner x).countLive (.stale p.owner))
    ∧ (later (floorWith p ((u.owner p.owner).recordOf p)) p.serial = false → u.watermarked p = (u.setOwner p.owner x).lookup p) := by
  obtain ⟨d, hd, hfl⟩ := (u.owner p.owner).recordOf_withKey p
  have hx := Owner.keeps_trans ((u.owner p.owner).keeps_withKey p) (Owner.keeps_raise _ p)
  have heq := State.watermarked_answered h
  rw [if_neg (fun hc => hf ((Owner.dirFull_iff _ p).1 hc)), Owner.recordOf_raise hd] at heq
  change u.watermarked p = if later (d.raised p).floor p.serial then _ else _ at heq
  rw [← hfl]
  cases hl : later (d.raised p).floor p.serial with
  | true =>
    rw [hl, if_pos rfl] at heq
    exact ⟨_, hx, fun _ => heq, nofun⟩
  | false =>
    rw [hl, if_neg Bool.false_ne_true] at heq
    exact ⟨_, Owner.keeps_trans hx (Owner.keeps_trans (Owner.keeps_dir _ _) (Owner.keeps_retire _ p)), nofun, fun _ => heq⟩

end watermarked

/-! ### The result cache (R43, R44) -/

section cache
variable {u : State} {p : Packet} {x : Entry}

/-- The entry of a request's key and serial. -/
def Owner.entryOf (o : Owner) (p : Packet) : Option Entry := o.cache.find? fun e => e.isOf p && e.serial = p.serial

/-- The entry has a record of a lane, with the lane's check or with another one. -/
def Entry.holds (e : Entry) (r : LaneRec) (same : Bool) : Prop := ∃ x ∈ e.recs, x.1 = r.lane ∧ (x.2.1 = r.check ↔ same = true)

/-- The entry is lost with a quarantined owner's cache, for all that the owner can tell (R46). -/
def State.mayBeLost (u : State) (p : Packet) : Prop := (u.owner p.owner).quarantined u.now = true ∧ p.retx = true

/-- There is room for the entry of a request, and its operation can be done. -/
def State.hasRoom (u : State) (p : Packet) : Prop :=
  (u.owner p.owner).used + opSize p.op ≤ cacheRoom p.owner ∧ u.opBusy p = false

theorem State.lookup_new (h : (u.owner p.owner).entryOf p = none) : u.lookup p =
    if (u.owner p.owner).quarantined u.now && p.retx then u.emit { u.reply p 6 with reason := 2 }
    else if cacheRoom p.owner < (u.owner p.owner).used + opSize p.op || u.opBusy p then u.emit (u.reply p 5)
    else u.executeOnce p none p.recs := by
  unfold State.lookup
  dsimp only
  rw [show (u.owner p.owner).cache.find? (fun e => e.isOf p && e.serial = p.serial) = _ from h]

theorem State.lookup_mayBeLost (h : (u.owner p.owner).entryOf p = none) (hl : u.mayBeLost p) :
    u.lookup p = u.emit { u.reply p 6 with reason := 2 } := by
  rw [State.lookup_new h, if_pos (by simpa [State.mayBeLost] using hl)]

theorem State.lookup_busy (h : (u.owner p.owner).entryOf p = none) (hl : ¬ u.mayBeLost p) (hr : ¬ u.hasRoom p) :
    u.lookup p = u.emit (u.reply p 5) := by
  rw [State.lookup_new h, if_neg (by simpa [State.mayBeLost] using hl), if_pos ?_]
  by_contra hc
  exact hr (by simpa [State.hasRoom] using hc)

theorem State.lookup_executes (h : (u.owner p.owner).entryOf p = none) (hl : ¬ u.mayBeLost p) (hr : u.hasRoom p) :
    u.lookup p = u.executeOnce p none p.recs := by
  obtain ⟨h1, h2⟩ := hr
  rw [State.lookup_new h, if_neg (by simpa [State.mayBeLost] using hl), if_neg (by simp [h1, h2])]

theorem State.lookup_lost (h : (u.owner p.owner).entryOf p = some x) (hl : x.lost = true) :
    u.lookup p = u.emit { u.reply p 6 with reason := 2 } := by
  unfold State.lookup
  dsimp only
  rw [show (u.owner p.owner).cache.find? (fun e => e.isOf p && e.serial = p.serial) = _ from h]
  exact if_pos hl

theorem Entry.holds_other_iff {e : Entry} : (p.recs.any fun r => e.recs.any fun x => x.1 = r.lane && x.2.1 != r.check) = true
    ↔ ∃ r ∈ p.recs, e.holds r false := by
  simp [Entry.holds]

theorem State.lookup_mismatch (h : (u.owner p.owner).entryOf p = some x) (hl : x.lost = false) (hm : ∃ r ∈ p.recs, x.holds r false) :
    u.lookup p = u.emit { u.reply p 6 with reason := 3 } := by
  unfold State.lookup
  dsimp only
  rw [show (u.owner p.owner).cache.find? (fun e => e.isOf p && e.serial = p.serial) = _ from h]
  dsimp only
  rw [if_neg (by simp [hl]), if_pos (Entry.holds_other_iff.2 hm)]

/-- A copy of a request whose lanes an entry all has is answered from it, and counted (R44). -/
theorem State.lookup_duplicate (h : (u.owner p.owner).entryOf p = some x) (hl : x.lost = false) (hm : ¬ ∃ r ∈ p.recs, x.holds r false)
    (hr : ∀ r ∈ p.recs, ∃ y ∈ x.recs, y.1 = r.lane) : ∃ n, u.lookup p =
      ((u.countDups p n).countLive (.duplicates p.owner)).emit ((u.countDups p n).resultOf p 3 x) := by
  have ht : (p.recs.filter fun r => !(x.recs.any fun y => y.1 = r.lane)) = [] := by
    refine List.filter_eq_nil_iff.2 fun r hrm => ?_
    simp only [Bool.not_eq_true', Bool.not_eq_false, List.any_eq_true, decide_eq_true_eq]
    exact hr r hrm
  refine ⟨p.recs.length - 0, ?_⟩
  unfold State.lookup
  dsimp only
  rw [show (u.owner p.owner).cache.find? (fun e => e.isOf p && e.serial = p.serial) = _ from h]
  dsimp only
  rw [if_neg (by simp [hl]), if_neg (fun hc => hm (Entry.holds_other_iff.1 hc)), ht]
  rfl

theorem State.countDups_only (u : State) (p : Packet) (n : Nat) : u.countDups p n = { u with launches := (u.countDups p n).launches } := by
  unfold State.countDups
  split
  · split <;> rfl
  · rfl

/-- Such a copy changes no byte and no owner, and sends the entry's reply. -/
theorem State.lookup_duplicate_spec (h : (u.owner p.owner).entryOf p = some x) (hl : x.lost = false) (hm : ¬ ∃ r ∈ p.recs, x.holds r false)
    (hr : ∀ r ∈ p.recs, ∃ y ∈ x.recs, y.1 = r.lane) :
    (u.lookup p).mem = u.mem ∧ (u.lookup p).owners = u.owners ∧ (u.lookup p).net = (u.emit (u.resultOf p 3 x)).net := by
  obtain ⟨n, hn⟩ := State.lookup_duplicate h hl hm hr
  rw [hn, State.countDups_only]
  exact ⟨State.emit_mem .., State.emit_owners .., by rw [State.net_emit, State.net_emit]; rfl⟩

/-- The entry of a request that an owner executes for the first time. -/
def State.newEntry (u : State) (p : Packet) : Entry :=
  { src := p.src, handle := p.lhandle, key := normKey p.key, serial := p.serial, lanes := p.lanes, recs := (u.serveLanes p p.recs).2.1
    flags := (u.serveLanes p p.recs).2.2.setWidth 6, lost := false }

/-- After the one execution memory is what its lanes wrote, and the owner has its entry. -/
theorem State.executeOnce_spec (u : State) (p : Packet) : (u.executeOnce p none p.recs).mem = (u.serveLanes p p.recs).1.mem
    ∧ ((u.executeOnce p none p.recs).owner p.owner).entryOf p = some (u.newEntry p) := by
  obtain ⟨v, hv⟩ : ∃ v, v = (u.serveLanes p p.recs).1.clearCovered (storePieces p.op (p.recs.filter fun r => !u.laneBad p.op r)) := ⟨_, rfl⟩
  have ho : u.executeOnce p none p.recs = (v.setOwner p.owner { v.owner p.owner with
      cache := ((v.owner p.owner).cache.filter fun y => !(y.isOf p && y.serial = p.serial)) ++ [u.newEntry p] }).emit
        ((v.setOwner p.owner { v.owner p.owner with
          cache := ((v.owner p.owner).cache.filter fun y => !(y.isOf p && y.serial = p.serial)) ++ [u.newEntry p] }).resultOf p 3 (u.newEntry p)) := by
    rw [hv]; rfl
  rw [ho, State.owner_emit, State.owner_setOwner, State.emit_mem, State.setOwner_mem, hv, State.clearCovered_mem]
  refine ⟨rfl, ?_⟩
  have hn : ((v.owner p.owner).cache.filter fun y => !(y.isOf p && y.serial = p.serial)).find? (fun e => e.isOf p && e.serial = p.serial) = none := by
    rw [List.find?_eq_none]
    intro y hy
    simpa only [Bool.not_eq_true, Bool.not_eq_true'] using (List.mem_filter.1 hy).2
  rw [Owner.entryOf, List.find?_append, ← hv, hn]
  simp [Entry.isOf, State.newEntry]

theorem State.lane_mem_serveLanes {r : LaneRec} : ∀ {u : State} {rs : List LaneRec}, r ∈ rs → ∃ y ∈ (u.serveLanes p rs).2.1, y.1 = r.lane
  | u, q :: rs, h => by
    rw [State.serveLanes]
    rcases List.mem_cons.1 h with rfl | h
    · exact ⟨_, List.mem_cons_self .., rfl⟩
    · obtain ⟨y, hy, hl⟩ := State.lane_mem_serveLanes h
      exact ⟨y, List.mem_cons_of_mem _ hy, hl⟩

/-- A second copy of a request that has just been executed writes nothing (R44). -/
theorem State.lookup_executeOnce (u : State) (p : Packet) :
    ((u.executeOnce p none p.recs).lookup p).mem = (u.executeOnce p none p.recs).mem
    ∧ ((u.executeOnce p none p.recs).lookup p).owners = (u.executeOnce p none p.recs).owners := by
  obtain ⟨-, he⟩ := u.executeOnce_spec p
  by_cases hm : ∃ r ∈ p.recs, (u.newEntry p).holds r false
  · rw [State.lookup_mismatch he rfl hm]
    exact ⟨State.emit_mem .., State.emit_owners ..⟩
  · obtain ⟨h1, h2, -⟩ := State.lookup_duplicate_spec he rfl hm fun r hr => State.lane_mem_serveLanes hr
    exact ⟨h1, h2⟩

end cache

/-! ### Release notices (R44, R45) -/

section notices
variable {s u : State} {p : Packet}

theorem State.owner_setOwner_ne (s : State) {k j : Nat} (x : Owner) (h : j ≠ k) : (s.setOwner k x).owner j = s.owner j := by
  simp [State.owner, State.setOwner, tabGet_tabSet, h]

theorem execReleaseNotice_eq (ht : s.takePacket s.inp.pkt = some u) (hk : s.inp.pkt.kind = 4) (hp : s.inp.pkt.alone = false)
    (ha : (u.owner s.inp.pkt.owner).answers = true) (he : (u.owner s.inp.pkt.owner).endedFor u.now s.inp.pkt = false) :
    execReleaseNotice s = .next (u.setOwner s.inp.pkt.owner ((u.owner s.inp.pkt.owner).raise s.inp.pkt)) := by
  unfold execReleaseNotice
  rw [State.onPacket_taken hk ht]
  dsimp only
  rw [if_neg (by simp [hp, ha, he])]

theorem execReleaseNotice_unknown (ht : s.takePacket s.inp.pkt = some u) (hk : s.inp.pkt.kind = 4) (hp : s.inp.pkt.alone = false)
    (ha : (u.owner s.inp.pkt.owner).answers = true) (he : (u.owner s.inp.pkt.owner).endedFor u.now s.inp.pkt = false)
    (hd : (u.owner s.inp.pkt.owner).recordOf s.inp.pkt = none) :
    execReleaseNotice s = .next (u.setOwner s.inp.pkt.owner (u.owner s.inp.pkt.owner)) := by
  rw [execReleaseNotice_eq ht hk hp ha he, Owner.raise_unknown hd]

theorem execReleaseNotice_known (ht : s.takePacket s.inp.pkt = some u) (hk : s.inp.pkt.kind = 4) (hp : s.inp.pkt.alone = false)
    (ha : (u.owner s.inp.pkt.owner).answers = true) (he : (u.owner s.inp.pkt.owner).endedFor u.now s.inp.pkt = false) {d : DirRec}
    (hd : (u.owner s.inp.pkt.owner).recordOf s.inp.pkt = some d) : ∃ t, execReleaseNotice s = .next t
      ∧ (∀ k, k ≠ s.inp.pkt.owner → t.owner k = u.owner k) ∧ t.mem = u.mem
      ∧ (t.owner s.inp.pkt.owner).cache = (u.owner s.inp.pkt.owner).cache.filter fun e =>
        !(e.isOf s.inp.pkt && (later (floorWith s.inp.pkt (some d)) e.serial || 2 ^ 31 < (d.newest - e.serial).toNat)) :=
  ⟨_, execReleaseNotice_eq ht hk hp ha he, fun _ hne => u.owner_setOwner_ne _ hne, rfl, by
    rw [State.owner_setOwner, Owner.cache_raise hd]⟩

/-- Every owner of the package answers. -/
theorem ownersAll_answer_iff : (ownersAll.all fun o => (u.owner o).answers) = true ↔ ∀ k, k < 68 → (u.owner k).answers = true := by
  simp [ownersAll]

theorem execReleaseNoticeLaunchEnd_eq (ht : s.takePacket s.inp.pkt = some u) (hk : s.inp.pkt.kind = 4) (hp : s.inp.pkt.alone = true)
    (ha : ∀ k, k < 68 → (u.owner k).answers = true) : execReleaseNoticeLaunchEnd s = .next (
      (if u.endedBefore s.inp.pkt.src s.inp.pkt.lhandle then u.ownersAgain s.inp.pkt.src s.inp.pkt.lhandle
        else u.ownersEnd s.inp.pkt.src s.inp.pkt.lhandle).emit { u.reply s.inp.pkt 9 with alone := true }) := by
  unfold execReleaseNoticeLaunchEnd
  rw [State.onPacket_taken hk ht]
  dsimp only
  rw [if_pos (by rw [ownersAll_answer_iff.2 ha, hp]; rfl)]

theorem execReleaseNoticeLaunchEnd_restarting (ht : s.takePacket s.inp.pkt = some u) (hk : s.inp.pkt.kind = 4)
    (ha : ∃ k, k < 68 ∧ (u.owner k).answers = false) : execReleaseNoticeLaunchEnd s = .next u := by
  have hn : (ownersAll.all fun o => (u.owner o).answers) = false := by
    obtain ⟨k, hk, hf⟩ := ha
    exact Bool.eq_false_iff.2 fun hc => by simp [ownersAll_answer_iff.1 hc k hk] at hf
  unfold execReleaseNoticeLaunchEnd
  rw [State.onPacket_taken hk ht]
  dsimp only
  rw [hn, Bool.and_false, if_neg Bool.false_ne_true]

/-- A mark's last notice is the duplicate that has come. -/
def EndMark.again (src : BitVec 16) (h : Word) (now : Nat) (e : EndMark) : EndMark := if e.isOf src h then { e with last := now } else e

/-- A duplicate of a launch's notice changes when its marks were last told of, and nothing else of an owner. -/
theorem State.owner_ownersAgain (u : State) (src : BitVec 16) (h : Word) (k : Nat) :
    (u.ownersAgain src h).owner k = { u.owner k with ended := (u.owner k).ended.map (EndMark.again src h u.now) } :=
  tabGet_map (fun o : Owner => { o with ended := o.ended.map (EndMark.again src h u.now) }) rfl u.owners k

/-- No duplicate puts a mark in force again, or out of it. -/
theorem Owner.endedFor_again (o : Owner) (src : BitVec 16) (h : Word) (m now : Nat) (q : Packet) :
    ({ o with ended := o.ended.map (EndMark.again src h m) } : Owner).endedFor now q = o.endedFor now q := by
  unfold Owner.endedFor
  rw [List.any_map]
  refine congrArg o.ended.any (funext fun e => ?_)
  unfold Function.comp EndMark.again
  split <;> rfl

theorem State.reply_ownersAgain (u : State) (src : BitVec 16) (h : Word) (q : Packet) (k : BitVec 4) :
    (u.ownersAgain src h).reply q k = u.reply q k := by
  unfold State.reply
  rw [State.owner_ownersAgain]
  rfl

theorem execReleaseNoticeLaunchEnd_again (ht : s.takePacket s.inp.pkt = some u) (hk : s.inp.pkt.kind = 4) (hp : s.inp.pkt.alone = true)
    (ha : ∀ k, k < 68 → (u.owner k).answers = true) (hb : u.endedBefore s.inp.pkt.src s.inp.pkt.lhandle = true) :
    execReleaseNoticeLaunchEnd s = .next ((u.ownersAgain s.inp.pkt.src s.inp.pkt.lhandle).emit
      { (u.ownersAgain s.inp.pkt.src s.inp.pkt.lhandle).reply s.inp.pkt 9 with alone := true }) := by
  rw [execReleaseNoticeLaunchEnd_eq ht hk hp ha, if_pos hb, State.reply_ownersAgain]

/-- Nothing of an ended launch is left at an owner, whose mark of it is in force. -/
def Owner.endedOf (o : Owner) (src : BitVec 16) (h : Word) (now : Nat) : Prop :=
  (∀ e ∈ o.cache, ¬ (e.src = src ∧ e.handle = h)) ∧ (∀ x ∈ o.dir, ¬ (x.src = src ∧ x.handle = h))
    ∧ ∀ q : Packet, q.src = src → q.lhandle = h → o.endedFor now q = true

theorem Owner.endedOf_endLaunchOf (o : Owner) (src : BitVec 16) (h : Word) (now : Nat) : (o.endLaunchOf src h now).endedOf src h now := by
  refine ⟨fun e he => ?_, fun x hx => ?_, fun q hs hh => ?_⟩
  · simpa [imp_iff_not_or] using (List.mem_filter.1 he).2
  · simpa [imp_iff_not_or] using (List.mem_filter.1 hx).2
  · simp [Owner.endedFor, Owner.endLaunchOf, hs, hh, us]

/-- The end of a launch at one owner. -/
def State.ownerEnd (src : BitVec 16) (h : Word) (s : State) (o : Nat) : State := s.setOwner o ((s.owner o).endLaunchOf src h s.now)

theorem State.ownersEnd_eq (u : State) (src : BitVec 16) (h : Word) : u.ownersEnd src h = (List.range 68).foldl (State.ownerEnd src h) u := rfl

theorem State.ownersEnd_spec (u : State) (src : BitVec 16) (h : Word) : (u.ownersEnd src h).mem = u.mem
    ∧ ∀ k, k < 68 → ((u.ownersEnd src h).owner k).endedOf src h u.now := by
  rw [State.ownersEnd_eq]
  refine ⟨List.foldlRecOn _ _ (motive := fun t : State => t.mem = u.mem) rfl fun _ ht _ _ => ht, fun k hk => ?_⟩
  refine (foldl_range_turn (f := State.ownerEnd src h) (I := fun t => t.now = u.now)
    (P := fun t => t.now = u.now ∧ (t.owner k).endedOf src h u.now) hk (fun t a _ ht => ht) (fun t ht => ⟨ht, ?_⟩)
    (fun t a ha ht => ⟨ht.1, ?_⟩) (s := u) rfl).2
  · rw [State.ownerEnd, State.owner_setOwner, ht]
    exact Owner.endedOf_endLaunchOf ..
  · rw [State.ownerEnd, State.owner_setOwner_ne _ _ (Ne.symm ha)]
    exact ht.2

theorem execReleaseNoticeLaunchEnd_ends (ht : s.takePacket s.inp.pkt = some u) (hk : s.inp.pkt.kind = 4) (hp : s.inp.pkt.alone = true)
    (ha : ∀ k, k < 68 → (u.owner k).answers = true) (hb : u.endedBefore s.inp.pkt.src s.inp.pkt.lhandle = false) :
    ∃ t, execReleaseNoticeLaunchEnd s = .next t ∧ t.mem = u.mem
      ∧ ∀ k, k < 68 → (t.owner k).endedOf s.inp.pkt.src s.inp.pkt.lhandle u.now := by
  obtain ⟨hm, ho⟩ := u.ownersEnd_spec s.inp.pkt.src s.inp.pkt.lhandle
  refine ⟨_, execReleaseNoticeLaunchEnd_eq ht hk hp ha, ?_, fun k hk => ?_⟩
  · rw [hb, if_neg Bool.false_ne_true, State.emit_mem, hm]
  · rw [hb, if_neg Bool.false_ne_true, State.owner_emit]
    exact ho k hk

end notices

/-! ### Marks, restarts, the drain (R45, R46, R224) -/

section restarts
variable {s : State}

/-- A mark that is at least 250 µs old goes out of force. -/
def EndMark.expired (src : BitVec 16) (h : Word) (now : Nat) (e : EndMark) : EndMark :=
  if e.isOf src h && e.since + us 250 ≤ now then { e with live := false } else e

theorem EndMark.expired_inForce_iff (src : BitVec 16) (h : Word) (now : Nat) (e : EndMark) (q : Packet) :
    ((e.expired src h now).src = q.src ∧ (e.expired src h now).handle = q.lhandle ∧ (e.expired src h now).live = true
      ∧ now < (e.expired src h now).since + us 500)
    ↔ e.src = q.src ∧ e.handle = q.lhandle ∧ e.live = true ∧ now < e.since + us 500
      ∧ ¬ (e.src = src ∧ e.handle = h ∧ e.since + us 250 ≤ now) := by
  by_cases hx : e.src = src ∧ e.handle = h ∧ e.since + us 250 ≤ now
  · simp [EndMark.expired, EndMark.isOf, hx]
  · have he : e.expired src h now = e := by
      unfold EndMark.expired EndMark.isOf
      exact if_neg (by simpa [and_assoc] using hx)
    rw [he]
    exact ⟨fun ⟨a, b, c, d⟩ => ⟨a, b, c, d, hx⟩, fun ⟨a, b, c, d, _⟩ => ⟨a, b, c, d⟩⟩

theorem execLaunchEndMarkExpiry_spec (s : State) : ∃ t, execLaunchEndMarkExpiry s = .next t ∧ (∀ k, k ≠ s.inp.owner → t.owner k = s.owner k)
    ∧ (t.owner s.inp.owner).cache = (s.owner s.inp.owner).cache
    ∧ ∀ q, (t.owner s.inp.owner).endedFor s.now q = true ↔ ∃ e ∈ (s.owner s.inp.owner).ended, e.src = q.src ∧ e.handle = q.lhandle
        ∧ e.live = true ∧ s.now < e.since + us 500 ∧ ¬ (e.src = s.inp.pkg ∧ e.handle = s.inp.handle ∧ e.since + us 250 ≤ s.now) := by
  have ho : execLaunchEndMarkExpiry s = .next (s.setOwner s.inp.owner { s.owner s.inp.owner with
    ended := (s.owner s.inp.owner).ended.map (EndMark.expired s.inp.pkg s.inp.handle s.now) }) := rfl
  refine ⟨_, ho, fun _ hk => s.owner_setOwner_ne _ hk, by rw [State.owner_setOwner], fun q => ?_⟩
  rw [State.owner_setOwner, Owner.endedFor, List.any_map]
  simp only [List.any_eq_true, Function.comp_apply, Bool.and_eq_true, decide_eq_true_eq, and_assoc, EndMark.expired_inForce_iff]

/-- The phase of an owner that restarts (R46). -/
def Phase.restarted (now : Nat) (ok : Bool) : Phase → Phase
  | .serving => .silent (now + us 250) (!ok) none
  | .quarantine t => .silent (now + us 250) (!ok) (some t)
  | .silent _ lost q => .silent (now + us 250) (lost || !ok) q

theorem execOwnerRestart_eq (s : State) : execOwnerRestart s = .next (s.setOwner s.inp.owner
    { s.owner s.inp.owner with phase := (s.owner s.inp.owner).phase.restarted s.now s.inp.ok }) := rfl

theorem execOwnerRestore_eq {till : Nat} {lost : Bool} {q : Option Nat} (hp : (s.owner s.inp.owner).phase = .silent till lost q)
    (h : till ≤ s.now) : execOwnerRestore s = .next (s.setOwner s.inp.owner ((s.owner s.inp.owner).restored s.now)) := by
  unfold execOwnerRestore
  dsimp only
  rw [hp]
  exact State.when_pos (by simpa using h)

theorem Owner.restored_intact {o : Owner} {till : Nat} {q : Option Nat} (hp : o.phase = .silent till false q) (now : Nat) :
    o.restored now = { o with incarn := o.incarn + 1, phase := (q.map Phase.quarantine).getD .serving } := by
  unfold Owner.restored
  rw [hp]
  cases q <;> rfl

theorem Owner.restored_lost {o : Owner} {till : Nat} {q : Option Nat} (hp : o.phase = .silent till true q) (now : Nat) :
    o.restored now = { o with incarn := o.incarn + 1, cache := [], dir := [], phase := .quarantine (now + us 3500) } := by
  unfold Owner.restored
  rw [hp]
  rfl

theorem execQuarantineEnd_eq {till : Nat} (hp : (s.owner s.inp.owner).phase = .quarantine till) (h : till ≤ s.now) :
    execQuarantineEnd s = .next (s.setOwner s.inp.owner { s.owner s.inp.owner with phase := .serving }) := by
  unfold execQuarantineEnd
  dsimp only
  rw [hp]
  exact State.when_pos (by simpa using h)

theorem Owner.not_mem_dropHeld (o : Owner) (k : BitVec 16 × Word) : ∀ e ∈ (o.dropHeld k).hold ++ (o.dropHeld k).log.flatten, e.owner ≠ k := by
  intro e he
  rcases List.mem_append.1 he with he | he
  · simpa using (List.mem_filter.1 he).2
  · obtain ⟨l, hl, hel⟩ := List.mem_flatten.1 he
    obtain ⟨r, -, rfl⟩ := List.mem_map.1 (List.mem_of_mem_filter hl)
    simpa using (List.mem_filter.1 hel).2

/-- The updates of a launch that an owner holds, in the order of R221. -/
def Owner.heldOf (o : Owner) (k : BitVec 16 × Word) : List HeldOp :=
  holdMerge (o.log.map (fun l => l.filter fun e => e.owner = k) ++ [o.hold.filter fun e => e.owner = k])

/-- Updates applied one after another, with their flags gathered: the state is that of the updates alone. -/
theorem applyAll_fst (l : List HeldOp) (s : State) (f : Flags) :
    (l.foldl (fun (p : State × Flags) e => ((p.1.applyHeld e).1, p.2 ||| (p.1.applyHeld e).2)) (s, f)).1
      = l.foldl (fun v e => (v.applyHeld e).1) s := by
  induction l generalizing s f with
  | nil => rfl
  | cons e l ih => exact ih _ _

theorem State.sameButBytes_applyAll (s : State) (l : List HeldOp) : s.sameButBytes (l.foldl (fun v e => (v.applyHeld e).1) s) :=
  State.sameButBytes_foldl (fun v _ => v.sameButBytes_memWrite _ _) l s

/-- Drain of a launch of this package at one owner: what is applied, and what the launch's entry counts (R224). -/
theorem State.drainHeld_spec (s : State) {src : BitVec 16} (hp : src = s.image.pkgnum) (n : Nat) (h : Word) (apply : Bool) :
    let k := (src, h)
    let seq := if apply then (s.owner n).heldOf k else []
    let t := s.drainHeld n src h apply
    (∀ e ∈ (t.owner n).hold ++ (t.owner n).log.flatten, e.owner ≠ k) ∧ (∀ j, j ≠ n → t.owner j = s.owner j)
      ∧ t.mem = (seq.foldl (fun v e => (v.applyHeld e).1) s).mem ∧ (t.launch h).held = (s.launch h).held + seq.length := by
  intro k seq t
  obtain ⟨v, hv⟩ : ∃ v, v = seq.foldl (fun v e => (v.applyHeld e).1) s := ⟨_, rfl⟩
  have hs : s.sameButBytes v := hv ▸ s.sameButBytes_applyAll seq
  obtain ⟨r, hr⟩ : ∃ r, r = seq.foldl (fun (p : State × Flags) e => ((p.1.applyHeld e).1, p.2 ||| (p.1.applyHeld e).2)) (s, 0) := ⟨_, rfl⟩
  have hrv : r.1 = v := by rw [hr, hv, applyAll_fst]
  have ht : t = (r.1.setOwner n ((r.1.owner n).dropHeld k)).setLaunch h
      { r.1.launch h with held := (r.1.launch h).held + seq.length, flags := (r.1.launch h).flags ||| r.2.setWidth 6 } := by
    have hi : src = (r.1.setOwner n ((r.1.owner n).dropHeld k)).image.pkgnum := by rw [hp, hrv, hs]; rfl
    rw [hr] at hi ⊢
    exact if_pos hi
  rw [hrv] at ht
  refine ⟨?_, fun j hj => ?_, ?_, ?_⟩
  · rw [ht, State.owner, State.setLaunch_owners, ← State.owner, State.owner_setOwner]
    exact Owner.not_mem_dropHeld _ k
  · rw [ht, State.owner, State.setLaunch_owners, ← State.owner, State.owner_setOwner_ne _ _ hj, hs]
    rfl
  · rw [ht, hv]
    rfl
  · rw [ht, State.launch_setLaunch, hs]
    rfl

theorem execHeldDrain_eq (hp : s.inp.pkg = s.image.pkgnum) (he : (s.launch s.inp.handle).state = .ending)
    (hd : (s.launch s.inp.handle).determ = true) : execHeldDrain s = .next (s.drainHeld s.inp.owner s.inp.pkg s.inp.handle
      ((s.launch s.inp.handle).cause = 0)) := by
  unfold execHeldDrain
  dsimp only
  rw [if_pos hp]
  exact State.when_pos (by simp [he, hd])

end restarts

/-- Settles O46: each clause is the lemma of its event above. -/
theorem ownerPackets : Obligations.OwnerPackets := by
  refine ⟨fun s => ?_, fun s u => ?_, fun u p => ?_, fun s => ?_⟩
  · exact ⟨execFlitReceive_uncorrectable, execFlitReceive_crcFail, fun hg =>
      ⟨execFlitReceive_reserved hg, fun _ => execFlitReceive_handled hg⟩⟩
  · intro p o d floor full answering ht
    refine ⟨fun n sg hk ho ha hr => execLoadRequest_answered ht hk ho ha hr, fun n sg hk ho h => ?_,
      fun w gen mode r hk ho hs ha hr hb => execClineRequest_answered ht hk ho hs ha hr hb, fun hk h => ?_, fun hk h hf => ?_,
      fun hk h hf => ?_, fun hk hp ha he => ⟨execReleaseNotice_unknown ht hk hp ha he, fun x hx => ?_⟩,
      fun hk hp ha hb => ⟨execReleaseNoticeLaunchEnd_again ht hk hp ha hb, fun k => ?_⟩,
      fun hk _ ha => execReleaseNoticeLaunchEnd_restarting ht hk ha, fun hk hp ha hb => ?_⟩
    · exact (execLoadRequest_eq ht hk ho).trans (congrArg _ (State.serveLoad_dropped h))
    · exact (execWatermarkedRequest_eq ht hk).trans (congrArg _ (State.watermarked_dropped h))
    · exact (execWatermarkedRequest_eq ht hk).trans (congrArg _ (State.watermarked_full h hf))
    · obtain ⟨x, ⟨hc, hh, hl, hi⟩, hst, hlk⟩ := State.watermarked_taken h hf
      exact ⟨_, x, execWatermarkedRequest_eq ht hk, hc, hh, hl, hi, hst, hlk⟩
    · have hd : (u.owner p.owner).recordOf p = some x := hx
      have hfl : floor = floorWith p (some x) := congrArg (floorWith p) hd
      rw [hfl]
      exact execReleaseNotice_known ht hk hp ha he hd
    · rw [State.owner_ownersAgain]
      exact ⟨rfl, fun q => Owner.endedFor_again ..⟩
    · obtain ⟨t, ho, hm, he⟩ := execReleaseNoticeLaunchEnd_ends ht hk hp ha hb
      refine ⟨t, ho, hm, fun k hk => ?_⟩
      obtain ⟨hc, hd, hq⟩ := he k hk
      exact ⟨hc, hd, hq p rfl rfl⟩
  · exact ⟨State.lookup_mayBeLost, State.lookup_busy, State.lookup_executes, fun x => State.lookup_lost, fun x => State.lookup_mismatch,
      fun x h hl hm => State.lookup_duplicate_spec h hl (fun ⟨r, hr, hx⟩ => (hm r hr).2 hx)
        (fun r hr => (hm r hr).1.imp fun _ ⟨hy, hl, _⟩ => ⟨hy, hl⟩),
      (u.executeOnce_spec p).1, u.lookup_executeOnce p⟩
  · refine ⟨execLaunchEndMarkExpiry_spec s,
      ⟨_, _, execOwnerRestart_eq s, fun _ hk => s.owner_setOwner_ne _ hk, s.owner_setOwner .., ?_, ?_, ?_⟩,
      fun till q hp h => ⟨_, execOwnerRestore_eq hp h, fun _ hk => s.owner_setOwner_ne _ hk, ?_⟩,
      fun till q hp h => ⟨_, execOwnerRestore_eq hp h, fun _ hk => s.owner_setOwner_ne _ hk, ?_⟩,
      fun till hp h => ⟨_, execQuarantineEnd_eq hp h, fun _ hk => s.owner_setOwner_ne _ hk, s.owner_setOwner ..⟩,
      fun hp he hd => ?_⟩
    · intro h; rw [h]; rfl
    · intro e h; rw [h]; rfl
    · intro till lost q h; rw [h]; rfl
    · exact (s.owner_setOwner ..).trans (Owner.restored_intact hp s.now)
    · exact (s.owner_setOwner ..).trans (Owner.restored_lost hp s.now)
    · obtain ⟨hh, ho, hm, hl⟩ := s.drainHeld_spec hp s.inp.owner s.inp.handle ((s.launch s.inp.handle).cause = 0)
      refine ⟨_, execHeldDrain_eq hp he hd, hh, ho, fun hc => ?_, fun hc => ?_⟩
      · rwa [if_neg (by simpa using hc)] at hm
      · rw [if_pos (by simpa using hc)] at hm hl
        exact ⟨hm, hl⟩

end Sys2Proof.Machine

/-! SUPPORT. What the end of a request leaves of its group: the copies that a tidied launch discards, the requests that go out when one is
closed, and the freezing of a cluster. -/
namespace Sys2Proof.Machine

/-! ### Tidying (R80, R357, R69) -/

/-- A function of the key and the value that keeps the default commutes with reading. -/
theorem tabGet_mapKey {β : Type} {d : β} (f : Nat → β → β) (hf : ∀ k, f k d = d) (t : Tab β) (k : Nat) :
    tabGet d (t.map fun p => (p.1, f p.1 p.2)) k = f k (tabGet d t k) := by
  induction t with
  | nil => exact (hf k).symm
  | cons p t ih =>
    simp only [List.map_cons, tabGet, ih]
    split
    · next h => rw [h]
    · split
      · exact (hf k).symm
      · rfl

theorem State.groups_foldl {α : Type} {f : State → α → State} (hf : ∀ (s : State) a, (f s a).groups = s.groups) (l : List α) (s : State) :
    (l.foldl f s).groups = s.groups :=
  List.foldlRecOn l f (motive := fun t : State => t.groups = s.groups) rfl fun _ ht a _ => (hf _ a).trans ht

@[simp] theorem State.groups_freeResv (s : State) (q : Nat) (r : Resv) : (s.freeResv q r).groups = s.groups :=
  State.groups_foldl (fun _ _ => by rfl) _ _

@[simp] theorem State.groups_freeAreas (s : State) (tk : Nat) : (s.freeAreas tk).groups = s.groups := State.groups_foldl (fun _ _ => by rfl) _ _

@[simp] theorem State.groups_tidyTeam (s : State) (tk : Nat) : (s.tidyTeam tk).groups = s.groups := by
  unfold State.tidyTeam
  dsimp only
  split
  · rw [State.setTeam_groups, State.groups_freeAreas, State.groups_foldl fun _ _ => State.groups_freeResv ..]
  · rfl

@[simp] theorem State.groups_tidyCluster (s : State) (ck : Nat) : (s.tidyCluster ck).groups = s.groups := by
  unfold State.tidyCluster
  dsimp only
  split
  · split <;> exact State.groups_foldl (fun _ _ => by rfl) _ _
  · rfl

/-- Of every group all but its copies is as it was. -/
def State.sameButCopies (s t : State) : Prop := ∀ k, t.group k = { s.group k with copies := (t.group k).copies }

theorem State.sameButCopies_of_groups {s t : State} (h : t.groups = s.groups) : s.sameButCopies t := fun k => by
  rw [State.group, h, State.group]

theorem State.sameButCopies_trans {s t u : State} (h : s.sameButCopies t) (k : t.sameButCopies u) : s.sameButCopies u := fun g => by
  rw [k g, h g]

theorem State.sameButCopies_discardParked (s : State) (h : Word) : s.sameButCopies (s.discardParked h) := fun k => by
  have hd : (s.discardParked h).groups = s.groups.map fun p =>
      (p.1, if keyHandle (groupTeam p.1) = h then { p.2 with copies := p.2.copies.filter fun c => !c.parked } else p.2) := by
    refine List.map_congr_left fun p _ => ?_
    by_cases hk : keyHandle (groupTeam p.1) = h <;> simp [hk]
  rw [State.group, hd, tabGet_mapKey (fun k (g : Group) => if keyHandle (groupTeam k) = h then
    { g with copies := g.copies.filter fun c => !c.parked } else g) (fun k => by split <;> rfl), State.group]
  split <;> rfl

theorem State.sameButCopies_tidy (s : State) (gid : Nat) : s.sameButCopies (s.tidy gid) := by
  have h1 : ∀ (v : State) a b, ((v.tidyTeam a).tidyCluster b).groups = v.groups := fun v a b => by simp
  unfold State.tidy
  dsimp only
  split
  · exact State.sameButCopies_of_groups (h1 ..)
  · refine State.sameButCopies_trans (State.sameButCopies_of_groups (h1 s _ _)) (State.sameButCopies_trans
      (State.sameButCopies_discardParked _ _) (State.sameButCopies_of_groups (State.groups_foldl (fun _ _ => h1 ..) _ _)))

/-! ### A request closed (R39, R45, R355) -/

/-- Of a group all but its outstanding list, its notices, its classes of operations and its copies is as it was. -/
def Group.sameButClosed (g h : Group) : Prop :=
  h = { g with outs := h.outs, notices := h.notices, rem := h.rem, matOps := h.matOps, copies := h.copies }

theorem Group.sameButClosed_trans {g h k : Group} (a : g.sameButClosed h) (b : h.sameButClosed k) : g.sameButClosed k := by
  unfold Group.sameButClosed at *
  rw [b, a]

theorem Group.markRem_spec (g : Group) (n : Word) : g.sameButClosed (g.markRem n) ∧ (g.markRem n).outs = g.outs := by
  unfold Group.markRem
  split <;> exact ⟨rfl, rfl⟩

/-- No request of the number stands in the group's outstanding list. -/
def State.closed (s : State) (gid n : Nat) : Prop := ∀ x ∈ (s.group gid).outs, x.seq ≠ n

/-- Requests that nothing holds back any more leave, under the numbers that they have. -/
theorem State.releaseHeld_spec (s : State) (gid n : Nat) (h : s.closed gid n) :
    (s.group gid).sameButClosed ((s.releaseHeld gid).group gid) ∧ (s.releaseHeld gid).closed gid n := by
  refine List.foldlRecOn (s.group gid).outs _
    (motive := fun v : State => (s.group gid).sameButClosed (v.group gid) ∧ v.closed gid n) ⟨rfl, h⟩ fun v ⟨hg, hc⟩ o _ => ?_
  dsimp only
  split
  · unfold State.closed
    rw [State.group_emit, State.group_setGroup]
    refine ⟨Group.sameButClosed_trans hg rfl, fun x hx => ?_⟩
    obtain ⟨y, hy, rfl⟩ := List.mem_map.1 hx
    split
    · next hs => exact (of_decide_eq_true hs) ▸ hc y hy
    · exact hc y hy
  · exact ⟨hg, hc⟩

/-- A closed request leaves the list; of its group only what depends on the list changes, and the copies of an ended launch. -/
theorem State.closeRequest_spec (s : State) (gid : Nat) (o : OutReq) :
    (s.group gid).sameButClosed ((s.closeRequest gid o).group gid) ∧ (s.closeRequest gid o).closed gid o.seq := by
  obtain ⟨g, hg, ho, hc⟩ : ∃ g, (s.group gid).sameButClosed g ∧ g.outs = (s.group gid).outs.filter (fun x => !x.same o)
      ∧ s.closeRequest gid o = ((s.setGroup gid g).releaseHeld gid).tidy gid := by
    refine ⟨_, ?_, ?_, rfl⟩
    · split
      · exact Group.sameButClosed_trans (h := { s.group gid with outs := _, notices := _ }) rfl (Group.markRem_spec _ _).1
      · rfl
    · split
      · exact (Group.markRem_spec _ _).2
      · rfl
  have hn : (s.setGroup gid g).closed gid o.seq := fun x hx => by
    rw [State.group_setGroup, ho] at hx
    simpa [OutReq.same] using (List.mem_filter.1 hx).2
  obtain ⟨h1, h2⟩ := State.releaseHeld_spec _ gid o.seq hn
  rw [State.group_setGroup] at h1
  have ht := State.sameButCopies_tidy ((s.setGroup gid g).releaseHeld gid) gid gid
  refine ⟨?_, fun x hx => ?_⟩
  · rw [hc]
    exact Group.sameButClosed_trans (Group.sameButClosed_trans hg h1) (by rw [ht]; rfl)
  · rw [hc, ht] at hx
    exact h2 x hx

/-! ### A cluster frozen (R235) -/

/-- Of the groups nothing changes but that some stop; the group's cluster freezes, with the snapshot of the group at the word in hand,
unless it has frozen or ended. -/
def State.freezesFor (s t : State) (gid : Nat) (lanes : Lanes) : Prop :=
  (∀ k, t.group k = { s.group k with stopped := (t.group k).stopped })
    ∧ ((s.cluster (s.group gid).ck).state ≠ .frozen → (s.cluster (s.group gid).ck).state ≠ .ended →
      (t.cluster (s.group gid).ck).state = .frozen
        ∧ ∃ x, (t.cluster (s.group gid).ck).snap = some x ∧ x.gid = gid ∧ x.pc = s.iss.pc ∧ x.lanes = lanes)

theorem State.cluster_stopAll (l : List Nat) (s : State) (k : Nat) : (l.foldl State.stopGroup s).cluster k = s.cluster k :=
  congrArg (tabGet ({} : Cluster) · k) (State.stopAll_spec l s).1

/-- A cluster that has frozen or ended stays as it is. -/
theorem State.freezesFor_self {s : State} {gid : Nat} (lanes : Lanes)
    (h : (s.cluster (s.group gid).ck).state = .frozen ∨ (s.cluster (s.group gid).ck).state = .ended) : s.freezesFor s gid lanes :=
  ⟨fun _ => rfl, fun hf he => (h.elim hf he).elim⟩

theorem State.freezesFor_freeze (s : State) (gid source die unit : Nat) (addr : Dword) (lanes : Lanes) :
    s.freezesFor (s.freeze gid source die unit addr lanes) gid lanes := by
  unfold State.freeze
  dsimp only
  split
  · next h => exact State.freezesFor_self lanes (by simpa using h)
  · refine ⟨(State.stopAll_spec _ _).2.2, fun _ _ => ?_⟩
    have hc : ∀ (c : Cluster) (l : List Nat) f, ((l.foldl State.stopGroup (s.setCluster (s.group gid).ck c)).countLive f).cluster (s.group gid).ck = c :=
      fun c l f => (State.cluster_stopAll ..).trans (State.cluster_setCluster ..)
    exact ⟨congrArg Cluster.state (hc _ _ _), _, congrArg Cluster.snap (hc _ _ _), rfl, rfl, rfl⟩

theorem State.freezesFor_consume (s : State) (gid source die unit : Nat) (addr : Dword) (lanes : Lanes) :
    s.freezesFor (s.consume gid source die unit addr lanes) gid lanes := by
  unfold State.consume
  dsimp only
  split
  · next h => exact State.freezesFor_self lanes (by simpa using h)
  · exact (s.dieError die).freezesFor_freeze ..

end Sys2Proof.Machine

/-! PROOF. What becomes of a request after its issue (spec/02_fabric_and_exactly_once.md R39 to R42, R45,
spec/10_determinism_and_reliability.md R237). -/
namespace Sys2Proof.Machine

/-! ### Values that replies bring (R107) -/

section replies
variable {s u : State} {gid : Nat} {o : OutReq} {p : Packet}

/-- The word of a reply for lane `l` and the `k`th destination register: one record's for every lane, or its own. -/
def replyWord (op : OwnerOp) (recs : List LaneRec) (k l : Nat) : Word :=
  ((if opBroad op then recs.head? else recs.find? fun r => r.lane = l).map fun r => r.data.getD k 0).getD 0

/-- A late result that a reply has filled. -/
def Late.filled (x y : Late) (op : OwnerOp) (recs : List LaneRec) (keep : Lanes) : Prop :=
  y.ready = true ∧ y.dst = x.dst ∧ y.regs = (x.regs.map fun r => (r.1, r.2 &&& keep))
    ∧ ∀ k d, x.dst[k]? = some d → ∃ row ∈ y.rows, row.1 = d ∧ ∀ l, l < 32 → laneAt row.2 l = replyWord op recs k l

/-- A row of a reply's words, and the rows for its destination registers. -/
def replyRow (op : OwnerOp) (recs : List LaneRec) (k : Nat) : Row := Vector.ofFn fun l => replyWord op recs k l.val
def replyRows (op : OwnerOp) (recs : List LaneRec) (dst : List Nat) : List (Nat × Row) := dst.zipIdx.map fun d => (d.1, replyRow op recs d.2)

theorem laneAt_replyRow (op : OwnerOp) (recs : List LaneRec) (k : Nat) {l : Nat} (h : l < 32) :
    laneAt (replyRow op recs k) l = replyWord op recs k l := by
  simp [laneAt, replyRow, Array.getD, h]

theorem replyRow_mem (op : OwnerOp) (recs : List LaneRec) {dst : List Nat} {k d : Nat} (h : dst[k]? = some d) :
    (d, replyRow op recs k) ∈ replyRows op recs dst :=
  List.mem_map.2 ⟨(d, k), List.mem_zipIdx_iff_getElem?.2 h, rfl⟩

/-- What a reply makes of a late result. -/
def Late.fill (o : OutReq) (recs : List LaneRec) (keep : Lanes) (x : Late) : Late :=
  if x.isOf o then
    { x with rows := replyRows o.packet.op recs x.dst, ready := true, regs := x.regs.map fun r => (r.1, r.2 &&& keep) }
  else x

theorem Group.fillLate_eq (g : Group) (o : OutReq) (recs : List LaneRec) (keep : Lanes) :
    g.fillLate o recs keep = { g with late := (g.late.map (Late.fill o recs keep)).filter fun x => !(x.isOf o && keep == 0) } := rfl

theorem Late.isOf_fill (o : OutReq) (recs : List LaneRec) (keep : Lanes) (x : Late) : (x.fill o recs keep).isOf o = x.isOf o := by
  unfold Late.fill
  split <;> rfl

/-- A reply that answers some lane fills its late results. -/
theorem Group.fillLate_filled (g : Group) {x : Late} (hx : x ∈ g.late) (ho : x.isOf o = true) (recs : List LaneRec) {keep : Lanes}
    (hk : keep ≠ 0) : ∃ y ∈ (g.fillLate o recs keep).late, x.filled y o.packet.op recs keep := by
  refine ⟨x.fill o recs keep, List.mem_filter.2 ⟨List.mem_map_of_mem hx, by simpa using .inr hk⟩, ?_⟩
  rw [Late.fill, if_pos ho]
  exact ⟨rfl, rfl, rfl, fun k d hd => ⟨_, replyRow_mem _ _ hd, rfl, fun _ hl => laneAt_replyRow _ _ _ hl⟩⟩

/-- The late results of a request are filled with registers below a number that bounds them. -/
def Group.lateBelow (g : Group) (o : OutReq) (n : Nat) : Prop := ∀ x ∈ g.late, x.isOf o = true → ∀ r ∈ x.regs, r.1 < n

theorem Group.lateBelow_fillLate {g : Group} {n : Nat} (h : g.lateBelow o n) (recs : List LaneRec) (keep : Lanes) :
    (g.fillLate o recs keep).lateBelow o n := by
  intro y hy hyo r hr
  rw [Group.fillLate_eq] at hy
  obtain ⟨x, hx, rfl⟩ := List.mem_map.1 (List.mem_of_mem_filter hy)
  rw [Late.isOf_fill] at hyo
  rw [Late.fill, if_pos hyo] at hr
  obtain ⟨q, hq, rfl⟩ := List.mem_map.1 hr
  exact h x hx hyo q hq

theorem Group.wakeHidden_only (g : Group) : g.wakeHidden = { g with wait := g.wakeHidden.wait } := by
  unfold Group.wakeHidden
  split
  · split
    · rfl
    · split <;> rfl
  · rfl

/-! ### Replies to requests (R39, R41, R237) -/

/-- A complete reply: the request is closed, its flags are merged, its values have come. -/
theorem State.takeResult_good (u : State) (gid : Nat) (o : OutReq) (hb : p.bad = 0) :
    (u.takeResult gid o p).closed gid o.seq
      ∧ ((u.takeResult gid o p).group gid).fpflags = mergeFlags (u.group gid).fpflags p.flags
      ∧ ((u.takeResult gid o p).group gid).late = ((u.group gid).fillLate o p.recs o.lanes).late := by
  obtain ⟨g, hg⟩ : ∃ g, g = (({ u.group gid with fpflags := mergeFlags (u.group gid).fpflags p.flags } : Group).fillLate o p.recs o.lanes).wakeHidden :=
    ⟨_, rfl⟩
  have ht : u.takeResult gid o p = (u.setGroup gid g).closeRequest gid o := by
    rw [hg]
    exact if_neg (by simp [hb])
  obtain ⟨hs, hc⟩ := State.closeRequest_spec (u.setGroup gid g) gid o
  rw [ht]
  refine ⟨hc, ?_, ?_⟩
  · rw [hs, State.group_setGroup, hg, Group.wakeHidden_only]
    rfl
  · rw [hs, State.group_setGroup, hg, Group.wakeHidden_only]
    rfl

/-- A poisoned reply: the request is closed, and its group's cluster freezes unless it has frozen or ended. -/
theorem State.takeResult_poisoned (u : State) (gid : Nat) (o : OutReq) (hb : p.bad ≠ 0) :
    (u.takeResult gid o p).closed gid o.seq
      ∧ let c := u.closeRequest gid o
        let k := (c.group gid).ck
        (c.cluster k).state ≠ .frozen → (c.cluster k).state ≠ .ended → ((u.takeResult gid o p).cluster k).state = .frozen
          ∧ ∃ x, ((u.takeResult gid o p).cluster k).snap = some x ∧ x.gid = gid ∧ x.pc = o.pc ∧ x.lanes = p.bad := by
  obtain ⟨c, hc⟩ : ∃ c, c = u.closeRequest gid o := ⟨_, rfl⟩
  obtain ⟨w, hw⟩ : ∃ w : State, w = { c with iss := { gid, pc := o.pc } } := ⟨_, rfl⟩
  obtain ⟨source, die, unit, addr, ht⟩ : ∃ source die unit addr, u.takeResult gid o p =
      (if o.opkg = c.image.pkgnum then w.consume else w.freeze) gid source die unit addr p.bad := by
    rw [hw, hc]
    exact ⟨_, _, _, _, if_pos (by simpa using hb)⟩
  have hz : w.freezesFor (u.takeResult gid o p) gid p.bad := by
    rw [ht]
    split
    · exact State.freezesFor_consume ..
    · exact State.freezesFor_freeze ..
  obtain ⟨hg, hf⟩ := hz
  have hcl : w.closed gid o.seq := by
    rw [hw, hc]
    exact (State.closeRequest_spec u gid o).2
  refine ⟨fun x hx => hcl x (by rwa [hg] at hx), ?_⟩
  rw [← hc]
  rw [hw] at hf
  exact hf

/-- The request that a reply answers is of the reply's class. -/
theorem State.watermarked_of_matchReply {wm : Bool} (h : u.matchReply p wm = some (gid, o)) : o.watermarked = wm := by
  obtain ⟨x, hx, hxo⟩ := Option.map_eq_some_iff.1 h
  cases hxo
  have := List.find?_some hx
  simp only [Bool.and_eq_true, decide_eq_true_eq] at this
  exact this.1.1.2

theorem execResultReply_eq (ht : s.takePacket s.inp.pkt = some u) (hk : s.inp.pkt.kind = 3)
    (hm : u.matchReply s.inp.pkt true = some (gid, o)) : execResultReply s = .next (u.takeResult gid o s.inp.pkt) := by
  unfold execResultReply
  rw [State.onPacket_taken hk ht, hm]

theorem execLoadReply_eq (ht : s.takePacket s.inp.pkt = some u) (hk : s.inp.pkt.kind = 1)
    (hm : u.matchReply s.inp.pkt false = some (gid, o)) : execLoadReply s = .next (u.takeResult gid o s.inp.pkt) := by
  unfold execLoadReply
  rw [State.onPacket_taken hk ht, hm]

/-- A reply that no outstanding request awaits is discarded (R47). -/
theorem execResultReply_unmatched (ht : s.takePacket s.inp.pkt = some u) (hk : s.inp.pkt.kind = 3)
    (hm : u.matchReply s.inp.pkt true = none) : execResultReply s = .next u := by
  unfold execResultReply
  rw [State.onPacket_taken hk ht, hm]

theorem execLoadReply_unmatched (ht : s.takePacket s.inp.pkt = some u) (hk : s.inp.pkt.kind = 1)
    (hm : u.matchReply s.inp.pkt false = none) : execLoadReply s = .next u := by
  unfold execLoadReply
  rw [State.onPacket_taken hk ht, hm]

/-- What a complete reply does to its group: see the statement of R39. -/
def State.lands (u t : State) (gid : Nat) (o : OutReq) (p : Packet) : Prop :=
  t.closed gid o.seq ∧ (t.group gid).fpflags = mergeFlags (u.group gid).fpflags p.flags
    ∧ ∀ x ∈ (u.group gid).late, x.isOf o = true → o.lanes ≠ 0 → ∃ y ∈ (t.group gid).late, x.filled y o.packet.op p.recs o.lanes

theorem State.lands_takeResult (u : State) (gid : Nat) (o : OutReq) (hb : p.bad = 0) : u.lands (u.takeResult gid o p) gid o p := by
  obtain ⟨hc, hf, hl⟩ := State.takeResult_good u gid o hb
  refine ⟨hc, hf, fun x hx hxo hk => ?_⟩
  rw [hl]
  exact Group.fillLate_filled _ hx hxo _ hk

/-- A busy reply puts the request off by 16 µs (R41). -/
theorem execBusyReply_spec (ht : s.takePacket s.inp.pkt = some u) (hk : s.inp.pkt.kind = 5)
    (hm : u.matchReply s.inp.pkt true = some (gid, o)) : ∃ t, execBusyReply s = .next t ∧ t.mem = u.mem
      ∧ (t.group gid).outs = (u.group gid).outs.map fun y => if y.seq = o.seq then { y with busy := true, next := s.now + us 16 } else y := by
  obtain ⟨t, he, hu⟩ : ∃ t, execBusyReply s = .next t ∧ t = u.setGroup gid { u.group gid with
      outs := (u.group gid).outs.map fun y => if y.same o then { y with busy := true, next := u.now + us 16 } else y } := by
    unfold execBusyReply
    rw [State.onPacket_taken hk ht, hm]
    exact ⟨_, rfl, rfl⟩
  refine ⟨t, he, by rw [hu]; rfl, ?_⟩
  rw [hu, State.group_setGroup, State.now_of_takePacket ht]
  simp [OutReq.same]

/-! ### Unknown outcomes (R42) -/

/-- An unknown outcome among the group's: joined to one of its operation, or put in its place. -/
def Unknown.addTo (w : Unknown) (us : List Unknown) : List Unknown :=
  if us.any w.sameOp then us.map fun x => if w.sameOp x then x.join w else x else w.insert us

theorem Unknown.sameOp_iff (a b : Unknown) : a.sameOp b = true ↔ a.op = b.op ∧ a.wm = b.wm := by
  simp [Unknown.sameOp]

theorem and_not_or_right (a b : Lanes) : b &&& ~~~(a ||| b) = 0 := by
  ext i hi
  simp
  intro h _
  exact h

/-- The operation's outcome is then among the group's, with all the lanes that it names; it stands as it is when its operation had none. -/
theorem Unknown.addTo_spec (w : Unknown) (us : List Unknown) : ∃ v ∈ w.addTo us, v.op = w.op ∧ v.wm = w.wm ∧ w.lanes &&& ~~~v.lanes = 0
    ∧ ((∀ x ∈ us, x.op = w.op → x.wm ≠ w.wm) → v = w) := by
  unfold Unknown.addTo
  split
  · next h =>
    obtain ⟨x, hx, hs⟩ := List.any_eq_true.1 h
    obtain ⟨ho, hw⟩ := (Unknown.sameOp_iff w x).1 hs
    exact ⟨x.join w, List.mem_map.2 ⟨x, hx, if_pos hs⟩, ho.symm, hw.symm, and_not_or_right _ _, fun hf => (hf x hx ho.symm hw.symm).elim⟩
  · exact ⟨w, by simp [Unknown.insert], rfl, rfl, by simp, fun _ => rfl⟩

/-- The group has an unknown outcome of the request's operation that names the lanes; the reason, the place and the serial are the request's
when no other of its requests had one. -/
def Group.unknownOf (g h : Group) (o : OutReq) (reason : Nat) (lanes : Lanes) : Prop :=
  ∃ v ∈ h.unknowns, v.op = o.serial ∧ v.wm = o.watermarked ∧ lanes &&& ~~~v.lanes = 0
    ∧ ((∀ w ∈ g.unknowns, w.op = o.serial → w.wm ≠ o.watermarked) →
      v.serial = (if o.watermarked then o.serial else 0) ∧ v.reason = reason ∧ v.pc = o.pc ∧ v.seq = o.order ∧ v.lanes = lanes)

theorem State.unknownOutcome_spec (s : State) {gid : Nat} {o : OutReq} (h : (s.group gid).lateBelow o 0x2000) (reason : Nat) (lanes : Lanes) :
    (s.group gid).unknownOf ((s.unknownOutcome gid o reason lanes).group gid) o reason lanes := by
  obtain ⟨w, l, hw, ht⟩ : ∃ (w : Unknown) (l : List Late), (w.op = o.serial ∧ w.wm = o.watermarked ∧ w.lanes = lanes
        ∧ w.serial = (if o.watermarked then o.serial else 0) ∧ w.reason = reason ∧ w.pc = o.pc ∧ w.seq = o.order)
      ∧ s.unknownOutcome gid o reason lanes =
        s.setGroup gid ({ s.group gid with late := l, unknowns := w.addTo (s.group gid).unknowns } : Group).wakeHidden := by
    have hn : ((((s.group gid).late.filter fun x => x.isOf o).flatMap (·.regs)).any fun p => 0x2000 ≤ p.1) = false := by
      refine List.any_eq_false.2 fun r hr => ?_
      obtain ⟨x, hx, hxr⟩ := List.mem_flatMap.1 hr
      obtain ⟨hx, hxo⟩ := List.mem_filter.1 hx
      simpa using h x hx hxo r hxr
    unfold State.unknownOutcome
    dsimp only
    rw [if_neg (Bool.eq_false_iff.1 hn)]
    exact ⟨_, _, ⟨rfl, rfl, rfl, rfl, rfl, rfl, rfl⟩, rfl⟩
  obtain ⟨hop, hwm, hl, hse, hre, hpc, hsq⟩ := hw
  obtain ⟨v, hv, h1, h2, h3, h4⟩ := w.addTo_spec (s.group gid).unknowns
  rw [ht, State.group_setGroup, Group.wakeHidden_only]
  refine ⟨v, hv, h1.trans hop, h2.trans hwm, hl ▸ h3, fun hf => ?_⟩
  rw [h4 (fun x hx => by rw [hop, hwm]; exact hf x hx)]
  exact ⟨hse, hre, hpc, hsq, hl⟩

/-- Once the request is closed, its outcome is unknown. -/
theorem State.unknownClosed_spec (s : State) {gid : Nat} {o : OutReq} (h : (s.group gid).lateBelow o 0x2000) (reason : Nat) (lanes : Lanes) :
    ((s.unknownOutcome gid o reason lanes).closeRequest gid o).closed gid o.seq
      ∧ (s.group gid).unknownOf (((s.unknownOutcome gid o reason lanes).closeRequest gid o).group gid) o reason lanes := by
  obtain ⟨hs, hc⟩ := State.closeRequest_spec (s.unknownOutcome gid o reason lanes) gid o
  refine ⟨hc, ?_⟩
  have hu : (((s.unknownOutcome gid o reason lanes).closeRequest gid o).group gid).unknowns
      = ((s.unknownOutcome gid o reason lanes).group gid).unknowns := by rw [hs]
  unfold Group.unknownOf
  rw [hu]
  exact s.unknownOutcome_spec h reason lanes

/-- The lanes of a request whose outcome an unknown reply leaves unknown. -/
def unknownLanes (o : OutReq) (p : Packet) : Lanes := if opBroad o.packet.op || p.recs.isEmpty then o.lanes else p.lanes &&& o.lanes

/-- The group with the lanes that an unknown reply answers: their values and flags have come. -/
def Group.answeredFor (g : Group) (o : OutReq) (p : Packet) : Group :=
  if o.lanes &&& ~~~unknownLanes o p = 0 then g else { g.fillLate o p.recs o.lanes with fpflags := mergeFlags g.fpflags p.flags }

theorem Group.answeredFor_spec {g : Group} {n : Nat} (h : g.lateBelow o n) (p : Packet) :
    (g.answeredFor o p).lateBelow o n ∧ (g.answeredFor o p).unknowns = g.unknowns := by
  unfold Group.answeredFor
  split
  · exact ⟨h, rfl⟩
  · exact ⟨Group.lateBelow_fillLate h _ _, rfl⟩

theorem execUnknownReply_eq (ht : s.takePacket s.inp.pkt = some u) (hk : s.inp.pkt.kind = 6)
    (hm : u.matchReply s.inp.pkt true = some (gid, o)) : execUnknownReply s = .next
      (((u.setGroup gid ((u.group gid).answeredFor o s.inp.pkt)).unknownOutcome gid o s.inp.pkt.reason
        (unknownLanes o s.inp.pkt)).closeRequest gid o) := by
  unfold execUnknownReply
  rw [State.onPacket_taken hk ht, hm]
  rfl

theorem execUnknownReply_spec (ht : s.takePacket s.inp.pkt = some u) (hk : s.inp.pkt.kind = 6)
    (hm : u.matchReply s.inp.pkt true = some (gid, o)) (hl : (u.group gid).lateBelow o 0x2000) : ∃ t, execUnknownReply s = .next t
      ∧ t.closed gid o.seq ∧ (u.group gid).unknownOf (t.group gid) o s.inp.pkt.reason (unknownLanes o s.inp.pkt) := by
  obtain ⟨hg, hun⟩ := Group.answeredFor_spec hl s.inp.pkt
  obtain ⟨hc, hv⟩ := State.unknownClosed_spec (u.setGroup gid ((u.group gid).answeredFor o s.inp.pkt)) (gid := gid) (o := o)
    (by rwa [State.group_setGroup]) s.inp.pkt.reason (unknownLanes o s.inp.pkt)
  refine ⟨_, execUnknownReply_eq ht hk hm, hc, ?_⟩
  unfold Group.unknownOf at hv
  rw [State.group_setGroup, hun] at hv
  exact hv

end replies

/-! ### Transmissions (R35, R41, R45) -/

section transmissions
variable {s : State} {o : OutReq}

/-- A packet has left, unless it is for another package and no port is up. -/
def State.sent (s t : State) (p : Packet) : Prop :=
  t.net = if p.dst ≠ s.image.pkgnum ∧ s.fabUp = 0 then s.net else s.net ++ [{ p with sent := s.now }]

theorem State.emitAgain_eq (s : State) (p : Packet) (port : Option Nat) : ∃ l f,
    s.emitAgain p port = ({ s with live := l, fieldNow := f } : State).emit { p with retx := true } := by
  cases port
  · exact ⟨s.live, s.fieldNow, rfl⟩
  · exact ⟨_, _, rfl⟩

theorem State.net_emitAgain (s : State) (p : Packet) (port : Option Nat) : s.sent (s.emitAgain p port) { p with retx := true } := by
  obtain ⟨l, f, h⟩ := s.emitAgain_eq p port
  rw [h]
  exact State.net_emit ..

@[simp] theorem State.group_emitAgain (s : State) (p : Packet) (port : Option Nat) (k : Nat) : (s.emitAgain p port).group k = s.group k := by
  obtain ⟨l, f, h⟩ := s.emitAgain_eq p port
  rw [h, State.group_emit]
  rfl

@[simp] theorem State.releases_emitAgain (s : State) (p : Packet) (port : Option Nat) : (s.emitAgain p port).releases = s.releases := by
  obtain ⟨l, f, h⟩ := s.emitAgain_eq p port
  rw [h, State.emit_releases]

/-- An outstanding request replaced by one of its number stands in its place. -/
theorem State.outs_setOut (s : State) {gid i : Nat} {n : OutReq} (h : (s.group gid).outs[i]? = some o) (hn : o.seq = n.seq) :
    ((s.setOut gid n).group gid).outs[i]? = some n := by
  rw [State.setOut, State.group_setGroup, List.getElem?_map, h]
  simp [OutReq.same, hn]

/-- The packet of a request as it is sent again: RETX set, the ACKPT of now. -/
def OutReq.again (o : OutReq) (g : Group) : Packet := { o.packet with ackpt := g.ackpt, retx := true }

/-- The request's next transmission: its entry is the new one, and its packet has left. -/
theorem State.resend_spec {gid i : Nat} {n : OutReq} (h : (s.group gid).outs[i]? = some o) (hn : o.seq = n.seq) (g : Group) (port : Option Nat) :
    s.sent ((s.setOut gid n).emitAgain (o.again g) port) (o.again g)
      ∧ (((s.setOut gid n).emitAgain (o.again g) port).group gid).outs[i]? = some n :=
  ⟨State.net_emitAgain (s.setOut gid n) (o.again g) port, by rw [State.group_emitAgain]; exact s.outs_setOut h hn⟩

/-- The next transmission by the schedule (R41). -/
theorem execRequestRetransmit_due (h : (s.group s.inp.gid).outs[s.inp.idx]? = some o) (hs : s.sends s.inp.gid = true) (hh : o.held = false)
    (hb : o.busy = false) (hk : o.tries < 8) (hn : o.next ≤ s.now) : ∃ t, execRequestRetransmit s = .next t
      ∧ s.sent t (o.again (s.group s.inp.gid)) ∧ (t.group s.inp.gid).outs[s.inp.idx]? = some { o with
        tries := o.tries + 1, next := o.next + us (retryWait (o.tries + 1)), first := false, packet := o.again (s.group s.inp.gid)
        port := s.portFor (o.again (s.group s.inp.gid)) o.port } := by
  refine ⟨_, ?_, State.resend_spec h ?_ (s.group s.inp.gid) (s.portFor (o.again (s.group s.inp.gid)) o.port)⟩
  · unfold execRequestRetransmit
    dsimp only
    rw [h]
    exact State.when_pos (by simp [hs, hh, hb, hk, hn])
  · rfl

theorem execRequestRetransmit_waits (h : (s.group s.inp.gid).outs[s.inp.idx]? = some o) (hn : s.now < o.next) :
    execRequestRetransmit s = .next s := by
  unfold execRequestRetransmit
  dsimp only
  rw [h]
  exact State.when_neg (by simp [Nat.not_le.2 hn])

/-- A request put off by a busy reply begins a new schedule (R41). -/
theorem execBusyResend_due (h : (s.group s.inp.gid).outs[s.inp.idx]? = some o) (hs : s.sends s.inp.gid = true) (hb : o.busy = true)
    (hn : o.next ≤ s.now) : ∃ t, execBusyResend s = .next t
      ∧ s.sent t (o.again (s.group s.inp.gid)) ∧ (t.group s.inp.gid).outs[s.inp.idx]? = some { o with
        tries := 1, start := s.now, next := s.now + us 16, busy := false, first := false, packet := o.again (s.group s.inp.gid)
        port := s.portFor (o.again (s.group s.inp.gid)) o.port } := by
  refine ⟨_, ?_, State.resend_spec h ?_ (s.group s.inp.gid) (s.portFor (o.again (s.group s.inp.gid)) o.port)⟩
  · unfold execBusyResend
    dsimp only
    rw [h]
    exact State.when_pos (by simp [hs, hb, hn])
  · rfl

/-- A request whose schedule has run out is closed, its outcome unknown for reason 1 (R41, R42). -/
theorem execScheduleExhausted_out (h : (s.group s.inp.gid).outs[s.inp.idx]? = some o) (hs : s.sends s.inp.gid = true) (hh : o.held = false)
    (hb : o.busy = false) (hn : o.start + us 3008 ≤ s.now) (hl : (s.group s.inp.gid).lateBelow o 0x2000) :
    ∃ t, execScheduleExhausted s = .next t ∧ t.closed s.inp.gid o.seq
      ∧ (s.group s.inp.gid).unknownOf (t.group s.inp.gid) o 1 o.lanes := by
  refine ⟨s.exhaust s.inp.gid o, ?_, s.unknownClosed_spec hl 1 o.lanes⟩
  unfold execScheduleExhausted
  dsimp only
  rw [h]
  exact State.when_pos (by simp [State.runOut, hs, hh, hb, hn])

/-- A release notice to an owner whose reply is at most 4 µs old is due. -/
def Group.noticeDue (g : Group) (pkg : BitVec 16) (owner now : Nat) : Bool :=
  g.notices.any fun n => n.1 = pkg && n.2.1 = owner && now ≤ n.2.2 + us 4

theorem execRequesterReleaseNotice_due (hg : (s.group s.inp.gid).live = true)
    (hd : (s.group s.inp.gid).noticeDue s.inp.pkg s.inp.owner s.now = true) : execRequesterReleaseNotice s = .next
      ((s.setGroup s.inp.gid { s.group s.inp.gid with
        notices := (s.group s.inp.gid).notices.filter fun n => !(n.1 = s.inp.pkg && n.2.1 = s.inp.owner) }).emit
          (s.groupNotice s.inp.gid s.inp.pkg s.inp.owner)) := by
  unfold execRequesterReleaseNotice
  exact State.when_pos (by rw [← Group.noticeDue, hg, hd]; rfl)

theorem execRequesterReleaseNotice_none (hd : (s.group s.inp.gid).noticeDue s.inp.pkg s.inp.owner s.now = false) :
    execRequesterReleaseNotice s = .next s := by
  unfold execRequesterReleaseNotice
  exact State.when_neg (by rw [← Group.noticeDue, hd, Bool.and_false])

/-- A notice of a launch's end goes again by the schedule, and then every 1,000 µs (R45). -/
theorem execReleaseNoticeResend_due {r : Release} (h : (s.releases.find? fun r => r.handle = s.inp.handle && r.pkg = s.inp.pkg) = some r)
    (hn : r.next ≤ s.now) : ∃ t p, execReleaseNoticeResend s = .next t ∧ s.sent t p ∧ p.kind = 4 ∧ p.alone = true ∧ p.retx = true
      ∧ p.dst = s.inp.pkg ∧ p.lhandle = s.inp.handle
      ∧ { r with sends := r.sends + 1, next := r.next + us (retryWait (r.sends + 1)), port := s.portFor p r.port } ∈ t.releases := by
  have hr := List.find?_some h
  simp only [Bool.and_eq_true, decide_eq_true_eq] at hr
  obtain ⟨v, hv, he⟩ : ∃ v : State, (∃ l, v = { s with
        releases := s.releases.map fun x => if x.handle = r.handle && x.pkg = r.pkg then
          { x with sends := r.sends + 1, next := r.next + us (retryWait (r.sends + 1)), port := s.portFor (s.endNotice r.handle r.pkg) r.port } else x
        live := l })
      ∧ execReleaseNoticeResend s = .next (v.emitAgain (s.endNotice r.handle r.pkg) (s.portFor (s.endNotice r.handle r.pkg) r.port)) := by
    unfold execReleaseNoticeResend
    dsimp only
    rw [h]
    refine ⟨_, ?_, State.when_pos (by simpa using hn)⟩
    split
    · exact ⟨_, rfl⟩
    · exact ⟨_, rfl⟩
  obtain ⟨l, hv⟩ := hv
  refine ⟨_, { s.endNotice r.handle r.pkg with retx := true }, he, ?_, rfl, rfl, rfl, hr.2, hr.1, ?_⟩
  · rw [hv]
    exact State.net_emitAgain ..
  · rw [State.releases_emitAgain, hv]
    exact List.mem_map.2 ⟨r, List.mem_of_find?_eq_some h, if_pos (by simp)⟩

end transmissions

/-- Settles O47: each clause is the lemma of its event above. -/
theorem requesterPackets : Obligations.RequesterPackets := by
  refine ⟨fun s u gid o wm => ?_, fun s u => ?_, fun s o => ?_⟩
  · intro p g gone word lands lost first ht hm
    have hwm : o.watermarked = wm := State.watermarked_of_matchReply hm
    refine ⟨fun hw hk hb => ?_, fun hw hk hb => ?_, fun hw hk hb => ?_, fun hw hk => ?_, fun hw hk hl => ?_⟩
    all_goals subst hw
    · exact ⟨_, execResultReply_eq ht hk hm, u.lands_takeResult gid o hb⟩
    · exact ⟨_, execLoadReply_eq ht hk hm, u.lands_takeResult gid o hb⟩
    · exact ⟨_, execResultReply_eq ht hk hm, u.takeResult_poisoned gid o hb⟩
    · exact execBusyReply_spec ht hk hm
    · obtain ⟨t, he, hc, v, hv, h1, h2, h3, h4⟩ := execUnknownReply_spec ht hk hm hl
      rw [hwm] at h2 h4
      refine ⟨t, he, hc, v, hv, h1, h2, h3, fun hf => ?_⟩
      exact h4 fun w hw ho => hwm ▸ hf w hw ho
  · intro p ht
    exact ⟨execResultReply_unmatched ht, execLoadReply_unmatched ht⟩
  · intro i g wait sent again due
    refine ⟨fun h => ⟨fun hs hh hb hk hn => execRequestRetransmit_due h hs hh hb hk hn, fun hn => execRequestRetransmit_waits h hn,
      fun hs hb hn => execBusyResend_due h hs hb hn, fun hs hh hb hn hl => ?_⟩,
      fun hg hd => ⟨_, execRequesterReleaseNotice_due hg hd, rfl, rfl, rfl, rfl, rfl, rfl, rfl⟩,
      fun hd => execRequesterReleaseNotice_none hd, fun r h hn => execReleaseNoticeResend_due h hn⟩
    obtain ⟨t, he, hc, v, hv, h1, h2, h3, h4⟩ := execScheduleExhausted_out h hs hh hb hn hl
    refine ⟨t, he, hc, v, hv, h1, h2, h3, fun hf => ?_⟩
    obtain ⟨hse, hre, hpc, hsq, hla⟩ := h4 hf
    exact ⟨hre, hla, hsq, hpc, hse⟩

end Sys2Proof.Machine

/-! PROOF. The steps of copies (spec/02_fabric_and_exactly_once.md R36, R45, spec/03_control_cores_and_launch.md R69,
spec/06_address_spaces.md R137, spec/16_isa_copy_matrix.md R352). -/
namespace Sys2Proof.Machine

/-! ### What a copy's steps leave as it was -/

section copies
variable {s u : State} {gid : Nat} {c d : Copy}

/-- The package but for its cores and teams, which count the pending bytes of scratchpad lines, is as it was. -/
def State.sameButPending (s t : State) : Prop := t = { s with cores := t.cores, teams := t.teams }

theorem State.sameButPending_dropLines (s : State) (xs : List (Nat × Nat)) : s.sameButPending (s.dropLines xs) := by
  refine List.foldlRecOn xs _ (motive := s.sameButPending) rfl fun t ht x _ => ?_
  unfold State.sameButPending State.setPending at *
  dsimp only
  split
  · rw [ht]; rfl
  · rw [ht]; rfl

@[simp] theorem State.dropLines_mem (s : State) (xs : List (Nat × Nat)) : (s.dropLines xs).mem = s.mem := by
  rw [s.sameButPending_dropLines xs]

@[simp] theorem State.dropLines_dies (s : State) (xs : List (Nat × Nat)) : (s.dropLines xs).dies = s.dies := by
  rw [s.sameButPending_dropLines xs]

@[simp] theorem State.group_dropLines (s : State) (xs : List (Nat × Nat)) (k : Nat) : (s.dropLines xs).group k = s.group k := by
  rw [s.sameButPending_dropLines xs]; rfl

/-- The copy found under a number has it. -/
theorem Group.id_of_copy {g : Group} {n : Nat} (h : g.copy n = some c) : c.id = n := by
  simpa using List.find?_some h

/-- A copy replaced by one of its number is found under it. -/
theorem Group.copy_setCopy {g : Group} {n : Nat} (h : g.copy n = some c) (hd : d.id = n) : (g.setCopy d).copy n = some d := by
  subst hd
  unfold Group.copy at *
  rw [Group.setCopy, List.find?_map]
  have hf : ((fun x : Copy => decide (x.id = d.id)) ∘ fun x => if x.id = d.id then d else x) = fun x => decide (x.id = d.id) := by
    funext x
    by_cases hx : x.id = d.id <;> simp [hx]
  rw [hf, h]
  simp [Group.id_of_copy h]

theorem State.copy_setCopy {n : Nat} (h : (s.group gid).copy n = some c) (hd : d.id = n) : ((s.setCopy gid d).group gid).copy n = some d := by
  rw [State.setCopy, State.group_setGroup]
  exact Group.copy_setCopy h hd

@[simp] theorem State.setCopy_mem (s : State) (gid : Nat) (c : Copy) : (s.setCopy gid c).mem = s.mem := rfl
@[simp] theorem State.setCopy_dies (s : State) (gid : Nat) (c : Copy) : (s.setCopy gid c).dies = s.dies := rfl

/-- A failed copy (R116, R352): its state names the address, and memory is as it was. -/
theorem State.failCopy_spec (h : (s.group gid).copy d.id = some c) (a : Dword) : (s.failCopy gid d a).mem = s.mem
    ∧ (s.failCopy gid d a).dies = s.dies
    ∧ ((s.failCopy gid d a).group gid).copy d.id = some { d with state := .failed a, lines := [], unacked := [], got := [] } := by
  unfold State.failCopy
  exact ⟨by simp, by simp, State.copy_setCopy (c := c) (by rwa [State.group_dropLines]) rfl⟩

/-- A chunk complete: the copy is at its next chunk, or done (R137). -/
theorem State.chunkDone_spec (h : (s.group gid).copy d.id = some c) : (s.chunkDone gid d).mem = s.mem
    ∧ ∃ e, ((s.chunkDone gid d).group gid).copy d.id = some e ∧ e.chunk = d.chunk + 1 ∧ e.unacked = [] ∧ e.written = false
      ∧ e.state = if d.size ≤ 4096 * (d.chunk + 1) then .done else .running := by
  unfold State.chunkDone
  exact ⟨by simp, _, State.copy_setCopy (c := c) (by rwa [State.group_dropLines]) rfl, rfl, rfl, rfl, rfl⟩

end copies

/-! ### Chunks of another package's copies (R34, R36) -/

section served
variable {s u : State}

theorem execCopyWriteChunk_served (ht : s.takePacket s.inp.pkt = some u) (hk : s.inp.pkt.kind = 7) (hs : u.copyServed s.inp.pkt = true) :
    ∃ t, execCopyWriteChunk s = .next t
      ∧ t.mem = ((writePieces s.inp.pkt.recs s.inp.pkt.bytes).foldl (fun s x => s.memWrite x.1 x.2) u).mem
      ∧ ∃ q, t.net = (u.emit q).net ∧ q.kind = 9 ∧ q.dst = s.inp.pkt.src ∧ q.copyId = s.inp.pkt.copyId ∧ q.chunk = s.inp.pkt.chunk := by
  obtain ⟨v, hv⟩ : ∃ v, v = (writePieces s.inp.pkt.recs s.inp.pkt.bytes).foldl (fun s x => s.memWrite x.1 x.2) u := ⟨_, rfl⟩
  have hb : u.sameButBytes v := by
    rw [hv]
    exact State.sameButBytes_foldl (fun v _ => v.sameButBytes_memWrite _ _) _ _
  obtain ⟨w, hw⟩ : ∃ w, w = v.clearCovered (writePieces s.inp.pkt.recs s.inp.pkt.bytes) := ⟨_, rfl⟩
  have he : execCopyWriteChunk s =
      .next (w.emit { w.reply s.inp.pkt 9 with copyId := s.inp.pkt.copyId, chunk := s.inp.pkt.chunk, oper := 7 }) := by
    unfold execCopyWriteChunk
    rw [State.onPacket_taken hk ht]
    dsimp only
    rw [if_pos hs, hw, hv]
  refine ⟨_, he, by rw [State.emit_mem, hw, State.clearCovered_mem, hv],
    { w.reply s.inp.pkt 9 with copyId := s.inp.pkt.copyId, chunk := s.inp.pkt.chunk, oper := 7 }, ?_, rfl, rfl, rfl, rfl⟩
  rw [State.net_emit, State.net_emit, hw, State.clearCovered_only, hb]

theorem execCopyWriteChunk_dropped (ht : s.takePacket s.inp.pkt = some u) (hk : s.inp.pkt.kind = 7) (hs : ¬ u.copyServed s.inp.pkt = true) :
    execCopyWriteChunk s = .next u := by
  unfold execCopyWriteChunk
  rw [State.onPacket_taken hk ht]
  exact congrArg _ (if_neg hs)

theorem execCopyReadRequest_served (ht : s.takePacket s.inp.pkt = some u) (hk : s.inp.pkt.kind = 8) (hs : u.copyServed s.inp.pkt = true) :
    ∃ q, execCopyReadRequest s = .next (u.emit q) ∧ q.kind = 9 ∧ q.dst = s.inp.pkt.src ∧ q.copyId = s.inp.pkt.copyId
      ∧ q.chunk = s.inp.pkt.chunk
      ∧ ((∀ r ∈ s.inp.pkt.recs, u.rangeBad r.pa.toNat (recLen r) = false) → q.bad = 0 ∧ q.recs = s.inp.pkt.recs
          ∧ q.bytes = s.inp.pkt.recs.flatMap fun r => u.rdBytes r.pa.toNat (recLen r))
      ∧ ((∃ r ∈ s.inp.pkt.recs, u.rangeBad r.pa.toNat (recLen r) = true) → q.bad ≠ 0 ∧ q.bytes = []) := by
  unfold execCopyReadRequest
  rw [State.onPacket_taken hk ht]
  dsimp only
  rw [if_pos hs]
  cases hf : s.inp.pkt.recs.find? fun r => u.rangeBad r.pa.toNat (recLen r) with
  | none =>
    have hn := List.find?_eq_none.1 hf
    exact ⟨_, rfl, rfl, rfl, rfl, rfl, fun _ => ⟨rfl, rfl, rfl⟩, fun ⟨r, hr, hb⟩ => (hn r hr hb).elim⟩
  | some x =>
    have hx := List.find?_some hf
    have hm := List.mem_of_find?_eq_some hf
    exact ⟨_, rfl, rfl, rfl, rfl, rfl, fun h => by simp [h x hm] at hx, fun _ => ⟨show (1 : Lanes) ≠ 0 by decide, rfl⟩⟩

end served

/-! ### Acknowledgements (R36, R45) -/

section acks
variable {s u : State} {c : Copy} {m : CopyMsg}

theorem execCopyAck_notice (ht : s.takePacket s.inp.pkt = some u) (hk : s.inp.pkt.kind = 9) (ha : s.inp.pkt.alone = true)
    (hr : ∃ r ∈ u.releases, r.handle = s.inp.pkt.lhandle ∧ r.pkg = s.inp.pkt.src) : ∃ t, execCopyAck s = .next t
      ∧ ∀ r, r ∈ t.releases ↔ r ∈ u.releases ∧ ¬ (r.handle = s.inp.pkt.lhandle ∧ r.pkg = s.inp.pkt.src) := by
  have hc : (u.releases.any fun r => r.handle = s.inp.pkt.lhandle && r.pkg = s.inp.pkt.src) = true := by simpa using hr
  unfold execCopyAck
  rw [State.onPacket_taken hk ht]
  rw [if_pos ha, if_pos hc]
  refine ⟨_, rfl, fun r => List.mem_filter.trans (and_congr_right fun _ => ?_)⟩
  simp [imp_iff_not_or]

theorem execCopyAck_eq (ht : s.takePacket s.inp.pkt = some u) (hk : s.inp.pkt.kind = 9) (ha : s.inp.pkt.alone = false) :
    execCopyAck s = .next (u.copyAcked s.inp.pkt) := by
  unfold execCopyAck
  rw [State.onPacket_taken hk ht]
  rw [if_neg (by simp [ha])]

/-- The packet acknowledges a packet of a copy. -/
def CopyMsg.askedBy (p : Packet) (m : CopyMsg) : Bool := m.packet.dst = p.src && m.packet.addr = p.addr && m.packet.kind.toNat = p.oper.toNat

/-- The copy without the packets that an acknowledgement answers. -/
def Copy.answered (c : Copy) (p : Packet) : Copy := { c with unacked := c.unacked.filter fun m => !m.askedBy p }

/-- The state in which a packet of the copy has been acknowledged: a read failed or has brought bytes, or a chunk is written. -/
def State.ackTaken (u : State) (p : Packet) (c : Copy) : State :=
  let gid := keyGroup p.lhandle p.key
  if p.oper = 8 then
    if p.bad != 0 then u.failCopy gid c (u.farByte gid c p.src ((p.recs.head?.map (·.pa.toNat)).getD 0))
    else u.setCopy gid { c with got := c.got ++ ackPieces p.src p.recs p.bytes }
  else if c.written && c.unacked.isEmpty then u.chunkDone gid c
  else u.setCopy gid c

theorem State.ackTaken_failed (u : State) {p : Packet} (c : Copy) (h8 : p.oper = 8) (hb : p.bad ≠ 0) :
    ∃ a, u.ackTaken p c = u.failCopy (keyGroup p.lhandle p.key) c a :=
  ⟨_, by rw [State.ackTaken, if_pos h8, if_pos (by simpa using hb)]⟩

theorem State.copyAcked_found {p : Packet} (hc : (u.group (keyGroup p.lhandle p.key)).copy p.copyId = some c) : u.copyAcked p =
    if c.chunk != p.chunk || !c.unacked.any (CopyMsg.askedBy p) then u else u.ackTaken p (c.answered p) := by
  unfold State.copyAcked
  dsimp only
  rw [hc]
  exact rfl

/-- An acknowledgement that no packet of the chunk asked for changes nothing. -/
theorem State.copyAcked_other {p : Packet} (hc : (u.group (keyGroup p.lhandle p.key)).copy p.copyId = some c) (hm : c.unacked = [m])
    (ha : m.askedBy p = false) : u.copyAcked p = u := by
  rw [State.copyAcked_found hc, if_pos (by simp [hm, ha])]

/-- The answer to the one packet that the chunk waits for. -/
theorem State.copyAcked_mine {p : Packet} (hc : (u.group (keyGroup p.lhandle p.key)).copy p.copyId = some c) (hk : c.chunk = p.chunk)
    (hm : c.unacked = [m]) (ha : m.askedBy p = true) : u.copyAcked p = u.ackTaken p { c with unacked := [] } := by
  have hf : c.answered p = { c with unacked := [] } := by simp [Copy.answered, hm, ha]
  rw [State.copyAcked_found hc, if_neg (by simp [hk, hm, ha]), hf]

theorem CopyMsg.askedBy_iff (p : Packet) (m : CopyMsg) :
    m.askedBy p = true ↔ m.packet.dst = p.src ∧ m.packet.addr = p.addr ∧ m.packet.kind.toNat = p.oper.toNat := by
  simp [CopyMsg.askedBy, and_assoc]

/-- What an acknowledgement of a copy's one waiting packet does: a written chunk is complete, a read's bytes have come, or the read has
failed. -/
theorem execCopyAck_copy (ht : s.takePacket s.inp.pkt = some u) (hk : s.inp.pkt.kind = 9) (ha : s.inp.pkt.alone = false)
    (hc : (u.group (keyGroup s.inp.pkt.lhandle s.inp.pkt.key)).copy s.inp.pkt.copyId = some c) (hn : c.chunk = s.inp.pkt.chunk)
    (hm : c.unacked = [m]) :
    let p := s.inp.pkt
    let gid := keyGroup p.lhandle p.key
    let mine : Prop := m.packet.dst = p.src ∧ m.packet.addr = p.addr ∧ m.packet.kind.toNat = p.oper.toNat
    (¬ mine → execCopyAck s = .next u)
    ∧ (mine → p.oper = 7 → c.written = true → ∃ t d, execCopyAck s = .next t ∧ (t.group gid).copy p.copyId = some d
        ∧ d.chunk = c.chunk + 1 ∧ d.unacked = [] ∧ d.written = false
        ∧ d.state = if c.size ≤ 4096 * (c.chunk + 1) then .done else .running)
    ∧ (mine → p.oper = 8 → p.bad = 0 → ∃ t, execCopyAck s = .next t ∧ (t.group gid).copy p.copyId = some { c with
          unacked := [], got := c.got ++ ackPieces p.src p.recs p.bytes })
    ∧ (mine → p.oper = 8 → p.bad ≠ 0 → ∃ t d a, execCopyAck s = .next t ∧ (t.group gid).copy p.copyId = some d
        ∧ d.state = .failed a) := by
  intro p gid mine
  have hid := Group.id_of_copy hc
  have he : mine → execCopyAck s = .next (u.ackTaken p { c with unacked := [] }) := fun h =>
    (execCopyAck_eq ht hk ha).trans (congrArg _ (State.copyAcked_mine hc hn hm ((CopyMsg.askedBy_iff p m).2 h)))
  have hc' : (u.group gid).copy ({ c with unacked := [] } : Copy).id = some c := by rw [← hc, ← hid]
  refine ⟨fun h => ?_, fun h h7 hw => ?_, fun h h8 hb => ?_, fun h h8 hb => ?_⟩
  · exact (execCopyAck_eq ht hk ha).trans (congrArg _ (State.copyAcked_other hc hm
      (Bool.eq_false_iff.2 fun hx => h ((CopyMsg.askedBy_iff p m).1 hx))))
  · obtain ⟨-, d, hd, h1, h2, h3, h4⟩ := State.chunkDone_spec hc'
    refine ⟨_, d, he h, ?_, h1, h2, h3, h4⟩
    rw [State.ackTaken, if_neg (by rw [h7]; decide), if_pos (by simp [hw])]
    rw [← hid]
    exact hd
  · refine ⟨_, he h, ?_⟩
    rw [State.ackTaken, if_pos h8, if_neg (by simp [hb])]
    exact State.copy_setCopy hc hid
  · obtain ⟨a, hx⟩ := u.ackTaken_failed { c with unacked := [] } h8 hb
    refine ⟨_, { c with state := .failed a, lines := [], unacked := [], got := [] }, a, he h, ?_, rfl⟩
    rw [hx, ← hid]
    exact (State.failCopy_spec hc' a).2.2

end acks

/-! ### A chunk lands (R137, R151, R348) -/

section landing
variable {s : State} {gid : Nat} {c : Copy} {x : ChunkData} {ps : List (Piece × Place)}

/-- The places of a chunk depend on the copy's lane alone. -/
theorem State.dstPlaces_lane (s : State) (gid : Nat) {c d : Copy} (h : c.lane = d.lane) (l : List Piece) : s.dstPlaces gid c l = s.dstPlaces gid d l := by
  induction l with
  | nil => rfl
  | cons p l ih => rw [State.dstPlaces, State.dstPlaces, ih, h]

/-- The first byte of a copy's chunk in the copy's order, and the byte after its last. -/
def Copy.chunkLo (c : Copy) : Nat := 4096 * c.chunk
def Copy.chunkHi (c : Copy) : Nat := min (c.chunkLo + 4096) c.size

/-- No older copy still has to write a byte of the chunk's destination (R151, R152). -/
def State.chunkFirst (s : State) (gid : Nat) (c : Copy) (ps : List (Piece × Place)) : Prop :=
  (∀ y ∈ ps, ∀ w ∈ s.olderWrites gid c, Span.meets (y.2, y.1.n) w = false)
    ∧ ∀ x ∈ s.copyLines gid c c.chunkLo c.chunkHi, s.olderPending c x = false

theorem State.copyChunk_busy (h : s.obBusy gid c = true) : s.copyChunk gid c = s := by
  unfold State.copyChunk
  exact if_pos h

theorem State.copyChunk_failed {a : Dword} (hb : s.obBusy gid c = false) (hd : s.chunkData gid c (s.olderWrites gid c) = .error (.failed a)) :
    s.copyChunk gid c = s.failCopy gid c a := by
  unfold State.copyChunk
  dsimp only
  rw [if_neg (by simp [hb]), hd]

/-- The copy once its chunk's bytes are there: the address of its next stream block, and what its last block has left. -/
def Copy.fetched (c : Copy) (x : ChunkData) : Copy := { c with spos := x.spos, rest := x.rest }

theorem State.dstPlaces_fetched (s : State) (gid : Nat) (c : Copy) (x : ChunkData) (l : List Piece) :
    s.dstPlaces gid { c with spos := x.spos } l = s.dstPlaces gid (c.fetched x) l :=
  s.dstPlaces_lane gid (c := { c with spos := x.spos }) (d := c.fetched x) rfl l

/-- A chunk whose bytes are there and whose destination has places: it lands, or waits for older copies. -/
theorem State.copyChunk_whole (hb : s.obBusy gid c = false) (hd : s.chunkData gid c (s.olderWrites gid c) = .ok x) (hm : x.missing = [])
    (ho : c.ob = false) (hp : s.dstPlaces gid (c.fetched x) (c.dstPieces c.chunkLo c.chunkHi) = .ok ps) : s.copyChunk gid c =
      if (ps.any fun p => (s.olderWrites gid c).any (Span.meets (p.2, p.1.n)))
        || (s.copyLines gid (c.fetched x) c.chunkLo c.chunkHi).any (s.olderPending (c.fetched x)) then s
      else s.landBytes gid (c.fetched x) x.bytes ps := by
  have hp' : s.dstPlaces gid (c.fetched x) ((c.fetched x).dstPieces (4096 * c.chunk) (min (4096 * c.chunk + 4096) c.size)) = .ok ps := hp
  unfold State.copyChunk
  dsimp only
  rw [if_neg (by simp [hb]), hd]
  dsimp only
  rw [if_neg (by simp [hm]), if_neg (by simp [ho]), ← Copy.fetched, hp']
  rfl

theorem State.chunkFirst_iff : s.chunkFirst gid c ps ↔ ((ps.any fun p => (s.olderWrites gid c).any (Span.meets (p.2, p.1.n)))
    || (s.copyLines gid (c.fetched x) c.chunkLo c.chunkHi).any (s.olderPending (c.fetched x))) = false := by
  have hl : s.copyLines gid (c.fetched x) c.chunkLo c.chunkHi = s.copyLines gid c c.chunkLo c.chunkHi := rfl
  have hq : s.olderPending (c.fetched x) = s.olderPending c := rfl
  rw [hl, hq]
  simp [State.chunkFirst]

theorem State.copyChunk_waits (hb : s.obBusy gid c = false) (hd : s.chunkData gid c (s.olderWrites gid c) = .ok x) (hm : x.missing = [])
    (ho : c.ob = false) (hp : s.dstPlaces gid { c with spos := x.spos } (c.dstPieces c.chunkLo c.chunkHi) = .ok ps)
    (hf : ¬ s.chunkFirst gid c ps) : s.copyChunk gid c = s := by
  rw [State.copyChunk_whole hb hd hm ho ((s.dstPlaces_fetched gid c x _).symm.trans hp)]
  exact if_pos (by rwa [State.chunkFirst_iff (x := x), Bool.not_eq_false] at hf)

theorem State.copyChunk_lands (hb : s.obBusy gid c = false) (hd : s.chunkData gid c (s.olderWrites gid c) = .ok x) (hm : x.missing = [])
    (ho : c.ob = false) (hp : s.dstPlaces gid { c with spos := x.spos } (c.dstPieces c.chunkLo c.chunkHi) = .ok ps)
    (hf : s.chunkFirst gid c ps) : s.copyChunk gid c = s.landBytes gid (c.fetched x) x.bytes ps := by
  rw [State.copyChunk_whole hb hd hm ho ((s.dstPlaces_fetched gid c x _).symm.trans hp)]
  exact if_neg (Bool.eq_false_iff.1 ((State.chunkFirst_iff (x := x)).1 hf))

/-- Bytes of memory are written piece by piece, and then the chunk is complete (R137). -/
theorem State.landBytes_memory (s : State) (gid : Nat) (d : Copy) (bs : List Byte) (hk : ∀ y ∈ ps, y.2.kind ≤ 1) : ∃ qs, s.landBytes gid d bs ps =
    ((ps.foldl (fun v y => v.memWrite y.2.pa (cutBytes bs d.chunkLo y.1)) s).clearCovered qs).chunkDone gid d := by
  have hnear : ps.filter (fun y => y.2.kind != 2) = ps := List.filter_eq_self.2 fun y hy => by
    have := hk y hy
    simp
    omega
  have hfar : ps.filter (fun y => decide (y.2.kind = 2)) = [] := List.filter_eq_nil_iff.2 fun y hy => by
    have := hk y hy
    simp
    omega
  have hw : ps.foldl (fun v y => if y.2.kind = 3 then v.padWrite y.2.core y.2.pa (cutBytes bs (4096 * d.chunk) y.1)
      else v.memWrite y.2.pa (cutBytes bs (4096 * d.chunk) y.1)) s
        = ps.foldl (fun v y => v.memWrite y.2.pa (cutBytes bs d.chunkLo y.1)) s :=
    List.foldl_ext _ _ s fun v y hy => if_neg (by have := hk y hy; omega)
  unfold State.landBytes
  dsimp only
  rw [hnear, hfar, hw]
  exact ⟨_, if_pos rfl⟩

/-- A chunk of memory lands: its bytes are written, and the copy is at its next chunk, or done. -/
theorem State.landBytes_spec {n : Nat} (hc : (s.group gid).copy n = some c) (hk : ∀ y ∈ ps, y.2.kind ≤ 1) :
    (s.landBytes gid (c.fetched x) x.bytes ps).mem = (ps.foldl (fun v y => v.memWrite y.2.pa (cutBytes x.bytes c.chunkLo y.1)) s).mem
      ∧ ∃ e, ((s.landBytes gid (c.fetched x) x.bytes ps).group gid).copy n = some e ∧ e.chunk = c.chunk + 1
        ∧ e.state = if c.size ≤ 4096 * (c.chunk + 1) then .done else .running := by
  obtain ⟨qs, hl⟩ := s.landBytes_memory gid (c.fetched x) x.bytes hk
  obtain ⟨v, hv⟩ : ∃ v, v = ps.foldl (fun v y => v.memWrite y.2.pa (cutBytes x.bytes c.chunkLo y.1)) s := ⟨_, rfl⟩
  have hg : (v.clearCovered qs).group gid = s.group gid := by
    have hb : s.sameButBytes v := hv ▸ State.sameButBytes_foldl (fun v y => v.sameButBytes_memWrite _ _) _ _
    rw [State.clearCovered_only, hb]
    rfl
  have hid := Group.id_of_copy hc
  obtain ⟨hm, e, he, hn, -, -, hst⟩ := State.chunkDone_spec (s := v.clearCovered qs) (gid := gid) (c := c) (d := c.fetched x)
    (by rw [hg, ← hc, ← hid]; rfl)
  have hl' : s.landBytes gid (c.fetched x) x.bytes ps = (v.clearCovered qs).chunkDone gid (c.fetched x) := hl.trans (by rw [hv]; rfl)
  rw [hl', ← hv]
  exact ⟨hm.trans (State.clearCovered_mem ..), e, hid ▸ he, hn, hst⟩

theorem execCopyChunkLand_eq (hc : (s.group s.inp.gid).copy s.inp.copyId = some c) (hm : c.moves = true) (hr : s.copiesRun s.inp.gid = true) :
    execCopyChunkLand s = .next ((s.copyChunk s.inp.gid c).tidy s.inp.gid) := by
  unfold execCopyChunkLand
  dsimp only
  rw [hc]
  exact State.when_pos (by simp [hm, hr])

end landing

/-! ### Retirement, retransmission, verdicts (R116, R36, R41, R69) -/

section verdicts
variable {s : State} {c : Copy}

theorem execCopyComplete_done {rest : List Copy} (h : (s.group s.inp.gid).copies = c :: rest) (hs : c.state = .done) :
    execCopyComplete s = .next ((s.setGroup s.inp.gid { s.group s.inp.gid with copies := rest }).tidy s.inp.gid) := by
  unfold execCopyComplete
  dsimp only
  rw [h]
  dsimp only
  rw [hs]

theorem execCopyComplete_failed {rest : List Copy} {a : Dword} (h : (s.group s.inp.gid).copies = c :: rest) (hs : c.state = .failed a) :
    execCopyComplete s = .next ((s.setGroup s.inp.gid { s.group s.inp.gid with
      copies := rest, copyFails := (s.group s.inp.gid).copyFails ++ [c.failure a] }).tidy s.inp.gid) := by
  unfold execCopyComplete
  dsimp only
  rw [h]
  dsimp only
  rw [hs]

/-- A packet of a chunk sent again: its transmissions, the end of the next wait and its port. -/
def CopyMsg.again (m : CopyMsg) (s : State) : CopyMsg :=
  { m with tries := m.tries + 1, next := m.next + us (retryWait (m.tries + 1)), port := s.portFor m.packet m.port }

theorem execCopyChunkRetransmit_eq {m : CopyMsg} (hc : (s.group s.inp.gid).copy s.inp.copyId = some c) (hm : c.unacked[s.inp.idx]? = some m)
    (hn : m.next ≤ s.now) (hr : s.chunkRuns s.inp.gid c = true) : execCopyChunkRetransmit s = .next (
      if 8 ≤ m.tries then s.failCopy s.inp.gid c (c.dstAt (4096 * c.chunk))
      else (s.setCopy s.inp.gid { c with unacked := c.unacked.set s.inp.idx (m.again s) }).emitAgain m.packet (s.portFor m.packet m.port)) := by
  unfold execCopyChunkRetransmit
  dsimp only
  rw [hc]
  dsimp only
  rw [hm]
  exact State.when_pos (by simp [hn, hr])

theorem execCopyChunkRetransmit_again {m : CopyMsg} (hc : (s.group s.inp.gid).copy s.inp.copyId = some c)
    (hm : c.unacked[s.inp.idx]? = some m) (hn : m.next ≤ s.now) (hr : s.chunkRuns s.inp.gid c = true) (hk : m.tries < 8) :
    ∃ t d, execCopyChunkRetransmit s = .next t ∧ (t.group s.inp.gid).copy s.inp.copyId = some d ∧ d.unacked[s.inp.idx]? = some (m.again s)
      ∧ t.net = (s.emit { m.packet with retx := true }).net := by
  have hid : c.id = s.inp.copyId := Group.id_of_copy hc
  refine ⟨_, { c with unacked := c.unacked.set s.inp.idx (m.again s) }, execCopyChunkRetransmit_eq hc hm hn hr, ?_, ?_, ?_⟩
  · rw [if_neg (by omega), State.group_emitAgain]
    exact State.copy_setCopy hc hid
  · obtain ⟨hi, -⟩ := List.getElem?_eq_some_iff.1 hm
    exact List.getElem?_set_self hi
  · rw [if_neg (by omega), State.net_emit]
    exact State.net_emitAgain ..

/-- A chunk whose schedule has run out fails its copy, at the chunk's first destination byte (assumption 54). -/
theorem execCopyChunkRetransmit_fails {m : CopyMsg} (hc : (s.group s.inp.gid).copy s.inp.copyId = some c)
    (hm : c.unacked[s.inp.idx]? = some m) (hn : m.next ≤ s.now) (hr : s.chunkRuns s.inp.gid c = true) (hk : 8 ≤ m.tries) :
    ∃ t d, execCopyChunkRetransmit s = .next t ∧ (t.group s.inp.gid).copy s.inp.copyId = some d
      ∧ d.state = .failed (c.dstAt (4096 * c.chunk)) := by
  refine ⟨_, { c with state := .failed (c.dstAt (4096 * c.chunk)), lines := [], unacked := [], got := [] },
    execCopyChunkRetransmit_eq hc hm hn hr, ?_, rfl⟩
  rw [if_pos hk, ← Group.id_of_copy hc]
  exact (State.failCopy_spec (by rwa [Group.id_of_copy hc]) _).2.2

/-- The copy that waits under a FAULTID is its group's. -/
theorem State.copy_of_faulted {d k : Nat} {id : Word} (h : s.faulted d id = some (k, c)) : (s.group k).copy c.id = some c := by
  unfold State.faulted at h
  split at h
  · cases h
  · obtain ⟨e, he, hp⟩ := Option.map_eq_some_iff.1 h
    cases hp
    rwa [Group.id_of_copy he]

/-- No copy waits under a FAULTID of a die. -/
def State.faultAnswered (s : State) (d : Nat) (id : Word) : Prop := ∀ f ∈ (s.die d).copyFaults, f.1 ≠ id

theorem State.faultAnswered_answerFault (s : State) (d : Nat) (id : Word) : (s.answerFault d id).faultAnswered d id := by
  intro f hf
  rw [State.answerFault, State.die_setDie] at hf
  simpa using (List.mem_filter.1 hf).2

theorem State.faultAnswered_of_dies {t : State} {d : Nat} {id : Word} (h : t.dies = s.dies) (hs : s.faultAnswered d id) :
    t.faultAnswered d id := by
  unfold State.faultAnswered
  rwa [State.die, h]

/-- A verdict of RETRY: the copy runs again at its chunk (R69). -/
theorem execCopyFaultRetry_spec {k : Nat} (h : s.faulted s.inp.die s.inp.faultId = some (k, c)) : ∃ t d, execCopyFaultRetry s = .next t
    ∧ t.faultAnswered s.inp.die s.inp.faultId ∧ (t.group k).copy c.id = some d ∧ d.state = .running ∧ d.chunk = c.chunk ∧ t.mem = s.mem := by
  have hc : (s.group k).copy c.id = some c := State.copy_of_faulted h
  obtain ⟨v, hv⟩ : ∃ v, v = (s.answerFault s.inp.die s.inp.faultId).setCopy k { c with state := .running } := ⟨_, rfl⟩
  have ha : v.faultAnswered s.inp.die s.inp.faultId := by
    rw [hv]
    exact State.faultAnswered_of_dies (State.setCopy_dies ..) (s.faultAnswered_answerFault _ _)
  have hg : (v.group k).copy c.id = some { c with state := .running } := by
    rw [hv]
    exact State.copy_setCopy (c := c) hc rfl
  have hm : v.mem = s.mem := by rw [hv]; rfl
  unfold execCopyFaultRetry
  dsimp only
  rw [h]
  dsimp only
  rw [← hv]
  split
  · exact ⟨_, _, rfl, ha, hg, rfl, rfl, hm⟩
  · exact ⟨_, _, rfl, ha, hg, rfl, rfl, hm⟩

/-- A verdict of FAIL: the copy ends with COPY_FAILED at its first incomplete chunk (R69). -/
theorem execCopyFaultFail_spec {k : Nat} (h : s.faulted s.inp.die s.inp.faultId = some (k, c)) : ∃ t d, execCopyFaultFail s = .next t
    ∧ t.faultAnswered s.inp.die s.inp.faultId ∧ (t.group k).copy c.id = some d ∧ d.state = .failed (c.dstAt (4096 * c.chunk)) := by
  have hc : (s.group k).copy c.id = some c := State.copy_of_faulted h
  obtain ⟨-, hd, hg⟩ := State.failCopy_spec (s := s.answerFault s.inp.die s.inp.faultId) (gid := k) (c := c) (d := c) hc
    (c.dstAt (4096 * c.chunk))
  unfold execCopyFaultFail
  dsimp only
  rw [h]
  exact ⟨_, _, rfl, State.faultAnswered_of_dies hd (s.faultAnswered_answerFault _ _), hg, rfl⟩

end verdicts

/-- Settles O48: each clause is the lemma of its event above. -/
theorem copySteps : Obligations.CopySteps := by
  refine ⟨fun s u => ?_, fun s => ?_⟩
  · intro p served ht
    exact ⟨execCopyWriteChunk_served ht, execCopyWriteChunk_dropped ht, execCopyReadRequest_served ht, execCopyAck_notice ht,
      fun hk ha c m => execCopyAck_copy ht hk ha⟩
  · intro i gid g
    refine ⟨fun c hc hm hr => ?_, fun c rest h => ⟨execCopyComplete_done h, fun a => execCopyComplete_failed h⟩,
      fun c m hc hm hn hr => ⟨execCopyChunkRetransmit_again hc hm hn hr, execCopyChunkRetransmit_fails hc hm hn hr⟩,
      fun k c h => ⟨execCopyFaultRetry_spec h, execCopyFaultFail_spec h⟩⟩
    refine ⟨execCopyChunkLand_eq hc hm hr, State.copyChunk_busy, fun hb x ps hd hx ho hp hf => State.copyChunk_waits hb hd hx ho hp hf,
      fun hb x ps hd hx ho hp hk hf => ?_, fun hb a hd => ?_⟩
    · rw [State.copyChunk_lands hb hd hx ho hp hf]
      exact State.landBytes_spec hc hk
    · obtain ⟨h1, -, h2⟩ := State.failCopy_spec (s := s) (gid := gid) (c := c) (d := c) (by rwa [Group.id_of_copy hc]) a
      rw [State.copyChunk_failed hb hd]
      exact ⟨h1, _, Group.id_of_copy hc ▸ h2, rfl⟩

end Sys2Proof.Machine

/-! SUPPORT. The end of a launch and the release of places: what the end of a launch changes, and what the release of engines, contexts,
units and areas leaves as it was. -/
namespace Sys2Proof.Machine

/-! ### The end of a launch (R63, R64) -/

section ends
variable (s : State) (h : Word) (cause team : Nat)

theorem State.cluster_setCluster_ne (k j : Nat) (x : Cluster) (hn : j ≠ k) : (s.setCluster k x).cluster j = s.cluster j := by
  simp [State.cluster, State.setCluster, tabGet_tabSet, hn]

@[simp] theorem State.launch_log (d : Nat) (r : LogRec) (k : Word) : (s.log d r).launch k = s.launch k := by
  obtain ⟨m, x, hm, -⟩ := s.log_eq d r
  rw [hm]; rfl

@[simp] theorem State.harts_endLaunch : (s.endLaunch h cause team).harts = s.harts := by
  unfold State.endLaunch
  dsimp only
  split
  · rfl
  · rfl
  · split <;> rfl
  · rfl

/-- The end of a launch that is queued or runs. -/
theorem State.endLaunch_open (ho : (s.launch h).state = .queued ∨ (s.launch h).state = .running) :
    (s.endLaunch h cause team).launch h = { s.launch h with state := .ending, cause, team }
      ∧ h ∉ tabGet [] (s.endLaunch h cause team).queues (s.launch h).queue := by
  have he : s.endLaunch h cause team =
      { (s.discardParked h).setLaunch h { s.launch h with state := .ending, cause, team } with
        groups := stopGroups h (s.discardParked h).groups
        queues := tabSet [] s.queues (s.launch h).queue ((tabGet [] s.queues (s.launch h).queue).filter (· != h)) } := by
    unfold State.endLaunch
    dsimp only
    rcases ho with ho | ho <;> rw [ho] <;> rfl
  rw [he]
  refine ⟨(s.discardParked h).launch_setLaunch h _, ?_⟩
  rw [tabGet_tabSet_same]
  simp

end ends

/-! ### What the release of places leaves as it was (R79, R80, R86, R357, R362) -/

/-- The package but for its teams, cores, quads, slots and dies is as it was. -/
def State.sameButUnits (s t : State) : Prop :=
  t = { s with teams := t.teams, cores := t.cores, quads := t.quads, slots := t.slots, dies := t.dies }

section units
variable (s : State)

theorem State.sameButUnits_trans {s t u : State} (h : s.sameButUnits t) (k : t.sameButUnits u) : s.sameButUnits u := by
  unfold State.sameButUnits at *
  rw [k, h]

theorem State.sameButUnits_foldl {α : Type} {f : State → α → State} (hf : ∀ (s : State) a, s.sameButUnits (f s a)) (l : List α) (s : State) :
    s.sameButUnits (l.foldl f s) :=
  List.foldlRecOn l f (motive := s.sameButUnits) rfl fun _ ht a _ => State.sameButUnits_trans ht (hf _ a)

theorem State.sameButUnits_setDie (d : Nat) (x : Die) : s.sameButUnits (s.setDie d x) := rfl

theorem State.sameButUnits_closePass (gid : Nat) : s.sameButUnits (s.closePass gid) := by
  unfold State.closePass
  dsimp only
  split
  · split <;> rfl
  · rfl

theorem State.sameButUnits_releaseA (gid : Nat) : s.sameButUnits (s.releaseA gid) := by
  unfold State.releaseA
  dsimp only
  split
  · split <;> rfl
  · rfl

theorem State.sameButUnits_dropEngine (gid : Nat) : s.sameButUnits (s.dropEngine gid) :=
  State.sameButUnits_trans (t := s.setQuad (s.quadOf gid) _) rfl (State.sameButUnits_closePass _ gid)

theorem State.sameButUnits_dropPasses (gid : Nat) : s.sameButUnits (s.dropPasses gid) :=
  State.sameButUnits_trans (s.sameButUnits_closePass gid) rfl

theorem State.sameButUnits_dropMonitors (gid : Nat) : s.sameButUnits (s.dropMonitors gid) := rfl

theorem State.sameButUnits_freeUnits (core : Nat) (us : List Nat) : s.sameButUnits (s.freeUnits core us) := rfl

theorem State.sameButUnits_freeResv (q : Nat) (r : Resv) : s.sameButUnits (s.freeResv q r) :=
  State.sameButUnits_trans (t := s.setQuad q _) rfl (State.sameButUnits_foldl (fun s d => s.sameButUnits_setDie d _) _ _)

theorem State.sameButUnits_freeAreas (tk : Nat) : s.sameButUnits (s.freeAreas tk) :=
  State.sameButUnits_foldl (fun s d => s.sameButUnits_setDie d _) _ s

theorem State.sameButUnits_dropLines (xs : List (Nat × Nat)) : s.sameButUnits (s.dropLines xs) := by
  unfold State.sameButUnits
  rw [s.sameButPending_dropLines xs]

theorem State.sameButUnits_dropTeam (tk : Nat) : s.sameButUnits (s.dropTeam tk) :=
  State.sameButUnits_trans (s.sameButUnits_freeUnits _ _)
    (State.sameButUnits_trans (State.sameButUnits_foldl (fun s r => s.sameButUnits_freeResv _ r) _ _) (State.sameButUnits_freeAreas _ tk))

theorem State.sameButUnits_restartTeam (tk : Nat) : s.sameButUnits (s.restartTeam tk) :=
  State.sameButUnits_trans (State.sameButUnits_foldl (fun s r => s.sameButUnits_freeResv _ r) _ s)
    (State.sameButUnits_trans (State.sameButUnits_foldl (fun s d => s.sameButUnits_setDie d _) _ _)
      (State.sameButUnits_trans (t := State.setCore _ _ _) rfl rfl))

end units

/-- The package but for its groups, and what they and their teams held, is as it was. -/
def State.sameButGroups (s t : State) : Prop :=
  t = { s with groups := t.groups, teams := t.teams, cores := t.cores, quads := t.quads, slots := t.slots, dies := t.dies }

theorem State.sameButGroups_of_units {s t : State} (h : s.sameButUnits t) : s.sameButGroups t := by
  unfold State.sameButUnits State.sameButGroups at *
  rw [h]

theorem State.sameButGroups_trans {s t u : State} (h : s.sameButGroups t) (k : t.sameButGroups u) : s.sameButGroups u := by
  unfold State.sameButGroups at *
  rw [k, h]

theorem State.sameButGroups_foldl {α : Type} {f : State → α → State} (hf : ∀ (s : State) a, s.sameButGroups (f s a)) (l : List α)
    (s : State) : s.sameButGroups (l.foldl f s) :=
  List.foldlRecOn l f (motive := s.sameButGroups) rfl fun _ ht a _ => State.sameButGroups_trans ht (hf _ a)

theorem State.group_of_sameButUnits {s t : State} (h : s.sameButUnits t) (k : Nat) : t.group k = s.group k := by
  unfold State.sameButUnits at h
  rw [State.group, h, State.group]

theorem State.launchOf_of_sameButGroups {s t : State} (h : s.sameButGroups t) (k : Nat) : t.launchOf k = s.launchOf k := by
  unfold State.sameButGroups at h
  rw [State.launchOf, State.launch, h, State.launchOf, State.launch]

theorem State.cluster_of_sameButGroups {s t : State} (h : s.sameButGroups t) (k : Nat) : t.cluster k = s.cluster k := by
  unfold State.sameButGroups at h
  rw [State.cluster, h, State.cluster]

/-- A group that gives back its bands is live no more; the other groups stay as they are (R79, R80). -/
theorem State.freeBands_spec (s : State) (gid : Nat) : s.sameButGroups (s.freeBands gid)
    ∧ (∀ k, k ≠ gid → (s.freeBands gid).group k = s.group k)
    ∧ (s.freeBands gid).group gid = { s.group gid with live := false, nbands := 0, regs := [] } :=
  ⟨rfl, fun k hk => State.group_setGroup_ne (s.setSlot (s.group gid).slot _) gid k _ hk,
    State.group_setGroup (s.setSlot (s.group gid).slot _) gid _⟩

end Sys2Proof.Machine

/-! PROOF. The Xkelren words, and the acceptance of launches (spec/03_control_cores_and_launch.md R56 to R60, R63 to R65). -/
namespace Sys2Proof.Machine

/-! ### A word by privilege (R58) -/

section words
variable {s : State} {fn : Nat} {rd rs1 rs2 : BitVec 5} {run : State → Hart → State × Dword}

theorem klnLaunch_eq (s : State) (rd rs1 rs2 : BitVec 5) : exec (.klnLaunch rd rs1 rs2) s = s.kln 0 rd rs1 rs2 fun s h =>
    if (h.reg rs2).toNat / 2 ^ 16 != 0 then (s, 2)
    else
      ((s.accept (s.iss.hart / Config.harts) ((h.reg rs2).setWidth 16) (h.reg rs1)).1,
        (s.accept (s.iss.hart / Config.harts) ((h.reg rs2).setWidth 16) (h.reg rs1)).2.setWidth 64) := rfl

theorem klnCancel_eq (s : State) (rd rs1 rs2 : BitVec 5) : exec (.klnCancel rd rs1 rs2) s = s.kln 1 rd rs1 rs2 fun s h =>
    if rs2 != 0 then (s, 2) else s.cancel ((h.reg rs1).setWidth 32) := rfl

theorem klnPreempt_eq (s : State) (rd rs1 rs2 : BitVec 5) : exec (.klnPreempt rd rs1 rs2) s = s.kln 2 rd rs1 rs2 fun s h =>
    s.preempt ((h.reg rs1).setWidth 32) ((h.reg rs2).toNat % 2 ^ 24) := rfl

theorem klnStatus_eq (s : State) (rd rs1 rs2 : BitVec 5) : exec (.klnStatus rd rs1 rs2) s = s.kln 3 rd rs1 rs2 fun s h =>
    if rs2 != 0 then (s, 2) else (s, s.status ((h.reg rs1).setWidth 32)) := rfl

/-- A word that a control core may not run: the hart takes an exception, and nothing of a launch or of memory changes. -/
def State.KlnTraps (s : State) (o : Out) (c : Nat) (word : Dword) : Prop :=
  ∃ t, o = .next t ∧ t.hart s.iss.hart = (s.hart s.iss.hart).takeException c word ∧ t.launches = s.launches ∧ t.mem = s.mem

/-- A word that a control core runs: `rd` takes the answer, and the hart goes on. -/
def State.KlnAnswers (s : State) (o : Out) (rd : BitVec 5) (answer : Dword) (more : State → Prop) : Prop :=
  ∃ t, o = .next t ∧ (t.hart s.iss.hart).pc = (s.hart s.iss.hart).pc + 4 ∧ (t.hart s.iss.hart).mode = (s.hart s.iss.hart).mode
    ∧ (∀ r, (t.hart s.iss.hart).reg r = if r = 0 then 0 else if r = rd then answer else (s.hart s.iss.hart).reg r)
    ∧ (∀ k, k ≠ s.iss.hart → t.hart k = s.hart k) ∧ more t

theorem State.kln_trap (c : Nat) (word : Dword) :
    s.KlnTraps (.next (s.setHart s.iss.hart ((s.hart s.iss.hart).takeException c word)).markIssued) c word :=
  ⟨_, rfl, s.hart_setHart _ _, rfl, rfl⟩

theorem State.kln_illegal (hm : (s.hart s.iss.hart).mode = .u ∨ (s.hart s.iss.hart).mode = .vu) :
    s.KlnTraps (s.kln fn rd rs1 rs2 run) 2 (klnWord fn rd rs1 rs2) := by
  unfold State.kln
  dsimp only
  rcases hm with hm | hm <;> rw [hm] <;> exact State.kln_trap ..

theorem State.kln_virtual (hm : (s.hart s.iss.hart).mode = .vs) : s.KlnTraps (s.kln fn rd rs1 rs2 run) 22 (klnWord fn rd rs1 rs2) := by
  unfold State.kln
  dsimp only
  rw [hm]
  exact State.kln_trap ..

@[simp] theorem Hart.mode_setReg (h : Hart) (r : BitVec 5) (x : Dword) : (h.setReg r x).mode = h.mode := by unfold Hart.setReg; split <;> rfl

/-- A register read after a write of one; `x0` stays zero. -/
theorem Hart.reg_setReg (h : Hart) (r q : BitVec 5) (x : Dword) :
    (h.setReg r x).reg q = if q = 0 then 0 else if q = r then x else h.reg q := by
  unfold Hart.reg
  by_cases hq : q = 0
  · rw [if_pos hq, if_pos hq]
  · rw [if_neg hq, if_neg hq, if_neg hq]
    unfold Hart.setReg
    by_cases hr : r = 0
    · rw [if_pos hr, if_neg (hr ▸ hq)]
    · rw [if_neg hr, tabGet_tabSet]
      simp only [BitVec.toNat_inj]

theorem State.kln_answers (hm : (s.hart s.iss.hart).mode = .m ∨ (s.hart s.iss.hart).mode = .s)
    (hr : (run s (s.hart s.iss.hart)).1.harts = s.harts) {answer : Dword} (ha : (run s (s.hart s.iss.hart)).2 = answer) :
    s.KlnAnswers (s.kln fn rd rs1 rs2 run) rd answer
      fun t => (run s (s.hart s.iss.hart)).1 = s → t = (s.setHart s.iss.hart (t.hart s.iss.hart)).markIssued := by
  obtain ⟨u, hu⟩ : ∃ u, u = (run s (s.hart s.iss.hart)).1 := ⟨_, rfl⟩
  obtain ⟨x, hx⟩ : ∃ x, x = { (u.hart s.iss.hart).setReg rd answer with pc := (s.hart s.iss.hart).pc + 4 } := ⟨_, rfl⟩
  have hk : s.kln fn rd rs1 rs2 run = .next (u.setHart s.iss.hart x).markIssued := by
    rw [hx, hu, ← ha]
    unfold State.kln
    dsimp only
    rcases hm with hm | hm <;> rw [hm]
  have hh : ∀ k, u.hart k = s.hart k := fun k => by rw [State.hart, hu, hr, State.hart]
  have hn : (u.setHart s.iss.hart x).markIssued.hart s.iss.hart = x := u.hart_setHart _ _
  refine ⟨_, hk, ?_, ?_, fun r => ?_, fun k hne => (u.hart_setHart_ne _ _ x hne).trans (hh k), fun he => ?_⟩
  · rw [hn, hx]
  · rw [hn, hx, hh]
    exact Hart.mode_setReg ..
  · rw [hn, hx, hh]
    exact Hart.reg_setReg ..
  · rw [hn, hu, he]

/-- A word by the privilege of its hart. -/
theorem State.kln_spec {o : Out} {answer : Dword} (ho : o = s.kln fn rd rs1 rs2 run) (hr : (run s (s.hart s.iss.hart)).1.harts = s.harts)
    (ha : (run s (s.hart s.iss.hart)).2 = answer) (h3 : fn = 3 → (run s (s.hart s.iss.hart)).1 = s) :
    ((s.hart s.iss.hart).mode = .u ∨ (s.hart s.iss.hart).mode = .vu → s.KlnTraps o 2 (klnWord fn rd rs1 rs2))
      ∧ ((s.hart s.iss.hart).mode = .vs → s.KlnTraps o 22 (klnWord fn rd rs1 rs2))
      ∧ ((s.hart s.iss.hart).mode = .m ∨ (s.hart s.iss.hart).mode = .s → s.KlnAnswers o rd answer
          fun t => fn = 3 → t = (s.setHart s.iss.hart (t.hart s.iss.hart)).markIssued) := by
  rw [ho]
  refine ⟨State.kln_illegal, State.kln_virtual, fun hm => ?_⟩
  obtain ⟨t, ht, hpc, hmode, hreg, hne, hall⟩ := State.kln_answers (rd := rd) hm hr ha
  exact ⟨t, ht, hpc, hmode, hreg, hne, fun hf => hall (h3 hf)⟩

end words

/-! ### Cancel, pre-emption and status (R58, R63 to R65) -/

section answers
variable (s : State) (h : Word)

@[simp] theorem State.harts_cancel : (s.cancel h).1.harts = s.harts := by
  unfold State.cancel
  dsimp only
  split <;> simp

theorem State.harts_beginPreempt (ck : Nat) : (s.beginPreempt ck).harts = s.harts := by
  unfold State.beginPreempt
  dsimp only
  split
  · refine List.foldlRecOn _ _ (motive := fun t : State => t.harts = s.harts) rfl fun t ht g _ => ?_
    split
    · rw [State.sameButUnits_closePass]
      exact ht
    · exact ht
  · rfl

@[simp] theorem State.harts_preempt (team : Nat) : (s.preempt h team).1.harts = s.harts := by
  unfold State.preempt
  dsimp only
  split
  · rfl
  · split
    · exact s.harts_beginPreempt _
    · rfl

theorem State.cancel_open (ho : (s.launch h).state = .queued ∨ (s.launch h).state = .running) : s.cancel h = (s.endLaunch h 0xFE 0, 0) := by
  unfold State.cancel
  dsimp only
  rcases ho with ho | ho <;> rw [ho]

theorem State.cancel_ended (he : (s.launch h).state = .ending ∨ (s.launch h).state = .ended) : s.cancel h = (s, 1) := by
  unfold State.cancel
  dsimp only
  rcases he with he | he <;> rw [he]

theorem State.preempt_unknown {team : Nat} (hu : (s.launch h).state = .none ∨ (s.launch h).teams ≤ team) : s.preempt h team = (s, 2) := by
  unfold State.preempt
  exact if_pos (by simpa using hu)

theorem State.preempt_known {team : Nat} (hk : (s.launch h).state ≠ .none) (ht : team < (s.launch h).teams) : s.preempt h team =
    if (s.team (teamKey h team)).resident && !(s.team (teamKey h team)).ended
    then (s.beginPreempt (s.team (teamKey h team)).ck, 0) else (s, 1) := by
  unfold State.preempt
  exact if_neg (by simp [hk, ht])

theorem State.cancel_none (hn : (s.launch h).state = .none) : s.cancel h = (s, 2) := by
  unfold State.cancel
  dsimp only
  rw [hn]

theorem State.status_none (hn : (s.launch h).state = .none) : s.status h = 0 := by
  unfold State.status
  dsimp only
  rw [hn]

/-- A launch that is queued, or that ends without having been dispatched (R65). -/
theorem State.status_waiting (hw : (s.launch h).state = .queued ∨ (s.launch h).state = .ending ∧ (s.launch h).dispatched = 0) :
    s.status h = completionWord h 0xFD 0 := by
  unfold State.status
  dsimp only
  rcases hw with hw | ⟨hw, hd⟩
  · rw [hw]
  · rw [hw, hd]
    rfl

/-- A launch that has been dispatched and has not ended (R65). -/
theorem State.status_dispatched (hw : (s.launch h).state = .running ∨ (s.launch h).state = .ending ∧ (s.launch h).dispatched ≠ 0) :
    s.status h = completionWord h 0xFC 0 := by
  unfold State.status
  dsimp only
  rcases hw with hw | ⟨hw, hd⟩
  · rw [hw]
  · rw [hw]
    exact congrArg (completionWord h · 0) (if_neg hd)

theorem State.status_ended (he : (s.launch h).state = .ended) : s.status h = completionWord h (s.launch h).cause (s.launch h).team := by
  unfold State.status
  dsimp only
  rw [he]

end answers

/-! ### Handles (R57) -/

/-- The sequence number `k` places after `first`, with wrap from 0x3FFFFFFF to 0x10. -/
def seqAt (first k : Nat) : Nat := 16 + (first - 16 + k) % (2 ^ 30 - 16)

theorem seqAt_zero {first : Nat} (h1 : 16 ≤ first) (h2 : first < 2 ^ 30) : seqAt first 0 = first := by
  unfold seqAt
  omega

theorem seqAt_range (first k : Nat) : 16 ≤ seqAt first k ∧ seqAt first k < 2 ^ 30 := by
  unfold seqAt
  omega

theorem seqAt_succ (first k : Nat) : (if seqAt first k = 0x3FFFFFFF then 0x10 else seqAt first k + 1) = seqAt first (k + 1) := by
  unfold seqAt
  split <;> omega

section handles
variable (u : State)

/-- The search from a number of the sequence ends at one of it. -/
theorem State.nextSeq_seqAt (die first i fuel : Nat) : ∃ k, u.nextSeq die fuel (seqAt first i) = seqAt first k := by
  induction fuel generalizing i with
  | zero => exact ⟨i, rfl⟩
  | succ fuel ih =>
    unfold State.nextSeq
    split
    · rw [seqAt_succ]
      exact ih (i + 1)
    · exact ⟨i, rfl⟩

/-- The search gives the first number that is not busy, when its bound reaches it. -/
theorem State.nextSeq_first {die first k fuel : Nat} (i : Nat) (hk : k < fuel) (hb : ∀ j, j < k → u.seqBusy die (seqAt first (i + j)) = true)
    (hf : u.seqBusy die (seqAt first (i + k)) = false) : u.nextSeq die fuel (seqAt first i) = seqAt first (i + k) := by
  induction fuel generalizing i k with
  | zero => omega
  | succ fuel ih =>
    unfold State.nextSeq
    cases k with
    | zero => exact if_neg (by simpa using hf)
    | succ k =>
      have h0 : u.seqBusy die (seqAt first i) = true := hb 0 (Nat.succ_pos k)
      rw [if_pos h0, seqAt_succ]
      have hshift : ∀ j, i + 1 + j = i + (j + 1) := fun j => by omega
      rw [ih (i + 1) (by omega) (fun j hj => hshift j ▸ hb (j + 1) (by omega)) (hshift k ▸ hf), hshift]

/-- A number that is not busy: its launch is not open, and no release notice of it is unacknowledged. -/
theorem State.free_of_not_seqBusy {die n : Nat} (h : u.seqBusy die n = false) :
    (u.launch (BitVec.ofNat 32 (die * 2 ^ 30 + n))).open' = false ∧ ∀ r ∈ u.releases, r.handle ≠ BitVec.ofNat 32 (die * 2 ^ 30 + n) := by
  unfold State.seqBusy at h
  dsimp only at h
  rw [Bool.or_eq_false_iff, Bool.or_eq_false_iff] at h
  exact ⟨h.1.1, by simpa using h.1.2⟩

/-- The sequence number that a die's unit issues next. -/
def State.issued (own : Nat) : Nat :=
  u.nextSeq own (Config.handles * 2 + u.releases.length + u.retired.length + 1) (u.die own).nextSeq

/-- The handle that a die's unit issues next. -/
def State.issuedHandle (own : Nat) : Word := BitVec.ofNat 32 (own * 2 ^ 30 + u.issued own)

theorem toNat_handle {own n : Nat} (ho : own < 4) (hn : n < 2 ^ 30) : (BitVec.ofNat 32 (own * 2 ^ 30 + n)).toNat = own * 2 ^ 30 + n := by
  rw [BitVec.toNat_ofNat]
  omega

/-- What R57 says of the handle that a die's unit issues. -/
theorem State.issuedHandle_spec {own : Nat} (ho : own < 4) (h1 : 16 ≤ (u.die own).nextSeq) (h2 : (u.die own).nextSeq < 2 ^ 30) :
    (u.issuedHandle own).toNat / 2 ^ 30 = own ∧ (u.issuedHandle own).toNat / 2 ^ 4 % 2 ^ 26 ≠ 0
      ∧ ∀ k, k ≤ 2 * Config.handles + u.releases.length + u.retired.length →
          (∀ j, j < k → u.seqBusy own (seqAt (u.die own).nextSeq j) = true) → u.seqBusy own (seqAt (u.die own).nextSeq k) = false →
          u.issued own = seqAt (u.die own).nextSeq k ∧ (u.issuedHandle own).toNat % 2 ^ 30 = seqAt (u.die own).nextSeq k
            ∧ (u.launch (u.issuedHandle own)).open' = false ∧ ∀ r ∈ u.releases, r.handle ≠ u.issuedHandle own := by
  have hz : u.issued own = u.nextSeq own (Config.handles * 2 + u.releases.length + u.retired.length + 1) (seqAt (u.die own).nextSeq 0) := by
    rw [seqAt_zero h1 h2, State.issued]
  obtain ⟨m, hm⟩ := u.nextSeq_seqAt own (u.die own).nextSeq 0 (Config.handles * 2 + u.releases.length + u.retired.length + 1)
  obtain ⟨hlo, hhi⟩ := seqAt_range (u.die own).nextSeq m
  rw [← hm, ← hz] at hlo hhi
  have hn : (u.issuedHandle own).toNat = own * 2 ^ 30 + u.issued own := toNat_handle ho hhi
  refine ⟨by omega, by omega, fun k hk hb hf => ?_⟩
  have hi : u.issued own = seqAt (u.die own).nextSeq k := by
    have := u.nextSeq_first 0 (k := k) (fuel := Config.handles * 2 + u.releases.length + u.retired.length + 1) (by omega)
      (fun j hj => by rw [Nat.zero_add]; exact hb j hj) (by rw [Nat.zero_add]; exact hf)
    rw [hz, this, Nat.zero_add]
  refine ⟨hi, by omega, ?_⟩
  rw [State.issuedHandle, hi]
  exact u.free_of_not_seqBusy hf

end handles

/-! ### Acceptance (R56, R57, R59, R60) -/

section acceptance
variable {s u : State} {die : Nat} {ctx : BitVec 16} {va : Dword} {r : Nat}

/-- Room made in a handle table changes the table alone. -/
theorem State.handleRoom_only {own : Nat} (h : s.handleRoom own = some u) : u = { s with launches := u.launches } := by
  unfold State.handleRoom at h
  dsimp only at h
  split at h
  · cases h; rfl
  · split at h
    · cases h
    · cases h; rfl

/-- A launch of a record's fields enters the end of its queue `q`, under the next handle of the die that owns it. -/
def State.enterLaunch (u : State) (ctx : BitVec 16) (l : Launch) (q : List Word) : State × Word :=
  let own := l.queue % Config.dies
  let h := u.issuedHandle own
  let t := u.setDie own { u.die own with nextSeq := if u.issued own = 0x3FFFFFFF then 0x10 else u.issued own + 1 }
  let report := if l.determ then t.reportAddr own ctx l.param else 0
  let answers := l.deps.filterMap fun d => (t.depAnswer d).map fun c => (d, c)
  let t := t.setLaunch h { l with state := .queued, handle := h, ctx, accepted := t.fresh, report, answers }
  ({ t with queues := tabSet [] t.queues l.queue (q ++ [h]) }, h)

/-- What becomes of a record that has been read. -/
def State.acceptRecord (s : State) (ctx : BitVec 16) (l : Launch) : State × Word :=
  if !l.fieldsOk then (s, 2)
  else if !s.ctxGrant ctx l.queue then (s, 6)
  else
    match s.handleRoom (l.queue % Config.dies) with
    | none => (s, 5)
    | some u =>
      if Config.queueDepth ≤ (tabGet [] s.queues l.queue).length then (s, 3) else u.enterLaunch ctx l (tabGet [] s.queues l.queue)

theorem State.accept_context (hc : s.ctxValid ctx = false) : s.accept die ctx va = (s, 4) := by
  unfold State.accept
  exact if_pos (by simpa using hc)

theorem State.accept_unaligned (hc : s.ctxValid ctx = true) (ha : va.toNat % 64 ≠ 0) : s.accept die ctx va = (s, 1) := by
  unfold State.accept
  rw [if_neg (by simpa using hc), if_pos (by simpa using ha)]

theorem State.accept_unreadable (hc : s.ctxValid ctx = true) (ha : va.toNat % 64 = 0) (hr : s.unitRead die ctx va 64 0x102 = none) :
    s.accept die ctx va = (s, 1) := by
  unfold State.accept
  rw [if_neg (by simpa using hc), if_neg (by simpa using ha), hr]

theorem State.accept_record (hc : s.ctxValid ctx = true) (ha : va.toNat % 64 = 0) (hr : s.unitRead die ctx va 64 0x102 = some r) :
    s.accept die ctx va = s.acceptRecord ctx (launchOfRecord r) := by
  unfold State.accept
  rw [if_neg (by simpa using hc), if_neg (by simpa using ha), hr]
  rfl

section record
variable {l : Launch}

theorem State.acceptRecord_fields (hf : l.fieldsOk = false) : s.acceptRecord ctx l = (s, 2) := if_pos (by simpa using hf)

theorem State.acceptRecord_grant (hf : l.fieldsOk = true) (hg : s.ctxGrant ctx l.queue = false) : s.acceptRecord ctx l = (s, 6) := by
  unfold State.acceptRecord
  rw [if_neg (by simpa using hf), if_pos (by simpa using hg)]

theorem State.acceptRecord_table (hf : l.fieldsOk = true) (hg : s.ctxGrant ctx l.queue = true)
    (ht : s.handleRoom (l.queue % Config.dies) = none) : s.acceptRecord ctx l = (s, 5) := by
  unfold State.acceptRecord
  rw [if_neg (by simpa using hf), if_neg (by simpa using hg), ht]

theorem State.acceptRecord_room (hf : l.fieldsOk = true) (hg : s.ctxGrant ctx l.queue = true)
    (ht : s.handleRoom (l.queue % Config.dies) = some u) : s.acceptRecord ctx l =
      if Config.queueDepth ≤ (tabGet [] s.queues l.queue).length then (s, 3) else u.enterLaunch ctx l (tabGet [] s.queues l.queue) := by
  unfold State.acceptRecord
  rw [if_neg (by simpa using hf), if_neg (by simpa using hg), ht]

end record

@[simp] theorem State.harts_accept : (s.accept die ctx va).1.harts = s.harts := by
  have hrec : ∀ l, (s.acceptRecord ctx l).1.harts = s.harts := fun l => by
    unfold State.acceptRecord
    split
    · rfl
    · split
      · rfl
      · split
        · rfl
        · next u hu =>
          split
          · rfl
          · exact ((by rw [State.handleRoom_only hu] : u.harts = s.harts))
  by_cases hc : s.ctxValid ctx = true
  · by_cases ha : va.toNat % 64 = 0
    · cases hr : s.unitRead die ctx va 64 0x102 with
      | none => rw [State.accept_unreadable hc ha hr]
      | some r => rw [State.accept_record hc ha hr, hrec]
    · rw [State.accept_unaligned hc ha]
  · rw [State.accept_context (by simpa using hc)]

end acceptance

/-- Settles O41: a word by privilege (`kln_spec`), then each answer by where the launch stands. -/
theorem kelrenWords : Obligations.KelrenWords := by
  refine ⟨fun s rd rs1 rs2 fn i hi => ?_, fun s h team => ?_⟩
  · simp only [List.mem_cons, Prod.mk.injEq, List.not_mem_nil, or_false] at hi
    intro n h word traps answer
    rcases hi with ⟨rfl, rfl⟩ | ⟨rfl, rfl⟩ | ⟨rfl, rfl⟩ | ⟨rfl, rfl⟩
    · refine State.kln_spec (answer := answer) (klnLaunch_eq s rd rs1 rs2) ?_ ?_ fun hf => absurd hf (by decide)
      · split
        · rfl
        · exact State.harts_accept
      · simp only [bne_iff_ne, apply_ite Prod.snd]
        rfl
    · refine State.kln_spec (answer := answer) (klnCancel_eq s rd rs1 rs2) ?_ ?_ fun hf => absurd hf (by decide)
      · split
        · rfl
        · exact State.harts_cancel ..
      · simp only [bne_iff_ne, apply_ite Prod.snd]
        rfl
    · exact State.kln_spec (answer := answer) (klnPreempt_eq s rd rs1 rs2) (State.harts_preempt ..) rfl fun hf => absurd hf (by decide)
    · have hs : (if rs2 != 0 then (s, 2) else (s, s.status ((h.reg rs1).setWidth 32)) : State × Dword).1 = s := by
        split <;> rfl
      refine State.kln_spec (answer := answer) (klnStatus_eq s rd rs1 rs2) (congrArg State.harts hs) ?_ fun _ => hs
      simp only [bne_iff_ne, apply_ite Prod.snd]
      rfl
  · intro l st
    refine ⟨fun hn => ⟨s.status_none h hn, congrArg Prod.snd (s.cancel_none h hn), congrArg Prod.snd (s.preempt_unknown h (.inl hn))⟩,
      s.status_waiting h, s.status_dispatched h, s.status_ended h, fun ho => ?_, s.cancel_ended h,
      fun hk => ⟨fun ht => s.preempt_unknown h (.inr ht), fun ht hr => ?_, fun ht hr he => ?_⟩⟩
    · rw [s.cancel_open h ho]
      exact ⟨rfl, s.endLaunch_open h 0xFE 0 ho⟩
    · rw [s.preempt_known h hk ht]
      exact if_neg (by rcases hr with hr | hr <;> simp [hr])
    · rw [s.preempt_known h hk ht, if_pos (by simp [hr, he])]

section entering
variable (u : State) (ctx : BitVec 16) (l : Launch) (q : List Word)

/-- The entry of a launch that has entered its queue (R59, R62). -/
theorem State.enterLaunch_entry : ∃ report answers, (u.enterLaunch ctx l q).1.launch (u.enterLaunch ctx l q).2 =
    { l with state := .queued, handle := (u.enterLaunch ctx l q).2, ctx, accepted := u.fresh, report, answers } :=
  ⟨_, _, State.launch_setLaunch _ (u.issuedHandle (l.queue % Config.dies)) _⟩

theorem State.enterLaunch_queue : tabGet [] (u.enterLaunch ctx l q).1.queues l.queue = q ++ [(u.enterLaunch ctx l q).2] :=
  tabGet_tabSet_same ..

theorem State.enterLaunch_nextSeq : ((u.enterLaunch ctx l q).1.die (l.queue % 4)).nextSeq =
    if u.issued (l.queue % 4) = 0x3FFFFFFF then 0x10 else u.issued (l.queue % 4) + 1 :=
  congrArg Die.nextSeq (u.die_setDie (l.queue % 4) _)

end entering

/-- Settles O42: a refusal for each reason in its order, and past them `enterLaunch`, whose handle is `issuedHandle_spec`. -/
theorem launchAcceptance : Obligations.LaunchAcceptance := by
  intro s die ctx va a refused
  refine ⟨State.accept_context, fun hc => ⟨State.accept_unaligned hc, fun ha => ⟨State.accept_unreadable hc ha, fun r hr => ?_⟩⟩⟩
  intro l own q
  have hrec : a = s.acceptRecord ctx l := State.accept_record hc ha hr
  refine ⟨fun hf => hrec.trans (State.acceptRecord_fields hf), fun hf => ⟨fun hg => hrec.trans (State.acceptRecord_grant hf hg), fun hg =>
    ⟨fun ht => hrec.trans (State.acceptRecord_table hf hg ht), fun u hu => ?_⟩⟩⟩
  rw [State.acceptRecord_room hf hg hu] at hrec
  refine ⟨fun hq => hrec.trans (if_pos hq), fun hq => ?_⟩
  rw [if_neg (show ¬ Config.queueDepth ≤ q.length from by simpa [Config.queueDepth] using hq)] at hrec
  obtain ⟨report, answers, hentry⟩ := u.enterLaunch_entry ctx l q
  have hqueue := u.enterLaunch_queue ctx l q
  have hnext := u.enterLaunch_nextSeq ctx l q
  have hsame := State.handleRoom_only hu
  have hgroups : (u.enterLaunch ctx l q).1.groups = s.groups := by rw [hsame]; rfl
  have hmem : (u.enterLaunch ctx l q).1.mem = s.mem := by rw [hsame]; rfl
  rw [← hrec] at hentry hqueue hnext hgroups hmem
  refine ⟨by rw [hentry], by rw [hentry], by rw [hentry], by rw [hentry], by rw [hentry], hqueue, hgroups, hmem, fun h1 h2 => ?_⟩
  have hhandle : a.2 = u.issuedHandle own := by rw [hrec]; rfl
  obtain ⟨hdie, hsys, hfirst⟩ := u.issuedHandle_spec (Nat.mod_lt _ (by decide)) h1 h2
  rw [hhandle]
  refine ⟨hdie, hsys, fun k hk hb hf => ?_⟩
  obtain ⟨hi, hn, hopen, hrel⟩ := hfirst k hk hb hf
  refine ⟨hn, hopen, hrel, ?_⟩
  rw [hnext, hi]
  exact seqAt_succ _ k

end Sys2Proof.Machine

/-! PROOF. The life of a launch: dispatch, dependences, watchdog, end (spec/03_control_cores_and_launch.md R61 to R64, R67, R414,
spec/02_fabric_and_exactly_once.md R45, spec/04_scheduler.md R72, R73, R80). -/
namespace Sys2Proof.Machine

/-! ### Dispatch (R61, R72, R73) -/

/-- A fold that keeps the first of two ends at an element that none precedes. -/
theorem foldl_first {α : Type} {lt : α → α → Bool} (asymm : ∀ a b, lt a b = true → lt b a = false)
    (negTrans : ∀ a b c, lt a b = false → lt b c = false → lt a c = false) (l : List α) (a : α) :
    l.foldl (fun b x => if lt x b then x else b) a ∈ a :: l
      ∧ ∀ x ∈ a :: l, lt x (l.foldl (fun b x => if lt x b then x else b) a) = false := by
  have irrefl : ∀ b, lt b b = false := fun b => by
    cases h : lt b b with
    | false => rfl
    | true => exact h ▸ asymm b b h
  induction l generalizing a with
  | nil => exact ⟨List.mem_singleton_self a, fun x hx => by rw [List.mem_singleton.1 hx]; exact irrefl a⟩
  | cons y l ih =>
    rw [List.foldl_cons]
    by_cases hy : lt y a = true
    · rw [if_pos hy]
      obtain ⟨hmem, hfirst⟩ := ih y
      have hyk := hfirst y (List.mem_cons_self ..)
      exact ⟨List.mem_cons_of_mem _ hmem, fun x hx => (List.mem_cons.1 hx).elim
        (fun h => h ▸ negTrans a y _ (asymm y a hy) hyk) (hfirst x)⟩
    · rw [if_neg hy]
      obtain ⟨hmem, hfirst⟩ := ih a
      have hak := hfirst a (List.mem_cons_self ..)
      refine ⟨?_, fun x hx => ?_⟩
      · rcases List.mem_cons.1 hmem with h | h
        · rw [h]
          exact List.mem_cons_self ..
        · exact List.mem_cons_of_mem _ (List.mem_cons_of_mem _ h)
      · rcases List.mem_cons.1 hx with h | h
        · exact h ▸ hak
        · rcases List.mem_cons.1 h with h | h
          · exact h ▸ negTrans y a _ (by simpa using hy) hak
          · exact hfirst x (List.mem_cons_of_mem _ h)

section dispatch
variable (s : State)

theorem State.firstLaunch_asymm (a b : Word) (h : s.firstLaunch a b = true) : s.firstLaunch b a = false := by
  simp only [State.firstLaunch, Bool.or_eq_true, Bool.and_eq_true, decide_eq_true_eq, beq_iff_eq, Bool.or_eq_false_iff,
    Bool.and_eq_false_iff, decide_eq_false_iff_not, beq_eq_false_iff_ne] at h ⊢
  omega

theorem State.firstLaunch_negTrans (a b c : Word) (h : s.firstLaunch a b = false) (k : s.firstLaunch b c = false) :
    s.firstLaunch a c = false := by
  simp only [State.firstLaunch, Bool.or_eq_false_iff, Bool.and_eq_false_iff, decide_eq_false_iff_not, beq_eq_false_iff_ne] at h k ⊢
  omega

/-- A launch taken from the head of its queue, running, with its clusters pending. -/
def State.dispatch (s : State) (k : Word) : State :=
  let l := s.launch k
  (({ s with queues := tabSet [] s.queues l.queue ((tabGet [] s.queues l.queue).drop 1) } : State).setLaunch k
    { l with state := .running, dispatched := s.fresh + 1 }).addClusters k

theorem execLaunchDispatch_none (h : s.heads = []) : execLaunchDispatch s = .next s := by
  unfold execLaunchDispatch
  rw [h]

theorem execLaunchDispatch_eq (h : s.heads ≠ []) : ∃ k, execLaunchDispatch s = .next (s.dispatch k) ∧ k ∈ s.heads
    ∧ ∀ x ∈ s.heads, s.firstLaunch x k = false := by
  obtain ⟨a, rest, hr⟩ := List.exists_cons_of_ne_nil h
  obtain ⟨hmem, hfirst⟩ := foldl_first s.firstLaunch_asymm s.firstLaunch_negTrans rest a
  rw [← hr] at hmem hfirst
  refine ⟨_, ?_, hmem, hfirst⟩
  unfold execLaunchDispatch
  rw [hr]
  rfl

/-- A cluster that has entered the pending list (R73). -/
def State.pendingCluster (s : State) (h : Word) (c : Nat) : Cluster := { state := .pending, handle := h, index := c, since := s.now }

/-- A cluster of a launch enters the pending list. -/
def State.addCluster (h : Word) (s : State) (c : Nat) : State := s.setCluster (clusterKey h c) (s.pendingCluster h c)

theorem State.addClusters_eq (h : Word) : s.addClusters h =
    (List.range ((s.launch h).teams / ((s.launch h).cw * (s.launch h).ch))).foldl (State.addCluster h) s := rfl

theorem State.addClusters_spec (h : Word) : (s.addClusters h).launches = s.launches ∧ (s.addClusters h).queues = s.queues
    ∧ ∀ c, c < (s.launch h).teams / ((s.launch h).cw * (s.launch h).ch) →
        (s.addClusters h).cluster (clusterKey h c) = s.pendingCluster h c := by
  rw [State.addClusters_eq]
  refine ⟨List.foldlRecOn _ _ (motive := fun t : State => t.launches = s.launches) rfl fun _ ht _ _ => ht,
    List.foldlRecOn _ _ (motive := fun t : State => t.queues = s.queues) rfl fun _ ht _ _ => ht, fun c hc => ?_⟩
  refine (foldl_range_turn (f := State.addCluster h) (I := fun t : State => t.now = s.now)
    (P := fun t : State => t.now = s.now ∧ t.cluster (clusterKey h c) = s.pendingCluster h c) hc (fun _ _ _ ht => ht)
    (fun t ht => ⟨ht, ?_⟩) (fun t a ha ht => ⟨ht.1, ?_⟩) rfl).2
  · rw [State.addCluster, State.cluster_setCluster, State.pendingCluster, ht, State.pendingCluster]
  · rw [State.addCluster, State.cluster_setCluster_ne _ _ _ _ (by unfold clusterKey; omega)]
    exact ht.2

theorem State.dispatch_spec (k : Word) : ((s.dispatch k).launch k).state = .running ∧ ((s.dispatch k).launch k).prio = (s.launch k).prio
    ∧ tabGet [] (s.dispatch k).queues (s.launch k).queue = (tabGet [] s.queues (s.launch k).queue).drop 1
    ∧ ∀ c, c < (s.launch k).teams / ((s.launch k).cw * (s.launch k).ch) →
        (s.dispatch k).cluster (clusterKey k c) = s.pendingCluster k c := by
  obtain ⟨u, hu⟩ : ∃ u, u = ({ s with
      queues := tabSet [] s.queues (s.launch k).queue ((tabGet [] s.queues (s.launch k).queue).drop 1) } : State).setLaunch k
        { s.launch k with state := .running, dispatched := s.fresh + 1 } := ⟨_, rfl⟩
  have hd : s.dispatch k = u.addClusters k := by rw [hu]; rfl
  have hl : u.launch k = { s.launch k with state := .running, dispatched := s.fresh + 1 } := by
    rw [hu]
    exact State.launch_setLaunch ..
  obtain ⟨h1, h2, h3⟩ := u.addClusters_spec k
  have hlk : (s.dispatch k).launch k = u.launch k := by rw [State.launch, hd, h1, State.launch]
  refine ⟨by rw [hlk, hl], by rw [hlk, hl], ?_, fun c hc => ?_⟩
  · rw [hd, h2, hu]
    exact tabGet_tabSet_same ..
  · rw [hd, h3 c (by rw [hl]; exact hc), hu]
    rfl

end dispatch

/-! ### Dependences and the watchdog (R62, R64) -/

section dependences
variable (s : State)

theorem execDependenceAnswer_eq {d : Word} {c : Nat} (hq : (s.launch s.inp.handle).state = .queued)
    (hd : (s.launch s.inp.handle).deps[s.inp.idx]? = some d) (ha : (s.launch s.inp.handle).answer d = some c) :
    execDependenceAnswer s = .next
      (if c = 0 then s.setLaunch s.inp.handle { s.launch s.inp.handle with deps := (s.launch s.inp.handle).deps.eraseIdx s.inp.idx }
       else (s.setLaunch s.inp.handle { s.launch s.inp.handle with deps := (s.launch s.inp.handle).deps.eraseIdx s.inp.idx }).endLaunch
        s.inp.handle 0xFF 0) := by
  unfold execDependenceAnswer
  dsimp only
  rw [hd, Option.bind_some, ha]
  exact State.when_pos (by simp [hq])

/-- An answer takes its dependence away; one with a cause other than 0 ends the launch without running. -/
theorem execDependenceAnswer_spec {d : Word} {c : Nat} (hq : (s.launch s.inp.handle).state = .queued)
    (hd : (s.launch s.inp.handle).deps[s.inp.idx]? = some d) (ha : (s.launch s.inp.handle).answer d = some c) :
    ∃ t, execDependenceAnswer s = .next t
      ∧ (t.launch s.inp.handle).deps = (s.launch s.inp.handle).deps.eraseIdx s.inp.idx
      ∧ (c = 0 → (t.launch s.inp.handle).state = .queued)
      ∧ (c ≠ 0 → (t.launch s.inp.handle).state = .ending ∧ (t.launch s.inp.handle).cause = 0xFF
          ∧ s.inp.handle ∉ tabGet [] t.queues (s.launch s.inp.handle).queue) := by
  refine ⟨_, execDependenceAnswer_eq s hq hd ha, ?_⟩
  obtain ⟨l, hl⟩ : ∃ l : Launch, l = { s.launch s.inp.handle with deps := (s.launch s.inp.handle).deps.eraseIdx s.inp.idx } := ⟨_, rfl⟩
  have hu : (s.setLaunch s.inp.handle l).launch s.inp.handle = l := s.launch_setLaunch _ _
  rw [← hl]
  by_cases hc : c = 0
  · rw [if_pos hc, hu, hl]
    exact ⟨rfl, fun _ => hq, fun h => absurd hc h⟩
  · obtain ⟨hend, hqueue⟩ := (s.setLaunch s.inp.handle l).endLaunch_open s.inp.handle 0xFF 0 (.inl (by rw [hu, hl]; exact hq))
    rw [if_neg hc, hend, hu, hl]
    rw [hu, hl] at hqueue
    exact ⟨rfl, fun h => absurd h hc, fun _ => ⟨rfl, rfl, hqueue⟩⟩

/-- An answer is there once the launch depended on has ended, or is in no table (R62). -/
theorem State.depAnswer_none_iff (d : Word) :
    s.depAnswer d = none ↔ (s.launch d).state ∈ [LaunchState.queued, .running, .ending] := by
  unfold State.depAnswer
  cases (s.launch d).state <;> simp

theorem State.depAnswer_ended {d : Word} (h : (s.launch d).state = .ended) : s.depAnswer d = some (s.launch d).cause := by
  unfold State.depAnswer
  rw [h]

theorem State.depAnswer_unknown {d : Word} (h : (s.launch d).state = .none) : s.depAnswer d = some 0 := by
  unfold State.depAnswer
  rw [h]

theorem execWatchdogExpiry_ends (hr : (s.launch s.inp.handle).state = .running)
    (hw : us (s.launch s.inp.handle).watchdog ≤ (s.launch s.inp.handle).resident) : ∃ t, execWatchdogExpiry s = .next t
      ∧ (t.launch s.inp.handle).state = .ending ∧ (t.launch s.inp.handle).cause = 0x16 := by
  have hl : (s.fatalNone s.inp.handle 0x16 0).launch s.inp.handle = s.launch s.inp.handle := s.launch_log ..
  obtain ⟨hend, -⟩ := (s.fatalNone s.inp.handle 0x16 0).endLaunch_open s.inp.handle 0x16 0 (.inr (by rw [hl, hr]))
  have he : s.expire s.inp.handle = (s.fatalNone s.inp.handle 0x16 0).endLaunch s.inp.handle 0x16 0 := if_pos (by simp [hr, hw])
  exact ⟨_, congrArg Host.Outcome.next he, congrArg Launch.state hend, congrArg Launch.cause hend⟩

theorem execWatchdogExpiry_none (hw : (s.launch s.inp.handle).resident < us (s.launch s.inp.handle).watchdog) :
    execWatchdogExpiry s = .next s :=
  congrArg Host.Outcome.next (if_neg (by simp [hw]))

end dependences

/-! ### What the steps of a launch's end change (R63, R80, R225, R45, R414) -/

/-- The package but for its memory and its dies is as it was. -/
def State.sameButLog (s t : State) : Prop := t = { s with mem := t.mem, dies := t.dies }

/-- The package but for its groups, its teams and clusters, and what they held, is as it was. -/
def State.sameButPlaces (s t : State) : Prop :=
  t = { s with groups := t.groups, teams := t.teams, clusters := t.clusters, mailbox := t.mailbox, cores := t.cores, quads := t.quads,
               slots := t.slots, dies := t.dies }

theorem State.sameButPlaces_of_groups {s t : State} (h : s.sameButGroups t) : s.sameButPlaces t := by
  unfold State.sameButGroups State.sameButPlaces at *
  rw [h]

theorem State.sameButPlaces_trans {s t u : State} (h : s.sameButPlaces t) (k : t.sameButPlaces u) : s.sameButPlaces u := by
  unfold State.sameButPlaces at *
  rw [k, h]

section ending
variable (s : State) (h : Word)

theorem State.sameButGroups_dropGroup (gid : Nat) : s.sameButGroups (s.dropGroup gid) := by
  have hu : s.sameButUnits ((s.dropEngine gid).releaseA gid) :=
    State.sameButUnits_trans (s.sameButUnits_dropEngine gid) (State.sameButUnits_releaseA _ gid)
  unfold State.dropGroup
  dsimp only
  split
  · exact State.sameButGroups_trans (State.sameButGroups_trans (State.sameButGroups_of_units hu) (State.freeBands_spec _ gid).1) rfl
  · rfl

theorem State.sameButPlaces_releaseAll : s.sameButPlaces (s.releaseAll h) :=
  State.sameButPlaces_trans (State.sameButPlaces_of_groups (State.sameButGroups_trans
    (State.sameButGroups_foldl State.sameButGroups_dropGroup _ s)
    (State.sameButGroups_of_units (State.sameButUnits_foldl State.sameButUnits_dropTeam _ _)))) rfl

/-- Nothing of the launch is left in a table (R80). -/
theorem State.releaseAll_spec : (∀ g ∈ (s.releaseAll h).groups, keyHandle (groupTeam g.1) ≠ h)
    ∧ (∀ c ∈ (s.releaseAll h).teams, c.2.handle ≠ h) ∧ ∀ c ∈ (s.releaseAll h).clusters, c.2.handle ≠ h :=
  ⟨fun _ hg => by simpa using (List.mem_filter.1 hg).2, fun _ hc => by simpa using (List.mem_filter.1 hc).2,
    fun _ hc => by simpa using (List.mem_filter.1 hc).2⟩

theorem State.sameButMem_unitWrite {die : Nat} {ctx : BitVec 16} {va : Dword} {n x k : Nat} {t : State}
    (ht : s.unitWrite die ctx va n x k = some t) : s.sameButMem t := by
  unfold State.unitWrite at ht
  obtain ⟨p, -, rfl⟩ := Option.map_eq_some_iff.1 ht
  split
  · rfl
  · exact s.sameButMem_wrBytes _ _

theorem State.sameButMem_writeReport : s.sameButMem (s.writeReport h) := by
  unfold State.writeReport
  dsimp only
  split
  · cases hw : s.unitWrite (handleDie h) (s.launch h).ctx (s.launch h).report 16 _ 0x200 with
    | none => rfl
    | some t => exact s.sameButMem_unitWrite hw
  · rfl

theorem State.writeDone_zero (hz : (s.launch h).done = 0) : s.writeDone h = s := by
  unfold State.writeDone
  exact if_pos hz

theorem State.writeDone_written (hz : (s.launch h).done ≠ 0) {t : State} (ht : s.unitWrite (handleDie h) (s.launch h).ctx (s.launch h).done 8
    (completionWord h (s.launch h).cause (s.launch h).team).toNat 0x201 = some t) : s.writeDone h = t := by
  unfold State.writeDone
  dsimp only
  rw [if_neg hz, ht]

theorem logId_ctx (ctx : BitVec 16) : logId ctx 0 0 0 0 = BitVec.ofNat 64 (ctx.toNat * 2 ^ 48) := by simp [logId]

theorem State.writeDone_logged (hz : (s.launch h).done ≠ 0) (hw : s.unitWrite (handleDie h) (s.launch h).ctx (s.launch h).done 8
    (completionWord h (s.launch h).cause (s.launch h).team).toNat 0x201 = none) : s.writeDone h = s.log (handleDie h)
      { kind := 4, handle := h, id := BitVec.ofNat 64 ((s.launch h).ctx.toNat * 2 ^ 48), code := BitVec.ofNat 32 (s.launch h).cause,
        addr := (s.launch h).done } := by
  unfold State.writeDone
  dsimp only
  rw [if_neg hz, hw, logId_ctx]

theorem State.sameButLog_writeDone : s.sameButLog (s.writeDone h) := by
  by_cases hz : (s.launch h).done = 0
  · rw [s.writeDone_zero h hz]
    rfl
  · cases hw : s.unitWrite (handleDie h) (s.launch h).ctx (s.launch h).done 8
        (completionWord h (s.launch h).cause (s.launch h).team).toNat 0x201 with
    | some t =>
      rw [s.writeDone_written h hz hw]
      unfold State.sameButLog
      rw [s.sameButMem_unitWrite hw]
    | none =>
      rw [s.writeDone_logged h hz hw]
      obtain ⟨m, x, hm, -⟩ := s.log_eq (handleDie h) _
      rw [hm]
      rfl

/-- The completion word of R63, as a number. -/
theorem toNat_completionWord (cause team : Nat) :
    (completionWord h cause team).toNat = h.toNat * 2 ^ 32 + cause % 2 ^ 8 * 2 ^ 24 + team % 2 ^ 24 := by
  have hh := h.isLt
  unfold completionWord
  rw [BitVec.toNat_ofNat]
  omega

/-- What a launch unit has written in good memory of this package reads back (R414). -/
theorem State.rdBytes_unitWrite {die : Nat} {ctx : BitVec 16} {va : Dword} {n x k : Nat} {t : State} {p : Place}
    (ht : s.unitWrite die ctx va n x k = some t) (hp : s.unitPlace die ctx va true k = some p) (hf : s.unitFar p = false)
    (hr : s.isRemoved p.pa = false) (hb : s.backedRange p.pa n = true) : leVal (t.rdBytes p.pa n) = x % 256 ^ n := by
  unfold State.unitWrite at ht
  rw [hp, Option.map_some, if_neg (by simp [hf, hr, hb])] at ht
  cases ht
  exact s.rdLe_wrLe _ _ _

theorem State.ownersEnd_only (src : BitVec 16) : s.ownersEnd src h = { s with owners := (s.ownersEnd src h).owners } :=
  List.foldlRecOn _ _ (motive := fun t : State => t = { s with owners := t.owners }) rfl fun t ht o _ => by rw [ht]; rfl

theorem State.emitAll_only {α : Type} (f : State → α → Packet) (l : List α) (s : State) :
    l.foldl (fun s k => s.emit (f s k)) s = { s with net := (l.foldl (fun s k => s.emit (f s k)) s).net } :=
  List.foldlRecOn l _ (motive := fun t : State => t = { s with net := t.net }) rfl fun t ht k _ => by rw [State.emit_same, ht]

/-- The notice that a launch has ended, as it stands until it is acknowledged (R45). -/
def State.noticeOf (s : State) (h : Word) (p : BitVec 16) : Release :=
  { handle := h, pkg := p, sends := 1, next := s.now + us 16, port := s.portFor (s.endNotice h p) none }

theorem State.noticeOf_congr {s u : State} (hi : u.image = s.image) (hf : u.fabUp = s.fabUp) (hn : u.now = s.now) (h : Word) (p : BitVec 16) :
    u.noticeOf h p = s.noticeOf h p := by
  unfold State.noticeOf State.endNotice State.portFor State.portsUp
  rw [hi, hf, hn]

/-- The launch retires at every owner of its package, and a notice goes to every package that it addressed (R45). -/
theorem State.retireLaunch_spec :
    s.retireLaunch h = { s with owners := (s.retireLaunch h).owners, net := (s.retireLaunch h).net,
                                releases := (s.retireLaunch h).releases, retired := (s.retireLaunch h).retired }
      ∧ (∀ o, o < 68 → ((s.retireLaunch h).owner o).endedOf s.image.pkgnum h s.now)
      ∧ ∀ p ∈ (s.launch h).pkgs, s.noticeOf h p ∈ (s.retireLaunch h).releases := by
  obtain ⟨u, hu⟩ : ∃ u, u = (s.launch h).pkgs.foldl (fun s k => s.emit (s.endNotice h k)) (s.ownersEnd s.image.pkgnum h) := ⟨_, rfl⟩
  have hnet : u = { s.ownersEnd s.image.pkgnum h with net := u.net } := by
    rw [hu]
    exact State.emitAll_only (fun s k => s.endNotice h k) _ _
  have hown := s.ownersEnd_only h s.image.pkgnum
  have hsame : u = { s with owners := u.owners, net := u.net } := by rw [hnet, hown]
  have howners : u.owners = (s.ownersEnd s.image.pkgnum h).owners := by rw [hnet]
  have hr : s.retireLaunch h = { u with
      releases := u.releases ++ (s.launch h).pkgs.map (u.noticeOf h), retired := u.retired ++ [(h, u.now)] } := by
    rw [hu]; rfl
  rw [hr]
  refine ⟨by rw [hsame], fun o ho => ?_, fun p hp => List.mem_append_right _ (List.mem_map.2 ⟨p, hp, ?_⟩)⟩
  · rw [State.owner, howners, ← State.owner]
    exact (s.ownersEnd_spec s.image.pkgnum h).2 o ho
  · exact State.noticeOf_congr (by rw [hsame]) (by rw [hsame]) (by rw [hsame]) h p

/-- The answer to a dependence on an ended launch is under way to every launch that has it (R62). -/
theorem State.launch_answerDeps (cause : Nat) (k : Word) : (s.answerDeps h cause).launch k =
    if (s.launch k).deps.contains h then { s.launch k with answers := (s.launch k).answers ++ [(h, cause)] } else s.launch k := by
  have hm : (s.answerDeps h cause).launches = s.launches.map fun p =>
      (p.1, if p.2.deps.contains h then { p.2 with answers := p.2.answers ++ [(h, cause)] } else p.2) := by
    refine List.map_congr_left fun p _ => ?_
    split <;> rfl
  rw [State.launch, hm]
  exact tabGet_map (fun l : Launch => if l.deps.contains h then { l with answers := l.answers ++ [(h, cause)] } else l) rfl _ _

/-- The launch gives back what it held, writes its report, retires, and writes its completion word. -/
def State.windUp (s : State) (h : Word) : State := (((s.releaseAll h).writeReport h).retireLaunch h).writeDone h

theorem State.windUp_spec : (s.windUp h).launches = s.launches ∧ (s.windUp h).fresh = s.fresh
    ∧ (∀ g ∈ (s.windUp h).groups, keyHandle (groupTeam g.1) ≠ h) ∧ (∀ c ∈ (s.windUp h).teams, c.2.handle ≠ h)
    ∧ (∀ c ∈ (s.windUp h).clusters, c.2.handle ≠ h) ∧ (∀ o, o < 68 → ((s.windUp h).owner o).endedOf s.image.pkgnum h s.now)
    ∧ ∀ p ∈ (s.launch h).pkgs, s.noticeOf h p ∈ (s.windUp h).releases := by
  obtain ⟨a, ha⟩ : ∃ a, a = s.releaseAll h := ⟨_, rfl⟩
  obtain ⟨b, hb⟩ : ∃ b, b = a.writeReport h := ⟨_, rfl⟩
  obtain ⟨c, hc⟩ : ∃ c, c = b.retireLaunch h := ⟨_, rfl⟩
  obtain ⟨v, hv⟩ : ∃ v, v = c.writeDone h := ⟨_, rfl⟩
  have hw : s.windUp h = v := by rw [hv, hc, hb, ha, State.windUp]
  obtain ⟨hgroups, hteams, hclusters⟩ := s.releaseAll_spec h
  obtain ⟨hret, howners, hnotices⟩ := b.retireLaunch_spec h
  have hsa : s.sameButPlaces a := ha ▸ s.sameButPlaces_releaseAll h
  have hab : a.sameButMem b := hb ▸ a.sameButMem_writeReport h
  have hcv : c.sameButLog v := hv ▸ c.sameButLog_writeDone h
  rw [← ha] at hgroups hteams hclusters
  rw [← hc] at hret howners hnotices
  obtain ⟨al, ai, an, af, ar⟩ : a.launches = s.launches ∧ a.image = s.image ∧ a.now = s.now ∧ a.fabUp = s.fabUp ∧ a.fresh = s.fresh := by
    rw [hsa]
    exact ⟨rfl, rfl, rfl, rfl, rfl⟩
  obtain ⟨bl, bi, bn, bf, br⟩ : b.launches = a.launches ∧ b.image = a.image ∧ b.now = a.now ∧ b.fabUp = a.fabUp ∧ b.fresh = a.fresh := by
    rw [hab]
    exact ⟨rfl, rfl, rfl, rfl, rfl⟩
  obtain ⟨bg, bt, bc⟩ : b.groups = a.groups ∧ b.teams = a.teams ∧ b.clusters = a.clusters := by
    rw [hab]
    exact ⟨rfl, rfl, rfl⟩
  obtain ⟨vl, vr, vg, vt, vc⟩ : v.launches = b.launches ∧ v.fresh = b.fresh ∧ v.groups = b.groups ∧ v.teams = b.teams
      ∧ v.clusters = b.clusters := by
    rw [hcv, hret]
    exact ⟨rfl, rfl, rfl, rfl, rfl⟩
  obtain ⟨vo, vn⟩ : v.owners = c.owners ∧ v.releases = c.releases := by
    rw [hcv]
    exact ⟨rfl, rfl⟩
  have hlaunch : b.launch h = s.launch h := by rw [State.launch, bl, al, State.launch]
  rw [bi, ai, bn, an] at howners
  rw [hlaunch] at hnotices
  rw [hw, vl, bl, vr, br, vg, bg, vt, bt, vc, bc, vn]
  refine ⟨al, ar, hgroups, hteams, hclusters, fun o ho => ?_, fun p hp => ?_⟩
  · rw [State.owner, vo]
    exact howners o ho
  · rw [← State.noticeOf_congr (bi.trans ai) (bf.trans af) (bn.trans an)]
    exact hnotices p hp

/-- The entry of an ended launch, and the answers to the dependences on it. -/
def State.endEntry (v : State) (h : Word) : State :=
  (v.setLaunch h { v.launch h with state := .ended, endedAt := v.fresh }).answerDeps h (v.launch h).cause

theorem State.endEntry_spec (v : State) : ((v.endEntry h).launch h).state = .ended ∧ ((v.endEntry h).launch h).endedAt = v.fresh
    ∧ ((v.endEntry h).launch h).cause = (v.launch h).cause
    ∧ ∀ k, k ≠ h → h ∈ (v.launch k).deps → ((v.endEntry h).launch k).answers = (v.launch k).answers ++ [(h, (v.launch h).cause)] := by
  have hk : ∀ k, k ≠ h → h ∈ (v.launch k).deps → ((v.endEntry h).launch k).answers = (v.launch k).answers ++ [(h, (v.launch h).cause)] :=
    fun k hk hd => by
      rw [State.endEntry, State.launch_answerDeps, State.launch_setLaunch_ne _ _ _ _ hk, if_pos (List.contains_iff_mem.2 hd)]
  rw [State.endEntry, State.launch_answerDeps, State.launch_setLaunch]
  split <;> exact ⟨rfl, rfl, rfl, hk⟩

theorem execLaunchEnd_eq (he : (s.launch s.inp.handle).state = .ending) (hd : s.drained s.inp.handle = true) :
    execLaunchEnd s = .next ((s.windUp s.inp.handle).endEntry s.inp.handle) := by
  unfold execLaunchEnd
  exact State.when_pos (by simp [he, hd])

theorem execLaunchEnd_draining (hd : s.drained s.inp.handle = false) : execLaunchEnd s = .next s := by
  unfold execLaunchEnd
  exact State.when_neg (by simp [hd])

theorem execLaunchEnd_spec (he : (s.launch s.inp.handle).state = .ending) (hd : s.drained s.inp.handle = true) :
    ∃ t, execLaunchEnd s = .next t ∧ (t.launch s.inp.handle).state = .ended ∧ (t.launch s.inp.handle).endedAt = s.fresh
      ∧ (t.launch s.inp.handle).cause = (s.launch s.inp.handle).cause ∧ t.mem = (s.windUp s.inp.handle).mem
      ∧ (∀ g ∈ t.groups, keyHandle (groupTeam g.1) ≠ s.inp.handle) ∧ (∀ c ∈ t.teams, c.2.handle ≠ s.inp.handle)
      ∧ (∀ c ∈ t.clusters, c.2.handle ≠ s.inp.handle)
      ∧ (∀ o, o < 68 → (t.owner o).endedOf s.image.pkgnum s.inp.handle s.now)
      ∧ (∀ k, k ≠ s.inp.handle → s.inp.handle ∈ (s.launch k).deps →
          (t.launch k).answers = (s.launch k).answers ++ [(s.inp.handle, (s.launch s.inp.handle).cause)])
      ∧ ∀ p ∈ (s.launch s.inp.handle).pkgs, s.noticeOf s.inp.handle p ∈ t.releases := by
  obtain ⟨hl, hf, hgroups, hteams, hclusters, howners, hnotices⟩ := s.windUp_spec s.inp.handle
  rw [execLaunchEnd_eq s he hd]
  generalize s.windUp s.inp.handle = v at *
  have hlaunch : ∀ k, v.launch k = s.launch k := fun k => by rw [State.launch, hl, State.launch]
  obtain ⟨hs, hat, hc, hans⟩ := v.endEntry_spec s.inp.handle
  rw [hf] at hat
  rw [hlaunch] at hc
  simp only [hlaunch] at hans
  exact ⟨_, rfl, hs, hat, hc, rfl, hgroups, hteams, hclusters, howners, hans, hnotices⟩

end ending

/-! ### The fault log (R67) -/

section faultLog
variable (s : State)

theorem State.logCons_logMore (d n : Nat) : ((s.logMore d n).die d).logCons = (s.die d).logCons := by
  induction n generalizing s with
  | zero => rfl
  | succ n ih =>
    unfold State.logMore
    dsimp only
    split
    · split
      · rfl
      · rw [ih, State.die_setDie]
    · rfl

theorem State.placeExtents_only (l : List RtExtent) : l.foldl State.placeExtent s =
    { s with active := (l.foldl State.placeExtent s).active, inactive := (l.foldl State.placeExtent s).inactive } :=
  List.foldlRecOn l _ (motive := fun t : State => t = { s with active := t.active, inactive := t.inactive }) rfl
    fun t ht x _ => by unfold State.placeExtent; rw [ht]

/-- LOGCONS takes the value written; with no record that waits nothing is written (R67). -/
theorem execFaultLogConsume_spec : ∃ t, execFaultLogConsume s = .next t ∧ (t.die s.inp.die).logCons = s.inp.v.setWidth 12
    ∧ ((s.die s.inp.die).logWait = [] → t.mem = s.mem ∧ (t.die s.inp.die).logProd = (s.die s.inp.die).logProd) := by
  obtain ⟨x, hx⟩ : ∃ x : Die, x = { s.die s.inp.die with logCons := s.inp.v.setWidth 12 } := ⟨_, rfl⟩
  obtain ⟨hits, he⟩ : ∃ hits : List RtExtent, execFaultLogConsume s =
      .next (((hits.foldl State.placeExtent s).setDie s.inp.die x).logMore s.inp.die (s.die s.inp.die).logWait.length) := by
    rw [hx]
    exact ⟨_, rfl⟩
  refine ⟨_, he, ?_, fun hw => ?_⟩
  · rw [State.logCons_logMore, State.die_setDie, hx]
  · rw [hw]
    refine ⟨?_, ?_⟩
    · show (hits.foldl State.placeExtent s).mem = s.mem
      rw [State.placeExtents_only]
    · show (((hits.foldl State.placeExtent s).setDie s.inp.die x).die s.inp.die).logProd = _
      rw [State.die_setDie, hx]

end faultLog

end Sys2Proof.Machine

/-! PROOF. What the supervisor decides for a frozen cluster (spec/10_determinism_and_reliability.md R236, R238), and the life of a launch. -/
namespace Sys2Proof.Machine

/-! ### A relaunch (R236, R48) -/

/-- A group at a checkpoint, with nothing under way and no context. -/
def Group.standsAt (g : Group) (c : Ckpt) : Prop := g.ckpt = some c ∧ g.live = false ∧ g.outs = [] ∧ g.copies = []

section relaunch
variable (s : State)

@[simp] theorem State.group_countLive (r : Rec) (n k : Nat) : (s.countLive r n).group k = s.group k := rfl
@[simp] theorem State.cluster_countLive (r : Rec) (n k : Nat) : (s.countLive r n).cluster k = s.cluster k := rfl

theorem State.sameButGroups_dropCopies (gid : Nat) : s.sameButGroups (s.dropCopies gid) :=
  State.sameButGroups_trans (State.sameButGroups_of_units
    (State.sameButUnits_foldl (fun s (c : Copy) => s.sameButUnits_dropLines c.lines) (s.group gid).copies s)) rfl

theorem State.sameButCopies_dropCopies (gid : Nat) : s.sameButCopies (s.dropCopies gid) := fun k => by
  have hu := State.group_of_sameButUnits (State.sameButUnits_foldl (fun s (c : Copy) => s.sameButUnits_dropLines c.lines) (s.group gid).copies s)
  unfold State.dropCopies
  dsimp only
  by_cases hk : k = gid
  · rw [hk, State.group_setGroup, hu]
  · rw [State.group_setGroup_ne _ _ _ _ hk, hu]

/-- A group leaves its engine and its slot, when it has a context. -/
def State.leaveSlot (s : State) (gid : Nat) : State :=
  if (s.group gid).live then (((s.dropEngine gid).releaseA gid).dropMonitors gid).freeBands gid else s

theorem State.leaveSlot_spec (gid : Nat) : s.sameButGroups (s.leaveSlot gid) ∧ ∀ k, k ≠ gid → (s.leaveSlot gid).group k = s.group k := by
  have hu : s.sameButUnits (((s.dropEngine gid).releaseA gid).dropMonitors gid) :=
    State.sameButUnits_trans (s.sameButUnits_dropEngine gid) (State.sameButUnits_trans (State.sameButUnits_releaseA _ gid)
      (State.sameButUnits_dropMonitors _ gid))
  obtain ⟨hf, hne, -⟩ := (((s.dropEngine gid).releaseA gid).dropMonitors gid).freeBands_spec gid
  unfold State.leaveSlot
  split
  · exact ⟨State.sameButGroups_trans (State.sameButGroups_of_units hu) hf, fun k hk => (hne k hk).trans (State.group_of_sameButUnits hu k)⟩
  · exact ⟨rfl, fun _ _ => rfl⟩

/-- A group goes back to the start of its team; the other groups stay as they are. -/
theorem State.restartGroup_spec (gid : Nat) : s.sameButGroups (s.restartGroup gid)
    ∧ (∀ k, k ≠ gid → (s.restartGroup gid).group k = s.group k)
    ∧ ((s.restartGroup gid).group gid).standsAt (startCkpt (s.launchOf gid) (newer (s.group gid).replay (s.group gid).wserial)) := by
  obtain ⟨b, hb⟩ : ∃ b, b = (s.dropPasses gid).leaveSlot gid := ⟨_, rfl⟩
  have hp := s.sameButUnits_dropPasses gid
  obtain ⟨hl, hne⟩ := (s.dropPasses gid).leaveSlot_spec gid
  rw [← hb] at hl hne
  have hsb : s.sameButGroups b := State.sameButGroups_trans (State.sameButGroups_of_units hp) hl
  obtain ⟨d, x, g, he, hg⟩ : ∃ d x g, s.restartGroup gid = (b.setDie d x).setGroup gid g
      ∧ g.standsAt (startCkpt (b.launchOf gid) (newer (s.group gid).replay (s.group gid).wserial)) := by
    rw [hb, State.leaveSlot, State.group_of_sameButUnits hp]
    exact ⟨_, _, _, rfl, rfl, rfl, rfl, rfl⟩
  rw [State.launchOf_of_sameButGroups hsb] at hg
  rw [he]
  refine ⟨State.sameButGroups_trans hsb rfl, fun k hk => ?_, ?_⟩
  · rw [State.group_setGroup_ne _ _ _ _ hk]
    exact (hne k hk).trans (State.group_of_sameButUnits hp k)
  · rw [State.group_setGroup]
    exact hg

/-- Every group of a list goes back to the start of its team. -/
theorem State.restartAll_spec {l : List Nat} (hn : l.Nodup) : s.sameButGroups (l.foldl State.restartGroup s)
    ∧ ∀ g ∈ l, ((l.foldl State.restartGroup s).group g).standsAt
        (startCkpt (s.launchOf g) (newer (s.group g).replay (s.group g).wserial)) := by
  refine ⟨State.sameButGroups_foldl (fun s g => (s.restartGroup_spec g).1) l s, fun g hg => ?_⟩
  refine foldl_turn (f := State.restartGroup) (I := fun t : State => s.sameButGroups t ∧ t.group g = s.group g)
    (P := fun t : State => (t.group g).standsAt (startCkpt (s.launchOf g) (newer (s.group g).replay (s.group g).wserial)))
    hg (fun t k hk ⟨ht, htg⟩ => ?_) (fun t ⟨ht, htg⟩ => ?_) (fun t k hk ht => ?_) ⟨rfl, rfl⟩
  · obtain ⟨hsame, hne, -⟩ := t.restartGroup_spec k
    exact ⟨State.sameButGroups_trans ht hsame, (hne g (Ne.symm hk)).trans htg⟩
  · obtain ⟨-, -, hst⟩ := t.restartGroup_spec g
    rwa [State.launchOf_of_sameButGroups ht, htg] at hst
  · obtain ⟨-, hne, -⟩ := t.restartGroup_spec k
    rwa [hne g (Ne.symm (hn.mem_erase_iff.1 hk).1)]

theorem State.sameButCopies_dropAll (l : List Nat) : s.sameButCopies (l.foldl State.dropCopies s) :=
  List.foldlRecOn l _ (motive := s.sameButCopies) (fun _ => rfl) fun _ ht a _ => State.sameButCopies_trans ht (State.sameButCopies_dropCopies _ a)

/-- A group without a context stands where it stood, whichever contexts are freed. -/
theorem State.standsAt_freeBands {k : Nat} {c : Ckpt} (gid : Nat) (h : (s.group k).standsAt c) : ((s.freeBands gid).group k).standsAt c := by
  obtain ⟨-, hne, heq⟩ := s.freeBands_spec gid
  by_cases hk : k = gid
  · obtain ⟨hc, -, ho, hcp⟩ := h
    subst hk
    rw [heq]
    exact ⟨hc, rfl, ho, hcp⟩
  · rwa [hne k hk]

/-- The units of a team go back to its core. -/
def State.leaveUnits (s : State) (tk : Nat) : State :=
  (s.freeUnits (s.team tk).core (s.team tk).units).setTeam tk { s.team tk with units := [], resident := false }

/-- A cluster that gives back its places is pending; its groups stand where they stood. -/
theorem State.vacate_spec (ck : Nat) : (s.vacate ck).cluster ck =
      { s.cluster ck with state := .pending, resumed := true, since := s.now, blocking := none }
    ∧ ∀ k c, (s.group k).standsAt c → ((s.vacate ck).group k).standsAt c := by
  obtain ⟨a, ha⟩ : ∃ a, a = (s.liveGroups ck).foldl State.freeBands s := ⟨_, rfl⟩
  obtain ⟨l, b, hb, he⟩ : ∃ l b, b = List.foldl State.leaveUnits a l ∧ s.vacate ck =
      b.setCluster ck { b.cluster ck with state := .pending, resumed := true, since := b.now, blocking := none } := by
    rw [ha]
    exact ⟨_, _, rfl, rfl⟩
  have hsa : s.sameButGroups a := ha ▸ State.sameButGroups_foldl (fun s g => (s.freeBands_spec g).1) _ s
  have hab : a.sameButUnits b := hb ▸ State.sameButUnits_foldl (f := State.leaveUnits) (fun _ _ => rfl) l a
  have hsb : s.sameButGroups b := State.sameButGroups_trans hsa (State.sameButGroups_of_units hab)
  rw [he]
  refine ⟨?_, fun k c hk => ?_⟩
  · rw [State.cluster_setCluster, State.cluster_of_sameButGroups hsb, show b.now = s.now from by rw [hsb]]
  · show (b.group k).standsAt c
    rw [State.group_of_sameButUnits hab, ha]
    exact List.foldlRecOn _ _ (motive := fun t : State => (t.group k).standsAt c) hk fun t ht g _ => t.standsAt_freeBands g ht

/-- The cluster is pending again, and its groups stand at the start of their teams. -/
theorem State.relaunch_spec (ck : Nat) (x : Snapshot) (hn : ((s.teamsOf ck).flatMap s.groupsOf).Nodup) :
    ((s.relaunch ck x).cluster ck).state = .pending ∧ ((s.relaunch ck x).cluster ck).resumed = true
      ∧ ((s.relaunch ck x).cluster ck).relaunches = (s.cluster ck).relaunches + 1 ∧ ((s.relaunch ck x).cluster ck).snap = none
      ∧ ∀ g ∈ (s.teamsOf ck).flatMap s.groupsOf, ((s.relaunch ck x).group g).standsAt
          (startCkpt (s.launchOf g) (newer (s.group g).replay (s.group g).wserial)) := by
  obtain ⟨gs, hgs⟩ : ∃ gs, gs = (s.teamsOf ck).flatMap s.groupsOf := ⟨_, rfl⟩
  rw [← hgs] at hn ⊢
  obtain ⟨a, ha⟩ : ∃ a, a = gs.foldl State.dropCopies s := ⟨_, rfl⟩
  obtain ⟨b, hb⟩ : ∃ b, b = gs.foldl State.restartGroup a := ⟨_, rfl⟩
  obtain ⟨c, hc⟩ : ∃ c, c = (s.teamsOf ck).foldl State.restartTeam b := ⟨_, rfl⟩
  obtain ⟨y, r, he, hrel, hsnap⟩ : ∃ y r, s.relaunch ck x = ((c.setCluster ck y).vacate ck).countLive r
      ∧ y.relaunches = (c.cluster ck).relaunches + 1 ∧ y.snap = none := by
    rw [hc, hb, ha, hgs]
    exact ⟨_, _, rfl, rfl, rfl⟩
  have hsa : s.sameButGroups a := ha ▸ State.sameButGroups_foldl State.sameButGroups_dropCopies gs s
  have hcopies : s.sameButCopies a := ha ▸ s.sameButCopies_dropAll gs
  obtain ⟨hab, hstart⟩ := a.restartAll_spec hn
  rw [← hb] at hab hstart
  have hbc : b.sameButUnits c := hc ▸ State.sameButUnits_foldl State.sameButUnits_restartTeam _ b
  have hck : c.cluster ck = s.cluster ck :=
    State.cluster_of_sameButGroups (State.sameButGroups_trans hsa (State.sameButGroups_trans hab (State.sameButGroups_of_units hbc))) ck
  obtain ⟨hv, hg⟩ := (c.setCluster ck y).vacate_spec ck
  rw [State.cluster_setCluster] at hv
  rw [he, State.cluster_countLive, hv]
  refine ⟨rfl, rfl, hrel.trans (by rw [hck]), hsnap, fun g hgm => ?_⟩
  rw [State.group_countLive]
  refine hg g _ ?_
  show (c.group g).standsAt _
  rw [State.group_of_sameButUnits hbc]
  have := hstart g hgm
  rwa [State.launchOf_of_sameButGroups hsa, hcopies g] at this

end relaunch

/-! ### The decision (R236, R238) -/

section decision
variable {s : State} {x : Snapshot}

theorem State.quadOut_only (s : State) (q : Nat) : ∃ d, s.quadOut q = { s with dies := d } := by
  unfold State.quadOut
  dsimp only
  split
  · exact ⟨s.dies, rfl⟩
  · exact ⟨_, rfl⟩

/-- A cluster is relaunched when its launch allows it, none of its teams has committed, and it was relaunched fewer than three times. -/
def State.mayRelaunch (s : State) (ck : Nat) : Bool :=
  (s.launch (s.cluster ck).handle).relaunch && !s.committed ck && (s.cluster ck).relaunches < 3

theorem State.mayRelaunch_iff (s : State) (ck : Nat) : s.mayRelaunch ck = true ↔
    (s.launch (s.cluster ck).handle).relaunch = true ∧ s.committed ck = false ∧ (s.cluster ck).relaunches < 3 := by
  simp [State.mayRelaunch, and_assoc]

/-- A frozen cluster of a running launch: relaunched, or the end of its launch. -/
theorem execSupervisorDecision_eq (hx : (s.cluster s.inp.ck).snap = some x) (hf : (s.cluster s.inp.ck).state = .frozen)
    (hr : (s.launch (s.cluster s.inp.ck).handle).state = .running) : ∃ d, execSupervisorDecision s = .next
      (if s.mayRelaunch s.inp.ck then ({ s with dies := d } : State).relaunch s.inp.ck x
        else ({ s with dies := d } : State).endUncorrectable s.inp.ck x) := by
  obtain ⟨d, hd⟩ : ∃ d, (if x.source = 9 then s.quadOut (s.quadOf x.gid) else s) = { s with dies := d } := by
    split
    · exact s.quadOut_only _
    · exact ⟨s.dies, rfl⟩
  refine ⟨d, ?_⟩
  unfold execSupervisorDecision
  dsimp only
  rw [hx]
  dsimp only
  rw [State.when_pos (by simp [hf, hr]), hd]
  rfl

/-- The launch ends with UNCORRECTABLE, TEAM the consuming team (R238). -/
theorem State.endUncorrectable_spec (ck : Nat) (hr : (s.launch (s.cluster ck).handle).state = .running) :
    (s.endUncorrectable ck x).launch (s.cluster ck).handle = { s.launch (s.cluster ck).handle with
      state := .ending, cause := 0x15, team := teamIndex (groupTeam x.gid) } := by
  obtain ⟨t, ht⟩ : ∃ t : TrapState, (s.endUncorrectable ck x).launches =
      ((s.fatal x.gid t).endLaunch (s.cluster ck).handle 0x15 (teamIndex (groupTeam x.gid))).launches := ⟨_, rfl⟩
  have hl : (s.fatal x.gid t).launch (s.cluster ck).handle = s.launch (s.cluster ck).handle := s.launch_log ..
  obtain ⟨hend, -⟩ := (s.fatal x.gid t).endLaunch_open (s.cluster ck).handle 0x15 (teamIndex (groupTeam x.gid)) (.inr (by rw [hl, hr]))
  rw [hl] at hend
  rw [State.launch, ht]
  exact hend

end decision

/-- Settles O49: each clause is the lemma of its event above. -/
theorem launchLife : Obligations.LaunchLife := by
  intro s i h l
  refine ⟨execLaunchDispatch_none s, fun hh => ?_, fun d c hq hd ha => execDependenceAnswer_spec s hq hd ha,
    fun d => ⟨s.depAnswer_none_iff d, s.depAnswer_ended, s.depAnswer_unknown⟩, execWatchdogExpiry_ends s,
    fun _ => execWatchdogExpiry_none s, fun he hd => ?_, execLaunchEnd_draining s, ?_, execFaultLogConsume_spec s, fun x hx hf => ?_⟩
  · obtain ⟨k, hk, hmem, hfirst⟩ := execLaunchDispatch_eq s hh
    obtain ⟨hstate, hprio, hqueue, hclusters⟩ := s.dispatch_spec k
    exact ⟨_, k, hk, hmem, hfirst, hstate, hprio, hqueue, fun c hc => by rw [hclusters c hc]; exact ⟨rfl, rfl, rfl, rfl⟩⟩
  · obtain ⟨t, ht, hstate, hat, hcause, hmem, hgroups, hteams, hclusters, howners, hans, hnotices⟩ := execLaunchEnd_spec s he hd
    exact ⟨t, ht, hstate, hat, hcause, hmem, hgroups, hteams, hclusters, fun o ho => (howners o ho).1, hans, hnotices⟩
  · intro w
    refine ⟨s.writeDone_zero h, fun hz t ht => ⟨s.writeDone_written h hz ht, fun p hp hfar hrem hback => ?_⟩, s.writeDone_logged h⟩
    rw [s.rdBytes_unitWrite ht hp hfar hrem hback, toNat_completionWord]
    have hlt := h.isLt
    omega
  · intro c k gs again hr
    obtain ⟨d, hd⟩ := execSupervisorDecision_eq hx hf hr
    refine ⟨fun ha hn => ?_, fun hna => ?_⟩
    · rw [if_pos ((s.mayRelaunch_iff i.ck).2 ha)] at hd
      obtain ⟨h1, h2, h3, h4, h5⟩ := State.relaunch_spec { s with dies := d } i.ck x hn
      exact ⟨_, hd, h1, h2, h3, h4, h5⟩
    · rw [if_neg fun hm => hna ((s.mayRelaunch_iff i.ck).1 hm)] at hd
      have hend := State.endUncorrectable_spec (s := { s with dies := d }) (x := x) i.ck hr
      exact ⟨_, hd, congrArg Launch.state hend, congrArg Launch.cause hend, congrArg Launch.team hend⟩

end Sys2Proof.Machine

/-! PROOF. A step runs the instruction that its turn names (spec/04_scheduler.md R91, spec/12_formats_and_opcode_map.md R255, R270,
spec/03_control_cores_and_launch.md R52, R58, spec/01_package_and_bringup.md R23, R25). -/
namespace Sys2Proof.Machine

/-! ### Every row of an event answers a next state -/

/-- The outcome is a next state. -/
def Answers (o : Out) : Prop := ∃ t, o = .next t

theorem answers_next (t : State) : Answers (.next t) := ⟨t, rfl⟩

theorem answers_map {o : Out} (h : Answers o) (f : State → State) : Answers (o.map f) := by
  obtain ⟨t, rfl⟩ := h
  exact answers_next (f t)

/-- A park that ends answers when the word that it wakes does. -/
theorem State.answers_wake (s : State) (ok : Instr → Bool) {go : Wait → State → Out} (hgo : ∀ w t, Answers (go w t)) :
    Answers (s.wake ok go) := by
  unfold State.wake
  dsimp only
  split
  · split
    · exact answers_map (hgo _ _) _
    · exact answers_next _
  · exact answers_next _

section rows
variable (s : State)

/-- So does a `WAITA` that reads again. -/
theorem State.answers_waitaAgain (poll : Bool) (first : State → State) (sel : State → XM → Wait → Lanes) :
    Answers (s.waitaAgain poll first sel) :=
  s.answers_wake _ fun w t => by split <;> exact answers_next _

theorem answers_execWaitaPoll : Answers (execWaitaPoll s) := by
  unfold execWaitaPoll
  dsimp only
  split
  · exact s.answers_waitaAgain _ _ _
  · exact answers_next _

theorem answers_execSvcReply : Answers (execSvcReply s) := by
  unfold execSvcReply
  dsimp only
  split
  · exact answers_next _
  · split
    · exact answers_next _
    · split
      · exact answers_next _
      · exact State.answers_wake _ _ fun w t => by split <;> exact answers_next _

end rows

/-- Every row of an event answers a next state: at once, or by one or two case distinctions, or as the word does that it wakes; a word is
no row of an event. -/
theorem exec_event_answers (s : State) (e : Instr) : encode e = none → Answers (exec e s) := by
  cases e
  case powerGood | sheetSelfCalibrate | d2dLinkTrain | lpddrTrain | lpddrInit | ndenathLinkTrain | firmwareServicesStart |
    readySet | stageLimitExceeded | thermalTrip | coolantOutOfRange | rollbackRaise | lpddrDqRetrain | d2dRetry | dieLinkFailure |
    mgmtQuery | mgmtWarmReset | mgmtDrop | resetRegisterWrite | governorWindow | operatingPointChangeDone | fieldRecordFlush | scrub |
    ethFrameReceive | ethFrameTransmit | cxlLinkTrain | cxlDeviceRemoved | ndenathPortStateChange | flitReceive | loadRequest |
    loadReply | watermarkedRequest | resultReply | busyReply | unknownReply | releaseNotice | releaseNoticeLaunchEnd | copyWriteChunk |
    copyReadRequest | copyAck | requesterReleaseNotice | launchEndMarkExpiry | ownerRestart | clineRequest | launchEnd | watchdogExpiry |
    faultLogConsume | invalidatePage | invalidateContext | invalidateAll | ordsizeWrite | registerWrite | clusterPlace |
    clusterBlocking | victimPreempt | clusterMove | deterministicPreempt | clusterPreempt | preemptRelease | backgroundClearDone |
    passIdleEnd | quantumExpiry | starvationSwitch | yieldBundle | registerWriteback | presenceWake | glintReplay |
    uncorrectableConsume | controlCoreHwError | powerLoss | ethLinkStateChange | cxlLinkDown => exact fun _ => answers_next _
  case imageVerify | requestRetransmit | scheduleExhausted | busyResend | releaseNoticeResend | ownerRestore | quarantineEnd |
    launchDispatch | dependenceAnswer | copyFaultRetry | copyFaultFail | invalidateComplete | ordsizeTakeEffect | enginePassGrant |
    matrixPassRetire | tileOpExecute | copyChunkLand | supervisorDecision =>
    intro _
    dsimp only [exec, execImageVerify, execRequestRetransmit, execScheduleExhausted, execBusyResend, execReleaseNoticeResend,
      execOwnerRestore, execQuarantineEnd, execLaunchDispatch, execDependenceAnswer, execCopyFaultRetry, execCopyFaultFail,
      execInvalidateComplete, execOrdsizeTakeEffect, execEnginePassGrant, execMatrixPassRetire, execTileOpExecute, execCopyChunkLand,
      execSupervisorDecision]
    split <;> exact answers_next _
  case heldDrain | copyComplete | copyChunkRetransmit =>
    intro _
    dsimp only [exec, execHeldDrain, execCopyComplete, execCopyChunkRetransmit]
    split
    · exact answers_next _
    · split <;> exact answers_next _
  case fullEmptyWake | barrierDeparture | waitcRelease | queueVectorWake | qsndRoomWake | ordwaitRelease | obrelComplete =>
    intro _
    dsimp only [exec, execFullEmptyWake, execBarrierDeparture, execWaitcRelease, execQueueVectorWake, execQsndRoomWake,
      execOrdwaitRelease, execObrelComplete]
    exact s.answers_wake _ fun w t => by split <;> exact answers_next _
  case waitaMonitorReread =>
    intro _
    dsimp only [exec, execWaitaMonitorReread]
    exact s.answers_waitaAgain _ _ _
  case waitaPoll => exact fun _ => answers_execWaitaPoll s
  case svcReply => exact fun _ => answers_execSvcReply s
  all_goals exact fun h => absurd h (Option.some_ne_none _)

/-! ### A turn -/

section turns
variable {s : State} {rest : List Turn}

/-- The state in which the next turn acts. -/
def State.begins (s : State) (rest : List Turn) : State := { s with sched := rest, fresh := s.fresh + 1 }

theorem step_of_sched {t : Turn} (h : s.sched = t :: rest) : step s = ((s.begins rest).turn t).map (s.begins rest).keepReserved := by
  unfold step
  rw [h]
  rfl

@[simp] theorem State.running_begins (s : State) (rest : List Turn) : (s.begins rest).running = s.running := rfl

theorem State.hartRuns_iff (u : State) (n : Nat) : u.hartRuns n = true ↔ n < 16 ∧ (u.die (n / 4)).stage = 9 := by
  simp only [State.hartRuns, Bool.and_eq_true, decide_eq_true_eq, beq_iff_eq]
  exact Iff.rfl

/-- In a package that does not run, slots and control cores stand still. -/
theorem step_stopped {n : Nat} (hr : s.running = false) (h : s.sched = .slot n :: rest ∨ s.sched = .hart n :: rest) :
    step s = Out.map (.next (s.begins rest)) (s.begins rest).keepReserved := by
  rcases h with h | h
  · rw [step_of_sched h, State.turn, if_neg (by simp [hr])]
  · rw [step_of_sched h, State.turn, if_neg (by simp [hr])]

theorem step_slot {n : Nat} (hr : s.running = true) (h : s.sched = .slot n :: rest) :
    step s = ((s.begins rest).slotTurn n).map (s.begins rest).keepReserved := by
  rw [step_of_sched h, State.turn, if_pos (by simpa using hr)]

/-- A core whose die has not finished stage 0x8 executes no word. -/
theorem step_hart_rom {n : Nat} (h : s.sched = .hart n :: rest) (hs : (s.die (n / 4)).stage ≠ 9) :
    step s = Out.map (.next (s.begins rest)) (s.begins rest).keepReserved := by
  have hno : ¬ (s.begins rest).hartRuns n = true := fun hh => hs (((s.begins rest).hartRuns_iff n).1 hh).2
  rw [step_of_sched h, State.turn, if_neg (by simp [hno])]

theorem step_hart {n : Nat} (hr : s.running = true) (h : s.sched = .hart n :: rest) (hn : n < 16) (hs : (s.die (n / 4)).stage = 9) :
    step s = ((s.begins rest).hartTurn n).map (s.begins rest).keepReserved := by
  have hruns : (s.begins rest).hartRuns n = true := ((s.begins rest).hartRuns_iff n).2 ⟨hn, hs⟩
  rw [step_of_sched h, State.turn, if_pos (by simp [hr, hruns])]

theorem view_of_encode_none {e : Instr} (h : encode e = none) : e.view = .event := by
  unfold encode at h
  split at h
  case h_8 hv => exact hv
  all_goals exact absurd h (Option.some_ne_none _)

theorem step_event {e : Instr} {inp : Input} (h : s.sched = .event e inp :: rest) (he : encode e = none) :
    step s = Out.map (if (s.begins rest).running || alwaysOn e then exec e { s.begins rest with inp, iss := {} } else .next (s.begins rest))
      (s.begins rest).keepReserved := by
  rw [step_of_sched h, State.turn]
  simp only [view_of_encode_none he]

end turns

/-! ### A slot's turn, and a bundle (R91, R255, R270) -/

section bundles
variable (u : State) {n gid : Nat} {w : BitVec 64}

/-- `o` is what a bundle of the group answers, when the word fetched is `w`. -/
def State.RunsWord (u : State) (gid : Nat) (w : BitVec 64) (o : Out) : Prop :=
  (∀ i, decode w = .ok i → o = Out.map (exec i (u.inHand gid)) State.finishIssue)
    ∧ (decode w = .error .illegalOpcode → o = .next ((u.inHand gid).takeTrap 1 (u.inHand gid).iss.run 0 w).finishIssue)
    ∧ (decode w = .error .reservedField → o = .next ((u.inHand gid).takeTrap 2 (u.inHand gid).iss.run 0 w).finishIssue)

theorem State.bundle_of_word (h : u.fetch gid (u.group gid).nextPc = .word w) :
    u.bundle gid = ((u.inHand gid).runWord w).map State.finishIssue := by
  have hf : u.fetch gid (u.issueOf gid).pc = .word w := h
  unfold State.bundle
  simp only [hf]

theorem State.runsWord_bundle (h : u.fetch gid (u.group gid).nextPc = .word w) : u.RunsWord gid w (u.bundle gid) := by
  rw [u.bundle_of_word h, State.RunsWord]
  refine ⟨fun i hi => ?_, fun he => ?_, fun he => ?_⟩
  · simp only [State.runWord, hi]
  · simp only [State.runWord, he]; rfl
  · simp only [State.runWord, he]; rfl

/-- A slot's current group that is awake and alone in the slot is all that the slot's turn looks at. -/
theorem State.candidates_alone (hr : u.residents n = [gid]) (ha : u.awake gid = true) (hc : (u.slot n).cur = some gid) :
    u.candidates n = [gid] := by
  simp [State.candidates, hc, hr, ha]

/-- Of a group alone, whose bundle does something, the survey changes nothing. -/
theorem State.survey_moved (hf : u.fetch gid (u.group gid).nextPc = .word w) (hm : u.moved gid (u.bundle gid) = true) :
    u.survey [gid] = (u, [gid]) := by
  have hf : u.fetch gid (u.issueOf gid).pc = .word w := hf
  simp [State.survey, hf, hm]

/-- The slot keeps its current group while that is ready and its quantum has not ended (R91). -/
theorem State.pick_current (hc : (u.slot n).cur = some gid) (he : (u.slot n).expired = false) : u.pick n [gid] = some gid := by
  simp [State.pick, hc, he, Option.filter]

theorem State.switchTo_current (hc : (u.slot n).cur = some gid) (he : (u.slot n).expired = false) : u.switchTo n gid = u := by
  simp [State.switchTo, hc, he]

/-- The turn of a slot whose current group is alone and ready is a bundle of that group. -/
theorem State.slotTurn_current (hr : u.residents n = [gid]) (ha : u.awake gid = true) (hc : (u.slot n).cur = some gid)
    (he : (u.slot n).expired = false) (hf : u.fetch gid (u.group gid).nextPc = .word w) (hm : u.moved gid (u.bundle gid) = true) :
    u.slotTurn n = u.bundle gid := by
  unfold State.slotTurn
  rw [u.candidates_alone hr ha hc, u.survey_moved hf hm]
  dsimp only
  rw [u.pick_current hc he]
  dsimp only
  rw [u.switchTo_current hc he]

theorem State.slotTurn_picked (h : (u.survey (u.candidates n)).1.pick n (u.survey (u.candidates n)).2 = some gid) :
    u.slotTurn n = ((u.survey (u.candidates n)).1.switchTo n gid).bundle gid := by
  simp only [State.slotTurn, h]

theorem State.slotTurn_idle (h : (u.survey (u.candidates n)).1.pick n (u.survey (u.candidates n)).2 = none) :
    u.slotTurn n = .next (u.survey (u.candidates n)).1 := by
  simp only [State.slotTurn, h]

end bundles

/-! ### A control core's turn (R52, R53, R58) -/

section harts
variable (u : State) {n : Nat}

theorem State.hartTurn_interrupt {h : Hart} (hi : u.interrupt n = some h) : u.hartTurn n = .next (u.setHart n h) := by
  simp only [State.hartTurn, hi]

theorem State.hartTurn_kelren {w : Nat} {i : Instr} (hi : u.interrupt n = none) (hw : u.hartWord (u.hart n) = .word w)
    (hd : decodeHart (BitVec.ofNat 32 w) = some i) : u.hartTurn n = exec i { u with iss := { hart := n } } := by
  simp only [State.hartTurn, hi, hw, hd]

theorem State.hartTurn_base {w : Nat} (hi : u.interrupt n = none) (hw : u.hartWord (u.hart n) = .word w)
    (hd : decodeHart (BitVec.ofNat 32 w) = none) : u.hartTurn n = u.hartBase n (u.hart n) w := by
  simp only [State.hartTurn, hi, hw, hd]

end harts

/-- Settles O58: a turn is what the equations of the slot, the bundle, the core and the event above say, and the step takes it. -/
theorem stepRuns : Obligations.StepRuns := by
  intro s rest u kept bundle
  refine ⟨fun hr n h => step_stopped hr h, fun hr n h => ⟨fun gid hg => ?_, fun hn => ?_, fun gid w hres ha hc he hf hm => ?_⟩,
    fun gid w hf => u.runsWord_bundle hf, fun n h hs => step_hart_rom h hs,
    fun hr n h hn hs => ⟨fun x hi => ?_, fun hi w hw => ⟨fun i hd => ?_, fun hd => ?_⟩⟩,
    fun e inp h he hr ha => ?_, fun e inp h he hr => ?_, fun e he => exec_event_answers s e he⟩
  · exact (step_slot hr h).trans (congrArg kept (u.slotTurn_picked hg))
  · exact (step_slot hr h).trans (congrArg kept (u.slotTurn_idle hn))
  · exact ⟨u.bundle gid, (step_slot hr h).trans (congrArg kept (u.slotTurn_current hres ha hc he hf hm)), u.runsWord_bundle hf⟩
  · exact (step_hart hr h hn hs).trans (congrArg kept (u.hartTurn_interrupt hi))
  · exact (step_hart hr h hn hs).trans (congrArg kept (u.hartTurn_kelren hi hw hd))
  · exact (step_hart hr h hn hs).trans (congrArg kept (u.hartTurn_base hi hw hd))
  · exact (step_event h he).trans (congrArg kept (if_neg (by simp [hr, ha])))
  · exact (step_event h he).trans (congrArg kept (if_pos (by simpa using hr)))

end Sys2Proof.Machine

/-! PROOF. Passes of the engine and the turns of a slot (spec/04_scheduler.md R88 to R91, R93,
spec/10_determinism_and_reliability.md R229, R231). -/
namespace Sys2Proof.Machine

/-! ### The grant of a pass (R89) -/

section grant
variable (s : State)

theorem State.passBefore_asymm (a b : PassReq) (h : s.passBefore a b = true) : s.passBefore b a = false := by
  simp only [State.passBefore, Bool.or_eq_true, Bool.and_eq_true, decide_eq_true_eq, beq_iff_eq, Bool.or_eq_false_iff,
    Bool.and_eq_false_iff, decide_eq_false_iff_not, beq_eq_false_iff_ne] at h ⊢
  omega

theorem State.passBefore_negTrans (a b c : PassReq) (h : s.passBefore a b = false) (k : s.passBefore b c = false) :
    s.passBefore a c = false := by
  simp only [State.passBefore, Bool.or_eq_false_iff, Bool.and_eq_false_iff, decide_eq_false_iff_not, beq_eq_false_iff_ne] at h k ⊢
  omega

/-- The pass that a group is granted, with its lease. -/
def State.newPass (s : State) (gid : Nat) : Pass := { gid, left := (s.launchOf gid).lease, readyAt := s.now, ops := [], locked := [] }

/-- The engine in a pass, which every other entry of its table has lost. -/
def Quad.inPass (x : Quad) (p : Pass) : Quad :=
  { x with pass := some p, table := x.table.map fun y => if y.gid = p.gid then y else { y with lost := y.lost + 1 } }

/-- The engine goes to an entry that no other precedes; the turn of a group that stands still ends at once. -/
theorem execEnginePassGrant_spec (hp : (s.quad s.inp.quad).pass = none) (ht : (s.quad s.inp.quad).table ≠ []) :
    ∃ t e, execEnginePassGrant s = .next t ∧ e ∈ (s.quad s.inp.quad).table ∧ (∀ y ∈ (s.quad s.inp.quad).table, s.passBefore y e = false)
      ∧ t.quad s.inp.quad = if (s.group e.gid).stopped then ((s.quad s.inp.quad).inPass (s.newPass e.gid)).endTurn (s.newPass e.gid) s.now
        else (s.quad s.inp.quad).inPass (s.newPass e.gid) := by
  obtain ⟨a, rest, hr⟩ := List.exists_cons_of_ne_nil ht
  obtain ⟨hmem, hfirst⟩ := foldl_first s.passBefore_asymm s.passBefore_negTrans rest a
  rw [← hr] at hmem hfirst
  refine ⟨_, _, ?_, hmem, hfirst, s.quad_setQuad s.inp.quad _⟩
  unfold execEnginePassGrant
  dsimp only
  rw [hr]
  dsimp only
  rw [State.when_pos (by rw [hp]; rfl), ← hr]
  rfl

/-- The engine is not granted while a pass is in force. -/
theorem execEnginePassGrant_busy (hp : (s.quad s.inp.quad).pass.isSome = true) : execEnginePassGrant s = .next s := by
  unfold execEnginePassGrant
  dsimp only
  split
  · rfl
  · exact State.when_neg (by simpa using hp)

theorem Quad.endTurn_eq (x : Quad) (p : Pass) (now : Nat) : x.endTurn p now = Quad.letIn { x with
    pass := none, past := (if p.ops = [] then x.past else x.past ++ [p]), table := x.table.filter fun e => e.gid != p.gid } now := by
  simp [Quad.endTurn]

/-! ### A pass that is idle (R89) -/

theorem execPassIdleEnd_idle {p : Pass} (hp : (s.quad s.inp.quad).pass = some p)
    (hl : 64 ≤ s.cyclesOf (s.inp.quad / Config.quads) (s.now - p.readyAt)) (hr : s.engineReady p.gid = false) :
    execPassIdleEnd s = .next (s.setQuad s.inp.quad ((s.quad s.inp.quad).endTurn p s.now)) := by
  simp [execPassIdleEnd, State.endIdle, hp, hl, hr]

theorem execPassIdleEnd_ready {p : Pass} (hp : (s.quad s.inp.quad).pass = some p) (hr : s.engineReady p.gid = true) :
    execPassIdleEnd s = .next s := by
  simp [execPassIdleEnd, State.endIdle, hp, hr]

end grant

/-! ### Spare columns (R229, R231) -/

section spares
variable (s : State)

/-- A residue mismatch that takes a spare column. -/
def State.useSpare (s : State) (q : Nat) : State :=
  ((s.residueAt q).setQuad q { s.quad q with spares := (s.quad q).spares + 1 }).count (.sparesUsed q)

theorem State.takeSpares_succ (q n : Nat) : s.takeSpares q (n + 1) =
    if (s.quad q).spares < 2 then (s.useSpare q).takeSpares q n else (s.residueAt q, false) := rfl

theorem State.quad_useSpare (q : Nat) : (s.useSpare q).quad q = { s.quad q with spares := (s.quad q).spares + 1 } :=
  (s.residueAt q).quad_setQuad q _

/-- The spare columns suffice when those in use and the mismatches are at most two. -/
theorem State.takeSpares_iff (q n : Nat) : (s.takeSpares q n).2 = true ↔ n = 0 ∨ (s.quad q).spares + n ≤ 2 := by
  induction n generalizing s with
  | zero => simp [State.takeSpares]
  | succ n ih =>
    rw [State.takeSpares_succ]
    split
    · rw [ih, State.quad_useSpare]
      dsimp only
      omega
    · simp only [Bool.false_eq_true, false_iff]
      omega

/-- The package but for its quads, its dies and its records is as it was. -/
def State.sameButSpares (s t : State) : Prop := t = { s with quads := t.quads, dies := t.dies, live := t.live, fieldNow := t.fieldNow }

theorem State.sameButSpares_trans {s t u : State} (h : s.sameButSpares t) (k : t.sameButSpares u) : s.sameButSpares u := by
  unfold State.sameButSpares at *
  rw [k, h]

theorem State.sameButSpares_residueAt (q : Nat) : s.sameButSpares (s.residueAt q) := rfl

theorem State.sameButSpares_useSpare (q : Nat) : s.sameButSpares (s.useSpare q) := rfl

theorem State.sameButSpares_takeSpares (q n : Nat) : s.sameButSpares (s.takeSpares q n).1 := by
  induction n generalizing s with
  | zero => rfl
  | succ n ih =>
    rw [State.takeSpares_succ]
    split
    · exact State.sameButSpares_trans (s.sameButSpares_useSpare q) (ih _)
    · exact s.sameButSpares_residueAt q

end spares

/-! ### Memory and the groups while ended teams are tidied (R80) -/

section tidying
variable (s : State)

theorem State.mem_of_sameButUnits {s t : State} (h : s.sameButUnits t) : t.mem = s.mem := by
  unfold State.sameButUnits at h
  rw [h]

theorem State.mem_foldl {α : Type} {f : State → α → State} (hf : ∀ (s : State) a, (f s a).mem = s.mem) (l : List α) (s : State) :
    (l.foldl f s).mem = s.mem :=
  List.foldlRecOn l f (motive := fun t : State => t.mem = s.mem) rfl fun _ ht a _ => (hf _ a).trans ht

theorem State.sameButUnits_tidyTeam (tk : Nat) : s.sameButUnits (s.tidyTeam tk) := by
  unfold State.tidyTeam
  dsimp only
  split
  · exact State.sameButUnits_trans (State.sameButUnits_foldl (fun s r => s.sameButUnits_freeResv _ r) _ s)
      (State.sameButUnits_trans (State.sameButUnits_freeAreas _ tk) rfl)
  · rfl

@[simp] theorem State.mem_tidyCluster (ck : Nat) : (s.tidyCluster ck).mem = s.mem := by
  unfold State.tidyCluster
  dsimp only
  split
  · split <;> exact State.mem_foldl (fun _ _ => by rfl) _ _
  · rfl

@[simp] theorem State.mem_tidy (gid : Nat) : (s.tidy gid).mem = s.mem := by
  have h : ∀ (v : State) a b, ((v.tidyTeam a).tidyCluster b).mem = v.mem := fun v a b => by
    rw [State.mem_tidyCluster, State.mem_of_sameButUnits (v.sameButUnits_tidyTeam a)]
  unfold State.tidy
  dsimp only
  split
  · exact h ..
  · exact (State.mem_foldl (fun _ _ => h ..) _ _).trans (h ..)

@[simp] theorem State.mem_tidyQuad (q : Nat) : (s.tidyQuad q).mem = s.mem := State.mem_foldl (fun s _ => s.mem_tidy _) _ s

theorem State.sameButCopies_tidyQuad (q : Nat) : s.sameButCopies (s.tidyQuad q) :=
  List.foldlRecOn _ _ (motive := s.sameButCopies) (fun _ => rfl) fun _ ht _ _ => State.sameButCopies_trans ht (State.sameButCopies_tidy _ _)

/-- The pass that a quad leaves behind, with the teams and clusters that it lets go. -/
def State.leavePass (s : State) (q gid : Nat) : State := ((s.passOver q).tidy gid).tidyQuad q

theorem State.leavePass_spec (q gid : Nat) : (s.leavePass q gid).mem = s.mem ∧ s.sameButCopies (s.leavePass q gid) := by
  refine ⟨by simp [State.leavePass, State.passOver], ?_⟩
  exact State.sameButCopies_trans (State.sameButCopies_of_groups (t := s.passOver q) rfl)
    (State.sameButCopies_trans (State.sameButCopies_tidy _ gid) (State.sameButCopies_tidyQuad _ q))

end tidying

/-! ### Operations that take effect (R229) -/

section retire
variable (s : State) {gid : Nat}

/-- The engine operations of a group that have not retired stay the same. -/
def State.sameMats (s t : State) (gid : Nat) : Prop := (t.group gid).mats = (s.group gid).mats

theorem State.sameMats_of_groups {s t : State} (h : t.groups = s.groups) : s.sameMats t gid := by
  rw [State.sameMats, State.group, h, State.group]

theorem State.sameMats_foldl {α : Type} {f : State → α → State} (hf : ∀ (s : State) a, s.sameMats (f s a) gid) (l : List α) (s : State) :
    s.sameMats (l.foldl f s) gid :=
  List.foldlRecOn l f (motive := fun t => s.sameMats t gid) rfl fun _ ht a _ => (hf _ a).trans ht

theorem State.sameMats_memWrite (pa : Nat) (bs : List Byte) : s.sameMats (s.memWrite pa bs) gid :=
  State.sameMats_of_groups (by rw [s.sameButBytes_memWrite pa bs])

theorem State.sameMats_writeTarget (x : Target) (bs : List Byte) : s.sameMats (s.writeTarget x bs) gid := by
  unfold State.writeTarget
  split
  · rfl
  · exact s.sameMats_memWrite x.pa bs

theorem State.sameMats_sendOne {u : State} (hi : u.iss.gid = gid) (h : s.sameMats u gid) (op : OwnerOp) (oper : Word) (wm : Bool) (n : Word)
    (dst : List Nat) (pkg : BitVec 16) (owner : Nat) (ls : List ReqLane) (order : Option Nat) :
    (u.sendOne op oper wm n dst pkg owner ls order).iss.gid = gid ∧ s.sameMats (u.sendOne op oper wm n dst pkg owner ls order) gid := by
  obtain ⟨hs, hc, -⟩ := u.sendOne_spec op oper wm n dst pkg owner ls order
  have hk : (u.sendOne op oper wm n dst pkg owner ls order).iss = u.iss := by rw [hs]
  have hm : (u.sendOne op oper wm n dst pkg owner ls order).cur.mats = u.cur.mats := by rw [hc]
  unfold State.cur at hm
  rw [hk, hi] at hm
  exact ⟨by rw [hk, hi], hm.trans h⟩

theorem State.sameMats_sendStores (pc : Dword) (serial : Word) (order n : Nat) (tile : Bool) (xs : List FarStore) :
    s.sameMats (s.sendStores gid pc serial order n tile xs) gid := by
  have hall : ∀ (f : BitVec 16 × Nat → List (List ReqLane)) (l : List (BitVec 16 × Nat)) (u : State), u.iss.gid = gid ∧ s.sameMats u gid →
      (fun v : State => v.iss.gid = gid ∧ s.sameMats v gid) (l.foldl (fun v o => (f o).foldl (fun v ls =>
        v.sendOne (.stores n tile) (operWord (.stores n tile) 5 0) true serial [] o.1 o.2 ls (some order)) v) u) := fun f l u hu =>
    List.foldlRecOn l _ (motive := fun v : State => v.iss.gid = gid ∧ s.sameMats v gid) hu fun v hv o _ =>
      List.foldlRecOn (f o) _ (motive := fun v : State => v.iss.gid = gid ∧ s.sameMats v gid) hv fun w hw ls _ =>
        s.sameMats_sendOne hw.1 hw.2 ..
  exact (hall _ _ { s with iss := { s.iss with gid, pc } } ⟨rfl, rfl⟩).2

/-- An operation that takes effect leaves the list of the group's operations to the retirement. -/
theorem State.sameMats_matRetire (o : MatOp) : s.sameMats (s.matRetire gid o) gid := by
  unfold State.matRetire
  dsimp only
  split
  next m n k rnd rows h =>
    rw [State.sameMats, State.group_setGroup]
    refine State.sameMats_foldl (fun s v => ?_) _ s
    rfl
  next vd m n h => rw [State.sameMats, State.group_setGroup]
  next m n rows h =>
    refine State.sameMats_foldl (fun s p => ?_) _ s
    rfl
  next m n places h =>
    have hnear : ∀ (l : List (Nat × Target × Nat)) w ps, s.sameMats
        ((l.foldl (fun s c => s.writeTarget c.2.1 (leBytes w c.2.2)) s).clearCovered ps) gid :=
      fun l w ps => (State.sameMats_of_groups (by rw [State.clearCovered_only])).trans
        (State.sameMats_foldl (fun s c => s.sameMats_writeTarget ..) l s)
    split
    · exact hnear ..
    · exact (State.sameMats_sendStores ..).trans (hnear ..)
  next h =>
    split
    · refine State.sameMats_foldl (fun s p => ?_) _ s
      rfl
    · refine State.sameMats_foldl (fun s p => ?_) _ s
      rfl

/-- No operation of the retired numbers is left. -/
theorem State.mats_retireMats (ids : List Nat) : ∀ o ∈ ((s.retireMats gid ids).group gid).mats, o.id ∉ ids := by
  have hm := State.sameMats_foldl (gid := gid) (fun s o => s.sameMats_matRetire o) ((s.group gid).mats.filter fun o => ids.contains o.id) s
  intro o ho hid
  unfold State.retireMats at ho
  dsimp only at ho
  rw [State.group_setGroup] at ho
  obtain ⟨hin, hout⟩ := List.mem_filter.1 ho
  rw [hm] at hin
  simp only [Bool.not_eq_true', List.any_eq_false, List.mem_filter, decide_eq_true_eq] at hout
  exact hout o ⟨hin, List.contains_iff_mem.2 hid⟩ rfl

end retire

/-! ### A pass that ends without committing (R231, R235) -/

section consumes
variable (s : State)

theorem State.mem_consume (gid source die unit : Nat) (addr : Dword) (lanes : Lanes) :
    (s.consume gid source die unit addr lanes).mem = s.mem := by
  unfold State.consume
  dsimp only
  split
  · rfl
  · unfold State.freeze
    dsimp only
    split
    · rfl
    · exact State.mem_foldl (fun _ _ => by rfl) _ _

/-- Of the operations of the group those that are older are left. -/
theorem State.opConsumes_older (gid source n : Nat) (pc : Dword) : (s.opConsumes gid source n pc).mem = s.mem
    ∧ ((s.opConsumes gid source n pc).group gid).mats = (s.group gid).mats.filter (fun o => o.id < n)
    ∧ (s.opConsumes gid source n pc).quadOf gid = s.quadOf gid := by
  obtain ⟨u, hu⟩ : ∃ u, u = ({ s with iss := { gid, pc } } : State).consume gid source (s.quadOf gid / Config.quads)
    (quadLow (s.quadOf gid)) 0 allLanes := ⟨_, rfl⟩
  obtain ⟨g, hg, hmats, hslot⟩ : ∃ g : Group, s.opConsumes gid source n pc = u.setGroup gid g
      ∧ g.mats = (u.group gid).mats.filter (fun o => o.id < n) ∧ g.slot = (u.group gid).slot :=
    ⟨_, by rw [hu]; rfl, by subst hu; rfl, by subst hu; rfl⟩
  have hgroup := (({ s with iss := { gid, pc } } : State).freezesFor_consume gid source (s.quadOf gid / Config.quads)
    (quadLow (s.quadOf gid)) 0 allLanes).1 gid
  rw [← hu] at hgroup
  rw [hg, State.quadOf, State.group_setGroup, hmats, hslot, hgroup]
  exact ⟨by rw [State.setGroup_mem, hu, State.mem_consume], rfl, rfl⟩

/-- A group that has ended its turn holds no pass. -/
theorem State.pass_closePass {gid : Nat} {p : Pass} (h : ((s.closePass gid).quad (s.quadOf gid)).pass = some p) : p.gid ≠ gid := by
  unfold State.closePass at h
  dsimp only at h
  split at h
  · split at h
    · rw [State.quad_setQuad] at h
      exact absurd h (by simp [Quad.endTurn, Quad.letIn])
    · next hp hne =>
      rw [hp] at h
      exact Option.some.inj h ▸ hne
  · next hp => simp [hp] at h

/-- The passes of a group have left its quad, the ended ones and the one in force. -/
theorem State.passes_dropPasses {gid : Nat} {p : Pass} (h : p ∈ ((s.dropPasses gid).quad (s.quadOf gid)).passes) : p.gid ≠ gid := by
  have hq : (s.closePass gid).quadOf gid = s.quadOf gid := by
    rw [State.quadOf, State.group_of_sameButUnits (s.sameButUnits_closePass gid), State.quadOf]
  unfold State.dropPasses at h
  dsimp only at h
  rw [hq, State.quad_setQuad, Quad.passes] at h
  rcases List.mem_append.1 h with h | h
  · simpa using (List.mem_filter.1 h).2
  · exact s.pass_closePass (Option.mem_toList.1 h)

/-- A pass whose mismatch found no spare column: memory stays, its group keeps the older operations, its passes go, its cluster freezes. -/
theorem State.passConsumes_spec (q : Nat) (p : Pass) : (s.passConsumes q p 9).mem = s.mem
    ∧ ((s.passConsumes q p 9).group p.gid).mats = (s.group p.gid).mats.filter (fun o => o.id < p.ops.headD 0)
    ∧ (∀ y ∈ ((s.passConsumes q p 9).quad (s.quadOf p.gid)).passes, y.gid ≠ p.gid)
    ∧ ((s.cluster (s.group p.gid).ck).state = .placed → ((s.passConsumes q p 9).cluster (s.group p.gid).ck).state = .frozen) := by
  obtain ⟨pc, u, d, hu, hp⟩ : ∃ pc u d, u = s.opConsumes p.gid 9 (p.ops.headD 0) pc
      ∧ s.passConsumes q p 9 = ({ u with dies := d } : State).dropPasses p.gid := by
    obtain ⟨d, hd⟩ := (s.opConsumes p.gid 9 (p.ops.headD 0)
      (((((s.group p.gid).engineOps.filter fun o => p.ops.contains o.1).head?.map (·.2)).getD 0))).quadOut_only q
    exact ⟨_, _, d, rfl, by rw [State.passConsumes, if_pos rfl, hd]⟩
  obtain ⟨hmem, hmats, hquad⟩ := s.opConsumes_older p.gid 9 (p.ops.headD 0) pc
  rw [← hu] at hmem hmats hquad
  have hsame := ({ u with dies := d } : State).sameButUnits_dropPasses p.gid
  rw [hp, State.mem_of_sameButUnits hsame, State.group_of_sameButUnits hsame]
  refine ⟨hmem, hmats, fun y hy => State.passes_dropPasses (s := { u with dies := d }) (by rw [← hquad] at hy; exact hy), fun hc => ?_⟩
  obtain ⟨x, hx, -⟩ := s.opConsumes_spec hc 9 (p.ops.headD 0) pc
  rw [← hu] at hx
  rw [State.cluster_of_sameButGroups (State.sameButGroups_of_units hsame)]
  exact hx

end consumes

/-! ### The oldest pass retires (R229, R231) -/

section retirement
variable (s : State) {p : Pass} {rest : List Pass}

theorem execMatrixPassRetire_none (h : (s.quad s.inp.quad).past = []) : execMatrixPassRetire s = .next s := by
  simp only [execMatrixPassRetire, h]

theorem execMatrixPassRetire_waits (h : (s.quad s.inp.quad).past = p :: rest) (hw : ∃ o ∈ (s.group p.gid).tiles, o.id ∈ p.ops) :
    execMatrixPassRetire s = .next s := by
  unfold execMatrixPassRetire
  dsimp only
  rw [h]
  exact State.when_neg (by simpa using hw)

theorem execMatrixPassRetire_eq (h : (s.quad s.inp.quad).past = p :: rest) (hw : ¬ ∃ o ∈ (s.group p.gid).tiles, o.id ∈ p.ops) :
    execMatrixPassRetire s = .next (if (s.takeSpares s.inp.quad s.inp.mismatches).2
      then (((s.takeSpares s.inp.quad s.inp.mismatches).1.retireMats p.gid p.ops).leavePass s.inp.quad p.gid)
      else (s.takeSpares s.inp.quad s.inp.mismatches).1.passConsumes s.inp.quad p 9) := by
  unfold execMatrixPassRetire
  dsimp only
  rw [h]
  exact State.when_pos (by simpa using hw)

/-- The pass commits: its operations take effect, and none of them is left. -/
theorem execMatrixPassRetire_commits (h : (s.quad s.inp.quad).past = p :: rest) (hw : ¬ ∃ o ∈ (s.group p.gid).tiles, o.id ∈ p.ops)
    (hr : (s.takeSpares s.inp.quad s.inp.mismatches).2 = true) : ∃ t, execMatrixPassRetire s = .next t
      ∧ (t.group p.gid).fpflags = (((s.takeSpares s.inp.quad s.inp.mismatches).1.retireMats p.gid p.ops).group p.gid).fpflags
      ∧ t.mem = ((s.takeSpares s.inp.quad s.inp.mismatches).1.retireMats p.gid p.ops).mem ∧ ∀ o ∈ (t.group p.gid).mats, o.id ∉ p.ops := by
  obtain ⟨u, hu⟩ : ∃ u, u = (s.takeSpares s.inp.quad s.inp.mismatches).1.retireMats p.gid p.ops := ⟨_, rfl⟩
  have hleft : ∀ o ∈ (u.group p.gid).mats, o.id ∉ p.ops := hu ▸ State.mats_retireMats _ p.ops
  obtain ⟨hmem, hgroup⟩ := u.leavePass_spec s.inp.quad p.gid
  rw [← hu]
  refine ⟨u.leavePass s.inp.quad p.gid, (execMatrixPassRetire_eq s h hw).trans (by rw [if_pos hr, hu]), ?_, hmem, fun o ho => hleft o ?_⟩
  · rw [hgroup]
  · rw [hgroup] at ho
    exact ho

/-- At a mismatch that finds no spare column the pass ends without committing. -/
theorem execMatrixPassRetire_consumes (h : (s.quad s.inp.quad).past = p :: rest) (hw : ¬ ∃ o ∈ (s.group p.gid).tiles, o.id ∈ p.ops)
    (hr : (s.takeSpares s.inp.quad s.inp.mismatches).2 = false) : ∃ t, execMatrixPassRetire s = .next t ∧ t.mem = s.mem
      ∧ (t.group p.gid).mats = (s.group p.gid).mats.filter (fun o => o.id < p.ops.headD 0)
      ∧ (∀ y ∈ (t.quad (s.quadOf p.gid)).passes, y.gid ≠ p.gid)
      ∧ ((s.cluster (s.group p.gid).ck).state = .placed → (t.cluster (s.group p.gid).ck).state = .frozen) := by
  obtain ⟨u, hu⟩ : ∃ u, u = (s.takeSpares s.inp.quad s.inp.mismatches).1 := ⟨_, rfl⟩
  have hsame : s.sameButSpares u := hu ▸ s.sameButSpares_takeSpares _ _
  have hg : u.group p.gid = s.group p.gid := by rw [State.group, hsame, State.group]
  have hc : u.cluster (s.group p.gid).ck = s.cluster (s.group p.gid).ck := by rw [State.cluster, hsame, State.cluster]
  have hm : u.mem = s.mem := by rw [hsame]
  have hspec := u.passConsumes_spec s.inp.quad p
  rw [State.quadOf, hg, hc, hm] at hspec
  exact ⟨_, (execMatrixPassRetire_eq s h hw).trans (by rw [hr, if_neg Bool.false_ne_true, ← hu]), hspec⟩

end retirement

/-! ### The turns of a slot (R91, R93) -/

section turns
variable (s : State)

theorem execQuantumExpiry_eq (h : (s.slot s.inp.slot).expired = true) : execQuantumExpiry s = .next (s.slotNext s.inp.slot) := by
  unfold execQuantumExpiry
  exact State.when_pos h

theorem execStarvationSwitch_eq {g : Nat} (hg : g ∈ s.residents s.inp.slot) (ha : s.awake g = true) (hs : s.starved g = true) :
    execStarvationSwitch s = .next (s.slotNext s.inp.slot) := by
  unfold execStarvationSwitch
  exact State.when_pos (List.any_eq_true.2 ⟨g, hg, by rw [ha, hs]; rfl⟩)

theorem execYieldBundle_eq (ha : s.awake s.inp.gid = true) (hy : (s.group s.inp.gid).yields = true)
    (hc : (s.slot (s.group s.inp.gid).slot).cur = some s.inp.gid) :
    execYieldBundle s = .next (s.slotNext (s.group s.inp.gid).slot) := by
  unfold execYieldBundle
  exact State.when_pos (by simp [ha, hy, hc])

end turns

/-- Settles O52: each clause is the lemma of its event above. -/
theorem passesAndTurns : Obligations.PassesAndTurns := by
  intro s i q x turn
  refine ⟨execEnginePassGrant_spec s, fun p => x.endTurn_eq p s.now, execEnginePassGrant_busy s,
    fun p hp hl hr => execPassIdleEnd_idle s hp hl hr, fun p hp hr => execPassIdleEnd_ready s hp hr, s.takeSpares_iff q,
    execMatrixPassRetire_none s, fun p rest h => ⟨execMatrixPassRetire_waits s h, execMatrixPassRetire_commits s h,
      execMatrixPassRetire_consumes s h⟩, execQuantumExpiry_eq s, fun g hg ha hs => execStarvationSwitch_eq s hg ha hs,
    execYieldBundle_eq s⟩

end Sys2Proof.Machine

/-! PROOF. A pre-emption drains the passes before its own, and with them what a group without a context has left there
(spec/04_scheduler.md R80, R86, spec/10_determinism_and_reliability.md R229). -/
namespace Sys2Proof.Machine

/-! ### A cluster of two teams, one of which has ended -/

/-- The launch: two teams of one group, in one cluster of shape 2 × 1. -/
def EndedTeam.handle : Word := 0x10
def EndedTeam.launch : Launch :=
  { state := .running, handle := EndedTeam.handle, teams := 2, groups := 1, regs := 15, cw := 2, ch := 1 }

/-- The cluster's key, the teams' and their groups'; the team of member 0 has ended. -/
def EndedTeam.ck : Nat := teamKey EndedTeam.handle 0
def EndedTeam.team (m : Nat) : Nat := teamKey EndedTeam.handle m
def EndedTeam.group (m : Nat) : Nat := groupKey (EndedTeam.team m) 0

/-- An FP32 reservation of one element, and the `MWR.mem` that writes it to memory: issued, and not retired. -/
def EndedTeam.resv : Resv :=
  { handle := 1, launch := EndedTeam.handle, team := EndedTeam.team 0, granule := 0, count := 1
    record := 0x1000000000040000, save := 0, saved := [] }
def EndedTeam.write : MatOp :=
  { id := 1, kind := .mwrMem 1 1 [{ kind := 0, core := 0, pa := lpddrBase, pkg := 0, va := 0, pf := false, stride := 0, order := 0 }]
    b := 0, c := 1, recB := 0, recC := 0x1000000000040000, pc := 0, serial := none, order := 0 }

/-- The group of the ended team: it has exited and has no context. -/
def EndedTeam.exited : Group :=
  { team := EndedTeam.team 0, ck := EndedTeam.ck, exited := allLanes, mats := [EndedTeam.write]
    matOps := [{ serial := none, seq := 0, done := false, id := 1, names := [1] }] }

/-- The pass of that group waits to retire, before that of the other group, whose
operation is complete. A pre-emption of the cluster has begun. -/
def EndedTeam.state : State :=
  { State.reset with
    inp := { State.reset.inp with ck := EndedTeam.ck }
    launches := [(EndedTeam.handle.toNat, EndedTeam.launch)]
    clusters := [(EndedTeam.ck, { state := .saving, handle := EndedTeam.handle })]
    teams := [(EndedTeam.team 0, { live := true, handle := EndedTeam.handle, ck := EndedTeam.ck, resident := true, started := true, ended := true }),
      (EndedTeam.team 1, { live := true, handle := EndedTeam.handle, index := 1, ck := EndedTeam.ck, core := 1, resident := true, started := true })]
    groups := [(EndedTeam.group 0, EndedTeam.exited),
      (EndedTeam.group 1, { live := true, team := EndedTeam.team 1, ck := EndedTeam.ck, slot := 4, nbands := 16, stopped := true })]
    quads := [(0, { ob := [(0, 7)], resvs := [EndedTeam.resv]
                    past := [{ gid := EndedTeam.group 0, left := 0, readyAt := 0, ops := [1], locked := [] },
                      { gid := EndedTeam.group 1, left := 0, readyAt := 0, ops := [1], locked := [] }] })] }

/-- Memory after a step that answers a next state. -/
def Out.memory : Out → Option (List Host.Cell)
  | .next t => some t.mem
  | _ => none

theorem EndedTeam.memory_before : EndedTeam.state.mem = [] := rfl

theorem EndedTeam.saving : (EndedTeam.state.cluster EndedTeam.ck).state = .saving := by decide +kernel
theorem EndedTeam.running : (EndedTeam.state.launch (EndedTeam.state.cluster EndedTeam.ck).handle).state = .running := by decide +kernel

/-- The pre-emption does not wait, and the one group with a context has no operation under way. -/
theorem EndedTeam.drains : EndedTeam.state.mustWait EndedTeam.ck = false := by decide +kernel
theorem EndedTeam.liveGroups : EndedTeam.state.liveGroups EndedTeam.ck = [EndedTeam.group 1] := by decide +kernel
theorem EndedTeam.liveGroups_idle : ∀ g ∈ EndedTeam.state.liveGroups EndedTeam.ck,
    (EndedTeam.state.group g).mats = [] ∧ (EndedTeam.state.group g).tiles = [] := by
  rw [EndedTeam.liveGroups]
  decide +kernel

/-- Its step retires the pass of the ended team's group, whose operation writes memory. -/
theorem EndedTeam.memory_after : Out.memory (exec .clusterPreempt EndedTeam.state) = some [(lpddrBase, 7)] := by decide +kernel

/-- Refutes O51: a pre-emption of a cluster whose live groups have no operation under way still retires the pass of a group whose team has
ended, where that pass stands before one of theirs (R86); its `MWR.mem` writes memory, which the statement says stays as it was. -/
theorem not_placement : ¬ Obligations.Placement := by
  intro h
  obtain ⟨-, -, -, -, -, -, hsaves, -⟩ := h.1 EndedTeam.state
  have hnodup : (EndedTeam.state.liveGroups EndedTeam.ck).Nodup := EndedTeam.liveGroups ▸ List.nodup_singleton _
  obtain ⟨t, ht, -, hmem, -⟩ := hsaves EndedTeam.saving EndedTeam.running EndedTeam.drains hnodup EndedTeam.liveGroups_idle
  have hafter := EndedTeam.memory_after
  rw [ht, Out.memory, hmem, EndedTeam.memory_before] at hafter
  simp at hafter

end Sys2Proof.Machine

/-! PROOF. Traps: what taking one saves and ends, and the return from a handler (spec/05_cores_and_execution.md R114 to R118,
spec/03_control_cores_and_launch.md R67, R68, spec/17_isa_tiles_updates_system.md R388). -/
namespace Sys2Proof.Machine

/-! ### The release of masks (R98) -/

/-- Of a group, everything but its masks, PCs, WAITING bits and saved handler state is as it was. -/
def Group.sameButRelease (g h : Group) : Prop :=
  h = { g with pcs := h.pcs, waiting := h.waiting, masks := h.masks, handler := h.handler }

section release
variable (g : Group)

theorem Group.goOn_only (k : Nat) (m : Lanes) : ∃ P W, g.goOn k m =
    { g with pcs := P, waiting := W, handler := g.handler.map fun h => h.release k m } := by
  unfold Group.goOn Group.advance
  exact ⟨_, _, rfl⟩

theorem Group.setMask_only (k : Nat) (m : Mask) : ∃ M, g.setMask k m = { g with masks := M } := by
  unfold Group.setMask
  exact ⟨_, rfl⟩

/-- A release puts a group into no handler. -/
theorem Group.releaseMask_spec (k : Nat) :
    g.sameButRelease (g.releaseMask k) ∧ (g.handler = none → (g.releaseMask k).handler = none) := by
  unfold Group.releaseMask Group.sameButRelease
  dsimp only
  split
  · obtain ⟨P, W, hgo⟩ := g.goOn_only k (g.mask k).arrived
    obtain ⟨M, hset⟩ := (g.goOn k (g.mask k).arrived).setMask_only k {}
    rw [hset, hgo]
    exact ⟨rfl, fun hn => by rw [hn]; rfl⟩
  · exact ⟨rfl, id⟩

/-- The release test of every mask moves lanes alone, and puts a group into no handler. -/
theorem Group.releaseMasks_spec : g.sameButRelease g.releaseMasks ∧ (g.handler = none → g.releaseMasks.handler = none) := by
  refine List.foldlRecOn (List.range 12) Group.releaseMask
    (motive := fun x : Group => g.sameButRelease x ∧ (g.handler = none → x.handler = none)) ⟨rfl, id⟩ fun x ⟨hx, hh⟩ k _ => ?_
  obtain ⟨hk, hn⟩ := x.releaseMask_spec k
  unfold Group.sameButRelease at *
  exact ⟨by rw [hk, hx], fun h => hn (hh h)⟩

end release

/-! ### Taking a trap in a handler's launch (R117) -/

/-- The group enters the handler at `pc` with a trap: it saves its PCs, WAITING bits and latches, and every lane that has not exited starts
there. -/
def Group.enterHandler (g : Group) (t : TrapState) (pc : Dword) : Group :=
  { g with
    trap := t
    handler := some { pcs := g.pcs, waiting := g.waiting, stood := g.stand, latches := g.latches, lvalid := g.lvalid, entered := ~~~g.exited }
    pcs := rowSet64 g.pcs (~~~g.exited) fun _ => pc
    waiting := 0
    lvalid := 0 }

/-- Registers, FPFLAGS, masks and EXITED stay. -/
theorem Group.enterHandler_keeps (g : Group) (t : TrapState) (pc : Dword) : (g.dropHidden.enterHandler t pc).v = g.v
    ∧ (g.dropHidden.enterHandler t pc).fpflags = g.fpflags ∧ (g.dropHidden.enterHandler t pc).masks = g.masks
    ∧ (g.dropHidden.enterHandler t pc).exited = g.exited := by
  refine ⟨Group.v_of_regs ?_, ?_⟩ <;> simp only [Group.enterHandler, Group.dropHidden, and_self]

theorem Group.pcs_enterHandler (g : Group) (t : TrapState) (pc : Dword) {k : Nat} (hk : k < 32) :
    laneAt64 (g.enterHandler t pc).pcs k = if g.exited.getLsbD k then laneAt64 g.pcs k else pc := by
  unfold Group.enterHandler
  rw [laneAt64_rowSet64, BitVec.getLsbD_not]
  cases hx : g.exited.getLsbD k <;> simp [hk]

section traps
variable {s : State} {cause : Nat} {lanes : Lanes} {addr info : Dword}

/-- The trap state that a trap at the word in hand leaves. -/
def State.trapAt (s : State) (cause : Nat) (lanes : Lanes) (addr info : Dword) : TrapState := { cause, pc := s.iss.pc, addr, lanes, info }

theorem State.takeTrap_handled (hl : (s.launchOf s.iss.gid).handler ≠ 0) (hh : s.cur.handler = none) (h15 : cause ≠ 0x15) (h16 : cause ≠ 0x16) :
    s.takeTrap cause lanes addr info = ((s.setCur (s.cur.dropHidden.enterHandler (s.trapAt cause lanes addr info)
      (s.launchOf s.iss.gid).handler)).releaseA s.iss.gid).closePass s.iss.gid := by
  have hd : ((s.launchOf s.iss.gid).handler == 0 || s.cur.dropHidden.handler.isSome || cause == 0x15 || cause == 0x16) = false := by
    rw [show s.cur.dropHidden.handler = none from hh]
    simp only [Option.isSome_none, Bool.or_false, Bool.or_eq_false_iff, beq_eq_false_iff_ne]
    exact ⟨⟨hl, h15⟩, h16⟩
  unfold State.takeTrap
  dsimp only
  rw [hd, if_neg Bool.false_ne_true]
  rfl

theorem State.takeTrap_fatal
    (h : (s.launchOf s.iss.gid).handler = 0 ∨ s.cur.handler ≠ none ∨ cause = 0x15 ∨ cause = 0x16) :
    s.takeTrap cause lanes addr info = (((s.setCur { s.cur.dropHidden with trap := s.trapAt cause lanes addr info }).fatal s.iss.gid
      (s.trapAt cause lanes addr info)).endLaunch (keyHandle (groupTeam s.iss.gid)) cause (teamIndex (groupTeam s.iss.gid))).closePass
        s.iss.gid := by
  have hd : s.cur.dropHidden.handler.isSome = true ↔ s.cur.handler ≠ none := Option.isSome_iff_ne_none
  unfold State.takeTrap
  dsimp only
  rw [if_pos (by simpa [hd, or_assoc] using h)]
  rfl

theorem State.cur_of_sameButUnits {t : State} (h : s.sameButUnits t) : t.cur = s.cur := by
  unfold State.sameButUnits at h
  rw [State.cur, State.group, h, State.cur, State.group]

/-- The same for what a state reads that such a change leaves as it was. -/
theorem State.quiet_of_sameButUnits {g : Group} {t : State} (h : (s.setCur g).sameButUnits t) : s.quiet t := by
  refine ⟨fun k hk => ?_, fun a => ?_⟩
  · rw [State.group_of_sameButUnits h]
    exact s.group_setCur_ne k g hk
  · rw [State.rd, State.mem_of_sameButUnits h, State.setCur_mem, State.rd]

theorem State.takeTrap_handled_spec (hl : (s.launchOf s.iss.gid).handler ≠ 0) (hh : s.cur.handler = none) (h15 : cause ≠ 0x15)
    (h16 : cause ≠ 0x16) :
    (s.takeTrap cause lanes addr info).cur
        = s.cur.dropHidden.enterHandler (s.trapAt cause lanes addr info) (s.launchOf s.iss.gid).handler
      ∧ s.quiet (s.takeTrap cause lanes addr info) ∧ (s.takeTrap cause lanes addr info).launches = s.launches := by
  rw [State.takeTrap_handled hl hh h15 h16]
  generalize s.cur.dropHidden.enterHandler (s.trapAt cause lanes addr info) (s.launchOf s.iss.gid).handler = g
  have hu := State.sameButUnits_trans ((s.setCur g).sameButUnits_releaseA s.iss.gid) (State.sameButUnits_closePass _ s.iss.gid)
  refine ⟨(State.cur_of_sameButUnits hu).trans (s.cur_setCur g), State.quiet_of_sameButUnits hu, ?_⟩
  unfold State.sameButUnits at hu
  rw [hu]
  rfl

end traps

/-! ### The fatal record (R67, R68) -/

theorem LogRec.bytes_length (r : LogRec) : r.bytes.length = 64 := by simp [LogRec.bytes]

section log
variable {s : State} {d : Nat} {r : LogRec}

/-- A log with room takes the record at PROD. -/
theorem State.log_room (hf : (s.die d).logFull = false) (hw : (s.die d).logWait = []) :
    s.log d r = (s.wrBytes ((s.die d).logBase.toNat + 64 * (s.die d).logProd.toNat) r.bytes).setDie d
      { s.die d with logProd := (s.die d).logProd + 1 } := by
  unfold State.log
  dsimp only
  rw [if_neg (by simp [hf, hw])]

/-- A full log, or one for which records wait, lets the record wait. -/
theorem State.log_waits (h : (s.die d).logFull = true ∨ (s.die d).logWait ≠ []) :
    s.log d r = s.setDie d { s.die d with logWait := (s.die d).logWait ++ [r] } := by
  unfold State.log
  dsimp only
  rw [if_pos (by simpa using h)]

theorem State.rd_setDie (s : State) (d : Nat) (x : Die) (a : Nat) : (s.setDie d x).rd a = s.rd a := rfl

/-- A record in a log changes memory and the log's die alone. -/
theorem State.sameButLog_log (s : State) (d : Nat) (r : LogRec) : s.sameButLog (s.log d r) := by
  obtain ⟨m, x, h, -⟩ := s.log_eq d r
  rw [h]
  rfl

/-- What a record does to its die and to memory. -/
theorem State.log_spec (s : State) (d : Nat) (r : LogRec) :
    let x := s.die d
    let a := x.logBase.toNat + 64 * x.logProd.toNat
    (x.logFull = false → x.logWait = [] → ((s.log d r).die d).logProd = x.logProd + 1
      ∧ (∀ i, (k : i < r.bytes.length) → (s.log d r).rd (a + i) = r.bytes[i])
      ∧ ∀ b, (b < a ∨ a + 64 ≤ b) → (s.log d r).rd b = s.rd b)
    ∧ ((x.logFull = true ∨ x.logWait ≠ []) → ((s.log d r).die d).logWait = x.logWait ++ [r] ∧ ∀ b, (s.log d r).rd b = s.rd b) := by
  refine ⟨fun hf hw => ?_, fun h => ?_⟩
  · rw [State.log_room hf hw]
    have hl := r.bytes_length
    generalize r.bytes = bs at hl ⊢
    generalize (s.die d).logBase.toNat + 64 * (s.die d).logProd.toNat = a
    simp only [State.rd_setDie, State.die_setDie]
    exact ⟨trivial, fun i k => s.rd_wrBytes bs a i k, fun b hb => s.rd_wrBytes_out bs a b (by rwa [hl])⟩
  · rw [State.log_waits h]
    exact ⟨by rw [State.die_setDie], fun _ => rfl⟩

end log

/-! ### The end of a running launch (R63, R64, R68) -/

section ended
variable {s : State} {h : Word} {cause team : Nat}

theorem State.closePass_only (s : State) (gid : Nat) : s.closePass gid = { s with quads := (s.closePass gid).quads } := by
  unfold State.closePass
  dsimp only
  split
  · split <;> rfl
  · rfl

theorem State.endLaunch_running (hr : (s.launch h).state = .running) : s.endLaunch h cause team =
    { (s.discardParked h).setLaunch h { s.launch h with state := .ending, cause, team } with
      groups := stopGroups h (s.discardParked h).groups
      queues := tabSet [] s.queues (s.launch h).queue ((tabGet [] s.queues (s.launch h).queue).filter (· != h)) } := by
  unfold State.endLaunch
  dsimp only
  rw [hr]
  rfl

/-- A group of a launch that ends. -/
theorem State.group_endLaunch (hr : (s.launch h).state = .running) (k : Nat) : (s.endLaunch h cause team).group k =
    (if keyHandle (groupTeam k) = h && ((s.discardParked h).group k).live then { (s.discardParked h).group k with stopped := true }
      else (s.discardParked h).group k) := by
  have hg : stopGroups h (s.discardParked h).groups = (s.discardParked h).groups.map fun p =>
      (p.1, if keyHandle (groupTeam p.1) = h && p.2.live then { p.2 with stopped := true } else p.2) :=
    List.map_congr_left fun p _ => by split <;> rfl
  rw [State.endLaunch_running hr, State.group]
  dsimp only
  rw [hg, tabGet_mapKey (fun k (g : Group) => if keyHandle (groupTeam k) = h && g.live then { g with stopped := true } else g)
    (fun k => by simp), ← State.group]

/-- Of a group nothing but its copies changes, and it stops when it is one of the launch. -/
theorem State.endLaunch_group_spec (hr : (s.launch h).state = .running) (k : Nat) :
    ((keyHandle (groupTeam k) = h → (s.group k).live = true → ((s.endLaunch h cause team).group k).stopped = true))
      ∧ ((s.endLaunch h cause team).group k).trap = (s.group k).trap ∧ ((s.endLaunch h cause team).group k).v = (s.group k).v := by
  rw [State.group_endLaunch hr, s.sameButCopies_discardParked h k]
  refine ⟨fun hk hl => by rw [if_pos (by simp [hk, hl])], ?_, ?_⟩ <;> split <;> rfl

/-- The fault logs and memory stay as they are. -/
theorem State.endLaunch_log_spec (hr : (s.launch h).state = .running) (d : Nat) :
    ((s.endLaunch h cause team).die d).logProd = (s.die d).logProd ∧ ((s.endLaunch h cause team).die d).logWait = (s.die d).logWait
      ∧ (∀ a, (s.endLaunch h cause team).rd a = s.rd a) ∧ (s.endLaunch h cause team).iss = s.iss := by
  have hd : (s.endLaunch h cause team).die d =
      { s.die d with copyFaults := (s.die d).copyFaults.filter fun f => !decide (keyHandle (groupTeam f.2.1) = h) } := by
    rw [State.endLaunch_running hr]
    exact tabGet_map (fun x : Die => { x with copyFaults := x.copyFaults.filter fun f => !decide (keyHandle (groupTeam f.2.1) = h) }) rfl _ _
  have hm : (s.endLaunch h cause team).mem = s.mem ∧ (s.endLaunch h cause team).iss = s.iss := by
    rw [State.endLaunch_running hr]
    exact ⟨rfl, rfl⟩
  exact ⟨by rw [hd], by rw [hd], fun a => by rw [State.rd, hm.1, State.rd], hm.2⟩

end ended

/-! ### A trap that ends its launch (R68, R117) -/

section fatal
variable {s : State} {cause : Nat} {lanes : Lanes} {addr info : Dword}

/-- The fatal record of a trap at the word in hand. -/
def State.fatalRec (s : State) (cause : Nat) (lanes : Lanes) (addr info : Dword) : LogRec :=
  { kind := 1, handle := keyHandle (groupTeam s.iss.gid), id := s.logIdOf s.iss.gid, code := BitVec.ofNat 32 cause, pc := s.iss.pc, addr, lanes, info }

/-- The state with the group's trap and its record in the log of its die. -/
def State.logTrap (s : State) (cause : Nat) (lanes : Lanes) (addr info : Dword) : State :=
  (s.setCur { s.cur.dropHidden with trap := s.trapAt cause lanes addr info }).log (coreDie (slotCore s.cur.slot))
    (s.fatalRec cause lanes addr info)

theorem State.fatal_eq_logTrap : (s.setCur { s.cur.dropHidden with trap := s.trapAt cause lanes addr info }).fatal s.iss.gid
    (s.trapAt cause lanes addr info) = s.logTrap cause lanes addr info := by
  have hc : (s.setCur { s.cur.dropHidden with trap := s.trapAt cause lanes addr info }).group s.iss.gid =
      { s.cur.dropHidden with trap := s.trapAt cause lanes addr info } := s.cur_setCur _
  unfold State.fatal State.logIdOf
  rw [hc]
  rfl

theorem State.logTrap_spec (s : State) (cause : Nat) (lanes : Lanes) (addr info : Dword) :
    (s.logTrap cause lanes addr info).launches = s.launches ∧ (s.logTrap cause lanes addr info).iss = s.iss
      ∧ (s.logTrap cause lanes addr info).group s.iss.gid = { s.cur.dropHidden with trap := s.trapAt cause lanes addr info } := by
  have hl := State.sameButLog_log (s.setCur { s.cur.dropHidden with trap := s.trapAt cause lanes addr info })
    (coreDie (slotCore s.cur.slot)) (s.fatalRec cause lanes addr info)
  unfold State.sameButLog at hl
  rw [State.logTrap, State.group, hl]
  exact ⟨rfl, rfl, s.cur_setCur _⟩

/-- What a trap that ends a running launch leaves: the launch ends, the group stops, and the record is in the log or waits for it. -/
theorem State.takeTrap_fatal_spec
    (h : (s.launchOf s.iss.gid).handler = 0 ∨ s.cur.handler ≠ none ∨ cause = 0x15 ∨ cause = 0x16)
    (hr : (s.launchOf s.iss.gid).state = .running) :
    let t := s.takeTrap cause lanes addr info
    let u := s.logTrap cause lanes addr info
    t.launch (keyHandle (groupTeam s.iss.gid)) =
        { s.launchOf s.iss.gid with state := .ending, cause, team := teamIndex (groupTeam s.iss.gid) }
      ∧ (s.cur.live = true → t.cur.stopped = true) ∧ t.cur.trap = s.trapAt cause lanes addr info ∧ t.cur.v = s.cur.v
      ∧ ∀ d, (t.die d).logProd = (u.die d).logProd ∧ (t.die d).logWait = (u.die d).logWait ∧ ∀ a, t.rd a = u.rd a := by
  intro t u
  obtain ⟨hl, hi, hg⟩ := s.logTrap_spec cause lanes addr info
  have hlaunch : u.launch (keyHandle (groupTeam s.iss.gid)) = s.launchOf s.iss.gid := by
    rw [State.launch, hl, State.launchOf, State.launch]
  have hrun : (u.launch (keyHandle (groupTeam s.iss.gid))).state = .running := by rw [hlaunch, hr]
  obtain ⟨e, he⟩ : ∃ e, e = u.endLaunch (keyHandle (groupTeam s.iss.gid)) cause (teamIndex (groupTeam s.iss.gid)) := ⟨_, rfl⟩
  have ht : t = e.closePass s.iss.gid := by
    have hf : u = _ := State.fatal_eq_logTrap.symm
    rw [he, hf]
    exact State.takeTrap_fatal h
  have hte : t = { e with quads := t.quads } := by rw [ht]; exact e.closePass_only s.iss.gid
  obtain ⟨-, -, hending, -⟩ := u.endLaunch_spec (keyHandle (groupTeam s.iss.gid)) cause (teamIndex (groupTeam s.iss.gid))
  obtain ⟨hstop, htrap, hv⟩ := State.endLaunch_group_spec (cause := cause) (team := teamIndex (groupTeam s.iss.gid)) hrun s.iss.gid
  have hlog := State.endLaunch_log_spec (cause := cause) (team := teamIndex (groupTeam s.iss.gid)) hrun
  rw [← he] at hending hstop htrap hv hlog
  obtain ⟨-, -, -, hei⟩ := hlog 0
  have hcur : t.cur = e.group s.iss.gid := by
    rw [hte]
    show e.group e.iss.gid = _
    rw [hei, hi]
  refine ⟨?_, fun hlive => ?_, ?_, ?_, fun d => ?_⟩
  · rw [hte]
    exact (hending hrun).trans (by rw [hlaunch])
  · rw [hcur]
    exact hstop rfl ((congrArg Group.live hg).trans hlive)
  · rw [hcur, htrap, hg]
  · rw [hcur, hv, hg]
    exact Group.v_of_regs rfl
  · obtain ⟨hp, hw, hm, -⟩ := hlog d
    rw [hte]
    exact ⟨hp, hw, hm⟩

end fatal

/-- Settles O39: what a trap saves when the launch has a handler (R117); otherwise its launch ends, with a record in the log of the group's
die (R67, R68). -/
theorem traps : Obligations.Traps := by
  unfold Obligations.Traps
  refine ⟨fun s cause lanes addr info hl hh h15 h16 => ?_, fun s cause lanes addr info h hr => ?_⟩
  · obtain ⟨hcur, hquiet, hlaunches⟩ := State.takeTrap_handled_spec (lanes := lanes) (addr := addr) (info := info) hl hh h15 h16
    rw [hcur]
    obtain ⟨hv, hfl, hmasks, hex⟩ := s.cur.enterHandler_keeps (s.trapAt cause lanes addr info) (s.launchOf s.iss.gid).handler
    exact ⟨rfl, rfl, fun k hk => s.cur.dropHidden.pcs_enterHandler _ _ hk, rfl, rfl, hv, hfl, hmasks, hex, hquiet, hlaunches⟩
  · obtain ⟨hlaunch, hstop, htrap, hv, hlog⟩ := State.takeTrap_fatal_spec (lanes := lanes) (addr := addr) (info := info) h hr
    obtain ⟨hprod, hwait, hrd⟩ := hlog (coreDie (slotCore s.cur.slot))
    obtain ⟨hroom, hfull⟩ := State.log_spec (s.setCur { s.cur.dropHidden with trap := s.trapAt cause lanes addr info })
      (coreDie (slotCore s.cur.slot)) (s.fatalRec cause lanes addr info)
    refine ⟨hlaunch, hstop, htrap, hv, fun hf hw => ?_, fun hf => ?_⟩
    · obtain ⟨h1, h2, h3⟩ := hroom hf hw
      exact ⟨hprod.trans h1, fun i k => (hrd _).trans (h2 i k), fun a ha => (hrd a).trans (h3 a ha)⟩
    · obtain ⟨h1, h2⟩ := hfull hf
      exact ⟨hwait.trans h1, fun a => (hrd a).trans (h2 a)⟩

/-! ### The return from a handler (R118, R388, R105) -/

section ret
variable {s : State} {f : XE}

/-- A word that names no register, and asks for nothing but a privilege, meets no other cause. -/
theorem State.pre_priv (p : Bool) : s.pre { priv := p } = if p then .trap 0x17 s.iss.run 0 0 else .go s.iss.run := by
  have ha (m : Lanes) : s.cur.awaits [] m = false := by simp [Group.awaits]
  have hu (m : Lanes) : s.cur.unknownFor [] m = none := by simp [Group.unknownFor, Unknown.fills]
  have hg : guardRegs 0 = [] := rfl
  have hl (m : Lanes) : s.cur.lacks { priv := p } m = false := by simp [Group.lacks, ha]
  have hf (m : Lanes) : s.cur.mustFollow { priv := p } m = false := by simp [Group.mustFollow]
  have hd (m : Lanes) : s.cur.unknowns.find? (({ priv := p } : Needs).delivers m) = none := by simp [Needs.delivers, Unknown.fills]
  have hact : s.cur.active s.iss.run 0 = s.iss.run := by simp [Group.active]
  simp only [State.pre, hg, ha, hu, hact, hl, hf, hd, List.any_nil, List.isEmpty_nil, List.append_nil, Bool.not_true, Bool.false_and,
    Bool.and_false, Bool.false_eq_true, Bool.or_false, if_false]

theorem execTret_outside (h : s.cur.handler = none) : exec (.tret f) s = .next (s.takeTrap 0x17 s.iss.run 0 0) := by
  show execTret f s = _
  simp only [execTret, State.pre_priv, h, Option.isNone_none, if_true, State.afterPre]

theorem execTret_inside {h : Handler} (hh : s.cur.handler = some h) : exec (.tret f) s = .next (
    if s.iss.run = h.entered &&& ~~~s.cur.exited then ((s.setCur (s.cur.trapReturn h (f.flags == 1))).setCache [] []).markIssued
    else s.takeTrap 0x03 s.iss.run 0 0) := by
  show execTret f s = _
  simp only [execTret, State.pre_priv, hh, Option.isNone_some, Bool.false_eq_true, if_false, State.afterPre]
  by_cases hr : s.iss.run = h.entered &&& ~~~s.cur.exited
  · rw [if_pos hr, if_neg (by simp [hr])]
  · rw [if_neg hr, if_pos (by simp [hr])]

/-- The group that leaves its handler, before the release test of its masks. -/
theorem Group.trapReturn_eq (g : Group) (h : Handler) (skip : Bool) : ∃ x : Group, g.trapReturn h skip = x.releaseMasks
    ∧ x.handler = none ∧ x.v = g.v ∧ x.trap = g.trap ∧ x.fpflags = g.fpflags ∧ x.lvalid = h.lvalid ∧ x.latches = h.latches
    ∧ x.exited = g.exited ∧ x.masks = g.masks ∧ x.waiting = h.waiting &&& ~~~g.exited &&& ~~~g.trap.lanes ∧ x.stand = h.stood
    ∧ ∀ k, laneAt64 x.pcs k =
        if (h.entered &&& ~~~g.exited).getLsbD k then (if g.trap.lanes.getLsbD k then resumePc g.trap skip else laneAt64 h.pcs k)
        else laneAt64 g.pcs k := by
  refine ⟨_, rfl, rfl, Group.v_of_regs rfl, rfl, rfl, rfl, rfl, rfl, rfl, rfl, rfl, fun k => ?_⟩
  rw [laneAt64_rowSet64, laneAt64_rowSet64, BitVec.getLsbD_and]
  cases (h.entered &&& ~~~g.exited).getLsbD k <;> cases g.trap.lanes.getLsbD k <;> rfl

end ret

/-! ### Where the lanes of TLANES resume (R118) -/

section resume
variable (t : TrapState)

theorem resumePc_skip : resumePc t true = t.pc + 8 := rfl

/-- Back to the failed operation, when its distance is known. -/
def TrapState.failedPc (t : TrapState) : Dword :=
  if t.info.toNat % 2 ^ 24 = 0xFFFFFF then t.pc else t.pc - BitVec.ofNat 64 (8 * (t.info.toNat % 2 ^ 24))

/-- The causes whose retry goes back to the failed operation. -/
def TrapState.deferred (t : TrapState) : Prop :=
  t.cause = 0x0F ∨ t.cause = 0x12 ∨ (t.info ≠ 0 ∧ (t.cause = 0x0A ∨ t.cause = 0x0B))

theorem resumePc_retry_deferred (h : t.deferred) : resumePc t false = t.failedPc := by
  have hc : (t.cause == 0x0F || t.cause == 0x12 || (t.cause != 0x10 && t.info != 0 && (t.cause == 0x0A || t.cause == 0x0B))) = true := by
    simp only [Bool.or_eq_true, Bool.and_eq_true, beq_iff_eq, bne_iff_ne]
    rcases h with h | h | ⟨hi, h⟩
    · exact .inl (.inl h)
    · exact .inl (.inr h)
    · exact .inr ⟨⟨by omega, hi⟩, h⟩
  simp only [resumePc, Bool.false_eq_true, if_false, if_pos hc]
  rfl

theorem resumePc_retry (h : ¬ t.deferred) : resumePc t false = t.pc := by
  have hc : ¬ (t.cause == 0x0F || t.cause == 0x12 || (t.cause != 0x10 && t.info != 0 && (t.cause == 0x0A || t.cause == 0x0B))) = true := by
    intro hc
    simp only [Bool.or_eq_true, Bool.and_eq_true, beq_iff_eq, bne_iff_ne] at hc
    rcases hc with (h1 | h1) | ⟨⟨-, hi⟩, h1⟩
    · exact h (.inl h1)
    · exact h (.inr (.inl h1))
    · exact h (.inr (.inr ⟨hi, h1⟩))
  simp only [resumePc, Bool.false_eq_true, if_false, if_neg hc]

/-- The distance of an operation that lies `k` words back. -/
theorem distance_sub (pc : Dword) {k : Nat} (hk : k < 0xFFFFFF) : distance (pc - BitVec.ofNat 64 (8 * k)) pc = k := by
  have hd : (pc - (pc - BitVec.ofNat 64 (8 * k))).toNat = 8 * k := by
    rw [show pc - (pc - BitVec.ofNat 64 (8 * k)) = BitVec.ofNat 64 (8 * k) by ring, BitVec.toNat_ofNat]
    omega
  simp only [distance, hd]
  rw [if_pos (by simp; omega)]
  omega

end resume

/-- Settles O40: `TRET` traps outside a handler and for a run that is not every lane that entered; else the group is `Group.trapReturn`'s,
whose lanes resume where R118's table says. -/
theorem trapReturn : Obligations.TrapReturn := by
  unfold Obligations.TrapReturn
  refine ⟨fun s f => ⟨fun hn => execTret_outside hn, fun h hh => ⟨fun hr => ?_, fun hr => ?_⟩⟩, fun t => ?_⟩
  · rw [execTret_inside hh, if_neg hr]
  · obtain ⟨x, hx, hhd, hv, htrap, hfl, hlv, hla, hex, hmasks, hwait, hstand, hpcs⟩ := s.cur.trapReturn_eq h (f.flags == 1)
    obtain ⟨hrel, hnone⟩ := x.releaseMasks_spec
    have hcur : (((s.setCur (s.cur.trapReturn h (f.flags == 1))).setCache [] []).markIssued).cur = x.releaseMasks := by
      rw [State.markIssued_cur, State.setCache_cur, State.cur_setCur, hx]
    refine ⟨_, by rw [execTret_inside hh, if_pos hr], ?_⟩
    rw [hcur]
    unfold Group.sameButRelease at hrel
    refine ⟨hnone hhd, ?_, ?_, ?_, ?_, ?_, ?_, ⟨fun k hk => ?_, fun a => ?_⟩, x, rfl, hmasks, hwait, hstand, fun k _ => hpcs k⟩
    · exact (Group.v_of_regs (by rw [hrel])).trans hv
    · rw [hrel]; exact htrap
    · rw [hrel]; exact hfl
    · rw [hrel]; exact hlv
    · rw [hrel]; exact hla
    · rw [hrel]; exact hex
    · rw [State.group, State.markIssued_groups, State.setCache_groups]
      exact s.group_setCur_ne k _ hk
    · rw [State.rd, State.markIssued_mem, State.setCache_mem, State.setCur_mem, State.rd]
  · refine ⟨resumePc_skip t, fun h => ?_, fun h hi => ?_, fun h => ?_, fun hi h1 h2 => ?_, fun k hk => distance_sub t.pc hk⟩
    · exact resumePc_retry_deferred t (h.imp_right .inl)
    · exact resumePc_retry_deferred t (.inr (.inr ⟨hi, h⟩))
    · refine resumePc_retry t fun hd => h ?_
      rcases hd with hd | hd | ⟨-, hd | hd⟩ <;> simp [hd]
    · refine resumePc_retry t fun hd => ?_
      rcases hd with hd | hd | ⟨hn, -⟩
      · exact h1 hd
      · exact h2 hd
      · exact hn hi

end Sys2Proof.Machine

/-! PROOF. `EXIT`, and the end of a group (spec/05_cores_and_execution.md R97, spec/04_scheduler.md R80, spec/10_determinism_and_reliability.md
R219). -/
namespace Sys2Proof.Machine

/-! ### The end of a group leaves the issue stage -/

section issue
variable (s : State)

theorem State.iss_foldl {α : Type} {f : State → α → State} (hf : ∀ (s : State) a, (f s a).iss = s.iss) (l : List α) (s : State) :
    (l.foldl f s).iss = s.iss :=
  List.foldlRecOn l f (motive := fun t : State => t.iss = s.iss) rfl fun _ ht a _ => (hf _ a).trans ht

theorem State.iss_of_sameButUnits {t : State} (h : s.sameButUnits t) : t.iss = s.iss := by
  unfold State.sameButUnits at h
  rw [h]

theorem State.iss_flushHeld (tk : Nat) : (s.flushHeld tk).iss = s.iss := by
  unfold State.flushHeld
  dsimp only
  rw [State.clearCovered_only]
  exact State.iss_foldl (fun _ c => State.iss_foldl (fun _ i => by split <;> rfl) _ _) _ s

theorem State.iss_tidyCluster (ck : Nat) : (s.tidyCluster ck).iss = s.iss := by
  unfold State.tidyCluster
  dsimp only
  split
  · split <;> exact State.iss_foldl (fun _ _ => by rfl) _ _
  · rfl

theorem State.iss_tidy (gid : Nat) : (s.tidy gid).iss = s.iss := by
  have h : ∀ (v : State) a b, ((v.tidyTeam a).tidyCluster b).iss = v.iss := fun v a b => by
    rw [State.iss_tidyCluster, v.iss_of_sameButUnits (v.sameButUnits_tidyTeam a)]
  unfold State.tidy
  dsimp only
  split
  · exact h ..
  · exact (State.iss_foldl (fun _ _ => h ..) _ _).trans (h ..)

theorem State.iss_endGroup (gid : Nat) : (s.endGroup gid).iss = s.iss := by
  have hu : ((s.dropEngine gid).releaseA gid).iss = s.iss :=
    s.iss_of_sameButUnits (State.sameButUnits_trans (s.sameButUnits_dropEngine gid) (State.sameButUnits_releaseA _ gid))
  unfold State.endGroup
  dsimp only
  split
  · rw [State.iss_tidy, State.iss_foldl (fun v g => by split <;> rfl)]
    exact (State.iss_flushHeld _ _).trans hu
  · exact hu

end issue

section exit
variable {s : State} {f : XB} {m : Lanes}

/-- The group that lanes `m` have left, the others of its run having moved on. -/
def State.exitLeft (s : State) (m : Lanes) : Group := (s.cur.advance (s.iss.run &&& ~~~m)).exitLanes m

theorem State.exited_exitLeft : (s.exitLeft m).releaseMasks.exited = s.cur.exited ||| m ∧ (s.exitLeft m).releaseMasks.slot = s.cur.slot := by
  have h := (s.exitLeft m).releaseMasks_spec.1
  unfold Group.sameButRelease at h
  rw [h]
  simp only [State.exitLeft, Group.exitLanes, Group.advance, and_self]

theorem Group.lastExit_iff (g : Group) : g.lastExit m = true ↔ m ≠ 0 ∧ g.exited ||| m = allLanes := by
  simp [Group.lastExit]

/-- The effect of an `EXIT`. -/
def State.exitAct (s : State) (m : Lanes) : Option State :=
  if s.cur.lastExit m && !s.cur.outs.isEmpty then none
  else some (if s.cur.lastExit m then ((s.setCur (s.exitLeft m).releaseMasks).markIssued).endGroup s.iss.gid
    else (s.setCur (s.exitLeft m).releaseMasks).markIssued)

theorem execExit_eq : exec (.exit f) s = .next (s.runX { guard := f.guard, deliver := true } noFault State.exitAct) := by
  show execExit f s = _
  have h (s : State) (m : Lanes) : (s.advanceBut m).setCur ((s.advanceBut m).cur.exitLanes m).releaseMasks
      = (s.setCur (s.exitLeft m).releaseMasks).markIssued := by
    rw [State.advanceBut, State.markIssued_cur, State.cur_setCur, State.markIssued_setCur]
    rfl
  unfold execExit
  congr 2
  funext s m
  dsimp only
  rw [h, State.exitAct, State.markIssued_cur, State.cur_setCur, State.exited_exitLeft.1]
  have hlast : (decide (s.cur.exited ||| m = allLanes) && m != 0) = s.cur.lastExit m := Bool.and_comm ..
  rw [hlast]
  rfl

end exit

/-- Settles O13: lanes that are not the last leave the group as it is without them; the last end it, when none of its requests is open. -/
theorem exits : Obligations.Exits := by
  unfold Obligations.Exits
  intro s f m h
  obtain ⟨hex, hslot⟩ := s.exited_exitLeft (m := m)
  have hgo {u : State} (ha : s.exitAct m = some u) (hi : u.iss.issued = true) : exec (.exit f) s = .next u.afterX := by
    rw [execExit_eq, State.runX_go h rfl ha hi]
  refine ⟨fun hn => ?_, fun hall hm ho => ?_, fun hl ho => ?_⟩
  · have hl : s.cur.lastExit m = false := by
      rw [Bool.eq_false_iff, ne_eq, Group.lastExit_iff, ← hex]
      exact fun ⟨hm, hall⟩ => hn.elim (· hall) hm
    have ha : s.exitAct m = some (s.setCur (s.exitLeft m).releaseMasks).markIssued := by simp [State.exitAct, hl]
    exact ⟨_, hgo ha rfl, s.afterX_done _ hslot⟩
  · have hl : s.cur.lastExit m = true := s.cur.lastExit_iff.2 ⟨hm, hex.symm.trans hall⟩
    have ha : s.exitAct m = some (((s.setCur (s.exitLeft m).releaseMasks).markIssued).endGroup s.iss.gid) := by
      simp [State.exitAct, hl, ho]
    exact ⟨_, hgo ha (by rw [State.iss_endGroup]; rfl), rfl⟩
  · rw [execExit_eq, State.runX_stall h rfl]
    simp [State.exitAct, hl, ho]

end Sys2Proof.Machine

/-! PROOF. The encoding-and-state causes come before any effect (spec/05_cores_and_execution.md R99, R100, R106, R114,
spec/15_isa_memory_atomics_sync.md R341). -/
namespace Sys2Proof.Machine

/-! ### The tests before a word, cause by cause (R114) -/

section pre
variable {s : State} {n : Needs}

/-- A register field outside the allocation comes first. -/
theorem State.pre_field (hk : s.cur.awaits n.keys s.iss.run = false) (hr : n.reserved = none)
    (hf : ∃ r ∈ n.regs ++ guardRegs n.guard, s.cur.nregs ≤ r) : s.pre n = .trap 0x05 s.iss.run 0 0 := by
  have ha : ((n.regs ++ guardRegs n.guard).any (s.cur.nregs ≤ ·)) = true := by
    rw [List.any_eq_true]
    obtain ⟨r, hm, hle⟩ := hf
    exact ⟨r, hm, decide_eq_true hle⟩
  simp only [State.pre, hk, hr, ha, Option.isSome_none, Bool.and_false, Bool.false_eq_true, if_false, if_true]

/-- With the register fields in the allocation and the guard known: convergence, then latches, then a region in a trap handler. -/
theorem State.pre_state (hk : s.cur.awaits n.keys s.iss.run = false) (hr : n.reserved = none)
    (hf : ∀ r ∈ n.regs ++ guardRegs n.guard, r < s.cur.nregs) (hg : s.cur.awaits (guardRegs n.guard) s.iss.run = false)
    (hu : s.cur.unknownFor (guardRegs n.guard) s.iss.run = none) (hp : n.priv = false) :
    ∃ p, s.pre n =
      if n.coll && (s.iss.run != allLanes || (s.cur.active s.iss.run n.guard != 0 && s.cur.active s.iss.run n.guard != allLanes)) then
        .trap 0x03 s.iss.run 0 0
      else if n.latches.any fun b => !s.cur.lvalid.getLsbD b then .trap 0x04 s.iss.run 0 0
      else if n.region && s.cur.handler.isSome then .trap 0x13 s.iss.run 0 0
      else p := by
  have ha : ((n.regs ++ guardRegs n.guard).any (s.cur.nregs ≤ ·)) = false := by
    rw [List.any_eq_false]
    intro r h
    simpa using hf r h
  refine ⟨if s.cur.lacks n (s.cur.active s.iss.run n.guard) || s.cur.mustFollow n (s.cur.active s.iss.run n.guard) then .stall
    else match s.cur.unknowns.find? (n.delivers (s.cur.active s.iss.run n.guard)) with
      | some u => s.cur.delivers u
      | none => .go (s.cur.active s.iss.run n.guard), ?_⟩
  simp only [State.pre, hk, hr, ha, hg, hu, hp, Option.isSome_none, Bool.and_false, Bool.false_eq_true, if_false] <;> rfl

end pre

/-! ### Words whose tests are those of what they need -/

/-- A trap that the tests of `n` find is the trap that the word `i` takes. -/
def State.TrapsOn (s : State) (i : Instr) (n : Needs) : Prop :=
  ∀ c m a x, s.pre n = .trap c m a x → exec i s = .next (s.takeTrap c m a x)

/-- Two needs give the same encoding-and-state causes, but that the first may begin a region where the second does not, or need a privilege
where the second has no cause that would come after it. -/
structure Needs.SameCauses (n k : Needs) : Prop where
  guard : n.guard = k.guard
  regs : ∀ r, r ∈ n.regs ↔ r ∈ k.regs
  coll : n.coll = k.coll
  latches : n.latches = k.latches
  region : k.region = true → n.region = true
  keys : n.keys = k.keys
  reserved : n.reserved = k.reserved
  priv : n.priv = k.priv ∨ (k.coll = false ∧ k.latches = [] ∧ k.region = false)

/-- The lanes of the run are together for a collective word, and all of them are active or none (R99). -/
def State.together (s : State) (n : Needs) : Prop :=
  n.coll = true → s.iss.run = allLanes ∧ (s.cur.active s.iss.run n.guard = 0 ∨ s.cur.active s.iss.run n.guard = allLanes)

/-- A word that runs by needs with the causes of `n`. -/
def State.Tests (s : State) (i : Instr) (n : Needs) : Prop := ∃ k, s.TrapsOn i k ∧ k.SameCauses n

section tests
variable {s : State} {i : Instr} {n k : Needs}

theorem Needs.SameCauses.refl (n : Needs) : n.SameCauses n := ⟨rfl, fun _ => .rfl, rfl, rfl, id, rfl, rfl, .inl rfl⟩

/-- The causes of a word are those of its tests, for its run, before anything that it does. -/
theorem State.Tests.encodingCauses (h : s.Tests i n) : s.EncodingCauses i n := by
  obtain ⟨k, ht, hc⟩ := h
  have hregs : ∀ r, r ∈ k.regs ++ guardRegs k.guard ↔ r ∈ n.regs ++ guardRegs n.guard := fun r => by
    simp only [List.mem_append, hc.regs, hc.guard]
  have hcoll : (n.coll && (s.iss.run != allLanes
      || (s.cur.active s.iss.run n.guard != 0 && s.cur.active s.iss.run n.guard != allLanes))) = true ↔ ¬ s.together n := by
    simp only [State.together, Bool.and_eq_true, Bool.or_eq_true, bne_iff_ne]
    tauto
  have hlatch : (n.latches.any fun b => !s.cur.lvalid.getLsbD b) = true ↔ ∃ b ∈ n.latches, s.cur.lvalid.getLsbD b = false := by
    simp [List.any_eq_true]
  refine fun hk hr => ⟨fun ⟨r, hm, hle⟩ => ?_, fun hf hg hu hp => ?_⟩
  · exact ht _ _ _ _ (State.pre_field (by rwa [hc.keys]) (hc.reserved.trans hr) ⟨r, (hregs r).2 hm, hle⟩)
  rcases hc.priv with hpriv | ⟨hnc, hnl, hnr⟩
  case inr =>
    exact ⟨fun h => absurd (fun hn => by simp [hnc] at hn) h, fun _ ⟨b, hb, _⟩ => by simp [hnl] at hb, fun _ _ h => by simp [hnr] at h⟩
  obtain ⟨p, hpre⟩ := State.pre_state (by rwa [hc.keys]) (hc.reserved.trans hr) (fun r hm => hf r ((hregs r).1 hm)) (by rwa [hc.guard])
    (by rwa [hc.guard]) (hpriv.trans hp)
  rw [hc.coll, hc.guard, hc.latches] at hpre
  refine ⟨fun hn => ht _ _ _ _ ?_, fun hn hl => ht _ _ _ _ ?_, fun hn hl hreg hh => ht _ _ _ _ ?_⟩
  · rw [hpre, if_pos (hcoll.2 hn)]
  · rw [hpre, if_neg (fun h => hcoll.1 h hn), if_pos (hlatch.2 hl)]
  · have hnl : ¬ (n.latches.any fun b => !s.cur.lvalid.getLsbD b) = true := fun h => by
      obtain ⟨b, hb, hv⟩ := hlatch.1 h
      rw [hl b hb] at hv
      cases hv
    rw [hpre, if_neg (fun h => hcoll.1 h hn), if_neg hnl, if_pos]
    simp [hc.region hreg, Option.isSome_iff_ne_none, hh]

theorem State.trapsOn_afterPre {go : Lanes → State} (h : exec i s = .next (s.afterPre (s.pre n) go)) : s.TrapsOn i n := by
  intro c m a x hp
  rw [h, hp]
  rfl

/-- An X word. -/
theorem State.tests_runX {fault : Lanes → Option DataFault} {act : State → Lanes → Option State}
    (h : exec i s = .next (s.runX n fault act)) (hc : n.SameCauses k) : s.Tests i k :=
  ⟨n, State.trapsOn_afterPre h, hc⟩

/-- An X word whose causes are written as they are tested, but that it may begin a region where `k` does not. -/
theorem State.tests_region {fault : Lanes → Option DataFault} {act : State → Lanes → Option State} (h : exec i s = .next (s.runX n fault act))
    (hc : (n.guard, n.regs, n.coll, n.latches, n.keys, n.reserved, n.priv) = (k.guard, k.regs, k.coll, k.latches, k.keys, k.reserved, k.priv))
    (hr : k.region = true → n.region = true) : s.Tests i k := by
  simp only [Prod.mk.injEq] at hc
  obtain ⟨h1, h2, h3, h4, h5, h6, h7⟩ := hc
  exact State.tests_runX h ⟨h1, fun r => by rw [h2], h3, h4, hr, h5, h6, .inl h7⟩

/-- An X word whose causes are written as they are tested. -/
theorem State.tests_same {fault : Lanes → Option DataFault} {act : State → Lanes → Option State} (h : exec i s = .next (s.runX n fault act))
    (hc : (n.guard, n.regs, n.coll, n.latches, n.region, n.keys, n.reserved, n.priv)
      = (k.guard, k.regs, k.coll, k.latches, k.region, k.keys, k.reserved, k.priv)) : s.Tests i k := by
  simp only [Prod.mk.injEq] at hc
  obtain ⟨h1, h2, h3, h4, h5, h6, h7, h8⟩ := hc
  exact State.tests_runX h ⟨h1, fun r => by rw [h2], h3, h4, h5.trans, h6, h7, .inl h8⟩

/-! ### T, I and P words (R256 to R263) -/

theorem State.tests_runT {opc : Nat} {f : TF} {op : Lanes → (Nat → Dword) → (Nat → Dword) → (Nat → Dword) → Nat → LaneRes}
    (h : exec i s = .next (s.runT opc f op)) : s.Tests i (tNeeds opc f) :=
  ⟨_, State.trapsOn_afterPre h, .refl _⟩

theorem State.tests_runI {opc : Nat} {f : IF} {imm : Shape.Src → Word → Dword} {op : Dword → Dword → Dword → LaneRes}
    (h : exec i s = .next (s.runI opc f imm op)) : s.Tests i (iNeeds opc f) :=
  ⟨_, State.trapsOn_afterPre h, .refl _⟩

theorem State.tests_runP {op0 op1 : POp} {h0 h1 : HF} {op : POp → Nat → Dword → Dword → LaneRes}
    (h : exec i s = .next (s.runP op0 h0 op1 h1 op)) : s.Tests i (pNeeds op0 h0 op1 h1) :=
  ⟨_, State.trapsOn_afterPre h, .refl _⟩

/-- `MOVX` waits for older results besides; its own test of an unknown outcome comes after these. -/
theorem State.tests_movx {wide nw : Bool} {dst : Nat} {keep : List Nat} {idx : Nat → Nat}
    (h : exec i s = .next (s.movx n wide dst nw keep idx)) : s.Tests i n :=
  ⟨{ n with drain := true }, fun c m a x hp => by rw [h, State.movx, hp]; rfl, ⟨rfl, fun _ => .rfl, rfl, rfl, id, rfl, rfl, .inl rfl⟩⟩

theorem State.tests_movxw {wide : Bool} {src : Nat} {keep : List Nat} {idx : Nat → Nat}
    (h : exec i s = .next (s.movxw n wide src keep idx)) : s.Tests i n :=
  ⟨n, State.trapsOn_afterPre h, .refl n⟩

end tests

section rows
variable (s : State)

theorem State.tests_intRows (f : TF) {i : Instr} {opc : Nat} (h : (i, opc) ∈ intRows f) : s.Tests i (tNeeds opc f) := by
  fin_cases h <;> exact State.tests_runT rfl

theorem State.tests_fpRows (f : TF) {i : Instr} {opc : Nat} (h : (i, opc) ∈ fpRows f) : s.Tests i (tNeeds opc f) := by
  fin_cases h <;> exact State.tests_runT rfl

/-- The cross-lane and the conversion words. -/
theorem State.tests_laneRows (f : TF) {i : Instr} {opc : Nat} (h : (i, opc) ∈ [(.shfl f, 0x030), (.xperm f, 0x031), (.vote f, 0x032),
    (.ballot f, 0x033), (.matchv f, 0x034), (.scan f, 0x035), (.fcvt f, 0x070), (.fcvti f, 0x071), (.icvtf f, 0x072), (.plsplit f, 0x073),
    (.pljoin f, 0x074), (.bpack f, 0x075), (.bunpk f, 0x076)]) : s.Tests i (tNeeds opc f) := by
  fin_cases h <;> exact State.tests_runT rfl

theorem State.tests_intRowsI (f : IF) {i : Instr} {opc : Nat} (h : (i, opc) ∈ intRowsI f) : s.Tests i (iNeeds opc f) := by
  fin_cases h <;> exact State.tests_runI rfl

theorem State.tests_fpRowsI (f : IF) {i : Instr} {opc : Nat} (h : (i, opc) ∈ fpRowsI f) : s.Tests i (iNeeds opc f) := by
  fin_cases h <;> exact State.tests_runI rfl

theorem State.tests_halfRows (h0 : HF) (op1 : POp) (h1 : HF) {i : Instr} {op0 : POp} (h : (i, op0) ∈ halfRows h0 op1 h1) :
    s.Tests i (pNeeds op0 h0 op1 h1) := by
  fin_cases h <;> exact State.tests_runP rfl

/-! ### X words -/

theorem not_isEmpty_filter {α : Type} (p : α → Bool) (l : List α) : (!(l.filter p).isEmpty) = l.any p := by
  rw [Bool.eq_iff_iff]
  simp [List.any_eq_true]

/-- A region that a held store or a full window begins, of a word with active lanes. -/
theorem active_region (a h f w : Bool) : (a && h || a && f && w) = (a && (h || f && w)) := by cases a <;> simp

/-- The same where a held store begins one for some places alone. -/
theorem commit_region (a h f p w : Bool) : (a && h && p || a && f && w) = (a && (h && p || f && w)) := by cases a <;> simp

/-- The same for a word that clears. -/
theorem clear_region (a h c f w : Bool) : (a && h && c || a && (c && f) && w) = (a && c && (h || f && w)) := by
  cases a <;> cases c <;> simp

/-- `LDP`'s registers: one, or a pair of a 64-bit element. -/
theorem State.tests_ldp (m : XM) :
    s.Tests (.ldp m) { guard := m.guard, regs := addrRegs m ++ range' m.data.toNat (if m.width = 3 then 2 else 1) } := by
  have hd : (if m.width = 3 then range' m.data.toNat 2 else [m.data.toNat]) = range' m.data.toNat (if m.width = 3 then 2 else 1) := by
    split <;> rfl
  exact State.tests_runX rfl ⟨rfl, fun r => iff_of_eq (congrArg (r ∈ addrRegs m ++ ·) hd), rfl, rfl, id, rfl, rfl, .inl rfl⟩

/-- `ATOM`, `RED` and `ATOMV`: a global lane takes a serial. -/
theorem State.tests_rmw (m : XM) {i j : Instr} {k : RmwKind} (h : exec i s = s.rmw j k m) : s.Tests i
    { guard := m.guard, regs := addrRegs m ++ rmwOperands k m
      region := ((lanePlaces (s.cur.active s.iss.run m.guard) (s.rmwRes m (rmwBytes k m) true)).any fun x => isGlobal x.place)
        && s.cur.windowRegion } :=
  State.tests_region h rfl ((congrArg (· && s.cur.windowRegion) (not_isEmpty_filter _ _)).trans ·)

/-- A tile word: the region of a held store, or of a serial for another package. -/
theorem State.tests_tileWord (f : XE) {i : Instr} {k : TileKind} {regs : List (BitVec 8)} (h : exec i s = s.tileWord i k f regs) : s.Tests i
    { guard := f.guard, regs := regs.flatMap pairRegs, coll := true
      region := s.cur.active s.iss.run f.guard != 0 && (s.cur.hold
        || ((match s.tileKnown k f.flags (regs.map fun x => s.cur.v64 0 x.toNat) with
          | some (.ok x) => x.far
          | _ => false) && s.cur.windowRegion)) } :=
  State.tests_region h rfl ((active_region _ _ _ _).trans ·)

/-- `TSAMP`: `.clr` alone begins a region, and reads its record before. -/
theorem State.tests_tsamp (f : XE) : s.Tests (.tsamp f)
    { guard := f.guard, regs := pairRegs f.e0, coll := true
      region := s.cur.active s.iss.run f.guard != 0 && f.flags = 1 && (s.cur.hold
        || ((valuesOf [s.tsampPages (s.cur.v64 0 f.e0.toNat)]).flatten.any fun p => p.kind = 2) && s.cur.windowRegion)
      keys := if f.flags = 1 then pairRegs f.e0 else []
      reserved := if f.flags = 1 && s.cur.v64 0 f.e0.toNat = 0 then some (instrWord (.tsamp f)) else none } := by
  have hf : (f.flags == 1) = decide (f.flags = 1) := rfl
  refine State.tests_runX rfl ⟨rfl, fun _ => .rfl, rfl, rfl, fun hr => ?_, ?_, rfl, .inl rfl⟩
  · exact (clear_region _ _ _ _ _).trans hr
  · simp only [hf, decide_eq_true_eq]

/-- `OSGD` and `OADAM`: a pair for a wide parameter. -/
theorem State.tests_optUpdate (f : XE) {i : Instr} {adam : Bool} (h : exec i s = s.optUpdate i adam f) : s.Tests i
    { guard := f.guard, regs := pairRegs f.e0 ++ range' f.e1.toNat (if f.flags = 1 then 2 else 1) ++ pairRegs f.e2
      region := s.cur.active s.iss.run f.guard != 0 && s.cur.windowRegion } := by
  refine State.tests_runX h ⟨rfl, fun r => ?_, rfl, rfl, id, rfl, rfl, .inl rfl⟩
  simp only [beq_iff_eq]

theorem State.tests_rdsr (f : XE) : s.Tests (.rdsr f)
    { guard := f.guard, regs := range' f.e0.toNat (if Shape.stateWidth f.e1.toNat = some 64 then 2 else 1) } := by
  refine State.tests_runX rfl ⟨rfl, fun r => ?_, rfl, rfl, id, rfl, rfl, .inl rfl⟩
  simp only [beq_iff_eq]

/-- `WRSR` needs a privilege for a state that it cannot write; no cause that is written would come after it. -/
theorem State.tests_wrsr (f : XE) : s.Tests (.wrsr f) { guard := f.guard, regs := [f.e1.toNat] } :=
  State.tests_runX rfl ⟨rfl, fun _ => .rfl, rfl, rfl, id, rfl, rfl, .inr ⟨rfl, rfl, rfl⟩⟩

/-- `STP`'s lanes begin a region when a held store has no room; one for a remote lane is not among the causes written. -/
theorem State.tests_stp (m : XM) : s.Tests (.stp m)
    { guard := m.guard, regs := addrRegs m ++ stpData m ++ stpKey m
      region :=
        let xs := lanePlaces (s.cur.active s.iss.run m.guard) (s.planeRes m.addr (offStp m) (m.pln.toNat + 1) 2 2 true)
        (s.writeLanes s.cur.hold xs (s.stpPut m xs)).isNone } :=
  State.tests_region rfl rfl fun hr => Bool.or_eq_true_iff.2 (.inl hr)

/-- The region that an `MWR.mem` begins: its cells, as far as its checks find them. -/
theorem State.tests_mwrMem (f : XE) : s.Tests (.mwrMem f)
    { guard := f.guard, regs := pairRegs f.e0 ++ [f.e1.toNat, f.e3.toNat] ++ range' f.e2.toNat 2, coll := true
      region := s.cur.active s.iss.run f.guard != 0 && (s.cur.hold && (match s.memCheck f with
          | .ok x => x.2.2.2.any fun x => x.place.kind != 3
          | .error _ => false)
        || (match s.memCheck f with
          | .ok x => x.2.2.2.any fun x => x.place.kind = 2
          | .error _ => false) && s.cur.windowRegion) } := by
  refine State.tests_region rfl rfl ?_
  dsimp only
  cases s.memCheck f <;> exact ((commit_region _ _ _ _ _).trans ·)

/-- The X words. -/
theorem State.tests_xRows (b : XB) (m : XM) (e : XE) : ∀ p ∈ s.xRows b m e, s.Tests p.1 p.2 := by
  simp only [State.xRows, List.forall_mem_append, List.forall_mem_cons, List.not_mem_nil, false_imp_iff, implies_true, and_true]
  have same {i : Instr} {n k : Needs} {fault : Lanes → Option DataFault} {act : State → Lanes → Option State} :=
    @State.tests_same s i n k fault act
  refine ⟨⟨⟨⟨?branches, ?sync⟩, ?matrix⟩, ?tiles⟩, ?system⟩
  case branches =>
    exact ⟨same rfl rfl, same rfl rfl, same rfl rfl, same rfl rfl, same rfl rfl, same rfl rfl, same rfl rfl, same rfl rfl,
      same rfl rfl, same rfl rfl, same rfl rfl, same rfl rfl, same rfl rfl, same rfl rfl, same rfl rfl,
      same rfl rfl, same rfl rfl, s.tests_ldp m, s.tests_stp m, same rfl rfl, same rfl rfl, same rfl rfl, same rfl rfl, same rfl rfl,
      same rfl rfl, s.tests_rmw m rfl, s.tests_rmw m rfl, s.tests_rmw m rfl, same rfl rfl⟩
  case sync =>
    exact ⟨same rfl rfl, same rfl rfl, same rfl rfl, same rfl rfl, same rfl rfl, same rfl rfl, same rfl rfl, same rfl rfl,
      same rfl rfl, same rfl rfl, same rfl rfl, same rfl rfl, same rfl rfl, same rfl rfl, same rfl rfl, same rfl rfl⟩
  case matrix =>
    exact ⟨same rfl rfl, same rfl rfl, same rfl rfl, same rfl rfl, same rfl rfl, same rfl rfl, same rfl rfl, same rfl rfl,
      s.tests_mwrMem e⟩
  case tiles =>
    exact ⟨s.tests_tileWord e rfl, s.tests_tileWord e rfl, s.tests_tileWord e rfl, s.tests_tileWord e rfl, s.tests_tileWord e rfl,
      s.tests_tileWord e rfl, s.tests_tileWord e rfl, s.tests_tileWord e rfl, s.tests_tsamp e, same rfl rfl, same rfl rfl, same rfl rfl⟩
  case system =>
    exact ⟨s.tests_optUpdate e rfl, s.tests_optUpdate e rfl, same rfl rfl, same rfl rfl, same rfl rfl, s.tests_rdsr e, s.tests_wrsr e,
      same rfl rfl⟩

end rows

/-- Settles O10: every word runs by tests whose causes are the ones written, and the tests come before anything that a word does. -/
theorem encodingTraps : Obligations.EncodingTraps := by
  unfold Obligations.EncodingTraps
  refine fun s => ⟨fun f i opc h => ?_, fun f i opc h => ?_, fun h0 op1 h1 i op0 h => (s.tests_halfRows h0 op1 h1 h).encodingCauses,
    fun f g => ⟨(State.tests_movx rfl).encodingCauses, (State.tests_movx rfl).encodingCauses, (State.tests_movxw rfl).encodingCauses,
      (State.tests_movxw rfl).encodingCauses⟩, fun b m e i n h => (s.tests_xRows b m e (i, n) h).encodingCauses⟩
  · rcases h with h | h | h
    · exact (s.tests_intRows f h).encodingCauses
    · exact (s.tests_fpRows f h).encodingCauses
    · exact (s.tests_laneRows f h).encodingCauses
  · rcases h with h | h
    · exact (s.tests_intRowsI f h).encodingCauses
    · exact (s.tests_fpRowsI f h).encodingCauses

end Sys2Proof.Machine

/-! PROOF. How results land, and what wakes a parked group (spec/05_cores_and_execution.md R107, spec/06_address_spaces.md R123,
spec/07_memory_model.md R160, spec/15_isa_memory_atomics_sync.md R325, R337 to R346, spec/17_isa_tiles_updates_system.md R387). -/
namespace Sys2Proof.Machine

/-! ### A result lands (R107) -/

/-- The word that a result brings for a register of a lane. -/
def Late.word (x : Late) (r l : Nat) : Word := ((x.rows.find? fun y => y.1 = r).map fun y => laneAt y.2 l).getD 0

/-- A lane's register after writes of rows, whose values are given by `val` for every write of the register. -/
theorem laneAt_foldl_rowSet (val : Nat → Nat → Word) (regs : List (Nat × Lanes)) (t : Tab Row) (r l : Nat) :
    laneAt (tabGet zeroRow (regs.foldl (fun t p => tabSet zeroRow t p.1 (rowSet (tabGet zeroRow t p.1) p.2 (val p.1))) t) r) l =
      if regs.any fun p => p.1 = r && p.2.getLsbD l then val r l else laneAt (tabGet zeroRow t r) l := by
  induction regs generalizing t with
  | nil => simp
  | cons p regs ih =>
    rw [List.foldl_cons, ih, tabGet_tabSet, List.any_cons]
    by_cases hr : r = p.1
    · subst hr
      cases regs.any (fun q => decide (q.1 = p.1) && q.2.getLsbD l) <;> simp
    · simp [hr, Ne.symm hr]

/-- Of the entries of a list the one at `k` goes. -/
theorem length_filterMap_zipIdx {α β : Type} {f : α × Nat → Option β} {k : Nat} (hf : ∀ y, (f y).isSome = decide (y.2 ≠ k)) {l : List α}
    (hk : k < l.length) : (l.zipIdx.filterMap f).length + 1 = l.length := by
  have hone : l.zipIdx.countP (fun y => decide (y.2 = k)) = 1 := by
    have h1 : (l.zipIdx.map Prod.snd).count k = 1 := by
      rw [List.zipIdx_map_snd]
      exact List.count_eq_one_of_mem List.nodup_range' (by simp [hk])
    rw [← h1, List.count, List.countP_map]
    exact List.countP_congr fun y _ => by simp
  have hall := List.length_eq_countP_add_countP (fun y : α × Nat => decide (y.2 ≠ k)) (l := l.zipIdx)
  rw [List.length_zipIdx] at hall
  rw [List.length_filterMap_eq_countP, hall, show l.zipIdx.countP (fun y => (f y).isSome) = l.zipIdx.countP (fun y => decide (y.2 ≠ k)) from
    List.countP_congr fun y _ => by rw [hf]]
  simpa using hone.symm

section land
variable {g : Group} {k : Nat} {x : Late}

theorem Group.land_spec (hx : g.late[k]? = some x) (hr : x.ready = true) (hh : x.isHidden = false) :
    (g.land k).late.length + 1 = g.late.length
      ∧ ∀ r l, (g.land k).v l r = if x.regs.any fun p => p.1 = r && p.2.getLsbD l then x.word r l else g.v l r := by
  have hk : k < g.late.length := (List.getElem?_eq_some_iff.1 hx).1
  simp only [Group.land, hx, hr, hh, Bool.not_false, Bool.and_self, if_true]
  refine ⟨length_filterMap_zipIdx (fun y => ?_) hk, fun r l => laneAt_foldl_rowSet x.word x.regs g.regs r l⟩
  by_cases hy : y.2 = k
  · simp [hy]
  · by_cases hlt : y.2 < k <;> simp [hy, hlt]

end land

theorem execRegisterWriteback_live {s : State} (hl : (s.group s.inp.gid).live = true) :
    exec .registerWriteback s = .next (s.setGroup s.inp.gid ((s.group s.inp.gid).land s.inp.idx)) :=
  congrArg Host.Outcome.next (if_pos hl)

/-! ### A parked group goes on (R92) -/

section wake
variable {s : State} {w : Wait}

/-- The parked group of the event with its instruction in the issue stage again. -/
def State.woken (s : State) (w : Wait) : State :=
  { s.setGroup s.inp.gid { s.group s.inp.gid with wait := none } with iss := s.issueWait s.inp.gid w }

theorem State.wake_next (hw : (s.group s.inp.gid).wait = some w) (hu : s.unstopped s.inp.gid = true) (ha : w.absent = false)
    {ok : Instr → Bool} (hok : ok w.i = true) {go : Wait → State → Out} {u : State} (hgo : go w (s.woken w) = .next u) :
    s.wake ok go = .next u.finishIssue := by
  unfold State.wake
  simp only [hw, hok, ha, hu, Bool.not_false, Bool.and_self, if_true]
  exact congrArg (Out.map · State.finishIssue) hgo

theorem execPresenceWake_absent (hw : (s.group s.inp.gid).wait = some w) (hu : s.unstopped s.inp.gid = true) (ha : w.absent = true) :
    exec .presenceWake s = .next (s.setGroup s.inp.gid { s.group s.inp.gid with wait := none }) := by
  show execPresenceWake s = _
  simp only [execPresenceWake, hw, ha, hu, Bool.and_self, if_true]

end wake

/-! ### Translation does not look at monitors (R130 to R132, R160)

Of the dies it reads ORDSIZE alone. -/

section dies
variable {s : State} {D : Tab Die} (hD : ∀ d, (tabGet {} D d).ordSize = (s.die d).ordSize)
include hD

theorem State.inOrdinary_dies (pa : Nat) : ({ s with dies := D } : State).inOrdinary pa = s.inOrdinary pa := by
  have hd : (({ s with dies := D } : State).die (sheetDie pa)).ordSize = (s.die (sheetDie pa)).ordSize := hD _
  unfold State.inOrdinary
  rw [hd]
  rfl

theorem State.leafBad_dies (level e : Nat) : ({ s with dies := D } : State).leafBad level e = s.leafBad level e := by
  unfold State.leafBad
  simp only [State.inOrdinary_dies hD]

theorem State.walk_dies (va level table : Nat) : ({ s with dies := D } : State).walk va level table = s.walk va level table := by
  induction level generalizing table with
  | zero => rfl
  | succ level ih =>
    unfold State.walk
    simp only [State.inOrdinary_dies hD, State.leafBad_dies hD, ih]
    rfl

theorem State.coreAccess_dies (gid : Nat) (va : Dword) (write : Bool) (k : Nat) :
    ({ s with dies := D } : State).coreAccess gid va write k = s.coreAccess gid va write k := by
  have hw : ∀ ctx, ({ s with dies := D } : State).walkCtx ctx va = s.walkCtx ctx va := fun ctx => by
    unfold State.walkCtx
    rw [State.walk_dies hD]
    rfl
  unfold State.coreAccess State.translate
  simp only [hw]
  rfl

theorem State.resolve_dies (gid l : Nat) (a : Dword) (width align : Nat) (write : Bool) :
    ({ s with dies := D } : State).resolve gid l a width align write = s.resolve gid l a width align write := by
  unfold State.resolve
  simp only [State.coreAccess_dies hD]
  rfl

theorem State.waitaLanes_dies (f : XM) (left : Lanes) (t : Place → Bool) :
    ({ s with dies := D } : State).waitaLanes f left t = s.waitaLanes f left t := by
  have hr : ({ s with dies := D } : State).rmwRes f (widthBytes f.width) false = s.rmwRes f (widthBytes f.width) false := by
    funext l
    unfold State.rmwRes State.plainRes
    simp only [State.resolve_dies hD]
    rfl
  unfold State.waitaLanes
  rw [hr]

end dies

theorem State.waitaLanes_readMonitors (s : State) (gid line : Nat) (f : XM) (left : Lanes) (t : Place → Bool) :
    (s.readMonitors gid line).waitaLanes f left t = s.waitaLanes f left t := by
  refine State.waitaLanes_dies (s := s) (fun d => ?_) f left t
  unfold State.die
  rw [tabGet_tabSet]
  split
  · next h => rw [h]
  · rfl

/-! ### The words that go on as they began (R338 to R340, R343 to R345, R352, R362) -/

section again
variable {s : State} {w : Wait} {i : Instr}

/-- An event that wakes the instruction parked. -/
theorem State.wake_parked {o : Out} {ok : Instr → Bool} {go : Wait → State → Out} {u : State} (ho : o = s.wake ok go)
    (hw : (s.group s.inp.gid).wait = some w) (hu : s.unstopped s.inp.gid = true) (ha : w.absent = false) (hi : w.i = i) (hok : ok i = true)
    (hgo : go { w with i } (s.woken w) = .next u) : o = .next u.finishIssue := by
  subst hi
  rw [ho]
  exact State.wake_next hw hu ha hok hgo

/-- `LDFE` and `STFE`: the waiting lanes that can take their steps. -/
theorem execFullEmptyWake_parked {load : Bool} {f : XM} (hw : (s.group s.inp.gid).wait = some w) (hu : s.unstopped s.inp.gid = true)
    (ha : w.absent = false) (hi : w.i = .ldfe f ∧ load = true ∨ w.i = .stfe f ∧ load = false) :
    let r := (s.woken w).feSteps load f w.left
    exec .fullEmptyWake s = .next (if r.2 = 0 then r.1.feDone.afterX
      else (r.1.repark w r.2).took ((s.woken w).feTaken f (w.left &&& ~~~r.2))).finishIssue := by
  intro r
  show execFullEmptyWake s = _
  unfold execFullEmptyWake
  rcases hi with ⟨hi, rfl⟩ | ⟨hi, rfl⟩ <;> exact State.wake_next hw hu ha (by rw [hi]) (by simp only [hi]; rfl)

/-- `WAITA` reads again: the monitors of the line, when its value is a new one, then the lanes. -/
theorem execWaitaMonitorReread_parked {f : XM} (hw : (s.group s.inp.gid).wait = some w) (hu : s.unstopped s.inp.gid = true) (ha : w.absent = false)
    (hi : w.i = .waita f) :
    let hit := (s.monitors s.inp.gid).any fun m => m.line = s.inp.line && m.value != s.lineValue (groupTeam s.inp.gid) s.inp.line
    let v' := if hit then (s.woken w).readMonitors s.inp.gid s.inp.line else s.woken w
    exec .waitaMonitorReread s = .next (v'.waitaRead w f
      (v'.waitaLanes f w.left fun p => p.kind = 3 || (hit && p.kind ≤ 1 && p.pa / 128 = s.inp.line))).finishIssue := by
  intro hit v'
  have hsel (t : Place → Bool) : v'.waitaLanes f w.left t = (s.woken w).waitaLanes f w.left t := by
    unfold v'
    split
    · exact State.waitaLanes_readMonitors ..
    · rfl
  rw [hsel]
  show execWaitaMonitorReread s = _
  unfold execWaitaMonitorReread State.waitaAgain
  exact State.wake_next hw hu ha (by rw [hi]) (by simp only [hi, Bool.false_eq_true, if_false]; rfl)

theorem execWaitaPoll_early (hw : (s.group s.inp.gid).wait = some w)
    (h : ¬ 512 ≤ s.cyclesOf (coreDie (slotCore (s.group s.inp.gid).slot)) (s.now - w.since)) : exec .waitaPoll s = .next s := by
  show execWaitaPoll s = _
  unfold execWaitaPoll
  simp only [hw, Option.map_some, Option.getD_some, decide_eq_true_eq, if_neg h]

theorem execWaitaPoll_due {f : XM} (hw : (s.group s.inp.gid).wait = some w) (hu : s.unstopped s.inp.gid = true) (ha : w.absent = false)
    (hi : w.i = .waita f) (h : 512 ≤ s.cyclesOf (coreDie (slotCore (s.group s.inp.gid).slot)) (s.now - w.since)) :
    exec .waitaPoll s = .next ((s.woken w).waitaRead { w with since := s.now } f
      (w.left &&& ~~~(s.woken w).watched f w.left &&& ~~~(s.woken w).waitaLanes f w.left fun p => p.kind = 3)).finishIssue := by
  show execWaitaPoll s = _
  unfold execWaitaPoll
  simp only [hw, Option.map_some, Option.getD_some, decide_eq_true_eq, if_pos h]
  exact State.wake_next hw hu ha (by rw [hi]) (by simp only [hi, if_true, id]; rfl)

end again

/-! ### The reply of a service (R387) -/

theorem State.finishIssue_spec (s : State) : s.finishIssue.mem = s.mem ∧ s.finishIssue.mailbox = s.mailbox
    ∧ (s.finishIssue.group s.iss.gid).wait = s.cur.wait ∧ (s.finishIssue.group s.iss.gid).v = s.cur.v := by
  unfold State.finishIssue
  dsimp only
  split
  · have hg : ((s.setCur { s.cur.counted s.iss with lastIssue := s.now, lastStep := s.fresh }).group s.iss.gid)
        = { s.cur.counted s.iss with lastIssue := s.now, lastStep := s.fresh } := s.cur_setCur _
    rw [State.group, State.setSlot_groups, ← State.group, hg]
    exact ⟨rfl, rfl, rfl, Group.v_of_regs rfl⟩
  · exact ⟨rfl, rfl, rfl, rfl⟩

theorem execSvcReply_parked {s : State} {w : Wait} {f : XE} {r : SvcReq} (hw : (s.group s.inp.gid).wait = some w)
    (hu : s.unstopped s.inp.gid = true) (ha : w.absent = false) (hi : w.i = .svc f)
    (hr : (s.mailbox.find? fun r => r.gid = s.inp.gid) = some r) (hlast : ∀ x ∈ s.mailbox.erase r, x.gid ≠ s.inp.gid) :
    let b := ({ s with mailbox := s.mailbox.erase r } : State).woken w
    exec .svcReply s = .next (b.setCur (b.cur.setReg64 f.e0.toNat w.left fun _ => s.inp.v)).advance.afterX.finishIssue := by
  intro b
  have hsvc : (s.group s.inp.gid).inSvc = true := by simp only [Group.inSvc, hw, hi]
  have hany : (s.mailbox.erase r).any (fun x => x.gid = s.inp.gid) = false := by
    rw [List.any_eq_false]
    exact fun x hx => by simpa using hlast x hx
  show execSvcReply s = _
  unfold execSvcReply
  simp only [hr, hsvc, hany, hu, Bool.not_true, Bool.or_self, Bool.false_eq_true, if_false]
  have ht : (({ s with mailbox := s.mailbox.erase r } : State).group s.inp.gid).wait = some w := hw
  exact State.wake_next ht hu ha rfl (by simp only [hi]; rfl)

/-- A move past a word, and the fall of the latches, write no register. -/
theorem Group.v_moved (g : Group) (n : Lanes) : ({ g.advance n with lvalid := 0 } : Group).v = g.v :=
  Group.v_of_regs (by simp only [Group.advance])

/-- What the reply leaves: the group runs on with the value in its registers, and the request is gone. -/
theorem State.svcReplied_spec (b : State) (d : Nat) (m : Lanes) (x : Dword) :
    let t := (b.setCur (b.cur.setReg64 d m fun _ => x)).advance.afterX.finishIssue
    (t.group b.iss.gid).wait = b.cur.wait ∧ t.mem = b.mem ∧ t.mailbox = b.mailbox
      ∧ ∀ l r, (t.group b.iss.gid).v l r =
          if m.getLsbD l && r = d then x.setWidth 32 else if m.getLsbD l && r = d + 1 then (x >>> 32).setWidth 32 else b.cur.v l r := by
  intro t
  have hslot : ((b.cur.setReg64 d m fun _ => x).advance b.iss.run).slot = b.cur.slot := by simp [Group.setReg64]
  have hstay : ((b.cur.setReg64 d m fun _ => x).advance b.iss.run).wait = b.cur.wait := by simp [Group.setReg64]
  have hx := b.afterX_done ((b.cur.setReg64 d m fun _ => x).advance b.iss.run) hslot
  rw [← State.setCur_advance] at hx
  obtain ⟨hmem, hbox, hwait, hv⟩ := State.finishIssue_spec (b.setCur (b.cur.setReg64 d m fun _ => x)).advance.afterX
  obtain ⟨honly, -, -, -, hiss⟩ := hx.only
  rw [hiss] at hwait hv
  refine ⟨?_, ?_, ?_, fun l r => ?_⟩
  · exact hwait.trans ((congrArg Group.wait hx.group).trans hstay)
  · rw [hmem, honly]
  · rw [hbox, honly]
  · rw [hv, hx.group, Group.v_moved, Group.setReg64, Group.v_setReg, Group.v_setReg]
    rcases eq_or_ne r d with rfl | hd
    · simp [Bool.and_comm]
    · simp [hd, Bool.and_comm]

/-- Settles O53: a result lands by its entry, and an event wakes the instruction that its group parked, which acts as it did or takes the
steps of its lanes; the reply of a service is the value in the registers of `SVC`. -/
theorem wakes : Obligations.Wakes := by
  unfold Obligations.Wakes
  intro s
  have hbar : execBarrierDeparture s = s.wake _ _ := rfl
  have hwaitc : execWaitcRelease s = s.wake _ _ := rfl
  have hord : execOrdwaitRelease s = s.wake _ _ := rfl
  have hqrcv : execQueueVectorWake s = s.wake _ _ := rfl
  have hqsnd : execQsndRoomWake s = s.wake _ _ := rfl
  have hobrel : execObrelComplete s = s.wake _ _ := rfl
  refine ⟨fun x hl hx hr hh => ?_, fun w hw hu => ⟨execPresenceWake_absent hw hu, fun f => ⟨?_, ?_, ?_, ?_, ?_⟩, fun f => ?_, fun f => ?_,
    fun f => ?_, fun f hi => ?_, fun f hi => ?_, fun f hi ha => ⟨?_, ?_, ?_⟩, fun f r hi ha hr hlast => ?_⟩⟩
  · obtain ⟨hlen, hv⟩ := Group.land_spec hx hr hh
    refine ⟨_, execRegisterWriteback_live hl, ?_, rfl, fun k hk => s.group_setGroup_ne _ k _ hk, fun r l _ => ?_⟩
    · rw [State.group_setGroup, hlen]
    · rw [State.group_setGroup]
      exact hv r l
  · exact fun ha hi => ⟨_, rfl, State.wake_parked hbar hw hu ha hi rfl rfl⟩
  · exact fun ha hi => ⟨_, rfl, State.wake_parked hbar hw hu ha hi rfl rfl⟩
  · exact fun ha hi => ⟨_, rfl, State.wake_parked hbar hw hu ha hi rfl rfl⟩
  · exact fun ha hi => ⟨_, rfl, State.wake_parked hwaitc hw hu ha hi rfl rfl⟩
  · exact fun ha hi => ⟨_, rfl, State.wake_parked hord hw hu ha hi rfl rfl⟩
  · exact fun ha hi => ⟨_, rfl, State.wake_parked hqrcv hw hu ha hi rfl rfl⟩
  · exact fun ha hi => ⟨_, rfl, State.wake_parked hqsnd hw hu ha hi rfl rfl⟩
  · exact fun ha hi => ⟨_, rfl, State.wake_parked hobrel hw hu ha hi rfl rfl⟩
  · exact fun ha => execFullEmptyWake_parked hw hu ha (.inl ⟨hi, rfl⟩)
  · exact fun ha => execFullEmptyWake_parked hw hu ha (.inr ⟨hi, rfl⟩)
  · exact execWaitaMonitorReread_parked hw hu ha hi
  · exact execWaitaPoll_due hw hu ha hi
  · exact execWaitaPoll_early hw
  · obtain ⟨hwait, hmem, hbox, hv⟩ :=
      (({ s with mailbox := s.mailbox.erase r } : State).woken w).svcReplied_spec f.e0.toNat w.left s.inp.v
    have hcur : (({ s with mailbox := s.mailbox.erase r } : State).woken w).cur = { s.group s.inp.gid with wait := none } :=
      State.group_setGroup _ _ _
    exact ⟨_, execSvcReply_parked hw hu ha hi hr hlast, hwait.trans (congrArg Group.wait hcur), hmem, hbox,
      fun l q => (hv l q).trans (by rw [hcur]; rfl)⟩

end Sys2Proof.Machine


/-! PROOF. Memory stays in its canonical form (spec/06_address_spaces.md R125, spec/00_scope.md R5). The bytes of memory change in few
ways, `State.wr` and the clearing of a range before all; every other operation leaves them, or is made of operations that keep the form.
First the operations that leave memory as it was, then those that keep its form, both in the model's order. -/
namespace Sys2Proof.Machine

/-! ### The form of what an operation answers -/

@[simp] theorem State.mem_ite (c : Prop) [Decidable c] (s t : State) : (if c then s else t).mem = if c then s.mem else t.mem :=
  apply_ite State.mem c s t

@[simp] theorem Memory.wf_ite (c : Prop) [Decidable c] (x y : List Host.Cell) :
    Memory.wf (if c then x else y) = if c then Memory.wf x else Memory.wf y :=
  apply_ite Memory.wf c x y

/-- A state that may be answered has canonical memory. -/
def OptWf : Option State → Prop
  | some t => Memory.wf t.mem = true
  | none => True

/-- A next state that is answered has canonical memory. -/
def Out.Wf : Out → Prop
  | .next t => Memory.wf t.mem = true
  | _ => True

/-- The same of a control core's word. -/
def HartEnd.Wf : HartEnd → Prop
  | .next t => Memory.wf t.mem = true
  | _ => True

@[simp] theorem OptWf.wf_some {t : State} : OptWf (Option.some t) ↔ Memory.wf t.mem = true := Iff.rfl
@[simp] theorem OptWf.wf_none : OptWf none := trivial
@[simp] theorem OptWf.wf_ite (c : Prop) [Decidable c] (x y : Option State) : OptWf (if c then x else y) = if c then OptWf x else OptWf y :=
  apply_ite OptWf c x y

theorem OptWf.of_eq {o : Option State} {t : State} (ho : OptWf o) (h : o = some t) : Memory.wf t.mem = true := by
  subst h
  exact ho

theorem OptWf.of_ite {c : Prop} [Decidable c] {x y : Option State} (hx : OptWf x) (hy : OptWf y) : OptWf (if c then x else y) := by
  split
  · exact hx
  · exact hy

theorem OptWf.bind {o : Option State} {f : State → Option State} (ho : OptWf o)
    (hf : ∀ t : State, Memory.wf t.mem = true → OptWf (f t)) :
    OptWf (o.bind f) := by
  cases o with
  | none => trivial
  | some t => exact hf t ho

theorem OptWf.bind_all {α : Type} {o : Option α} {f : α → Option State} (hf : ∀ a, OptWf (f a)) : OptWf (o.bind f) := by
  cases o with
  | none => trivial
  | some a => exact hf a

theorem OptWf.map {o : Option State} {f : State → State} (ho : OptWf o)
    (hf : ∀ t : State, Memory.wf t.mem = true → Memory.wf (f t).mem = true) : OptWf (o.map f) := by
  cases o with
  | none => trivial
  | some t => exact hf t ho

theorem OptWf.foldl {α : Type} {f : Option State → α → Option State} {o : Option State} (ho : OptWf o)
    (hf : ∀ (o : Option State) a, OptWf o → OptWf (f o a)) (l : List α) : OptWf (l.foldl f o) :=
  List.foldlRecOn l f (motive := OptWf) ho fun o ho a _ => hf o a ho

@[simp] theorem OptWf.wf_map_of {α : Type} {o : Option α} {f : α → State} (hf : ∀ a, Memory.wf (f a).mem = true) :
    OptWf (o.map f) := by
  cases o with
  | none => trivial
  | some a => exact hf a

@[simp] theorem OptWf.wf_getD {o : Option State} {t : State} (ho : OptWf o) (ht : Memory.wf t.mem = true) :
    Memory.wf (o.getD t).mem = true := by
  cases o with
  | none => exact ht
  | some u => exact ho

@[simp] theorem Out.wf_next {t : State} : Out.Wf (.next t) ↔ Memory.wf t.mem = true := Iff.rfl
@[simp] theorem Out.wf_fault (r : Fault) : Out.Wf (.fault r) := trivial
@[simp] theorem Out.wf_refused (r : Refusal) : Out.Wf (.refused r) := trivial
@[simp] theorem Out.wf_ite (c : Prop) [Decidable c] (x y : Out) : Out.Wf (if c then x else y) = if c then Out.Wf x else Out.Wf y :=
  apply_ite Out.Wf c x y

theorem Out.wf_map {o : Out} {f : State → State} (ho : o.Wf) (hf : ∀ t : State, Memory.wf t.mem = true → Memory.wf (f t).mem = true) :
    (o.map f).Wf := by
  cases o with
  | next t => exact hf t ho
  | fault r => trivial
  | refused r => trivial

@[simp] theorem HartEnd.wf_next {t : State} : HartEnd.Wf (.next t) ↔ Memory.wf t.mem = true := Iff.rfl
@[simp] theorem HartEnd.wf_trap (t : MemTrap) : HartEnd.Wf (.trap t) := trivial
@[simp] theorem HartEnd.wf_unbacked : HartEnd.Wf .unbacked := trivial
@[simp] theorem HartEnd.wf_ite (c : Prop) [Decidable c] (x y : HartEnd) :
    HartEnd.Wf (if c then x else y) = if c then HartEnd.Wf x else HartEnd.Wf y :=
  apply_ite HartEnd.Wf c x y

theorem State.wf_of_ite {c : Prop} [Decidable c] {s t : State} (hs : Memory.wf s.mem = true) (ht : Memory.wf t.mem = true) :
    Memory.wf (if c then s else t).mem = true := by
  split
  · exact hs
  · exact ht

/-- Steps that each keep the form keep it together. -/
theorem State.wf_foldl {α : Type} {f : State → α → State} {s : State} (h : Memory.wf s.mem = true)
    (hf : ∀ (t : State) a, Memory.wf t.mem = true → Memory.wf (f t a).mem = true) (l : List α) : Memory.wf (l.foldl f s).mem = true :=
  List.foldlRecOn l f (motive := fun t : State => Memory.wf t.mem = true) h fun t ht a _ => hf t a ht

theorem State.wf_of_mem_eq {s t : State} (ht : t.mem = s.mem) (h : Memory.wf s.mem = true) : Memory.wf t.mem = true :=
  ht ▸ h

/-! ### Memory left as it was -/

/-! #### The named operations -/

section
variable (s : State)

@[simp] theorem State.mem_countLive (r : Rec) (n : Nat) : (s.countLive r n).mem = s.mem := rfl

@[simp] theorem State.mem_count (r : Rec) (n : Nat) : (s.count r n).mem = s.mem := rfl

@[simp] theorem State.mem_dieError (d : Nat) : (s.dieError d).mem = s.mem := rfl

@[simp] theorem State.mem_closePass (gid : Nat) : (s.closePass gid).mem = s.mem := by
  unfold State.closePass
  dsimp only
  split <;> simp

@[simp] theorem State.mem_park (i : Instr) (left : Lanes) : (s.park i left).mem = s.mem := by simp [State.park]

@[simp] theorem State.mem_releaseA (gid : Nat) : (s.releaseA gid).mem = s.mem := by
  unfold State.releaseA
  dsimp only
  split <;> simp

@[simp] theorem State.mem_discardParked (h : Word) : (s.discardParked h).mem = s.mem := rfl

@[simp] theorem State.mem_endLaunch (h : Word) (cause team : Nat) : (s.endLaunch h cause team).mem = s.mem := by
  unfold State.endLaunch
  dsimp only
  split <;> simp

/-! #### Operands and latches -/

@[simp] theorem State.mem_dropLatches : s.dropLatches.mem = s.mem := rfl

@[simp] theorem State.mem_deliver (act : Lanes) (dst dn : Nat) (pair nw : Bool) (keep : List Nat) (r : Nat → LaneRes) :
    (s.deliver act dst dn pair nw keep r).mem = s.mem := by
  simp [State.deliver]

@[simp] theorem State.mem_afterX : s.afterX.mem = s.mem := by simp [State.afterX]

/-! #### Ends of groups, teams and clusters -/

@[simp] theorem State.mem_dropEngine (gid : Nat) : (s.dropEngine gid).mem = s.mem := by simp [State.dropEngine]

@[simp] theorem State.mem_freeBands (gid : Nat) : (s.freeBands gid).mem = s.mem := rfl

@[simp] theorem State.mem_freeUnits (core : Nat) (us : List Nat) : (s.freeUnits core us).mem = s.mem := rfl

@[simp] theorem State.mem_freeResv (q : Nat) (r : Resv) : (s.freeResv q r).mem = s.mem := State.mem_foldl (fun _ _ => by simp) _ _

@[simp] theorem State.mem_freeAreas (tk : Nat) : (s.freeAreas tk).mem = s.mem := State.mem_foldl (fun _ _ => by simp) _ _

@[simp] theorem State.mem_tidyTeam (tk : Nat) : (s.tidyTeam tk).mem = s.mem := by simp [State.tidyTeam, State.mem_foldl]

@[simp] theorem State.mem_freeze (gid source die unit : Nat) (addr : Dword) (lanes : Lanes) :
    (s.freeze gid source die unit addr lanes).mem = s.mem := by
  unfold State.freeze
  dsimp only
  split
  · rfl
  · exact State.mem_foldl (fun _ _ => State.setGroup_mem ..) _ _

/-! #### Requests -/

@[simp] theorem State.mem_regionBefore : s.regionBefore.mem = s.mem := by simp [State.regionBefore]

@[simp] theorem State.mem_regionAfter : s.regionAfter.mem = s.mem := by simp [State.regionAfter]

@[simp] theorem State.mem_addressed (h : Word) (pkg : BitVec 16) : (s.addressed h pkg).mem = s.mem := by simp [State.addressed]

@[simp] theorem State.mem_sendOne (op : OwnerOp) (oper : Word) (wm : Bool) (serial : Word) (dst : List Nat) (pkg : BitVec 16) (owner : Nat)
    (ls : List ReqLane) (order : Option Nat) :
    (s.sendOne op oper wm serial dst pkg owner ls order).mem = s.mem := by
  simp [State.sendOne]

@[simp] theorem State.mem_sendAll (op : OwnerOp) (scope : BitVec 3) (ord : BitVec 2) (wm : Bool) (dst : List Nat) (ls : List ReqLane) :
    (s.sendAll op scope ord wm dst ls).mem = s.mem := by
  simp [State.sendAll, State.mem_foldl]

@[simp] theorem State.mem_takeSerial : s.takeSerial.mem = s.mem := rfl

@[simp] theorem State.mem_sendStores (gid : Nat) (pc : Dword) (serial : Word) (order n : Nat) (tile : Bool) (xs : List FarStore) :
    (s.sendStores gid pc serial order n tile xs).mem = s.mem := by
  simp [State.sendStores, State.mem_foldl]

/-! #### Accesses -/

@[simp] theorem State.mem_padWrite (core pa : Nat) (bs : List Byte) : (s.padWrite core pa bs).mem = s.mem := rfl

@[simp] theorem State.mem_loseReserved (pa n : Nat) : (s.loseReserved pa n).mem = s.mem := rfl

@[simp] theorem State.mem_setFull (p : Place) (b : Bool) : (s.setFull p b).mem = s.mem := rfl

/-! #### Memory words -/

@[simp] theorem State.mem_took (ts : List FeStep) : (s.took ts).mem = s.mem := rfl

@[simp] theorem State.mem_feDone : s.feDone.mem = s.mem := by simp [State.feDone]

/-! #### Barriers and queues -/

@[simp] theorem State.mem_barFinish (k : BarKind) (cl : Bool) : (s.barFinish k cl).mem = s.mem := by
  unfold State.barFinish
  split <;> simp

@[simp] theorem State.mem_barArrive (cl : Bool) : (s.barArrive cl).mem = s.mem := by simp [State.barArrive]

@[simp] theorem State.mem_obWrite (q off : Nat) (bs : List Byte) : (s.obWrite q off bs).mem = s.mem := rfl

@[simp] theorem State.mem_qSend (f : XE) (m : Lanes) : (s.qSend f m).mem = s.mem := by
  unfold State.qSend
  dsimp only
  generalize hqueues : List.foldl _ s _ = t
  have ht : t.mem = s.mem := hqueues ▸ State.mem_foldl (fun _ _ => by simp) _ _
  rw [State.mem_feDone]
  split
  · split <;> simp [ht]
  · exact ht

@[simp] theorem State.mem_qTake (f : XE) (m : Lanes) (v : QVec) : (s.qTake f m v).mem = s.mem := by simp [State.qTake]

/-! #### Copies under way -/

@[simp] theorem State.mem_setPending (x : Nat × Nat) (n : Nat) : (s.setPending x n).mem = s.mem := by simp [State.setPending]

@[simp] theorem State.mem_addLines (xs : List (Nat × Nat)) : (s.addLines xs).mem = s.mem := by simp [State.addLines, State.mem_foldl]

@[simp] theorem State.mem_failCopy (gid : Nat) (c : Copy) (addr : Dword) : (s.failCopy gid c addr).mem = s.mem := by simp [State.failCopy]

@[simp] theorem State.mem_chunkDone (gid : Nat) (c : Copy) : (s.chunkDone gid c).mem = s.mem := by simp [State.chunkDone]

@[simp] theorem State.mem_copySend (gid : Nat) (c : Copy) (write : Bool) (ps : List (BitVec 16 × Nat × Nat × List Byte)) :
    (s.copySend gid c write ps).mem = s.mem := by
  simp [State.copySend, State.mem_foldl]

@[simp] theorem State.mem_landOb (gid : Nat) (c : Copy) (bs : List Byte) : (s.landOb gid c bs).mem = s.mem := by
  unfold State.landOb
  dsimp only
  split
  · simp
  · exact (State.mem_chunkDone ..).trans (State.mem_foldl (fun _ _ => by simp) _ _)

/-! #### Copies issued -/

@[simp] theorem State.mem_addCopy (c : Copy) (lines : List (Nat × Nat)) : (s.addCopy c lines).mem = s.mem := by simp [State.addCopy]

/-! #### The fetch -/

@[simp] theorem State.mem_askWord (p : Place) : (s.askWord p).mem = s.mem := by simp [State.askWord]

@[simp] theorem State.mem_switchTo (n gid : Nat) : (s.switchTo n gid).mem = s.mem := by
  unfold State.switchTo
  dsimp only
  repeat' split
  all_goals simp

@[simp] theorem State.mem_finishIssue : s.finishIssue.mem = s.mem := by simp [State.finishIssue]

/-! #### Atomics -/

@[simp] theorem State.mem_rmwLocal (op : OwnerOp) (n : Nat) (d : List Nat) (operands : Nat → List Word) (xs : List LaneAcc) :
    (s.rmwLocal op n d operands xs).mem = s.mem :=
  State.mem_foldl (fun _ _ => by simp) _ _

@[simp] theorem State.mem_takeMonitors (f : XM) (left : Lanes) : (s.takeMonitors f left).mem = s.mem := by
  simp [State.takeMonitors, State.mem_foldl]

@[simp] theorem State.mem_dropMonitors (gid : Nat) : (s.dropMonitors gid).mem = s.mem := rfl

/-! #### The pools -/

@[simp] theorem State.mem_dropArea (kind : AreaKind) (tk d : Nat) : (s.dropArea kind tk d).mem = s.mem := rfl

/-! #### The matrix engine -/

@[simp] theorem State.mem_requestPass (gid : Nat) : (s.requestPass gid).mem = s.mem := by simp [State.requestPass]

@[simp] theorem State.mem_usePass (n : Nat) (ranges : List Word) : (s.usePass n ranges).mem = s.mem := by
  unfold State.usePass
  dsimp only
  split <;> simp

@[simp] theorem State.mem_obPut (q base : Nat) (r : MatRec) (i j v : Nat) : (s.obPut q base r i j v).mem = s.mem := rfl

@[simp] theorem State.mem_passOver (q : Nat) : (s.passOver q).mem = s.mem := rfl

@[simp] theorem State.mem_dropPasses (gid : Nat) : (s.dropPasses gid).mem = s.mem := by simp [State.dropPasses]

/-! #### Matrix words -/

@[simp] theorem State.mem_addMat (o : MatOp) (late : List Late) : (s.addMat o late).mem = s.mem := by simp [State.addMat]

/-! #### System words -/

@[simp] theorem State.mem_sendLead (op : OwnerOp) (ord : BitVec 2) (wm : Bool) (dst : Option Nat) (m : Lanes) (owner : Option Nat)
    (r : ReqLane) :
    (s.sendLead op ord wm dst m owner r).mem = s.mem := by
  simp [State.sendLead]

@[simp] theorem State.mem_post (service : BitVec 16) (addr : Dword) : (s.post service addr).mem = s.mem := rfl

/-! #### Tiles retired -/

@[simp] theorem State.mem_addTile (kind : TileKind) (flags : BitVec 3) (as : List Dword) (x : TileIssue) :
    (s.addTile kind flags as x).mem = s.mem := by
  simp [State.addTile]

@[simp] theorem State.mem_sendTile (gid : Nat) (o : TileOp) (out : TileOut) : (s.sendTile gid o out).mem = s.mem := by simp [State.sendTile]

@[simp] theorem State.mem_retireTile (gid : Nat) : (s.retireTile gid).mem = s.mem := rfl

@[simp] theorem State.mem_failTile (gid : Nat) (o : TileOp) (cause : Nat) (addr : Dword) : (s.failTile gid o cause addr).mem = s.mem := rfl

@[simp] theorem State.mem_residueAt (q : Nat) : (s.residueAt q).mem = s.mem := rfl

@[simp] theorem State.mem_quadOut (q : Nat) : (s.quadOut q).mem = s.mem := by simp [State.quadOut]

@[simp] theorem State.mem_opConsumes (gid source n : Nat) (pc : Dword) : (s.opConsumes gid source n pc).mem = s.mem := by
  simp [State.opConsumes, State.mem_consume]

@[simp] theorem State.mem_passConsumes (q : Nat) (p : Pass) (source : Nat) : (s.passConsumes q p source).mem = s.mem := by
  simp [State.passConsumes]

@[simp] theorem State.mem_takeSpares (q n : Nat) : (s.takeSpares q n).1.mem = s.mem := by
  induction n generalizing s with
  | zero => rfl
  | succ n ih =>
    unfold State.takeSpares
    dsimp only
    split <;> simp [ih]

@[simp] theorem State.mem_tileConsumes (gid : Nat) (o : TileOp) : (s.tileConsumes gid o).mem = s.mem := by
  simp [State.tileConsumes]

/-! #### Bring-up -/

@[simp] theorem State.mem_fail (d : Nat) (code : Byte) : (s.fail d code).mem = s.mem := by simp [State.fail]

@[simp] theorem State.mem_enter (d stage : Nat) : (s.enter d stage).mem = s.mem := rfl

@[simp] theorem State.mem_overrun (d : Nat) : (s.overrun d).mem = s.mem := by simp [State.overrun]

@[simp] theorem State.mem_raiseRollback : s.raiseRollback.mem = s.mem := by simp [State.raiseRollback]

@[simp] theorem State.mem_flushRecords : s.flushRecords.mem = s.mem := rfl

@[simp] theorem State.mem_tripAt (d temp : Nat) : (s.tripAt d temp).mem = s.mem := by simp [State.tripAt]

@[simp] theorem State.mem_setEth (p : Nat) (x : EthPort) : (s.setEth p x).mem = s.mem := rfl

/-! #### Branches -/

@[simp] theorem State.mem_jump (m : Lanes) (pc : Nat → Dword) : (s.jump m pc).mem = s.mem := rfl

@[simp] theorem State.mem_advanceBut (w : Lanes) : (s.advanceBut w).mem = s.mem := rfl

/-! #### Launches accepted -/

@[simp] theorem State.mem_cancel (h : Word) : (s.cancel h).1.mem = s.mem := by
  unfold State.cancel
  dsimp only
  split <;> simp

@[simp] theorem State.mem_beginPreempt (ck : Nat) : (s.beginPreempt ck).mem = s.mem := by simp [State.beginPreempt, State.mem_foldl]

@[simp] theorem State.mem_preempt (h : Word) (team : Nat) : (s.preempt h team).1.mem = s.mem := by
  unfold State.preempt
  dsimp only
  repeat' split
  all_goals simp

/-! #### Requests served -/

@[simp] theorem State.mem_declareLine (o pa : Nat) (w gen : Word) (rnd : BitVec 3) : (s.declareLine o pa w gen rnd).1.mem = s.mem := by
  unfold State.declareLine
  dsimp only
  repeat' split
  all_goals simp

/-! #### The owner's side -/

@[simp] theorem State.mem_countDups (p : Packet) (n : Nat) : (s.countDups p n).mem = s.mem := by
  unfold State.countDups
  split <;> simp

@[simp] theorem State.mem_ownersEnd (src : BitVec 16) (h : Word) : (s.ownersEnd src h).mem = s.mem :=
  State.mem_foldl (fun _ _ => by simp) _ _

@[simp] theorem State.mem_ownersAgain (src : BitVec 16) (h : Word) : (s.ownersAgain src h).mem = s.mem := rfl

/-! #### The requester's side -/

@[simp] theorem State.mem_releaseHeld (gid : Nat) : (s.releaseHeld gid).mem = s.mem := by simp [State.releaseHeld, State.mem_foldl]

@[simp] theorem State.mem_closeRequest (gid : Nat) (o : OutReq) : (s.closeRequest gid o).mem = s.mem := by simp [State.closeRequest]

@[simp] theorem State.mem_unknownOutcome (gid : Nat) (o : OutReq) (reason : Nat) (lanes : Lanes) :
    (s.unknownOutcome gid o reason lanes).mem = s.mem := by
  simp [State.unknownOutcome]

@[simp] theorem State.mem_takeResult (gid : Nat) (o : OutReq) (p : Packet) : (s.takeResult gid o p).mem = s.mem := by
  unfold State.takeResult
  dsimp only
  split
  · split <;> simp [State.mem_consume]
  · simp

@[simp] theorem State.mem_emitAgain (p : Packet) (port : Option Nat) : (s.emitAgain p port).mem = s.mem := by
  unfold State.emitAgain
  split <;> simp

@[simp] theorem State.mem_setOut (gid : Nat) (o : OutReq) : (s.setOut gid o).mem = s.mem := rfl

@[simp] theorem State.mem_exhaust (gid : Nat) (o : OutReq) : (s.exhaust gid o).mem = s.mem := by simp [State.exhaust]

@[simp] theorem State.mem_exhaustAll : s.exhaustAll.mem = s.mem := by simp [State.exhaustAll, State.mem_foldl]

@[simp] theorem State.mem_fabricTime : s.fabricTime.mem = s.mem := by simp [State.fabricTime]

/-! #### Copies landed -/

@[simp] theorem State.mem_copyAcked (p : Packet) : (s.copyAcked p).mem = s.mem := by
  unfold State.copyAcked
  dsimp only
  split <;> simp

@[simp] theorem State.mem_copyTime : s.copyTime.mem = s.mem := by simp [State.copyTime, State.mem_foldl]

@[simp] theorem State.mem_placeExtent (x : RtExtent) : (s.placeExtent x).mem = s.mem := rfl

@[simp] theorem State.mem_answerFault (d : Nat) (id : Word) : (s.answerFault d id).mem = s.mem := rfl

/-! #### Launches -/

@[simp] theorem State.mem_addClusters (h : Word) : (s.addClusters h).mem = s.mem := State.mem_foldl (fun _ _ => by simp) _ _

@[simp] theorem State.mem_answerDeps (h : Word) (cause : Nat) : (s.answerDeps h cause).mem = s.mem := rfl

@[simp] theorem State.mem_dropGroup (gid : Nat) : (s.dropGroup gid).mem = s.mem := by simp [State.dropGroup]

@[simp] theorem State.mem_dropTeam (tk : Nat) : (s.dropTeam tk).mem = s.mem := by simp [State.dropTeam, State.mem_foldl]

@[simp] theorem State.mem_releaseAll (h : Word) : (s.releaseAll h).mem = s.mem := by simp [State.releaseAll, State.mem_foldl]

@[simp] theorem State.mem_retireLaunch (h : Word) : (s.retireLaunch h).mem = s.mem := by simp [State.retireLaunch, State.mem_foldl]

@[simp] theorem State.mem_setInvReg (d : Nat) (v : Dword) : (s.setInvReg d v).mem = s.mem := rfl

/-! #### Parked words -/

@[simp] theorem State.mem_repark (w : Wait) (left : Lanes) : (s.repark w left).mem = s.mem := rfl

@[simp] theorem State.mem_readMonitors (gid line : Nat) : (s.readMonitors gid line).mem = s.mem := rfl

@[simp] theorem State.mem_slotNext (n : Nat) : (s.slotNext n).mem = s.mem := rfl

@[simp] theorem State.mem_passesReady (t : Nat) : (s.passesReady t).mem = s.mem := rfl

@[simp] theorem State.mem_endIdle (q : Nat) : (s.endIdle q).mem = s.mem := by
  unfold State.endIdle
  dsimp only
  split <;> simp

@[simp] theorem State.mem_passTime : s.passTime.mem = s.mem := by simp [State.passTime, State.mem_foldl]

@[simp] theorem State.mem_seatResv (tk : Nat) (r : Resv) : (s.seatResv tk r).mem = s.mem := by
  unfold State.seatResv
  dsimp only
  split <;> simp

@[simp] theorem State.mem_seatResvs (tk : Nat) : (s.seatResvs tk).mem = s.mem := by simp [State.seatResvs, State.mem_foldl]

/-! #### The package -/

@[simp] theorem State.mem_newWindow (d : Nat) : (s.newWindow d).mem = s.mem := rfl

@[simp] theorem State.mem_governDie (capped : Option Nat) (d : Nat) : (s.governDie capped d).mem = s.mem := by simp [State.governDie]

@[simp] theorem State.mem_resideDie (d : Nat) : (s.resideDie d).mem = s.mem := rfl

@[simp] theorem State.mem_window : s.window.mem = s.mem := by
  simp only [State.window, State.mem_ite, State.mem_foldl State.mem_resideDie,
    State.mem_foldl (fun t d => t.mem_governDie _ d), State.mem_foldl (fun t d => t.mem_tripAt d _), ite_self]

@[simp] theorem State.mem_countEcc (line : Nat) (unc : Bool) : (s.countEcc line unc).mem = s.mem := rfl

@[simp] theorem State.mem_lineLost (l : Nat) : (s.lineLost l).mem = s.mem := by simp [State.lineLost]

@[simp] theorem State.mem_setCxl (p : Nat) (x : CxlPort) : (s.setCxl p x).mem = s.mem := rfl

@[simp] theorem State.mem_consumeNext (gid source die unit : Nat) (addr : Dword) (lanes : Lanes) :
    (s.consumeNext gid source die unit addr lanes).mem = s.mem := by
  simp [State.consumeNext, State.mem_consume]

@[simp] theorem State.mem_areaLost (pa : Nat) : (s.areaLost pa).mem = s.mem := by simp [State.areaLost]

/-! #### The placer -/

@[simp] theorem State.mem_relocate (gid band : Nat) : (s.relocate gid band).mem = s.mem := rfl

@[simp] theorem State.mem_compactWalk (n b : Nat) (l : List Nat) (a : Nat) : (s.compactWalk n b l a).mem = s.mem := by
  induction l generalizing s a with
  | nil => rfl
  | cons g l ih =>
    unfold State.compactWalk
    dsimp only
    repeat' split
    all_goals simp [ih]

@[simp] theorem State.mem_takeRun (n b : Nat) : (s.takeRun n b).1.mem = s.mem := by
  unfold State.takeRun
  split <;> simp

@[simp] theorem State.mem_keepMoves (t : State) : (s.keepMoves t).mem = s.mem := rfl

@[simp] theorem State.mem_seatGroup (ck core old gid : Nat) : (s.seatGroup ck core old gid).1.mem = s.mem := by
  unfold State.seatGroup
  dsimp only
  split <;> simp

@[simp] theorem mem_allSteps {α : Type} {f : State → α → State × Bool} (hf : ∀ (s : State) a, (f s a).1.mem = s.mem) (l : List α)
    (s : State) : (allSteps f s l).1.mem = s.mem := by
  induction l generalizing s with
  | nil => rfl
  | cons a l ih =>
    unfold allSteps
    dsimp only
    split <;> simp [hf, ih]

@[simp] theorem State.mem_seatTeam (tk core : Nat) : (s.seatTeam tk core).mem = s.mem := rfl

@[simp] theorem State.mem_privateArea (tk : Nat) : (s.privateArea tk).mem = s.mem := by
  unfold State.privateArea
  dsimp only
  repeat' split
  all_goals simp

@[simp] theorem State.mem_placeTeam (ck tk core : Nat) : (s.placeTeam ck tk core).1.mem = s.mem := by
  unfold State.placeTeam
  dsimp only
  split <;> simp

@[simp] theorem State.mem_block (ck : Nat) : (s.block ck).mem = s.mem := by simp [State.block]

/-! #### Pre-emption -/

@[simp] theorem State.mem_deterministicPreempts (p : Nat) (l : List Nat) : (s.deterministicPreempts p l).mem = s.mem := by
  induction l generalizing s with
  | nil => rfl
  | cons c l ih => simp [State.deterministicPreempts, ih]

@[simp] theorem State.mem_undoSteps (gid : Nat) : (s.undoSteps gid).mem = s.mem := by
  unfold State.undoSteps
  dsimp only
  split
  · rfl
  · refine (State.mem_foldl (fun v t => ?_) _ _).trans (State.setGroup_mem ..)
    split <;> simp

@[simp] theorem State.mem_closeGroup (gid : Nat) : (s.closeGroup gid).mem = s.mem := rfl

@[simp] theorem State.mem_saveResv (q : Nat) (r : Resv) : (s.saveResv q r).mem = s.mem := rfl

@[simp] theorem State.mem_saveTeam (tk : Nat) : (s.saveTeam tk).mem = s.mem := State.mem_foldl (fun _ _ => by simp) _ _

@[simp] theorem State.mem_vacate (ck : Nat) : (s.vacate ck).mem = s.mem := by
  simp only [State.vacate, State.setCluster_mem]
  exact (State.mem_foldl (fun _ _ => by simp) _ _).trans (State.mem_foldl State.mem_freeBands _ _)

@[simp] theorem State.mem_restartGroup (gid : Nat) : (s.restartGroup gid).mem = s.mem := by simp [State.restartGroup]

@[simp] theorem State.mem_restartTeam (tk : Nat) : (s.restartTeam tk).mem = s.mem := by
  simp only [State.restartTeam, State.setTeam_mem, State.setCore_mem]
  exact (State.mem_foldl (fun _ _ => State.setDie_mem ..) _ _).trans (State.mem_foldl (fun _ _ => State.mem_freeResv ..) _ _)

@[simp] theorem State.mem_dropCopies (gid : Nat) : (s.dropCopies gid).mem = s.mem := by simp [State.dropCopies, State.mem_foldl]

@[simp] theorem State.mem_relaunch (ck : Nat) (x : Snapshot) : (s.relaunch ck x).mem = s.mem := by
  simp [State.relaunch, State.mem_foldl]

/-! #### Turns -/

@[simp] theorem State.mem_inHand (gid : Nat) : (s.inHand gid).mem = s.mem := by simp [State.inHand]

@[simp] theorem State.mem_elapse (ns : Nat) : (s.elapse ns).mem = s.mem := State.mem_foldl (fun _ _ => by simp) _ _

@[simp] theorem State.mem_lateWindow (m : List DieMeas) : (s.lateWindow m).mem = s.mem := by
  unfold State.lateWindow
  split <;> simp

@[simp] theorem State.mem_fill (die : Nat) (ctx : BitVec 16) (va : Dword) : (s.fill die ctx va).mem = s.mem := by
  unfold State.fill
  split <;> simp

@[simp] theorem State.mem_giveRecord (n : Nat) (rd : BitVec 5) (live : Bool) (r : Rec) : (s.giveRecord n rd live r).mem = s.mem := rfl

/-! #### The step -/

@[simp] theorem State.mem_keepReserved (t : State) : (s.keepReserved t).mem = t.mem := by
  refine State.mem_foldl (fun t n => ?_) _ _
  split
  · split <;> rfl
  · rfl

end

/-! ### Memory kept in its form -/

/-! #### The named operations -/

section
variable {s : State} (h : Memory.wf s.mem = true)
include h

@[simp] theorem State.wf_wr (pa : Nat) (b : Byte) : Memory.wf (s.wr pa b).mem = true :=
  tabWf_tabSet s.mem pa b h

omit h in
@[simp] theorem State.wf_wrBytes {s : State} (h : Memory.wf s.mem = true) (pa : Nat) (bs : List Byte) :
    Memory.wf (s.wrBytes pa bs).mem = true := by
  induction bs generalizing s pa with
  | nil => exact h
  | cons b bs ih => exact ih (State.wf_wr h pa b) (pa + 1)

@[simp] theorem State.wf_wrLe (pa n x : Nat) : Memory.wf (s.wrLe pa n x).mem = true := by
  simp [State.wrLe, h]

@[simp] theorem State.wf_log (d : Nat) (r : LogRec) : Memory.wf (s.log d r).mem = true := by
  simp [State.log, h]

@[simp] theorem State.wf_fatal (gid : Nat) (t : TrapState) : Memory.wf (s.fatal gid t).mem = true := by
  simp [State.fatal, h]

@[simp] theorem State.wf_takeTrap (cause : Nat) (lanes : Lanes) (addr info : Dword) :
    Memory.wf (s.takeTrap cause lanes addr info).mem = true := by
  simp [State.takeTrap, h]

/-! #### Addresses -/

@[simp] theorem State.wf_countPage (gid page : Nat) : Memory.wf (s.countPage gid page).mem = true := by
  simp [State.countPage, h]

@[simp] theorem State.wf_countPages (gid : Nat) (ps done : List Place) : Memory.wf (s.countPages gid ps done).mem = true :=
  State.wf_foldl h (fun t a ht => by simp [ht]) _

/-! #### Operands and latches -/

@[simp] theorem State.wf_trapUnknown (u : Unknown) : Memory.wf (s.trapUnknown u).mem = true := by
  simp [State.trapUnknown, h]

@[simp] theorem State.wf_afterPre (p : Pre) {act : Lanes → State} (hact : ∀ m, Memory.wf (act m).mem = true) :
    Memory.wf (s.afterPre p act).mem = true := by
  cases p with
  | stall => exact h
  | trap c m a i => exact State.wf_takeTrap h c m a i
  | unknown u => exact State.wf_trapUnknown h u
  | go m => exact hact m

@[simp] theorem State.wf_dataFault (act : Lanes) (fault : Nat → Option (Nat × Dword)) {go : State} (hgo : Memory.wf go.mem = true) :
    Memory.wf (s.dataFault act fault go).mem = true := by
  unfold State.dataFault
  split
  · exact State.wf_takeTrap h ..
  · exact hgo

@[simp] theorem State.wf_runT (opc : Nat) (f : TF) (op : Lanes → (Nat → Dword) → (Nat → Dword) → (Nat → Dword) → Nat → LaneRes) :
    Memory.wf (s.runT opc f op).mem = true := by
  simp [State.runT, h]

@[simp] theorem State.wf_runLane (opc : Nat) (f : TF) (op : Dword → Dword → Dword → LaneRes) :
    Memory.wf (s.runLane opc f op).mem = true := by
  simp [State.runLane, h]

@[simp] theorem State.wf_runI (opc : Nat) (f : IF) (imm : Shape.Src → Word → Dword) (op : Dword → Dword → Dword → LaneRes) :
    Memory.wf (s.runI opc f imm op).mem = true := by
  simp [State.runI, h]

@[simp] theorem State.wf_runP (op0 : POp) (h0 : HF) (op1 : POp) (h1 : HF) (op : POp → Nat → Dword → Dword → LaneRes) :
    Memory.wf (s.runP op0 h0 op1 h1 op).mem = true := by
  simp [State.runP, h]

@[simp] theorem State.wf_runX (n : Needs) (fault : Lanes → Option DataFault) {act : State → Lanes → Option State}
    (hact : ∀ m, OptWf (act s m)) : Memory.wf (s.runX n fault act).mem = true := by
  refine State.wf_afterPre h _ fun m => ?_
  split
  · exact State.wf_takeTrap h ..
  · split
    next t ht =>
      have hwf : Memory.wf t.mem = true := (hact m).of_eq ht
      simp [hwf]
    next => exact h

/-! #### Ends of groups, teams and clusters -/

@[simp] theorem State.wf_flushHeld (tk : Nat) : Memory.wf (s.flushHeld tk).mem = true := by
  simp only [State.flushHeld, State.clearCovered_mem, State.setTeam_mem]
  exact State.wf_foldl h (fun t c ht => State.wf_foldl ht (fun u i hu => by simp [hu]) _) _

@[simp] theorem State.wf_endGroup (gid : Nat) : Memory.wf (s.endGroup gid).mem = true := by
  simp [State.endGroup, State.mem_foldl, h]

@[simp] theorem State.wf_commitTeam (tk : Nat) : Memory.wf (s.commitTeam tk).mem = true := by
  simp only [State.commitTeam]
  exact State.wf_foldl (by simp [h]) (fun t g ht => by simp [ht]) _

/-! #### Requests -/

@[simp] theorem State.wf_beginRegion : OptWf s.beginRegion := by
  simp [State.beginRegion, h]

@[simp] theorem State.wf_implicitCommit : OptWf s.implicitCommit := by
  simp [State.implicitCommit, h]

@[simp] theorem State.wf_openWindow : OptWf s.openWindow := by
  unfold State.openWindow
  split <;> simp [h]

@[simp] theorem State.wf_opened (commit serial : Bool) : OptWf (s.opened commit serial) := by
  refine OptWf.bind (by simp [h]) fun t ht => ?_
  simp [ht]

/-! #### Accesses -/

@[simp] theorem State.wf_memWrite (pa : Nat) (bs : List Byte) : Memory.wf (s.memWrite pa bs).mem = true := by
  simp [State.memWrite, h]

@[simp] theorem State.wf_writePlace (tk : Nat) (held : Bool) (p : Place) (bs : List Byte) : OptWf (s.writePlace tk held p bs) := by
  simp [State.writePlace, h]

@[simp] theorem State.wf_present (i : Instr) (act : Lanes) (xs : List LaneAcc) {go : State → Option State} (hgo : OptWf (go s)) :
    OptWf (s.present i act xs go) := by
  simp [State.present, h, hgo]

@[simp] theorem State.wf_intact (bad : Place → Bool) (xs : List LaneAcc) {go : State → Option State} (hgo : OptWf (go s)) :
    OptWf (s.intact bad xs go) := by
  unfold State.intact
  split
  · exact hgo
  · simp [State.mem_consume, h]

/-! #### Lane operations -/

@[simp] theorem State.wf_intT (opc : Nat) (f : TF) : Out.Wf (s.intT opc f) := by
  simp [State.intT, h]

@[simp] theorem State.wf_intI (opc : Nat) (f : IF) : Out.Wf (s.intI opc f) := by
  simp [State.intI, h]

@[simp] theorem State.wf_fpT (opc : Nat) (f : TF) : Out.Wf (s.fpT opc f) := by
  simp [State.fpT, h]

@[simp] theorem State.wf_fpI (opc : Nat) (f : IF) : Out.Wf (s.fpI opc f) := by
  simp [State.fpI, h]

@[simp] theorem State.wf_half (op0 : POp) (h0 : HF) (op1 : POp) (h1 : HF) : Out.Wf (s.half op0 h0 op1 h1) := by
  simp [State.half, h]

/-! #### Memory words -/

@[simp] theorem wf_execLd (f : XM) : Out.Wf (execLd f s) := by
  refine State.wf_runX h _ _ fun m => State.wf_present h _ _ _ ?_
  split
  · trivial
  · exact State.wf_intact h _ _ (by simp [h])

@[simp] theorem State.wf_writeLanes (held : Bool) (xs : List LaneAcc) (bytes : Nat → List (Place × List Byte)) :
    OptWf (s.writeLanes held xs bytes) := by
  refine OptWf.foldl (OptWf.wf_some.2 h) (fun o x ho => OptWf.foldl ho (fun o w ho => ho.bind fun t ht => ?_) _) _
  exact State.wf_writePlace ht ..

@[simp] theorem State.wf_putLanes (xs : List LaneAcc) (bytes : Nat → List (Place × List Byte)) : OptWf (s.putLanes xs bytes) :=
  (State.wf_writeLanes h ..).map fun t ht => by simp [ht]

@[simp] theorem State.wf_storeLanes (xs : List LaneAcc) (bytes : Nat → List (Place × List Byte)) : OptWf (s.storeLanes xs bytes) := by
  unfold State.storeLanes
  split
  next t ht => exact (State.wf_putLanes h ..).of_eq ht
  next => exact (State.wf_implicitCommit h).bind fun t ht => State.wf_putLanes ht ..

@[simp] theorem wf_execSt (f : XM) : Out.Wf (execSt f s) := by
  refine State.wf_runX h _ _ fun m => State.wf_present h _ _ _ ?_
  dsimp only
  split
  · trivial
  · split
    · trivial
    · refine OptWf.bind (by simp [h]) fun t ht => OptWf.map (State.wf_storeLanes ht ..) fun u hu => ?_
      simp [hu]

@[simp] theorem wf_execLdp (f : XM) : Out.Wf (execLdp f s) :=
  State.wf_runX h _ _ fun m => OptWf.of_ite trivial (State.wf_intact h _ _ (by simp [h]))

@[simp] theorem wf_execStp (f : XM) : Out.Wf (execStp f s) := by
  refine State.wf_runX h _ _ fun m => ?_
  split
  · trivial
  · exact OptWf.map (State.wf_storeLanes h ..) fun t ht => by simp [ht]

@[simp] theorem State.wf_feStep (load : Bool) (f : XM) (x : LaneAcc) : OptWf (s.feStep load f x) := by
  unfold State.feStep
  split <;> simp [h]

@[simp] theorem State.wf_feSteps (load : Bool) (f : XM) (left : Lanes) : Memory.wf (s.feSteps load f left).1.mem = true := by
  refine List.foldlRecOn _ _ (motive := fun p : State × Lanes => Memory.wf p.1.mem = true) h fun p hp x _ => ?_
  split
  next t ht => exact (State.wf_feStep hp ..).of_eq ht
  next => exact hp

@[simp] theorem State.wf_fe (load : Bool) (i : Instr) (f : XM) : Out.Wf (s.fe load i f) := by
  refine State.wf_runX h _ _ fun m => State.wf_present h _ _ _ ?_
  simp [h]

@[simp] theorem wf_execLdfe (f : XM) : Out.Wf (execLdfe f s) := by
  simp [execLdfe, h]

@[simp] theorem wf_execStfe (f : XM) : Out.Wf (execStfe f s) := by
  simp [execStfe, h]

@[simp] theorem wf_execFeinit (f : XM) : Out.Wf (execFeinit f s) := by
  refine State.wf_runX h _ _ fun m => State.wf_present h _ _ _ (OptWf.of_ite trivial ?_)
  exact State.wf_of_mem_eq (State.mem_feDone _) (State.wf_foldl h (fun t x ht => by simp [ht]) _)

@[simp] theorem wf_execSptest (f : XM) : Out.Wf (execSptest f s) := by
  simp [execSptest, h]

@[simp] theorem wf_execSpcast (f : XM) : Out.Wf (execSpcast f s) := by
  simp [execSpcast, h]

@[simp] theorem wf_execFence (f : XM) : Out.Wf (execFence f s) := by
  simp [execFence, h]

/-! #### Barriers and queues -/

@[simp] theorem State.wf_barrier (i : Instr) (k : BarKind) (f : XE) : Out.Wf (s.barrier i k f) := by
  simp [State.barrier, h]

@[simp] theorem wf_execBar (f : XE) : Out.Wf (execBar f s) := by
  simp [execBar, h]

@[simp] theorem wf_execBara (f : XE) : Out.Wf (execBara f s) := by
  simp [execBara, h]

@[simp] theorem wf_execBarw (f : XE) : Out.Wf (execBarw f s) := by
  simp [execBarw, h]

@[simp] theorem wf_execRegn (f : XE) : Out.Wf (execRegn f s) := by
  simp [execRegn, h]

@[simp] theorem wf_execCommit (f : XE) : Out.Wf (execCommit f s) := by
  simp [execCommit, h]

@[simp] theorem wf_execOrdwait (f : XE) : Out.Wf (execOrdwait f s) := by
  simp [execOrdwait, h]

@[simp] theorem wf_execQsnd (f : XE) : Out.Wf (execQsnd f s) := by
  simp [execQsnd, h]

@[simp] theorem wf_execQrcv (f : XE) : Out.Wf (execQrcv f s) := by
  refine State.wf_runX h _ _ fun m => ?_
  split
  · trivial
  · split <;> simp [h]

/-! #### Copies under way -/

@[simp] theorem State.wf_copyFault (gid : Nat) (c : Copy) (addr : Dword) (flags : Word) :
    Memory.wf (s.copyFault gid c addr flags).mem = true := by
  simp [State.copyFault, h]

@[simp] theorem State.wf_landBytes (gid : Nat) (c : Copy) (bs : List Byte) (ps : List (Piece × Place)) :
    Memory.wf (s.landBytes gid c bs ps).mem = true := by
  simp +contextual [State.landBytes, h, State.wf_foldl]

@[simp] theorem State.wf_copyChunk (gid : Nat) (c : Copy) : Memory.wf (s.copyChunk gid c).mem = true := by
  unfold State.copyChunk
  dsimp only
  repeat' split
  all_goals simp [h]

/-! #### Copies issued -/

@[simp] theorem State.wf_copyIssue (guard : BitVec 7) (regs : List Nat) (mk : Nat → Copy) (bad : Copy → Bool) :
    Out.Wf (s.copyIssue guard regs mk bad) := by
  refine State.wf_runX h _ _ fun m => ?_
  dsimp only
  split
  · simp [h]
  · split
    · trivial
    · exact OptWf.map (by simp [h]) fun t ht => by simp [ht]

@[simp] theorem wf_execCpy (f : XE) : Out.Wf (execCpy f s) := by
  simp [execCpy, h]

@[simp] theorem wf_execCpy2 (f : XE) : Out.Wf (execCpy2 f s) := by
  simp [execCpy2, h]

@[simp] theorem wf_execCpyx (f : XE) : Out.Wf (execCpyx f s) := by
  simp [execCpyx, h]

@[simp] theorem wf_execCpyp (f : XE) : Out.Wf (execCpyp f s) := by
  simp [execCpyp, h]

@[simp] theorem State.wf_loadRead (i : Instr) (l : Nat) (r : TableRead) {use : State → List Byte → Option State}
    (huse : ∀ (t : State) bs, Memory.wf t.mem = true → OptWf (use t bs)) : OptWf (s.loadRead i l r use) := by
  unfold State.loadRead
  split
  · simp [h]
  · split
    case h_4 => exact huse _ _ h
    all_goals simp [State.mem_consume, h]

@[simp] theorem State.wf_tableLoad (i : Instr) (l : Nat) (a : Dword) (n : Nat) {use : State → List Byte → Option State}
    (huse : ∀ (t : State) bs, Memory.wf t.mem = true → OptWf (use t bs)) : OptWf (s.tableLoad i l a n use) := by
  unfold State.tableLoad
  dsimp only
  split
  · trivial
  · exact State.wf_loadRead h _ _ _ fun t bs ht => huse _ _ (by simp [ht])

@[simp] theorem wf_execCtld (f : XE) : Out.Wf (execCtld f s) := by
  simp +contextual [execCtld, h]

@[simp] theorem wf_execPtld (f : XE) : Out.Wf (execPtld f s) := by
  simp [execPtld, h]

@[simp] theorem State.wf_deliverFailure (g : Group) (d : Deferred) : Memory.wf (s.deliverFailure g d).mem = true := by
  simp [State.deliverFailure, h]

@[simp] theorem State.wf_waitcEnd {t : State} (ht : Memory.wf t.mem = true) (cls n : Nat) : Memory.wf (s.waitcEnd t cls n).mem = true := by
  unfold State.waitcEnd
  dsimp only
  split
  · simp [h]
  · refine OptWf.wf_getD ?_ (by simp [ht])
    split <;> simp [h]

@[simp] theorem wf_execWaitc (f : XE) : Out.Wf (execWaitc f s) := by
  refine State.wf_runX h _ _ fun m => ?_
  simp [State.wf_waitcEnd, h]

@[simp] theorem wf_execCntrd (f : XE) : Out.Wf (execCntrd f s) := by
  simp [execCntrd, h]

/-! #### Atomics -/

@[simp] theorem State.wf_rmw (i : Instr) (k : RmwKind) (f : XM) : Out.Wf (s.rmw i k f) := by
  refine State.wf_runX h _ _ fun m => State.wf_present h _ _ _ ?_
  dsimp only
  split
  · trivial
  · split
    · trivial
    · exact OptWf.map (by simp [h]) fun t ht => by simp [ht]

@[simp] theorem wf_execAtom (f : XM) : Out.Wf (execAtom f s) := by
  simp [execAtom, h]

@[simp] theorem wf_execRed (f : XM) : Out.Wf (execRed f s) := by
  simp [execRed, h]

@[simp] theorem wf_execAtomv (f : XM) : Out.Wf (execAtomv f s) := by
  simp [execAtomv, h]

@[simp] theorem wf_execWaita (f : XM) : Out.Wf (execWaita f s) := by
  refine State.wf_runX h _ _ fun m => State.wf_present h _ _ _ ?_
  split
  · trivial
  · exact State.wf_intact h _ _ (by simp [h])

/-! #### The pools -/

@[simp] theorem State.wf_takeArea (kind : AreaKind) (tk d size : Nat) : OptWf (s.takeArea kind tk d size) := by
  simp [State.takeArea, h]

/-! #### The matrix engine -/

@[simp] theorem State.wf_withPass {go : State → Option State} (hgo : OptWf (go s)) : OptWf (s.withPass go) := by
  simp [State.withPass, h, hgo]

@[simp] theorem State.wf_writeTarget (t : Target) (bs : List Byte) : Memory.wf (s.writeTarget t bs).mem = true := by
  simp [State.writeTarget, h]

@[simp] theorem State.wf_matRetire (gid : Nat) (o : MatOp) : Memory.wf (s.matRetire gid o).mem = true := by
  unfold State.matRetire
  dsimp only
  split <;> simp +contextual [h, State.wf_foldl]

@[simp] theorem State.wf_retireMats (gid : Nat) (ids : List Nat) : Memory.wf (s.retireMats gid ids).mem = true :=
  State.wf_foldl h (fun t a ht => by simp [ht]) _

/-! #### Matrix words -/

@[simp] theorem State.wf_runM (n : Needs) (check : Option DataFault) {act : State → Lanes → Option State}
    (hact : ∀ m, OptWf (act s m)) : (s.runM n check act).Wf :=
  State.wf_runX h _ _ fun m => by simp [h, hact]

@[simp] theorem State.wf_reserve (gid size : Nat) : OptWf ((s.reserve gid size).map (·.1)) := by
  unfold State.reserve
  dsimp only
  split
  · trivial
  · simp only [Option.bind_eq_bind, Option.map_bind, Function.comp_def]
    refine OptWf.bind_all fun granule => OptWf.bind_all fun num => OptWf.bind_all fun save => ?_
    exact (State.wf_takeArea h ..).bind fun t ht => by simp [ht]

@[simp] theorem wf_execObres (f : XE) : Out.Wf (execObres f s) := by
  refine State.wf_runM h _ _ fun m => ?_
  have hres (size : Nat) (w : Word) : Memory.wf ((s.reserve s.iss.gid size).getD (s, w)).1.mem = true := by
    have hwf := State.wf_reserve h s.iss.gid size
    cases hr : s.reserve s.iss.gid size with
    | none => exact h
    | some r => simpa [hr] using hwf
  simp [hres]

@[simp] theorem wf_execObrel (f : XE) : Out.Wf (execObrel f s) := by
  refine State.wf_runM h _ _ fun m => ?_
  split
  · simp [h]
  · split <;> simp [h]

@[simp] theorem wf_execObset (f : XE) : Out.Wf (execObset f s) := by
  simp [execObset, h]

@[simp] theorem wf_execMpri (f : XE) : Out.Wf (execMpri f s) := by
  simp [execMpri, h]

@[simp] theorem State.wf_issueMat (mk : State → MatOp × List Late) : OptWf (s.issueMat mk) := by
  simp [State.issueMat, h]

@[simp] theorem wf_execMma (f : XE) : Out.Wf (execMma f s) := by
  refine State.wf_runM h _ _ fun m => OptWf.of_ite trivial ?_
  split
  · trivial
  · exact OptWf.map (State.wf_issueMat h _) fun t ht => by simp [ht]

@[simp] theorem wf_execMrd (f : XE) : Out.Wf (execMrd f s) := by
  refine State.wf_runM h _ _ fun m => ?_
  split
  · trivial
  · exact OptWf.map (State.wf_issueMat h _) fun t ht => by simp [advanceIf, ht]

@[simp] theorem wf_execMwr (f : XE) : Out.Wf (execMwr f s) := by
  refine State.wf_runM h _ _ fun m => ?_
  split
  · trivial
  · exact OptWf.map (State.wf_issueMat h _) fun t ht => by simp [advanceIf, ht]

@[simp] theorem wf_execMwrMem (f : XE) : Out.Wf (execMwrMem f s) := by
  refine State.wf_runM h _ _ fun m => ?_
  dsimp only
  split
  · trivial
  · refine State.wf_present h _ _ _ ?_
    split
    · trivial
    · refine OptWf.bind (State.wf_opened h ..) fun t ht => ?_
      split
      · exact OptWf.map (State.wf_issueMat (by simp [ht]) _) fun u hu => by simp [advanceIf, hu]
      · simp [h]

@[simp] theorem wf_execMzero (f : XE) : Out.Wf (execMzero f s) := by
  refine State.wf_runM h _ _ fun m => ?_
  split
  · trivial
  · exact OptWf.map (State.wf_issueMat h _) fun t ht => by simp [advanceIf, ht]

/-! #### System words -/

@[simp] theorem wf_execLaunch (f : XE) : Out.Wf (execLaunch f s) := by
  refine State.wf_runX h _ _ fun m => ?_
  split
  · simp [h]
  · split
    · simp [h]
    · split
      · trivial
      · exact OptWf.map (State.wf_openWindow h) fun t ht => by simp [ht]

@[simp] theorem wf_execRdsr (f : XE) : Out.Wf (execRdsr f s) := by
  simp [execRdsr, h]

@[simp] theorem wf_execWrsr (f : XE) : Out.Wf (execWrsr f s) := by
  simp [execWrsr, h]

@[simp] theorem wf_execSvc (f : XE) : Out.Wf (execSvc f s) := by
  simp [execSvc, h]

@[simp] theorem wf_execTret (f : XE) : Out.Wf (execTret f s) := by
  unfold execTret
  dsimp only
  split <;> simp [h]

/-! #### Updates -/

@[simp] theorem State.wf_optUpdate (i : Instr) (adam : Bool) (f : XE) : Out.Wf (s.optUpdate i adam f) := by
  refine State.wf_runX h _ _ fun m => ?_
  split
  · simp [h]
  · split
    · trivial
    · split
      · trivial
      · refine State.wf_tableLoad h _ _ _ _ fun t bs ht => ?_
        exact OptWf.map (State.wf_openWindow ht) fun u hu => by simp [hu]

@[simp] theorem wf_execOsgd (f : XE) : Out.Wf (execOsgd f s) := by
  simp [execOsgd, h]

@[simp] theorem wf_execOadam (f : XE) : Out.Wf (execOadam f s) := by
  simp [execOadam, h]

@[simp] theorem wf_execCline (f : XE) : Out.Wf (execCline f s) := by
  refine State.wf_runX h _ _ fun m => ?_
  dsimp only
  split
  · simp [h]
  · split
    · simp [h]
    · split
      · split <;> simp [h]
      · split
        · trivial
        · split <;> simp [h]

@[simp] theorem wf_execCcon (f : XE) : Out.Wf (execCcon f s) := by
  refine State.wf_runX h _ _ fun m => ?_
  dsimp only
  split
  · simp [h]
  · split
    · trivial
    · split
      · trivial
      · split
        · trivial
        · exact OptWf.map (State.wf_openWindow h) fun t ht => by simp [ht]

/-! #### Tiles retired -/

@[simp] theorem State.wf_countTiles (gid : Nat) (pages done : List TilePage) : Memory.wf (s.countTiles gid pages done).mem = true := by
  simp [State.countTiles, h]

@[simp] theorem State.wf_tileWord (i : Instr) (kind : TileKind) (f : XE) (regs : List (BitVec 8)) : Out.Wf (s.tileWord i kind f regs) := by
  refine State.wf_runM h _ _ fun m => OptWf.of_ite trivial (OptWf.of_ite trivial (OptWf.of_ite (by simp [h]) ?_))
  refine State.wf_loadRead h _ _ _ fun t bs ht => ?_
  split
  · trivial
  · exact OptWf.map (State.wf_opened ht ..) fun u hu => by simp [hu]

@[simp] theorem wf_execTzero (f : XE) : Out.Wf (execTzero f s) := by
  simp [execTzero, h]

@[simp] theorem wf_execTmac (f : XE) : Out.Wf (execTmac f s) := by
  simp [execTmac, h]

@[simp] theorem wf_execTadd (f : XE) : Out.Wf (execTadd f s) := by
  simp [execTadd, h]

@[simp] theorem wf_execTrnd (f : XE) : Out.Wf (execTrnd f s) := by
  simp [execTrnd, h]

@[simp] theorem wf_execTdense (f : XE) : Out.Wf (execTdense f s) := by
  simp [execTdense, h]

@[simp] theorem wf_execTcomp (f : XE) : Out.Wf (execTcomp f s) := by
  simp [execTcomp, h]

@[simp] theorem wf_execTlu (f : XE) : Out.Wf (execTlu f s) := by
  simp [execTlu, h]

@[simp] theorem wf_execTtrs (f : XE) : Out.Wf (execTtrs f s) := by
  simp [execTtrs, h]

@[simp] theorem wf_execTsamp (f : XE) : Out.Wf (execTsamp f s) := by
  refine State.wf_runM h _ _ fun m => ?_
  split
  · trivial
  · refine OptWf.bind (State.wf_opened h ..) fun t ht => ?_
    split <;> simp [h, ht]

@[simp] theorem wf_execTinfo (f : XE) : Out.Wf (execTinfo f s) := by
  refine State.wf_runM h _ _ fun m => ?_
  split
  · trivial
  · exact State.wf_loadRead h _ _ _ fun t bs ht => by simp [ht]

@[simp] theorem wf_execTpool (f : XE) : Out.Wf (execTpool f s) := by
  refine State.wf_runM h _ _ fun m => ?_
  simp [h]

@[simp] theorem wf_execTpoolEmpty (f : XE) : Out.Wf (execTpoolEmpty f s) := by
  simp +contextual [execTpoolEmpty, h, State.wf_foldl]

omit h in
theorem TileOut.wf_put {o : TileOut} (ho : Memory.wf o.st.mem = true) (pages : List TilePage) (va plane : Nat) (bs : List Byte) :
    Memory.wf (o.put pages va plane bs).st.mem = true := by
  unfold TileOut.put
  split
  · exact ho
  · split
    · exact ho
    · exact State.wf_memWrite ho ..

omit h in
theorem TileOut.wf_write {o : TileOut} (ho : Memory.wf o.st.mem = true) (pages : List TilePage) (w : TileWrite) :
    Memory.wf (o.write pages w).st.mem = true :=
  List.foldlRecOn _ _ (motive := fun o : TileOut => Memory.wf o.st.mem = true) ho fun _ ho _ _ => TileOut.wf_put ho ..

omit h in
theorem TileOut.wf_writes {o : TileOut} (ho : Memory.wf o.st.mem = true) (pages : List TilePage) (ws : List TileWrite) :
    Memory.wf (ws.foldl (fun x w => x.write pages w) o).st.mem = true :=
  List.foldlRecOn _ _ (motive := fun o : TileOut => Memory.wf o.st.mem = true) ho fun _ ho _ _ => TileOut.wf_write ho ..

@[simp] theorem State.wf_runTile (gid : Nat) (o : TileOp) : Memory.wf (s.runTile gid o).mem = true := by
  unfold State.runTile
  split
  case h_4 ws new fl pool hplan =>
    dsimp only
    have hout := TileOut.wf_writes (o := { st := s.countTiles gid new o.pages }) (State.wf_countTiles h ..) (o.pages ++ new) ws
    simp [hout]
  all_goals simp [State.mem_consume, h]

@[simp] theorem wf_execTileOpExecute : Out.Wf (execTileOpExecute s) := by
  unfold execTileOpExecute
  dsimp only
  split <;> simp [h]

/-! #### Bring-up -/

@[simp] theorem State.wf_when (c : Bool) {f : State → State} (hf : Memory.wf (f s).mem = true) : (s.when c f).Wf := by
  simp [State.when, h, hf]

@[simp] theorem wf_execPowerGood : Out.Wf (execPowerGood s) := by
  simp +contextual [execPowerGood, h, State.wf_foldl]

@[simp] theorem wf_execStageLimitExceeded : Out.Wf (execStageLimitExceeded s) := by
  simp [execStageLimitExceeded, h]

@[simp] theorem State.wf_endStage (d stage : Nat) {go : State → State} (hgo : Memory.wf (go s).mem = true) :
    (s.endStage d stage go).Wf := by
  simp [State.endStage, h, hgo]

@[simp] theorem wf_execImageVerify : Out.Wf (execImageVerify s) := by
  unfold execImageVerify
  dsimp only
  split
  · exact State.wf_endStage h _ _ (by simp [h])
  · refine State.wf_endStage h _ _ ?_
    split
    · simp [h]
    · split <;> simp [h]

@[simp] theorem State.wf_clearRange (lo n : Nat) : Memory.wf (s.clearRange lo n).mem = true :=
  tabWf_tabClear s.mem _ _ h

@[simp] theorem wf_execSheetSelfCalibrate : Out.Wf (execSheetSelfCalibrate s) := by
  simp [execSheetSelfCalibrate, h]

@[simp] theorem wf_execD2dLinkTrain : Out.Wf (execD2dLinkTrain s) := by
  simp [execD2dLinkTrain, h]

@[simp] theorem wf_execLpddrTrain : Out.Wf (execLpddrTrain s) := by
  refine State.wf_when h _ ?_
  split
  · simp [h]
  · split
    · simp [h]
    · refine State.wf_foldl ?_ (fun t d ht => ?_) _
      · exact h
      · simp [ht]

@[simp] theorem wf_execLpddrInit : Out.Wf (execLpddrInit s) := by
  simp [execLpddrInit, h]

@[simp] theorem State.wf_writeCaps : Memory.wf s.writeCaps.mem = true :=
  State.wf_foldl h (fun t a ht => by simp [ht]) _

@[simp] theorem State.wf_setCap (id : BitVec 16) (v : Nat) : Memory.wf (s.setCap id v).mem = true := by
  unfold State.setCap
  split <;> simp [h]

@[simp] theorem State.wf_writeCxlCap : Memory.wf s.writeCxlCap.mem = true := by
  simp [State.writeCxlCap, h]

@[simp] theorem wf_execNdenathLinkTrain : Out.Wf (execNdenathLinkTrain s) := by
  simp [execNdenathLinkTrain, h]

@[simp] theorem State.wf_writeContexts (f : FwBoot) : Memory.wf (s.writeContexts f).mem = true :=
  State.wf_wrBytes (tabWf_tabClear s.mem _ _ h) ..

@[simp] theorem wf_execReadySet : Out.Wf (execReadySet s) := by
  simp [execReadySet, h]

@[simp] theorem wf_execRollbackRaise : Out.Wf (execRollbackRaise s) := by
  simp [execRollbackRaise, h]

@[simp] theorem wf_execCoolantOutOfRange : Out.Wf (execCoolantOutOfRange s) := by
  simp [execCoolantOutOfRange, h]

@[simp] theorem wf_execThermalTrip : Out.Wf (execThermalTrip s) := by
  simp [execThermalTrip, h]

@[simp] theorem State.wf_loseCxl : Memory.wf s.loseCxl.mem = true :=
  State.wf_foldl h (fun t a ht => by simp [ht]) _

@[simp] theorem State.wf_warmReset : Memory.wf s.warmReset.mem = true := by
  simp +contextual [State.warmReset, h, State.wf_foldl]

@[simp] theorem wf_execResetRegisterWrite : Out.Wf (execResetRegisterWrite s) := by
  simp [execResetRegisterWrite, h]

omit h in
@[simp] theorem wf_execPowerLoss : Out.Wf (execPowerLoss s) :=
  rfl

@[simp] theorem wf_execMgmtQuery : Out.Wf (execMgmtQuery s) := by
  simp [execMgmtQuery, h]

@[simp] theorem wf_execMgmtWarmReset : Out.Wf (execMgmtWarmReset s) := by
  simp [execMgmtWarmReset, h]

@[simp] theorem wf_execMgmtDrop : Out.Wf (execMgmtDrop s) := by
  simp [execMgmtDrop, h]

@[simp] theorem wf_execD2dRetry : Out.Wf (execD2dRetry s) := by
  simp [execD2dRetry, h]

@[simp] theorem State.wf_fatalNone (x : Word) (cause : Nat) (info : Dword) : Memory.wf (s.fatalNone x cause info).mem = true := by
  simp [State.fatalNone, h]

@[simp] theorem State.wf_endUnattributed (x : Word) (info : Dword) : Memory.wf (s.endUnattributed x info).mem = true := by
  simp [State.endUnattributed, h]

@[simp] theorem State.wf_linkFails (a b : Nat) : Memory.wf (s.linkFails a b).mem = true := by
  simp +contextual [State.linkFails, h, State.wf_foldl]

@[simp] theorem wf_execDieLinkFailure : Out.Wf (execDieLinkFailure s) := by
  simp [execDieLinkFailure, h]

@[simp] theorem State.wf_changeDone (d : Nat) : Memory.wf (s.changeDone d).mem = true := by
  simp [State.changeDone, h]

@[simp] theorem State.wf_changesDone : Memory.wf s.changesDone.mem = true := by
  refine State.wf_foldl h (fun t d ht => ?_) _
  split
  · split <;> simp [ht]
  · exact ht

@[simp] theorem State.wf_deadlines : Memory.wf s.deadlines.mem = true := by
  have hlinks := State.wf_foldl h (fun t l ht => State.wf_linkFails ht l.1 l.2) allLinks
  simp [State.deadlines, State.mem_foldl, hlinks]

@[simp] theorem wf_execLpddrDqRetrain : Out.Wf (execLpddrDqRetrain s) := by
  simp [execLpddrDqRetrain, h]

/-! #### Branches -/

@[simp] theorem State.wf_runB (n : Needs) {act : State → Lanes → State} (hact : ∀ m, Memory.wf (act s m).mem = true) :
    (s.runB n act).Wf :=
  State.wf_runX h n noFault hact

@[simp] theorem wf_execBra (f : XB) : Out.Wf (execBra f s) := by
  simp [execBra, h]

@[simp] theorem wf_execBrx (f : XB) : Out.Wf (execBrx f s) := by
  simp [execBrx, h]

@[simp] theorem wf_execCall (f : XB) : Out.Wf (execCall f s) := by
  simp [execCall, h]

@[simp] theorem wf_execCallx (f : XB) : Out.Wf (execCallx f s) := by
  simp [execCallx, h]

@[simp] theorem wf_execRet (f : XB) : Out.Wf (execRet f s) := by
  simp [execRet, h]

@[simp] theorem wf_execExit (f : XB) : Out.Wf (execExit f s) := by
  simp [execExit, h]

@[simp] theorem wf_execYield (f : XB) : Out.Wf (execYield f s) := by
  simp [execYield, h]

@[simp] theorem wf_execJoin (f : XB) : Out.Wf (execJoin f s) := by
  simp [execJoin, h]

@[simp] theorem wf_execLeave (f : XB) : Out.Wf (execLeave f s) := by
  simp [execLeave, h]

@[simp] theorem wf_execWaitm (f : XB) : Out.Wf (execWaitm f s) := by
  simp [execWaitm, h]

@[simp] theorem wf_execMkrd (f : XB) : Out.Wf (execMkrd f s) := by
  simp [execMkrd, h]

@[simp] theorem wf_execMkwr (f : XB) : Out.Wf (execMkwr f s) := by
  refine State.wf_runB h _ fun m => ?_
  dsimp only
  split <;> simp [h]

@[simp] theorem wf_execNop (f : XB) : Out.Wf (execNop f s) := by
  simp [execNop, h]

@[simp] theorem wf_execBrk (f : XB) : Out.Wf (execBrk f s) := by
  simp [execBrk, h]

@[simp] theorem wf_execTrap (f : XB) : Out.Wf (execTrap f s) := by
  simp [execTrap, h]

/-! #### Conversions -/

@[simp] theorem wf_execFcvt (f : TF) : Out.Wf (execFcvt f s) := by
  simp [execFcvt, h]

@[simp] theorem wf_execFcvti (f : TF) : Out.Wf (execFcvti f s) := by
  simp [execFcvti, h]

@[simp] theorem wf_execIcvtf (f : TF) : Out.Wf (execIcvtf f s) := by
  simp [execIcvtf, h]

@[simp] theorem wf_execPlsplit (f : TF) : Out.Wf (execPlsplit f s) := by
  simp [execPlsplit, h]

@[simp] theorem wf_execPljoin (f : TF) : Out.Wf (execPljoin f s) := by
  simp [execPljoin, h]

@[simp] theorem wf_execBpack (f : TF) : Out.Wf (execBpack f s) := by
  simp [execBpack, h]

@[simp] theorem wf_execBunpk (f : TF) : Out.Wf (execBunpk f s) := by
  simp [execBunpk, h]

/-! #### Launches accepted -/

@[simp] theorem State.wf_unitWrite (die : Nat) (ctx : BitVec 16) (va : Dword) (n x k : Nat) : OptWf (s.unitWrite die ctx va n x k) := by
  simp [State.unitWrite, h]

@[simp] theorem State.wf_handleRoom (die : Nat) : OptWf (s.handleRoom die) := by
  unfold State.handleRoom
  dsimp only
  repeat' split
  all_goals simp [h]

@[simp] theorem State.wf_accept (die : Nat) (ctx : BitVec 16) (va : Dword) : Memory.wf (s.accept die ctx va).1.mem = true := by
  unfold State.accept
  split
  · exact h
  · split
    · exact h
    · split
      · exact h
      · dsimp only
        split
        · exact h
        · split
          · exact h
          · split
            · exact h
            next t ht =>
              have hroom : Memory.wf t.mem = true := (State.wf_handleRoom h _).of_eq ht
              split
              · exact h
              · simp [hroom]

/-! #### Held operations -/

@[simp] theorem State.wf_holdFails (o : Nat) (e : HeldOp) : Memory.wf (s.holdFails o e).mem = true := by
  simp [State.holdFails, h]

@[simp] theorem State.wf_spillRun (o : Nat) (k : BitVec 16 × Word) : Memory.wf (s.spillRun o k).mem = true := by
  unfold State.spillRun
  dsimp only
  split <;> simp [h]

@[simp] theorem State.wf_holdInsert (o : Nat) (e : HeldOp) : Memory.wf (s.holdInsert o e).mem = true := by
  simp +contextual [State.holdInsert, h, State.wf_foldl]

@[simp] theorem State.wf_applyHeld (e : HeldOp) : Memory.wf (s.applyHeld e).1.mem = true := by
  simp [State.applyHeld, h]

@[simp] theorem State.wf_drainHeld (o : Nat) (src : BitVec 16) (x : Word) (apply : Bool) :
    Memory.wf (s.drainHeld o src x apply).mem = true := by
  have happly : ∀ (l : List HeldOp) (x : State × Flags), Memory.wf x.1.mem = true →
      Memory.wf (l.foldl (fun p e => ((p.1.applyHeld e).1, p.2 ||| (p.1.applyHeld e).2)) x).1.mem = true := fun l x hx =>
    List.foldlRecOn l _ (motive := fun p : State × Flags => Memory.wf p.1.mem = true) hx fun p hp e _ => State.wf_applyHeld hp e
  unfold State.drainHeld
  dsimp only
  split <;> simp [happly, h]

/-! #### Requests served -/

@[simp] theorem State.wf_optLane (adam wide : Bool) (rnd : BitVec 3) (p : OptParams) (pa : Nat) (ws : List Word) :
    Memory.wf (s.optLane adam wide rnd p pa ws).1.mem = true :=
  State.wf_foldl h (fun t a ht => by simp [ht]) _

@[simp] theorem State.wf_contribute (o pa slot : Nat) (ws : List Word) : Memory.wf (s.contribute o pa slot ws).1.mem = true := by
  unfold State.contribute
  dsimp only
  repeat' split
  all_goals simp [h]

@[simp] theorem State.wf_serveLane (p : Packet) (r : LaneRec) : Memory.wf (s.serveLane p r).1.mem = true := by
  unfold State.serveLane
  dsimp only
  split
  case h_3 => exact State.wf_foldl h (fun t x ht => State.wf_memWrite ht ..) _
  case h_5 => split <;> simp [h]
  all_goals simp [h]

/-! #### The owner's side -/

@[simp] theorem wf_execFlitReceive : Out.Wf (execFlitReceive s) := by
  unfold execFlitReceive
  dsimp only
  repeat' split
  all_goals simp [h]

@[simp] theorem State.wf_takePacket (p : Packet) : OptWf (s.takePacket p) := by
  simp [State.takePacket, h]

@[simp] theorem State.wf_onPacket (kind : BitVec 4) {go : Packet → State → State}
    (hgo : ∀ (p : Packet) (t : State), Memory.wf t.mem = true → Memory.wf (go p t).mem = true) : (s.onPacket kind go).Wf := by
  unfold State.onPacket
  dsimp only
  split
  · exact h
  · split
    next t ht => exact hgo _ t ((State.wf_takePacket h _).of_eq ht)
    next => exact h

omit h in
@[simp] theorem State.wf_serveLanes {s : State} (h : Memory.wf s.mem = true) (p : Packet) (rs : List LaneRec) :
    Memory.wf (s.serveLanes p rs).1.mem = true := by
  induction rs generalizing s with
  | nil => exact h
  | cons r rs ih =>
    refine ih ?_
    split <;> simp [h]

@[simp] theorem State.wf_executeOnce (p : Packet) (old : Option Entry) (todo : List LaneRec) :
    Memory.wf (s.executeOnce p old todo).mem = true := by
  simp [State.executeOnce, h]

@[simp] theorem State.wf_lookup (p : Packet) : Memory.wf (s.lookup p).mem = true := by
  unfold State.lookup
  dsimp only
  split <;> simp [h]

@[simp] theorem State.wf_watermarked (p : Packet) : Memory.wf (s.watermarked p).mem = true := by
  simp [State.watermarked, h]

@[simp] theorem wf_execWatermarkedRequest : Out.Wf (execWatermarkedRequest s) := by
  simp +contextual [execWatermarkedRequest, h]

@[simp] theorem State.wf_serveLoad (p : Packet) : Memory.wf (s.serveLoad p).mem = true := by
  simp [State.serveLoad, h]

@[simp] theorem wf_execLoadRequest : Out.Wf (execLoadRequest s) := by
  refine State.wf_onPacket h _ fun p t ht => ?_
  split <;> simp [ht]

@[simp] theorem wf_execClineRequest : Out.Wf (execClineRequest s) := by
  refine State.wf_onPacket h _ fun p t ht => ?_
  split <;> simp [ht]

@[simp] theorem wf_execReleaseNotice : Out.Wf (execReleaseNotice s) := by
  simp [execReleaseNotice, h]

@[simp] theorem wf_execReleaseNoticeLaunchEnd : Out.Wf (execReleaseNoticeLaunchEnd s) := by
  simp [execReleaseNoticeLaunchEnd, h]

@[simp] theorem wf_execLaunchEndMarkExpiry : Out.Wf (execLaunchEndMarkExpiry s) := by
  simp [execLaunchEndMarkExpiry, h]

@[simp] theorem wf_execOwnerRestart : Out.Wf (execOwnerRestart s) := by
  simp [execOwnerRestart, h]

@[simp] theorem wf_execOwnerRestore : Out.Wf (execOwnerRestore s) := by
  unfold execOwnerRestore
  dsimp only
  split <;> simp [h]

@[simp] theorem wf_execQuarantineEnd : Out.Wf (execQuarantineEnd s) := by
  unfold execQuarantineEnd
  dsimp only
  split <;> simp [h]

@[simp] theorem wf_execCopyWriteChunk : Out.Wf (execCopyWriteChunk s) := by
  refine State.wf_onPacket h _ fun p t ht => ?_
  have hwritten := State.wf_foldl ht (fun u x hu => State.wf_memWrite hu x.1 x.2) (writePieces p.recs p.bytes)
  simp [ht, hwritten]

@[simp] theorem wf_execCopyReadRequest : Out.Wf (execCopyReadRequest s) := by
  refine State.wf_onPacket h _ fun p t ht => State.wf_of_ite ?_ ht
  dsimp only
  split <;> simp [ht]

/-! #### The requester's side -/

@[simp] theorem wf_execResultReply : Out.Wf (execResultReply s) := by
  refine State.wf_onPacket h _ fun p t ht => ?_
  split <;> simp [ht]

@[simp] theorem wf_execLoadReply : Out.Wf (execLoadReply s) := by
  refine State.wf_onPacket h _ fun p t ht => ?_
  split <;> simp [ht]

@[simp] theorem wf_execBusyReply : Out.Wf (execBusyReply s) := by
  refine State.wf_onPacket h _ fun p t ht => ?_
  split <;> simp [ht]

@[simp] theorem wf_execUnknownReply : Out.Wf (execUnknownReply s) := by
  refine State.wf_onPacket h _ fun p t ht => ?_
  split <;> simp [ht]

@[simp] theorem wf_execRequestRetransmit : Out.Wf (execRequestRetransmit s) := by
  unfold execRequestRetransmit
  dsimp only
  split <;> simp [h]

@[simp] theorem wf_execBusyResend : Out.Wf (execBusyResend s) := by
  unfold execBusyResend
  dsimp only
  split <;> simp [h]

@[simp] theorem wf_execScheduleExhausted : Out.Wf (execScheduleExhausted s) := by
  unfold execScheduleExhausted
  dsimp only
  split <;> simp [h]

@[simp] theorem wf_execRequesterReleaseNotice : Out.Wf (execRequesterReleaseNotice s) := by
  simp [execRequesterReleaseNotice, h]

@[simp] theorem wf_execReleaseNoticeResend : Out.Wf (execReleaseNoticeResend s) := by
  unfold execReleaseNoticeResend
  dsimp only
  split <;> simp [h]

/-! #### Copies landed -/

@[simp] theorem wf_execCopyChunkLand : Out.Wf (execCopyChunkLand s) := by
  unfold execCopyChunkLand
  dsimp only
  split <;> simp [h]

@[simp] theorem wf_execCopyComplete : Out.Wf (execCopyComplete s) := by
  unfold execCopyComplete
  dsimp only
  repeat' split
  all_goals simp [h]

@[simp] theorem wf_execCopyAck : Out.Wf (execCopyAck s) := by
  simp [execCopyAck, h]

@[simp] theorem wf_execCopyChunkRetransmit : Out.Wf (execCopyChunkRetransmit s) := by
  unfold execCopyChunkRetransmit
  dsimp only
  repeat' split
  all_goals simp [h]

omit h in
@[simp] theorem State.wf_logMore {s : State} (h : Memory.wf s.mem = true) (d n : Nat) : Memory.wf (s.logMore d n).mem = true := by
  induction n generalizing s with
  | zero => exact h
  | succ n ih =>
    unfold State.logMore
    dsimp only
    split
    · split
      · exact h
      · exact ih (by simp [h])
    · exact h

@[simp] theorem wf_execFaultLogConsume : Out.Wf (execFaultLogConsume s) := by
  have hplaced (l : List RtExtent) : (l.foldl State.placeExtent s).mem = s.mem := State.mem_foldl State.mem_placeExtent l s
  exact State.wf_logMore (by simp [hplaced, h]) ..

@[simp] theorem wf_execCopyFaultRetry : Out.Wf (execCopyFaultRetry s) := by
  unfold execCopyFaultRetry
  dsimp only
  split <;> simp [h]

@[simp] theorem wf_execCopyFaultFail : Out.Wf (execCopyFaultFail s) := by
  unfold execCopyFaultFail
  dsimp only
  split <;> simp [h]

/-! #### Words across lanes -/

@[simp] theorem wf_execShfl (f : TF) : Out.Wf (execShfl f s) := by
  simp [execShfl, h]

@[simp] theorem wf_execXperm (f : TF) : Out.Wf (execXperm f s) := by
  simp [execXperm, h]

@[simp] theorem wf_execVote (f : TF) : Out.Wf (execVote f s) := by
  simp [execVote, h]

@[simp] theorem wf_execBallot (f : TF) : Out.Wf (execBallot f s) := by
  simp [execBallot, h]

@[simp] theorem wf_execMatchv (f : TF) : Out.Wf (execMatchv f s) := by
  simp [execMatchv, h]

@[simp] theorem wf_execScan (f : TF) : Out.Wf (execScan f s) := by
  simp [execScan, h]

/-! #### Xkelren words -/

@[simp] theorem State.wf_kln (fn : Nat) (rd rs1 rs2 : BitVec 5) {run : State → Hart → State × Dword}
    (hrun : ∀ x, Memory.wf (run s x).1.mem = true) : (s.kln fn rd rs1 rs2 run).Wf := by
  unfold State.kln
  dsimp only
  split <;> simp [h, hrun]

@[simp] theorem wf_execKlnLaunch (rd rs1 rs2 : BitVec 5) : Out.Wf (execKlnLaunch rd rs1 rs2 s) := by
  refine State.wf_kln h _ _ _ _ fun x => ?_
  dsimp only
  split
  · exact h
  · exact State.wf_accept h ..

@[simp] theorem wf_execKlnCancel (rd rs1 rs2 : BitVec 5) : Out.Wf (execKlnCancel rd rs1 rs2 s) := by
  unfold execKlnCancel
  split <;> simp [h]

@[simp] theorem wf_execKlnPreempt (rd rs1 rs2 : BitVec 5) : Out.Wf (execKlnPreempt rd rs1 rs2 s) := by
  simp [execKlnPreempt, h]

@[simp] theorem wf_execKlnStatus (rd rs1 rs2 : BitVec 5) : Out.Wf (execKlnStatus rd rs1 rs2 s) := by
  unfold execKlnStatus
  split <;> simp [h]

/-! #### Launches -/

@[simp] theorem wf_execLaunchDispatch : Out.Wf (execLaunchDispatch s) := by
  unfold execLaunchDispatch
  split <;> simp [h]

@[simp] theorem wf_execDependenceAnswer : Out.Wf (execDependenceAnswer s) := by
  unfold execDependenceAnswer
  dsimp only
  split <;> simp [h]

@[simp] theorem State.wf_expire (x : Word) : Memory.wf (s.expire x).mem = true := by
  simp [State.expire, h]

@[simp] theorem wf_execWatchdogExpiry : Out.Wf (execWatchdogExpiry s) := by
  simp [execWatchdogExpiry, h]

@[simp] theorem State.wf_takeReport (x : Word) (pkg : BitVec 16) (r : SliceReport) : Memory.wf (s.takeReport x pkg r).mem = true := by
  unfold State.takeReport
  dsimp only
  repeat' split
  all_goals simp [h]

@[simp] theorem wf_execHeldDrain : Out.Wf (execHeldDrain s) := by
  unfold execHeldDrain
  dsimp only
  repeat' split
  all_goals simp [h]

@[simp] theorem State.wf_writeReport (x : Word) : Memory.wf (s.writeReport x).mem = true := by
  simp [State.writeReport, h]

@[simp] theorem State.wf_writeDone (x : Word) : Memory.wf (s.writeDone x).mem = true := by
  unfold State.writeDone
  dsimp only
  split
  · exact h
  · split
    next t ht => exact (State.wf_unitWrite h ..).of_eq ht
    next => simp [h]

@[simp] theorem wf_execLaunchEnd : Out.Wf (execLaunchEnd s) := by
  unfold execLaunchEnd
  exact State.wf_when h _ (by simp [h])

@[simp] theorem wf_execRegisterWrite : Out.Wf (execRegisterWrite s) := by
  refine Out.wf_next.2 (State.wf_of_ite (State.wf_of_ite h h) (State.wf_of_ite ?_ h))
  split
  · exact h
  · split <;> exact h
  · exact h
  · exact h

@[simp] theorem State.wf_invalidate (op : BitVec 2) : Out.Wf (s.invalidate op) := by
  simp [State.invalidate, h]

@[simp] theorem wf_execInvalidatePage : Out.Wf (execInvalidatePage s) := by
  simp [execInvalidatePage, h]

@[simp] theorem wf_execInvalidateContext : Out.Wf (execInvalidateContext s) := by
  simp [execInvalidateContext, h]

@[simp] theorem wf_execInvalidateAll : Out.Wf (execInvalidateAll s) := by
  simp [execInvalidateAll, h]

@[simp] theorem wf_execInvalidateComplete : Out.Wf (execInvalidateComplete s) := by
  unfold execInvalidateComplete
  dsimp only
  split <;> simp [h]

@[simp] theorem wf_execOrdsizeWrite : Out.Wf (execOrdsizeWrite s) := by
  simp [execOrdsizeWrite, h]

@[simp] theorem wf_execOrdsizeTakeEffect : Out.Wf (execOrdsizeTakeEffect s) := by
  unfold execOrdsizeTakeEffect
  dsimp only
  split <;> simp [h]

/-! #### Moves -/

@[simp] theorem State.wf_movx (n : Needs) (wide : Bool) (dst : Nat) (nw : Bool) (keep : List Nat) (idx : Nat → Nat) :
    Memory.wf (s.movx n wide dst nw keep idx).mem = true := by
  simp [State.movx, h]

@[simp] theorem State.wf_movxw (n : Needs) (wide : Bool) (src : Nat) (keep : List Nat) (idx : Nat → Nat) :
    Memory.wf (s.movxw n wide src keep idx).mem = true := by
  simp [State.movxw, h]

@[simp] theorem wf_execMovx (f : TF) : Out.Wf (execMovx f s) := by
  simp [execMovx, h]

@[simp] theorem wf_execMovxw (f : TF) : Out.Wf (execMovxw f s) := by
  simp [execMovxw, h]

@[simp] theorem wf_execMovxI (f : IF) : Out.Wf (execMovxI f s) := by
  simp [execMovxI, h]

@[simp] theorem wf_execMovxwI (f : IF) : Out.Wf (execMovxwI f s) := by
  simp [execMovxwI, h]

/-! #### Ethernet -/

@[simp] theorem wf_execEthFrameReceive : Out.Wf (execEthFrameReceive s) := by
  simp [execEthFrameReceive, h]

@[simp] theorem wf_execEthFrameTransmit : Out.Wf (execEthFrameTransmit s) := by
  simp [execEthFrameTransmit, h]

@[simp] theorem wf_execEthLinkStateChange : Out.Wf (execEthLinkStateChange s) := by
  simp [execEthLinkStateChange, h]

/-! #### Parked words -/

@[simp] theorem wf_execRegisterWriteback : Out.Wf (execRegisterWriteback s) := by
  simp [execRegisterWriteback, h]

@[simp] theorem State.wf_wake (ok : Instr → Bool) {go : Wait → State → Out}
    (hgo : ∀ (w : Wait) (t : State), Memory.wf t.mem = true → (go w t).Wf) : (s.wake ok go).Wf := by
  unfold State.wake
  dsimp only
  split
  · split
    · exact Out.wf_map (hgo _ _ h) fun t ht => by simp [ht]
    · exact h
  · exact h

@[simp] theorem wf_execPresenceWake : Out.Wf (execPresenceWake s) := by
  unfold execPresenceWake
  dsimp only
  split <;> simp [h]

@[simp] theorem wf_execFullEmptyWake : Out.Wf (execFullEmptyWake s) := by
  unfold execFullEmptyWake
  dsimp only
  refine State.wf_wake h _ fun w t ht => ?_
  have hsteps (load : Bool) (f : XM) := State.wf_feSteps ht load f w.left
  split
  · simp [hsteps]
  · simp [hsteps]
  · exact ht

@[simp] theorem wf_execBarrierDeparture : Out.Wf (execBarrierDeparture s) := by
  refine State.wf_wake h _ fun w t ht => ?_
  split <;> simp [ht]

@[simp] theorem wf_execWaitcRelease : Out.Wf (execWaitcRelease s) := by
  refine State.wf_wake h _ fun w t ht => ?_
  split <;> simp [ht]

@[simp] theorem wf_execQueueVectorWake : Out.Wf (execQueueVectorWake s) := by
  refine State.wf_wake h _ fun w t ht => ?_
  split <;> simp [ht]

@[simp] theorem wf_execQsndRoomWake : Out.Wf (execQsndRoomWake s) := by
  refine State.wf_wake h _ fun w t ht => ?_
  split <;> simp [ht]

@[simp] theorem wf_execOrdwaitRelease : Out.Wf (execOrdwaitRelease s) := by
  refine State.wf_wake h _ fun w t ht => ?_
  split <;> simp [ht]

@[simp] theorem wf_execObrelComplete : Out.Wf (execObrelComplete s) := by
  refine State.wf_wake h _ fun w t ht => ?_
  split <;> simp [ht]

@[simp] theorem wf_execSvcReply : Out.Wf (execSvcReply s) := by
  unfold execSvcReply
  dsimp only
  split
  · exact h
  · split
    · exact h
    · split
      · exact h
      · refine State.wf_wake ?_ _ fun w t ht => ?_
        · exact h
        · split <;> simp [ht]

@[simp] theorem State.wf_waitaRead (w : Wait) (f : XM) (sel : Lanes) : Memory.wf (s.waitaRead w f sel).mem = true := by
  unfold State.waitaRead
  dsimp only
  repeat' split
  all_goals simp +contextual [h, State.mem_consume]

@[simp] theorem State.wf_waitaAgain (poll : Bool) {first : State → State} (sel : State → XM → Wait → Lanes)
    (hfirst : ∀ t : State, Memory.wf t.mem = true → Memory.wf (first t).mem = true) : (s.waitaAgain poll first sel).Wf := by
  refine State.wf_wake h _ fun w t ht => ?_
  split
  · exact State.wf_waitaRead (hfirst t ht) ..
  · exact ht

@[simp] theorem wf_execWaitaMonitorReread : Out.Wf (execWaitaMonitorReread s) := by
  simp [execWaitaMonitorReread, h]

@[simp] theorem wf_execWaitaPoll : Out.Wf (execWaitaPoll s) := by
  simp [execWaitaPoll, h]

@[simp] theorem wf_execQuantumExpiry : Out.Wf (execQuantumExpiry s) := by
  simp [execQuantumExpiry, h]

@[simp] theorem wf_execStarvationSwitch : Out.Wf (execStarvationSwitch s) := by
  simp [execStarvationSwitch, h]

@[simp] theorem wf_execYieldBundle : Out.Wf (execYieldBundle s) := by
  simp [execYieldBundle, h]

@[simp] theorem wf_execEnginePassGrant : Out.Wf (execEnginePassGrant s) := by
  unfold execEnginePassGrant
  dsimp only
  split <;> simp [h]

@[simp] theorem wf_execPassIdleEnd : Out.Wf (execPassIdleEnd s) := by
  simp [execPassIdleEnd, h]

@[simp] theorem wf_execMatrixPassRetire : Out.Wf (execMatrixPassRetire s) := by
  unfold execMatrixPassRetire
  dsimp only
  split <;> simp [h]

@[simp] theorem wf_execBackgroundClearDone : Out.Wf (execBackgroundClearDone s) := by
  unfold execBackgroundClearDone
  dsimp only
  split <;> simp +contextual [h, State.wf_foldl]

/-! #### The package -/

@[simp] theorem wf_execGovernorWindow : Out.Wf (execGovernorWindow s) := by
  simp [execGovernorWindow, h]

@[simp] theorem wf_execOperatingPointChangeDone : Out.Wf (execOperatingPointChangeDone s) := by
  simp [execOperatingPointChangeDone, h]

@[simp] theorem wf_execFieldRecordFlush : Out.Wf (execFieldRecordFlush s) := by
  simp [execFieldRecordFlush, h]

@[simp] theorem wf_execScrub : Out.Wf (execScrub s) := by
  refine State.wf_when h _ ?_
  have hcorrected (l : List Nat) : (l.foldl (fun t x => t.countEcc x false) s).mem = s.mem :=
    State.mem_foldl (fun _ _ => State.mem_countEcc ..) l s
  refine State.wf_foldl (State.wf_foldl ?_ (fun t x ht => ?_) _) (fun t l ht => ?_) _
  · simp only [hcorrected, h]
  · simp [ht]
  · simp [ht]

@[simp] theorem wf_execCxlLinkTrain : Out.Wf (execCxlLinkTrain s) := by
  simp [execCxlLinkTrain, h]

@[simp] theorem wf_execCxlDeviceRemoved : Out.Wf (execCxlDeviceRemoved s) := by
  simp [execCxlDeviceRemoved, h]

@[simp] theorem wf_execCxlLinkDown : Out.Wf (execCxlLinkDown s) := by
  simp [execCxlLinkDown, h]

@[simp] theorem wf_execNdenathPortStateChange : Out.Wf (execNdenathPortStateChange s) := by
  simp [execNdenathPortStateChange, h]

@[simp] theorem wf_execGlintReplay : Out.Wf (execGlintReplay s) := by
  unfold execGlintReplay
  dsimp only
  repeat' split
  all_goals simp [h]

@[simp] theorem wf_execUncorrectableConsume : Out.Wf (execUncorrectableConsume s) := by
  unfold execUncorrectableConsume
  dsimp only
  repeat' split
  all_goals simp +contextual [h, State.wf_foldl, State.mem_consume]

@[simp] theorem wf_execControlCoreHwError : Out.Wf (execControlCoreHwError s) := by
  simp [execControlCoreHwError, h]

/-! #### The placer -/

@[simp] theorem State.wf_teamAreas (tk d : Nat) : OptWf (s.teamAreas tk d) := by
  unfold State.teamAreas
  dsimp only
  split
  · exact h
  · have hgroups (n : Nat) : OptWf ((List.range (s.launch (keyHandle tk)).groups).foldl
        (fun (o : Option State) g => o.bind fun t => t.takeArea (.checkpoint g) tk d n) (some s)) :=
      OptWf.foldl (OptWf.wf_some.2 h) (fun o g ho => ho.bind fun t ht => State.wf_takeArea ht ..) _
    split
    · exact ((hgroups _).bind fun t ht => State.wf_takeArea ht ..).bind fun t ht => State.wf_takeArea ht ..
    · exact (hgroups _).bind fun t ht => State.wf_takeArea ht ..

@[simp] theorem State.wf_clusterAreas (ck d : Nat) : OptWf (s.clusterAreas ck d) :=
  OptWf.foldl (OptWf.wf_some.2 h) (fun _ _ ho => ho.bind fun _ ht => State.wf_teamAreas ht ..) _

@[simp] theorem State.wf_placeAt (ck die origin : Nat) : Memory.wf (s.placeAt ck die origin).1.mem = true := by
  unfold State.placeAt
  cases ht : s.clusterAreas ck die with
  | none => exact h
  | some t =>
    dsimp only
    have hareas : Memory.wf t.mem = true := (State.wf_clusterAreas h ..).of_eq ht
    have hteams : (allSteps (fun t x => t.placeTeam ck x.1 x.2) t (s.seats ck die origin)).1.mem = t.mem :=
      mem_allSteps (fun _ _ => State.mem_placeTeam ..) _ t
    split
    · simp only [State.mem_tidyCluster, State.mem_foldl State.mem_tidyTeam, State.setLaunch_mem, State.setCluster_mem, hteams, hareas]
    · exact h

omit h in
@[simp] theorem State.wf_placeFirst {s : State} (h : Memory.wf s.mem = true) (l : List Nat) : Memory.wf (s.placeFirst l).mem = true := by
  induction l generalizing s with
  | nil => exact h
  | cons ck l ih =>
    unfold State.placeFirst
    dsimp only
    split
    · exact ih h
    · have hplace := State.wf_placeAt h ck
      split
      · exact hplace ..
      · exact ih (hplace ..)

@[simp] theorem wf_execClusterPlace : Out.Wf (execClusterPlace s) := by
  simp [execClusterPlace, h]

@[simp] theorem wf_execClusterBlocking : Out.Wf (execClusterBlocking s) := by
  simp [execClusterBlocking, h]

@[simp] theorem State.wf_launchTime : Memory.wf s.launchTime.mem = true := by
  have hexp := State.wf_foldl h (fun t x ht => State.wf_expire ht x) (s.launches.map fun (p : Nat × Launch) => p.2.handle)
  simp [State.launchTime, State.mem_foldl, hexp]

/-! #### Pre-emption -/

@[simp] theorem wf_execClusterMove : Out.Wf (execClusterMove s) := by
  simp +contextual [execClusterMove, h, State.wf_foldl]

@[simp] theorem wf_execVictimPreempt : Out.Wf (execVictimPreempt s) := by
  unfold execVictimPreempt
  dsimp only
  refine State.wf_when h _ ?_
  split
  · exact State.wf_foldl h (fun t k ht => by simp [ht]) _
  · exact h

@[simp] theorem wf_execDeterministicPreempt : Out.Wf (execDeterministicPreempt s) := by
  simp [execDeterministicPreempt, h]

@[simp] theorem State.wf_runOps (gid : Nat) (ids : List Nat) : Memory.wf (s.runOps gid ids).mem = true := by
  refine State.wf_retireMats (State.wf_foldl h (fun t o ht => ?_) _) ..
  split
  · exact State.wf_runTile ht ..
  · exact ht

@[simp] theorem State.wf_drainEngine (gid : Nat) : Memory.wf (s.drainEngine gid).mem = true := by
  have hpasses := State.wf_foldl (State.wf_of_mem_eq (s.mem_closePass gid) h) (fun t (p : Pass) ht => State.wf_runOps ht p.gid p.ops)
  simp [State.drainEngine, hpasses]

@[simp] theorem wf_execClusterPreempt : Out.Wf (execClusterPreempt s) := by
  unfold execClusterPreempt
  refine State.wf_when h _ ?_
  have hdrained := State.wf_foldl h (fun t g ht => State.wf_drainEngine ht g) (s.liveGroups s.inp.ck)
  simp only [State.mem_ite, State.setCluster_mem, State.mem_foldl State.mem_saveTeam, State.mem_foldl State.mem_closeGroup,
    State.mem_foldl State.mem_undoSteps, ite_self, hdrained]

@[simp] theorem wf_execPreemptRelease : Out.Wf (execPreemptRelease s) := by
  simp [execPreemptRelease, h]

@[simp] theorem State.wf_endUncorrectable (ck : Nat) (x : Snapshot) : Memory.wf (s.endUncorrectable ck x).mem = true := by
  simp [State.endUncorrectable, h]

@[simp] theorem wf_execSupervisorDecision : Out.Wf (execSupervisorDecision s) := by
  unfold execSupervisorDecision
  dsimp only
  split <;> simp [h]

/-! #### The control cores' bus -/

@[simp] theorem State.wf_after {f : State → Out} (inp : Input) (hf : ∀ t : State, Memory.wf t.mem = true → (f t).Wf) :
    Memory.wf (s.after f inp).mem = true := by
  have hout := hf { s with inp } h
  unfold State.after
  split
  next t ht => rwa [ht] at hout
  next => exact h

@[simp] theorem State.wf_ctlWrite (a : Nat) (v : Dword) : Memory.wf (s.ctlWrite a v).mem = true := by
  refine State.wf_of_ite (State.wf_after h _ fun _ => wf_execRegisterWrite)
    (State.wf_of_ite (State.wf_after h _ fun _ => wf_execResetRegisterWrite) (State.wf_of_ite ?_ (State.wf_of_ite ?_ h)))
  · split
    · exact State.wf_after h _ fun _ => wf_execFaultLogConsume
    · dsimp only
      split
      · exact State.wf_after h _ fun _ => wf_execCopyFaultRetry
      · exact State.wf_after h _ fun _ => wf_execCopyFaultFail
      · exact h
    · exact h
  · split
    · exact State.wf_of_ite (State.wf_after h _ fun _ ht => State.wf_invalidate ht _) (State.wf_after h _ fun _ => wf_execRegisterWrite)
    · exact State.wf_after h _ fun _ => wf_execOrdsizeWrite
    · exact State.wf_after h _ fun _ => wf_execRegisterWrite

@[simp] theorem State.wf_busWrite (pa : Nat) (bs : List Byte) : OptWf (s.busWrite pa bs) := by
  simp [State.busWrite, h]

/-! #### RISC-V words -/

omit h in
@[simp] theorem HartEnd.wf_raise (cause tval : Nat) : (HartEnd.raise cause tval).Wf := trivial

omit h in
@[simp] theorem HartEnd.wf_ofFail (f : XlateFail) : (HartEnd.ofFail f).Wf := by
  cases f <;> trivial

omit h in
@[simp] theorem HartWord.wf_illegal (c : HartWord) : c.illegal.Wf := trivial

omit h in
@[simp] theorem HartWord.wf_allow (c : HartWord) (cause : Nat) {e : HartEnd} (he : e.Wf) : (c.allow cause e).Wf := by
  unfold HartWord.allow
  split <;> simp [he]

@[simp] theorem HartWord.wf_become (c : HartWord) (x : Hart) : (c.become s x).Wf := by
  simp [HartWord.become, h]

@[simp] theorem HartWord.wf_write (c : HartWord) (v : Nat) : (c.write s v).Wf := by
  simp [HartWord.write, h]

omit h in
@[simp] theorem State.wf_hartAt (x : Hart) (mode : HartMode) (acc : HartAcc) (va n : Nat) {k : Nat → HartEnd} (hk : ∀ pa, (k pa).Wf) :
    (s.hartAt x mode acc va n k).Wf := by
  unfold State.hartAt
  dsimp only
  split
  · trivial
  · split
    next f hf => simp
    next pa hpa => exact hk pa

omit h in
@[simp] theorem State.wf_hartLoad (x : Hart) (mode : HartMode) (acc : HartAcc) (va n : Nat) {k : Nat → HartEnd} (hk : ∀ v, (k v).Wf) :
    (s.hartLoad x mode acc va n k).Wf := by
  refine State.wf_hartAt _ _ _ _ _ fun pa => ?_
  split <;> simp [hk]

@[simp] theorem HartWord.wf_store (c : HartWord) (mode : HartMode) (va n v : Nat) (x : Hart) : (c.store s mode va n v x).Wf := by
  refine State.wf_hartAt _ _ _ _ _ fun pa => ?_
  split
  next t ht => exact OptWf.of_eq (State.wf_busWrite (by simp [h]) ..) ht
  next => trivial

@[simp] theorem HartWord.wf_amo (c : HartWord) : (c.amo s).Wf := by
  unfold HartWord.amo
  dsimp only
  split
  · simp
  · split
    · split
      · simp
      · exact State.wf_hartAt _ _ _ _ _ fun pa => State.wf_hartLoad _ _ _ _ _ fun v => by simp [h]
    · split
      · refine State.wf_hartAt _ _ _ _ _ fun pa => ?_
        split <;> simp [h]
      · refine State.wf_hartAt _ _ _ _ _ fun pa => ?_
        split
        · simp
        · simp
        · split <;> simp [h]

@[simp] theorem HartWord.wf_guestAccess (c : HartWord) : (c.guestAccess s).Wf := by
  unfold HartWord.guestAccess
  dsimp only
  split
  · simp
  · refine HartWord.wf_allow _ _ ?_
    split
    · simp [h]
    · split <;> simp [h]

@[simp] theorem HartWord.wf_csr (c : HartWord) (write : Bool) (f : Nat → Nat) : (c.csr s write f).Wf := by
  unfold HartWord.csr
  dsimp only
  split <;> simp [h]

@[simp] theorem HartWord.wf_system (c : HartWord) : (c.system s).Wf := by
  unfold HartWord.system
  dsimp only
  repeat' split
  all_goals simp [h]

@[simp] theorem HartWord.wf_sys (c : HartWord) : (c.sys s).Wf := by
  unfold HartWord.sys
  dsimp only
  split <;> simp [h]

@[simp] theorem HartWord.wf_fres (c : HartWord) (r : Option FRes) : (c.fres s r).Wf := by
  unfold HartWord.fres
  split <;> simp [h]

@[simp] theorem HartWord.wf_run (c : HartWord) : (c.run s).Wf := by
  unfold HartWord.run
  dsimp only
  split
  case h_5 => split <;> simp [h]
  all_goals simp [h]

@[simp] theorem State.wf_hartOut (n : Nat) (x : Hart) {e : HartEnd} (he : e.Wf) : (s.hartOut n x e).Wf := by
  cases e with
  | next t => exact he
  | trap t => exact h
  | unbacked => trivial

@[simp] theorem State.wf_hartBase (n : Nat) (x : Hart) (w : Nat) : Out.Wf (s.hartBase n x w) := by
  unfold State.hartBase
  split
  · exact State.wf_hartOut h _ _ (HartWord.wf_run h _)
  · split
    · exact State.wf_hartOut h _ _ (HartWord.wf_run h _)
    · exact State.wf_hartOut h _ _ trivial

/-! #### Turns -/

@[simp] theorem State.wf_tick (ns : Nat) (meas : List (List DieMeas)) : Memory.wf (s.tick ns meas).mem = true := by
  have hwindows (l : List Nat) : (l.foldl (fun t k => t.lateWindow (meas.getD k [])) s).mem = s.mem :=
    State.mem_foldl (fun t k => t.mem_lateWindow _) l s
  unfold State.tick
  dsimp only
  split
  · split
    · refine State.wf_deadlines (State.wf_of_mem_eq (State.mem_passTime _) (State.wf_launchTime ?_))
      simp only [State.mem_copyTime, State.mem_fabricTime, State.mem_elapse, hwindows, h]
    · simp only [hwindows, h]
  · exact h

@[simp] theorem State.wf_enumerate (ds : List Decoder) (devices : List Nat) : Memory.wf (s.enumerate ds devices).mem = true := by
  simp [State.enumerate, h]

/-! #### The firmware's start -/

@[simp] theorem State.wf_bootHarts (d : Nat) (f : FwBoot) : Memory.wf (s.bootHarts d f).mem = true := by
  rw [State.bootHarts_only]
  exact h

@[simp] theorem State.wf_buildRuntime (f : FwBoot) : Memory.wf (s.buildRuntime f).mem = true := by
  unfold State.buildRuntime
  extract_lets t
  have ht : Memory.wf t.mem = true := State.wf_writeContexts (State.wf_foldl h (fun t x ht => State.wf_wrBytes ht ..) _) _
  clear_value t
  exact State.wf_writeCaps ht

@[simp] theorem wf_execFirmwareServicesStart : Out.Wf (execFirmwareServicesStart s) := by
  by_cases hin : s.inStage s.inp.die 8 = true
  · by_cases hlate : s.late s.inp.die = true
    · rw [execFirmwareServicesStart, State.endStage_late hin hlate]
      simp [h]
    · rw [execFirmwareServicesStart_eq ⟨hin, by simpa using hlate⟩]
      exact State.wf_of_ite (State.wf_of_ite (by simp [h]) (by simp [h])) h
  · rw [execFirmwareServicesStart, State.endStage, State.when_neg (by simpa using hin)]
    exact h

/-! #### The step -/

@[simp] theorem wf_exec (i : Instr) : Out.Wf (exec i s) := by
  cases i with
  | iadd f | isub f | imul f | imulh f | imad f | imin f | imax f | iabs f | ineg f | idiv f | irem f | lea f | and f | or f
  | xor f | andn f | orn f | shl f | shr f | sar f | rotl f | funsh f | bfx f | bfi f | popc f | clz f | ctz f | brev f | icmp f
  | sel f | mov f =>
    exact State.wf_intT h _ f
  | iaddI f | isubI f | imulI f | imulhI f | imadI f | iminI f | imaxI f | iabsI f | inegI f | idivI f | iremI f | leaI f | andI f
  | orI f | xorI f | andnI f | ornI f | shlI f | shrI f | sarI f | rotlI f | funshI f | bfxI f | bfiI f | popcI f | clzI f | ctzI f
  | brevI f | icmpI f | selI f | movI f =>
    exact State.wf_intI h _ f
  | fadd f | fsub f | fmul f | ffma f | ffms f | fmin f | fmax f | fminm f | fmaxm f | fabs f | fneg f | fcpys f | fcmp f
  | fclass f | frint f | fscl f | fgete f | fdiv f | fsqrt f | frcp f | frsq f | fexp f | fexp2 f | flog f | flog2 f | fsin f
  | fcos f | ftan f | fatan f | ftanh f | ferf f =>
    exact State.wf_fpT h _ f
  | faddI f | fmulI f | ffmaI f =>
    exact State.wf_fpI h _ f
  | iaddP h0 op1 h1 | isubP h0 op1 h1 | iminP h0 op1 h1 | imaxP h0 op1 h1 | andP h0 op1 h1 | orP h0 op1 h1 | xorP h0 op1 h1
  | andnP h0 op1 h1 | shlP h0 op1 h1 | shrP h0 op1 h1 | sarP h0 op1 h1 | movP h0 op1 h1 | icmpP h0 op1 h1 | faddP h0 op1 h1
  | fmulP h0 op1 h1 | fminP h0 op1 h1 | fmaxP h0 op1 h1 =>
    exact State.wf_half h ..
  | movx f => exact wf_execMovx h f
  | movxw f => exact wf_execMovxw h f
  | shfl f => exact wf_execShfl h f
  | xperm f => exact wf_execXperm h f
  | vote f => exact wf_execVote h f
  | ballot f => exact wf_execBallot h f
  | matchv f => exact wf_execMatchv h f
  | scan f => exact wf_execScan h f
  | fcvt f => exact wf_execFcvt h f
  | fcvti f => exact wf_execFcvti h f
  | icvtf f => exact wf_execIcvtf h f
  | plsplit f => exact wf_execPlsplit h f
  | pljoin f => exact wf_execPljoin h f
  | bpack f => exact wf_execBpack h f
  | bunpk f => exact wf_execBunpk h f
  | movxI f => exact wf_execMovxI h f
  | movxwI f => exact wf_execMovxwI h f
  | ld f => exact wf_execLd h f
  | st f => exact wf_execSt h f
  | ldp f => exact wf_execLdp h f
  | stp f => exact wf_execStp h f
  | ldfe f => exact wf_execLdfe h f
  | stfe f => exact wf_execStfe h f
  | feinit f => exact wf_execFeinit h f
  | sptest f => exact wf_execSptest h f
  | spcast f => exact wf_execSpcast h f
  | fence f => exact wf_execFence h f
  | atom f => exact wf_execAtom h f
  | red f => exact wf_execRed h f
  | atomv f => exact wf_execAtomv h f
  | waita f => exact wf_execWaita h f
  | bar f => exact wf_execBar h f
  | bara f => exact wf_execBara h f
  | barw f => exact wf_execBarw h f
  | regn f => exact wf_execRegn h f
  | commit f => exact wf_execCommit h f
  | ordwait f => exact wf_execOrdwait h f
  | qsnd f => exact wf_execQsnd h f
  | qrcv f => exact wf_execQrcv h f
  | bra f => exact wf_execBra h f
  | brx f => exact wf_execBrx h f
  | call f => exact wf_execCall h f
  | callx f => exact wf_execCallx h f
  | ret f => exact wf_execRet h f
  | exit f => exact wf_execExit h f
  | yield f => exact wf_execYield h f
  | join f => exact wf_execJoin h f
  | leave f => exact wf_execLeave h f
  | waitm f => exact wf_execWaitm h f
  | mkrd f => exact wf_execMkrd h f
  | mkwr f => exact wf_execMkwr h f
  | nop f => exact wf_execNop h f
  | brk f => exact wf_execBrk h f
  | trap f => exact wf_execTrap h f
  | cpy f => exact wf_execCpy h f
  | cpy2 f => exact wf_execCpy2 h f
  | cpyx f => exact wf_execCpyx h f
  | cpyp f => exact wf_execCpyp h f
  | ctld f => exact wf_execCtld h f
  | ptld f => exact wf_execPtld h f
  | waitc f => exact wf_execWaitc h f
  | cntrd f => exact wf_execCntrd h f
  | obres f => exact wf_execObres h f
  | obrel f => exact wf_execObrel h f
  | obset f => exact wf_execObset h f
  | mma f => exact wf_execMma h f
  | mrd f => exact wf_execMrd h f
  | mwr f => exact wf_execMwr h f
  | mwrMem f => exact wf_execMwrMem h f
  | mzero f => exact wf_execMzero h f
  | mpri f => exact wf_execMpri h f
  | tpool f => exact wf_execTpool h f
  | tpoolEmpty f => exact wf_execTpoolEmpty h f
  | tzero f => exact wf_execTzero h f
  | tmac f => exact wf_execTmac h f
  | tadd f => exact wf_execTadd h f
  | trnd f => exact wf_execTrnd h f
  | tdense f => exact wf_execTdense h f
  | tcomp f => exact wf_execTcomp h f
  | tlu f => exact wf_execTlu h f
  | ttrs f => exact wf_execTtrs h f
  | tinfo f => exact wf_execTinfo h f
  | tsamp f => exact wf_execTsamp h f
  | osgd f => exact wf_execOsgd h f
  | oadam f => exact wf_execOadam h f
  | cline f => exact wf_execCline h f
  | ccon f => exact wf_execCcon h f
  | launch f => exact wf_execLaunch h f
  | rdsr f => exact wf_execRdsr h f
  | wrsr f => exact wf_execWrsr h f
  | svc f => exact wf_execSvc h f
  | tret f => exact wf_execTret h f
  | klnLaunch rd rs1 rs2 => exact wf_execKlnLaunch h rd rs1 rs2
  | klnCancel rd rs1 rs2 => exact wf_execKlnCancel h rd rs1 rs2
  | klnPreempt rd rs1 rs2 => exact wf_execKlnPreempt h rd rs1 rs2
  | klnStatus rd rs1 rs2 => exact wf_execKlnStatus h rd rs1 rs2
  | powerGood => exact wf_execPowerGood h
  | imageVerify => exact wf_execImageVerify h
  | sheetSelfCalibrate => exact wf_execSheetSelfCalibrate h
  | d2dLinkTrain => exact wf_execD2dLinkTrain h
  | lpddrTrain => exact wf_execLpddrTrain h
  | lpddrInit => exact wf_execLpddrInit h
  | ndenathLinkTrain => exact wf_execNdenathLinkTrain h
  | firmwareServicesStart => exact wf_execFirmwareServicesStart h
  | readySet => exact wf_execReadySet h
  | stageLimitExceeded => exact wf_execStageLimitExceeded h
  | thermalTrip => exact wf_execThermalTrip h
  | coolantOutOfRange => exact wf_execCoolantOutOfRange h
  | rollbackRaise => exact wf_execRollbackRaise h
  | lpddrDqRetrain => exact wf_execLpddrDqRetrain h
  | d2dRetry => exact wf_execD2dRetry h
  | dieLinkFailure => exact wf_execDieLinkFailure h
  | mgmtQuery => exact wf_execMgmtQuery h
  | mgmtWarmReset => exact wf_execMgmtWarmReset h
  | mgmtDrop => exact wf_execMgmtDrop h
  | resetRegisterWrite => exact wf_execResetRegisterWrite h
  | governorWindow => exact wf_execGovernorWindow h
  | operatingPointChangeDone => exact wf_execOperatingPointChangeDone h
  | fieldRecordFlush => exact wf_execFieldRecordFlush h
  | scrub => exact wf_execScrub h
  | ethFrameReceive => exact wf_execEthFrameReceive h
  | ethFrameTransmit => exact wf_execEthFrameTransmit h
  | cxlLinkTrain => exact wf_execCxlLinkTrain h
  | cxlDeviceRemoved => exact wf_execCxlDeviceRemoved h
  | ndenathPortStateChange => exact wf_execNdenathPortStateChange h
  | flitReceive => exact wf_execFlitReceive h
  | loadRequest => exact wf_execLoadRequest h
  | loadReply => exact wf_execLoadReply h
  | watermarkedRequest => exact wf_execWatermarkedRequest h
  | resultReply => exact wf_execResultReply h
  | busyReply => exact wf_execBusyReply h
  | unknownReply => exact wf_execUnknownReply h
  | releaseNotice => exact wf_execReleaseNotice h
  | releaseNoticeLaunchEnd => exact wf_execReleaseNoticeLaunchEnd h
  | copyWriteChunk => exact wf_execCopyWriteChunk h
  | copyReadRequest => exact wf_execCopyReadRequest h
  | copyAck => exact wf_execCopyAck h
  | requestRetransmit => exact wf_execRequestRetransmit h
  | scheduleExhausted => exact wf_execScheduleExhausted h
  | busyResend => exact wf_execBusyResend h
  | requesterReleaseNotice => exact wf_execRequesterReleaseNotice h
  | releaseNoticeResend => exact wf_execReleaseNoticeResend h
  | launchEndMarkExpiry => exact wf_execLaunchEndMarkExpiry h
  | ownerRestart => exact wf_execOwnerRestart h
  | ownerRestore => exact wf_execOwnerRestore h
  | quarantineEnd => exact wf_execQuarantineEnd h
  | clineRequest => exact wf_execClineRequest h
  | heldDrain => exact wf_execHeldDrain h
  | launchDispatch => exact wf_execLaunchDispatch h
  | dependenceAnswer => exact wf_execDependenceAnswer h
  | launchEnd => exact wf_execLaunchEnd h
  | watchdogExpiry => exact wf_execWatchdogExpiry h
  | faultLogConsume => exact wf_execFaultLogConsume h
  | copyFaultRetry => exact wf_execCopyFaultRetry h
  | copyFaultFail => exact wf_execCopyFaultFail h
  | invalidatePage => exact wf_execInvalidatePage h
  | invalidateContext => exact wf_execInvalidateContext h
  | invalidateAll => exact wf_execInvalidateAll h
  | invalidateComplete => exact wf_execInvalidateComplete h
  | ordsizeWrite => exact wf_execOrdsizeWrite h
  | ordsizeTakeEffect => exact wf_execOrdsizeTakeEffect h
  | registerWrite => exact wf_execRegisterWrite h
  | clusterPlace => exact wf_execClusterPlace h
  | clusterBlocking => exact wf_execClusterBlocking h
  | victimPreempt => exact wf_execVictimPreempt h
  | clusterMove => exact wf_execClusterMove h
  | deterministicPreempt => exact wf_execDeterministicPreempt h
  | clusterPreempt => exact wf_execClusterPreempt h
  | preemptRelease => exact wf_execPreemptRelease h
  | backgroundClearDone => exact wf_execBackgroundClearDone h
  | enginePassGrant => exact wf_execEnginePassGrant h
  | passIdleEnd => exact wf_execPassIdleEnd h
  | quantumExpiry => exact wf_execQuantumExpiry h
  | starvationSwitch => exact wf_execStarvationSwitch h
  | yieldBundle => exact wf_execYieldBundle h
  | registerWriteback => exact wf_execRegisterWriteback h
  | presenceWake => exact wf_execPresenceWake h
  | fullEmptyWake => exact wf_execFullEmptyWake h
  | barrierDeparture => exact wf_execBarrierDeparture h
  | waitcRelease => exact wf_execWaitcRelease h
  | queueVectorWake => exact wf_execQueueVectorWake h
  | qsndRoomWake => exact wf_execQsndRoomWake h
  | ordwaitRelease => exact wf_execOrdwaitRelease h
  | waitaMonitorReread => exact wf_execWaitaMonitorReread h
  | waitaPoll => exact wf_execWaitaPoll h
  | svcReply => exact wf_execSvcReply h
  | obrelComplete => exact wf_execObrelComplete h
  | matrixPassRetire => exact wf_execMatrixPassRetire h
  | tileOpExecute => exact wf_execTileOpExecute h
  | copyChunkLand => exact wf_execCopyChunkLand h
  | copyComplete => exact wf_execCopyComplete h
  | glintReplay => exact wf_execGlintReplay h
  | uncorrectableConsume => exact wf_execUncorrectableConsume h
  | supervisorDecision => exact wf_execSupervisorDecision h
  | controlCoreHwError => exact wf_execControlCoreHwError h
  | powerLoss => exact wf_execPowerLoss
  | ethLinkStateChange => exact wf_execEthLinkStateChange h
  | cxlLinkDown => exact wf_execCxlLinkDown h
  | copyChunkRetransmit => exact wf_execCopyChunkRetransmit h

omit h in
/-- A fetch that ends the word ends it in a trap or on bytes that nothing backs. -/
theorem State.wf_of_hartWord {s : State} {x : Hart} {e : HartEnd} (he : s.hartWord x = .ends e) : e.Wf := by
  unfold State.hartWord at he
  extract_lets half at he
  have hhalf {va : Nat} {e : HartEnd} (he : half va = .ends e) : e.Wf := by
    dsimp only [half] at he
    split at he
    · cases he
      simp
    · split at he <;> cases he <;> simp
  clear_value half
  split at he
  next e' hlo =>
    cases he
    exact hhalf hlo
  · split at he
    · cases he
    · split at he
      next e' hhi =>
        cases he
        exact hhalf hhi
      · cases he

theorem State.wf_hartTurn (n : Nat) : Out.Wf (s.hartTurn n) := by
  unfold State.hartTurn
  split
  · exact h
  · dsimp only
    split
    next e he => exact State.wf_hartOut h _ _ (State.wf_of_hartWord he)
    next =>
      split
      · refine wf_exec ?_ _
        exact h
      · exact State.wf_hartBase h ..

theorem State.wf_runWord (w : BitVec 64) : Out.Wf (s.runWord w) := by
  unfold State.runWord
  split
  · simp [h]
  · simp [h]
  · exact wf_exec h _

theorem State.wf_bundle (g : Nat) : Out.Wf (s.bundle g) := by
  unfold State.bundle
  dsimp only
  split
  · simp [h]
  · simp [State.mem_consume, h]
  · simp [h]
  · exact h
  · exact Out.wf_map (State.wf_runWord (by simp [h]) _) fun t ht => by simp [ht]

omit h in
theorem State.wf_survey {s : State} (h : Memory.wf s.mem = true) (gs : List Nat) : Memory.wf (s.survey gs).1.mem = true := by
  induction gs generalizing s with
  | nil => exact h
  | cons g gs ih =>
    have hbundle := State.wf_bundle h g
    unfold State.survey
    dsimp only
    split
    · split
      next t ht => exact ih (Out.wf_next.1 (ht ▸ hbundle))
      next => exact ih h
    · exact ih h
    · split
      · exact ih h
      · split
        · exact ih h
        · exact ih h

theorem State.wf_slotTurn (n : Nat) : Out.Wf (s.slotTurn n) := by
  have hsurvey := State.wf_survey h (s.candidates n)
  unfold State.slotTurn
  dsimp only
  split
  · exact State.wf_bundle (by simp [hsurvey]) _
  · exact hsurvey

theorem State.wf_turn (t : Turn) : Out.Wf (s.turn t) := by
  unfold State.turn
  split
  · split
    · exact State.wf_slotTurn h _
    · exact h
  · split
    · exact State.wf_hartTurn h _
    · exact h
  · split
    · split
      · refine wf_exec ?_ _
        exact h
      · exact h
    · exact h
  · exact State.wf_tick h ..
  · simp [h]
  · simp [h]
  · exact h
  · simp [h]

theorem State.wf_whole (t : Turn) : Out.Wf (s.whole t) :=
  Out.wf_map (State.wf_turn h t) fun u hu => by simp [hu]

theorem wf_step : Out.Wf (step s) := by
  unfold step
  split
  · refine State.wf_whole ?_ _
    exact h
  · refine State.wf_whole ?_ _
    exact h

end

/-- Settles O59: every operation that a step is made of keeps memory in its form. -/
theorem memoryCanonicalStep : Obligations.MemoryCanonicalStep := by
  unfold Obligations.MemoryCanonicalStep
  intro s t h hstep
  have hwf := wf_step h
  rwa [hstep] at hwf

end Sys2Proof.Machine

/-! PROOF. The registers of the control-core range, and invalidations (spec/06_address_spaces.md R129, R136; spec/01_package_and_bringup.md
R9, R26). An event of a translation register changes the fields of one die, as `State.die_setDie_eq` reads them back. -/
namespace Sys2Proof.Machine

/-! ### Invalidations -/

section
variable {s : State}

theorem covers_iff (i : BitVec 2 × BitVec 44 × BitVec 16) (e : TlbEntry) :
    covers i e = true ↔ (i.1 = 0 ∧ e.ctx = i.2.2 ∧ e.page = i.2.1.toNat * 2 ^ 12 / 2 ^ e.shift) ∨ (i.1 = 1 ∧ e.ctx = i.2.2)
      ∨ 2 ≤ i.1.toNat := by
  have hop : i.1 = 0 ∨ i.1 = 1 ∨ i.1 = 2 ∨ i.1 = 3 := by
    generalize i.1 = op
    revert op
    decide
  unfold covers coversPage
  obtain h | h | h | h := hop <;> simp [h]

/-- A write without GO starts nothing. -/
theorem State.invalidate_idle (op : BitVec 2) (hgo : s.inp.v.getLsbD 8 = false) : s.invalidate op = .next s := by
  rw [State.invalidate, State.when_neg]
  rw [hgo, Bool.false_and]

theorem State.setInvReg_eq (d : Nat) (v : Dword) : s.setInvReg d v =
    s.setDie d { s.die d with invCtx := BitVec.ofNat 16 (v.toNat / 2 ^ 48), invOp := v.setWidth 2 } := rfl

/-- A write with GO starts the invalidation that the registers name, on the die alone, and a second one waits for the first. -/
theorem State.invalidate_starts {op : BitVec 2} (hgo : s.inp.v.getLsbD 8 = true) (hop : s.inp.v.setWidth 2 = op) :
    ∃ t, s.invalidate op = .next t ∧ t.tlb = s.tlb ∧ t.mem = s.mem
      ∧ (t.die s.inp.die).inval = (if (s.die s.inp.die).inval.isSome then (s.die s.inp.die).inval
          else some (op, (s.die s.inp.die).invVa, BitVec.ofNat 16 (s.inp.v.toNat / 2 ^ 48)))
      ∧ ∀ k, k ≠ s.inp.die → t.die k = s.die k := by
  rw [State.invalidate, State.when_pos (by simp [hgo, hop])]
  refine ⟨_, rfl, ?_⟩
  by_cases hbusy : (s.die s.inp.die).inval.isSome = true <;> simp +contextual [State.setInvReg_eq, hbusy, State.die_setDie_eq]

/-- The completion of an invalidation leaves no covered entry, and ends it once no access under way used one. -/
theorem execInvalidateComplete_spec {n : BitVec 2 × BitVec 44 × BitVec 16} (hn : (s.die s.inp.die).inval = some n) :
    ∃ t, execInvalidateComplete s = .next t ∧ t.mem = s.mem ∧ t.tlb = s.tlb.filter (fun e => !covers n e)
      ∧ (t.die s.inp.die).inval = if s.coherent n then none else some n := by
  unfold execInvalidateComplete
  simp only [hn]
  refine ⟨_, rfl, ?_⟩
  by_cases hc : s.coherent n = true
  · simp [hc]
  · simp [hc, ← hn, State.die]

/-! ### The ordering boundary -/

theorem execOrdsizeWrite_eq : execOrdsizeWrite s = s.when (decide ((s.inp.v.setWidth 9).toNat ≤ s.ordMax)) fun s =>
    s.setDie s.inp.die { s.die s.inp.die with ordPending := some (s.inp.v.setWidth 9) } := rfl

theorem execOrdsizeWrite_within (h : (s.inp.v.setWidth 9).toNat ≤ s.ordMax) :
    execOrdsizeWrite s = .next (s.setDie s.inp.die { s.die s.inp.die with ordPending := some (s.inp.v.setWidth 9) }) := by
  rw [execOrdsizeWrite_eq, State.when_pos (decide_eq_true h)]

theorem execOrdsizeWrite_beyond (h : s.ordMax < (s.inp.v.setWidth 9).toNat) : execOrdsizeWrite s = .next s := by
  rw [execOrdsizeWrite_eq, State.when_neg (decide_eq_false (Nat.not_le.2 h))]

theorem State.poolAbove_iff {d n : Nat} : s.poolAbove d n = true ↔ ∀ a ∈ (s.die d).areas, sheetOf d + n * 2 ^ 21 ≤ a.base := by
  rw [State.poolAbove, List.all_eq_true]
  exact forall₂_congr fun _ _ => decide_eq_true_iff

theorem execOrdsizeTakeEffect_eq {n : BitVec 9} (hn : (s.die s.inp.die).ordPending = some n) : execOrdsizeTakeEffect s =
    s.when (s.poolAbove s.inp.die n.toNat) fun s => s.setDie s.inp.die { s.die s.inp.die with ordSize := n, ordPending := none } := by
  simp only [execOrdsizeTakeEffect, hn]
  rfl

/-! ### The registers of a die -/

theorem execRegisterWrite_reset (ha : s.inp.addr.toNat = 0x00F000000000) :
    execRegisterWrite s = .next (if s.inp.v.getLsbD 22 then { s with warm := false } else s) :=
  congrArg Host.Outcome.next (if_pos ha)

/-- The registers of die `k` stand `k` pages into the range; their offset in the page says which. -/
theorem dieRegister_place {a k off : Nat} (hk : k < 4) (hoff : off < 0x1000) (ha : a = 0x00F000020000 + 0x1000 * k + off) :
    a ≠ 0x00F000000000 ∧ (decide (0x00F000020000 ≤ a) && decide ((a - 0x00F000020000) / 0x1000 < Config.dies)) = true
      ∧ (a - 0x00F000020000) / 0x1000 = k ∧ (a - 0x00F000020000) % 0x1000 = off := by
  have hdie : (a - 0x00F000020000) / 0x1000 = k := by omega
  refine ⟨by omega, ?_, hdie, by omega⟩
  rw [hdie, Bool.and_eq_true, decide_eq_true_eq, decide_eq_true_eq]
  exact ⟨by omega, hk⟩

theorem execRegisterWrite_invVa {k : Nat} (hk : k < 4) (ha : s.inp.addr.toNat = 0x00F000020000 + 0x1000 * k) :
    execRegisterWrite s = .next (s.setDie k { s.die k with invVa := BitVec.ofNat 44 (s.inp.v.toNat / 2 ^ 12) }) := by
  obtain ⟨hmisc, hrange, hdie, hoff⟩ := dieRegister_place (off := 0) hk (by decide) ha
  refine congrArg Host.Outcome.next ((if_neg hmisc).trans ((if_pos hrange).trans ?_))
  rw [hdie, hoff]
  rfl

theorem execRegisterWrite_acThresh {k : Nat} (hk : k < 4) (ha : s.inp.addr.toNat = 0x00F000020010 + 0x1000 * k) :
    execRegisterWrite s = .next (s.setDie k { s.die k with acThresh := s.inp.v.setWidth 32 }) := by
  obtain ⟨hmisc, hrange, hdie, hoff⟩ := dieRegister_place (a := s.inp.addr.toNat) (off := 0x10) hk (by decide) (by omega)
  refine congrArg Host.Outcome.next ((if_neg hmisc).trans ((if_pos hrange).trans ?_))
  rw [hdie, hoff]
  rfl

end

/-- Settles O50, a register at a time. -/
theorem translationRegisters : Obligations.TranslationRegisters := by
  unfold Obligations.TranslationRegisters
  intro s
  refine ⟨⟨State.invalidate_starts, State.invalidate_idle 0⟩, ⟨State.invalidate_starts, State.invalidate_idle 1⟩,
    ⟨State.invalidate_starts, State.invalidate_idle 2⟩, fun n hn => ?_, fun h => ?_, execOrdsizeWrite_beyond,
    fun n hn => ⟨fun h => ?_, ?_⟩, execRegisterWrite_reset, fun k hk ha => ?_, fun k hk ha => ?_⟩
  · obtain ⟨t, ht, hmem, htlb, hinval⟩ := execInvalidateComplete_spec hn
    refine ⟨t, ht, hmem, hinval, fun e => ?_⟩
    rw [htlb, List.mem_filter, Bool.not_eq_true', ← Bool.not_eq_true, covers_iff]
    simp only [not_or, Nat.not_le]
  · exact ⟨_, execOrdsizeWrite_within h, State.die_setDie .., fun k hk => State.die_setDie_ne _ _ _ _ hk⟩
  · exact ⟨_, (execOrdsizeTakeEffect_eq hn).trans (State.when_pos (State.poolAbove_iff.2 h)), State.die_setDie ..⟩
  · rintro ⟨a, ha, hlow⟩
    refine (execOrdsizeTakeEffect_eq hn).trans (State.when_neg (Bool.eq_false_iff.2 fun hall => ?_))
    exact absurd (State.poolAbove_iff.1 hall a ha) (by omega)
  · exact ⟨_, execRegisterWrite_invVa hk ha, State.die_setDie ..⟩
  · exact ⟨_, execRegisterWrite_acThresh hk ha, State.die_setDie ..⟩

end Sys2Proof.Machine

/-! PROOF. Where stores go (spec/07_memory_model.md R159, spec/06_address_spaces.md R122, R125, spec/10_determinism_and_reliability.md R240,
R241): what a write of a place changes, and that a release of held stores writes each byte of the buffer and no other. -/
namespace Sys2Proof.Machine

/-! ### Writes of memory and of scratchpads -/

section writes
variable (s : State) {core pa a : Nat} {bs : List Byte}

theorem State.rd_memWrite_lost (h : s.isRemoved pa = true ∨ s.backed pa = false) : (s.memWrite pa bs).rd a = s.rd a := by
  rw [State.memWrite, if_pos (by simpa using h)]

theorem State.rd_memWrite_kept (hr : s.isRemoved pa = false) (hb : s.backed pa = true) :
    (s.memWrite pa bs).rd a = (s.wrBytes pa bs).rd a := by
  rw [State.memWrite, if_neg (by simp [hr, hb]), State.rd, State.mem_loseReserved, State.rd]

theorem State.rd_memWrite_out (h : a < pa ∨ pa + bs.length ≤ a) : (s.memWrite pa bs).rd a = s.rd a := by
  by_cases hlost : s.isRemoved pa = true ∨ s.backed pa = false
  · exact s.rd_memWrite_lost hlost
  · simp only [not_or, Bool.not_eq_true, Bool.not_eq_false] at hlost
    rw [s.rd_memWrite_kept hlost.1 hlost.2, s.rd_wrBytes_out _ _ _ h]

/-- The bytes of a scratchpad, written from an address on one after another. -/
def padPut (t : Tab Byte) (pa : Nat) (bs : List Byte) : Tab Byte :=
  (bs.foldl (fun (p : Tab Byte × Nat) b => (tabSet 0 p.1 p.2 b, p.2 + 1)) (t, pa)).1

theorem padPut_cons (t : Tab Byte) (pa : Nat) (b : Byte) : padPut t pa (b :: bs) = padPut (tabSet 0 t pa b) (pa + 1) bs := rfl

theorem tabGet_padPut_out (t : Tab Byte) (h : a < pa ∨ pa + bs.length ≤ a) : tabGet 0 (padPut t pa bs) a = tabGet 0 t a := by
  induction bs generalizing t pa with
  | nil => rfl
  | cons b bs ih =>
    rw [List.length_cons] at h
    rw [padPut_cons, ih _ (by omega), tabGet_tabSet_ne _ _ _ _ (by omega)]

theorem tabGet_padPut (t : Tab Byte) {i : Nat} (h : i < bs.length) : tabGet 0 (padPut t pa bs) (pa + i) = bs[i] := by
  induction bs generalizing t pa i with
  | nil => exact absurd h (Nat.not_lt_zero i)
  | cons b bs ih =>
    rw [padPut_cons]
    cases i with
    | zero => exact (tabGet_padPut_out _ (.inl (Nat.lt_add_one pa))).trans (tabGet_tabSet_same ..)
    | succ i => rw [← Nat.add_assoc, Nat.add_right_comm, ih _ (Nat.lt_of_succ_lt_succ h), List.getElem_cons_succ]

theorem State.padByte_padWrite_same : (s.padWrite core pa bs).padByte core a = tabGet 0 (padPut (s.core core).pad pa bs) a := by
  rw [State.padByte, State.padWrite, State.core_setCore, padPut]

theorem State.padByte_padWrite (i : Nat) (h : i < bs.length) : (s.padWrite core pa bs).padByte core (pa + i) = bs[i] := by
  rw [State.padByte_padWrite_same, tabGet_padPut _ h]

theorem State.padByte_padWrite_out {c : Nat} (h : c ≠ core ∨ a < pa ∨ pa + bs.length ≤ a) :
    (s.padWrite core pa bs).padByte c a = s.padByte c a := by
  obtain rfl | hc := eq_or_ne c core
  · rw [State.padByte_padWrite_same, tabGet_padPut_out _ (h.resolve_left (absurd rfl)), State.padByte]
  · rw [State.padByte, State.padWrite, State.core, State.setCore, tabGet_tabSet_ne _ _ _ _ hc, State.padByte, State.core]

end writes

/-! ### A write of a place: to a scratchpad, to the team's buffer, or to memory -/

section places
variable {s w : State} {tk : Nat} {held : Bool} {p : Place} {bs : List Byte}

theorem State.writePlace_pad (hk : p.kind = 3) (h : s.writePlace tk held p bs = some w) : w = s.padWrite p.core p.pa bs := by
  rw [State.writePlace, if_pos hk] at h
  exact (Option.some.inj h).symm

theorem State.writePlace_held (hk : p.kind ≠ 3) (hh : held = true) (h : s.writePlace tk held p bs = some w) : ∃ t, w = s.setTeam tk t := by
  rw [State.writePlace, if_neg hk, if_pos hh] at h
  obtain ⟨t, _, ht⟩ := Option.map_eq_some_iff.1 h
  exact ⟨t, ht.symm⟩

theorem State.writePlace_memory (hk : p.kind ≠ 3) (hh : held = false) (h : s.writePlace tk held p bs = some w) :
    w = s.memWrite p.pa bs := by
  rw [State.writePlace, if_neg hk, if_neg (hh ▸ Bool.false_ne_true)] at h
  exact (Option.some.inj h).symm

end places

/-! ### The release of held stores (R159, R241) -/

/-- The byte that a chunk of a store buffer holds at an address. -/
def Chunk.heldAt (c : Chunk) (a : Nat) : Option Byte :=
  if c.pa = a / 16 ∧ c.mask.getLsbD (a % 16) = true then some (c.bytes.getD (a % 16) 0) else none

/-- Byte `i` of a chunk, written to memory if the chunk holds it; and all the bytes that a chunk holds. -/
def State.flushByte (s : State) (c : Chunk) (i : Nat) : State :=
  if c.mask.getLsbD i then s.wr (c.pa * 16 + i) (c.bytes.getD i 0) else s

def State.flushChunk (s : State) (c : Chunk) : State := (List.range 16).foldl (fun s i => s.flushByte c i) s

section release
variable (s : State) (c : Chunk) {a : Nat} {cs : List Chunk}

theorem State.rd_flushByte_ne {i : Nat} (h : c.pa * 16 + i ≠ a) : (s.flushByte c i).rd a = s.rd a := by
  unfold State.flushByte
  split
  · exact s.rd_wr_ne _ _ _ h.symm
  · rfl

theorem State.rd_flushByte (h : c.pa = a / 16) : (s.flushByte c (a % 16)).rd a = (c.heldAt a).getD (s.rd a) := by
  have hplace : c.pa * 16 + a % 16 = a := by omega
  by_cases hm : c.mask.getLsbD (a % 16) = true
  · rw [State.flushByte, if_pos hm, Chunk.heldAt, if_pos ⟨h, hm⟩, hplace, State.rd_wr, Option.getD_some]
  · rw [State.flushByte, if_neg hm, Chunk.heldAt, if_neg fun hc => hm hc.2, Option.getD_none]

/-- Of a chunk's sixteen turns one is the address's own, if the chunk is that of the address; the others leave the address alone. -/
theorem State.rd_flushChunk : (s.flushChunk c).rd a = (c.heldAt a).getD (s.rd a) := by
  by_cases hpa : c.pa = a / 16
  · refine foldl_range_turn (I := fun t : State => t.rd a = s.rd a) (P := fun t : State => t.rd a = (c.heldAt a).getD (s.rd a))
      (Nat.mod_lt a (by decide : 0 < 16)) (fun t i hi ht => ?_) (fun t ht => ?_) (fun t i hi ht => ?_) rfl
    · exact (t.rd_flushByte_ne c (by omega)).trans ht
    · rw [t.rd_flushByte c hpa, ht]
    · exact (t.rd_flushByte_ne c (by omega)).trans ht
  · rw [Chunk.heldAt, if_neg fun h => hpa h.1, Option.getD_none]
    refine List.foldlRecOn _ _ (motive := fun t : State => t.rd a = s.rd a) rfl fun t ht i hi => ?_
    have := List.mem_range.1 hi
    exact (t.rd_flushByte_ne c (by omega)).trans ht

/-- Chunks of distinct places: each byte reaches memory from the one chunk that may hold it. -/
theorem State.rd_flushChunks (hn : (cs.map (·.pa)).Nodup) :
    (cs.foldl State.flushChunk s).rd a = ((cs.find? fun c => c.pa = a / 16).bind (·.heldAt a)).getD (s.rd a) := by
  induction cs generalizing s with
  | nil => rfl
  | cons c cs ih =>
    obtain ⟨hc, hn⟩ := List.nodup_cons.1 hn
    rw [List.foldl_cons, ih _ hn, State.rd_flushChunk]
    by_cases hpa : c.pa = a / 16
    · have hrest : (cs.find? fun c => c.pa = a / 16) = none :=
        List.find?_eq_none.2 fun e he hea => hc (List.mem_map.2 ⟨e, he, (of_decide_eq_true hea).trans hpa.symm⟩)
      simp [hpa, hrest]
    · simp [hpa, Chunk.heldAt]

theorem Team.heldByte_eq (t : Team) (a : Nat) : t.heldByte a = (t.buffer.find? fun c => c.pa = a / 16).bind (·.heldAt a) := by
  rw [Team.heldByte]
  cases hfind : t.buffer.find? fun c => c.pa = a / 16 with
  | none => rfl
  | some c =>
    have hpa : c.pa = a / 16 := by simpa using List.find?_some hfind
    simp [Chunk.heldAt, hpa]

theorem State.mem_flushHeld (tk : Nat) : (s.flushHeld tk).mem = ((s.team tk).buffer.foldl State.flushChunk s).mem := by
  rw [State.flushHeld, State.clearCovered_mem, State.setTeam_mem]
  rfl

theorem State.rd_flushHeld {tk : Nat} (hn : ((s.team tk).buffer.map (·.pa)).Nodup) :
    (s.flushHeld tk).rd a = ((s.team tk).heldByte a).getD (s.rd a) := by
  rw [Team.heldByte_eq, ← State.rd_flushChunks s hn, State.rd, State.mem_flushHeld, State.rd]

end release

/-- Settles O16: a write of a place is one of memory, of a scratchpad or of the team's buffer; a release writes chunk after chunk. -/
theorem whereStoresGo : Obligations.WhereStoresGo := by
  unfold Obligations.WhereStoresGo
  refine ⟨fun s w tk held p bs h => ⟨fun hk hh hr => ?_, fun hk => ?_, fun hk hh a => ?_⟩, fun s tk hn a => s.rd_flushHeld hn⟩
  · obtain rfl := State.writePlace_memory hk hh h
    exact ⟨fun hb i hi => (s.rd_memWrite_kept hr hb).trans (s.rd_wrBytes bs p.pa i hi), fun hb a => s.rd_memWrite_lost (.inr hb),
      fun a => s.rd_memWrite_out⟩
  · obtain rfl := State.writePlace_pad hk h
    exact ⟨fun _ => rfl, s.padByte_padWrite, fun c a => s.padByte_padWrite_out⟩
  · obtain ⟨t, rfl⟩ := State.writePlace_held hk hh h
    rfl

end Sys2Proof.Machine

/-! PROOF. Executions that satisfy the ordering axioms (spec/07_memory_model.md R145 to R154, R159): happens-before is transitive and
holds the edges of R150, R151 and R153, and coherence lets it disagree with no order of a location. -/
namespace Sys2Proof.Machine.Ordering

/-! ### Relations -/

/-- Chains of two through event `k` are in the relation. -/
def Rel.transAt (r : Rel) (k : Nat) : Prop := ∀ a b, r.has a k = true → r.has k b = true → r.has a b = true

/-- The closure's turn at event `k`: what leads to `k` leads on to what `k` leads to. -/
def Rel.through (r : Rel) (k : Nat) : Rel := r.map fun m => if m.testBit k then m ||| r.getD k 0 else m

section relations
variable {r s : Rel} {n a b c k : Nat}

theorem Rel.lt_length (h : r.has a b = true) : a < r.length := by
  by_contra ha
  rw [Rel.has, List.getD_eq_default _ _ (Nat.le_of_not_lt ha), Nat.zero_testBit] at h
  exact absurd h Bool.false_ne_true

theorem Rel.has_through : (r.through k).has a b = true ↔ r.has a b = true ∨ (r.has a k = true ∧ r.has k b = true) := by
  have hrow : (r.through k).getD a 0 = if (r.getD a 0).testBit k then r.getD a 0 ||| r.getD k 0 else r.getD a 0 := by
    have hzero : (if Nat.testBit 0 k then 0 ||| r.getD k 0 else 0) = 0 := by rw [Nat.zero_testBit, if_neg Bool.false_ne_true]
    rw [← List.getD_map (f := fun m : Nat => if m.testBit k then m ||| r.getD k 0 else m), hzero]
    rfl
  rw [Rel.has, hrow, Rel.has, Rel.has, Rel.has]
  split
  next hk => rw [Nat.testBit_or, Bool.or_eq_true, eq_true hk, true_and]
  next hk => rw [eq_false hk, false_and, or_false]

theorem Rel.transAt_through : (r.through k).transAt k := by
  intro a b hak hkb
  simp only [Rel.has_through] at *
  tauto

theorem Rel.transAt_through_of (h : r.transAt n) : (r.through k).transAt n := by
  intro a b han hnb
  simp only [Rel.has_through] at *
  rcases han with han | ⟨hak, hkn⟩ <;> rcases hnb with hnb | ⟨hnk, hkb⟩
  · exact .inl (h a b han hnb)
  · exact .inr ⟨h a k han hnk, hkb⟩
  · exact .inr ⟨hak, h k b hkn hnb⟩
  · exact .inr ⟨hak, hkb⟩

/-- After the turns of the events below `n`, every chain of two through one of them is in the relation, with all that was there. -/
theorem Rel.turns_spec (r : Rel) (n : Nat) :
    ((List.range n).foldl Rel.through r).length = r.length
      ∧ (∀ a b, r.has a b = true → ((List.range n).foldl Rel.through r).has a b = true)
      ∧ ∀ k, k < n → ((List.range n).foldl Rel.through r).transAt k := by
  induction n with
  | zero => exact ⟨rfl, fun _ _ h => h, fun k hk => absurd hk (Nat.not_lt_zero k)⟩
  | succ n ih =>
    obtain ⟨hlen, hmono, htrans⟩ := ih
    rw [List.range_succ, List.foldl_append, List.foldl_cons, List.foldl_nil]
    refine ⟨(List.length_map _).trans hlen, fun a b h => Rel.has_through.2 (.inl (hmono a b h)), fun k hk => ?_⟩
    obtain rfl | hlt := Nat.eq_or_lt_of_le (Nat.le_of_lt_succ hk)
    · exact Rel.transAt_through
    · exact Rel.transAt_through_of (htrans k hlt)

@[simp] theorem Rel.closure_length : r.closure.length = r.length := (Rel.turns_spec r r.length).1

theorem Rel.has_closure (h : r.has a b = true) : r.closure.has a b = true := (Rel.turns_spec r r.length).2.1 a b h

theorem Rel.closure_transAt (k : Nat) : r.closure.transAt k := fun a b hak hkb =>
  (Rel.turns_spec r r.length).2.2 k (Rel.closure_length ▸ Rel.lt_length hkb) a b hak hkb

@[simp] theorem Rel.of_length (f : Nat → Nat → Bool) : (Rel.of n f).length = n := by simp [Rel.of]

/-- The bits that a row of `Rel.of` collects. -/
theorem testBit_foldl_set (p : Nat → Bool) (n b : Nat) :
    ((List.range n).foldl (fun m c => if p c then m ||| 1 <<< c else m) 0).testBit b = (decide (b < n) && p b) := by
  induction n with
  | zero => simp
  | succ n ih =>
    rw [List.range_succ, List.foldl_append, List.foldl_cons, List.foldl_nil]
    have hturn : ∀ m : Nat, (if p n then m ||| 1 <<< n else m).testBit b = (m.testBit b || (decide (n = b) && p n)) := fun m => by
      split <;> simp [Nat.one_shiftLeft, Nat.testBit_two_pow, *]
    rw [hturn, ih]
    obtain rfl | hne := eq_or_ne n b
    · simp
    · simp [hne, Nat.le_iff_lt_or_eq, hne.symm]

theorem Rel.has_of {f : Nat → Nat → Bool} (ha : a < n) (hb : b < n) : (Rel.of n f).has a b = f a b := by
  simp [Rel.has, Rel.of, ha, hb, testBit_foldl_set]

theorem Rel.has_join (hlen : r.length = s.length) (h : r.has a b = true) : (r.join s).has a b = true := by
  have ha := Rel.lt_length h
  have hrow : (r.join s).getD a 0 = r.getD a 0 ||| s.getD a 0 := by simp [Rel.join, ha, hlen ▸ ha]
  rw [Rel.has, hrow, Nat.testBit_or, Bool.or_eq_true]
  exact .inl h

/-- An acyclic relation has no pair both ways. -/
theorem Rel.not_both_of_acyclic (h : r.acyclic = true) (hab : r.has a b = true) : r.has b a = false := by
  by_contra hba
  have hloop := Rel.closure_transAt b a a (Rel.has_closure hab) (Rel.has_closure (Bool.eq_true_of_not_eq_false hba))
  have := List.all_eq_true.1 h a (List.mem_range.2 (Rel.lt_length hloop))
  simp [hloop] at this

end relations

/-! ### Events, and the edges of happens-before (R150, R151, R153) -/

section execution
variable {x : Exec} {l m a b c w f r d v k : Nat} {ks : List Nat}

theorem Exec.ev_beyond (h : ¬ a < x.size) : x.ev a = Ev.nothing := List.getD_eq_default _ _ (Nat.le_of_not_lt h)

theorem Exec.lt_size_of_touches (h : (x.ev a).touches l = true) : a < x.size := by
  by_contra ha
  rw [Exec.ev_beyond ha] at h
  exact absurd h Bool.false_ne_true

theorem Exec.lt_size_of_act (h : (x.ev a).act ≠ .complete 0) : a < x.size := by
  by_contra ha
  exact h (by rw [Exec.ev_beyond ha]; rfl)

theorem Exec.lt_size_of_isWrite (h : (x.ev a).isWrite = true) : a < x.size :=
  Exec.lt_size_of_act fun ha => by rw [Ev.isWrite, ha] at h; exact absurd h (by decide)

theorem Ev.exists_cell_of_touches {e : Ev} (h : e.touches l = true) : ∃ c ∈ e.cells, c.1 = l := by
  obtain ⟨c, hc, hl⟩ := List.any_eq_true.1 h
  exact ⟨c, hc, eq_of_beq hl⟩

theorem Exec.mem_locs (h : (x.ev a).touches l = true) : l ∈ x.locs := by
  obtain ⟨c, hc, rfl⟩ := Ev.exists_cell_of_touches h
  refine List.mem_dedup.2 (List.mem_flatMap.2 ⟨x.ev a, ?_, List.mem_map.2 ⟨c, hc, rfl⟩⟩)
  have ha : a < x.evs.length := Exec.lt_size_of_touches h
  rw [Exec.ev, List.getD_eq_getElem _ _ ha]
  exact List.getElem_mem ha

/-- Happens-before covers every event, holds the edges of its base, and is transitive; each round of R152's edges keeps that. -/
theorem Exec.hb_spec (x : Exec) :
    x.hb.length = x.size ∧ (∀ a b, x.hbBase.has a b = true → x.hb.has a b = true) ∧ ∀ k, x.hb.transAt k := by
  refine List.foldlRecOn x.ops _
    (motive := fun h : Rel => h.length = x.size ∧ (∀ a b, x.hbBase.has a b = true → h.has a b = true) ∧ ∀ k, h.transAt k)
    ⟨Rel.closure_length.trans (Rel.of_length _), fun _ _ h => h, Rel.closure_transAt⟩ fun h ⟨hlen, hbase, _⟩ op _ => ?_
  have hof : (Rel.of x.size (x.presence h)).length = h.length := (Rel.of_length _).trans hlen.symm
  refine ⟨?_, fun a b hab => Rel.has_closure (Rel.has_join hof.symm (hbase a b hab)), Rel.closure_transAt⟩
  rw [Rel.closure_length, Rel.join, List.length_zipWith, hof, min_self, hlen]

theorem Exec.hb_trans (hab : x.hb.has a b = true) (hbc : x.hb.has b c = true) : x.hb.has a c = true :=
  x.hb_spec.2.2 b a c hab hbc

/-- R151, R153, R150: program order at releases and acquires, the engine's edges, and reads of a release sequence in mutual scope are in
happens-before. -/
theorem Exec.hb_of_edge (ha : a < x.size) (hb : b < x.size)
    (h : x.poHb a b = true ∨ x.engine a b = true ∨ ((a, b) ∈ x.swReads ∧ x.mutualScope a b = true)) : x.hb.has a b = true := by
  refine x.hb_spec.2.1 a b (Rel.has_closure ((Rel.has_of ha hb).trans ?_))
  obtain h | h | ⟨hsw, hscope⟩ := h
  · simp [h]
  · simp [h]
  · simp [hsw, hscope]

theorem Exec.hb_release (hw : (x.ev w).unordered = false) (hpo : x.po w f = true) (hf : (x.ev f).releases = true)
    (hws : w < x.size) (hfs : f < x.size) : x.hb.has w f = true :=
  Exec.hb_of_edge hws hfs (.inl (by simp [Exec.poHb, hw, hpo, hf]))

theorem Exec.hb_acquire (hr : (x.ev r).acquires = true) (hpo : x.po r d = true) (hd : (x.ev d).unordered = false)
    (hrs : r < x.size) (hds : d < x.size) : x.hb.has r d = true :=
  Exec.hb_of_edge hrs hds (.inl (by simp [Exec.poHb, hr, hpo, hd]))

theorem Exec.hb_waitc (hv : (x.ev v).act = .waitc ks) (hpo : x.po v d = true) (hds : d < x.size) : x.hb.has v d = true :=
  Exec.hb_of_edge (Exec.lt_size_of_act (by simp [hv])) hds (.inl (by simp [Exec.poHb, Ev.isWaitc, Ev.acquires, hv, hpo]))

theorem Exec.hb_engine (hw : (x.ev w).op = some k) (hv : (x.ev v).act = .waitc ks) (hk : k ∈ ks) (hws : w < x.size) :
    x.hb.has w v = true :=
  Exec.hb_of_edge hws (Exec.lt_size_of_act (by simp [hv])) (.inr (.inl (by simp [Exec.engine, hw, hv, hk])))

/-! ### Consequences of the axioms (R154) -/

theorem Exec.consistent_wellFormed (hx : x.consistent = true) : x.wellFormed = true := by
  simp only [Exec.consistent, Bool.and_eq_true, and_assoc] at hx
  exact hx.1

theorem Exec.consistent_coherentAt (hx : x.consistent = true) (hl : l ∈ x.locs) : x.coherentAt x.hb l = true := by
  simp only [Exec.consistent, Bool.and_eq_true, and_assoc] at hx
  obtain ⟨_, _, hcoherent, _⟩ := hx
  exact List.all_eq_true.1 hcoherent l hl

theorem Exec.rfAt_iff : x.rfAt m f r = true ↔ (x.ev r).isRead = true ∧ (x.ev r).touches m = true ∧ x.source r m = some f := by
  simp [Exec.rfAt, and_assoc]

/-- R147: the order of a location lists the write that a read takes its value from. -/
theorem Exec.wellFormed_source (hx : x.wellFormed = true) (h : x.rfAt m f r = true) : f ∈ x.coAt m := by
  obtain ⟨hread, htouch, hsource⟩ := Exec.rfAt_iff.1 h
  obtain ⟨c, hc, rfl⟩ := Ev.exists_cell_of_touches htouch
  have hr := List.all_eq_true.1 (Bool.and_eq_true_iff.1 hx).2 r (List.mem_range.2 (Exec.lt_size_of_touches htouch))
  rw [hread, Bool.not_true, Bool.false_or] at hr
  have hcell := List.all_eq_true.1 hr c hc
  simp only [hsource, Bool.and_eq_true] at hcell
  exact List.contains_iff_mem.1 hcell.1.1

/-- R150, the first row: a release write and an acquire read that takes its value. -/
theorem Exec.mem_swReads (hx : x.wellFormed = true) (hf : (x.ev f).releases = true) (hfs : f < x.size) (hrf : x.rfAt m f r = true)
    (hr : (x.ev r).acquires = true) : (f, r) ∈ x.swReads := by
  obtain ⟨hread, htouch, hsource⟩ := Exec.rfAt_iff.1 hrf
  obtain ⟨c, hc, rfl⟩ := Ev.exists_cell_of_touches htouch
  have hrs := Exec.lt_size_of_touches htouch
  have hrelease : f ∈ x.releaseSides f := List.mem_filter.2 ⟨List.mem_range.2 hfs, by simp [hf]⟩
  have hacquire : r ∈ x.acquireSides r := List.mem_filter.2 ⟨List.mem_range.2 hrs, by simp [hr]⟩
  refine List.mem_flatMap.2 ⟨r, List.mem_range.2 hrs, List.mem_flatMap.2 ⟨c, hc, ?_⟩⟩
  rw [hread, hsource]
  refine List.mem_flatMap.2 ⟨f, List.mem_filter.2 ⟨Exec.wellFormed_source hx hrf, by simp [Exec.follows]⟩, ?_⟩
  exact List.mem_flatMap.2 ⟨f, List.mem_append_left _ hrelease, List.mem_map.2 ⟨r, hacquire, rfl⟩⟩

/-- Coherence: an event that stands before another access of its location is neither overtaken there nor read from the future. -/
theorem Exec.coherent_of_stands (hx : x.consistent = true) (ha : (x.ev a).touches l = true) (hb : (x.ev b).touches l = true)
    (hab : x.stands x.hb a b = true) : x.frAt l b a = false ∧ x.coLt l b a = false ∧ x.rfAt l b a = false := by
  have has := Exec.lt_size_of_touches ha
  have hbs := Exec.lt_size_of_touches hb
  have hback := Rel.not_both_of_acyclic (Exec.consistent_coherentAt hx (Exec.mem_locs ha))
    ((Rel.has_of has hbs).trans (by simp [ha, hb, hab]))
  rw [Rel.has_of hbs has, ha, hb] at hback
  simp only [Bool.true_and, Bool.or_eq_false_iff] at hback
  simp [hback]

/-- R159: an event, or for the events outside a held store's release, stands before what it happens before. -/
theorem Exec.stands_of_hb (hc : c ∈ if x.outside a b then x.freed a else [a]) (hcb : x.hb.has c b = true) : x.stands x.hb a b = true := by
  refine List.any_eq_true.2 ⟨c, hc, List.any_eq_true.2 ⟨b, ?_, hcb⟩⟩
  split <;> exact List.mem_cons_self

theorem Exec.coherent_of_hb (hx : x.consistent = true) (ha : (x.ev a).touches l = true) (hb : (x.ev b).touches l = true)
    (hout : x.outside a b = false) (hab : x.hb.has a b = true) : x.frAt l b a = false ∧ x.coLt l b a = false ∧ x.rfAt l b a = false :=
  Exec.coherent_of_stands hx ha hb (Exec.stands_of_hb (by simp [hout]) hab)

/-- R150, R153: a write before a release write whose value an acquire read in mutual scope takes happens before what follows the read. -/
theorem Exec.hb_message (hx : x.wellFormed = true) (hw : (x.ev w).unordered = false) (hws : w < x.size) (hwf : x.po w f = true)
    (hf : (x.ev f).releases = true) (hfs : f < x.size) (hfr : x.rfAt m f r = true) (hr : (x.ev r).acquires = true)
    (hscope : x.mutualScope f r = true) (hrd : x.po r d = true) (hd : (x.ev d).unordered = false) (hds : d < x.size) :
    x.hb.has w d = true := by
  have hrs := Exec.lt_size_of_touches (Exec.rfAt_iff.1 hfr).2.1
  have hsync : x.hb.has f r = true := Exec.hb_of_edge hfs hrs (.inr (.inr ⟨Exec.mem_swReads hx hf hfs hfr hr, hscope⟩))
  exact Exec.hb_trans (Exec.hb_release hw hwf hf hws hfs) (Exec.hb_trans hsync (Exec.hb_acquire hr hrd hd hrs hds))

/-- No team holds what an engine writes (R159). -/
theorem Exec.outside_engine (hw : (x.ev w).op = some k) : x.outside w d = false := by
  simp [Exec.outside, Exec.heldStore, hw]

end execution

/-- Settles O54: each clause's events are in happens-before, directly or by a chain of its edges, and coherence does the rest. -/
theorem orderingAxioms : Obligations.OrderingAxioms := by
  unfold Obligations.OrderingAxioms
  refine fun x hx => ⟨fun l a b ha hb hout hab => Exec.coherent_of_hb hx ha hb hout hab, fun l a b c ha hb hout hc hcb => ?_,
    fun l m w f r d _ hw hwo hwf hfw hf hfr hr hscope hrd hd hdo hout => ?_, fun l k ks w v d _ hw hop hv hk hvd hd => ?_⟩
  · exact Exec.coherent_of_stands hx ha hb (Exec.stands_of_hb (by rwa [if_pos hout]) hcb)
  · have hwd := Exec.hb_message (Exec.consistent_wellFormed hx) hwo (Exec.lt_size_of_touches hw) hwf hf
      (Exec.lt_size_of_isWrite hfw) hfr hr hscope hrd hdo (Exec.lt_size_of_touches hd)
    exact (Exec.coherent_of_hb hx hw hd hout hwd).1
  · have hwd := Exec.hb_trans (Exec.hb_engine hop hv hk (Exec.lt_size_of_touches hw)) (Exec.hb_waitc hv hvd (Exec.lt_size_of_touches hd))
    exact (Exec.coherent_of_hb hx hw hd (Exec.outside_engine hop) hwd).1

end Sys2Proof.Machine.Ordering

/-! PROOF. Rounding and NaN operands (spec/08_number_formats.md R163 to R167, spec/14_isa_float_and_blocks.md R301, R304): what a rounding to
a multiple of a power of two gives in each mode, a number of a format rounded to that format, and operations on NaNs. -/
namespace Sys2Proof.Machine

/-! ### Rounding to a multiple of a power of two (R165, R167) -/

section roundAt
variable (mode : Rnd) (neg : Bool) (m : Nat) (e : Int)

/-- A multiple of the power of two is kept. -/
theorem roundAt_self : roundAt mode neg m e e = (m, false) := by
  simp [roundAt]

/-- A multiple of a larger power of two: the quotient or the next number, and inexact with a remainder. -/
theorem roundAt_add {sh : Nat} (h : 0 < sh) :
    roundAt mode neg m e (e + sh) =
      (if roundsUp mode neg (m / 2 ^ sh) (m % 2 ^ sh) sh then m / 2 ^ sh + 1 else m / 2 ^ sh, m % 2 ^ sh != 0) := by
  rw [roundAt, if_neg (by omega), show (e + sh - e).toNat = sh by omega]

variable {mode neg}

theorem roundsUp_zero (n sh : Nat) : roundsUp mode neg n 0 sh = false := rfl

variable {n r sh : Nat}

theorem roundsUp_rne (hc : mode.code = 0) (hr : r ≠ 0) :
    roundsUp mode neg n r sh = (decide (2 ^ sh < 2 * r) || (2 * r == 2 ^ sh && n % 2 == 1)) := by
  simp [roundsUp, hc, hr]

theorem roundsUp_rtz (hc : mode.code = 1) : roundsUp mode neg n r sh = false := by
  simp [roundsUp, hc]

theorem roundsUp_rup (hc : mode.code = 2) (hr : r ≠ 0) : roundsUp mode neg n r sh = !neg := by
  simp [roundsUp, hc, hr]

theorem roundsUp_rdn (hc : mode.code = 3) (hr : r ≠ 0) : roundsUp mode neg n r sh = neg := by
  simp [roundsUp, hc, hr]

theorem roundsUp_rmm (hc : mode.code = 4) (hr : r ≠ 0) : roundsUp mode neg n r sh = decide (2 ^ sh ≤ 2 * r) := by
  simp [roundsUp, hc, hr]

end roundAt

/-- R165: what each mode makes of a magnitude between two multiples. -/
theorem roundAt_spec (mode : Rnd) (neg : Bool) (m : Nat) (e : Int) {sh : Nat} (h : 0 < sh) :
    let r := roundAt mode neg m e (e + sh)
    let lo := m / 2 ^ sh
    let rest := m % 2 ^ sh
    (r.1 = lo ∨ (r.1 = lo + 1 ∧ rest ≠ 0)) ∧ r.2 = decide (rest ≠ 0)
      ∧ (mode.code = 0 → 2 * rest < 2 ^ sh → r.1 = lo) ∧ (mode.code = 0 → 2 ^ sh < 2 * rest → r.1 = lo + 1)
      ∧ (mode.code = 0 → 2 * rest = 2 ^ sh → r.1 % 2 = 0)
      ∧ (mode.code = 1 → r.1 = lo)
      ∧ (mode.code = 2 → rest ≠ 0 → r.1 = if neg then lo else lo + 1)
      ∧ (mode.code = 3 → rest ≠ 0 → r.1 = if neg then lo + 1 else lo)
      ∧ (mode.code = 4 → r.1 = if 2 ^ sh ≤ 2 * rest then lo + 1 else lo) := by
  have hpow : 0 < 2 ^ sh := by positivity
  simp only [roundAt_add mode neg m e h]
  generalize m / 2 ^ sh = lo
  generalize m % 2 ^ sh = rest
  by_cases hr : rest = 0
  · subst hr
    simp [roundsUp_zero, hpow.ne]
  · refine ⟨?_, by simp [hr], fun hc hlt => ?_, fun hc hlt => ?_, fun hc heq => ?_, fun hc => ?_, fun hc _ => ?_, fun hc _ => ?_,
      fun hc => ?_⟩
    · split
      · exact .inr ⟨rfl, hr⟩
      · exact .inl rfl
    · simp [roundsUp_rne hc hr, show ¬ 2 ^ sh < 2 * rest by omega, show ¬ 2 * rest = 2 ^ sh by omega]
    · simp [roundsUp_rne hc hr, hlt]
    · rcases Nat.mod_two_eq_zero_or_one lo with hlo | hlo <;> simp [roundsUp_rne hc hr, heq, hlo, Nat.add_mod]
    · simp [roundsUp_rtz hc]
    · cases neg <;> simp [roundsUp_rup hc hr]
    · simp [roundsUp_rdn hc hr]
    · simp [roundsUp_rmm hc hr]

/-! ### A number of a format, rounded to that format (R163, R167) -/

section formats
variable (F : Fmt) (mode : Rnd)

theorem bitLen_pos {m : Nat} (h : m ≠ 0) : 0 < bitLen m := by
  simp [bitLen, h]

theorem bitLen_le {m k : Nat} (h : m < 2 ^ k) : bitLen m ≤ k := by
  by_cases hm : m = 0
  · simp [bitLen, hm]
  · simpa [bitLen, hm] using (Nat.log2_lt hm).2 h

theorem lt_bitLen {m k : Nat} (h : 2 ^ k ≤ m) : k < bitLen m := by
  have hm : m ≠ 0 := fun h0 => by simp [h0] at h
  simpa [bitLen, hm, Nat.lt_succ_iff] using (Nat.le_log2 hm).2 h

/-- The encodings below infinity: their exponents lie within the format's range. -/
theorem Fmt.exponent_le (he : 0 < F.eb) {e : Int} {m : Nat} (h : (e - F.qmin).toNat * 2 ^ F.fb + m < F.inf) :
    e + F.fb ≤ F.bias + 1 := by
  have hlt : (e - F.qmin).toNat < 2 ^ F.eb - 1 :=
    lt_of_mul_lt_mul_right (Nat.lt_of_le_of_lt (Nat.le_add_right _ m) h) (Nat.zero_le _)
  have hpow : 2 ^ F.eb = 2 * 2 ^ (F.eb - 1) := by rw [← Nat.pow_succ', Nat.succ_eq_add_one, Nat.sub_add_cancel he]
  simp only [Fmt.qmin, Fmt.bias] at hlt ⊢
  omega

/-- Below the greatest exponent field, any fraction makes a number below infinity. -/
theorem Fmt.lt_inf {ex fr : Nat} (hex : ex < 2 ^ F.eb - 1) (hfr : fr < 2 ^ F.fb) : ex * 2 ^ F.fb + fr < F.inf :=
  calc ex * 2 ^ F.fb + fr < (ex + 1) * 2 ^ F.fb := by rw [Nat.succ_mul]; omega
    _ ≤ F.inf := Nat.mul_le_mul_right _ hex

/-- A magnitude whose exponent the format gives it: the least one, or the one of a normal number. It is not rounded. -/
theorem roundMag_of_mem (he : 0 < F.eb) (neg : Bool) {m : Nat} {e : Int} (hm : m ≠ 0) (hfit : m < 2 ^ (F.fb + 1)) (hq : F.qmin ≤ e)
    (hn : e = F.qmin ∨ 2 ^ F.fb ≤ m) (hb : (e - F.qmin).toNat * 2 ^ F.fb + m < F.inf) :
    roundMag F mode neg m e = (F.sign neg + ((e - F.qmin).toNat * 2 ^ F.fb + m), 0) := by
  have hpos := bitLen_pos hm
  have hlen := bitLen_le hfit
  have htop := F.exponent_le he hb
  have hexp : max (e + bitLen m - 1 - F.fb) F.qmin = e := by
    rcases hn with rfl | hn
    · omega
    · have := lt_bitLen hn
      omega
  rw [roundMag, if_neg (by omega)]
  simp only [show ¬ e + bitLen m - 1 < F.qmin - 64 by omega, Bool.false_eq_true, if_false, hexp, roundAt_self,
    Nat.not_le.2 hb]

/-- The three fields of an encoding (R163). -/
theorem Fmt.fields {x : Nat} (hx : x < 2 ^ F.bits) :
    x = F.sign (x / 2 ^ (F.eb + F.fb) % 2 == 1) + (x / 2 ^ F.fb % 2 ^ F.eb * 2 ^ F.fb + x % 2 ^ F.fb) := by
  have htop : x / 2 ^ (F.eb + F.fb) < 2 := by
    rw [Nat.div_lt_iff_lt_mul (by positivity), ← Nat.pow_succ']
    exact hx.trans_eq (by rw [Fmt.bits]; congr 1; omega)
  have hsign : F.sign (x / 2 ^ (F.eb + F.fb) % 2 == 1) = 2 ^ (F.eb + F.fb) * (x / 2 ^ (F.eb + F.fb)) := by
    rw [Fmt.sign]
    rcases Nat.le_one_iff_eq_zero_or_eq_one.1 (Nat.le_of_lt_succ htop) with h | h <;> simp [h]
  have hlow : x % 2 ^ (F.eb + F.fb) = x / 2 ^ F.fb % 2 ^ F.eb * 2 ^ F.fb + x % 2 ^ F.fb := by
    rw [Nat.add_comm F.eb, Nat.pow_add, Nat.mod_mul]; ring
  rw [hsign, ← hlow, Nat.div_add_mod]

/-- R163, R167: a number of a format rounds to its own encoding, in every mode and without a flag. -/
theorem fround_fdecode (he : 0 < F.eb) {x : Nat} (hx : x < 2 ^ F.bits) (hnan : ∀ s, fdecode F x ≠ .nan s) :
    fround F mode (fdecode F x) = (x, 0) := by
  have hfields := F.fields hx
  have hfr : x % 2 ^ F.fb < 2 ^ F.fb := Nat.mod_lt _ (by positivity)
  have hex : x / 2 ^ F.fb % 2 ^ F.eb < 2 ^ F.eb := Nat.mod_lt _ (by positivity)
  have hpow : 2 ^ (F.fb + 1) = 2 ^ F.fb + 2 ^ F.fb := by rw [Nat.pow_succ]; omega
  unfold fdecode at hnan ⊢
  simp only at hnan ⊢
  generalize (x / 2 ^ (F.eb + F.fb) % 2 == 1) = neg at hfields hnan ⊢
  generalize x / 2 ^ F.fb % 2 ^ F.eb = ex at hfields hnan hex ⊢
  generalize x % 2 ^ F.fb = fr at hfields hnan hfr ⊢
  split
  case isTrue htop =>
    by_cases hz : fr = 0
    · simp [fround, hz, hfields, eq_of_beq htop, Fmt.inf]
    · simp [htop, hz] at hnan
  case isFalse htop =>
    split
    case isTrue hsub =>
      obtain rfl : ex = 0 := eq_of_beq hsub
      by_cases hz : fr = 0
      · simp [fround, hz, hfields]
      · have hlt := F.lt_inf (ex := 0) (Nat.pos_of_ne_zero fun h => htop (by simp [h])) hfr
        rw [fround, if_neg hz, roundMag_of_mem F mode he neg hz (by omega) le_rfl (.inl rfl) (by simpa using hlt), hfields]
        simp
    case isFalse hsub =>
      have hpos : ex ≠ 0 := fun h => hsub (by simp [h])
      have hlt := F.lt_inf (Nat.lt_of_le_of_ne (Nat.le_sub_one_of_lt hex) fun h => htop (by simp [h])) hfr
      have hnum : (F.qmin + (ex - 1 : Nat) - F.qmin).toNat * 2 ^ F.fb + (2 ^ F.fb + fr) = ex * 2 ^ F.fb + fr := by
        rw [show (F.qmin + (ex - 1 : Nat) - F.qmin).toNat = ex - 1 by omega, ← Nat.add_assoc, ← Nat.succ_mul,
          Nat.succ_eq_add_one, Nat.sub_add_cancel (Nat.pos_of_ne_zero hpos)]
      rw [fround, if_neg (by omega), roundMag_of_mem F mode he neg (by omega) (by omega) (by omega) (.inr (by omega))
        (by rw [hnum]; exact hlt), hnum, ← hfields]

end formats

/-! ### Operations on NaNs (R164, R301, R304) -/

section nan
variable (F : Fmt) (mode : Rnd) {a b : FVal}

theorem FVal.exists_nan (h : a.isNan = true) : ∃ s, a = .nan s := by
  cases a with
  | nan s => exact ⟨s, rfl⟩
  | inf _ => cases h
  | fin _ _ _ => cases h

theorem faddV_nan (h : a.isNan = true ∨ b.isNan = true) : faddV F mode a b = (F.nan, snanFlag [a, b]) := by
  rw [faddV, if_pos (by simpa using h)]

theorem fmulV_nan (h : a.isNan = true ∨ b.isNan = true) : fmulV F mode a b = (F.nan, snanFlag [a, b]) := by
  rw [fmulV, if_pos (by simpa using h)]

theorem ffmaV_nan (h : a.isNan = true ∨ b.isNan = true) (c : FVal) : ffmaV F mode a b c = (F.nan, snanFlag [a, b, c]) := by
  rw [ffmaV, if_pos (by simpa using h)]

theorem fdivV_nan (h : a.isNan = true ∨ b.isNan = true) : fdivV F mode a b = (F.nan, snanFlag [a, b]) := by
  rcases h with h | h
  · obtain ⟨s, rfl⟩ := FVal.exists_nan h
    rfl
  · obtain ⟨s, rfl⟩ := FVal.exists_nan h
    cases a <;> rfl

theorem faddV_inf_neg (s : Bool) : faddV F mode (.inf s) (.inf !s) = (F.nan, flNV) := by
  cases s <;> rfl

theorem fmulV_zero_inf (s t : Bool) (e : Int) : fmulV F mode (.fin s 0 e) (.inf t) = (F.nan, flNV) := rfl

/-- Every comparison with a NaN is false, but for "unordered". -/
theorem fcompare_nan {x y : Nat} (h : (fdecode F x).isNan = true ∨ (fdecode F y).isNan = true) :
    (fcompare F 0 x y).1 = 0 ∧ (fcompare F 1 x y).1 = 0 ∧ (fcompare F 2 x y).1 = 0 ∧ (fcompare F 3 x y).1 = 1 := by
  have hun : ((fdecode F x).isNan || (fdecode F y).isNan) = true := by simpa using h
  simp [fcompare, hun]

end nan

/-- Settles O5: the modes one by one, the values of a format, and the operations on NaNs. -/
theorem roundingAndNaN : Obligations.RoundingAndNaN := by
  unfold Obligations.RoundingAndNaN
  refine ⟨fun mode neg m sh e h => roundAt_spec mode neg m e h, fun F mode x hF hx hnan => ?_, fun F mode a b h => ?_⟩
  · have he : ∀ G ∈ [f16, bf16, f32, f64], 0 < G.eb := by decide
    exact fround_fdecode F mode (he F hF) hx hnan
  · refine ⟨faddV_nan F mode h, fmulV_nan F mode h, fun ha => ffmaV_nan F mode (.inl ha), fdivV_nan F mode h, faddV_inf_neg F mode,
      fmulV_zero_inf F mode, fun x y hx hy => fcompare_nan F ?_⟩
    rwa [hx, hy]

end Sys2Proof.Machine

/-! SUPPORT. Bytes of the operand buffer, and elements of a range (spec/16_isa_copy_matrix.md R357 to R359). -/
namespace Sys2Proof.Machine

/-! ### Bytes of the operand buffer -/

section bytes
variable (s : State) (q : Nat)

/-- The table of bytes that a write of the operand buffer leaves. -/
def tabPut (t : Tab Byte) (off : Nat) (bs : List Byte) : Tab Byte :=
  (bs.foldl (fun (p : Tab Byte × Nat) b => (tabSet 0 p.1 p.2 b, p.2 + 1)) (t, off)).1

@[simp] theorem State.quad_obWrite (off : Nat) (bs : List Byte) :
    (s.obWrite q off bs).quad q = { s.quad q with ob := tabPut (s.quad q).ob off bs } := by
  simp [State.obWrite, tabPut]

theorem tabPut_cons (t : Tab Byte) (off : Nat) (b : Byte) (bs : List Byte) :
    tabPut t off (b :: bs) = tabPut (tabSet 0 t off b) (off + 1) bs := rfl

theorem tabGet_tabPut_out (t : Tab Byte) {off k : Nat} {bs : List Byte} (h : k < off ∨ off + bs.length ≤ k) :
    tabGet 0 (tabPut t off bs) k = tabGet 0 t k := by
  induction bs generalizing t off with
  | nil => rfl
  | cons b bs ih =>
    rw [List.length_cons] at h
    rw [tabPut_cons, ih _ (by omega), tabGet_tabSet_ne _ _ _ _ (by omega)]

theorem tabGet_tabPut (t : Tab Byte) {off i : Nat} {bs : List Byte} (h : i < bs.length) :
    tabGet 0 (tabPut t off bs) (off + i) = bs[i] := by
  induction bs generalizing t off i with
  | nil => cases h
  | cons b bs ih =>
    cases i with
    | zero => exact (tabGet_tabPut_out (tabSet 0 t off b) (.inl (Nat.lt_succ_self off))).trans (tabGet_tabSet_same t off b)
    | succ i =>
      rw [Nat.add_left_comm, Nat.add_comm, List.getElem_cons_succ]
      exact ih (tabSet 0 t off b) (Nat.lt_of_succ_lt_succ h)

/-- Bytes outside a write stay. -/
theorem State.obByte_obWrite_out {off k : Nat} {bs : List Byte} (h : k < off ∨ off + bs.length ≤ k) :
    (s.obWrite q off bs).obByte q k = s.obByte q k := by
  rw [State.obByte, State.quad_obWrite, tabGet_tabPut_out _ h, State.obByte]

/-- And each byte written reads back. -/
theorem State.obByte_obWrite {off i : Nat} {bs : List Byte} (h : i < bs.length) :
    (s.obWrite q off bs).obByte q (off + i) = bs[i] := by
  rw [State.obByte, State.quad_obWrite, tabGet_tabPut _ h]

/-- A value is that of its bytes. -/
theorem State.obVal_congr {s t : State} {q k n : Nat} (h : ∀ i, i < n → t.obByte q (k + i) = s.obByte q (k + i)) :
    t.obVal q k n = s.obVal q k n :=
  congrArg leVal (List.map_congr_left fun i hi => h i (List.mem_range.1 hi))

/-- A value stays whose bytes a write does not meet. -/
theorem State.obVal_obWrite_out {off k n : Nat} {bs : List Byte} (h : k + n ≤ off ∨ off + bs.length ≤ k) :
    (s.obWrite q off bs).obVal q k n = s.obVal q k n :=
  State.obVal_congr fun i hi => s.obByte_obWrite_out q (by omega)

/-- A value is read where it was written. -/
theorem State.obVal_obWrite (off n x : Nat) : (s.obWrite q off (leBytes n x)).obVal q off n = x % 256 ^ n := by
  have hbytes : (List.range n).map (fun i => (s.obWrite q off (leBytes n x)).obByte q (off + i)) = leBytes n x :=
    List.ext_getElem (by simp) fun i _ hi => by simp [s.obByte_obWrite q hi]
  rw [State.obVal, hbytes, leVal_leBytes]

end bytes

/-! ### Many values written -/

section values
variable {α : Type} (s : State) (q w : Nat) (addr val : α → Nat) (l : List α)

/-- Values written to the operand buffer one after another, each of `w` bytes. -/
def State.obWriteAll (s : State) : State := l.foldl (fun s p => s.obWrite q (addr p) (leBytes w (val p))) s

/-- A byte stays that no value covers. -/
theorem State.obByte_obWriteAll_out {k : Nat} (h : ∀ p ∈ l, k < addr p ∨ addr p + w ≤ k) :
    (s.obWriteAll q w addr val l).obByte q k = s.obByte q k :=
  List.foldlRecOn l _ (motive := fun t : State => t.obByte q k = s.obByte q k) rfl fun t ht p hp =>
    (t.obByte_obWrite_out q (by simpa using h p hp)).trans ht

/-- A value stays that no value written meets. -/
theorem State.obVal_obWriteAll_out {k n : Nat} (h : ∀ p ∈ l, k + n ≤ addr p ∨ addr p + w ≤ k) :
    (s.obWriteAll q w addr val l).obVal q k n = s.obVal q k n :=
  State.obVal_congr fun i hi => s.obByte_obWriteAll_out q w addr val l fun p hp => by
    have := h p hp
    omega

/-- A value written reads back, where every other write misses it or writes it again. -/
theorem State.obVal_obWriteAll [DecidableEq α] {e : α} (he : e ∈ l)
    (h : ∀ p ∈ l, (addr p = addr e ∧ val p = val e) ∨ addr e + w ≤ addr p ∨ addr p + w ≤ addr e) :
    (s.obWriteAll q w addr val l).obVal q (addr e) w = val e % 256 ^ w := by
  refine foldl_turn (I := fun _ => True) (P := fun t : State => t.obVal q (addr e) w = val e % 256 ^ w) he
    (fun _ _ _ _ => trivial) (fun t _ => t.obVal_obWrite q _ w _) (fun t p hp ht => ?_) trivial
  rcases h p (List.mem_of_mem_erase hp) with ⟨ha, hv⟩ | hout
  · rw [ha, hv, t.obVal_obWrite]
  · rw [t.obVal_obWrite_out q (by simpa using hout), ht]

/-- Only the quad's operand buffer changes. -/
@[simp] theorem State.groups_obWriteAll : (s.obWriteAll q w addr val l).groups = s.groups := State.groups_foldl (fun _ _ => by rfl) l s

@[simp] theorem State.mem_obWriteAll : (s.obWriteAll q w addr val l).mem = s.mem := State.mem_foldl (fun _ _ => by rfl) l s

theorem State.quad_obWriteAll_ne {k : Nat} (hk : k ≠ q) : (s.obWriteAll q w addr val l).quad k = s.quad k :=
  List.foldlRecOn l _ (motive := fun t : State => t.quad k = s.quad k) rfl fun t ht p _ => by
    rw [← ht]
    simp [State.obWrite, State.quad, State.setQuad, tabGet_tabSet_ne _ _ _ _ hk]

end values

/-! ### Elements and blocks of a range (R359) -/

section range
variable (r : MatRec)

@[simp] theorem mem_grid {m n : Nat} {p : Nat × Nat} : p ∈ grid m n ↔ p.1 < m ∧ p.2 < n := by
  obtain ⟨i, j⟩ := p
  simp [grid]

/-- Cells of `w` bytes in columns `ld` apart: two of them are the same or apart. -/
theorem cells_apart {w ld i j i' j' : Nat} (hi : i < ld) (hi' : i' < ld) (hne : (i', j') ≠ (i, j)) :
    w * (i + ld * j) + w ≤ w * (i' + ld * j') ∨ w * (i' + ld * j') + w ≤ w * (i + ld * j) := by
  rw [← Nat.mul_succ, ← Nat.mul_succ]
  rcases Nat.lt_trichotomy j j' with h | rfl | h
  · refine .inl (Nat.mul_le_mul_left _ ?_)
    calc i + ld * j + 1 ≤ ld * (j + 1) := by rw [Nat.mul_succ]; omega
      _ ≤ i' + ld * j' := (Nat.mul_le_mul_left _ h).trans (Nat.le_add_left _ _)
  · have hii : i' ≠ i := fun h => hne (by rw [h])
    rcases Nat.lt_or_gt_of_ne hii with h | h
    · exact .inr (Nat.mul_le_mul_left _ (by omega))
    · exact .inl (Nat.mul_le_mul_left _ (by omega))
  · refine .inr (Nat.mul_le_mul_left _ ?_)
    calc i' + ld * j' + 1 ≤ ld * (j' + 1) := by rw [Nat.mul_succ]; omega
      _ ≤ i + ld * j := (Nat.mul_le_mul_left _ h).trans (Nat.le_add_left _ _)

/-- The elements of the leading `m` rows and `n` columns of a range, written. -/
def State.obPutAll (s : State) (q base m n : Nat) (val : Nat → Nat → Nat) : State :=
  s.obWriteAll q r.width (fun p : Nat × Nat => base + r.elemOff p.1 p.2) (fun p => val p.1 p.2) (grid m n)

/-- Elements of a range after the leading rows and columns were written. -/
theorem State.obVal_obPutAll (s : State) (q base : Nat) {m n : Nat} (val : Nat → Nat → Nat) (hld : r.rows ≤ r.ld) (hm : m ≤ r.rows)
    {i j : Nat} (hi : i < r.rows) :
    (s.obPutAll r q base m n val).obVal q (base + r.elemOff i j) r.width
      = if i < m ∧ j < n then val i j % 256 ^ r.width else s.obVal q (base + r.elemOff i j) r.width := by
  have hapart : ∀ p ∈ grid m n, p ≠ (i, j) → base + r.elemOff i j + r.width ≤ base + r.elemOff p.1 p.2 ∨
      base + r.elemOff p.1 p.2 + r.width ≤ base + r.elemOff i j := fun p hp hne => by
    have hp := mem_grid.1 hp
    have := cells_apart (w := r.width) (ld := r.ld) (i := i) (j := j) (i' := p.1) (j' := p.2) (by omega) (by omega) hne
    rw [MatRec.elemOff, MatRec.elemOff]
    omega
  split
  next hij =>
    refine s.obVal_obWriteAll q r.width (fun p : Nat × Nat => base + r.elemOff p.1 p.2) (fun p => val p.1 p.2) (e := (i, j)) (grid m n)
      (mem_grid.2 hij) fun p hp => ?_
    by_cases h : p = (i, j)
    · exact .inl (by simp [h])
    · exact .inr (hapart p hp h)
  next hij =>
    exact s.obVal_obWriteAll_out q _ _ _ _ fun p hp => hapart p hp fun h => hij (by simpa [h] using mem_grid.1 hp)

/-- Two blocks of a DE range begin at one place, or their headers are apart. -/
theorem MatRec.heads_apart (b j b' j' : Nat) :
    r.blockOff b' j' = r.blockOff b j ∨ r.blockOff b j + 4 ≤ r.blockOff b' j' ∨ r.blockOff b' j' + 4 ≤ r.blockOff b j := by
  have hle : ∀ x y : Nat, x < y → 16 * (r.planes + 1) * x + 4 ≤ 16 * (r.planes + 1) * y := fun x y h =>
    calc 16 * (r.planes + 1) * x + 4 ≤ 16 * (r.planes + 1) * (x + 1) := Nat.add_le_add_left (by omega) _
      _ ≤ 16 * (r.planes + 1) * y := Nat.mul_le_mul_left _ h
  rcases Nat.lt_trichotomy (b + r.ld * j) (b' + r.ld * j') with h | h | h
  · exact .inr (.inl (hle _ _ h))
  · exact .inl (by rw [MatRec.blockOff, MatRec.blockOff, h])
  · exact .inr (.inr (hle _ _ h))

end range
end Sys2Proof.Machine

/-! PROOF. What the operations of the matrix engine leave (spec/16_isa_copy_matrix.md R363, R364, R366, spec/08_number_formats.md R181 to R184):
the results of one operation that retires, element by element, and the orders of the sums. -/
namespace Sys2Proof.Machine

/-! ### Operations that retire, in terms of their elements (R363, R366) -/

section retire
variable (s : State) (gid : Nat) (o : MatOp)

/-- An element of a range of a binary format. -/
def State.obElem (s : State) (q base : Nat) (r : MatRec) (i j : Nat) : Nat := s.obVal q (base + r.elemOff i j) r.width

/-- The byte of the operand buffer at which a handle's reservation begins. -/
def State.obBase (s : State) (gid : Nat) (h : Word) : Nat := ((s.resvOf gid h).map fun r => r.granule * 4096).getD 0

theorem State.obBase_of_resv {x : Resv} {h : Word} (hx : s.resvOf gid h = some x) : s.obBase gid h = x.granule * 4096 := by
  rw [State.obBase, hx, Option.map_some, Option.getD_some]

variable {s gid o}

theorem State.matRetire_mzero (ho : o.kind = .mzero) (hf : (matRec o.recC).fmt ≠ 4) :
    s.matRetire gid o = s.obPutAll (matRec o.recC) (s.quadOf gid) (s.obBase gid o.c) (matRec o.recC).rows (matRec o.recC).cols
      fun _ _ => 0 := by
  simp only [State.matRetire, ho, if_neg hf]
  rfl

theorem State.matRetire_mzero_de (ho : o.kind = .mzero) (hf : (matRec o.recC).fmt = 4) :
    s.matRetire gid o = s.obWriteAll (s.quadOf gid) 4 (fun p : Nat × Nat => s.obBase gid o.c + (matRec o.recC).blockOff p.1 p.2)
      (fun _ => 0x00030000) (grid (matRec o.recC).blocks (matRec o.recC).cols) := by
  simp only [State.matRetire, ho, if_pos hf]
  rfl

theorem State.matRetire_mwr {m n : Nat} {rows : List Row} (ho : o.kind = .mwr m n rows) :
    s.matRetire gid o = s.obPutAll (matRec o.recC) (s.quadOf gid) (s.obBase gid o.c) m n (rowElem (matRec o.recC).fmt rows) := by
  simp only [State.matRetire, ho]
  rfl

/-- The result of one element of an `MMA`, and its flags. -/
def State.mmaVal (s : State) (gid : Nat) (o : MatOp) (k : Nat) (mode : Rnd) (rows : List Row) (i j : Nat) : Nat × Flags :=
  s.mmaElem (s.quadOf gid) (matRec o.recB) (matRec o.recC) (s.obBase gid o.b) (s.obBase gid o.c) k mode rows i j

theorem State.matRetire_mma {m n k : Nat} {rnd : BitVec 3} {rows : List Row} (ho : o.kind = .mma m n k rnd rows) :
    let val := s.mmaVal gid o k { code := rnd.toNat } rows
    let u := s.obPutAll (matRec o.recC) (s.quadOf gid) (s.obBase gid o.c) m n fun i j => (val i j).1
    s.matRetire gid o = u.setGroup gid { u.group gid with
      fpflags := mergeFlags (u.group gid).fpflags ((grid m n).foldl (fun fl p => fl ||| (val p.1 p.2).2) 0) } := by
  simp only [State.matRetire, ho, List.foldl_map]
  rfl

/-- What `MRD` leaves in the registers that it is to write. -/
def State.mrdLate (s : State) (gid : Nat) (o : MatOp) (v m n : Nat) (z : Late) : Late :=
  { z with
    rows := (List.range (rowSpan (matRec o.recC).fmt n)).map fun r => (v + r, Vector.ofFn fun i =>
      if i.val < m then mrdWord (matRec o.recC).fmt (s.obElem (s.quadOf gid) (s.obBase gid o.c) (matRec o.recC) i.val) n r else 0)
    ready := true
    regs := z.regs.map fun p => (p.1, p.2 &&& lanesOf fun i => i < m) }

theorem State.late_matRetire_mrd {v m n : Nat} (ho : o.kind = .mrd v m n) :
    ((s.matRetire gid o).group gid).late = (s.group gid).late.map fun z =>
      if z.owner = none && z.serial = BitVec.ofNat 32 o.id then s.mrdLate gid o v m n z else z := by
  simp only [State.matRetire, ho, State.group_setGroup]
  rfl

end retire

/-! ### Products and elements of an `MMA` (R363, R364) -/

section mma
variable (s : State) (q bb cb k : Nat) (rb rc : MatRec) (off : Int) (mode : Rnd) (rows : List Row) (i j : Nat)

theorem State.mmaPair_eq (z : Nat) : s.mmaPair q bb rb off rows i j z =
    if rb.fmt = 4 ∧ (deZero (spanAt rows (17 * (z / 32)) i).toNat = true ∨ deZero (s.obVal q (bb + rb.blockOff (z / 32) j) 4) = true) then
      (.fin false 0 0, .fin false 0 0)
    else (aElem rb.fmt rows off i z, s.bElem q bb rb z j) := by
  simp [State.mmaPair, State.zeroPair]

/-- The summation order of an element is its format's (R181 to R183). -/
theorem State.mmaElem_eq : s.mmaElem q rb rc bb cb k mode rows i j =
    let c := s.obElem q cb rc i j
    let ps := (List.range k).map (s.mmaPair q bb rb rc.scoff rows i j)
    if rb.fmt = 0 then sumFma f64 mode c ps else if rb.fmt = 1 then sumFma f32 mode c ps
    else if rb.fmt = 4 then sumBlocks mode c ps else sumEight mode c ps := by
  unfold State.mmaElem
  dsimp only
  split
  next h => rw [if_pos h]; rfl
  next h => rw [if_neg (by omega), if_pos h]; rfl
  next h => rw [if_neg (by omega), if_neg (by omega), if_pos h]; rfl
  next h0 h1 h4 => rw [if_neg h0, if_neg h1, if_neg h4]; rfl

end mma

/-! ### Elements and flags after the retirement -/

/-- A register element has no more bits than an element of its range. -/
theorem rowElem_lt (r : MatRec) (rows : List Row) (i k : Nat) : rowElem r.fmt rows i k < 256 ^ r.width := by
  rw [MatRec.width]
  unfold rowElem
  split
  next h =>
    have hlow := (spanAt rows (2 * k) i).isLt
    have hhigh := (spanAt rows (2 * k + 1) i).isLt
    rw [if_pos h]
    omega
  next h => rw [if_neg (by omega), if_pos h]; exact (spanAt rows k i).isLt
  next h0 h1 => rw [if_neg h0, if_neg h1]; exact Nat.mod_lt _ (by decide)

section results
variable {s : State} {gid : Nat} {o : MatOp} {x : Resv} (hx : s.resvOf gid o.c = some x)
include hx

section binary
variable (hld : (matRec o.recC).rows ≤ (matRec o.recC).ld) {i : Nat} (hi : i < (matRec o.recC).rows) (j : Nat)
include hld hi

/-- `MZERO` (R366). -/
theorem State.obElem_mzero (ho : o.kind = .mzero) (hf : (matRec o.recC).fmt ≠ 4) (hj : j < (matRec o.recC).cols) :
    (s.matRetire gid o).obElem (s.quadOf gid) (x.granule * 4096) (matRec o.recC) i j = 0 := by
  rw [State.matRetire_mzero ho hf, s.obBase_of_resv gid hx, State.obElem, s.obVal_obPutAll _ _ _ _ hld le_rfl hi, if_pos ⟨hi, hj⟩,
    Nat.zero_mod]

/-- `MWR` (R366). -/
theorem State.obElem_mwr {m n : Nat} {rows : List Row} (ho : o.kind = .mwr m n rows) (hm : m ≤ (matRec o.recC).rows) :
    (s.matRetire gid o).obElem (s.quadOf gid) (x.granule * 4096) (matRec o.recC) i j =
      if i < m ∧ j < n then rowElem (matRec o.recC).fmt rows i j
      else s.obElem (s.quadOf gid) (x.granule * 4096) (matRec o.recC) i j := by
  rw [State.matRetire_mwr ho, s.obBase_of_resv gid hx, State.obElem, s.obVal_obPutAll _ _ _ _ hld hm hi,
    Nat.mod_eq_of_lt (rowElem_lt _ rows i j)]
  rfl

/-- `MMA` (R363). -/
theorem State.obElem_mma {m n k : Nat} {rnd : BitVec 3} {rows : List Row} (ho : o.kind = .mma m n k rnd rows)
    (hm : m ≤ (matRec o.recC).rows) :
    (s.matRetire gid o).obElem (s.quadOf gid) (x.granule * 4096) (matRec o.recC) i j =
      if i < m ∧ j < n then (s.mmaVal gid o k { code := rnd.toNat } rows i j).1 % 256 ^ (matRec o.recC).width
      else s.obElem (s.quadOf gid) (x.granule * 4096) (matRec o.recC) i j := by
  rw [State.matRetire_mma ho, s.obBase_of_resv gid hx]
  exact s.obVal_obPutAll _ _ _ _ hld hm hi

end binary

omit hx in
/-- The flags of an `MMA` (R169, R363). -/
theorem State.fpflags_matRetire_mma {m n k : Nat} {rnd : BitVec 3} {rows : List Row} (ho : o.kind = .mma m n k rnd rows) :
    ((s.matRetire gid o).group gid).fpflags = mergeFlags (s.group gid).fpflags
      ((grid m n).foldl (fun fl p => fl ||| (s.mmaVal gid o k { code := rnd.toNat } rows p.1 p.2).2) 0) := by
  rw [State.matRetire_mma ho, State.group_setGroup, State.group, State.obPutAll, State.groups_obWriteAll]
  rfl

/-- `MRD`: the words of the lanes' rows (R366). -/
theorem State.mem_mrdLate {v m n r i : Nat} (z : Late) (hr : r < rowSpan (matRec o.recC).fmt n) (hi : i < m) (hm : m ≤ 32) :
    ∃ row, (v + r, row) ∈ (s.mrdLate gid o v m n z).rows
      ∧ laneAt row i = mrdWord (matRec o.recC).fmt (s.obElem (s.quadOf gid) (x.granule * 4096) (matRec o.recC) i) n r := by
  refine ⟨_, List.mem_map.2 ⟨r, List.mem_range.2 hr, rfl⟩, ?_⟩
  simp [laneAt, Array.getD, hi, show i < 32 by omega, s.obBase_of_resv gid hx]

section blocks
variable (ho : o.kind = .mzero) (hf : (matRec o.recC).fmt = 4)
include ho hf

/-- `MZERO` of a DE range: the headers of zero blocks (R366). -/
theorem State.obVal_mzero_de {b j : Nat} (hb : b < (matRec o.recC).blocks) (hj : j < (matRec o.recC).cols) :
    (s.matRetire gid o).obVal (s.quadOf gid) (x.granule * 4096 + (matRec o.recC).blockOff b j) 4 = 0x00030000 := by
  rw [State.matRetire_mzero_de ho hf, s.obBase_of_resv gid hx]
  refine s.obVal_obWriteAll (s.quadOf gid) 4 (fun p : Nat × Nat => x.granule * 4096 + (matRec o.recC).blockOff p.1 p.2)
    (fun _ => 0x00030000) (e := (b, j)) _ (mem_grid.2 ⟨hb, hj⟩) fun p _ => ?_
  have := (matRec o.recC).heads_apart b j p.1 p.2
  dsimp only
  omega

/-- And no other byte. -/
theorem State.obByte_mzero_de {off : Nat} (h : ∀ b j, b < (matRec o.recC).blocks → j < (matRec o.recC).cols →
      off < x.granule * 4096 + (matRec o.recC).blockOff b j ∨ x.granule * 4096 + (matRec o.recC).blockOff b j + 4 ≤ off) :
    (s.matRetire gid o).obByte (s.quadOf gid) off = s.obByte (s.quadOf gid) off := by
  rw [State.matRetire_mzero_de ho hf, s.obBase_of_resv gid hx]
  exact s.obByte_obWriteAll_out _ _ _ _ _ fun p hp => h p.1 p.2 (mem_grid.1 hp).1 (mem_grid.1 hp).2

omit hx in
theorem State.mzero_de_only : (∀ k, k ≠ s.quadOf gid → (s.matRetire gid o).quad k = s.quad k) ∧ (s.matRetire gid o).groups = s.groups
    ∧ (s.matRetire gid o).mem = s.mem := by
  rw [State.matRetire_mzero_de ho hf]
  exact ⟨fun k hk => s.quad_obWriteAll_ne _ _ _ _ _ hk, s.groups_obWriteAll .., s.mem_obWriteAll ..⟩

end blocks
end results

/-! ### The summation orders (R181 to R183) -/

section sums
variable (F : Fmt) (mode : Rnd) (c : Nat)

/-- The value of a sum that merges flags on the way does not depend on them. -/
theorem foldl_fst_of_flags {α : Type} (step : Nat → α → Nat) (fl : Nat × Flags → α → Flags) (l : List α) (a : Nat × Flags) :
    (l.foldl (fun acc y => (step acc.1 y, fl acc y)) a).1 = l.foldl step a.1 := by
  induction l generalizing a with
  | nil => rfl
  | cons y l ih => exact ih _

theorem sumFma_fst (ps : List (FVal × FVal)) :
    (sumFma F mode c ps).1 = ps.foldl (fun c p => (ffmaV F mode p.1 p.2 (fdecode F c)).1) c :=
  foldl_fst_of_flags (fun c (p : FVal × FVal) => (ffmaV F mode p.1 p.2 (fdecode F c)).1) _ ps (c, 0)

/-- R181: the first product is accumulated with one fused rounding. -/
theorem sumFma_cons (p : FVal × FVal) (ps : List (FVal × FVal)) :
    (sumFma F mode c (p :: ps)).1 = (sumFma F mode (ffmaV F mode p.1 p.2 (fdecode F c)).1 ps).1 := by
  rw [sumFma_fst, sumFma_fst, List.foldl_cons]

theorem sumEight_fst (ps : List (FVal × FVal)) :
    (sumEight mode c ps).1 = (chunked 8 ps.length ps).foldl (fun c g => (faddV f32 mode (fdecode f32 c) (exactSum g).1).1) c :=
  foldl_fst_of_flags (fun c g => (faddV f32 mode (fdecode f32 c) (exactSum g).1).1) _ _ (c, 0)

theorem sumBlocks_fst (ps : List (FVal × FVal)) :
    (sumBlocks mode c ps).1 = (chunked 32 ps.length ps).foldl
      (fun c g => (faddV f32 mode (fdecode f32 c) (fdecode f32 (fround f32 mode (exactSum g).1).1)).1) c :=
  foldl_fst_of_flags (fun c g => (faddV f32 mode (fdecode f32 c) (fdecode f32 (fround f32 mode (exactSum g).1).1)).1) _ _ (c, 0)

/-- Enough fuel gives the same groups. -/
theorem chunked_fuel {α : Type} {n : Nat} (hn : 0 < n) {fuel fuel' : Nat} {xs : List α} (h : xs.length ≤ fuel) (h' : xs.length ≤ fuel') :
    chunked n fuel xs = chunked n fuel' xs := by
  induction fuel generalizing fuel' xs with
  | zero =>
    obtain rfl := List.eq_nil_of_length_eq_zero (Nat.le_zero.1 h)
    cases fuel' <;> rfl
  | succ fuel ih =>
    cases fuel' with
    | zero =>
      obtain rfl := List.eq_nil_of_length_eq_zero (Nat.le_zero.1 h')
      rfl
    | succ fuel' =>
      have hdrop : (xs.drop n).length ≤ xs.length - 1 := by rw [List.length_drop]; omega
      rw [chunked, chunked, ih (fuel' := fuel') (by omega) (by omega)]

/-- A full group, or a last shorter one, is the first. -/
theorem chunked_append {α : Type} {n : Nat} {g xs : List α} (h : g.length = n ∨ (1 ≤ g.length ∧ g.length < n ∧ xs = [])) (hn : 0 < n) :
    chunked n (g ++ xs).length (g ++ xs) = g :: chunked n xs.length xs := by
  have hg : (g ++ xs).length ≠ 0 := by rw [List.length_append]; omega
  have hsplit : (g ++ xs).take n = g ∧ (g ++ xs).drop n = xs := by
    rcases h with h | ⟨-, hlt, rfl⟩
    · simp [← h]
    · simp [hlt.le]
  obtain ⟨fuel, hfuel⟩ := Nat.exists_eq_succ_of_ne_zero hg
  rw [hfuel, chunked, if_neg (by simpa using hg), hsplit.1, hsplit.2,
    chunked_fuel hn (by rw [List.length_append] at hfuel; omega) le_rfl]

/-- R182: the first group's exact sum is accumulated with one rounding. -/
theorem sumEight_append {g ps : List (FVal × FVal)} (h : g.length = 8 ∨ (1 ≤ g.length ∧ g.length < 8 ∧ ps = [])) :
    (sumEight mode c (g ++ ps)).1 = (sumEight mode (faddV f32 mode (fdecode f32 c) (exactSum g).1).1 ps).1 := by
  rw [sumEight_fst, sumEight_fst, chunked_append h (by decide), List.foldl_cons]

/-- R183: the first block's exact sum is rounded, and then accumulated. -/
theorem sumBlocks_append {g ps : List (FVal × FVal)} (h : g.length = 32 ∨ (1 ≤ g.length ∧ g.length < 32 ∧ ps = [])) :
    (sumBlocks mode c (g ++ ps)).1
      = (sumBlocks mode (faddV f32 mode (fdecode f32 c) (fdecode f32 (fround f32 mode (exactSum g).1).1)).1 ps).1 := by
  rw [sumBlocks_fst, sumBlocks_fst, chunked_append h (by decide), List.foldl_cons]

end sums

/-- Settles O32: each operation's elements by the bytes that it writes, and the sums by their first group. -/
theorem matrixResults : Obligations.MatrixResults := by
  unfold Obligations.MatrixResults
  refine ⟨fun s gid o x => ?_, fun s gid o x => ?_, fun F mode c p ps => ?_⟩
  · intro q rc base elem t hx hf hld
    refine ⟨fun ho i j hi hj => State.obElem_mzero hx hld hi j ho (ne_of_lt (Nat.lt_succ_of_le hf)) hj,
      fun m n rows ho hm _ i j hi _ => State.obElem_mwr hx hld hi j ho hm, fun m n k rnd rows y ho hy hm _ => ?_,
      fun v m n z ho hz hown hser => ?_⟩
    · intro rb mode at_ ps val
      have hval : ∀ i j, s.mmaVal gid o k mode rows i j = val i j := fun i j => by
        rw [State.mmaVal, State.mmaElem_eq, s.obBase_of_resv gid hx, s.obBase_of_resv gid hy,
          funext (State.mmaPair_eq s _ _ _ _ rows i j)]
        rfl
      refine ⟨fun i j hi _ => ?_, ?_⟩
      · rw [← hval]
        exact State.obElem_mma hx hld hi j ho hm
      · simp only [← hval]
        exact State.fpflags_matRetire_mma ho
    · refine ⟨s.mrdLate gid o v m n z, ?_, rfl, rfl, fun r i hr hi hm => State.mem_mrdLate hx z hr hi hm⟩
      rw [State.late_matRetire_mrd ho]
      exact List.mem_map.2 ⟨z, hz, if_pos (by simp [hown, hser])⟩
  · intro q rc head t hx hf ho
    exact ⟨fun b j hb hj => State.obVal_mzero_de hx ho hf hb hj, fun off h => State.obByte_mzero_de hx ho hf h,
      State.mzero_de_only ho hf⟩
  · exact ⟨rfl, sumFma_cons F mode c p ps, rfl, rfl, fun g h => sumEight_append mode c h, fun g h => sumBlocks_append mode c h⟩

end Sys2Proof.Machine

/-! PROOF. The pools of a team's tiles: allocation, and the words that add and empty extents (spec/09_tile_arithmetic.md R204, R205,
spec/17_isa_tiles_updates_system.md R373). -/
namespace Sys2Proof.Machine

/-! ### Allocation (R205) -/

section allocation

/-- A fold that keeps the lower of its values answers the least of the list. -/
theorem foldl_lowest {c : Nat} {f : Option (Nat × Nat) → Nat → Option (Nat × Nat)} (hnone : ∀ a, f none a = some (c, a))
    (hsome : ∀ b a, f (some b) a = some (c, min b.2 a)) (l : List Nat) : l.foldl f none = l.min?.map (Prod.mk c) := by
  have hfrom : ∀ (l : List Nat) a, l.foldl f (some (c, a)) = some (c, l.foldl min a) := fun l => by
    induction l with
    | nil => exact fun _ => rfl
    | cons b l ih => exact fun a => by rw [List.foldl_cons, hsome, ih, List.foldl_cons]
  cases l with
  | nil => rfl
  | cons a l => rw [List.foldl_cons, hnone, hfrom, List.min?_cons', Option.map_some]

/-- The first answer along a strictly rising list is that of the least element that has one. -/
theorem findSome?_least {β : Type} {l : List Nat} {f : Nat → Option β} {b : β} (hl : l.Pairwise (· < ·)) (h : l.findSome? f = some b) :
    ∃ c ∈ l, f c = some b ∧ ∀ d ∈ l, d < c → f d = none := by
  obtain ⟨as, c, bs, rfl, hc, hbefore⟩ := List.findSome?_eq_some_iff.1 h
  obtain ⟨-, hcbs, -⟩ := List.pairwise_append.1 hl
  refine ⟨c, by simp, hc, fun d hd hlt => ?_⟩
  rcases List.mem_append.1 hd with hd | hd
  · exact hbefore d hd
  · rcases List.mem_cons.1 hd with rfl | hd
    · exact absurd hlt (lt_irrefl _)
    · exact absurd ((List.pairwise_cons.1 hcbs).1 d hd) (by omega)

variable {x : Extent} {k c a : Nat}

/-- The addresses of the free blocks of a class. -/
def Extent.freeAt (x : Extent) (c : Nat) : List Nat := (x.free.filter fun b => b.1 = c).map (·.2)

theorem Extent.mem_freeAt : a ∈ x.freeAt c ↔ (c, a) ∈ x.free := by
  simp [Extent.freeAt]

/-- The classes that can serve class `k`. -/
def Extent.serving (x : Extent) (k : Nat) : List Nat := (List.range 12).filter fun c => k ≤ c && c ≤ x.top

theorem Extent.mem_serving : c ∈ x.serving k ↔ k ≤ c ∧ c ≤ x.top ∧ c < 12 := by
  simp [Extent.serving]; omega

theorem Extent.freeFor_eq : x.freeFor k = (x.serving k).findSome? fun c => (x.freeAt c).min?.map (Prod.mk c) := by
  unfold Extent.freeFor Extent.serving
  exact congrArg (List.findSome? · _) (funext fun c => foldl_lowest (fun _ => rfl) (fun _ _ => rfl) (x.freeAt c))

/-- An extent that can serve a class gives the lowest block of the smallest class that has one. -/
theorem Extent.freeFor_some (h : x.freeFor k = some (c, a)) : (k ≤ c ∧ c ≤ x.top ∧ c < 12) ∧ (c, a) ∈ x.free
    ∧ (∀ b ∈ x.free, k ≤ b.1 → c ≤ b.1) ∧ ∀ b ∈ x.free, b.1 = c → a ≤ b.2 := by
  rw [Extent.freeFor_eq] at h
  obtain ⟨d, hd, hmin, hbelow⟩ := findSome?_least (List.pairwise_lt_range.filter _) h
  obtain ⟨e, he, hde⟩ := Option.map_eq_some_iff.1 hmin
  obtain ⟨rfl, rfl⟩ := Prod.mk.inj hde
  obtain ⟨hmem, hle⟩ := List.min?_eq_some_iff.1 he
  have hserve := Extent.mem_serving.1 hd
  refine ⟨hserve, Extent.mem_freeAt.1 hmem, fun b hb hk => not_lt.1 fun hlt => ?_, fun b hb hbc => hle _ (Extent.mem_freeAt.2 (hbc ▸ hb))⟩
  have hnone := hbelow b.1 (Extent.mem_serving.2 ⟨hk, by omega, by omega⟩) hlt
  rw [Option.map_eq_none_iff, List.min?_eq_none_iff] at hnone
  exact List.ne_nil_of_mem (Extent.mem_freeAt.2 hb) hnone

/-- An extent that cannot serve a class has no free block from it to its top. -/
theorem Extent.freeFor_none (h : x.freeFor k = none) : ∀ b ∈ x.free, ¬ (k ≤ b.1 ∧ b.1 ≤ x.top ∧ b.1 < 12) := by
  intro b hb hserve
  rw [Extent.freeFor_eq, List.findSome?_eq_none_iff] at h
  have hnone := h b.1 (Extent.mem_serving.2 hserve)
  rw [Option.map_eq_none_iff, List.min?_eq_none_iff] at hnone
  exact List.ne_nil_of_mem (Extent.mem_freeAt.2 hb) hnone

/-- The upper halves that the splits of a block leave, the largest first. -/
theorem splitTo_eq (k c a : Nat) :
    splitTo k c a = ((List.range c).filter fun j => k ≤ j).reverse.map fun j => (j, a + clsBytes j) := by
  induction c with
  | zero => rfl
  | succ c ih =>
    rw [splitTo, List.range_succ, List.filter_append, List.reverse_append, List.map_append]
    by_cases hk : k < c + 1
    · have : k ≤ c := by omega
      simp [hk, this, ih]
    · have hnone : ∀ j ∈ List.range (c + 1), ¬ decide (k ≤ j) = true := fun j hj => by
        have := List.mem_range.1 hj
        simp; omega
      rw [if_neg hk, ← List.map_append, ← List.reverse_append, ← List.filter_append, ← List.range_succ,
        List.filter_eq_nil_iff.2 hnone]
      rfl

/-- What an allocation from a pool takes: the first extent that can serve it, of that the block that the extent gives. -/
theorem poolTake_some {xs ys : List Extent} (h : poolTake xs k = some (ys, a)) : ∃ before x after c, xs = before ++ x :: after
    ∧ x.freeFor k = some (c, a) ∧ (∀ y ∈ before, y.freeFor k = none) ∧ ys = before ++ x.take c a k :: after := by
  induction xs generalizing ys with
  | nil => cases h
  | cons x rest ih =>
    unfold poolTake at h
    split at h
    · next c b hfree =>
      obtain ⟨rfl, rfl⟩ := Prod.mk.inj (Option.some.inj h)
      exact ⟨[], x, rest, c, rfl, hfree, by simp, rfl⟩
    · next hnone =>
      obtain ⟨r, hr, hry⟩ := Option.map_eq_some_iff.1 h
      obtain ⟨rfl, rfl⟩ := Prod.mk.inj hry
      obtain ⟨before, y, after, c, rfl, hfree, hbefore, hys⟩ := ih hr
      exact ⟨x :: before, y, after, c, rfl, hfree, List.forall_mem_cons.2 ⟨hnone, hbefore⟩, by rw [hys]; rfl⟩

end allocation

/-! ### Pools of a team -/

section pools
variable (t : Team) {p : Nat} (xs : List Extent)

@[simp] theorem Team.pool_setPool (hp : p < 2) : (t.setPool p xs).pool p = xs := by
  obtain rfl | rfl : p = 0 ∨ p = 1 := by omega
  · rfl
  · rfl

@[simp] theorem Team.pool_setPool_other (hp : p < 2) : (t.setPool p xs).pool (1 - p) = t.pool (1 - p) := by
  obtain rfl | rfl : p = 0 ∨ p = 1 := by omega
  · rfl
  · rfl

end pools

/-! ### Collective words with their checks (R361, R373) -/

section collective
variable {s u : State} {n : Needs} {m : Lanes} {check : Option DataFault} {act : State → Lanes → Option State}

theorem State.runM_fault {d : DataFault} (h : s.Clear { n with coll := true } m) (hm : m ≠ 0) (hc : check = some d) :
    s.runM n check act = .next (s.takeTrap d.cause d.lanes d.addr d.info) := by
  rw [State.runM, State.runX_fault (d := d) h]
  rw [if_neg hm, hc]

theorem State.runM_go (h : s.Clear { n with coll := true } m) (hm : m ≠ 0) (hc : check = none) (ha : act s m = some u)
    (hi : u.iss.issued = true) : s.runM n check act = .next u.afterX := by
  rw [State.runM, State.runX_go (u := u) h _ _ hi]
  · rw [if_neg hm, hc]
  · rw [if_neg hm, ha]

theorem State.runM_stall (h : s.Clear { n with coll := true } m) (hm : m ≠ 0) (hc : check = none) (ha : act s m = none) :
    s.runM n check act = .next s := by
  rw [State.runM, State.runX_stall h]
  · rw [if_neg hm, hc]
  · rw [if_neg hm, ha]

/-- The end of a word whose effect is on its team, and on what dies hold for it. -/
theorem State.advance_afterX_spec (h : s.sameButUnits u) : (u.advance.afterX).cur = { s.cur.advance s.iss.run with lvalid := 0 }
    ∧ s.quiet u.advance.afterX ∧ u.advance.afterX.teams = u.teams := by
  obtain ⟨hcur, ⟨honly, hne, -, -, -⟩, -, hmem⟩ : XDone u u.advance.afterX (u.cur.advance u.iss.run) :=
    u.afterX_done (u.cur.advance u.iss.run) (u.cur.advance_slot _)
  rw [State.cur_of_sameButUnits h, State.iss_of_sameButUnits _ h] at hcur
  rw [State.iss_of_sameButUnits _ h] at hne
  refine ⟨hcur, ⟨fun k hk => (hne k hk).trans (State.group_of_sameButUnits h k), fun a => (hmem a).trans ?_⟩, by rw [honly]⟩
  rw [State.rd, State.mem_of_sameButUnits h, State.rd]

end collective

/-! ### `TPOOL` and `TPOOL.empty` (R204, R373) -/

section words
variable {s : State} {f : XE} {m : Lanes}

theorem State.teams_foldl {α : Type} {f : State → α → State} (hf : ∀ (s : State) a, (f s a).teams = s.teams) (l : List α) (s : State) :
    (l.foldl f s).teams = s.teams :=
  List.foldlRecOn l f (motive := fun t : State => t.teams = s.teams) rfl fun _ ht a _ => (hf _ a).trans ht

theorem State.takeArea_spec (kind : AreaKind) (tk d n : Nat) : s.sameButUnits ((s.takeArea kind tk d n).getD s)
    ∧ ((s.takeArea kind tk d n).getD s).teams = s.teams := by
  unfold State.takeArea
  cases s.poolAlloc d n with
  | none => exact ⟨rfl, rfl⟩
  | some base => exact ⟨rfl, rfl⟩

/-- A ninth extent is refused. -/
theorem State.tpoolFault_full {p : Nat} {base : Dword} {x : Word} (h : 8 ≤ ((s.team (groupTeam s.iss.gid)).pool p).length) :
    (s.tpoolFault p base x).isSome = true := by
  unfold State.tpoolFault
  dsimp only
  split
  · rfl
  · split
    · rfl
    · rw [if_pos (by simp [h])]
      rfl

/-- The state after a word on a team's pools: the team has the pool, the other one is as it was. -/
theorem State.poolWord_spec {u : State} {tk p : Nat} {xs : List Extent} (hp : p < 2) (hu : s.sameButUnits u) (ht : u.teams = s.teams) :
    let t := (u.setTeam tk ((u.team tk).setPool p xs)).advance.afterX
    (t.cur = { s.cur.advance s.iss.run with lvalid := 0 } ∧ s.quiet t ∧ (t.team tk).pool (1 - p) = (s.team tk).pool (1 - p))
      ∧ (t.team tk).pool p = xs := by
  intro t
  obtain ⟨hcur, hquiet, hteams⟩ :=
    State.advance_afterX_spec (u := u.setTeam tk ((u.team tk).setPool p xs)) (State.sameButUnits_trans hu rfl)
  have hteam : t.team tk = (s.team tk).setPool p xs := by
    rw [State.team, hteams, ← State.team, State.team_setTeam, State.team, ht, ← State.team]
  rw [hteam, Team.pool_setPool _ _ hp, Team.pool_setPool_other _ _ hp]
  exact ⟨⟨hcur, hquiet, rfl⟩, rfl⟩

/-- The extent that `TPOOL` adds, all of it free. -/
theorem execTpool_go {base : Dword} {x : Word} {p : Nat} (hbase : s.cur.v64 0 f.e0.toNat = base) (hx : s.cur.v 0 f.e1.toNat = x)
    (hp : f.flags.toNat % 2 = p) (hm : m ≠ 0)
    (h : s.Clear { guard := f.guard, regs := pairRegs f.e0 ++ [f.e1.toNat], reads := pairRegs f.e0 ++ [f.e1.toNat], coll := true } m)
    (hf : s.tpoolFault p base x = none) : ∃ (u : State) (e : Extent), s.sameButUnits u ∧ u.teams = s.teams
      ∧ execTpool f s = .next (u.setTeam (groupTeam s.iss.gid) ((u.team (groupTeam s.iss.gid)).setPool p
          ((u.team (groupTeam s.iss.gid)).pool p ++ [e]))).advance.afterX
      ∧ e.base = base ∧ e.top = x.toNat % 16 ∧ e.units = x.toNat / 2 ^ 16 ∧ e.used = []
      ∧ e.free = (List.range (x.toNat / 2 ^ 16)).map fun i => (x.toNat % 16, base.toNat + i * clsBytes (x.toNat % 16)) := by
  subst hbase hx hp
  obtain ⟨hu, ht⟩ := s.takeArea_spec (.tile (f.flags.toNat % 2)) (groupTeam s.iss.gid) (coreDie (slotCore s.cur.slot))
    (stateBytes ((s.cur.v 0 f.e1.toNat).toNat / 2 ^ 16) ((s.cur.v 0 f.e1.toNat).toNat % 16))
  exact ⟨_, _, hu, ht, State.runM_go h hm hf rfl rfl, rfl, rfl, rfl, rfl, rfl⟩

theorem State.dropAreas_spec (kind : AreaKind) (tk : Nat) (l : List Nat) :
    s.sameButUnits (l.foldl (fun v d => v.dropArea kind tk d) s) ∧ (l.foldl (fun v d => v.dropArea kind tk d) s).teams = s.teams :=
  ⟨State.sameButUnits_foldl (fun v d => v.sameButUnits_setDie d _) l s,
    State.teams_foldl (fun _ _ => by rfl) l s⟩

/-- A tile operation of the team is outstanding. -/
def State.teamBusy (s : State) (tk : Nat) : Bool := (s.groupsOf tk).any fun k => (s.group k).tileBusy

theorem execTpoolEmpty_go (hm : m ≠ 0) (h : s.Clear { guard := f.guard, coll := true } m)
    (hb : s.teamBusy (groupTeam s.iss.gid) = false) : ∃ u : State, s.sameButUnits u ∧ u.teams = s.teams
      ∧ execTpoolEmpty f s = .next (u.setTeam (groupTeam s.iss.gid)
          ((u.team (groupTeam s.iss.gid)).setPool (f.flags.toNat % 2) [])).advance.afterX := by
  obtain ⟨hu, ht⟩ := s.dropAreas_spec (.tile (f.flags.toNat % 2)) (groupTeam s.iss.gid) (List.range Config.dies)
  exact ⟨_, hu, ht, State.runM_go h hm rfl (if_neg (by rw [← State.teamBusy, hb]; exact Bool.false_ne_true)) rfl⟩

theorem execTpoolEmpty_stall (hm : m ≠ 0) (h : s.Clear { guard := f.guard, coll := true } m)
    (hb : s.teamBusy (groupTeam s.iss.gid) = true) : execTpoolEmpty f s = .next s :=
  State.runM_stall h hm rfl (if_pos hb)

end words

/-- Settles O34: the words by what they leave of their team, an allocation by the first extent that can serve it. -/
theorem tilePools : Obligations.TilePools := by
  unfold Obligations.TilePools
  refine ⟨fun s f m => ?_, fun xs ys k a h => ?_⟩
  · intro g tk p base x top units rs done _ hm
    have hp : p < 2 := Nat.mod_lt _ two_pos
    refine ⟨fun h => ⟨fun d hd => State.runM_fault h hm hd, State.tpoolFault_full, fun hf => ?_⟩,
      fun h => ⟨fun hb => ?_, fun hb => ?_⟩⟩
    · obtain ⟨u, e, hu, ht, he, hfields⟩ := execTpool_go (p := p) rfl rfl rfl hm h hf
      obtain ⟨hdone, hpool⟩ := State.poolWord_spec (tk := tk) (xs := (u.team tk).pool p ++ [e]) hp hu ht
      have hteam : u.team tk = s.team tk := by rw [State.team, ht, State.team]
      exact ⟨_, e, he, hdone, hpool.trans (by rw [hteam]), hfields⟩
    · have hidle : s.teamBusy tk = false := List.any_eq_false.2 fun k hk => by rw [hb k hk]; exact Bool.false_ne_true
      obtain ⟨u, hu, ht, he⟩ := execTpoolEmpty_go hm h hidle
      obtain ⟨hdone, hpool⟩ := State.poolWord_spec (tk := tk) (xs := []) hp hu ht
      exact ⟨_, he, hdone, hpool⟩
    · exact execTpoolEmpty_stall hm h (List.any_eq_true.2 hb)
  · obtain ⟨before, x, after, c, hxs, hfree, hbefore, hys⟩ := poolTake_some h
    obtain ⟨⟨hkc, htop, h12⟩, hmem, hclass, hlow⟩ := Extent.freeFor_some hfree
    refine ⟨before, x, after, c, hxs, hkc, htop, h12, hmem, fun y hy => Extent.freeFor_none (hbefore y hy), hclass, hlow, ?_⟩
    rw [hys, Extent.take, splitTo_eq]

end Sys2Proof.Machine

/-! PROOF. The execution of a group's oldest tile operation, and the product of two tiles (spec/09_tile_arithmetic.md R190, R207, R214,
spec/05_cores_and_execution.md R116, spec/10_determinism_and_reliability.md R229, R232). -/
namespace Sys2Proof.Machine

/-! ### What the tidying of ended teams keeps (R80) -/

section tidying
variable {s : State}

/-- What the three steps of a tidying keep, the tidying keeps. -/
theorem State.tidy_keeps {P : State → Prop} (team : ∀ (v : State) tk, P v → P (v.tidyTeam tk))
    (cluster : ∀ (v : State) ck, P v → P (v.tidyCluster ck)) (parked : ∀ (v : State) h, P v → P (v.discardParked h)) (gid : Nat) (h : P s) :
    P (s.tidy gid) := by
  have hboth : ∀ (v : State) tk ck, P v → P ((v.tidyTeam tk).tidyCluster ck) := fun v tk ck hv => cluster _ ck (team v tk hv)
  unfold State.tidy
  dsimp only
  split
  · exact hboth _ _ _ h
  · exact List.foldlRecOn _ _ (motive := P) (parked _ _ (hboth _ _ _ h)) fun v hv _ _ => hboth v _ _ hv

/-- Every quad has as many spare columns in use as it had. -/
def State.sameSpares (s t : State) : Prop := ∀ q, (t.quad q).spares = (s.quad q).spares

theorem State.sameSpares_trans {s t u : State} (h : s.sameSpares t) (k : t.sameSpares u) : s.sameSpares u := fun q => (k q).trans (h q)

theorem State.sameSpares_of_quads {s t : State} (h : t.quads = s.quads) : s.sameSpares t := fun q => by rw [State.quad, h, State.quad]

theorem State.sameSpares_setQuad (q : Nat) (x : Quad) (h : x.spares = (s.quad q).spares) : s.sameSpares (s.setQuad q x) := fun k => by
  by_cases hk : k = q
  · rw [hk, State.quad_setQuad, h]
  · simp [State.quad, State.setQuad, tabGet_tabSet, hk]

theorem State.quads_foldl {α : Type} {f : State → α → State} (hf : ∀ (s : State) a, (f s a).quads = s.quads) (l : List α) (s : State) :
    (l.foldl f s).quads = s.quads :=
  List.foldlRecOn l f (motive := fun t : State => t.quads = s.quads) rfl fun _ ht a _ => (hf _ a).trans ht

theorem State.sameSpares_freeResv (q : Nat) (r : Resv) : s.sameSpares (s.freeResv q r) := by
  refine State.sameSpares_trans ?_ (State.sameSpares_of_quads (State.quads_foldl (fun _ _ => by rfl) _ _))
  exact State.sameSpares_setQuad q _ rfl

theorem State.quads_freeAreas (k : Nat) : (s.freeAreas k).quads = s.quads := State.quads_foldl (fun _ _ => by rfl) _ _

theorem State.sameSpares_tidyTeam (tk : Nat) : s.sameSpares (s.tidyTeam tk) := by
  unfold State.tidyTeam
  dsimp only
  split
  · refine State.sameSpares_trans ?_ (State.sameSpares_of_quads (State.quads_freeAreas tk))
    exact List.foldlRecOn _ _ (motive := s.sameSpares) (fun _ => rfl) fun _ hv r _ =>
      State.sameSpares_trans hv (State.sameSpares_freeResv _ r)
  · exact fun _ => rfl

theorem State.quads_tidyCluster (ck : Nat) : (s.tidyCluster ck).quads = s.quads := by
  unfold State.tidyCluster
  dsimp only
  split
  · split <;> exact State.quads_foldl (fun _ _ => by rfl) _ _
  · rfl

theorem State.sameSpares_tidy (gid : Nat) : s.sameSpares (s.tidy gid) :=
  State.tidy_keeps (P := s.sameSpares) (fun _ tk hv => State.sameSpares_trans hv (State.sameSpares_tidyTeam tk))
    (fun _ ck hv => State.sameSpares_trans hv (State.sameSpares_of_quads (State.quads_tidyCluster ck)))
    (fun _ _ hv => State.sameSpares_trans hv (State.sameSpares_of_quads rfl)) gid fun _ => rfl

/-- The team runs, with these check records armed. -/
def State.armedAs (s : State) (tk : Nat) (xs : List (Nat × Dword)) : Prop := (s.team tk).ended = false ∧ (s.team tk).armed = xs

variable {tk : Nat} {xs : List (Nat × Dword)}

theorem State.armedAs_of_teams {t : State} (h : s.armedAs tk xs) (ht : t.teams = s.teams) : t.armedAs tk xs := by
  rw [State.armedAs, State.team, ht]
  exact h

theorem State.armedAs_setTeam {k : Nat} {x : Team} (h : s.armedAs tk xs)
    (hx : k = tk → x.ended = (s.team tk).ended ∧ x.armed = (s.team tk).armed) : (s.setTeam k x).armedAs tk xs := by
  rw [State.armedAs]
  by_cases hk : tk = k
  · subst hk
    rw [State.team_setTeam, (hx rfl).1, (hx rfl).2]
    exact h
  · rw [State.team_setTeam_ne _ _ _ _ hk]
    exact h

theorem State.teams_freeResv (s : State) (q : Nat) (r : Resv) : (s.freeResv q r).teams = s.teams := State.teams_foldl (fun _ _ => by rfl) _ _

theorem State.teams_freeAreas (s : State) (k : Nat) : (s.freeAreas k).teams = s.teams := State.teams_foldl (fun _ _ => by rfl) _ _

theorem State.armedAs_tidyTeam (k : Nat) (h : s.armedAs tk xs) : (s.tidyTeam k).armedAs tk xs := by
  unfold State.tidyTeam
  dsimp only
  split
  · next hend =>
    refine State.armedAs_setTeam (State.armedAs_of_teams h ?_) fun hk => ?_
    · rw [State.teams_freeAreas, State.teams_foldl fun _ _ => State.teams_freeResv ..]
    · subst hk
      simp [h.1] at hend
  · exact h

theorem State.armedAs_tidyCluster (ck : Nat) (h : s.armedAs tk xs) : (s.tidyCluster ck).armedAs tk xs := by
  have hleave : ∀ l : List Nat, (l.foldl (fun v t => (v.freeUnits (v.team t).core (v.team t).units).setTeam t
      { v.team t with units := [], resident := false, live := false }) s).armedAs tk xs := fun l =>
    List.foldlRecOn l _ (motive := fun v : State => v.armedAs tk xs) h fun v hv t _ =>
      State.armedAs_setTeam (s := v.freeUnits (v.team t).core (v.team t).units) hv fun hk => by subst hk; exact ⟨rfl, rfl⟩
  unfold State.tidyCluster
  dsimp only
  split
  · split <;> exact State.armedAs_of_teams (hleave _) rfl
  · exact h

/-- The armed records of a team that runs stay armed. -/
theorem State.armedAs_tidy (gid : Nat) (h : s.armedAs tk xs) : (s.tidy gid).armedAs tk xs :=
  State.tidy_keeps (P := fun v : State => v.armedAs tk xs) (fun _ k hv => State.armedAs_tidyTeam k hv)
    (fun _ ck hv => State.armedAs_tidyCluster ck hv) (fun _ _ hv => State.armedAs_of_teams hv rfl) gid h

end tidying

/-! ### What the accesses of an operation keep -/

section accesses
variable {s : State} {gid : Nat}

/-- The tile operations of the group, the quads and the teams are as they were. -/
def State.sameTiles (s t : State) (gid : Nat) : Prop :=
  (t.group gid).tiles = (s.group gid).tiles ∧ t.quads = s.quads ∧ t.teams = s.teams

theorem State.sameTiles_refl : s.sameTiles s gid := ⟨rfl, rfl, rfl⟩

theorem State.sameTiles_trans {s t u : State} (h : s.sameTiles t gid) (k : t.sameTiles u gid) : s.sameTiles u gid :=
  ⟨k.1.trans h.1, k.2.1.trans h.2.1, k.2.2.trans h.2.2⟩

theorem State.sameTiles_foldl {α : Type} {f : State → α → State} (hf : ∀ (s : State) a, s.sameTiles (f s a) gid) (l : List α) (s : State) :
    s.sameTiles (l.foldl f s) gid :=
  List.foldlRecOn l f (motive := fun t => s.sameTiles t gid) State.sameTiles_refl fun _ ht a _ => State.sameTiles_trans ht (hf _ a)

theorem State.sameTiles_log (d : Nat) (r : LogRec) : s.sameTiles (s.log d r) gid := by
  obtain ⟨m, x, h, -⟩ := s.log_eq d r
  rw [h]
  exact ⟨rfl, rfl, rfl⟩

theorem State.sameTiles_countPage (k page : Nat) : s.sameTiles (s.countPage k page) gid := by
  unfold State.countPage
  dsimp only
  split
  · exact State.sameTiles_refl
  · split
    · exact State.sameTiles_trans (t := s.setDie _ _) ⟨rfl, rfl, rfl⟩ (State.sameTiles_log ..)
    · exact ⟨rfl, rfl, rfl⟩

theorem State.sameTiles_countTiles (k : Nat) (pages done : List TilePage) : s.sameTiles (s.countTiles k pages done) gid :=
  State.sameTiles_foldl (fun _ _ => State.sameTiles_countPage ..) _ s

theorem State.sameTiles_memWrite (pa : Nat) (bs : List Byte) : s.sameTiles (s.memWrite pa bs) gid := by
  rw [s.sameButBytes_memWrite pa bs]
  exact ⟨rfl, rfl, rfl⟩

theorem TileOut.sameTiles_put (o : TileOut) (pages : List TilePage) (va plane : Nat) (bs : List Byte) :
    o.st.sameTiles (o.put pages va plane bs).st gid := by
  unfold TileOut.put
  split
  · exact State.sameTiles_refl
  · split
    · exact State.sameTiles_refl
    · exact State.sameTiles_memWrite ..

theorem TileOut.sameTiles_writes (pages : List TilePage) (ws : List TileWrite) (o : TileOut) :
    o.st.sameTiles (ws.foldl (fun x w => x.write pages w) o).st gid :=
  List.foldlRecOn ws _ (motive := fun x : TileOut => o.st.sameTiles x.st gid) State.sameTiles_refl fun _ hx w _ =>
    List.foldlRecOn w.planes.zipIdx _ (motive := fun x : TileOut => o.st.sameTiles x.st gid) hx fun x hx _ _ =>
      State.sameTiles_trans hx (x.sameTiles_put ..)

theorem State.sameTiles_sendOne {u : State} (hi : u.iss.gid = gid) (h : s.sameTiles u gid) (op : OwnerOp) (oper : Word) (wm : Bool)
    (n : Word) (dst : List Nat) (pkg : BitVec 16) (owner : Nat) (ls : List ReqLane) (order : Option Nat) :
    (u.sendOne op oper wm n dst pkg owner ls order).iss.gid = gid
      ∧ s.sameTiles (u.sendOne op oper wm n dst pkg owner ls order) gid := by
  obtain ⟨hs, hc, -⟩ := u.sendOne_spec op oper wm n dst pkg owner ls order
  generalize u.sendOne op oper wm n dst pkg owner ls order = v at hs hc ⊢
  have hk : v.iss = u.iss := by rw [hs]
  have ht : v.cur.tiles = u.cur.tiles := by rw [hc]
  unfold State.cur at ht
  rw [hk, hi] at ht
  exact ⟨by rw [hk, hi], State.sameTiles_trans h ⟨ht, by rw [hs], by rw [hs]⟩⟩

theorem State.sameTiles_sendStores (pc : Dword) (serial : Word) (order n : Nat) (tile : Bool) (xs : List FarStore) :
    s.sameTiles (s.sendStores gid pc serial order n tile xs) gid := by
  have hall : ∀ (f : BitVec 16 × Nat → List (List ReqLane)) (l : List (BitVec 16 × Nat)) (u : State), u.iss.gid = gid ∧ s.sameTiles u gid →
      (fun v : State => v.iss.gid = gid ∧ s.sameTiles v gid) (l.foldl (fun v o => (f o).foldl (fun v ls =>
        v.sendOne (.stores n tile) (operWord (.stores n tile) 5 0) true serial [] o.1 o.2 ls (some order)) v) u) := fun f l u hu =>
    List.foldlRecOn l _ (motive := fun v : State => v.iss.gid = gid ∧ s.sameTiles v gid) hu fun v hv o _ =>
      List.foldlRecOn (f o) _ (motive := fun v : State => v.iss.gid = gid ∧ s.sameTiles v gid) hv fun w hw ls _ =>
        State.sameTiles_sendOne hw.1 hw.2 ..
  exact (hall _ _ { s with iss := { s.iss with gid, pc } } ⟨rfl, rfl, rfl, rfl⟩).2

theorem State.sameTiles_sendTile (o : TileOp) (out : TileOut) : s.sameTiles (s.sendTile gid o out) gid := by
  have hclear : s.sameTiles (s.clearCovered out.near) gid := by
    rw [State.clearCovered_only]
    exact ⟨rfl, rfl, rfl⟩
  unfold State.sendTile
  dsimp only
  split
  · exact hclear
  · exact State.sameTiles_trans hclear (State.sameTiles_sendStores ..)

theorem State.sameTiles_consume (source die unit : Nat) (addr : Dword) (lanes : Lanes) :
    s.sameTiles (s.consume gid source die unit addr lanes) gid := by
  refine ⟨by rw [(s.freezesFor_consume gid source die unit addr lanes).1 gid], ?_⟩
  unfold State.consume
  dsimp only
  split
  · exact ⟨rfl, rfl⟩
  · unfold State.freeze
    dsimp only
    split
    · exact ⟨rfl, rfl⟩
    · exact ⟨State.quads_foldl (fun _ _ => by rfl) _ _, State.teams_foldl (fun _ _ => by rfl) _ _⟩

end accesses

/-! ### One operation (R207, R214, R116) -/

section operation
variable {s : State} {gid : Nat} {o : TileOp} {rest : List TileOp}

/-- An operation is over: it has left the list, or it has failed, with its cause kept and no operation left. -/
def State.tileOver (s : State) (gid : Nat) (o : TileOp) (rest : List TileOp) : Prop :=
  (s.group gid).tiles = rest ∨ (s.group gid).tiles = [] ∧ ∃ d, (s.group gid).tileFail = some d ∧ d.seq = o.seq ∧ d.pc = o.pc

theorem State.tileOver_of_sameButCopies {t : State} (h : s.tileOver gid o rest) (ht : s.sameButCopies t) : t.tileOver gid o rest := by
  rw [State.tileOver, ht gid]
  exact h

theorem State.tileOver_retireTile (h : (s.group gid).tiles = o :: rest) : (s.retireTile gid).tileOver gid o rest := by
  refine .inl ?_
  rw [State.retireTile, State.group_setGroup]
  dsimp only
  rw [h]
  rfl

theorem State.tileOver_failTile (cause : Nat) (addr : Dword) : (s.failTile gid o cause addr).tileOver gid o rest := by
  refine .inr ?_
  rw [State.failTile, State.group_setGroup]
  exact ⟨rfl, _, rfl, rfl, rfl⟩

/-- An operation with its writes: what it leaves when its requests are sent, its teams with `t` among them. -/
theorem State.runTile_writes {ws : List TileWrite} {new : List TilePage} {fl : Flags} {pool : Option (List Extent)}
    (hplan : s.tilePlan gid o = .writes ws new fl pool) : ∃ u : State, s.runTile gid o = u.retireTile gid
      ∧ (u.group gid).tiles = (s.group gid).tiles ∧ u.quads = s.quads ∧ u.team (groupTeam gid) = s.tileTeam gid o pool := by
  unfold State.runTile
  rw [hplan]
  dsimp only
  generalize hv : (ws.foldl (fun x w => x.write (o.pages ++ new) w) { st := s.countTiles gid new o.pages : TileOut }) = out
  obtain ⟨ht, hq, -⟩ : s.sameTiles out.st gid :=
    State.sameTiles_trans (State.sameTiles_countTiles gid new o.pages) (hv ▸ TileOut.sameTiles_writes _ _ _)
  obtain ⟨ht', hq', hteams⟩ := State.sameTiles_sendTile (gid := gid) (o := o) (out := out)
    (s := (out.st.setTeam (groupTeam gid) (s.tileTeam gid o pool)).setGroup gid
      { (out.st.setTeam (groupTeam gid) (s.tileTeam gid o pool)).group gid with
        fpflags := mergeFlags ((out.st.setTeam (groupTeam gid) (s.tileTeam gid o pool)).group gid).fpflags fl })
  refine ⟨_, rfl, ht'.trans ?_, hq'.trans hq, ?_⟩
  · rw [State.group_setGroup]
    exact ht
  · rw [State.team, hteams]
    exact State.team_setTeam ..

/-- The operation is over, and no spare column has been taken. -/
theorem State.runTile_spec (h : (s.group gid).tiles = o :: rest) : (s.runTile gid o).tileOver gid o rest
    ∧ (s.runTile gid o).quads = s.quads := by
  cases hplan : s.tilePlan gid o with
  | poison pa stride =>
    obtain ⟨ht, hq, -⟩ := ({ s with iss := { gid, pc := o.pc } } : State).sameTiles_consume (gid := gid) (errorAt pa stride).1
      (errorAt pa stride).2.1 (errorAt pa stride).2.2 (BitVec.ofNat 64 (pa / 128 * 128)) allLanes
    unfold State.runTile
    rw [hplan]
    exact ⟨State.tileOver_retireTile (ht.trans h), hq⟩
  | nothing =>
    unfold State.runTile
    rw [hplan]
    exact ⟨State.tileOver_retireTile h, rfl⟩
  | fails cause addr =>
    unfold State.runTile
    rw [hplan]
    exact ⟨State.tileOver_failTile cause addr, rfl⟩
  | writes ws new fl pool =>
    obtain ⟨u, hu, ht, hq, -⟩ := State.runTile_writes hplan
    rw [hu]
    exact ⟨State.tileOver_retireTile (ht.trans h), hq⟩

/-- The records of a team once `TSAMP` has acted for a group. -/
def armedAfter (xs : List (Nat × Dword)) (i : Nat) (a : Dword) : List (Nat × Dword) :=
  (xs.filter fun x => x.1 != i) ++ if a = 0 then [] else [(i, a)]

theorem find?_armedAfter (xs : List (Nat × Dword)) (i : Nat) (a : Dword) :
    ((armedAfter xs i a).find? fun x => x.1 = i) = if a = 0 then none else some (i, a) := by
  have hnone : ((xs.filter fun x => x.1 != i).find? fun x => x.1 = i) = none :=
    List.find?_eq_none.2 fun x hx => by simpa using (List.mem_filter.1 hx).2
  rw [armedAfter, List.find?_append, hnone, Option.none_or]
  split
  · rfl
  · simp

/-- `TSAMP` arms the record that it names, or none (R211, R375). -/
theorem State.armedAs_runTile (hk : o.kind = .tsamp) (he : (s.team (groupTeam gid)).ended = false) :
    (s.runTile gid o).armedAs (groupTeam gid) (armedAfter (s.team (groupTeam gid)).armed (groupIndex gid) o.c) := by
  obtain ⟨ws, hplan⟩ : ∃ ws, s.tilePlan gid o = .writes ws [] 0 none := ⟨_, by rw [State.tilePlan, if_pos hk]⟩
  obtain ⟨u, hu, -, -, ht⟩ := State.runTile_writes hplan
  have hteam : (s.runTile gid o).team (groupTeam gid) = s.tileTeam gid o none := hu ▸ ht
  rw [State.armedAs, hteam, State.tileTeam, if_pos hk]
  exact ⟨he, rfl⟩

end operation

/-! ### A step that finds no spare column (R232) -/

section consumes
variable {s : State} {gid : Nat} {o : TileOp} {rest : List TileOp}

theorem State.tiles_opConsumes (source n : Nat) (pc : Dword) :
    ((s.opConsumes gid source n pc).group gid).tiles = (s.group gid).tiles.filter fun x => x.id < n := by
  unfold State.opConsumes
  dsimp only
  rw [State.group_setGroup]
  exact congrArg (List.filter _) (({ s with iss := { gid, pc } } : State).sameTiles_consume ..).1

/-- The operation and the younger ones of its group are gone, and the group's passes; its cluster freezes. -/
theorem State.tileConsumes_spec (h : (s.group gid).tiles = o :: rest) :
    ((s.tileConsumes gid o).group gid).tiles = rest.filter (fun x => x.id < o.id)
      ∧ ((s.tileConsumes gid o).group gid).mats = (s.group gid).mats.filter (fun x => x.id < o.id)
      ∧ (∀ p ∈ ((s.tileConsumes gid o).quad (s.quadOf gid)).passes, p.gid ≠ gid)
      ∧ ((s.cluster (s.group gid).ck).state = .placed → ((s.tileConsumes gid o).cluster (s.group gid).ck).state = .frozen) := by
  have htiles := State.tiles_opConsumes (s := s) (gid := gid) 9 o.id o.pc
  obtain ⟨-, hmats, hquad⟩ := s.opConsumes_older gid 9 o.id o.pc
  have hfrozen := fun hc => s.opConsumes_spec (gid := gid) hc 9 o.id o.pc
  rw [h, List.filter_cons_of_neg (by simp)] at htiles
  obtain ⟨d, hd⟩ := (s.opConsumes gid 9 o.id o.pc).quadOut_only (s.quadOf gid)
  rw [State.tileConsumes, hd]
  generalize s.opConsumes gid 9 o.id o.pc = u at *
  have hsame := ({ u with dies := d } : State).sameButUnits_dropPasses gid
  rw [State.group_of_sameButUnits hsame, State.cluster_of_sameButGroups (State.sameButGroups_of_units hsame)]
  refine ⟨htiles, hmats, fun p hp => State.passes_dropPasses (s := { u with dies := d }) (by rw [← hquad] at hp; exact hp), fun hc => ?_⟩
  obtain ⟨-, hfreeze, -⟩ := hfrozen hc
  exact hfreeze

end consumes

/-! ### The sequencer's step (R214, R229) -/

section sequencer
variable {s : State} {o : TileOp} {rest : List TileOp}

/-- The spare columns that the mismatches took. -/
theorem State.spares_takeSpares {q n : Nat} (h : (s.takeSpares q n).2 = true) :
    ((s.takeSpares q n).1.quad q).spares = (s.quad q).spares + n := by
  induction n generalizing s with
  | zero => rfl
  | succ n ih =>
    rw [State.takeSpares_succ] at h ⊢
    split at h
    · next hlt =>
      rw [if_pos hlt, ih h, State.quad_useSpare]
      dsimp only
      omega
    · cases h

theorem execTileOpExecute_none (h : (s.group s.inp.gid).tiles = []) : execTileOpExecute s = .next s := by
  simp only [execTileOpExecute, h]

theorem execTileOpExecute_eq (h : (s.group s.inp.gid).tiles = o :: rest) : execTileOpExecute s = .next (
    if !((s.group s.inp.gid).engineOut true).isEmpty then s
    else if (s.takeSpares (s.quadOf s.inp.gid) s.inp.mismatches).2 then
      ((s.takeSpares (s.quadOf s.inp.gid) s.inp.mismatches).1.runTile s.inp.gid o).tidy s.inp.gid
    else (s.takeSpares (s.quadOf s.inp.gid) s.inp.mismatches).1.tileConsumes s.inp.gid o) := by
  simp only [execTileOpExecute, h]

theorem execTileOpExecute_waits (h : (s.group s.inp.gid).tiles = o :: rest) (he : (s.group s.inp.gid).engineOut true ≠ []) :
    execTileOpExecute s = .next s := by
  rw [execTileOpExecute_eq h, if_pos (by simpa using he)]

theorem execTileOpExecute_consumes (h : (s.group s.inp.gid).tiles = o :: rest) (he : (s.group s.inp.gid).engineOut true = [])
    (hr : (s.takeSpares (s.quadOf s.inp.gid) s.inp.mismatches).2 = false) : ∃ t, execTileOpExecute s = .next t
      ∧ (t.group s.inp.gid).tiles = rest.filter (fun x => x.id < o.id)
      ∧ (t.group s.inp.gid).mats = (s.group s.inp.gid).mats.filter (fun x => x.id < o.id)
      ∧ (∀ p ∈ (t.quad (s.quadOf s.inp.gid)).passes, p.gid ≠ s.inp.gid)
      ∧ ((s.cluster (s.group s.inp.gid).ck).state = .placed → (t.cluster (s.group s.inp.gid).ck).state = .frozen) := by
  obtain ⟨u, hu⟩ : ∃ u, u = (s.takeSpares (s.quadOf s.inp.gid) s.inp.mismatches).1 := ⟨_, rfl⟩
  have hsame : s.sameButSpares u := hu ▸ s.sameButSpares_takeSpares _ _
  have hg : u.group s.inp.gid = s.group s.inp.gid := by rw [State.group, hsame, State.group]
  have hc : u.cluster (s.group s.inp.gid).ck = s.cluster (s.group s.inp.gid).ck := by rw [State.cluster, hsame, State.cluster]
  have hspec := u.tileConsumes_spec (gid := s.inp.gid) (by rw [hg, h])
  rw [State.quadOf, hg, hc] at hspec
  exact ⟨_, (execTileOpExecute_eq h).trans (by rw [he, hr, ← hu]; rfl), hspec⟩

theorem execTileOpExecute_runs (h : (s.group s.inp.gid).tiles = o :: rest) (he : (s.group s.inp.gid).engineOut true = [])
    (hr : (s.takeSpares (s.quadOf s.inp.gid) s.inp.mismatches).2 = true) : ∃ t, execTileOpExecute s = .next t
      ∧ (t.quad (s.quadOf s.inp.gid)).spares = (s.quad (s.quadOf s.inp.gid)).spares + s.inp.mismatches
      ∧ t.tileOver s.inp.gid o rest
      ∧ (s.inp.mismatches = 0 → o.kind = .tsamp → (s.team (groupTeam s.inp.gid)).ended = false →
          t.armedAs (groupTeam s.inp.gid) (armedAfter (s.team (groupTeam s.inp.gid)).armed (groupIndex s.inp.gid) o.c)) := by
  obtain ⟨u, hu⟩ : ∃ u, u = (s.takeSpares (s.quadOf s.inp.gid) s.inp.mismatches).1 := ⟨_, rfl⟩
  have hsame : s.sameButSpares u := hu ▸ s.sameButSpares_takeSpares _ _
  have hg : u.group s.inp.gid = s.group s.inp.gid := by rw [State.group, hsame, State.group]
  obtain ⟨hover, hquads⟩ := u.runTile_spec (gid := s.inp.gid) (by rw [hg, h])
  refine ⟨(u.runTile s.inp.gid o).tidy s.inp.gid, (execTileOpExecute_eq h).trans (by rw [he, hr, ← hu]; rfl), ?_,
    State.tileOver_of_sameButCopies hover (State.sameButCopies_tidy _ _), fun h0 hk hend => State.armedAs_tidy _ ?_⟩
  · rw [State.sameSpares_tidy, State.sameSpares_of_quads hquads, hu, State.spares_takeSpares hr]
  · have hus : u = s := by rw [hu, h0]; rfl
    rw [hus]
    exact State.armedAs_runTile hk hend

end sequencer

/-! ### The product of two tiles (R190) -/

section products
variable {α β : Type}

/-- A computation of two parts stops when its first part does; otherwise it goes on with that part's answer and flags. -/
theorem Calc.result_bind (c : Calc α) (g : α → Calc β) (f : Flags) : Calc.result (c >>= g) f =
    (Calc.result c f).1.elim (none, (Calc.result c f).2) fun a => Calc.result (g a) (Calc.result c f).2 := by
  rcases hc : Calc.result c f with ⟨_ | a, f₁⟩
  · simp only [Calc.result, OptionT.run_bind, Option.elimM] at hc ⊢
    simp [bind, StateT.bind, hc]
    rfl
  · simp only [Calc.result, OptionT.run_bind, Option.elimM] at hc ⊢
    simp [bind, StateT.bind, hc]

/-- A computation of two parts that does not stop: neither part does. -/
theorem Calc.result_bind_some {c : Calc α} {g : α → Calc β} {b : β} {f f' : Flags} (h : Calc.result (c >>= g) f = (some b, f')) :
    ∃ a f₁, Calc.result c f = (some a, f₁) ∧ Calc.result (g a) f₁ = (some b, f') := by
  rw [Calc.result_bind] at h
  rcases hc : Calc.result c f with ⟨_ | a, f₁⟩
  · rw [hc] at h
    cases h
  · rw [hc] at h
    exact ⟨a, f₁, rfl, h⟩

theorem Calc.result_pure_some {a b : α} {f f' : Flags} (h : Calc.result (pure a) f = (some b, f')) : b = a :=
  (Option.some.inj (congrArg Prod.fst h)).symm

theorem Calc.length_mapM {g : α → Calc β} {l : List α} {ys : List β} {f f' : Flags} (h : Calc.result (l.mapM g) f = (some ys, f')) :
    ys.length = l.length := by
  induction l generalizing ys f f' with
  | nil =>
    rw [List.mapM_nil] at h
    exact congrArg List.length (Calc.result_pure_some h)
  | cons x l ih =>
    rw [List.mapM_cons] at h
    obtain ⟨y, f₁, -, h⟩ := Calc.result_bind_some h
    obtain ⟨zs, f₂, hzs, h⟩ := Calc.result_bind_some h
    rw [Calc.result_pure_some h, List.length_cons, ih hzs, List.length_cons]

theorem Mat.length_make {m n : Nat} {g : Nat → Nat → Calc Nat} {w : Mat} {f f' : Flags}
    (h : Calc.result (Mat.make m n g) f = (some w, f')) : w.length = n := by
  rw [Calc.length_mapM h, List.length_range]

variable {m n k : Nat} {a b : TileVal}

theorem product_zero (h : a.kind = 0 ∨ b.kind = 0) (f : Flags) : (product m n k a b).result f = (some .zero, f) := by
  rw [product, if_pos (by simpa using h)]
  rfl

theorem product_dense (ha : a.kind = 1) (hb : b.kind = 1) (f : Flags) :
    (product m n k a b).result f = (some (.denseMul a.d b.d), f) := by
  simp only [product, ha, hb]
  rfl

/-- Two low-rank tiles keep the factor of the smaller rank, and the other factor is computed with as many columns. -/
theorem product_low {u v : Mat} {f f' : Flags} (ha : a.kind = 2) (hb : b.kind = 2) (hu : a.u.length = a.rank) (hv : b.v.length = b.rank)
    (h : (product m n k a b).result f = (some (.low u v), f')) : u.length = min a.rank b.rank ∧ v.length = min a.rank b.rank := by
  simp only [product, ha, hb] at h
  obtain ⟨w, f₁, -, h⟩ := Calc.result_bind_some h
  split at h
  · next hle =>
    obtain ⟨v', f₂, hv', h⟩ := Calc.result_bind_some h
    obtain ⟨rfl, rfl⟩ := Product.low.inj (Calc.result_pure_some h)
    rw [min_eq_left hle]
    exact ⟨hu, Mat.length_make hv'⟩
  · next hle =>
    obtain ⟨u', f₂, hu', h⟩ := Calc.result_bind_some h
    obtain ⟨rfl, rfl⟩ := Product.low.inj (Calc.result_pure_some h)
    rw [min_eq_right (le_of_not_ge hle)]
    exact ⟨Mat.length_make hu', hv⟩

end products

/-- Settles O35: the step by whether its mismatches find spare columns, the product by the kinds of its operands. -/
theorem tileExecution : Obligations.TileExecution := by
  unfold Obligations.TileExecution
  refine ⟨fun s o rest => ?_, fun m n k a b fl => ⟨fun h => product_zero h fl, fun ha hb => product_dense ha hb fl,
    fun u v f' ha hb hu hv h => product_low ha hb hu hv h⟩⟩
  intro gid q
  have hspares := s.takeSpares_iff q s.inp.mismatches
  refine ⟨execTileOpExecute_none, execTileOpExecute_waits, fun h he => ⟨fun ⟨hpos, hover⟩ => ?_, fun hfit => ?_⟩⟩
  · have hr : (s.takeSpares q s.inp.mismatches).2 = false := by
      rw [← Bool.not_eq_true, hspares]
      omega
    exact execTileOpExecute_consumes h he hr
  · obtain ⟨t, ht, hq, hover, harmed⟩ := execTileOpExecute_runs h he (hspares.2 hfit)
    refine ⟨t, ht, hq, hover, fun h0 hk hend => ?_⟩
    obtain ⟨-, harm⟩ := harmed h0 hk hend
    rw [harm]
    exact find?_armedAfter _ _ _

end Sys2Proof.Machine

/-! PROOF. The decoder and the encoder are inverse (spec/12_formats_and_opcode_map.md R254 to R271, spec/03_control_cores_and_launch.md
R58): what a word's slices give of an encoding, and what the slices of a word make when they are encoded again. -/
namespace Sys2Proof
open Laws.Bits (Statement b1_lt popNum_lt encH_lt bits_t bits_i bits_p bits_xm bits_xb bits_xe bits_kln bits_event)

/-! ### Slices of a word -/

theorem toNat_fld (w : BitVec 64) (lo n : Nat) : (fld w lo n).toNat = w.toNat / 2 ^ lo % 2 ^ n := BitVec.toNat_ofNat _ _

theorem toNat_fld_ofNat {a lo n : Nat} (h : lo + n ≤ 64) : (fld (BitVec.ofNat 64 a) lo n).toNat = a / 2 ^ lo % 2 ^ n := by
  rw [toNat_fld, BitVec.toNat_ofNat]
  refine Nat.eq_of_testBit_eq fun i => ?_
  simp only [Nat.testBit_mod_two_pow, Nat.testBit_div_two_pow]
  by_cases hi : i < n
  · simp [show i + lo < 64 by omega]
  · simp [hi]

theorem fld_ofNat {a lo n : Nat} {x : BitVec n} (h : lo + n ≤ 64) (ha : a / 2 ^ lo % 2 ^ n = x.toNat) :
    fld (BitVec.ofNat 64 a) lo n = x :=
  BitVec.eq_of_toNat_eq (by rw [toNat_fld_ofNat h, ha])

/-- A flag bit of a word is the flag that its one-bit slice gives. -/
theorem b1_fld (w : BitVec 64) (lo : Nat) : b1 (fld w lo 1 == 1) = w.toNat / 2 ^ lo % 2 := by
  have h := toNat_fld w lo 1
  rw [pow_one] at h
  rw [← h]
  generalize fld w lo 1 = x
  revert x
  decide

theorem flag_ofNat {a lo : Nat} {b : Bool} (h : lo < 64) (ha : a / 2 ^ lo % 2 = b1 b) :
    (fld (BitVec.ofNat 64 a) lo 1 == 1) = b := by
  rw [fld_ofNat (x := BitVec.ofBool b) (by omega) (by cases b <;> simpa [b1] using ha)]
  cases b <;> rfl

/-- The `lo + n` low bits of a number are a slice above the bits below it. -/
theorem mod_two_pow_add (a lo n : Nat) : a % 2 ^ (lo + n) = a / 2 ^ lo % 2 ^ n * 2 ^ lo + a % 2 ^ lo := by
  rw [pow_add, Nat.mod_mul, Nat.mul_comm, Nat.add_comm]

/-- A word is its class over the 62 bits below. -/
theorem toNat_of_class {w : BitVec 64} {c : Nat} (h : (fld w 62 2).toNat = c) : w.toNat = c * 2 ^ 62 + w.toNat % 2 ^ 62 := by
  rw [← h, toNat_fld, ← mod_two_pow_add w.toNat 62 2, Nat.mod_eq_of_lt w.isLt]

/-! ### Field records read from an encoding -/

theorem tFields_encT {opc : Nat} (f : TF) (ho : opc < 2 ^ 9) :
    (fld (BitVec.ofNat 64 (encT opc f)) 62 2).toNat = 0 ∧ (fld (BitVec.ofNat 64 (encT opc f)) 53 9).toNat = opc
      ∧ tFields (BitVec.ofNat 64 (encT opc f)) = f := by
  have := b1_lt f.nw; have := b1_lt f.ua; have := b1_lt f.ub; have := b1_lt f.uc
  have := f.dst.isLt; have := f.sa.isLt; have := f.sb.isLt; have := f.sc.isLt; have := f.rnd.isLt; have := f.guard.isLt
  have := f.mod.isLt
  rw [toNat_fld_ofNat (by decide), toNat_fld_ofNat (by decide), encT]
  refine ⟨by omega, by omega, ?_⟩
  rw [tFields, TF.mk.injEq]
  refine ⟨fld_ofNat (by decide) ?_, flag_ofNat (by decide) ?_, fld_ofNat (by decide) ?_, fld_ofNat (by decide) ?_,
    fld_ofNat (by decide) ?_, flag_ofNat (by decide) ?_, flag_ofNat (by decide) ?_, flag_ofNat (by decide) ?_,
    fld_ofNat (by decide) ?_, fld_ofNat (by decide) ?_, fld_ofNat (by decide) ?_⟩ <;> omega

theorem encT_tFields {w : BitVec 64} (h : (fld w 62 2).toNat = 0) : encT (fld w 53 9).toNat (tFields w) = w.toNat := by
  have e := mod_two_pow_add w.toNat
  simp only [encT, tFields, b1_fld, toNat_fld]
  conv_rhs =>
    rw [toNat_of_class h, e 53 9, e 45 8, e 44 1, e 35 9, e 26 9, e 17 9, e 16 1, e 15 1, e 14 1, e 11 3, e 4 7]
  simp only [Nat.zero_mul, Nat.zero_add, Nat.add_assoc, pow_zero, pow_one, Nat.div_one]

theorem iFields_encI {opc : Nat} (f : IF) (ho : opc < 2 ^ 7) :
    (fld (BitVec.ofNat 64 (encI opc f)) 62 2).toNat = 2 ∧ (fld (BitVec.ofNat 64 (encI opc f)) 53 7).toNat = opc
      ∧ (fld (BitVec.ofNat 64 (encI opc f)) 0 2).toNat = 0 ∧ iFields (BitVec.ofNat 64 (encI opc f)) = f := by
  have := b1_lt f.nw; have := b1_lt f.ua
  have := f.w.isLt; have := f.dst.isLt; have := f.sa.isLt; have := f.imm.isLt
  rw [toNat_fld_ofNat (by decide), toNat_fld_ofNat (by decide), toNat_fld_ofNat (by decide), encI]
  refine ⟨by omega, by omega, by omega, ?_⟩
  rw [iFields, IF.mk.injEq]
  refine ⟨fld_ofNat (by decide) ?_, fld_ofNat (by decide) ?_, fld_ofNat (by decide) ?_, fld_ofNat (by decide) ?_,
    flag_ofNat (by decide) ?_, flag_ofNat (by decide) ?_⟩ <;> omega

theorem encI_iFields {w : BitVec 64} (h : (fld w 62 2).toNat = 2) (h0 : (fld w 0 2).toNat = 0) :
    encI (fld w 53 7).toNat (iFields w) = w.toNat := by
  have e := mod_two_pow_add w.toNat
  simp only [encI, iFields, b1_fld, toNat_fld] at h0 ⊢
  rw [pow_zero, Nat.div_one] at h0
  conv_rhs =>
    rw [toNat_of_class h, e 60 2, e 53 7, e 45 8, e 36 9, e 4 32, e 3 1, e 2 1, h0]
  simp only [Nat.add_zero, Nat.add_assoc, pow_one]

theorem xmFields_encXM {grp op : Nat} (f : XM) (hg : grp < 2 ^ 6) (ho : op < 2 ^ 6) :
    (fld (BitVec.ofNat 64 (encXM grp op f)) 62 2).toNat = 3 ∧ (fld (BitVec.ofNat 64 (encXM grp op f)) 56 6).toNat = grp
      ∧ (fld (BitVec.ofNat 64 (encXM grp op f)) 50 6).toNat = op ∧ xmFields (BitVec.ofNat 64 (encXM grp op f)) = f := by
  have := b1_lt f.rb
  have := f.data.isLt; have := f.addr.isLt; have := f.offs.isLt; have := f.scope.isLt; have := f.ord.isLt
  have := f.width.isLt; have := f.pln.isLt; have := f.guard.isLt
  rw [toNat_fld_ofNat (by decide), toNat_fld_ofNat (by decide), toNat_fld_ofNat (by decide), encXM]
  refine ⟨by omega, by omega, by omega, ?_⟩
  rw [xmFields, XM.mk.injEq]
  refine ⟨fld_ofNat (by decide) ?_, fld_ofNat (by decide) ?_, fld_ofNat (by decide) ?_, fld_ofNat (by decide) ?_,
    fld_ofNat (by decide) ?_, fld_ofNat (by decide) ?_, fld_ofNat (by decide) ?_, flag_ofNat (by decide) ?_,
    fld_ofNat (by decide) ?_⟩ <;> omega

theorem encXM_xmFields {w : BitVec 64} (h : (fld w 62 2).toNat = 3) :
    encXM (fld w 56 6).toNat (fld w 50 6).toNat (xmFields w) = w.toNat := by
  have e := mod_two_pow_add w.toNat
  simp only [encXM, xmFields, b1_fld, toNat_fld]
  conv_rhs =>
    rw [toNat_of_class h, e 56 6, e 50 6, e 42 8, e 34 8, e 18 16, e 15 3, e 13 2, e 10 3, e 8 2, e 7 1]
  simp only [Nat.add_assoc, pow_zero, pow_one, Nat.div_one]

theorem xbFields_encXB {op : Nat} (f : XB) (ho : op < 2 ^ 6) :
    (fld (BitVec.ofNat 64 (encXB op f)) 62 2).toNat = 3 ∧ (fld (BitVec.ofNat 64 (encXB op f)) 56 6).toNat = 0x10
      ∧ (fld (BitVec.ofNat 64 (encXB op f)) 50 6).toNat = op ∧ (fld (BitVec.ofNat 64 (encXB op f)) 32 6).toNat = 0
      ∧ (fld (BitVec.ofNat 64 (encXB op f)) 7 5).toNat = 0 ∧ xbFields (BitVec.ofNat 64 (encXB op f)) = f := by
  have := f.breg.isLt; have := f.mask.isLt; have := f.boff.isLt; have := f.guard.isLt
  rw [toNat_fld_ofNat (by decide), toNat_fld_ofNat (by decide), toNat_fld_ofNat (by decide), toNat_fld_ofNat (by decide),
    toNat_fld_ofNat (by decide), encXB]
  refine ⟨by omega, by omega, by omega, by omega, by omega, ?_⟩
  rw [xbFields, XB.mk.injEq]
  refine ⟨fld_ofNat (by decide) ?_, fld_ofNat (by decide) ?_, fld_ofNat (by decide) ?_, fld_ofNat (by decide) ?_⟩ <;> omega

theorem encXB_xbFields {w : BitVec 64} (h : (fld w 62 2).toNat = 3) (hg : (fld w 56 6).toNat = 0x10)
    (h32 : (fld w 32 6).toNat = 0) (h7 : (fld w 7 5).toNat = 0) : encXB (fld w 50 6).toNat (xbFields w) = w.toNat := by
  have e := mod_two_pow_add w.toNat
  simp only [encXB, xbFields, toNat_fld] at hg h32 h7 ⊢
  conv_rhs =>
    rw [toNat_of_class h, e 56 6, hg, e 50 6, e 42 8, e 38 4, e 32 6, h32, e 12 20, e 7 5, h7]
  simp only [Nat.zero_mul, Nat.zero_add, Nat.add_assoc, pow_zero, Nat.div_one]

theorem xeFields_encXE {grp op : Nat} (f : XE) (hg : grp < 2 ^ 6) (ho : op < 2 ^ 6) :
    (fld (BitVec.ofNat 64 (encXE grp op f)) 62 2).toNat = 3 ∧ (fld (BitVec.ofNat 64 (encXE grp op f)) 56 6).toNat = grp
      ∧ (fld (BitVec.ofNat 64 (encXE grp op f)) 50 6).toNat = op ∧ xeFields (BitVec.ofNat 64 (encXE grp op f)) = f := by
  have := f.e0.isLt; have := f.e1.isLt; have := f.e2.isLt; have := f.e3.isLt; have := f.e4.isLt
  have := f.flags.isLt; have := f.guard.isLt
  rw [toNat_fld_ofNat (by decide), toNat_fld_ofNat (by decide), toNat_fld_ofNat (by decide), encXE]
  refine ⟨by omega, by omega, by omega, ?_⟩
  rw [xeFields, XE.mk.injEq]
  refine ⟨fld_ofNat (by decide) ?_, fld_ofNat (by decide) ?_, fld_ofNat (by decide) ?_, fld_ofNat (by decide) ?_,
    fld_ofNat (by decide) ?_, fld_ofNat (by decide) ?_, fld_ofNat (by decide) ?_⟩ <;> omega

theorem encXE_xeFields {w : BitVec 64} (h : (fld w 62 2).toNat = 3) :
    encXE (fld w 56 6).toNat (fld w 50 6).toNat (xeFields w) = w.toNat := by
  have e := mod_two_pow_add w.toNat
  simp only [encXE, xeFields, toNat_fld]
  conv_rhs =>
    rw [toNat_of_class h, e 56 6, e 50 6, e 42 8, e 34 8, e 26 8, e 18 8, e 10 8, e 7 3]
  simp only [Nat.add_assoc, pow_zero, Nat.div_one]

/-! ### P words: a half at its place in the word -/

@[simp] theorem popOf_popNum (op : POp) : popOf (popNum op) = some op := by cases op <;> rfl

theorem popNum_of_popOf {n : Nat} {op : POp} (h : popOf n = some op) : popNum op = n := by
  unfold popOf at h
  split at h <;> cases h <;> rfl

theorem hFields_encH {a lo : Nat} (op : POp) (h : HF) (hlo : lo + 31 ≤ 64) (ha : a / 2 ^ lo % 2 ^ 31 = encH op h) :
    popOf (fld (BitVec.ofNat 64 a) (lo + 24) 7).toNat = some op ∧ hFields (BitVec.ofNat 64 a) lo = h := by
  have := popNum_lt op
  have := h.hdst.isLt; have := h.hsrc.isLt; have := h.hmod.isLt; have := h.himm.isLt
  have hd (k : Nat) : a / 2 ^ (lo + k) = a / 2 ^ lo / 2 ^ k := by rw [pow_add, Nat.div_div_eq_div_mul]
  generalize a / 2 ^ lo = b at ha hd
  rw [encH] at ha
  constructor
  · rw [toNat_fld_ofNat (by omega), hd, show b / 2 ^ 24 % 2 ^ 7 = popNum op by omega, popOf_popNum]
  · rw [hFields, HF.mk.injEq]
    refine ⟨fld_ofNat (by omega) ?_, fld_ofNat (by omega) ?_, fld_ofNat (by omega) ?_, fld_ofNat (by omega) ?_⟩
    · rw [hd]; omega
    · rw [hd]; omega
    · rw [hd]; omega
    · rw [← Nat.add_zero lo, hd]; omega

theorem encH_hFields {w : BitVec 64} {lo : Nat} {op : POp} (h : popOf (fld w (lo + 24) 7).toNat = some op) :
    encH op (hFields w lo) = w.toNat / 2 ^ lo % 2 ^ 31 := by
  have hd (k : Nat) : w.toNat / 2 ^ (lo + k) = w.toNat / 2 ^ lo / 2 ^ k := by rw [pow_add, Nat.div_div_eq_div_mul]
  rw [encH, popNum_of_popOf h]
  simp only [hFields, toNat_fld, hd]
  conv_rhs => rw [mod_two_pow_add _ 24 7, mod_two_pow_add _ 17 7, mod_two_pow_add _ 8 9, mod_two_pow_add _ 4 4]
  simp only [Nat.add_assoc]

theorem hFields_encP (op0 : POp) (h0 : HF) (op1 : POp) (h1 : HF) :
    let w := BitVec.ofNat 64 (2 ^ 62 + encH op0 h0 * 2 ^ 31 + encH op1 h1)
    (fld w 62 2).toNat = 1 ∧ popOf (fld w 55 7).toNat = some op0 ∧ popOf (fld w 24 7).toNat = some op1
      ∧ hFields w 31 = h0 ∧ hFields w 0 = h1 := by
  intro w
  have := encH_lt op0 h0; have := encH_lt op1 h1
  obtain ⟨ho0, hf0⟩ := hFields_encH (a := 2 ^ 62 + encH op0 h0 * 2 ^ 31 + encH op1 h1) (lo := 31) op0 h0 (by decide) (by omega)
  obtain ⟨ho1, hf1⟩ := hFields_encH (a := 2 ^ 62 + encH op0 h0 * 2 ^ 31 + encH op1 h1) (lo := 0) op1 h1 (by decide) (by omega)
  refine ⟨?_, ho0, ho1, hf0, hf1⟩
  rw [toNat_fld_ofNat (by decide)]
  omega

theorem encP_hFields {w : BitVec 64} {op0 op1 : POp} (h : (fld w 62 2).toNat = 1) (h0 : popOf (fld w 55 7).toNat = some op0)
    (h1 : popOf (fld w 24 7).toNat = some op1) : 2 ^ 62 + encH op0 (hFields w 31) * 2 ^ 31 + encH op1 (hFields w 0) = w.toNat := by
  rw [encH_hFields h0, encH_hFields h1]
  conv_rhs => rw [toNat_of_class h, mod_two_pow_add w.toNat 31 31]
  simp only [Nat.one_mul, Nat.add_assoc, pow_zero, Nat.div_one]

/-! ### What a class selects -/

theorem select_t {w : BitVec 64} (h : (fld w 62 2).toNat = 0) : select w = tInstr (fld w 53 9).toNat (tFields w) := by
  simp only [select, h]

theorem select_p {w : BitVec 64} {op0 op1 : POp} (h : (fld w 62 2).toNat = 1) (h0 : popOf (fld w 55 7).toNat = some op0)
    (h1 : popOf (fld w 24 7).toNat = some op1) : select w = some (pInstr op0 (hFields w 31) op1 (hFields w 0)) := by
  simp only [select, h, h0, h1]

/-- A P word that selects an instruction has two P-opcodes. -/
theorem popOf_of_select {w : BitVec 64} {i : Instr} (h : (fld w 62 2).toNat = 1) (hs : select w = some i) :
    ∃ op0 op1, popOf (fld w 55 7).toNat = some op0 ∧ popOf (fld w 24 7).toNat = some op1 := by
  rw [select, h] at hs
  cases h0 : popOf (fld w 55 7).toNat with
  | none => simp [h0] at hs
  | some op0 =>
    cases h1 : popOf (fld w 24 7).toNat with
    | none => simp [h0, h1] at hs
    | some op1 => exact ⟨op0, op1, rfl, rfl⟩

theorem select_i {w : BitVec 64} (h : (fld w 62 2).toNat = 2) : select w = iInstr (fld w 53 7).toNat (iFields w) := by
  simp only [select, h]

theorem select_xm {w : BitVec 64} (h : (fld w 62 2).toNat = 3) (hg : (fld w 56 6).toNat < 2) :
    select w = xmInstr (fld w 56 6).toNat (fld w 50 6).toNat (xmFields w) := by
  rw [select, h]
  exact if_pos hg

theorem select_xb {w : BitVec 64} (h : (fld w 62 2).toNat = 3) (hg : (fld w 56 6).toNat = 0x10) :
    select w = xbInstr (fld w 50 6).toNat (xbFields w) := by
  rw [select, h]
  simp [hg]

theorem select_xe {w : BitVec 64} (h : (fld w 62 2).toNat = 3) (hg : 2 ≤ (fld w 56 6).toNat) (hb : (fld w 56 6).toNat ≠ 0x10) :
    select w = xeInstr (fld w 56 6).toNat (fld w 50 6).toNat (xeFields w) := by
  rw [select, h]
  simp [hb, Nat.not_lt.2 hg]

theorem reservedClear_tp {w : BitVec 64} (h : (fld w 62 2).toNat < 2) : reservedClear w = true := by
  rw [reservedClear]
  split
  · omega
  · omega
  · rfl

theorem reservedClear_i {w : BitVec 64} (h : (fld w 62 2).toNat = 2) : reservedClear w = true ↔ (fld w 0 2).toNat = 0 := by
  rw [reservedClear, h]
  simp [← BitVec.toNat_inj]

theorem reservedClear_x {w : BitVec 64} (h : (fld w 62 2).toNat = 3) :
    reservedClear w = true ↔ ((fld w 56 6).toNat = 0x10 → (fld w 32 6).toNat = 0 ∧ (fld w 7 5).toNat = 0) := by
  rw [reservedClear, h]
  simp [← BitVec.toNat_inj, imp_iff_not_or]

/-! ### Instructions and their views -/

/-- The instruction that a view's numbers name. -/
def View.instr : View → Option Instr
  | .t opc f => tInstr opc f
  | .i opc f => iInstr opc f
  | .p op0 h0 op1 h1 => some (pInstr op0 h0 op1 h1)
  | .xm grp op f => xmInstr grp op f
  | .xb op f => xbInstr op f
  | .xe grp op f => xeInstr grp op f
  | .kln fn rd rs1 rs2 => klnInstr fn rd rs1 rs2
  | .event => none

/-- The flags of a `TPOOL` word are two bits (R368). -/
theorem Shape.flags_le_of_tpool {f : XE} (h : Shape.xeOk 0x30 0 f = true) : f.flags.toNat ≤ 3 := by
  have h : (if f.flags.toNat ≤ 1 then even f.e0 && zeroFrom 2 f else f.flags.toNat ≤ 3 && zeroFrom 0 f) = true :=
    (Bool.and_eq_true_iff.1 h).2
  split at h
  · omega
  · exact of_decide_eq_true (Bool.and_eq_true_iff.1 h).1

/-- A well-formed instruction that has an encoding is the one that its view names: of the rows that share an operation code, the flag
tells which. -/
theorem Instr.instr_view {i : Instr} (h : i.wellFormed = true) : i.view.instr = (encode i).map fun _ => i := by
  have hw := (Bool.and_eq_true_iff.1 h).2
  cases i with
  | mwr f | mwrMem f => simp [Instr.view, View.instr, xeInstr, encode, beq_iff_eq.1 hw]
  | tpool f =>
    have hf : f.flags.toNat / 2 % 2 = 0 := by have := of_decide_eq_true hw; omega
    simp [Instr.view, View.instr, xeInstr, encode, hf]
  | tpoolEmpty f =>
    have hf : f.flags.toNat / 2 % 2 = 1 := by
      have := of_decide_eq_true hw
      have := Shape.flags_le_of_tpool (Bool.and_eq_true_iff.1 h).1
      omega
    simp [Instr.view, View.instr, xeInstr, encode, hf]
  | _ => rfl

theorem view_of_tInstr {opc : Nat} {f : TF} {i : Instr} (h : tInstr opc f = some i) : i.view = .t opc f ∧ opc < 512 := by
  unfold tInstr at h
  split at h <;> cases h <;> exact ⟨rfl, by decide⟩

theorem view_of_iInstr {opc : Nat} {f : IF} {i : Instr} (h : iInstr opc f = some i) : i.view = .i opc f ∧ opc < 128 := by
  unfold iInstr at h
  split at h <;> cases h <;> exact ⟨rfl, by decide⟩

theorem view_pInstr (op0 : POp) (h0 : HF) (op1 : POp) (h1 : HF) : (pInstr op0 h0 op1 h1).view = .p op0 h0 op1 h1 := by
  cases op0 <;> rfl

theorem view_of_xmInstr {grp op : Nat} {f : XM} {i : Instr} (h : xmInstr grp op f = some i) :
    i.view = .xm grp op f ∧ grp < 2 ∧ op < 64 := by
  unfold xmInstr at h
  split at h <;> cases h <;> exact ⟨rfl, by decide, by decide⟩

theorem view_of_xbInstr {op : Nat} {f : XB} {i : Instr} (h : xbInstr op f = some i) : i.view = .xb op f ∧ op < 64 := by
  unfold xbInstr at h
  split at h <;> cases h <;> exact ⟨rfl, by decide⟩

theorem view_of_xeInstr {grp op : Nat} {f : XE} {i : Instr} (h : xeInstr grp op f = some i) :
    i.view = .xe grp op f ∧ 2 ≤ grp ∧ grp < 64 ∧ grp ≠ 0x10 ∧ op < 64 := by
  unfold xeInstr at h
  split at h <;> cases h <;> refine ⟨?_, by decide, by decide, by decide, by decide⟩
  any_goals rfl
  -- the operation codes that two rows share: `MWR`, then `TPOOL`
  · split <;> rfl
  · split <;> rfl

theorem view_of_klnInstr {fn : Nat} {rd rs1 rs2 : BitVec 5} {i : Instr} (h : klnInstr fn rd rs1 rs2 = some i) :
    i.view = .kln fn rd rs1 rs2 ∧ fn < 8 := by
  unfold klnInstr at h
  split at h <;> cases h <;> exact ⟨rfl, by decide⟩

/-- Every field of an Xkelren word is free (R58). -/
theorem wellFormed_of_klnInstr {fn : Nat} {rd rs1 rs2 : BitVec 5} {i : Instr} (h : klnInstr fn rd rs1 rs2 = some i) :
    i.wellFormed = true := by
  unfold klnInstr at h
  split at h <;> cases h <;> rfl

/-! ### Decoding and encoding -/

/-- A 64-bit word selects an instruction, and the bits that belong to no field are zero. -/
def Selects (w : BitVec 64) (i : Instr) : Prop := select w = some i ∧ reservedClear w = true

theorem decode_eq_ok {w : BitVec 64} {i : Instr} : decode w = .ok i ↔ Selects w i ∧ i.wellFormed = true := by
  rw [decode, Selects]
  cases select w with
  | none => simp
  | some j =>
    simp only [Option.some.injEq]
    split
    · next h =>
      rw [Bool.and_eq_true_iff] at h
      exact ⟨by rintro ⟨⟩; exact ⟨⟨rfl, h.1⟩, h.2⟩, by rintro ⟨⟨rfl, -⟩, -⟩; rfl⟩
    · next h => exact ⟨nofun, by rintro ⟨⟨rfl, hr⟩, hw⟩; exact absurd (Bool.and_eq_true_iff.2 ⟨hr, hw⟩) h⟩

theorem decodeHart_eq_some {w : BitVec 32} {i : Instr} :
    decodeHart w = some i ↔ w.toNat % 2 ^ 7 = 0x0B ∧ w.toNat / 2 ^ 25 = 0 ∧ klnInstr (w.toNat / 2 ^ 12 % 8)
      (BitVec.ofNat 5 (w.toNat / 2 ^ 7)) (BitVec.ofNat 5 (w.toNat / 2 ^ 15)) (BitVec.ofNat 5 (w.toNat / 2 ^ 20)) = some i := by
  simp only [decodeHart, Option.ite_none_right_eq_some, Bool.and_eq_true, beq_iff_eq, and_assoc]

theorem decodeHart_encode {fn : Nat} {rd rs1 rs2 : BitVec 5} {i : Instr} (h : klnInstr fn rd rs1 rs2 = some i) (hf : fn < 8) :
    decodeHart (BitVec.ofNat 32 (rs2.toNat * 2 ^ 20 + rs1.toNat * 2 ^ 15 + fn * 2 ^ 12 + rd.toNat * 2 ^ 7 + 0x0B)) = some i := by
  have := rd.isLt; have := rs1.isLt; have := rs2.isLt
  have hw : rs2.toNat * 2 ^ 20 + rs1.toNat * 2 ^ 15 + fn * 2 ^ 12 + rd.toNat * 2 ^ 7 + 0x0B < 2 ^ 32 := by omega
  have hreg {a : Nat} {r : BitVec 5} (ha : a % 2 ^ 5 = r.toNat) : BitVec.ofNat 5 a = r := BitVec.eq_of_toNat_eq ha
  rw [decodeHart_eq_some, BitVec.toNat_ofNat, Nat.mod_eq_of_lt hw]
  refine ⟨by omega, by omega, ?_⟩
  rw [hreg (r := rd) (by omega), hreg (r := rs1) (by omega), hreg (r := rs2) (by omega), ← h]
  congr 1
  omega

theorem encode_of_decodeHart {w : BitVec 32} {i : Instr} (h : decodeHart w = some i) : encode i = some (32, w.toNat) := by
  obtain ⟨h7, h25, hi⟩ := decodeHart_eq_some.1 h
  obtain ⟨hv, -⟩ := view_of_klnInstr hi
  simp only [encode, hv, BitVec.toNat_ofNat, Option.some.injEq, Prod.mk.injEq, true_and]
  omega

theorem selects_encT {opc : Nat} {f : TF} {i : Instr} (h : tInstr opc f = some i) : Selects (BitVec.ofNat 64 (encT opc f)) i := by
  obtain ⟨hc, hopc, hf⟩ := tFields_encT f (view_of_tInstr h).2
  exact ⟨by rw [select_t hc, hopc, hf, h], reservedClear_tp (by omega)⟩

theorem selects_encI {opc : Nat} {f : IF} {i : Instr} (h : iInstr opc f = some i) : Selects (BitVec.ofNat 64 (encI opc f)) i := by
  obtain ⟨hc, hopc, h0, hf⟩ := iFields_encI f (view_of_iInstr h).2
  exact ⟨by rw [select_i hc, hopc, hf, h], (reservedClear_i hc).2 h0⟩

theorem selects_encP (op0 : POp) (h0 : HF) (op1 : POp) (h1 : HF) :
    Selects (BitVec.ofNat 64 (2 ^ 62 + encH op0 h0 * 2 ^ 31 + encH op1 h1)) (pInstr op0 h0 op1 h1) := by
  obtain ⟨hc, ho0, ho1, hf0, hf1⟩ := hFields_encP op0 h0 op1 h1
  exact ⟨by rw [select_p hc ho0 ho1, hf0, hf1], reservedClear_tp (by omega)⟩

theorem selects_encXM {grp op : Nat} {f : XM} {i : Instr} (h : xmInstr grp op f = some i) :
    Selects (BitVec.ofNat 64 (encXM grp op f)) i := by
  obtain ⟨-, hg, ho⟩ := view_of_xmInstr h
  obtain ⟨hc, hgrp, hop, hf⟩ := xmFields_encXM f (hg.trans (by decide)) ho
  exact ⟨by rw [select_xm hc (by omega), hgrp, hop, hf, h], (reservedClear_x hc).2 (by omega)⟩

theorem selects_encXB {op : Nat} {f : XB} {i : Instr} (h : xbInstr op f = some i) : Selects (BitVec.ofNat 64 (encXB op f)) i := by
  obtain ⟨hc, hgrp, hop, h32, h7, hf⟩ := xbFields_encXB f (view_of_xbInstr h).2
  exact ⟨by rw [select_xb hc hgrp, hop, hf, h], (reservedClear_x hc).2 fun _ => ⟨h32, h7⟩⟩

theorem selects_encXE {grp op : Nat} {f : XE} {i : Instr} (h : xeInstr grp op f = some i) :
    Selects (BitVec.ofNat 64 (encXE grp op f)) i := by
  obtain ⟨-, hg, hg', hb, ho⟩ := view_of_xeInstr h
  obtain ⟨hc, hgrp, hop, hf⟩ := xeFields_encXE f hg' ho
  exact ⟨by rw [select_xe hc (by omega) (by omega), hgrp, hop, hf, h], (reservedClear_x hc).2 (by omega)⟩

/-- An instruction that its view names has an encoding that fits in its bits. -/
theorem bits_of_instr_view {i : Instr} (h : i.view.instr = some i) : Statement i := by
  cases hv : i.view with
  | t => exact bits_t hv (view_of_tInstr (hv ▸ h)).2
  | i => exact bits_i hv (view_of_iInstr (hv ▸ h)).2
  | p => exact bits_p hv
  | xm =>
    obtain ⟨-, hg, ho⟩ := view_of_xmInstr (hv ▸ h)
    exact bits_xm hv (hg.trans (by decide)) ho
  | xb => exact bits_xb hv (view_of_xbInstr (hv ▸ h)).2
  | xe =>
    obtain ⟨-, -, hg, -, ho⟩ := view_of_xeInstr (hv ▸ h)
    exact bits_xe hv hg ho
  | kln => exact bits_kln hv (view_of_klnInstr (hv ▸ h)).2
  | event => exact bits_event hv

/-- An instruction that its view names is what its encoding selects, as a Filgon word or as a word of Xkelren. -/
theorem selects_encode {i : Instr} {n w : Nat} (h : i.view.instr = some i) (he : encode i = some (n, w)) :
    n = 64 ∧ Selects (BitVec.ofNat 64 w) i ∨ n = 32 ∧ decodeHart (BitVec.ofNat 32 w) = some i := by
  rw [encode] at he
  cases hv : i.view <;> rw [hv] at h he <;> cases he
  case t => exact .inl ⟨rfl, selects_encT h⟩
  case i => exact .inl ⟨rfl, selects_encI h⟩
  case p =>
    cases h
    exact .inl ⟨rfl, selects_encP _ _ _ _⟩
  case xm => exact .inl ⟨rfl, selects_encXM h⟩
  case xb => exact .inl ⟨rfl, selects_encXB h⟩
  case xe => exact .inl ⟨rfl, selects_encXE h⟩
  case kln => exact .inr ⟨rfl, decodeHart_encode h (view_of_klnInstr h).2⟩

theorem encode_of_selects {w : BitVec 64} {i : Instr} (h : Selects w i) : encode i = some (64, w.toNat) := by
  obtain ⟨hs, hr⟩ := h
  have hlt := (fld w 62 2).isLt
  obtain hc | hc | hc | hc : (fld w 62 2).toNat = 0 ∨ (fld w 62 2).toNat = 1 ∨ (fld w 62 2).toNat = 2 ∨ (fld w 62 2).toNat = 3 := by
    omega
  · obtain ⟨hv, -⟩ := view_of_tInstr (select_t hc ▸ hs)
    simp only [encode, hv, encT_tFields hc]
  · obtain ⟨op0, op1, h0, h1⟩ := popOf_of_select hc hs
    obtain rfl := Option.some.inj ((select_p hc h0 h1).symm.trans hs)
    simp only [encode, view_pInstr, encP_hFields hc h0 h1]
  · obtain ⟨hv, -⟩ := view_of_iInstr (select_i hc ▸ hs)
    simp only [encode, hv, encI_iFields hc ((reservedClear_i hc).1 hr)]
  · obtain hg | hb | ⟨hg, hb⟩ : (fld w 56 6).toNat < 2 ∨ (fld w 56 6).toNat = 0x10
        ∨ 2 ≤ (fld w 56 6).toNat ∧ (fld w 56 6).toNat ≠ 0x10 := by omega
    · obtain ⟨hv, -⟩ := view_of_xmInstr (select_xm hc hg ▸ hs)
      simp only [encode, hv, encXM_xmFields hc]
    · obtain ⟨hv, -⟩ := view_of_xbInstr (select_xb hc hb ▸ hs)
      obtain ⟨h32, h7⟩ := (reservedClear_x hc).1 hr hb
      simp only [encode, hv, encXB_xbFields hc hb h32 h7]
    · obtain ⟨hv, -⟩ := view_of_xeInstr (select_xe hc hg hb ▸ hs)
      simp only [encode, hv, encXE_xeFields hc]

/-- Settles O56: an instruction is the one that its view names, and its view is what the slices of its encoding give. -/
theorem decodeEncode : Obligations.DecodeEncode := by
  unfold Obligations.DecodeEncode
  intro i n w hwf he
  have hi : i.view.instr = some i := by rw [i.instr_view hwf, he]; rfl
  refine ⟨bits_of_instr_view hi n w he, ?_⟩
  obtain ⟨rfl, hs⟩ | ⟨rfl, hd⟩ := selects_encode hi he
  · have hd : decode (BitVec.ofNat 64 w) = .ok i := decode_eq_ok.2 ⟨hs, hwf⟩
    simp [decodeTableWord, hd]
  · exact hd

/-- Settles O57: the slices of a word, put together again, are the word. -/
theorem encodeDecode : Obligations.EncodeDecode := by
  unfold Obligations.EncodeDecode
  refine ⟨fun w i h => ?_, fun w i h => ?_⟩
  · obtain ⟨hs, hwf⟩ := decode_eq_ok.1 h
    exact ⟨encode_of_selects hs, hwf⟩
  · obtain ⟨-, -, hi⟩ := decodeHart_eq_some.1 h
    exact ⟨encode_of_decodeHart h, wellFormed_of_klnInstr hi⟩

/-- Settles O55: each of the words is decoded. -/
theorem decodeExamples : Obligations.DecodeExamples := by
  unfold Obligations.DecodeExamples
  decide

end Sys2Proof

/-! PROOF. The I forms and the P forms (spec/12_formats_and_opcode_map.md R261 to R263). -/
namespace Sys2Proof
open Machine

theorem exec_intRowsI (f : IF) (s : State) : ∀ r ∈ intRowsI f, exec r.1 s = s.intI r.2 f := by
  simp only [intRowsI, List.forall_mem_cons, List.not_mem_nil, false_implies, implies_true, and_true]
  and_intros <;> rfl

theorem exec_fpRowsI (f : IF) (s : State) : ∀ r ∈ fpRowsI f, exec r.1 s = s.fpI r.2 f := by
  simp only [fpRowsI, List.forall_mem_cons, List.not_mem_nil, false_implies, implies_true, and_true]
  and_intros <;> rfl

theorem exec_halfRows (h0 : HF) (op1 : POp) (h1 : HF) (s : State) :
    ∀ r ∈ halfRows h0 op1 h1, exec r.1 s = s.half r.2 h0 op1 h1 := by
  simp only [halfRows, List.forall_mem_cons, List.not_mem_nil, false_implies, implies_true, and_true]
  and_intros <;> rfl

/-- Settles O2: each row runs the I form with the operation of its opcode (R261), and the run of an I form with nothing before it is done. -/
theorem immediateWords : Obligations.ImmediateWords := by
  unfold Obligations.ImmediateWords
  intro s f m i opc h
  exact ⟨fun hr => ⟨_, exec_intRowsI f s _ hr, State.runI_done h _ _⟩, fun hr => ⟨_, exec_fpRowsI f s _ hr, State.runI_done h _ _⟩⟩

/-- Settles O3: each row runs the P form with the operation of its half 0 (R262), and the run of a P form with nothing before it is done. -/
theorem halfWords : Obligations.HalfWords := by
  unfold Obligations.HalfWords
  intro s h0 op1 h1 m i op0 hr h
  exact ⟨_, exec_halfRows h0 op1 h1 s _ hr, State.runP_done h⟩

end Sys2Proof

/-! PROOF. The T words of the integer, logic, arithmetic and function blocks (spec/13_isa_integer_control_lanes.md R281 to R286,
spec/14_isa_float_and_blocks.md R301 to R309). -/
namespace Sys2Proof
open Machine

theorem exec_intRows (f : TF) (s : State) : ∀ r ∈ intRows f, exec r.1 s = s.intT r.2 f := by
  simp only [intRows, List.forall_mem_cons, List.not_mem_nil, false_implies, implies_true, and_true]
  and_intros <;> rfl

theorem exec_fpRows (f : TF) (s : State) : ∀ r ∈ fpRows f, exec r.1 s = s.fpT r.2 f := by
  simp only [fpRows, List.forall_mem_cons, List.not_mem_nil, false_implies, implies_true, and_true]
  and_intros <;> rfl

/-- Settles O1: each row runs the T form with the operation of its opcode (R256), and the run of a T form with nothing before it is done. -/
theorem arithmeticWords : Obligations.ArithmeticWords := by
  unfold Obligations.ArithmeticWords
  exact ⟨fun s f m i opc hr h => ⟨_, exec_intRows f s _ hr, State.runT_done h _⟩,
    fun s f m i opc hr h => ⟨_, exec_fpRows f s _ hr, State.runT_done h _⟩⟩

end Sys2Proof

/-! PROOF. The cross-lane words (spec/13_isa_integer_control_lanes.md R288 to R292). -/
namespace Sys2Proof.Machine

/-- `XPERM` gives zero for a row that the slot does not have, and for a pattern byte with its top bit set (R290). -/
theorem xperm_cases (row e : Nat) (x : Dword) :
    (if 8 ≤ row then 0 else if 128 ≤ e then 0 else x) = if row < 8 ∧ e < 128 then x else 0 := by
  grind

/-- The three tests of `VOTE` as statements about the lanes of the set (R291). -/
theorem vote_test (md : Nat) (js : List Nat) (a : Nat → Dword) (l : Nat) :
    (if md = 0 then js.all fun j => (a j).toNat % 2 == 1
      else if md = 1 then js.any fun j => (a j).toNat % 2 == 1
      else js.all fun j => a j == a l) = true ↔
    if md = 0 then ∀ j ∈ js, (a j).toNat % 2 = 1 else if md = 1 then ∃ j ∈ js, (a j).toNat % 2 = 1 else ∀ j ∈ js, a j = a l := by
  split_ifs <;> simp

end Sys2Proof.Machine

namespace Sys2Proof
open Machine

/-- Settles O6: each word is a T word, whose operation sees the operands of all lanes. -/
theorem crossLaneWords : Obligations.CrossLaneWords := by
  unfold Obligations.CrossLaneWords
  intro s f m
  refine ⟨fun h => ⟨_, rfl, State.runT_done h _⟩, fun h => ⟨_, rfl, ?_⟩, fun h => ⟨_, rfl, ?_⟩, fun h => ⟨_, rfl, State.runT_done h _⟩,
    fun h => ⟨_, rfl, State.runT_done h _⟩, fun h => ⟨_, rfl, State.runT_done h _⟩⟩
  · simpa only [xperm_cases] using State.runT_done h _
  · simpa only [vote_test] using State.runT_done h _

end Sys2Proof

/-! PROOF. What `SHFL` and an additive `SCAN` give (spec/13_isa_integer_control_lanes.md R289, R292). -/
namespace Sys2Proof.Machine

/-- `SHFL` by its source lane: when `p` holds that lane is `j`, of which a lane outside the active set gives zero; otherwise it does not
exist, and a lane keeps its own value (R289). -/
theorem shuffle_eq {mode l j : Nat} {act : Lanes} {a b : Nat → Dword} (src : Int) {p : Prop} [Decidable p]
    (hs : shuffleSrc (mode % 4) l ((b l).toNat % 2 ^ 32) = src) (hin : p → src = j ∧ j < 32) (hout : ¬ p → src < 0 ∨ 31 < src) :
    shuffle mode act a b l = if p then (if act.getLsbD j then a j else 0) else a l := by
  unfold shuffle
  simp only [hs]
  by_cases h : p
  · obtain ⟨rfl, hj⟩ := hin h
    rw [if_neg (by simp; omega), if_pos h, Int.toNat_natCast]
  · rw [if_pos (by simpa using hout h), if_neg h]

/-- Lanes come in pairs under XOR: both exist, or neither does. -/
theorem xor_lt_lanes_iff {l k : Nat} (hl : l < 32) : l ^^^ k < 32 ↔ k < 32 := by
  have h {x : Nat} (hx : x < 32) : l ^^^ x < 32 := Nat.xor_lt_two_pow (n := 5) hl hx
  refine ⟨fun hx => ?_, h⟩
  simpa [← Nat.xor_assoc] using h hx

theorem toNat_lowBits_natCast {w : Nat} (hw : w ≤ 64) (n : Nat) : (lowBits w n).toNat = n % 2 ^ w := by
  have hlt : n % 2 ^ w < 2 ^ 64 := (Nat.mod_lt _ (by positivity)).trans_le (Nat.pow_le_pow_right (by decide) hw)
  rw [lowBits, BitVec.toNat_ofNat, ← Nat.cast_ofNat, ← Nat.cast_pow, ← Int.natCast_mod, Int.toNat_natCast, Nat.mod_eq_of_lt hlt]

/-- Additive steps from `x` give the sum of `x` and the lanes' values, wrapped to the width. -/
theorem toNat_foldl_scanAdd {w : Nat} (hw : w ≤ 64) (a : Nat → Dword) (js : List Nat) {x : Dword} (hx : x.toNat < 2 ^ w) :
    (js.foldl (fun acc j => scanOp 0 w acc (a j)) x).toNat = (x.toNat + (js.map fun j => (a j).toNat).sum) % 2 ^ w := by
  induction js generalizing x with
  | nil => simp [Nat.mod_eq_of_lt hx]
  | cons j js ih =>
    have hstep : (scanOp 0 w x (a j)).toNat = (x.toNat + (a j).toNat) % 2 ^ w := by
      rw [scanOp, ← Nat.cast_add, toNat_lowBits_natCast hw]
    have hlt : (scanOp 0 w x (a j)).toNat < 2 ^ w := hstep ▸ Nat.mod_lt _ (by positivity)
    rw [List.foldl_cons, ih hlt, hstep, Nat.mod_add_mod, List.map_cons, List.sum_cons, Nat.add_assoc]

end Sys2Proof.Machine

namespace Sys2Proof
open Machine

/-- Settles O7: the lane that each mode names exists or does not; a scan's steps are sums. -/
theorem shufflesAndScans : Obligations.ShufflesAndScans := by
  unfold Obligations.ShufflesAndScans
  refine ⟨fun act a b l hl => ?_, fun w js a hw => ?_⟩
  · generalize hk : (b l).toNat % 2 ^ 32 = k
    have hx := xor_lt_lanes_iff (k := k) hl
    exact ⟨shuffle_eq k (by rw [hk]; rfl) (by omega) (by omega), shuffle_eq (l - k) (by rw [hk]; rfl) (by omega) (by omega),
      shuffle_eq (l + k) (by rw [hk]; rfl) (by omega) (by omega), shuffle_eq (l ^^^ k : Nat) (by rw [hk]; rfl) (by omega) (by omega)⟩
  · have h : w ≤ 64 := by omega
    simpa [scanId] using toNat_foldl_scanAdd h a js (x := 0) (by simp)

end Sys2Proof

/-! PROOF. The control words (spec/13_isa_integer_control_lanes.md R293 to R298, spec/05_cores_and_execution.md R97, R98). -/
namespace Sys2Proof.Machine

/-! ### Rules of the group (R97, R100) -/

section group
variable (g : Group)

theorem Group.laneAt64_advance_pcs (m : Lanes) (l : Nat) :
    laneAt64 (g.advance m).pcs l = if m.getLsbD l then laneAt64 g.pcs l + 8 else laneAt64 g.pcs l := by
  rw [Group.advance, laneAt64_rowSet64]

theorem Group.v_setReg64_ne (r : Nat) (m : Lanes) (f : Nat → Dword) (l : Nat) {q : Nat} (h0 : q ≠ r) (h1 : q ≠ r + 1) :
    (g.setReg64 r m f).v l q = g.v l q := by
  rw [Group.setReg64, Group.v_setReg_ne _ _ _ _ _ _ h1, Group.v_setReg_ne _ _ _ _ _ _ h0]

end group

/-! ### Jumps -/

section jump
variable {s t : State} {n : Needs} {m : Lanes}

/-- The PCs after a jump: the active lanes of the run at theirs, its others after the word. -/
def State.jumped (s : State) (m : Lanes) (pc : Nat → Dword) : Row64 :=
  rowSet64 (s.cur.advance (s.iss.run &&& ~~~m)).pcs (s.iss.run &&& m) pc

theorem State.laneAt64_jumped (s : State) (m : Lanes) (pc : Nat → Dword) (l : Nat) : laneAt64 (s.jumped m pc) l =
    if s.iss.run.getLsbD l then (if m.getLsbD l then pc l else laneAt64 s.cur.pcs l + 8) else laneAt64 s.cur.pcs l := by
  rw [State.jumped, laneAt64_rowSet64, Group.laneAt64_advance_pcs]
  by_cases hr : s.iss.run.getLsbD l
  · have hl : l < 32 := BitVec.lt_of_getLsbD hr
    simp only [BitVec.getLsbD_and, BitVec.getLsbD_not, hr, hl, Bool.true_and, decide_true, if_true]
    cases m.getLsbD l <;> rfl
  · simp [hr]

/-- A jump moves the PCs alone. -/
theorem State.jump_eq (s : State) (m : Lanes) (pc : Nat → Dword) : s.jump m pc = (s.setCur { s.cur with pcs := s.jumped m pc }).markIssued := by
  simp only [State.jump, State.jumped, Group.setPcs, Group.advance]

/-- A control word that writes the group `g`, whose PCs are as they were, and jumps. -/
theorem State.runX_jump {g : State → Lanes → Group} {pc : State → Lanes → Nat → Dword} (h : s.Clear n m)
    (hpcs : (g s m).pcs = s.cur.pcs) (hslot : (g s m).slot = s.cur.slot) :
    Jumped s (s.runX n noFault fun s m => some ((s.setCur (g s m)).jump m (pc s m))) m (g s m) (pc s m) := by
  have hj : ((s.setCur (g s m)).jumped m (pc s m)) = s.jumped m (pc s m) := by
    simp only [State.jumped, State.cur_setCur, State.iss_setCur, Group.advance, hpcs]
  have hx := State.runX_done (g := { g s m with pcs := s.jumped m (pc s m) }) (fault := noFault)
    (act := fun s m => some ((s.setCur (g s m)).jump m (pc s m))) h rfl
    (by simp only [State.jump_eq, hj, State.cur_setCur, State.setCur_setCur]) hslot
  have hc := hx.group
  refine ⟨?_, fun l => ?_⟩
  · rw [hc]
    exact hx
  · rw [hc]
    exact s.laneAt64_jumped m (pc s m) l

/-- A control word that only jumps. -/
theorem State.runX_jump_cur {pc : State → Lanes → Nat → Dword} (h : s.Clear n m) :
    Jumped s (s.runX n noFault fun s m => some (s.jump m (pc s m))) m s.cur (pc s m) := by
  have hs : (fun (s : State) m => some (s.jump m (pc s m))) = fun s m => some ((s.setCur s.cur).jump m (pc s m)) := by
    funext s m
    simp [State.jump_eq, State.jumped, State.setCur_setCur]
  rw [hs]
  exact State.runX_jump (g := fun s _ => s.cur) h rfl rfl

/-- The registers after a call: the pair holds the link in the active lanes, and every other register stands (R294). -/
theorem Jumped.linked {k : Nat} {x : Dword} {pc : Nat → Dword} (h : Jumped s t m (s.cur.setReg64 k m fun _ => x) pc) :
    (∀ l, t.cur.v64 l k = if m.getLsbD l then x else s.cur.v64 l k)
      ∧ ∀ l q, q ≠ k → q ≠ k + 1 → t.cur.v l q = s.cur.v l q := by
  have hv : t.cur.v = (s.cur.setReg64 k m fun _ => x).v := by
    rw [h.1.group]
    exact Group.v_of_regs rfl
  refine ⟨fun l => ?_, fun l q h0 h1 => ?_⟩
  · have h64 := s.cur.v64_setReg64 k m l fun _ => x
    rwa [Group.v64, ← hv] at h64
  · rw [hv, Group.v_setReg64_ne _ _ _ _ _ h0 h1]

end jump

/-! ### The other control words (R295, R297) -/

/-- A word that only moves on. -/
theorem State.runX_advance {s : State} {n : Needs} {m : Lanes} {fault : Lanes → Option DataFault}
    {act : State → Lanes → Option State} (h : s.Clear n m) (hf : fault m = none) (ha : act s m = some s.advance) :
    XDone s (s.runX n fault act) (s.cur.advance s.iss.run) :=
  State.runX_done h hf ha (by simp)

/-- `YIELD`'s effect with active lanes: the quantum of its slot is over (R295). -/
def State.yields (s : State) : State :=
  let t := s.advance
  let u := t.setSlot t.cur.slot { t.slot t.cur.slot with expired := true }
  { u with iss := { u.iss with yielded := u.cur.split } }

theorem State.yields_spec (s : State) : (s.yields.afterX.slot s.cur.slot).expired = true
    ∧ s.yields.afterX.iss.yielded = (s.cur.advance s.iss.run).split
    ∧ s.yields.afterX.cur = { s.cur.advance s.iss.run with lvalid := 0 } ∧ ∀ a, s.yields.afterX.rd a = s.rd a := by
  have hcur : s.yields.cur = s.cur.advance s.iss.run := s.advance_cur
  refine ⟨?_, ?_, ?_, fun a => ?_⟩
  · rw [State.afterX, State.setCache_slot]
    show (s.yields.slot s.cur.slot).expired = true
    have hs : s.advance.cur.slot = s.cur.slot := by simp
    show ((s.advance.setSlot s.advance.cur.slot _).slot s.cur.slot).expired = true
    rw [hs, State.slot_setSlot]
  · rw [State.afterX, State.setCache_iss]
    show s.advance.cur.split = _
    rw [State.advance_cur]
  · rw [State.afterX, State.setCache_cur, State.dropLatches, State.cur_setCur, hcur]
  · simp [State.afterX, State.rd, State.dropLatches, State.setCur, State.yields]

/-- TINFO2 of a `TRAP`: its offset above the register's value (R297). -/
theorem shiftLeft_or_setWidth (x : BitVec 20) (y : Word) : x.setWidth 64 <<< 32 ||| y.setWidth 64 = (x.setWidth 32 ++ y : Dword) := by
  ext i hi
  simp only [BitVec.getElem_or, BitVec.getElem_shiftLeft, BitVec.getElem_setWidth]
  grind

end Sys2Proof.Machine

namespace Sys2Proof
open Machine

/-- Settles O11: the jumps move the PCs, a call's link beside them; the other words move on, or trap for their active lanes. -/
theorem control : Obligations.Control := by
  unfold Obligations.Control
  refine ⟨fun s f m => ⟨fun h => ⟨_, rfl, State.runX_jump_cur h⟩, fun h => ⟨⟨_, rfl, State.runX_jump_cur h⟩, ⟨_, rfl, State.runX_jump_cur h⟩⟩,
    fun h => ?_, fun h => ?_⟩, fun s f m => ⟨fun h => ⟨⟨_, rfl, State.runX_advance h rfl rfl⟩, ?_, ?_, ?_⟩, fun h => ⟨?_, ?_⟩⟩⟩
  · have hj := State.runX_jump (g := fun s m => s.cur.setReg64 f.breg.toNat m fun _ => s.iss.pc + 8)
      (pc := fun s _ _ => boffTarget s.iss.pc f.boff) h rfl rfl
    exact ⟨_, rfl, hj, hj.linked⟩
  · have hj := State.runX_jump (g := fun s m => s.cur.setReg64 f.breg.toNat m fun _ => s.iss.pc + 8)
      (pc := fun s _ l => s.cur.v64 l (f.boff.setWidth 8).toNat) h rfl rfl
    exact ⟨_, rfl, hj, hj.linked⟩
  · intro hm
    exact ⟨⟨_, rfl, State.runX_advance h rfl (by simp [hm])⟩, _, rfl, State.runX_advance h (if_pos hm) rfl⟩
  · intro hm
    refine ⟨_, rfl, ?_⟩
    rw [State.runX_go (u := s.yields) h rfl (by simp only [if_neg hm]; rfl) rfl]
    exact s.yields_spec
  · intro hm
    exact congrArg _ (State.runX_fault (d := { cause := 0x18, lanes := m, info := f.boff.setWidth 64 }) h (if_neg hm))
  · rintro rfl
    exact ⟨_, rfl, State.runX_advance h rfl rfl⟩
  · intro j hj
    rw [← shiftLeft_or_setWidth]
    exact congrArg _ (State.runX_fault (d :=
      { cause := 0x19, lanes := m, info := f.boff.setWidth 64 <<< 32 ||| (s.cur.v j f.breg.toNat).setWidth 64 }) h (by rw [hj]; rfl))

end Sys2Proof

/-! PROOF. The words on a reconvergence mask, and the release test (spec/13_isa_integer_control_lanes.md R293, R296,
spec/05_cores_and_execution.md R98). -/
namespace Sys2Proof.Machine

theorem Group.mask_of_masks {g h : Group} (e : h.masks = g.masks) : h.mask = g.mask := by
  funext j
  rw [Group.mask, Group.mask, e]

section masks
variable (g : Group) (k : Nat)

theorem Group.goOn_eq (m : Lanes) : g.goOn k m =
    { g with
      pcs := rowSet64 g.pcs (m &&& g.stands k) fun l => laneAt64 g.pcs l + 8
      waiting := g.waiting &&& ~~~(m &&& g.stands k)
      handler := g.handler.map fun h => h.release k m } := by
  unfold Group.goOn Group.advance
  rfl

theorem Group.goOn_slot (m : Lanes) : (g.goOn k m).slot = g.slot := by
  rw [Group.goOn_eq]

theorem Group.waitAt_slot (w : Lanes) : (g.waitAt k w).slot = g.slot := rfl

theorem Group.mask_setMask (x : Mask) {j : Nat} (hj : j < 12) : (g.setMask k x).mask j = if j = k then x else g.mask j := by
  simp [Group.mask, Group.setMask, hj]

theorem getLsbD_and_not (x y : Lanes) (l : Nat) : (x &&& ~~~y).getLsbD l = (x.getLsbD l && !y.getLsbD l) := by
  by_cases hl : l < 32
  · simp [hl]
  · simp [BitVec.getLsbD_of_ge x l (by omega)]

/-- A mask is full when a lane has arrived and no enrolled one has not (R98). -/
def Mask.full (x : Mask) : Prop := x.arrived ≠ 0 ∧ ∀ l, x.enrolled.getLsbD l = true → x.arrived.getLsbD l = true

theorem Mask.full_iff (x : Mask) : (x.arrived != 0 && x.enrolled &&& ~~~x.arrived == 0) = true ↔ x.full := by
  have h0 : x.enrolled &&& ~~~x.arrived = 0 ↔ ∀ l, x.enrolled.getLsbD l = true → x.arrived.getLsbD l = true := by
    refine ⟨fun h l he => ?_, fun h => BitVec.eq_of_getLsbD_eq fun l _ => ?_⟩
    · have hl := getLsbD_and_not x.enrolled x.arrived l
      rw [h, he] at hl
      simpa using hl.symm
    · have hl := h l
      rw [getLsbD_and_not]
      cases he : x.enrolled.getLsbD l
      · simp
      · simp [hl he]
  rw [Mask.full, ← h0, Bool.and_eq_true, bne_iff_ne, beq_iff_eq]

/-- The release of a full mask empties it, and moves the lanes that wait at it (R98). -/
theorem Group.releaseMask_full (h : (g.mask k).full) : g.releaseMask k =
    { g with
      pcs := rowSet64 g.pcs ((g.mask k).arrived &&& g.stands k) fun l => laneAt64 g.pcs l + 8
      waiting := g.waiting &&& ~~~((g.mask k).arrived &&& g.stands k)
      handler := g.handler.map fun h => h.release k (g.mask k).arrived
      masks := (g.setMask k {}).masks } := by
  rw [Group.releaseMask, if_pos ((g.mask k).full_iff.2 h), Group.goOn_eq]
  simp only [Group.setMask, Group.mask]

/-- A mask that is not full releases nothing (R98). -/
theorem Group.releaseMask_of_not_full (h : ¬ (g.mask k).full) : g.releaseMask k = g :=
  if_neg fun hf => h ((g.mask k).full_iff.1 hf)

/-- In a trap handler's saved state the released lanes are those that waited there at mask `k` (R98, R118). -/
theorem Handler.release_spec (h : Handler) (m : Lanes) :
    (∀ l, (h.release k m).waiting.getLsbD l = (h.waiting.getLsbD l && !(m &&& h.stands k).getLsbD l))
      ∧ ∀ l, laneAt64 (h.release k m).pcs l = if (m &&& h.stands k).getLsbD l then laneAt64 h.pcs l + 8 else laneAt64 h.pcs l := by
  unfold Handler.release
  exact ⟨fun l => getLsbD_and_not _ _ l, fun l => by rw [laneAt64_rowSet64]⟩

/-- A lane that begins to wait at mask `k` waits at it alone; another lane waits where it waited (R98). -/
theorem Group.stands_waitAt (w : Lanes) {j : Nat} (hj : j < 12) (l : Nat) :
    ((g.waitAt k w).stands j).getLsbD l = if w.getLsbD l then decide (j = k) else (g.stands j).getLsbD l := by
  have hs : (g.waitAt k w).stands j = (g.waiting ||| w) &&& if j = k then g.stand.getD j 0 ||| w else g.stand.getD j 0 &&& ~~~w := by
    simp [Group.stands, Group.waitAt, hj]
  rw [hs, Group.stands, BitVec.getLsbD_and, BitVec.getLsbD_and, BitVec.getLsbD_or]
  by_cases hk : j = k
  · cases hw : w.getLsbD l <;> simp [hk, hw]
  · rw [if_neg hk, getLsbD_and_not]
    cases w.getLsbD l <;> simp [hk]

end masks

/-- The effect of a `JOIN`, `LEAVE`, `WAITM` or `MKWR` with active lanes: it writes a group, of which it tests mask `k` (R98). -/
theorem State.runX_release {s : State} {n : Needs} {m : Lanes} {act : State → Lanes → Option State} {g : Group} (k : Nat) (h : s.Clear n m)
    (hs : g.slot = s.cur.slot) (ha : act s m = some (s.setCur (g.releaseMask k)).markIssued) :
    XDone s (s.runX n noFault act) (g.releaseMask k) :=
  State.runX_done h rfl ha ((g.releaseMask_slot k).trans hs)

end Sys2Proof.Machine

namespace Sys2Proof
open Machine

/-- Settles O12: each word is its group's write and a release test; a release moves the lanes that wait at the mask. -/
theorem masks : Obligations.Masks := by
  unfold Obligations.Masks
  refine ⟨fun s f m => ⟨fun h => ⟨⟨_, rfl, ?_⟩, ⟨_, rfl, ?_⟩, ⟨_, rfl, ?_⟩⟩, fun h => ⟨_, rfl, ?_⟩, fun h => ⟨?_, ?_⟩⟩, fun g k hk => ⟨?_, ?_⟩,
    fun g k w hk => ⟨rfl, fun j l hj => g.stands_waitAt k w hj l, rfl, rfl, rfl, rfl⟩⟩
  · exact State.runX_release _ h (by simp [Group.setMask_slot]) (by simp only [State.advance_setCur, State.advance_cur, Group.mask_advance])
  · exact State.runX_release _ h (by simp [Group.setMask_slot]) (by simp only [State.advance_setCur, State.advance_cur, Group.mask_advance])
  · exact State.runX_release _ h (by simp [Group.setMask_slot, Group.waitAt_slot])
      (by simp only [State.advanceBut, State.markIssued_setCur, State.markIssued_cur, State.cur_setCur])
  · exact State.runX_done h rfl (by simp only [State.setCur_advance]) (by simp)
  · rintro rfl
    exact ⟨_, rfl, State.runX_advance h rfl rfl⟩
  · intro j hj
    refine ⟨_, rfl, State.runX_release _ h (by simp [Group.setMask_slot, Group.goOn_slot]) ?_⟩
    simp only [hj, State.advance_setCur, State.advance_cur, Group.mask_advance]
  · intro hfull
    have hrel := g.releaseMask_full k hfull
    have hmask : (g.releaseMask k).mask = (g.setMask k {}).mask := Group.mask_of_masks (by rw [hrel])
    refine ⟨?_, fun l => ?_, fun l => ?_, fun j hj hne => ?_, ?_, fun hd hh => ⟨hd.release k (g.mask k).arrived, ?_, hd.release_spec k _⟩⟩
    · rw [hmask, g.mask_setMask k {} hk, if_pos rfl]
    · rw [hrel, getLsbD_and_not]
    · rw [hrel, laneAt64_rowSet64]
    · rw [hmask, g.mask_setMask k {} hj, if_neg hne]
    · exact Group.v_of_regs (by rw [hrel])
    · rw [hrel, hh, Option.map_some]
  · exact g.releaseMask_of_not_full k

end Sys2Proof

/-! PROOF. `MOVX` and `MOVXW` (spec/13_isa_integer_control_lanes.md R287, spec/05_cores_and_execution.md R42, R114). -/
namespace Sys2Proof.Machine

/-! ### Faults of one cause (R114) -/

section fault
variable {s : State} {m : Lanes} {bad : Nat → Bool} {c : Nat} {a : Dword}

/-- The lanes of a set that a test marks. -/
def badLanes (m : Lanes) (bad : Nat → Bool) : Lanes := lanesOf fun l => m.getLsbD l && bad l

theorem badLanes_eq_zero : badLanes m bad = 0 ↔ (lanesList m).filter bad = [] := by
  rw [List.filter_eq_nil_iff]
  refine ⟨fun h l hl hb => ?_, fun h => BitVec.eq_of_getLsbD_eq fun l hl => ?_⟩
  · obtain ⟨h32, hm⟩ := (mem_lanesList m l).1 hl
    have h0 : (badLanes m bad).getLsbD l = true := by simp [badLanes, h32, hm, hb]
    simp [h] at h0
  · have h0 : m.getLsbD l = true → bad l ≠ true := fun hm => h l ((mem_lanesList m l).2 ⟨hl, hm⟩)
    simp only [badLanes, getLsbD_lanesOf]
    grind

/-- The faults of lanes that all have the same. -/
theorem filterMap_fault (js : List Nat) : (js.filterMap fun l => (if bad l then some (c, a) else none).map fun f => (l, f))
    = (js.filter bad).map fun l => (l, c, a) := by
  induction js with
  | nil => rfl
  | cons j js ih => cases hb : bad j <;> simpa [hb] using ih

theorem foldl_min_fault (js : List Nat) : (js.map fun l => (l, c, a)).foldl (fun x y => min x y.2.1) c = c := by
  induction js with
  | nil => rfl
  | cons j js ih => simpa using ih

/-- When a lane's fault is always the same one, the trap names the lanes that have it. -/
theorem pickFault_one (h : badLanes m bad ≠ 0) :
    pickFault m (fun l => if bad l then some (c, a) else none) = some (c, badLanes m bad, a) := by
  have hset : badLanes m bad = lanesOf fun l => ((lanesList m).filter bad).any (· = l) :=
    BitVec.eq_of_getLsbD_eq fun l hl => by
      rw [badLanes, getLsbD_lanesOf, getLsbD_lanesOf, Bool.eq_iff_iff]
      simp only [List.any_filter, List.any_eq_true, Bool.and_eq_true, mem_lanesList, decide_eq_true_eq]
      grind
  unfold pickFault
  rw [filterMap_fault]
  cases hj : (lanesList m).filter bad with
  | nil => exact absurd (badLanes_eq_zero.2 hj) h
  | cons j js =>
    rw [hset, hj]
    simp [foldl_min_fault, Function.comp_def]

theorem pickFault_none (h : badLanes m bad = 0) : pickFault m (fun l => if bad l then some (c, a) else none) = none := by
  unfold pickFault
  rw [filterMap_fault, badLanes_eq_zero.1 h]
  rfl

end fault

/-! ### The index of a lane (R287) -/

theorem indexOf_eq (a b : Dword) : indexOf a b = (a.setWidth 32 + b.setWidth 32 : Word).toNat := by
  simp [indexOf, BitVec.toNat_add, BitVec.toNat_setWidth]

theorem badIndex_eq (g : Group) (wide : Bool) (i : Nat) :
    badIndex g wide i = !decide (i < g.nregs ∧ (wide = true → i % 2 = 0 ∧ i + 1 < g.nregs)) := by
  rw [Bool.eq_iff_iff]
  cases wide
  · simp [badIndex]
  · simp [badIndex]

/-! ### `MOVX` -/

section movx
variable {s : State} {n : Needs} {m : Lanes} {wide nw : Bool} {d : Nat} {keep : List Nat} {idx : Nat → Nat}

/-- The lanes whose index names no register of the allocation, or no pair. -/
def Group.outLanes (g : Group) (m : Lanes) (wide : Bool) (idx : Nat → Nat) : Lanes := badLanes m fun l => badIndex g wide (idx l)

/-- The index of every active lane names a register, or a pair. -/
def Group.indexed (g : Group) (m : Lanes) (wide : Bool) (idx : Nat → Nat) : Prop :=
  ∀ l, m.getLsbD l = true → idx l < g.nregs ∧ (wide = true → idx l % 2 = 0 ∧ idx l + 1 < g.nregs)

theorem Group.outLanes_eq (g : Group) : g.outLanes m wide idx = lanesOf fun l =>
    m.getLsbD l && !decide (idx l < g.nregs ∧ (wide = true → idx l % 2 = 0 ∧ idx l + 1 < g.nregs)) := by
  simp only [Group.outLanes, badLanes, badIndex_eq]

theorem Group.outLanes_of_indexed {g : Group} (h : g.indexed m wide idx) : g.outLanes m wide idx = 0 := by
  refine BitVec.eq_of_getLsbD_eq fun l hl => ?_
  rw [Group.outLanes_eq, getLsbD_lanesOf]
  cases hm : m.getLsbD l
  · simp
  · simp [decide_eq_true (h l hm)]

/-- A word whose lanes name registers by index: REG_INDEX for those whose index names none (R114, R287). -/
theorem State.dataFault_indexed {go : State} (h : s.cur.indexed m wide idx) :
    s.dataFault m (fun l => if badIndex s.cur wide (idx l) then some (0x05, 0) else none) go = go := by
  rw [State.dataFault, pickFault_none (Group.outLanes_of_indexed h)]

theorem State.dataFault_out {go : State} (h : s.cur.outLanes m wide idx ≠ 0) :
    s.dataFault m (fun l => if badIndex s.cur wide (idx l) then some (0x05, 0) else none) go
      = s.takeTrap 0x05 (s.cur.outLanes m wide idx) 0 0 := by
  rw [State.dataFault, pickFault_one h]
  rfl

/-- The value that `MOVX` moves: the register of the lane's index, or the pair. -/
def State.indexedRes (s : State) (wide : Bool) (idx : Nat → Nat) (l : Nat) : LaneRes :=
  if wide then res64 (s.cur.v64 l (idx l)) else res32 ((s.cur.v l (idx l)).setWidth 64)

theorem State.movx_known (h : s.Clear { n with drain := true } m) (hu : s.cur.unknownAt m wide idx = none) :
    s.movx n wide d nw keep idx = s.dataFault m (fun l => if badIndex s.cur wide (idx l) then some (0x05, 0) else none)
      (s.deliver m d (if wide then 2 else 1) wide nw keep (s.indexedRes wide idx)) := by
  simp only [State.movx, State.pre_of_clear h, Group.movxPre, hu, State.afterPre]
  rfl

/-- An unknown outcome that `MOVX` reads is delivered before its lanes' indices are judged (R42). -/
theorem State.movx_unknown {u : Unknown} (h : s.Clear { n with drain := true } m) (hu : s.cur.unknownAt m wide idx = some u)
    (ha : s.cur.unanswered u = false) : s.movx n wide d nw keep idx = s.trapUnknown u := by
  simp only [State.movx, State.pre_of_clear h, Group.movxPre, hu, Group.delivers, ha, State.afterPre, Bool.false_eq_true, if_false]

theorem State.movx_done (h : s.Clear { n with drain := true } m) (hu : s.cur.unknownAt m wide idx = none) (hi : s.cur.indexed m wide idx) :
    ResDone s (s.movx n wide d nw keep idx) m d (if wide then 2 else 1) wide nw (s.indexedRes wide idx) := by
  rw [State.movx_known h hu, State.dataFault_indexed hi]
  exact s.deliver_spec m d _ wide nw keep _

theorem State.movx_out (h : s.Clear { n with drain := true } m) (hu : s.cur.unknownAt m wide idx = none)
    (ho : s.cur.outLanes m wide idx ≠ 0) : s.movx n wide d nw keep idx = s.takeTrap 0x05 (s.cur.outLanes m wide idx) 0 0 := by
  rw [State.movx_known h hu, State.dataFault_out ho]

end movx

/-! ### `MOVXW` -/

section movxw
variable {s : State} {n : Needs} {m : Lanes} {wide : Bool} {d : Nat} {keep : List Nat} {idx : Nat → Nat}

/-- The words that `MOVXW` writes in a lane: the value's register to that of the lane's index, or the pair (R287). -/
def Group.indexedWords (g : Group) (wide : Bool) (d : Nat) (idx : Nat → Nat) (l q : Nat) : Option Word :=
  if q = idx l then some (g.v l d) else if wide && q = idx l + 1 then some (g.v l (d + 1)) else none

/-- The write of one lane, of the value that `g` holds. -/
def Group.putIndexed (g : Group) (wide : Bool) (d : Nat) (idx : Nat → Nat) (h : Group) (l : Nat) : Group :=
  let m : Lanes := BitVec.ofNat 32 (2 ^ l)
  if wide then h.setReg64 (idx l) m fun _ => g.v64 l d else h.setReg (idx l) m fun _ => g.v l d

theorem getLsbD_one_lane {j l : Nat} (hj : j < 32) : (BitVec.ofNat 32 (2 ^ j)).getLsbD l = decide (l = j) := by
  rw [BitVec.getLsbD_ofNat, Nat.testBit_two_pow]
  grind

theorem setWidth_v64 (g : Group) (l r : Nat) : (g.v64 l r).setWidth 32 = g.v l r ∧ (g.v64 l r >>> 32).setWidth 32 = g.v l (r + 1) :=
  ⟨BitVec.setWidth_append_eq_right .., by
    ext i hi
    rw [BitVec.getElem_setWidth, BitVec.getLsbD_ushiftRight, Group.v64, BitVec.getLsbD_append]
    simp [BitVec.getLsbD_eq_getElem hi]⟩

theorem Group.v_putIndexed (g h : Group) {j : Nat} (hj : j < 32) (l q : Nat) : (g.putIndexed wide d idx h j).v l q =
    if l = j then (g.indexedWords wide d idx l q).getD (h.v l q) else h.v l q := by
  unfold Group.putIndexed Group.indexedWords
  cases wide
  · simp only [Bool.false_eq_true, if_false, Group.v_setReg, getLsbD_one_lane hj, Bool.false_and]
    grind
  · simp only [if_true, Group.setReg64, Group.v_setReg, getLsbD_one_lane hj, setWidth_v64, Bool.true_and]
    grind

theorem Group.putIndexed_only (g h : Group) (j : Nat) : ∃ R L U,
    g.putIndexed wide d idx h j = { h with regs := R, late := L, unknowns := U } := by
  unfold Group.putIndexed
  cases wide
  · exact ⟨_, _, _, rfl⟩
  · exact ⟨_, _, _, rfl⟩

/-- The writes of the lanes of a list, each of the value that `g` holds. -/
theorem Group.v_putIndexed_list (g : Group) (js : List Nat) (hjs : ∀ j ∈ js, j < 32) (h : Group) (l q : Nat) :
    (js.foldl (g.putIndexed wide d idx) h).v l q = if l ∈ js then (g.indexedWords wide d idx l q).getD (h.v l q) else h.v l q := by
  induction js generalizing h with
  | nil => rfl
  | cons j js ih =>
    rw [List.foldl_cons, ih (fun i hi => hjs i (List.mem_cons_of_mem _ hi)), g.v_putIndexed h (hjs j List.mem_cons_self)]
    simp only [List.mem_cons]
    cases g.indexedWords wide d idx l q <;> grind

theorem Group.putIndexed_list_only (g : Group) (js : List Nat) (h : Group) : ∃ R L U,
    js.foldl (g.putIndexed wide d idx) h = { h with regs := R, late := L, unknowns := U } := by
  induction js generalizing h with
  | nil => exact ⟨_, _, _, rfl⟩
  | cons j js ih =>
    obtain ⟨R, L, U, hj⟩ := g.putIndexed_only (wide := wide) (d := d) (idx := idx) h j
    obtain ⟨R', L', U', hs⟩ := ih { h with regs := R, late := L, unknowns := U }
    exact ⟨R', L', U', by rw [List.foldl_cons, hj, hs]⟩

theorem mergeFlags_none (x : Word) (m : Lanes) : mergeFlags x (flagsOf m fun _ => 0) = x := by
  simp [mergeFlags, flagsOf]

/-- A group written back with other registers and latches, and no flag raised: the word is delivered. -/
theorem State.finish_delivered {h : Group} {w : Nat → Nat → Option Word} {keep written : List Nat} {T : List Row64} {V : BitVec 4}
    (hh : ∃ R L U, h = { s.cur with regs := R, late := L, unknowns := U })
    (hv : ∀ l q, h.v l q = if m.getLsbD l then (w l q).getD (s.cur.v l q) else s.cur.v l q) :
    Delivered s (((s.setCur { h with latches := T, lvalid := V }).setCache keep written).advance) m w fun _ => 0 := by
  obtain ⟨g, hg⟩ : ∃ g : Group, g = { h with latches := T, lvalid := V } := ⟨_, rfl⟩
  obtain ⟨R, L, U, hh⟩ := hh
  have hgv : g.v = h.v := Group.v_of_regs (by rw [hg])
  have hone : g = { s.cur with regs := R, late := L, unknowns := U, latches := T, lvalid := V } := by rw [hg, hh]
  rw [← hg]
  have hc : (((s.setCur g).setCache keep written).advance).cur = g.advance s.iss.run := by
    rw [State.advance_cur, State.setCache_cur, State.setCache_iss, State.cur_setCur, State.iss_setCur]
  refine ⟨fun l q => ?_, ?_, fun l => ?_, ?_, s.finish_only g keep written (by rw [hone]), fun a => ?_⟩
  · rw [hc, Group.v_advance, hgv, hv]
  · rw [hc, Group.advance_fpflags, hone, mergeFlags_none]
  · rw [hc, Group.advance, laneAt64_rowSet64, hone]
  · rw [hc, hone, Group.sameBut, Group.advance]
  · simp [State.rd]

/-- The group after a `MOVXW`, but for its latches. -/
theorem State.movxw_indexed (h : s.Clear n m) (hi : s.cur.indexed m wide idx) : ∃ written T V, s.movxw n wide d keep idx =
    ((s.setCur { (lanesList m).foldl (s.cur.putIndexed wide d idx) s.cur with latches := T, lvalid := V }).setCache keep written).advance := by
  have hput : (fun (g1 : Group) l => if wide then g1.setReg64 (idx l) (BitVec.ofNat 32 (2 ^ l)) fun _ => s.cur.v64 l d
      else g1.setReg (idx l) (BitVec.ofNat 32 (2 ^ l)) fun _ => s.cur.v l d) = s.cur.putIndexed wide d idx := rfl
  simp only [State.movxw, State.pre_of_clear h, State.afterPre]
  rw [State.dataFault_indexed hi, hput]
  by_cases hm : m = 0
  · rw [if_pos hm]
    exact ⟨_, _, _, rfl⟩
  · rw [if_neg hm]
    exact ⟨_, _, _, rfl⟩

theorem State.movxw_done (h : s.Clear n m) (hi : s.cur.indexed m wide idx) :
    Delivered s (s.movxw n wide d keep idx) m (s.cur.indexedWords wide d idx) fun _ => 0 := by
  obtain ⟨written, T, V, hs⟩ := State.movxw_indexed (d := d) (keep := keep) h hi
  obtain ⟨R, L, U, hw⟩ := s.cur.putIndexed_list_only (wide := wide) (d := d) (idx := idx) (lanesList m) s.cur
  have hv := s.cur.v_putIndexed_list (wide := wide) (d := d) (idx := idx) (lanesList m) (fun j hj => ((mem_lanesList m j).1 hj).1) s.cur
  have hmem (l : Nat) : l ∈ lanesList m ↔ m.getLsbD l = true :=
    (mem_lanesList m l).trans (and_iff_right_of_imp BitVec.lt_of_getLsbD)
  rw [hs]
  exact State.finish_delivered ⟨R, L, U, hw⟩ fun l q => by rw [hv]; simp only [hmem]

theorem State.movxw_out (h : s.Clear n m) (ho : s.cur.outLanes m wide idx ≠ 0) :
    s.movxw n wide d keep idx = s.takeTrap 0x05 (s.cur.outLanes m wide idx) 0 0 := by
  simp only [State.movxw, State.pre_of_clear h, State.afterPre]
  rw [State.dataFault_out ho]

end movxw

end Sys2Proof.Machine

namespace Sys2Proof
open Machine

/-- Settles O9: each word's indices name registers, or trap; an unknown outcome that `MOVX` would read comes before its trap. -/
theorem indexedMoves : Obligations.IndexedMoves := by
  unfold Obligations.IndexedMoves
  intro s f g m
  simp only [← indexOf_eq, ← Group.outLanes_eq]
  refine ⟨fun h => ⟨fun hu => ⟨fun ho => ?_, fun hi => ⟨_, rfl, State.movx_done h hu hi⟩⟩, fun u hu ha => ?_⟩,
    fun h => ⟨fun hu => ⟨fun ho => ?_, fun hi => ⟨_, rfl, State.movx_done h hu hi⟩⟩, fun u hu ha => ?_⟩,
    fun h => ⟨fun ho => ?_, fun hi => ⟨_, rfl, State.movxw_done h hi⟩⟩, fun h => ⟨fun ho => ?_, fun hi => ⟨_, rfl, State.movxw_done h hi⟩⟩⟩
  · exact congrArg _ (State.movx_out h hu ho)
  · exact congrArg _ (State.movx_unknown h hu ha)
  · exact congrArg _ (State.movx_out h hu ho)
  · exact congrArg _ (State.movx_unknown h hu ha)
  · exact congrArg _ (State.movxw_out h ho)
  · exact congrArg _ (State.movxw_out h ho)

end Sys2Proof

/-! PROOF. The integer blocks in bit-vector terms (spec/13_isa_integer_control_lanes.md R278 to R286). Operands and results are words of the
type's width; what an operation computes exactly is a value of its type, delivered to that width. -/
namespace Sys2Proof.Machine

/-! ### Values of a type (R278) -/

theorem tyWidth_le (ty : Nat) : tyWidth ty ≤ 64 := by
  unfold tyWidth
  split <;> decide

theorem tyWidth_pos (ty : Nat) : 0 < tyWidth ty := by
  unfold tyWidth
  split <;> decide

section values
variable {w : Nat}

/-- A word's value under a type: two's complement for the signed codes. -/
def typedVal (ty : Nat) (x : BitVec w) : Int := if 2 ≤ ty then x.toInt else x.toNat

theorem ofInt_typedVal (ty : Nat) (x : BitVec w) : BitVec.ofInt w (typedVal ty x) = x := by
  unfold typedVal
  split
  · exact BitVec.ofInt_toInt
  · rw [BitVec.ofInt_natCast, BitVec.ofNat_toNat, BitVec.setWidth_eq]

theorem typedVal_inj (ty : Nat) {x y : BitVec w} : typedVal ty x = typedVal ty y ↔ x = y :=
  ⟨fun h => by rw [← ofInt_typedVal ty x, h, ofInt_typedVal], fun h => by rw [h]⟩

theorem typedVal_lt (ty : Nat) (x y : BitVec w) : typedVal ty x < typedVal ty y ↔ (if 2 ≤ ty then x.slt y else x.ult y) = true := by
  unfold typedVal
  split
  · exact BitVec.slt_iff_toInt_lt.symm
  · rw [Int.ofNat_lt, BitVec.ult_iff_toNat_lt]

theorem typedVal_le (ty : Nat) (x y : BitVec w) : typedVal ty x ≤ typedVal ty y ↔ (if 2 ≤ ty then x.sle y else x.ule y) = true := by
  unfold typedVal
  split
  · exact BitVec.sle_iff_toInt_le.symm
  · rw [Int.ofNat_le, BitVec.ule_iff_toNat_le]

/-- The value of a number of `w` bits, taken as two's complement. -/
theorem signFrom_toNat (hw : 0 < w) (x : BitVec w) : signFrom w x.toNat = x.toInt := by
  have hpow : 2 ^ w = 2 * 2 ^ (w - 1) := by rw [← Nat.pow_succ', Nat.succ_eq_add_one, Nat.sub_add_cancel hw]
  rw [signFrom, BitVec.toInt_eq_toNat_cond]
  push_cast
  grind

theorem tyVal_eq (ty : Nat) (a : Dword) : tyVal ty a = typedVal ty (a.setWidth (tyWidth ty)) := by
  have hs := signFrom_toNat (tyWidth_pos ty) (a.setWidth (tyWidth ty))
  rw [BitVec.toNat_setWidth, signFrom] at hs
  unfold tyVal typedVal
  rw [← hs, BitVec.toNat_setWidth]
  by_cases h2 : 2 ≤ ty <;> simp [h2]

/-- The low bits of an exact integer are the word that it wraps to. -/
theorem lowBits_eq (i : Int) : lowBits w i = (BitVec.ofInt w i).setWidth 64 := by
  apply BitVec.eq_of_toNat_eq
  rw [lowBits, BitVec.toNat_ofNat, BitVec.toNat_setWidth, BitVec.toNat_ofInt]
  push_cast
  rfl

theorem ofNat_mod_eq (n : Nat) : BitVec.ofNat 64 (n % 2 ^ w) = (BitVec.ofNat w n).setWidth 64 := by
  apply BitVec.eq_of_toNat_eq
  simp

end values

/-! ### Delivery (R170, R281) -/

/-- A wrapped result is the word of the type's width. -/
theorem deliver_wrapped (ty : Nat) (i : Int) : deliver ty false i = ((BitVec.ofInt (tyWidth ty) i).setWidth 64, 0) := by
  rw [deliver, if_neg Bool.false_ne_true, lowBits_eq]

/-- A saturated result is clamped to the type, with SAT exactly when it is. -/
theorem deliver_saturated (ty : Nat) (i : Int) : deliver ty true i =
    if intMax ty < i then ((BitVec.ofInt (tyWidth ty) (intMax ty)).setWidth 64, flSAT)
    else if i < intMin ty then ((BitVec.ofInt (tyWidth ty) (intMin ty)).setWidth 64, flSAT)
    else ((BitVec.ofInt (tyWidth ty) i).setWidth 64, 0) := by
  simp only [deliver, if_true, lowBits_eq, saturate]
  split_ifs <;> rfl

/-! ### The integer block (R281, R282) -/

section arith
variable {w : Nat} (ty : Nat) (x y : BitVec w)

theorem ofInt_sub (i j : Int) : BitVec.ofInt w (i - j) = BitVec.ofInt w i - BitVec.ofInt w j := by
  rw [Int.sub_eq_add_neg, BitVec.ofInt_add, BitVec.ofInt_neg, BitVec.sub_eq_add_neg]

/-- The high half of an exact integer of twice the width. -/
theorem ofInt_ediv_two_pow (i : Int) : BitVec.ofInt w (i / 2 ^ w) = (BitVec.ofInt (2 * w) i).extractLsb' w w := by
  have hpow : (2 : Int) ^ (2 * w) = 2 ^ w * 2 ^ w := by rw [Nat.two_mul, pow_add]
  have hpos : (0 : Int) < 2 ^ w := by positivity
  have hdiv : i / 2 ^ w % 2 ^ w = i % 2 ^ (2 * w) / 2 ^ w % 2 ^ w := by
    conv_lhs => rw [← Int.emod_add_mul_ediv i (2 ^ (2 * w)), hpow, Int.mul_assoc, Int.add_mul_ediv_left _ _ hpos.ne',
      Int.add_mul_emod_self_left]
    rw [hpow]
  have hnat : (i % 2 ^ (2 * w)).toNat / 2 ^ w % 2 ^ w = (i % 2 ^ (2 * w) / 2 ^ w % 2 ^ w).toNat := by
    obtain ⟨n, hn⟩ := Int.eq_ofNat_of_zero_le (Int.emod_nonneg i (b := 2 ^ (2 * w)) (by positivity))
    rw [hn]
    norm_cast
  apply BitVec.eq_of_toNat_eq
  rw [BitVec.toNat_ofInt, BitVec.extractLsb'_toNat, BitVec.toNat_ofInt, Nat.shiftRight_eq_div_pow]
  push_cast
  rw [hdiv, hnat]

/-- A word read at another width keeps its value. -/
theorem ofInt_typedVal_extend (k : Nat) : BitVec.ofInt k (typedVal ty x) = if 2 ≤ ty then x.signExtend k else x.setWidth k := by
  unfold typedVal
  split
  · rfl
  · rw [BitVec.ofInt_natCast, BitVec.ofNat_toNat]

/-- A choice by the order of values is one by the signed or the unsigned comparison. -/
theorem ite_typedVal_lt {α : Type} (p q : α) : (if typedVal ty x < typedVal ty y then p else q) =
    if 2 ≤ ty then (if x.slt y then p else q) else if x.ult y then p else q := by
  simp only [typedVal_lt]
  by_cases h : 2 ≤ ty <;> simp only [h, if_true, if_false]

theorem ofInt_min : BitVec.ofInt w (min (typedVal ty x) (typedVal ty y)) = if typedVal ty x < typedVal ty y then x else y := by
  split_ifs with h
  · rw [min_eq_left h.le, ofInt_typedVal]
  · rw [min_eq_right (not_lt.1 h), ofInt_typedVal]

theorem ofInt_max : BitVec.ofInt w (max (typedVal ty x) (typedVal ty y)) = if typedVal ty x < typedVal ty y then y else x := by
  split_ifs with h
  · rw [max_eq_right h.le, ofInt_typedVal]
  · rw [max_eq_left (not_lt.1 h), ofInt_typedVal]

theorem ofInt_natAbs : BitVec.ofInt w x.toInt.natAbs = if x.msb then -x else x := by
  rw [BitVec.msb_eq_toInt]
  by_cases h : x.toInt < 0
  · rw [if_pos (decide_eq_true h), Int.ofNat_natAbs_of_nonpos h.le, BitVec.ofInt_neg, BitVec.ofInt_toInt]
  · rw [if_neg (by simpa using h), Int.natAbs_of_nonneg (not_lt.1 h), BitVec.ofInt_toInt]

theorem typedVal_eq_zero : typedVal ty x = 0 ↔ x = 0 := by
  have h0 : typedVal ty (0 : BitVec w) = 0 := by simp [typedVal]
  rw [← h0, typedVal_inj]

/-- The truncated quotient and remainder, at the type's width. -/
theorem ofInt_tdiv : BitVec.ofInt w (Int.tdiv (typedVal ty x) (typedVal ty y)) = if 2 ≤ ty then x.sdiv y else x / y := by
  unfold typedVal
  split_ifs
  · exact BitVec.eq_of_toInt_eq (by rw [BitVec.toInt_ofInt, BitVec.toInt_sdiv])
  · rw [← Int.ofNat_tdiv, ← BitVec.toNat_udiv, BitVec.ofInt_natCast, BitVec.ofNat_toNat, BitVec.setWidth_eq]

theorem ofInt_tmod : BitVec.ofInt w (Int.tmod (typedVal ty x) (typedVal ty y)) = if 2 ≤ ty then x.srem y else x % y := by
  unfold typedVal
  split_ifs
  · rw [← BitVec.toInt_srem, BitVec.ofInt_toInt]
  · rw [← Int.ofNat_tmod, ← BitVec.toNat_umod, BitVec.ofInt_natCast, BitVec.ofNat_toNat, BitVec.setWidth_eq]

/-- The fixed results of `IREM` are those of truncation (R282). -/
theorem divR_eq (i j : Int) : divR ty i j = Int.tmod i j := by
  unfold divR
  split_ifs with h0 h1
  · rw [h0, Int.tmod_zero]
  · simp only [Bool.and_eq_true, decide_eq_true_eq] at h1
    rw [h1.1.2, Int.tmod_neg, Int.tmod_one]
  · rfl

/-- The fixed result of the least value by minus one is the quotient, wrapped to its width (R282). -/
theorem ofInt_divQ_of_ne (hty : ty < 4) (i : Int) {j : Int} (hj : j ≠ 0) :
    BitVec.ofInt (tyWidth ty) (divQ ty i j) = BitVec.ofInt (tyWidth ty) (Int.tdiv i j) := by
  rw [divQ, if_neg hj]
  split_ifs with h
  · simp only [Bool.and_eq_true, decide_eq_true_eq] at h
    obtain ⟨⟨hs, rfl⟩, rfl⟩ := h
    obtain rfl | rfl : ty = 2 ∨ ty = 3 := by omega
    · decide
    · decide
  · rfl

/-- `IDIV`'s result: every bit one for a divisor of zero, and otherwise the truncated quotient (R282). -/
theorem ofInt_divQ (hty : ty < 4) (x y : BitVec (tyWidth ty)) : BitVec.ofInt (tyWidth ty) (divQ ty (typedVal ty x) (typedVal ty y)) =
    if y = 0 then BitVec.allOnes (tyWidth ty) else if 2 ≤ ty then x.sdiv y else x / y := by
  have hzero := typedVal_eq_zero ty y
  split_ifs with h0 hs
  · rw [divQ, if_pos (hzero.2 h0), BitVec.ofInt_neg]
    exact BitVec.neg_one_eq_allOnes
  · rw [ofInt_divQ_of_ne ty hty _ (mt hzero.1 h0), ofInt_tdiv, if_pos hs]
  · rw [ofInt_divQ_of_ne ty hty _ (mt hzero.1 h0), ofInt_tdiv, if_neg hs]

theorem ofInt_mul_two_pow (i : Int) (v : Nat) : BitVec.ofInt w (i * 2 ^ v) = BitVec.ofInt w i <<< v := by
  rw [BitVec.shiftLeft_eq_mul_twoPow, BitVec.ofInt_mul]
  congr 1
  rw [← Nat.cast_ofNat, ← Nat.cast_pow, BitVec.ofInt_natCast]
  exact BitVec.eq_of_toNat_eq (by rw [BitVec.toNat_ofNat, BitVec.toNat_twoPow])

/-- `LEA`: a 64-bit base, and a 32-bit index of its type's signedness, scaled (R281). -/
theorem intOp_lea {v : Nat} (a b c : Dword) (hty : ty < 4) (hodd : ty % 2 = 1) : intOp 0x00B ty v a b c =
    (a + (if 2 ≤ ty then (b.setWidth 32).signExtend 64 else (b.setWidth 32).setWidth 64) <<< v, 0) := by
  have ha : BitVec.ofInt 64 (tyVal 1 a) = a := by
    rw [tyVal_eq]
    exact (ofInt_typedVal 1 (a.setWidth 64)).trans (BitVec.setWidth_eq a)
  have hb : BitVec.ofInt 64 (tyVal (if ty = 3 then 2 else 0) b) =
      if 2 ≤ ty then (b.setWidth 32).signExtend 64 else (b.setWidth 32).setWidth 64 := by
    obtain rfl | rfl : ty = 1 ∨ ty = 3 := by omega
    · rw [tyVal_eq]; exact ofInt_typedVal_extend 0 _ 64
    · rw [tyVal_eq]; exact ofInt_typedVal_extend 2 _ 64
  have hop : intOp 0x00B ty v a b c = deliver 1 false (tyVal 1 a + tyVal (if ty = 3 then 2 else 0) b * 2 ^ v) := rfl
  rw [hop, deliver_wrapped]
  show ((BitVec.ofInt 64 _).setWidth 64, _) = _
  rw [BitVec.setWidth_eq, BitVec.ofInt_add, ofInt_mul_two_pow, ha, hb]

end arith

/-! ### A result from what delivers it -/

section block
variable {ty opc : Nat} {a b c : Dword} {i : Int}

theorem intOp_eq_wrapped {r : BitVec (tyWidth ty)} (hop : intOp opc ty 0 a b c = deliver ty false i) (hr : BitVec.ofInt (tyWidth ty) i = r) :
    intOp opc ty 0 a b c = (r.setWidth 64, 0) := by
  rw [hop, deliver_wrapped, hr]

theorem intOp_eq_clamped {n : Int} (hop : intOp opc ty 1 a b c = deliver ty true i) (hn : i = n) : intOp opc ty 1 a b c =
    if intMax ty < n then ((BitVec.ofInt (tyWidth ty) (intMax ty)).setWidth 64, flSAT)
    else if n < intMin ty then ((BitVec.ofInt (tyWidth ty) (intMin ty)).setWidth 64, flSAT)
    else ((BitVec.ofInt (tyWidth ty) n).setWidth 64, 0) := by
  rw [hop, deliver_saturated, hn]

end block

end Sys2Proof.Machine

/-! PROOF. The logic and bit block and the moves in bit-vector terms (spec/13_isa_integer_control_lanes.md R283 to R286). -/
namespace Sys2Proof.Machine

section logic
variable {w : Nat}

/-! ### Bitwise operations and shifts (R283) -/

/-- The mask of `w` one bits keeps a word's low `w` bits. -/
theorem and_ones_eq (a : Dword) : a &&& BitVec.ofNat 64 (2 ^ w - 1) = (a.setWidth w).setWidth 64 := by
  apply BitVec.eq_of_getLsbD_eq
  intro i hi
  simp only [BitVec.getLsbD_and, BitVec.getLsbD_ofNat, BitVec.getLsbD_setWidth, Nat.testBit_two_pow_sub_one, hi, decide_true, Bool.true_and]
  exact Bool.and_comm ..

theorem ofNat_shiftLeft (x : BitVec w) (n : Nat) : BitVec.ofNat w (x.toNat * 2 ^ n) = x <<< n :=
  BitVec.eq_of_toNat_eq (by rw [BitVec.toNat_ofNat, BitVec.toNat_shiftLeft, Nat.shiftLeft_eq])

theorem ofNat_ushiftRight (x : BitVec w) (n : Nat) : BitVec.ofNat w (x.toNat / 2 ^ n) = x >>> n :=
  BitVec.eq_of_toNat_eq (by
    rw [← Nat.shiftRight_eq_div_pow, ← BitVec.toNat_ushiftRight, BitVec.ofNat_toNat, BitVec.setWidth_eq])

/-- An arithmetic shift by the width or more leaves the sign alone. -/
theorem sshiftRight_min (x : BitVec w) (n : Nat) : x.sshiftRight (min n w) = x.sshiftRight n := by
  rcases Nat.le_total n w with h | h
  · rw [Nat.min_eq_left h]
  · rw [Nat.min_eq_right h]
    apply BitVec.eq_of_getLsbD_eq
    intro i hi
    rw [BitVec.getLsbD_sshiftRight, BitVec.getLsbD_sshiftRight, if_neg (by omega), if_neg (by omega)]

theorem ofInt_sshiftRight (x : BitVec w) (n : Nat) : BitVec.ofInt w (x.toInt / 2 ^ min n w) = x.sshiftRight n := by
  rw [← sshiftRight_min, BitVec.sshiftRight, Int.shiftRight_eq_div_pow]
  norm_cast

/-- The two parts of a rotation share no bit. -/
theorem ofNat_rotateLeft (x : BitVec w) (n : Nat) : BitVec.ofNat w (x.toNat * 2 ^ (n % w) + x.toNat / 2 ^ (w - n % w)) = x.rotateLeft n := by
  have hlow : x.toNat / 2 ^ (w - n % w) < 2 ^ (n % w) := by
    rw [Nat.div_lt_iff_lt_mul (by positivity), ← Nat.pow_add]
    exact x.isLt.trans_le (Nat.pow_le_pow_right (by decide) (by omega))
  have hw : x.toNat / 2 ^ (w - n % w) < 2 ^ w := (Nat.div_le_self ..).trans_lt x.isLt
  apply BitVec.eq_of_toNat_eq
  rw [BitVec.toNat_ofNat, BitVec.toNat_rotateLeft, ← Nat.shiftLeft_eq, Nat.shiftLeft_add_eq_or_of_lt hlow, Nat.or_mod_two_pow,
    Nat.mod_eq_of_lt hw, Nat.shiftRight_eq_div_pow]

theorem toNat_append_eq (x y : BitVec w) : (x ++ y).toNat = x.toNat * 2 ^ w + y.toNat := by
  rw [BitVec.toNat_append, ← Nat.shiftLeft_add_eq_or_of_lt y.isLt, Nat.shiftLeft_eq]

theorem ofNat_funnelRight (x y : BitVec w) (k : Nat) : BitVec.ofNat w ((x.toNat * 2 ^ w + y.toNat) / 2 ^ k) = ((x ++ y) >>> k).setWidth w := by
  apply BitVec.eq_of_toNat_eq
  rw [BitVec.toNat_ofNat, BitVec.toNat_setWidth, BitVec.toNat_ushiftRight, toNat_append_eq, Nat.shiftRight_eq_div_pow]

theorem ofNat_funnelLeft (x y : BitVec w) (k : Nat) :
    BitVec.ofNat w ((x.toNat * 2 ^ w + y.toNat) * 2 ^ k / 2 ^ w) = ((x ++ y) <<< k).extractLsb' w w := by
  apply BitVec.eq_of_toNat_eq
  rw [BitVec.toNat_ofNat, BitVec.extractLsb'_toNat, BitVec.toNat_shiftLeft, toNat_append_eq, Nat.shiftRight_eq_div_pow, Nat.shiftLeft_eq,
    Nat.pow_add, Nat.mod_mul_right_div_self, Nat.mod_mod]

/-! ### Bit fields (R284) -/

/-- The bits of a word from `p` on, `k` of them. -/
theorem toNat_field (x : BitVec w) (p k : Nat) : ((x >>> p).setWidth k).toNat = x.toNat / 2 ^ p % 2 ^ k := by
  rw [BitVec.toNat_setWidth, BitVec.toNat_ushiftRight, Nat.shiftRight_eq_div_pow]

/-- A number by its bits below `p`, its field of `k` bits from there, and the bits above. -/
theorem field_add (x p k : Nat) : x = 2 ^ p * (2 ^ k * (x / 2 ^ p / 2 ^ k) + x / 2 ^ p % 2 ^ k) + x % 2 ^ p := by
  rw [Nat.div_add_mod, Nat.div_add_mod]

theorem testBit_field_add (h z l p k i : Nat) (hz : z < 2 ^ k) (hl : l < 2 ^ p) : (2 ^ p * (2 ^ k * h + z) + l).testBit i =
    if i < p then l.testBit i else if i < p + k then z.testBit (i - p) else h.testBit (i - p - k) := by
  rw [Nat.testBit_two_pow_mul_add _ hl, Nat.testBit_two_pow_mul_add _ hz]
  grind

/-- A number whose field of `k` bits from `p` on is replaced. -/
theorem testBit_insert (x z p k i : Nat) : (x - x / 2 ^ p % 2 ^ k * 2 ^ p + z % 2 ^ k * 2 ^ p).testBit i =
    if p ≤ i ∧ i < p + k then z.testBit (i - p) else x.testBit i := by
  have hx := field_add x p k
  have hlow : x % 2 ^ p < 2 ^ p := Nat.mod_lt _ (by positivity)
  have hmid : x / 2 ^ p % 2 ^ k < 2 ^ k := Nat.mod_lt _ (by positivity)
  have hz : z % 2 ^ k < 2 ^ k := Nat.mod_lt _ (by positivity)
  have hnew : x - x / 2 ^ p % 2 ^ k * 2 ^ p + z % 2 ^ k * 2 ^ p = 2 ^ p * (2 ^ k * (x / 2 ^ p / 2 ^ k) + z % 2 ^ k) + x % 2 ^ p := by
    rw [Nat.mul_add] at hx ⊢
    rw [Nat.mul_comm (x / 2 ^ p % 2 ^ k), Nat.mul_comm (z % 2 ^ k)]
    omega
  have hbit : x.testBit i = if i < p then (x % 2 ^ p).testBit i else if i < p + k then (x / 2 ^ p % 2 ^ k).testBit (i - p)
      else (x / 2 ^ p / 2 ^ k).testBit (i - p - k) := by
    rw [← testBit_field_add _ _ _ _ _ _ hmid hlow, ← hx]
  rw [hnew, testBit_field_add _ _ _ _ _ _ hz hlow, hbit, Nat.testBit_mod_two_pow]
  grind

/-! ### Counts (R283) -/

theorem ones_eq (x : BitVec w) : ones w x.toNat = ((List.range w).filter x.getLsbD).length := by
  have h : ∀ (js : List Nat) (k : Nat), js.foldl (fun k i => k + x.toNat / 2 ^ i % 2) k = k + (js.filter x.getLsbD).length := by
    intro js
    induction js with
    | nil => simp
    | cons j js ih =>
      intro k
      rw [List.foldl_cons, ih, ← Nat.toNat_testBit, List.filter_cons]
      change k + (x.getLsbD j).toNat + _ = _
      cases x.getLsbD j
      · simp
      · simp [Nat.add_assoc, Nat.add_comm 1]
  rw [ones, h, Nat.zero_add]

theorem bit_beq_one (x : BitVec w) (i : Nat) : (x.toNat / 2 ^ i % 2 == 1) = x.getLsbD i := by
  rw [BitVec.getLsbD, Nat.testBit_eq_decide_div_mod_eq]
  rfl

/-- The lowest one bit: those below it are zero (R283). -/
theorem trailing_spec (x : BitVec w) : trailing w x.toNat ≤ w ∧ (∀ i, i < trailing w x.toNat → x.getLsbD i = false)
    ∧ (trailing w x.toNat < w → x.getLsbD (trailing w x.toNat) = true) := by
  simp only [trailing, bit_beq_one]
  cases hf : (List.range w).find? fun i => x.getLsbD i with
  | none =>
    rw [List.find?_range_eq_none] at hf
    exact ⟨le_rfl, fun i hi => by simpa using hf i hi, fun h => absurd h (lt_irrefl _)⟩
  | some j =>
    obtain ⟨hj, hm, hbelow⟩ := List.find?_range_eq_some.1 hf
    exact ⟨(List.mem_range.1 hm).le, fun i hi => by simpa using hbelow i hi, fun _ => hj⟩

/-- The highest one bit: those above it are zero (R283). -/
theorem bitLen_spec (x : BitVec w) : (∀ i, bitLen x.toNat ≤ i → x.getLsbD i = false)
    ∧ (bitLen x.toNat ≠ 0 → x.getLsbD (bitLen x.toNat - 1) = true) := by
  have hlt : x.toNat < 2 ^ bitLen x.toNat := Nat.lt_of_not_le fun h => lt_irrefl _ (lt_bitLen h)
  refine ⟨fun i hi => Nat.testBit_lt_two_pow (hlt.trans_le (Nat.pow_le_pow_right (by decide) hi)), fun h0 => ?_⟩
  have hle : 2 ^ (bitLen x.toNat - 1) ≤ x.toNat := Nat.le_of_not_lt fun h => by
    have := bitLen_le h
    omega
  exact Nat.testBit_of_two_pow_le_and_two_pow_add_one_gt hle (by rwa [Nat.sub_add_cancel (Nat.pos_of_ne_zero h0)])

theorem foldl_range_add (f : Nat → Nat) (n : Nat) : (List.range n).foldl (fun k i => k + f i) 0 = ∑ i ∈ Finset.range n, f i := by
  induction n with
  | zero => rfl
  | succ n ih => rw [List.range_succ, List.foldl_append, ih, Finset.sum_range_succ]; rfl

/-- The bits in reverse are those of the number that `lanesOf_aux` builds bit by bit. -/
theorem reversed_eq (x : BitVec w) :
    reversed w x.toNat = (List.range w).foldl (fun k i => if x.getLsbD (w - 1 - i) then k + 2 ^ i else k) 0 := by
  have hite : (fun (k i : Nat) => if x.getLsbD (w - 1 - i) then k + 2 ^ i else k) = fun k i => k + (x.getLsbD (w - 1 - i)).toNat * 2 ^ i := by
    funext k i
    cases x.getLsbD (w - 1 - i) <;> simp
  rw [reversed, hite, foldl_range_add, foldl_range_add, ← Finset.sum_range_reflect (fun i => (x.getLsbD (w - 1 - i)).toNat * 2 ^ i)]
  refine Finset.sum_congr rfl fun i hi => ?_
  have hi := Finset.mem_range.1 hi
  rw [show w - 1 - (w - 1 - i) = i by omega, ← Nat.toNat_testBit]
  rfl

theorem testBit_reversed (x : BitVec w) {i : Nat} (hi : i < w) : (reversed w x.toNat).testBit i = x.getLsbD (w - 1 - i) := by
  rw [reversed_eq, (lanesOf_aux _ w i).2, decide_eq_true hi, Bool.true_and]

end logic

/-! ### A result from what gives it -/

section block
variable {ty opc v : Nat} {a b c d : Dword}

theorem intOp_eq_word {r : BitVec (tyWidth ty)} (hop : intOp opc ty v a b c = (d, 0)) (hd : d = r.setWidth 64) :
    intOp opc ty v a b c = (r.setWidth 64, 0) := by
  rw [hop, hd]

theorem intOp_eq_ofNat {n : Nat} {r : BitVec (tyWidth ty)} (hop : intOp opc ty v a b c = (BitVec.ofNat 64 (n % 2 ^ tyWidth ty), 0))
    (hn : BitVec.ofNat (tyWidth ty) n = r) : intOp opc ty v a b c = (r.setWidth 64, 0) := by
  rw [hop, ofNat_mod_eq, hn]

theorem intOp_eq_masked {e : Dword} {r : BitVec (tyWidth ty)}
    (hop : intOp opc ty v a b c = (e &&& BitVec.ofNat 64 (2 ^ tyWidth ty - 1), 0)) (hn : e.setWidth (tyWidth ty) = r) :
    intOp opc ty v a b c = (r.setWidth 64, 0) := by
  rw [hop, and_ones_eq, hn]

end block

/-! ### The logic and bit block, operation by operation (R283, R284) -/

section ops
variable (ty : Nat) (a b c : Dword)

theorem toNat_width : a.toNat % 2 ^ tyWidth ty = (a.setWidth (tyWidth ty)).toNat := (BitVec.toNat_setWidth ..).symm

/-- Within the width a result has the bits of the number that gives it. -/
theorem getLsbD_ofNat_width (n : Nat) {i : Nat} (hi : i < tyWidth ty) : (BitVec.ofNat 64 (n % 2 ^ tyWidth ty)).getLsbD i = n.testBit i := by
  rw [ofNat_mod_eq, BitVec.getLsbD_setWidth, BitVec.getLsbD_ofNat, decide_eq_true (hi.trans_le (tyWidth_le ty)), decide_eq_true hi,
    Bool.true_and, Bool.true_and]

theorem intOp_shl : intOp 0x015 ty 0 a b c = ((a.setWidth (tyWidth ty) <<< (b.toNat % 2 ^ 32)).setWidth 64, 0) := by
  refine intOp_eq_word (d := if tyWidth ty ≤ b.toNat % 2 ^ 32 then 0
    else BitVec.ofNat 64 (a.toNat % 2 ^ tyWidth ty * 2 ^ (b.toNat % 2 ^ 32) % 2 ^ tyWidth ty)) rfl ?_
  split_ifs with h
  · rw [BitVec.shiftLeft_eq_zero h]; simp
  · rw [ofNat_mod_eq, toNat_width, ofNat_shiftLeft]

theorem intOp_shr : intOp 0x016 ty 0 a b c = ((a.setWidth (tyWidth ty) >>> (b.toNat % 2 ^ 32)).setWidth 64, 0) := by
  refine intOp_eq_word (d := if tyWidth ty ≤ b.toNat % 2 ^ 32 then 0
    else BitVec.ofNat 64 (a.toNat % 2 ^ tyWidth ty / 2 ^ (b.toNat % 2 ^ 32) % 2 ^ tyWidth ty)) rfl ?_
  split_ifs with h
  · rw [BitVec.ushiftRight_eq_zero h]; simp
  · rw [ofNat_mod_eq, toNat_width, ofNat_ushiftRight]

theorem intOp_sar : intOp 0x017 ty 0 a b c = (((a.setWidth (tyWidth ty)).sshiftRight (b.toNat % 2 ^ 32)).setWidth 64, 0) := by
  refine intOp_eq_word (d := lowBits (tyWidth ty) (signFrom (tyWidth ty) (a.toNat % 2 ^ tyWidth ty) / 2 ^ min (b.toNat % 2 ^ 32) (tyWidth ty))) rfl ?_
  rw [lowBits_eq, toNat_width, signFrom_toNat (tyWidth_pos ty), ofInt_sshiftRight]

/-- An empty field, and one that is not (R284). -/
theorem bitField_eq (w : Nat) : bitField w b = if w ≤ b.toNat % 256 ∨ b.toNat / 256 % 256 = 0 then none
    else some (b.toNat % 256, min (b.toNat / 256 % 256) (w - b.toNat % 256)) := by
  simp [bitField]

theorem intOp_bfx {p k : Nat} (hp : p = b.toNat % 256) (hk : k = min (b.toNat / 256 % 256) (tyWidth ty - p)) :
    intOp 0x01A ty 0 a b c = ((if tyWidth ty ≤ p ∨ b.toNat / 256 % 256 = 0 then 0
      else if 2 ≤ ty then ((a.setWidth (tyWidth ty) >>> p).setWidth k).signExtend (tyWidth ty)
      else ((a.setWidth (tyWidth ty) >>> p).setWidth k).setWidth (tyWidth ty) : BitVec (tyWidth ty)).setWidth 64, 0) := by
  have hop : intOp 0x01A ty 0 a b c = (match bitField (tyWidth ty) b with
    | none => 0
    | some (p, k) =>
      if 2 ≤ ty then lowBits (tyWidth ty) (signFrom k (a.toNat % 2 ^ tyWidth ty / 2 ^ p % 2 ^ k))
      else BitVec.ofNat 64 (a.toNat % 2 ^ tyWidth ty / 2 ^ p % 2 ^ k % 2 ^ tyWidth ty), 0) := rfl
  rw [hop, bitField_eq, ← hp, ← hk]
  by_cases h : tyWidth ty ≤ p ∨ b.toNat / 256 % 256 = 0
  · simp [h]
  · have hpos : 0 < k := by omega
    simp only [h, if_false, toNat_width, ← toNat_field, signFrom_toNat hpos, lowBits_eq, ofNat_mod_eq, BitVec.ofNat_toNat]
    split_ifs <;> rfl

theorem intOp_bfi {p k i : Nat} (hp : p = b.toNat % 256) (hk : k = min (b.toNat / 256 % 256) (tyWidth ty - p)) (hi : i < tyWidth ty) :
    (intOp 0x01B ty 0 a b c).1.getLsbD i =
      if ¬ (tyWidth ty ≤ p ∨ b.toNat / 256 % 256 = 0) ∧ p ≤ i ∧ i < p + k then (c.setWidth (tyWidth ty)).getLsbD (i - p)
      else (a.setWidth (tyWidth ty)).getLsbD i := by
  have hop : intOp 0x01B ty 0 a b c = (match bitField (tyWidth ty) b with
    | none => BitVec.ofNat 64 (a.toNat % 2 ^ tyWidth ty % 2 ^ tyWidth ty)
    | some (p, k) => BitVec.ofNat 64 ((a.toNat % 2 ^ tyWidth ty - a.toNat % 2 ^ tyWidth ty / 2 ^ p % 2 ^ k * 2 ^ p
        + c.toNat % 2 ^ k * 2 ^ p) % 2 ^ tyWidth ty), 0) := rfl
  rw [hop, bitField_eq, ← hp, ← hk]
  by_cases h : tyWidth ty ≤ p ∨ b.toNat / 256 % 256 = 0
  · simp only [h, if_true, not_true_eq_false, false_and, if_false]
    rw [getLsbD_ofNat_width ty _ hi, toNat_width]
    rfl
  · simp only [h, if_false, not_false_eq_true, true_and]
    rw [getLsbD_ofNat_width ty _ hi, testBit_insert, toNat_width]
    have hz (hpi : p ≤ i) : (c.setWidth (tyWidth ty)).getLsbD (i - p) = c.toNat.testBit (i - p) := by
      rw [BitVec.getLsbD_setWidth, decide_eq_true (show i - p < tyWidth ty by omega), Bool.true_and]
      rfl
    split_ifs with hin
    · rw [hz hin.1]
    · rfl

/-- A count of at most the width is delivered whole. -/
theorem toNat_count {n : Nat} (h : n ≤ tyWidth ty) : (BitVec.ofNat 64 (n % 2 ^ tyWidth ty)).toNat = n := by
  have hw : n < 2 ^ tyWidth ty := h.trans_lt Nat.lt_two_pow_self
  rw [BitVec.toNat_ofNat, Nat.mod_eq_of_lt hw, Nat.mod_eq_of_lt (hw.trans_le (Nat.pow_le_pow_right (by decide) (tyWidth_le ty)))]

theorem intOp_popc : (intOp 0x01C ty 0 a b c).1.toNat = ((List.range (tyWidth ty)).filter (a.setWidth (tyWidth ty)).getLsbD).length := by
  show (BitVec.ofNat 64 (ones (tyWidth ty) (a.toNat % 2 ^ tyWidth ty) % 2 ^ tyWidth ty)).toNat = _
  rw [toNat_width, ones_eq, toNat_count ty ((List.length_filter_le ..).trans_eq List.length_range)]

/-- `CLZ` counts the zeros above the highest one bit (R283). -/
theorem intOp_clz : (intOp 0x01D ty 0 a b c).1.toNat = tyWidth ty - bitLen (a.setWidth (tyWidth ty)).toNat := by
  show (BitVec.ofNat 64 ((tyWidth ty - bitLen (a.toNat % 2 ^ tyWidth ty)) % 2 ^ tyWidth ty)).toNat = _
  rw [toNat_width, toNat_count ty (Nat.sub_le ..)]

theorem intOp_clz_spec : (intOp 0x01D ty 0 a b c).1.toNat ≤ tyWidth ty
    ∧ (∀ i, tyWidth ty - (intOp 0x01D ty 0 a b c).1.toNat ≤ i → (a.setWidth (tyWidth ty)).getLsbD i = false)
    ∧ ((intOp 0x01D ty 0 a b c).1.toNat < tyWidth ty →
        (a.setWidth (tyWidth ty)).getLsbD (tyWidth ty - 1 - (intOp 0x01D ty 0 a b c).1.toNat) = true) := by
  obtain ⟨habove, htop⟩ := bitLen_spec (a.setWidth (tyWidth ty))
  have hlen : bitLen (a.setWidth (tyWidth ty)).toNat ≤ tyWidth ty := bitLen_le (BitVec.isLt _)
  rw [intOp_clz, Nat.sub_sub_self hlen, Nat.sub_right_comm, Nat.sub_sub_self hlen]
  exact ⟨Nat.sub_le .., habove, fun h => htop (by omega)⟩

/-- `CTZ` counts the zeros below the lowest one bit (R283). -/
theorem intOp_ctz : (intOp 0x01E ty 0 a b c).1.toNat = trailing (tyWidth ty) (a.setWidth (tyWidth ty)).toNat := by
  show (BitVec.ofNat 64 (trailing (tyWidth ty) (a.toNat % 2 ^ tyWidth ty) % 2 ^ tyWidth ty)).toNat = _
  rw [toNat_width, toNat_count ty (trailing_spec _).1]

theorem intOp_ctz_spec : (intOp 0x01E ty 0 a b c).1.toNat ≤ tyWidth ty
    ∧ (∀ i, i < (intOp 0x01E ty 0 a b c).1.toNat → (a.setWidth (tyWidth ty)).getLsbD i = false)
    ∧ ((intOp 0x01E ty 0 a b c).1.toNat < tyWidth ty →
        (a.setWidth (tyWidth ty)).getLsbD (intOp 0x01E ty 0 a b c).1.toNat = true) := by
  rw [intOp_ctz]
  exact trailing_spec _

theorem intOp_brev {i : Nat} (hi : i < tyWidth ty) :
    (intOp 0x01F ty 0 a b c).1.getLsbD i = (a.setWidth (tyWidth ty)).getLsbD (tyWidth ty - 1 - i) := by
  show (BitVec.ofNat 64 (reversed (tyWidth ty) (a.toNat % 2 ^ tyWidth ty) % 2 ^ tyWidth ty)).getLsbD i = _
  rw [getLsbD_ofNat_width ty _ hi, toNat_width, testBit_reversed _ hi]

/-! ### `ICMP` and `SEL` (R285, R286) -/

theorem intOp_icmp (v : Nat) : intOp 0x020 ty v a b c =
    (if if v = 0 then tyVal ty a = tyVal ty b else if v = 1 then tyVal ty a ≠ tyVal ty b else if v = 2 then tyVal ty a < tyVal ty b
      else tyVal ty a ≤ tyVal ty b then 1 else 0, 0) := rfl

theorem intOp_sel : intOp 0x021 ty 0 a b c =
    ((if c.getLsbD 0 then a.setWidth (tyWidth ty) else b.setWidth (tyWidth ty)).setWidth 64, 0) := by
  have hc : c.toNat % 2 = 1 ↔ c.getLsbD 0 = true := by simp [BitVec.getLsbD, Nat.testBit_zero]
  refine intOp_eq_word (d := lowBits (tyWidth ty) (if c.toNat % 2 = 1 then tyVal ty a else tyVal ty b)) rfl ?_
  rw [lowBits_eq, tyVal_eq, tyVal_eq]
  simp only [hc]
  split_ifs
  · rw [ofInt_typedVal]
  · rw [ofInt_typedVal]

theorem intOp_mov : intOp 0x022 ty 0 a b c = ((a.setWidth (tyWidth ty)).setWidth 64, 0) :=
  intOp_eq_word (d := lowBits (tyWidth ty) (tyVal ty a)) rfl (by rw [lowBits_eq, tyVal_eq, ofInt_typedVal])

end ops

end Sys2Proof.Machine

namespace Sys2Proof
open Machine

/-- Settles O4: an exact result wrapped or clamped to its type, and the bits of the others. -/
theorem integerResults : Obligations.IntegerResults := by
  unfold Obligations.IntegerResults
  refine ⟨fun ty v a b c hty => ?_, fun ty a b c hty => ?_⟩
  · intro w sgn x y z wide plain clamp
    have hx : tyVal ty a = typedVal ty x := tyVal_eq ty a
    have hy : tyVal ty b = typedVal ty y := tyVal_eq ty b
    have hz : tyVal ty c = typedVal ty z := tyVal_eq ty c
    have hsx (hs : sgn) : tyVal ty a = x.toInt := hx.trans (if_pos hs)
    refine ⟨intOp_eq_wrapped rfl (by rw [BitVec.ofInt_add, hx, hy, ofInt_typedVal, ofInt_typedVal]),
      intOp_eq_wrapped rfl (by rw [ofInt_sub, hx, hy, ofInt_typedVal, ofInt_typedVal]),
      intOp_eq_wrapped rfl (by rw [BitVec.ofInt_mul, hx, hy, ofInt_typedVal, ofInt_typedVal]),
      intOp_eq_wrapped rfl (by rw [ofInt_ediv_two_pow, BitVec.ofInt_mul, hx, hy, ofInt_typedVal_extend, ofInt_typedVal_extend]),
      intOp_eq_wrapped rfl (by rw [BitVec.ofInt_add, BitVec.ofInt_mul, hx, hy, hz, ofInt_typedVal, ofInt_typedVal, ofInt_typedVal]),
      intOp_eq_wrapped rfl (by rw [hx, hy, ofInt_min, ite_typedVal_lt]), intOp_eq_wrapped rfl (by rw [hx, hy, ofInt_max, ite_typedVal_lt]),
      fun hs => ⟨intOp_eq_wrapped rfl (by rw [hsx hs, ofInt_natAbs]), intOp_eq_clamped rfl (by rw [hsx hs]),
        intOp_eq_clamped rfl (by rw [hsx hs])⟩,
      intOp_eq_wrapped rfl (by rw [BitVec.ofInt_neg, hx, ofInt_typedVal]), intOp_eq_wrapped rfl (by rw [hx, hy, ofInt_divQ ty hty]),
      intOp_eq_wrapped rfl (by rw [hx, hy, divR_eq, ofInt_tmod]), fun hodd _ => intOp_lea ty a b c hty hodd,
      intOp_eq_clamped rfl ?_, intOp_eq_clamped rfl ?_⟩
    all_goals rw [hx, hy]
    · exact apply_ite₂ (· + ·) ..
    · exact apply_ite₂ (· - ·) ..
  · intro w x y z n k pos len none gives small
    have hx : a.toNat % 2 ^ w = x.toNat := toNat_width ty a
    have hy : b.toNat % 2 ^ w = y.toNat := toNat_width ty b
    have hvx : tyVal ty a = typedVal ty x := tyVal_eq ty a
    have hvy : tyVal ty b = typedVal ty y := tyVal_eq ty b
    have hlow : w ≤ 64 := tyWidth_le ty
    obtain ⟨hclz, habove, htop⟩ := intOp_clz_spec ty a b c
    obtain ⟨hctz, hbelow, hlowest⟩ := intOp_ctz_spec ty a b c
    refine ⟨intOp_eq_masked (e := a &&& b) rfl BitVec.setWidth_and, intOp_eq_masked (e := a ||| b) rfl BitVec.setWidth_or,
      intOp_eq_masked (e := a ^^^ b) rfl BitVec.setWidth_xor,
      intOp_eq_masked (e := a &&& ~~~b) rfl (by rw [BitVec.setWidth_and, BitVec.setWidth_not hlow]),
      intOp_eq_masked (e := a ||| ~~~b) rfl (by rw [BitVec.setWidth_or, BitVec.setWidth_not hlow]),
      intOp_shl ty a b c, intOp_shr ty a b c, intOp_sar ty a b c,
      intOp_eq_ofNat (n := a.toNat % 2 ^ w * 2 ^ (n % w) + a.toNat % 2 ^ w / 2 ^ (w - n % w)) rfl (by rw [hx, ofNat_rotateLeft]),
      intOp_eq_ofNat (n := (a.toNat % 2 ^ w * 2 ^ w + b.toNat % 2 ^ w) / 2 ^ k) rfl (by rw [hx, hy, ofNat_funnelRight]),
      intOp_eq_ofNat (n := (a.toNat % 2 ^ w * 2 ^ w + b.toNat % 2 ^ w) * 2 ^ k / 2 ^ w) rfl (by rw [hx, hy, ofNat_funnelLeft]),
      intOp_bfx ty a b c rfl rfl, fun i hi => intOp_bfi ty a b c rfl rfl hi, intOp_popc ty a b c, hclz, habove, htop, hctz, hbelow, hlowest,
      fun i hi => intOp_brev ty a b c hi, ?_, ?_, ?_, ?_, intOp_sel ty a b c, intOp_mov ty a b c⟩
    all_goals rw [intOp_icmp, hvx, hvy]
    · simp [typedVal_inj]
    · simp [typedVal_inj]
    · simp [typedVal_lt]
    · simp [typedVal_le]

end Sys2Proof

/-! PROOF. The conversion block (spec/14_isa_float_and_blocks.md R310 to R317). -/
namespace Sys2Proof
open Machine

/-- Settles O8: each word is a T word, and the run of a T word with nothing before it is done. -/
theorem convertWords : Obligations.ConvertWords := by
  unfold Obligations.ConvertWords
  intro s f m
  exact ⟨fun h => ⟨_, rfl, State.runT_done h _⟩, fun h => ⟨_, rfl, State.runT_done h _⟩, fun h => ⟨_, rfl, State.runT_done h _⟩,
    fun h => ⟨_, rfl, State.runT_done h _⟩, fun h => ⟨_, rfl, State.runT_done h _⟩, fun h => ⟨_, rfl, State.runT_done h _⟩,
    fun h => ⟨_, rfl, State.runT_done h _⟩⟩

end Sys2Proof

/-! PROOF. What an atomic stores, in bit-vector terms (spec/15_isa_memory_atomics_sync.md R331, R333). -/
namespace Sys2Proof.Machine

section atoms
variable (w64 sgn : Bool) (x y : Nat)

/-- The width of an atomic's operands (R330). -/
abbrev atomWidth : Nat := if w64 then 64 else 32

/-- The order of an atomic's values is that of the words of its width, signed or unsigned (R331). -/
theorem atomVal_lt : atomVal w64 sgn x < atomVal w64 sgn y ↔
    (if sgn then (BitVec.ofNat (atomWidth w64) x).slt (BitVec.ofNat (atomWidth w64) y)
      else (BitVec.ofNat (atomWidth w64) x).ult (BitVec.ofNat (atomWidth w64) y)) = true := by
  have hval (z : Nat) : atomVal w64 sgn z = typedVal (if sgn then 2 else 0) (BitVec.ofNat (atomWidth w64) z) := by
    rw [atomVal, tyVal_eq]
    cases w64 <;> cases sgn <;> simp [atomWidth, tyWidth, typedVal, BitVec.setWidth_ofNat_of_le]
  rw [hval, hval, typedVal_lt]
  cases sgn <;> simp

variable {w64 x y} (hx : x < 2 ^ atomWidth w64) (hy : y < 2 ^ atomWidth w64)
include hx hy

theorem toNat_and_ofNat : (BitVec.ofNat (atomWidth w64) x &&& BitVec.ofNat (atomWidth w64) y).toNat = x &&& y := by
  rw [BitVec.toNat_and, BitVec.toNat_ofNat, BitVec.toNat_ofNat, Nat.mod_eq_of_lt hx, Nat.mod_eq_of_lt hy]

theorem toNat_or_ofNat : (BitVec.ofNat (atomWidth w64) x ||| BitVec.ofNat (atomWidth w64) y).toNat = x ||| y := by
  rw [BitVec.toNat_or, BitVec.toNat_ofNat, BitVec.toNat_ofNat, Nat.mod_eq_of_lt hx, Nat.mod_eq_of_lt hy]

theorem toNat_xor_ofNat : (BitVec.ofNat (atomWidth w64) x ^^^ BitVec.ofNat (atomWidth w64) y).toNat = x ^^^ y := by
  rw [BitVec.toNat_xor, BitVec.toNat_ofNat, BitVec.toNat_ofNat, Nat.mod_eq_of_lt hx, Nat.mod_eq_of_lt hy]

end atoms

end Sys2Proof.Machine

namespace Sys2Proof
open Machine

/-- Settles O21: the sum wraps to the width, the bitwise operations and the swaps keep within it, and the least and the greatest compare the
words of that width. -/
theorem atomicResults : Obligations.AtomicResults := by
  unfold Obligations.AtomicResults
  intro w64 sgn rnd old b swap w F hold hb x y less more gives
  have hless : atomVal w64 sgn old < atomVal w64 sgn b ↔ less = true := atomVal_lt w64 sgn old b
  have hmore : atomVal w64 sgn b < atomVal w64 sgn old ↔ more = true := atomVal_lt w64 sgn b old
  refine ⟨?_, congrArg (·, 0) (toNat_and_ofNat hold hb).symm, congrArg (·, 0) (toNat_or_ofNat hold hb).symm,
    congrArg (·, 0) (toNat_xor_ofNat hold hb).symm, ?_, ?_, rfl, rfl, rfl, rfl, rfl⟩
  · exact congrArg (·, 0) (by rw [← BitVec.ofNat_add, BitVec.toNat_ofNat])
  · simp only [gives, atomApply, decide_eq_true_eq, hmore]
  · simp only [gives, atomApply, decide_eq_true_eq, hless]

end Sys2Proof

/-! SUPPORT. X words: the trap of faulting lanes, the accesses of a word's lanes, and what the end of a word leaves as it was
(spec/05_cores_and_execution.md R103, R105, R114, spec/15_isa_memory_atomics_sync.md R318). -/
namespace Sys2Proof.Machine

/-! ### Faults of lanes (R114) -/

section faults
variable {m : Lanes} {fault : Nat → Option (Nat × Dword)} {l c : Nat} {a : Dword}

theorem lanesList_sorted (m : Lanes) : (lanesList m).Pairwise (· < ·) := List.pairwise_lt_range.filter _

/-- The lanes that fault, each with its fault. -/
def faultList (m : Lanes) (fault : Nat → Option (Nat × Dword)) : List (Nat × Nat × Dword) :=
  (lanesList m).filterMap fun l => (fault l).map fun f => (l, f)

theorem mem_faultList {x : Nat × Nat × Dword} : x ∈ faultList m fault ↔ m.getLsbD x.1 = true ∧ fault x.1 = some x.2 := by
  obtain ⟨j, d⟩ := x
  simp only [faultList, List.mem_filterMap, mem_lanesList, Option.map_eq_some_iff, Prod.mk.injEq]
  constructor
  · rintro ⟨k, ⟨_, hk⟩, e, he, rfl, rfl⟩
    exact ⟨hk, he⟩
  · rintro ⟨hj, hd⟩
    exact ⟨j, ⟨BitVec.lt_of_getLsbD hj, hj⟩, d, hd, rfl, rfl⟩

theorem faultList_sorted : (faultList m fault).Pairwise (·.1 < ·.1) :=
  (lanesList_sorted m).filterMap _ fun i j hij x hx y hy => by
    obtain ⟨_, _, rfl⟩ := Option.map_eq_some_iff.1 hx
    obtain ⟨_, _, rfl⟩ := Option.map_eq_some_iff.1 hy
    exact hij

/-- A fold that keeps the lower code answers a code that all others are at least. -/
theorem foldl_min_eq {xs : List (Nat × Nat × Dword)} {b : Nat} (hmem : c = b ∨ ∃ x ∈ xs, x.2.1 = c) (hb : c ≤ b)
    (hle : ∀ x ∈ xs, c ≤ x.2.1) : xs.foldl (fun c x => min c x.2.1) b = c := by
  induction xs generalizing b with
  | nil => simpa [eq_comm] using hmem
  | cons x xs ih =>
    have hx := hle x List.mem_cons_self
    refine ih ?_ (le_min hb hx) fun y hy => hle y (List.mem_cons_of_mem _ hy)
    rcases hmem with rfl | ⟨y, hy, hyc⟩
    · exact .inl (min_eq_left hx).symm
    · rcases List.mem_cons.1 hy with rfl | hy
      · exact .inl (hyc ▸ (min_eq_right (hyc ▸ hb)).symm)
      · exact .inr ⟨y, hy, hyc⟩

/-- The element of least key stands first in a sorted list. -/
theorem head?_of_least {xs : List (Nat × Nat × Dword)} {x : Nat × Nat × Dword} (hs : xs.Pairwise (·.1 < ·.1)) (hx : x ∈ xs)
    (hle : ∀ y ∈ xs, x.1 ≤ y.1) : xs.head? = some x := by
  cases xs with
  | nil => cases hx
  | cons y ys =>
    rcases List.mem_cons.1 hx with rfl | hx
    · rfl
    · have hlt := List.rel_of_pairwise_cons hs hx
      have := hle y List.mem_cons_self
      omega

theorem pickFault_cons {x : Nat × Nat × Dword} {xs : List (Nat × Nat × Dword)} (h : faultList m fault = x :: xs) :
    pickFault m fault =
      some (xs.foldl (fun c x => min c x.2.1) x.2.1,
        (lanesOf fun l => ((faultList m fault).filter fun y => y.2.1 = xs.foldl (fun c x => min c x.2.1) x.2.1).any fun y => y.1 = l),
        ((((faultList m fault).filter fun y => y.2.1 = xs.foldl (fun c x => min c x.2.1) x.2.1).head?.map fun y => y.2.2).getD 0)) := by
  unfold pickFault
  rw [← faultList, h]

/-- The trap of faulting lanes: the lowest code, the lanes that have it, the address of the lowest of them. -/
theorem pickFault_lowest (hm : m.getLsbD l = true) (hl : fault l = some (c, a))
    (hmin : ∀ j d, m.getLsbD j = true → fault j = some d → c ≤ d.1 ∧ (d.1 = c → l ≤ j)) :
    pickFault m fault = some (c, lanesOf fun j => m.getLsbD j && (fault j).any fun d => d.1 == c, a) := by
  have hmem : (l, c, a) ∈ faultList m fault := mem_faultList.2 ⟨hm, hl⟩
  have hle : ∀ x ∈ faultList m fault, c ≤ x.2.1 := fun x hx => (hmin x.1 x.2 (mem_faultList.1 hx).1 (mem_faultList.1 hx).2).1
  have hhead : ((faultList m fault).filter fun x => x.2.1 = c).head? = some (l, c, a) :=
    head?_of_least (faultList_sorted.filter _) (List.mem_filter.2 ⟨hmem, by simp⟩) fun y hy => by
      obtain ⟨hy, hc⟩ := List.mem_filter.1 hy
      exact (hmin y.1 y.2 (mem_faultList.1 hy).1 (mem_faultList.1 hy).2).2 (by simpa using hc)
  have hset : (lanesOf fun j => ((faultList m fault).filter fun x => x.2.1 = c).any fun x => x.1 = j)
      = lanesOf fun j => m.getLsbD j && (fault j).any fun d => d.1 == c := by
    refine congrArg lanesOf (funext fun j => ?_)
    rw [Bool.eq_iff_iff]
    simp only [List.any_filter, List.any_eq_true, mem_faultList, Bool.and_eq_true, Option.any_eq_true_iff_get, decide_eq_true_eq, beq_iff_eq]
    constructor
    · rintro ⟨x, ⟨hx, hf⟩, hc, rfl⟩
      exact ⟨hx, by simp [hf], by simpa [hf] using hc⟩
    · rintro ⟨hj, hs, hc⟩
      exact ⟨(j, (fault j).get hs), ⟨hj, by simp⟩, hc, rfl⟩
  cases hfs : faultList m fault with
  | nil => rw [hfs] at hmem; cases hmem
  | cons x xs =>
    have hc : xs.foldl (fun c x => min c x.2.1) x.2.1 = c := by
      rw [hfs] at hmem hle
      refine foldl_min_eq ?_ (hle x List.mem_cons_self) fun y hy => hle y (List.mem_cons_of_mem _ hy)
      rcases List.mem_cons.1 hmem with h | h
      · exact .inl (congrArg (·.2.1) h)
      · exact .inr ⟨_, h, rfl⟩
    rw [pickFault_cons hfs, hc, hset, hhead]
    rfl

theorem pickFault_eq_none (h : ∀ l, m.getLsbD l = true → fault l = none) : pickFault m fault = none := by
  have hnil : faultList m fault = [] := List.eq_nil_iff_forall_not_mem.2 fun x hx => by
    obtain ⟨hm, hf⟩ := mem_faultList.1 hx
    rw [h _ hm] at hf
    cases hf
  unfold pickFault
  rw [← faultList, hnil]

theorem laneFaults_none (h : ∀ l, m.getLsbD l = true → fault l = none) : laneFaults m fault = none := by
  rw [laneFaults, pickFault_eq_none h]
  rfl

theorem resFaults_eq (res : Resolver) : resFaults m res = laneFaults m (resFault res) := by
  unfold resFaults resFault
  congr 1
  funext l
  obtain ⟨a, c | p⟩ := res l <;> rfl

theorem resFault_none {res : Resolver} {p : Place} (h : (res l).2 = .ok p) : resFault res l = none := by
  rw [resFault, h]

theorem resFaults_none {res : Resolver} (h : ∀ l, m.getLsbD l = true → ∃ p, (res l).2 = .ok p) : resFaults m res = none := by
  rw [resFaults_eq]
  exact laneFaults_none fun l hl => resFault_none (h l hl).choose_spec

/-- An X word that faults lane by lane traps on the faults of its lanes. -/
theorem State.runX_faultsAs {s : State} {i : Instr} {n : Needs} {flt : Lanes → Option DataFault} {act : State → Lanes → Option State}
    (h : s.Clear n m) (he : exec i s = .next (s.runX n flt act)) (hf : flt m = laneFaults m fault) : s.FaultsAs i m fault := by
  intro l c a hm hl hmin
  rw [he, State.runX_fault (d := { cause := c, lanes := _, addr := a }) h]
  rw [hf, laneFaults, pickFault_lowest hm hl hmin]
  rfl

end faults

/-! ### The accesses of lanes (R318) -/

section accesses
variable {m : Lanes} {res : Resolver} {x : LaneAcc} {xs : List LaneAcc} {l : Nat}

theorem mem_lanePlaces : x ∈ lanePlaces m res ↔ m.getLsbD x.lane = true ∧ res x.lane = (x.va, .ok x.place) := by
  obtain ⟨l, va, p⟩ := x
  simp only [lanePlaces, List.mem_filterMap, mem_lanesList]
  constructor
  · rintro ⟨j, ⟨_, hj⟩, hx⟩
    split at hx
    · next hr =>
      cases hx
      exact ⟨hj, hr⟩
    · cases hx
  · rintro ⟨hl, hr⟩
    exact ⟨l, ⟨BitVec.lt_of_getLsbD hl, hl⟩, by rw [hr]⟩

theorem lanePlaces_sorted : (lanePlaces m res).Pairwise (·.lane < ·.lane) :=
  (lanesList_sorted m).filterMap _ fun i j hij x hx y hy => by
    split at hx <;> cases hx
    split at hy <;> cases hy
    exact hij

theorem lanePlaces_of_ok {p : Place} (hl : m.getLsbD l = true) (h : (res l).2 = .ok p) : ⟨l, (res l).1, p⟩ ∈ lanePlaces m res :=
  mem_lanePlaces.2 ⟨hl, Prod.ext rfl h⟩

/-- Of accesses in lane order, a lane's own is found by its lane. -/
theorem find?_lane (hs : xs.Pairwise (·.lane < ·.lane)) (hx : x ∈ xs) : (xs.find? fun y => y.lane = x.lane) = some x := by
  induction xs with
  | nil => cases hx
  | cons y ys ih =>
    rcases List.mem_cons.1 hx with rfl | hx
    · simp
    · have hlt := List.rel_of_pairwise_cons hs hx
      rw [List.find?_cons_of_neg (by simp; omega), ih hs.of_cons hx]

theorem getLsbD_accLanes (h : l < 32) : (accLanes xs).getLsbD l = xs.any fun x => x.lane = l := by
  rw [accLanes, getLsbD_lanesOf]
  simp [h]

end accesses

/-! ### Before the effect of an access (R123, R154, R235) -/

section before
variable {s : State} {i : Instr} {m : Lanes} {xs : List LaneAcc} {go : State → Option State}

theorem State.present_go (h : ∀ x ∈ xs, s.absent x.place = false) : s.present i m xs go = go s := by
  rw [State.present, if_neg]
  simpa using h

theorem State.intact_go {bad : Place → Bool} (h : ∀ x ∈ xs, bad x.place = false) : s.intact bad xs go = go s := by
  have hnil : (xs.filter fun x => bad x.place) = [] := List.filter_eq_nil_iff.2 fun x hx => by simp [h x hx]
  rw [State.intact, hnil]

theorem State.badRead_of_good {n : Nat} {p : Place} (h : s.bad p = false) : s.badRead n p = false := by
  rw [State.badRead, h, Bool.false_and]

end before

/-! ### Counted pages (R134) -/

section counting
variable (s : State) (gid : Nat) (ps done : List Place)

theorem State.sameButLog_trans {s t u : State} (h : s.sameButLog t) (k : t.sameButLog u) : s.sameButLog u := by
  unfold State.sameButLog at *
  rw [k, h]

theorem State.sameButLog_countPage (page : Nat) : s.sameButLog (s.countPage gid page) := by
  unfold State.countPage
  dsimp only
  split
  · rfl
  · split
    · exact State.sameButLog_trans (t := s.setDie _ _) rfl (State.sameButLog_log ..)
    · rfl

theorem State.sameButLog_countPages : s.sameButLog (s.countPages gid ps done) :=
  List.foldlRecOn _ _ (motive := s.sameButLog) rfl fun _ ht _ _ => State.sameButLog_trans ht (State.sameButLog_countPage ..)

/-- A word that touches no counted page counts nothing. -/
theorem State.countPages_uncounted (h : ∀ p ∈ ps, p.ac = none) : s.countPages gid ps done = s := by
  have hnil : ps.filterMap (·.ac) = [] := List.filterMap_eq_nil_iff.2 h
  rw [State.countPages, hnil]
  rfl

end counting

theorem uncounted_places {m : Lanes} {res : Resolver} (h : Uncounted m res) : ∀ p ∈ (lanePlaces m res).map (·.place), p.ac = none := by
  intro p hp
  obtain ⟨x, hx, rfl⟩ := List.mem_map.1 hp
  obtain ⟨hm, hr⟩ := mem_lanePlaces.1 hx
  exact h x.lane x.place hm (by rw [hr])

/-! ### The end of an X word (R103, R105) -/

section ends
variable (s : State) (k : Nat)

theorem State.afterX_only : s.afterX = { s with groups := s.dropLatches.groups, slots := s.afterX.slots } := by
  rw [State.afterX, State.setCache_only]
  rfl

@[simp] theorem State.cur_afterX : s.afterX.cur = { s.cur with lvalid := 0 } := by
  rw [State.afterX, State.setCache_cur, State.dropLatches, State.cur_setCur]

theorem State.group_afterX_ne (h : k ≠ s.iss.gid) : s.afterX.group k = s.group k := by
  rw [State.group, State.afterX_only]
  exact s.group_setCur_ne k _ h

@[simp] theorem State.iss_afterX : s.afterX.iss = s.iss := by rw [State.afterX_only]
@[simp] theorem State.teams_afterX : s.afterX.teams = s.teams := by rw [State.afterX_only]
@[simp] theorem State.cores_afterX : s.afterX.cores = s.cores := by rw [State.afterX_only]
@[simp] theorem State.quads_afterX : s.afterX.quads = s.quads := by rw [State.afterX_only]
@[simp] theorem State.mailbox_afterX : s.afterX.mailbox = s.mailbox := by rw [State.afterX_only]
@[simp] theorem State.launches_afterX : s.afterX.launches = s.launches := by rw [State.afterX_only]
@[simp] theorem State.rd_afterX (a : Nat) : s.afterX.rd a = s.rd a := by rw [State.rd, State.mem_afterX, State.rd]
@[simp] theorem State.team_afterX : s.afterX.team k = s.team k := by rw [State.team, State.teams_afterX, State.team]
@[simp] theorem State.core_afterX : s.afterX.core k = s.core k := by rw [State.core, State.cores_afterX, State.core]
@[simp] theorem State.quad_afterX : s.afterX.quad k = s.quad k := by rw [State.quad, State.quads_afterX, State.quad]

@[simp] theorem State.rd_advance (a : Nat) : s.advance.rd a = s.rd a := rfl
@[simp] theorem State.team_advance : s.advance.team k = s.team k := rfl
@[simp] theorem State.core_advance : s.advance.core k = s.core k := rfl
@[simp] theorem State.quad_advance : s.advance.quad k = s.quad k := rfl
@[simp] theorem State.issued_advance : s.advance.iss.issued = true := rfl

theorem State.group_advance_ne (h : k ≠ s.iss.gid) : s.advance.group k = s.group k := s.group_setCur_ne k _ h

/-- The lanes of the run stand after the word. -/
theorem State.stands_of_pcs {s : State} {h : Group} (hp : h.pcs = (s.cur.advance s.iss.run).pcs) : Stands s h 0 fun _ => 0 := fun l => by
  rw [hp, Group.laneAt64_advance_pcs]
  simp

end ends

end Sys2Proof.Machine

/-! SUPPORT. The order of a word's memory events among the tests before it (spec/07_memory_model.md R151, R153), and words that load
registers at once. -/
namespace Sys2Proof.Machine

/-! ### Older memory events (R151, R153, R320) -/

section follow
variable {s : State} {n : Needs} {m : Lanes}

/-- The needs of a word but for the memory events that it waits for. -/
def Needs.ordering (n : Needs) (mem after issues rel : Bool) : Needs := { n with mem, after, issues, rel }

/-- Nothing stands before a word whose events may take effect. -/
theorem State.Clear.ordering {mem after issues rel : Bool} (h : s.Clear n m)
    (ho : s.cur.mustFollow (n.ordering mem after issues rel) m = false) : s.Clear (n.ordering mem after issues rel) m :=
  ⟨h.active, h.fields, h.guardLanded, h.landed, h.guardKnown, h.known, h.allowed, h.converged, h.latched, h.noHandler, ho, h.keysLanded,
    h.unreserved⟩

/-- A word whose events have to wait stalls. -/
theorem State.Clear.stalls {mem after issues rel : Bool} (h : s.Clear n m)
    (ho : s.cur.mustFollow (n.ordering mem after issues rel) m = true) : s.pre (n.ordering mem after issues rel) = .stall := by
  have f1 : (n.regs ++ guardRegs n.guard).any (s.cur.nregs ≤ ·) = false :=
    List.any_eq_false.2 fun r hr => by simpa using h.fields r hr
  have f2 : (n.coll && (s.iss.run != allLanes || (m != 0 && m != allLanes))) = false := by
    by_cases hc : n.coll = true
    · obtain ⟨hr, rfl | rfl⟩ := h.converged hc <;> simp [hr]
    · simp [hc]
  have f3 : (n.latches.any fun b => !s.cur.lvalid.getLsbD b) = false :=
    List.any_eq_false.2 fun b hb => by simp [h.latched b hb]
  have f4 : (n.region && s.cur.handler.isSome) = false := by
    by_cases hr : n.region = true
    · simp [h.noHandler hr]
    · simp [hr]
  simp only [State.pre, show (n.ordering mem after issues rel).regs = n.regs from rfl, show (n.ordering mem after issues rel).guard = n.guard from rfl,
    show (n.ordering mem after issues rel).keys = n.keys from rfl, show (n.ordering mem after issues rel).reserved = n.reserved from rfl,
    show (n.ordering mem after issues rel).priv = n.priv from rfl, show (n.ordering mem after issues rel).coll = n.coll from rfl,
    show (n.ordering mem after issues rel).latches = n.latches from rfl, show (n.ordering mem after issues rel).region = n.region from rfl,
    f1, h.guardLanded, h.guardKnown, ← h.active, h.allowed, f2, f3, f4, ho, h.keysLanded, h.unreserved, Option.isSome_none, Bool.and_false,
    Bool.or_true, Bool.false_eq_true, if_false, if_true]

theorem State.runX_follows {mem after issues rel : Bool} {fault : Lanes → Option DataFault} {act : State → Lanes → Option State}
    (h : s.Clear n m) (ho : s.cur.mustFollow (n.ordering mem after issues rel) m = true) :
    s.runX (n.ordering mem after issues rel) fault act = s := by
  rw [State.runX, h.stalls ho, State.afterPre]

end follow

/-! ### Words that load registers at once -/

section loads
variable {s t : State} {n : Needs} {m : Lanes} {d k : Nat} {val : Nat → List Word}

theorem XDone.loaded (h : XDone s t ((s.cur.setRegs d m val k).advance s.iss.run)) : Loaded s t m d k val ∧ s.onlyCur t := by
  obtain ⟨hcur, honly, -, -⟩ := h
  have hone := s.cur.setRegs_only d m val k
  refine ⟨⟨fun l q => ?_, ?_, ?_, ?_⟩, honly⟩
  · have hv : t.cur.v = ((s.cur.setRegs d m val k).advance s.iss.run).v := Group.v_of_regs (by rw [hcur])
    rw [hv, Group.v_advance, Group.v_setRegs]
    congr 1
    rw [Bool.and_comm (m.getLsbD l), Bool.and_right_comm]
  · refine State.stands_of_pcs ?_
    rw [hcur, Group.advance, hone, Group.advance]
  · rw [hcur, Group.advance, hone]
  · rw [hcur]

/-- A word whose effect is on its lanes' registers alone. -/
theorem State.runX_loads {fault : Lanes → Option DataFault} {act : State → Lanes → Option State} (h : s.Clear n m) (hf : fault m = none)
    (ha : act s m = some (s.setCur (s.cur.setRegs d m val k)).advance) :
    Loaded s (s.runX n fault act) m d k val ∧ s.onlyCur (s.runX n fault act) :=
  XDone.loaded (State.runX_done h hf (by rw [ha, State.setCur_advance]) (by rw [Group.advance, Group.setRegs_only]))

end loads

end Sys2Proof.Machine

/-! PROOF. What an address meets by its class, and the words on addresses (spec/15_isa_memory_atomics_sync.md R318, R327 to R329,
spec/06_address_spaces.md R120, R121, R132). -/
namespace Sys2Proof.Machine

/-! ### Classes and translation (R120, R121, R132) -/

section resolve
variable {s : State} {gid l n al : Nat} {a : Dword} {write : Bool}

/-- What an access meets at the address that it is translated from. -/
theorem State.coreAccess_spec {va : Dword} {r : Except Nat Place} (hr : r = s.coreAccess gid va write l) :
    let x := s.translate (coreDie (slotCore (s.group gid).slot)) (s.launchOf gid).ctx va l
    (x = .absent → r = .error 0x0A) ∧ (x = .malformed false → r = .error 0x0A) ∧ (x = .malformed true → r = .error 0x0B)
      ∧ ∀ level e, x = .leaf level e → (pteCA e = false → r = .error 0x0A)
        ∧ (pteCA e = true → write = true → pteW e = false → r = .error 0x0B)
        ∧ (pteCA e = true → (write = true → pteW e = true) → r = .ok (leafPlace level e va)) := by
  intro x
  unfold State.coreAccess at hr
  dsimp only at hr
  refine ⟨fun hx => ?_, fun hx => ?_, fun hx => ?_, fun level e hx => ⟨fun hc => ?_, fun hc hw he => ?_, fun hc he => ?_⟩⟩ <;>
    rw [hr, show s.translate _ _ va l = _ from hx]
  · rfl
  · rfl
  · simp [hc]
  · simp [hc, hw, he]
  · cases write
    · simp [hc]
    · simp [hc, he rfl]

theorem State.resolve_unaligned_global (hk : s.classOf gid a = 0) (ha : ¬ a.toNat % al = 0) : s.resolve gid l a n al write = .error 0x06 := by
  rw [State.resolve, hk]
  simp only [if_neg ha]
  rfl

theorem State.resolve_global (hk : s.classOf gid a = 0) (ha : a.toNat % al = 0) :
    s.resolve gid l a n al write = s.coreAccess gid a write l := by
  rw [State.resolve, hk]
  simp only [if_pos ha]
  rfl

theorem State.resolve_private (hk : s.classOf gid a = 1) : s.resolve gid l a n al write = (s.privateVa gid l a n).bind fun va =>
    if a.toNat % al = 0 then s.coreAccess gid va write l else .error 0x06 := by
  rw [State.resolve, hk]
  cases s.privateVa gid l a n with
  | error c => rfl
  | ok va => by_cases ha : a.toNat % al = 0 <;> simp only [ha, if_true, if_false] <;> rfl

theorem State.resolve_pad (hk : s.classOf gid a = 2 ∨ s.classOf gid a = 4) : s.resolve gid l a n al write =
    (s.scratchPlace (if s.classOf gid a = 4 then s.sibling gid (a.toNat / 2 ^ 32 % 16) else groupTeam gid) (a.toNat % 2 ^ 20) n).bind
      fun p => if a.toNat % al = 0 then .ok p else .error 0x06 := by
  obtain hk | hk := hk
  · rw [State.resolve, hk, if_neg (show ¬ 2 = 4 by decide)]
    cases s.scratchPlace (groupTeam gid) (a.toNat % 2 ^ 20) n with
    | error c => rfl
    | ok p => by_cases ha : a.toNat % al = 0 <;> simp only [ha, if_true, if_false] <;> rfl
  · rw [State.resolve, hk, if_pos rfl]
    cases s.scratchPlace (s.sibling gid (a.toNat / 2 ^ 32 % 16)) (a.toNat % 2 ^ 20) n with
    | error c => rfl
    | ok p => by_cases ha : a.toNat % al = 0 <;> simp only [ha, if_true, if_false] <;> rfl

theorem State.resolve_undefined (hk : s.classOf gid a = 7) : s.resolve gid l a n al write = .error 0x07 := by
  rw [State.resolve, hk]
  rfl

theorem State.resolve_otherCore (hk : s.classOf gid a = 3) : s.resolve gid l a n al write = .error 0x08 := by
  rw [State.resolve, hk]
  rfl

/-- An offset within the team's scratchpad has its place (R79, R120). -/
theorem State.scratchPlace_inside {tk off : Nat} (h : off + n ≤ (s.launch (keyHandle tk)).scratch * 4096) : s.scratchPlace tk off n =
    .ok { kind := 3, core := (s.team tk).core, pa := (s.team tk).units.getD (off / 4096) 0 * 4096 + off % 4096 } := by
  rw [State.scratchPlace, if_neg (Nat.not_lt.2 h)]

theorem State.scratchPlace_outside {tk off : Nat} (h : ¬ off + n ≤ (s.launch (keyHandle tk)).scratch * 4096) :
    s.scratchPlace tk off n = .error 0x09 := by
  rw [State.scratchPlace, if_pos (Nat.not_le.1 h)]

/-- The global address behind a lane's private window (R121). -/
def State.aliasOf (s : State) (gid l : Nat) (a : Dword) : Nat :=
  (s.team (groupTeam gid)).pbase.toNat
    + ((teamIndex (groupTeam gid) * (s.launchOf gid).groups + groupIndex gid) * 32 + l) * (s.team (groupTeam gid)).psize + a.toNat % 2 ^ 32

theorem State.privateVa_deep (h : (s.team (groupTeam gid)).psize < a.toNat % 2 ^ 32 + n ∨ 2 ^ 56 < s.aliasOf gid l a + n) :
    s.privateVa gid l a n = .error 0x14 := by
  unfold State.privateVa
  obtain h | h := h
  · exact if_pos h
  · dsimp only
    split
    · rfl
    · exact if_pos h

theorem State.privateVa_ok (h : ¬ ((s.team (groupTeam gid)).psize < a.toNat % 2 ^ 32 + n ∨ 2 ^ 56 < s.aliasOf gid l a + n)) :
    s.privateVa gid l a n = .ok (BitVec.ofNat 64 (s.aliasOf gid l a)) :=
  (if_neg fun hd => h (.inl hd)).trans (if_neg fun hd => h (.inr hd))

end resolve

/-! ### The words (R327 to R329) -/

section words
variable {s : State} {f : XM} {m : Lanes}

/-- A `FENCE` waits for the older events of its lanes, and at release order for the stores to other packages (R149, R320). -/
theorem mustFollow_fence (g : Group) (gd : BitVec 7) (ord : BitVec 2) (deliver : Bool) :
    g.mustFollow (Needs.ordering { guard := gd, deliver } false (ord != 0) false (2 ≤ ord.toNat)) m = true
      ↔ (ord ≠ 0 ∧ g.pending m = true) ∨ (2 ≤ ord.toNat ∧ m ≠ 0 ∧ g.storesOut = true) := by
  have hord : 2 ≤ ord.toNat → ord ≠ 0 := by
    rintro h rfl
    simp at h
  simp only [Group.mustFollow, Needs.ordering, Bool.false_and, Bool.false_or, Bool.or_eq_true, Bool.and_eq_true, bne_iff_ne,
    decide_eq_true_eq, and_assoc]
  grind

end words

end Sys2Proof.Machine

namespace Sys2Proof
open Machine

/-- Settles O19: an access meets the faults of its class, of its alignment and of its translation in turn; `SPTEST` and `SPCAST` load
registers, and a `FENCE` passes when nothing older is pending. -/
theorem addressWords : Obligations.AddressWords := by
  unfold Obligations.AddressWords
  refine ⟨fun s gid l n al a write => ?_, fun s f m => ?_⟩
  · intro k tk off inside t pva deep aligned meets translated
    have hword {va : Dword} (hva : s.resolve gid l a n al write = s.coreAccess gid va write l) : translated va := State.coreAccess_spec hva
    refine ⟨State.resolve_undefined, State.resolve_otherCore, fun hk => ?_, fun hk => ?_,
      fun hk => ⟨State.resolve_unaligned_global hk, fun ha => hword (State.resolve_global hk ha)⟩⟩
    · have hres := State.resolve_pad (l := l) (n := n) (al := al) (write := write) hk
      refine ⟨fun hi => ?_, fun hi ha => ?_, fun hi ha =>
        ⟨{ kind := 3, core := (s.team tk).core, pa := (s.team tk).units.getD (off / 4096) 0 * 4096 + off % 4096 }, ?_, rfl, rfl, rfl⟩⟩
      · exact hres.trans (by rw [State.scratchPlace_outside hi]; rfl)
      · exact hres.trans (by rw [State.scratchPlace_inside hi]; exact if_neg ha)
      · exact hres.trans (by rw [State.scratchPlace_inside hi]; exact if_pos ha)
    · have hres := State.resolve_private (l := l) (n := n) (al := al) (write := write) hk
      refine ⟨fun hd => ?_, fun hd ha => ?_, fun hd ha => hword ?_⟩
      · exact hres.trans (by rw [State.privateVa_deep hd]; rfl)
      · exact hres.trans (by rw [State.privateVa_ok hd]; exact if_neg ha)
      · exact hres.trans (by rw [State.privateVa_ok hd]; exact if_pos ha)
  · intro d a
    refine ⟨fun h => ⟨_, rfl, State.runX_loads h rfl rfl⟩, fun h => ⟨_, rfl, (State.runX_loads h rfl rfl).symm⟩, fun h => ?_⟩
    intro waits
    refine ⟨fun hw => ⟨_, rfl, ?_⟩, fun hw => congrArg _ (State.runX_follows h ((mustFollow_fence ..).2 hw))⟩
    exact State.runX_advance (h.ordering (Bool.eq_false_iff.2 (hw ∘ (mustFollow_fence ..).1))) rfl rfl

end Sys2Proof

/-! SUPPORT. Lanes that reach their places, and words that park (spec/04_scheduler.md R92, spec/06_address_spaces.md R123). -/
namespace Sys2Proof.Machine

section reached
variable {s : State} {m : Lanes} {res : Resolver} {x : LaneAcc}

theorem Reached.place (h : Reached s m res) (hx : x ∈ lanePlaces m res) : s.absent x.place = false ∧ s.bad x.place = false := by
  obtain ⟨hm, hr⟩ := mem_lanePlaces.1 hx
  obtain ⟨p, hp, ha, hb⟩ := h x.lane hm
  rw [hr] at hp
  cases hp
  exact ⟨ha, hb⟩

theorem Reached.ok (h : Reached s m res) (l : Nat) (hl : m.getLsbD l = true) : ∃ p, (res l).2 = .ok p :=
  (h l hl).imp fun _ hp => hp.1

end reached

section park
variable (s : State) (i : Instr) (left : Lanes)

@[simp] theorem State.iss_closePass (gid : Nat) : (s.closePass gid).iss = s.iss := by rw [State.closePass_only]

@[simp] theorem State.iss_park : (s.park i left).iss = s.iss := by rw [State.park, State.iss_closePass, State.iss_setCur]

theorem State.iss_takeMonitors (f : XM) : (s.takeMonitors f left).iss = s.iss :=
  State.iss_foldl (fun v k => by
    dsimp only
    split
    · rfl
    · split <;> rfl) _ s

/-- A word with nothing before it that parks its group. -/
theorem State.runX_parks {s u : State} {n : Needs} {m : Lanes} {fault : Lanes → Option DataFault} {act : State → Lanes → Option State}
    {i : Instr} {left : Lanes} (h : s.Clear n m) (hf : fault m = none) (ha : act s m = some (u.park i left)) (hu : u.iss = s.iss)
    (hi : s.iss.issued = false) : s.runX n fault act = u.park i left :=
  State.runX_parked h hf ha (by rw [State.iss_park, hu, hi])

end park

end Sys2Proof.Machine

/-! PROOF. `WAITA` (spec/15_isa_memory_atomics_sync.md R337, spec/07_memory_model.md R160). -/
namespace Sys2Proof
open Machine

/-- Settles O22: with every lane's place reached and no request in flight to it, the word passes or parks by the conditions of its lanes. -/
theorem waitOnAddress : Obligations.WaitOnAddress := by
  unfold Obligations.WaitOnAddress
  intro s f m hi n c res left h
  refine ⟨State.runX_faultsAs h rfl (resFaults_eq res), fun hr hu hc => ?_⟩
  have hact : (fun (s : State) (m : Lanes) => s.present (.waita f) m (lanePlaces m res) fun s =>
      if s.clash (fun _ => false) n (lanePlaces m res) then none
      else s.intact s.bad (lanePlaces m res) fun s =>
        let s := s.countPages s.iss.gid ((lanePlaces m res).map (·.place))
        let left := m &&& ~~~s.waitaDone f m
        some (if left = 0 then s.advance else (s.takeMonitors f left).park (.waita f) left)) s m
      = some (if left = 0 then s.advance else (s.takeMonitors f left).park (.waita f) left) := by
    dsimp only
    rw [State.present_go fun x hx => (hr.place hx).1, if_neg (by rw [hc]; exact Bool.false_ne_true),
      State.intact_go fun x hx => (hr.place hx).2, State.countPages_uncounted _ _ _ _ (uncounted_places hu)]
  refine ⟨fun hl => ⟨_, rfl, State.runX_advance h (resFaults_none hr.ok) (hact.trans (by rw [if_pos hl]))⟩, fun hl => ?_⟩
  exact congrArg _ (State.runX_parks h (resFaults_none hr.ok) (hact.trans (by rw [if_neg hl])) (s.iss_takeMonitors left f) hi)

end Sys2Proof

/-! SUPPORT. A concrete machine for counterexamples: one running launch of one team of one group, whose context 0 maps the addresses from 0 on to
memory by one page of 1 GiB (spec/06_address_spaces.md R130, R131). -/
namespace Sys2Proof.Machine

/-- The keys of a launch of one team of one group. -/
def Sample.team : Nat := teamKey 0x10 0
def Sample.group : Nat := groupKey Sample.team 0

/-- Context 0 with its root, two tables of one entry, and the entry of a readable and writable page of 1 GiB. -/
def Sample.tables : List Host.Cell :=
  [(13, 1), (16, 1), (lpddrBase, 1), (lpddrBase + 1, 0x10), (lpddrBase + 5, 1), (lpddrBase + 0x1000, 1), (lpddrBase + 0x1001, 0x20),
   (lpddrBase + 0x1005, 1), (lpddrBase + 0x2000, 0x1B), (lpddrBase + 0x2003, 0x40), (lpddrBase + 0x2005, 1)]

/-- The machine about to issue a word at address 8 for every lane of the group `g`. -/
def Sample.state (g : Group) : State :=
  { State.reset with
    launches := [(0x10, { state := .running, handle := 0x10, teams := 1, groups := 1, regs := 15, cw := 1, ch := 1 })]
    clusters := [(Sample.team, { state := .placed, handle := 0x10 })]
    teams := [(Sample.team, { live := true, handle := 0x10, ck := Sample.team, resident := true, started := true })]
    groups := [(Sample.group, g)]
    mem := Sample.tables
    iss := { gid := Sample.group, run := allLanes, pc := 8, yield := false, yend := 0 } }

/-- A group of the team, with every register zero and nothing in flight. -/
def Sample.fresh : Group :=
  { live := true, team := Sample.team, ck := Sample.team, nbands := 16, pcs := Vector.replicate 32 8 }

/-- The fields of words with register 0 everywhere, no flags and no guard. -/
def Sample.xe : XE := { e0 := 0, e1 := 0, e2 := 0, e3 := 0, e4 := 0, flags := 0, guard := 0 }

theorem Sample.cur (g : Group) : (Sample.state g).cur = g := by
  simp [State.cur, State.group, Sample.state, tabGet]

/-- Nothing stands before an unguarded word of a whole group without requests or results in flight. -/
theorem Sample.clear {s : State} {n : Needs} (hrun : s.iss.run = allLanes) (hbands : s.cur.nbands = 16) (hlate : s.cur.late = [])
    (houts : s.cur.outs = []) (hhandler : s.cur.handler = none) (hknown : ∀ u ∈ s.cur.unknowns, n.delivers allLanes u = false)
    (hguard : n.guard = 0) (hregs : ∀ r ∈ n.regs, r < 256) (hpriv : n.priv = false) (hlatches : n.latches = []) (hreserved : n.reserved = none) :
    s.Clear n allLanes := by
  refine ⟨?_, fun r hr => ?_, ?_, ?_, ?_, ?_, hpriv, fun _ => ⟨hrun, .inr rfl⟩, ?_, fun _ => hhandler, ?_, ?_, hreserved⟩
  · rw [hguard, hrun]
    rfl
  · rw [hguard] at hr
    rw [Group.nregs, hbands]
    exact hregs r (by simpa [guardRegs] using hr)
  · simp [Group.awaits, hlate]
  · simp [Group.lacks, Group.awaits, hlate]
  · simp [Group.unknownFor, hguard, guardRegs, Unknown.fills]
  · exact List.find?_eq_none.2 fun u hu => by rw [hknown u hu]; exact Bool.false_ne_true
  · simp [hlatches]
  · simp [Group.mustFollow, Group.acquiring, Group.opening, Group.pending, Group.storesOut, houts]
  · simp [Group.awaits, hlate]

/-- A word has issued. -/
def Out.issues : Out → Bool
  | .next t => t.iss.issued
  | _ => false

theorem Out.not_issues {i : Instr} {s : State} (h : Out.issues (exec i s) = true) (hs : s.iss.issued = false) : exec i s ≠ .next s := by
  intro he
  rw [he, Out.issues, hs] at h
  cases h

end Sys2Proof.Machine

/-! PROOF. A region that begins drops the steps that a resume kept for an `LDFE` or `STFE` (spec/05_cores_and_execution.md R108, assumption 87);
the statements on barriers, regions and queues say that the group keeps them (spec/15_isa_memory_atomics_sync.md R338, R339, R343). -/
namespace Sys2Proof.Machine

/-! ### A group that a resume left with a kept step -/

/-- The group keeps the step that lane 0 of an `LDFE` at address 0 took before a pre-emption. -/
def KeptStep.state : State := Sample.state { Sample.fresh with steps := [(0, 0, 5)] }

theorem KeptStep.cur : KeptStep.state.cur = { Sample.fresh with steps := [(0, 0, 5)] } := Sample.cur _

/-- The kept steps of the group in hand after a word. -/
def Out.steps : Out → Option (List (Dword × Nat × Word))
  | .next t => some t.cur.steps
  | _ => none

theorem KeptStep.steps_before : KeptStep.state.cur.steps = [(0, 0, 5)] := by decide +kernel
theorem KeptStep.not_issued : KeptStep.state.iss.issued = false := rfl
theorem KeptStep.canBegin : KeptStep.state.cur.canBegin = true := by decide +kernel

theorem KeptStep.clear {n : Needs} (hguard : n.guard = 0) (hregs : ∀ r ∈ n.regs, r < 256) (hpriv : n.priv = false) (hlatches : n.latches = [])
    (hreserved : n.reserved = none) : KeptStep.state.Clear n allLanes :=
  Sample.clear rfl (by rw [KeptStep.cur]; rfl) (by rw [KeptStep.cur]; rfl) (by rw [KeptStep.cur]; rfl) (by rw [KeptStep.cur]; rfl)
    (by rw [KeptStep.cur]; exact fun u hu => absurd hu List.not_mem_nil) hguard hregs hpriv hlatches hreserved

theorem Begun.steps {s t : State} {g : Group} (h : Begun s t g) : t.cur.steps = g.steps := by
  rw [h.group]

/-- A word that leaves no kept step begins no region of a group that has one, in the sense of the statements. -/
theorem KeptStep.not_begun {i : Instr} {t : State} {g : Group} (hdropped : Out.steps (exec i KeptStep.state) = some [])
    (ht : exec i KeptStep.state = .next t) (hb : Begun KeptStep.state t g) (hg : g.steps = KeptStep.state.cur.steps) : False := by
  rw [ht, Out.steps, hb.steps, hg, KeptStep.steps_before] at hdropped
  simp at hdropped

/-- A `BARW` of a barrier that nobody waits for, a `REGN`, and a `QSND` to no target all pass, and drop the step. -/
theorem KeptStep.barw_drops : Out.steps (exec (.barw Sample.xe) KeptStep.state) = some [] := by decide +kernel
theorem KeptStep.regn_drops : Out.steps (exec (.regn Sample.xe) KeptStep.state) = some [] := by decide +kernel
theorem KeptStep.qsnd_drops : Out.steps (exec (.qsnd Sample.xe) KeptStep.state) = some [] := by decide +kernel

end Sys2Proof.Machine

namespace Sys2Proof
open Machine

/-- Refutes O23: a `BARW` that passes begins its region, which drops the steps kept for an older `LDFE` or `STFE`; the statement has the group
keep them. -/
theorem not_barriers : ¬ Obligations.Barriers := by
  intro h
  obtain ⟨hbarw, -⟩ := h KeptStep.state Sample.xe allLanes KeptStep.not_issued KeptStep.canBegin (by decide)
  obtain ⟨hpasses, -⟩ := hbarw (KeptStep.clear rfl (by simp) rfl rfl rfl)
  obtain ⟨t, ht, hb, -⟩ := hpasses (.inl (by decide +kernel))
  exact KeptStep.not_begun KeptStep.barw_drops ht hb rfl

/-- Refutes O24: the same of a `REGN`. -/
theorem not_regionsAndCommits : ¬ Obligations.RegionsAndCommits := by
  intro h
  obtain ⟨hregn, -⟩ := h.1 KeptStep.state Sample.xe allLanes (by decide)
  obtain ⟨hbegins, -⟩ := hregn (KeptStep.clear rfl (by decide) rfl rfl rfl)
  obtain ⟨t, ht, hb, -⟩ := hbegins (by decide +kernel)
  exact KeptStep.not_begun KeptStep.regn_drops ht hb rfl

/-- Refutes O25: the same of a `QSND` to no target. -/
theorem not_teamQueues : ¬ Obligations.TeamQueues := by
  intro h
  obtain ⟨-, hsends⟩ := h.1 KeptStep.state Sample.xe allLanes KeptStep.not_issued KeptStep.canBegin (KeptStep.clear rfl (by decide) rfl rfl rfl)
  obtain ⟨hroom, -⟩ := hsends (by decide) fun hmask => absurd hmask (by decide +kernel)
  obtain ⟨t, ht, hb, -⟩ := hroom (by decide +kernel)
  exact KeptStep.not_begun KeptStep.qsnd_drops ht hb rfl

end Sys2Proof

/-! PROOF. A `CTLD` in a machine whose table of groups has two entries at the key of the group in hand (spec/16_isa_copy_matrix.md R353,
spec/06_address_spaces.md R142). The statement is about every state, this one too: the copy that keeps the slot busy stands in the entry that
no read of the table reaches, and the first write of the group drops it, before the word asks whether the slot is busy. -/
namespace Sys2Proof.Machine

/-- An expansion copy by slot 0 that is within a block. -/
def TwoEntries.copy : Copy :=
  { id := 0, seq := 0, kind := 2, ob := false, handle := 0, dst := 0, src := 0, len := 1, rows := 0, dstride := 0, sstride := 0, planes := 0, elem := 0
    slot := 0, table := none, lane := 0, run := 0, pc := 0, chunk := 0, spos := 0, rest := [], state := .running, unacked := [], got := [(0, 0, [])]
    written := false, lines := [], born := 0 }

/-- A table of one code of one bit, for the byte 0. -/
def TwoEntries.bytes : List Byte := [0, 1, 1, 0, 0, 0, 0, 0, 0, 0, 0, 0, 0, 0, 0, 0, 1, 0, 0, 0, 0, 0, 0, 0, 0, 0, 0, 0, 0, 0, 0, 0, 0]

/-- Its bytes that are not zero, where the page at address 0 lies. -/
def TwoEntries.cells : List Host.Cell := [(0x10040000001, 1), (0x10040000002, 1), (0x10040000010, 1)]

/-- The group in hand is idle; a second entry at its key has the copy. -/
def TwoEntries.state : State :=
  { Sample.state Sample.fresh with
    groups := [(Sample.group, Sample.fresh), (Sample.group, { Sample.fresh with copies := [TwoEntries.copy] })]
    caps := [{ id := 6, version := 0, payload := 1 }], mem := Sample.tables ++ TwoEntries.cells }

theorem TwoEntries.cur : TwoEntries.state.cur = Sample.fresh := by
  simp [State.cur, State.group, TwoEntries.state, Sample.state, tabGet]

theorem TwoEntries.busy : TwoEntries.state.slotBusy 0 = true := by decide +kernel
theorem TwoEntries.header_readable : TwoEntries.state.byteFault 0 0 0x20 = none := by decide +kernel
theorem TwoEntries.header_read : TwoEntries.state.peek 0 0 0x20 = some (TwoEntries.bytes.take 0x20) := by decide +kernel
theorem TwoEntries.table_readable : TwoEntries.state.byteFault 0 0 0x21 = none := by decide +kernel
theorem TwoEntries.table_read : TwoEntries.state.peek 0 0 0x21 = some TwoEntries.bytes := by decide +kernel
theorem TwoEntries.table_parses : parseTable TwoEntries.state.formats TwoEntries.bytes
    = some { nibble := false, maxLen := 1, counts := [1, 0, 0, 0, 0, 0, 0, 0, 0, 0, 0, 0, 0, 0, 0], syms := [0] } := by decide +kernel
theorem TwoEntries.nothing_older : TwoEntries.state.clash (fun _ => false) 16 (TwoEntries.state.blockAccs 0 0 0x21) = false := by decide +kernel
theorem TwoEntries.uncounted : ∀ x ∈ TwoEntries.state.blockAccs 0 0 0x21, x.place.ac = none := by decide +kernel
theorem TwoEntries.ctld_issues : Out.issues (exec (.ctld Sample.xe) TwoEntries.state) = true := by decide +kernel

theorem TwoEntries.clear {n : Needs} (hguard : n.guard = 0) (hregs : ∀ r ∈ n.regs, r < 256) (hpriv : n.priv = false) (hlatches : n.latches = [])
    (hreserved : n.reserved = none) : TwoEntries.state.Clear n allLanes :=
  Sample.clear rfl (by rw [TwoEntries.cur]; rfl) (by rw [TwoEntries.cur]; rfl) (by rw [TwoEntries.cur]; rfl) (by rw [TwoEntries.cur]; rfl)
    (by rw [TwoEntries.cur]; exact fun u hu => absurd hu List.not_mem_nil) hguard hregs hpriv hlatches hreserved

end Sys2Proof.Machine

namespace Sys2Proof
open Machine

/-- Refutes O27: with two entries at the group's key, one of which has a copy within a block of the slot, the statement has `CTLD` wait; it loads. -/
theorem not_tables : ¬ Obligations.Tables := by
  intro h
  have hlead : lead allLanes = 0 := by decide +kernel
  have haddr : TwoEntries.state.cur.v64 0 0 = 0 := by decide +kernel
  obtain ⟨hctld, -⟩ := h.1 TwoEntries.state Sample.xe allLanes (TwoEntries.bytes.take 0x20) TwoEntries.bytes (by decide) rfl
    (TwoEntries.clear rfl (by decide) rfl rfl rfl) (by rw [TwoEntries.cur]; rfl)
  rw [hlead, show Sample.xe.e0.toNat = 0 from rfl, haddr] at hctld
  obtain ⟨hparsed, -⟩ := hctld TwoEntries.header_readable TwoEntries.header_read TwoEntries.table_readable TwoEntries.table_read
  obtain ⟨-, hwaits⟩ := hparsed _ TwoEntries.table_parses ⟨TwoEntries.nothing_older, TwoEntries.uncounted⟩
  exact Out.not_issues TwoEntries.ctld_issues rfl (hwaits TwoEntries.busy)

end Sys2Proof

/-! PROOF. An unknown outcome of a `CLINE` that stands for its hidden word in no lane (spec/17_isa_tiles_updates_system.md R381,
spec/02_fabric_and_exactly_once.md R42): the statement has it stand for E3 of the active lanes; the word leaves it with no register. -/
namespace Sys2Proof.Machine

/-- The outcome names the hidden word of a `CLINE`, and no lane of it. -/
def NoLane.unknown : Unknown :=
  { serial := 0, op := 0, wm := false, reason := 0, lanes := 0, pc := 0, va := 0, regs := [(hiddenReg 0, 0)], cls := none, seq := 0, data := [] }

def NoLane.state : State := Sample.state { Sample.fresh with unknowns := [NoLane.unknown] }

/-- The registers for which the unknown outcomes of the group in hand stand after a word. -/
def Out.unknownRegs : Out → Option (List (List (Nat × Lanes)))
  | .next t => some (t.cur.unknowns.map (·.regs))
  | _ => none

/-- Register 0 names the line at address 0, which is mapped. -/
theorem NoLane.line_reached : ∃ p, (NoLane.state.lineRes Sample.xe.e0 0).2 = .ok p := by
  have hok : (NoLane.state.lineRes Sample.xe.e0 0).2.toOption.isSome = true := by decide +kernel
  cases h : (NoLane.state.lineRes Sample.xe.e0 0).2 with
  | ok p => exact ⟨p, rfl⟩
  | error c =>
    rw [h] at hok
    cases hok

/-- The word goes on, and its outcome stands for no register. -/
theorem NoLane.cline_forgets : Out.unknownRegs (exec (.cline Sample.xe) NoLane.state) = some [[]] := by decide +kernel

end Sys2Proof.Machine

namespace Sys2Proof
open Machine

/-- Refutes O37: an unknown outcome with the hidden word of a `CLINE` in no lane loses that entry when the word claims E3, so that it does not come to
stand for E3. -/
theorem not_countedLines : ¬ Obligations.CountedLines := by
  intro h
  obtain ⟨p, hp⟩ := NoLane.line_reached
  obtain ⟨hcline, -⟩ := h NoLane.state Sample.xe allLanes p (by decide) hp
  have hcur : NoLane.state.cur = { Sample.fresh with unknowns := [NoLane.unknown] } := Sample.cur _
  have hclear := Sample.clear (s := NoLane.state)
    (n := { guard := 0, regs := [0, 0, 1, 0, 0], reads := [0, 1, 0, 0], mem := true, keys := [0] })
    rfl (by rw [hcur]; rfl) (by rw [hcur]; rfl) (by rw [hcur]; rfl) (by rw [hcur]; rfl) (by rw [hcur]; decide) rfl (by decide) rfl rfl rfl
  obtain ⟨-, hstands, -⟩ := hcline rfl hclear (.inl rfl)
  have hmem : NoLane.unknown ∈ NoLane.state.cur.unknowns := by
    rw [hcur]
    exact List.mem_singleton.2 rfl
  obtain ⟨t, v, ht, -, hv, hregs, -⟩ := hstands (by decide +kernel) NoLane.unknown hmem (by decide)
  have hforgets := NoLane.cline_forgets
  rw [ht, Out.unknownRegs, Option.some_inj] at hforgets
  have hin : v.regs ∈ [[]] := hforgets ▸ List.mem_map_of_mem hv
  rw [hregs] at hin
  cases List.mem_singleton.1 hin

end Sys2Proof

/-! SUPPORT. The requests of an instruction: what each enters into the outstanding list, and the registers that await its reply
(spec/02_fabric_and_exactly_once.md R38, R39, R41, spec/05_cores_and_execution.md R107). -/
namespace Sys2Proof.Machine

/-! ### One request -/

/-- The lanes of lane records. -/
def reqLanes (ls : List ReqLane) : Lanes := lanesOf fun l => ls.any fun x => x.lane = l

/-- The results that a request's reply brings to the registers `dst`. -/
def lateOf (wm : Bool) (n : Word) (dst : List Nat) (pkg : BitVec 16) (owner : Nat) (m : Lanes) : List Late :=
  if dst.isEmpty then []
  else [{ serial := n, owner := some (replyKey pkg owner wm), dst, regs := dst.map fun r => (r, m), rows := [], ready := false }]

/-- The request `o` entered the outstanding list of the group behind those there, and its results the list of those to land. -/
structure SentOne (s t : State) (op : OwnerOp) (oper : Word) (wm : Bool) (n : Word) (dst : List Nat) (pkg : BitVec 16) (owner : Nat)
    (ls : List ReqLane) (o : OutReq) : Prop where
  outs : s.cur.outsGrow t.cur wm n [o]
  sentAs : o.sentAs op wm n s.iss.pc
  packet : o.packet = s.request op oper wm n pkg owner ls
  dest : o.opkg = pkg ∧ o.owner = owner
  lanes : o.lanes = reqLanes ls
  late : t.cur.late = s.cur.late ++ lateOf wm n dst pkg owner (reqLanes ls)

section one
variable (s : State) (op : OwnerOp) (oper : Word) (wm : Bool) (n : Word) (dst : List Nat) (pkg : BitVec 16) (owner : Nat)
  (ls : List ReqLane) (order : Option Nat)

theorem State.addressed_cur (h : Word) : (s.addressed h pkg).cur = s.cur := by
  rw [State.addressed_same]
  exact State.cur_of_eq rfl rfl

theorem State.emit_cur (p : Packet) : (s.emit p).cur = s.cur := by
  rw [State.emit_same]
  exact State.cur_of_eq rfl rfl

include s in
theorem SentOne.congr {t u : State} {o : OutReq} (h : SentOne s t op oper wm n dst pkg owner ls o) (ho : u.cur.outs = t.cur.outs)
    (hl : u.cur.late = t.cur.late) : SentOne s u op oper wm n dst pkg owner ls o := by
  obtain ⟨⟨keep, hk, e⟩, h2, h3, h4, h5, h6⟩ := h
  exact ⟨⟨keep, hk, ho.trans e⟩, h2, h3, h4, h5, hl.trans h6⟩

theorem State.sendOne_sent : ∃ o, SentOne s (s.sendOne op oper wm n dst pkg owner ls order) op oper wm n dst pkg owner ls o := by
  obtain ⟨g, o, h, p, q, hsent, ht⟩ : ∃ (g : Group) (o : OutReq) (h : Word) (p : BitVec 16) (q : Packet),
      SentOne s (s.setCur g) op oper wm n dst pkg owner ls o ∧
      s.sendOne op oper wm n dst pkg owner ls order = (if o.held then (s.setCur g).addressed h p
        else (((s.setCur g).addressed h p).setCur (((s.setCur g).addressed h p).cur.told wm pkg owner)).emit q) := by
    refine ⟨_, _, _, _, _, ⟨⟨fun x => !(wm && x.restored && x.serial = n && x.opkg = pkg && x.owner = owner), fun x hx => ?_, ?_⟩,
      ⟨rfl, rfl, rfl, rfl, rfl, rfl⟩, rfl, ⟨rfl, rfl⟩, rfl, ?_⟩, rfl⟩
    · simp at hx
      exact ⟨hx.1.1.1.1, hx.1.1.1.2, hx.1.1.2⟩
    · exact congrArg Group.outs (s.cur_setCur _)
    · exact congrArg Group.late (s.cur_setCur _)
  refine ⟨o, SentOne.congr s op oper wm n dst pkg owner ls hsent ?_ ?_⟩ <;> rw [ht] <;> split <;>
    simp only [State.emit_cur, State.addressed_cur, State.cur_setCur, Group.told]

end one

/-! ### The requests of an instance -/

/-- A request of the instance awaits the reply for lane `l` in the registers `dst` (R107). -/
def Group.awaitsReply (g : Group) (wm : Bool) (n : Word) (dst : List Nat) (l : Nat) : Prop :=
  ∃ o ∈ g.outs, ∃ x ∈ g.late, o.restored = false ∧ o.lanes.getLsbD l = true ∧ o.watermarked = wm ∧ o.serial = n ∧ x.serial = n
    ∧ x.owner = some (replyKey o.opkg o.owner wm) ∧ x.dst = dst ∧ x.regs = dst.map (fun r => (r, o.lanes)) ∧ x.ready = false

section awaits
variable {s t : State} {op : OwnerOp} {oper : Word} {wm : Bool} {n : Word} {dst : List Nat} {pkg : BitVec 16} {owner : Nat}
  {ls : List ReqLane} {o : OutReq} {l : Nat}

theorem mem_lateOf {x : Late} {m : Lanes} (hd : dst ≠ []) : x ∈ lateOf wm n dst pkg owner m ↔
    x = { serial := n, owner := some (replyKey pkg owner wm), dst, regs := dst.map fun r => (r, m), rows := [], ready := false } := by
  rw [lateOf, if_neg (by simpa using hd), List.mem_singleton]

theorem SentOne.mem_outs (h : SentOne s t op oper wm n dst pkg owner ls o) : o ∈ t.cur.outs := by
  obtain ⟨_, _, e⟩ := h.outs
  simp [e]

theorem SentOne.awaits_new (h : SentOne s t op oper wm n dst pkg owner ls o) (hd : dst ≠ []) (hl : (reqLanes ls).getLsbD l = true) :
    t.cur.awaitsReply wm n dst l := by
  obtain ⟨hwm, hn, -, -, -, hr⟩ := h.sentAs
  obtain ⟨rfl, rfl⟩ := h.dest
  have hlate := h.late
  rw [← h.lanes] at hl hlate
  exact ⟨o, h.mem_outs, _, by rw [hlate]; exact List.mem_append_right _ ((mem_lateOf hd).2 rfl), hr, hl, hwm, hn, rfl, rfl, rfl, rfl, rfl⟩

theorem SentOne.awaits_old (h : SentOne s t op oper wm n dst pkg owner ls o) {n' : Word} {wm' : Bool} (ha : s.cur.awaitsReply wm' n' dst l) :
    t.cur.awaitsReply wm' n' dst l := by
  obtain ⟨p, hp, x, hx, hr, hrest⟩ := ha
  obtain ⟨keep, hk, e⟩ := h.outs
  refine ⟨p, ?_, x, by rw [h.late]; exact List.mem_append_left _ hx, hr, hrest⟩
  rw [e]
  refine List.mem_append_left _ (List.mem_filter.2 ⟨hp, ?_⟩)
  by_contra hf
  have hr' := (hk p (by simpa using hf)).2.1
  rw [hr] at hr'
  cases hr'

theorem State.sendFold_awaits (hd : dst ≠ []) (own : ReqLane → BitVec 16 × Nat) (os : List (BitVec 16 × Nat)) (s : State)
    (h : s.cur.awaitsReply wm n dst l ∨ ∃ x ∈ ls, x.lane = l ∧ own x ∈ os) (hl : l < 32) :
    (os.foldl (fun s o => s.sendOne op oper wm n dst o.1 o.2 (ls.filter fun x => own x = o)) s).cur.awaitsReply wm n dst l := by
  induction os generalizing s with
  | nil =>
    rcases h with h | ⟨_, -, -, h⟩
    · exact h
    · cases h
  | cons k os ih =>
    obtain ⟨o, ho⟩ := s.sendOne_sent op oper wm n dst k.1 k.2 (ls.filter fun x => own x = k) none
    refine ih _ ?_
    rcases h with h | ⟨x, hx, hxl, hk⟩
    · exact .inl (ho.awaits_old h)
    · rcases List.mem_cons.1 hk with hk | hk
      · exact .inl (ho.awaits_new hd (by
          rw [reqLanes, getLsbD_lanesOf]
          simpa [hl] using ⟨x, hx, hk, hxl⟩))
      · exact .inr ⟨x, hx, hxl, hk⟩

/-- After the requests of an instance, each of its lanes awaits its reply. -/
theorem State.sendAll_awaits (s : State) (op : OwnerOp) (scope : BitVec 3) (ord : BitVec 2) (hd : dst ≠ []) (hl : ∃ x ∈ ls, x.lane = l)
    (h32 : l < 32) :
    (s.sendAll op scope ord wm dst ls).cur.awaitsReply wm (if wm then s.cur.wserial else BitVec.ofNat 32 s.cur.nextOp) dst l := by
  obtain ⟨x, hx, hxl⟩ := hl
  rw [State.sendAll, if_neg (by simpa using List.ne_nil_of_mem hx)]
  exact State.sendFold_awaits hd _ _ _ (.inr ⟨x, hx, hxl, List.mem_eraseDups.2 (List.mem_map_of_mem hx)⟩) h32

end awaits
end Sys2Proof.Machine

/-! SUPPORT. A request whose one record is lane J's (spec/17_isa_tiles_updates_system.md R381, R384). -/
namespace Sys2Proof.Machine

/-- The group in hand with the serial, or the number, of one more request taken. -/
def Group.took (g : Group) (wm : Bool) : Group := if wm then { g with wserial := g.wserial + 1 } else { g with nextOp := g.nextOp + 1 }

/-- One request of lane J's record was sent, for the lanes `m`: with its serial taken, it stands in the outstanding list, and its reply is to
land in the register `dst` of these lanes. -/
structure SentLead (s t : State) (op : OwnerOp) (wm : Bool) (n : Word) (dst : Option Nat) (m : Lanes) (dest : BitVec 16 × Nat) (data : List Word)
    (o : OutReq) : Prop where
  frame : s.sameSend t
  group : (s.cur.took wm).sameSend t.cur
  count : ∃ keep : OutReq → Bool, (∀ o, keep o = false → wm = true ∧ o.restored = true ∧ o.serial = n)
    ∧ t.cur.outs.length = (s.cur.outs.filter keep).length + 1
  mem : o ∈ t.cur.outs
  sentAs : o.sentAs op wm n s.iss.pc
  lanes : o.lanes = m
  owner : o.owner = dest.2
  data : o.packet.recs.map (·.data) = [data]
  late : ∀ d, dst = some d → ∃ x ∈ t.cur.late, x.dst = [d] ∧ x.regs = [(d, m)] ∧ x.ready = false

@[simp] theorem Group.regs_took (g : Group) (wm : Bool) : (g.took wm).regs = g.regs := by cases wm <;> rfl
@[simp] theorem Group.pcs_took (g : Group) (wm : Bool) : (g.took wm).pcs = g.pcs := by cases wm <;> rfl
@[simp] theorem Group.fpflags_took (g : Group) (wm : Bool) : (g.took wm).fpflags = g.fpflags := by cases wm <;> rfl
@[simp] theorem Group.nRem_took (g : Group) (wm : Bool) : (g.took wm).nRem = g.nRem := by cases wm <;> rfl

section lead
variable (s : State) (op : OwnerOp) (ord : BitVec 2) (wm : Bool) (dst : Option Nat) (m : Lanes) (owner : Option Nat) (r : ReqLane)

/-- The owner that a request of lane J's record goes to. -/
def State.leadOwner (s : State) (owner : Option Nat) (r : ReqLane) : BitVec 16 × Nat :=
  match owner with
  | some k => (s.image.pkgnum, k)
  | none => s.laneOwner r.place

theorem State.sendLead_sent :
    ∃ o, SentLead s (s.sendLead op ord wm dst m owner r) op wm (if wm then s.cur.wserial else BitVec.ofNat 32 s.cur.nextOp) dst m
      (s.leadOwner owner r) r.data o := by
  obtain ⟨n, hn⟩ : ∃ n : Word, n = if wm then s.cur.wserial else BitVec.ofNat 32 s.cur.nextOp := ⟨_, rfl⟩
  obtain ⟨g, hg⟩ : ∃ g, g = s.cur.took wm := ⟨_, rfl⟩
  obtain ⟨u, hu⟩ : ∃ u, u = (s.setCur g).sendOne op (operWord op 5 ord) wm n dst.toList (s.leadOwner owner r).1 (s.leadOwner owner r).2 [r] :=
    ⟨_, rfl⟩
  obtain ⟨h, hh⟩ : ∃ h : Group, h = u.cur.claim (dst.toList.map fun d => (d, m)) := ⟨_, rfl⟩
  have ht : s.sendLead op ord wm dst m owner r = u.setCur { h with
      outs := h.outs.map fun x => if x.serial = n && x.watermarked = wm && !x.restored then { x with lanes := m } else x
      late := h.late.map fun x => if x.serial = n && x.owner = some (replyKey (s.leadOwner owner r).1 (s.leadOwner owner r).2 wm)
        then { x with regs := x.regs.map fun p => (p.1, m) } else x } := by
    rw [hh, hu, hg, hn]
    cases dst <;> rfl
  obtain ⟨hsame, hcur, -⟩ := (s.setCur g).sendOne_spec op (operWord op 5 ord) wm n dst.toList (s.leadOwner owner r).1 (s.leadOwner owner r).2 [r]
  obtain ⟨o, ho⟩ := (s.setCur g).sendOne_sent op (operWord op 5 ord) wm n dst.toList (s.leadOwner owner r).1 (s.leadOwner owner r).2 [r] none
  rw [← hu] at hsame hcur ho
  rw [State.cur_setCur] at hcur
  obtain ⟨keep, hk, hout⟩ := ho.outs
  obtain ⟨hwm, hser, -, -, -, hres⟩ := ho.sentAs
  have houts : (s.setCur g).cur.outs = s.cur.outs := by
    rw [State.cur_setCur, hg, Group.took]
    split <;> rfl
  rw [houts] at hout
  refine ⟨{ o with lanes := m }, ?_⟩
  rw [ht, ← hn]
  constructor
  case frame =>
    unfold State.sameSend at *
    rw [hsame]
    rfl
  case group =>
    rw [State.cur_setCur, hh, ← hg]
    unfold Group.sameSend at *
    rw [hcur]
    rfl
  case count =>
    refine ⟨keep, hk, ?_⟩
    rw [State.cur_setCur, hh]
    simp [hout]
  case mem =>
    rw [State.cur_setCur, hh]
    exact List.mem_map.2 ⟨o, ho.mem_outs, by simp [hwm, hser, hres]⟩
  case sentAs => exact ho.sentAs
  case lanes => rfl
  case owner => exact ho.dest.2
  case data =>
    show o.packet.recs.map (·.data) = _
    rw [ho.packet]
    rfl
  case late =>
    rintro d rfl
    have hx : ({ serial := n, owner := some (replyKey (s.leadOwner owner r).1 (s.leadOwner owner r).2 wm), dst := [d], regs := [(d, reqLanes [r])]
                 rows := [], ready := false } : Late) ∈ h.late := by
      rw [hh, Group.claim_late, ho.late]
      exact List.mem_append_right _ ((mem_lateOf (by simp)).2 rfl)
    rw [State.cur_setCur]
    exact ⟨_, List.mem_map_of_mem hx, by simp⟩

end lead
end Sys2Proof.Machine

/-! SUPPORT. Words that pass with a changed state (spec/05_cores_and_execution.md R97, R103, R105), and the window of serials (spec/02_fabric_and_exactly_once.md
R40). -/
namespace Sys2Proof.Machine

section next
variable {s u : State} {n : Needs} {m : Lanes} {fault : Lanes → Option DataFault} {act : State → Lanes → Option State}

/-- A word with nothing before it that changes the state and passes. -/
theorem State.runX_next (h : s.Clear n m) (hf : fault m = none) (ha : act s m = some u.advance) : s.runX n fault act = u.advance.afterX :=
  State.runX_go h hf ha rfl

/-- The group after a word that passes. -/
def State.passed (u : State) : Group := { u.cur.advance u.iss.run with lvalid := 0 }

theorem State.cur_next (u : State) : u.advance.afterX.cur = u.passed := by rw [State.cur_afterX, State.advance_cur, State.passed]

@[simp] theorem State.outs_passed : u.passed.outs = u.cur.outs := by simp [State.passed]
@[simp] theorem State.late_passed : u.passed.late = u.cur.late := by simp [State.passed]
@[simp] theorem State.wserial_passed : u.passed.wserial = u.cur.wserial := by simp [State.passed]
@[simp] theorem State.nRem_passed : u.passed.nRem = u.cur.nRem := by simp [State.passed]
@[simp] theorem State.fpflags_passed : u.passed.fpflags = u.cur.fpflags := by simp [State.passed]
@[simp] theorem State.unknowns_passed : u.passed.unknowns = u.cur.unknowns := by simp [State.passed]
@[simp] theorem State.v_passed : u.passed.v = u.cur.v := Group.v_of_regs (by simp [State.passed])
@[simp] theorem State.lvalid_passed : u.passed.lvalid = 0 := by rw [State.passed]

theorem State.stands_passed (hp : u.cur.pcs = s.cur.pcs) (hi : u.iss.run = s.iss.run) : Stands s u.passed 0 fun _ => 0 :=
  State.stands_of_pcs (by rw [State.passed, Group.advance, Group.advance, hp, hi])

theorem State.rd_next (a : Nat) : u.advance.afterX.rd a = u.rd a := by simp

end next

/-- With the window free, a serial may be taken. -/
theorem State.openWindow_free {s : State} (h : s.cur.window = .free) : s.openWindow = some s := by
  rw [State.openWindow, h]

theorem State.rd_sameSend {s t : State} (h : s.sameSend t) (a : Nat) : t.rd a = s.rd a := by
  rw [h]
  rfl

theorem State.iss_sameSend {s t : State} (h : s.sameSend t) : t.iss = s.iss := by rw [h]

end Sys2Proof.Machine

/-! SUPPORT. Lane J, the lowest active one, its one access, and the group after a count of pages and after a park (spec/15_isa_memory_atomics_sync.md
R318, spec/06_address_spaces.md R134, spec/04_scheduler.md R92). -/
namespace Sys2Proof.Machine

section lead
variable {m : Lanes} {res : Resolver} {p : Place}

theorem lead_lt (m : Lanes) : lead m < 32 := by
  rw [lead, lowestLane]
  cases h : (List.range 32).find? fun l => m.getLsbD l with
  | none => decide
  | some l => exact List.mem_range.1 (List.mem_of_find?_eq_some h)

theorem getLsbD_lead (h : m ≠ 0) : m.getLsbD (lead m) = true := by
  rw [lead, lowestLane]
  cases hf : (List.range 32).find? fun l => m.getLsbD l with
  | none =>
    refine absurd (BitVec.eq_of_getLsbD_eq fun i hi => ?_) h
    have hi' := List.find?_eq_none.1 hf i (List.mem_range.2 hi)
    simpa using hi'
  | some l => exact List.find?_some hf

theorem lanesList_oneLane : ∀ j : Fin 32, lanesList (BitVec.ofNat 32 (2 ^ j.val)) = [j.val] := by decide +kernel

theorem lanesList_lead : lanesList (BitVec.ofNat 32 (2 ^ lead m)) = [lead m] := lanesList_oneLane ⟨lead m, lead_lt m⟩

/-- Lane J's access alone. -/
theorem lanePlaces_lead (h : (res (lead m)).2 = .ok p) :
    lanePlaces (BitVec.ofNat 32 (2 ^ lead m)) res = [{ lane := lead m, va := (res (lead m)).1, place := p }] := by
  have hr : res (lead m) = ((res (lead m)).1, .ok p) := Prod.ext rfl h
  rw [lanePlaces, lanesList_lead, List.filterMap_cons, hr]
  rfl

theorem leadFault_none (h : (res (lead m)).2 = .ok p) : leadFault m res = none :=
  resFaults_none fun l hl => by
    rw [getLsbD_one_lane (lead_lt m), decide_eq_true_eq] at hl
    exact ⟨p, hl ▸ h⟩

end lead

section counting
variable (s : State) (gid : Nat) (ps done : List Place)

@[simp] theorem State.iss_countPages : (s.countPages gid ps done).iss = s.iss := by rw [s.sameButLog_countPages gid ps done]

@[simp] theorem State.cur_countPages : (s.countPages gid ps done).cur = s.cur := by
  rw [s.sameButLog_countPages gid ps done]
  exact State.cur_of_eq rfl rfl

@[simp] theorem State.launchOf_countPages (k : Nat) : (s.countPages gid ps done).launchOf k = s.launchOf k := by
  rw [s.sameButLog_countPages gid ps done]
  rfl

end counting

/-- A group that waits for its word to be done again. -/
theorem State.cur_park (s : State) (i : Instr) (left : Lanes) : (s.park i left).cur =
    { s.cur with wait := some { i, run := s.iss.run, pc := s.iss.pc, left, absent := false, since := s.now } } := by
  rw [State.park, State.closePass_only]
  exact (State.cur_of_eq rfl rfl).trans (s.cur_setCur _)

end Sys2Proof.Machine

/-! PROOF. Special state, firmware services and launches from kernels (spec/17_isa_tiles_updates_system.md R384 to R387, spec/08_number_formats.md
R168). -/
namespace Sys2Proof.Machine

section system
variable {s : State} {f : XE} {m : Lanes}

/-- A privileged word traps when nothing comes before that cause (R114). -/
theorem State.pre_privileged {n : Needs} (hk : n.keys = []) (hp : n.priv = true) (hr : ∀ r ∈ n.regs ++ guardRegs n.guard, r < s.cur.nregs)
    (hg : s.cur.awaits (guardRegs n.guard) s.iss.run = false) (hu : s.cur.unknownFor (guardRegs n.guard) s.iss.run = none) :
    s.pre n = .trap 0x17 s.iss.run 0 0 := by
  have hfields : (n.regs ++ guardRegs n.guard).any (s.cur.nregs ≤ ·) = false := List.any_eq_false.2 fun r h => by simpa using hr r h
  simp only [State.pre, hk, List.isEmpty_nil, Bool.not_true, Bool.false_and, Bool.false_eq_true, if_false, hfields, hg, hu, hp, if_true]

/-! ### Special state (R385, R386) -/

theorem setWidth_word_twice (x : Word) : (x.setWidth 64).setWidth 32 = x := by simp

/-- `RDSR` of a state of one word. -/
theorem State.rdsr_narrow {x : Word} (hi : Shape.stateWidth f.e1.toNat = some 32) (hx : (s.special' f.e1.toNat).setWidth 32 = x)
    (h : s.Clear { guard := f.guard, regs := [f.e0.toNat], drain := f.e1.toNat = 5 } m) :
    ∃ t, exec (.rdsr f) s = .next t ∧ Loaded s t m f.e0.toNat 1 (fun _ => [x]) ∧ s.onlyCur t := by
  have hw : (Shape.stateWidth f.e1.toNat == some 64) = false := by rw [hi]; rfl
  have he : exec (.rdsr f) s = .next (s.runX { guard := f.guard, regs := [f.e0.toNat], drain := f.e1.toNat = 5 } noFault fun s m =>
      some (s.setCur (s.cur.setReg f.e0.toNat m fun _ => (s.special' f.e1.toNat).setWidth 32)).advance) := by
    show execRdsr f s = _
    simp only [execRdsr, hw]
    rfl
  rw [he]
  exact ⟨_, rfl, State.runX_loads h rfl (by rw [hx]; rfl)⟩

/-- `RDSR` of a state of two words. -/
theorem State.rdsr_wide {x : Dword} (hi : Shape.stateWidth f.e1.toNat = some 64) (hx : s.special' f.e1.toNat = x)
    (hd : decide (f.e1.toNat = 5) = false) (h : s.Clear { guard := f.guard, regs := [f.e0.toNat, f.e0.toNat + 1] } m) :
    ∃ t, exec (.rdsr f) s = .next t ∧ Loaded s t m f.e0.toNat 2 (fun _ => [x.setWidth 32, (x >>> 32).setWidth 32]) ∧ s.onlyCur t := by
  have hw : (Shape.stateWidth f.e1.toNat == some 64) = true := by rw [hi]; rfl
  have he : exec (.rdsr f) s = .next (s.runX { guard := f.guard, regs := [f.e0.toNat, f.e0.toNat + 1] } noFault fun s m =>
      some (s.setCur (s.cur.setReg64 f.e0.toNat m fun _ => s.special' f.e1.toNat)).advance) := by
    show execRdsr f s = _
    simp only [execRdsr, hw, hd]
    rfl
  rw [he]
  exact ⟨_, rfl, State.runX_loads h rfl (by rw [hx]; rfl)⟩

theorem State.wrsr_flags (hd : f.e0.toNat = 5) (hm : m ≠ 0)
    (h : s.Clear { guard := f.guard, regs := [f.e1.toNat], reads := [f.e1.toNat], drain := true } m) :
    ∃ t, exec (.wrsr f) s = .next t
      ∧ XDone s t { s.cur.advance s.iss.run with fpflags := s.cur.v (lead m) f.e1.toNat &&& 0x3F } := by
  have hp : (f.e0 != 5) = false := by
    rw [show f.e0 = 5 from BitVec.eq_of_toNat_eq hd]
    rfl
  refine ⟨_, rfl, ?_⟩
  dsimp only
  rw [hp]
  exact State.runX_done h rfl (by rw [if_neg hm, State.setCur_advance]; rfl) (by rw [Group.advance])

theorem State.wrsr_privilege (hd : f.e0.toNat ≠ 5) (hr : ∀ r ∈ [f.e1.toNat] ++ guardRegs f.guard, r < s.cur.nregs)
    (hg : s.cur.awaits (guardRegs f.guard) s.iss.run = false) (hu : s.cur.unknownFor (guardRegs f.guard) s.iss.run = none) :
    exec (.wrsr f) s = .next (s.takeTrap 0x17 s.iss.run 0 0) := by
  have hp : (f.e0 != 5) = true := bne_iff_ne.2 fun h => hd (by rw [h]; rfl)
  show execWrsr f s = _
  rw [execWrsr, State.runX, State.pre_privileged rfl hp hr hg hu]
  rfl

/-! ### Firmware services (R387) -/

/-- What an `SVC` does with nothing before it, when it posts a request and when its service is absent. -/
def svcAct (s0 : State) (f : XE) (posts : Bool) (s : State) (m : Lanes) : Option State :=
  if m = 0 then some s.advance
  else if posts then some ((s.post ((s0.cur.v (lead m) f.e2.toNat).setWidth 16) (s.cur.v64 (lead m) f.e1.toNat)).park (.svc f) m)
  else some (s.setCur (s.cur.setReg64 f.e0.toNat m fun _ => 0xFFFFFFFFFFFFFFFF)).advance

/-- The needs of an `SVC`. -/
def svcNeeds (f : XE) (posts : Bool) : Needs :=
  { guard := f.guard, regs := pairRegs f.e0 ++ (pairRegs f.e1 ++ [f.e2.toNat]), reads := pairRegs f.e1 ++ [f.e2.toNat], mem := posts, rel := posts }

@[simp] theorem State.mailbox_park (i : Instr) (left : Lanes) : (s.park i left).mailbox = s.mailbox := by
  rw [State.park, State.closePass_only]
  rfl

theorem Group.setReg64_const (g : Group) (d : Nat) (m : Lanes) (x : Dword) :
    g.setReg64 d m (fun _ => x) = g.setRegs d m (fun _ => [x.setWidth 32, (x >>> 32).setWidth 32]) 2 := rfl

section svc
variable {posts : Bool} (hm : m ≠ 0) (ha : m = s.cur.active s.iss.run f.guard)
  (hp : s.hasService ((s.cur.v (lead m) f.e2.toNat).setWidth 16) = posts)
include hm ha hp

theorem State.exec_svc : exec (.svc f) s = .next (s.runX (svcNeeds f posts) noFault (svcAct s f posts)) := by
  have hact : (s.cur.active s.iss.run f.guard != 0
      && s.hasService ((s.cur.v (lead (s.cur.active s.iss.run f.guard)) f.e2.toNat).setWidth 16)) = posts := by
    rw [← ha, hp, bne_iff_ne.2 hm, Bool.true_and]
  show execSvc f s = _
  unfold execSvc
  dsimp only
  rw [hact]
  rfl

theorem State.svc_absent (h : s.Clear (svcNeeds f posts) m) (habs : posts = false) :
    ∃ t, exec (.svc f) s = .next t ∧ Loaded s t m f.e0.toNat 2 (fun _ => [0xFFFFFFFF, 0xFFFFFFFF]) ∧ s.onlyCur t := by
  refine ⟨_, State.exec_svc hm ha hp, State.runX_loads (val := fun _ => [0xFFFFFFFF, 0xFFFFFFFF]) h rfl ?_⟩
  rw [svcAct, if_neg hm, habs, if_neg Bool.false_ne_true, Group.setReg64_const, show (0xFFFFFFFFFFFFFFFF : Dword).setWidth 32 = 0xFFFFFFFF by decide,
    show ((0xFFFFFFFFFFFFFFFF : Dword) >>> 32).setWidth 32 = 0xFFFFFFFF by decide]

theorem State.svc_posts (h : s.Clear (svcNeeds f posts) m) (hpost : posts = true) (hi : s.iss.issued = false) :
    exec (.svc f) s
      = .next ((s.post ((s.cur.v (lead m) f.e2.toNat).setWidth 16) (s.cur.v64 (lead m) f.e1.toNat)).park (.svc f) m) := by
  refine (State.exec_svc hm ha hp).trans (congrArg _ (State.runX_parks h rfl ?_ rfl hi))
  rw [svcAct, if_neg hm, if_pos hpost]

theorem State.svc_waits (h : s.Clear (svcNeeds f false) m) (hpost : posts = true) (hw : s.cur.pending m = true ∨ s.cur.storesOut = true) :
    exec (.svc f) s = .next s := by
  subst hpost
  refine (State.exec_svc hm ha hp).trans (congrArg _ (State.runX_follows (mem := true) (after := false) (issues := false) (rel := true) h ?_))
  have hm0 : (m != 0) = true := bne_iff_ne.2 hm
  rcases hw with hw | hw
  · simp [Group.mustFollow, Needs.ordering, hw]
  · simp only [Group.mustFollow, Needs.ordering, hw, hm0, Bool.and_self, Bool.or_true]

end svc

/-! ### `LAUNCH` (R384) -/

/-- `LAUNCH` asks its unit. -/
def State.sendLaunch (s : State) (f : XE) (m : Lanes) : State :=
  s.sendLead (.launch (s.launchOf s.iss.gid).ctx (s.cur.v64 (lead m) f.e1.toNat)) 0 true (some f.e0.toNat) m (some (s.unitOf s.cur.wserial))
    { lane := lead m, place := { kind := 0, pa := (s.cur.v64 (lead m) f.e1.toNat).toNat % 2 ^ 48 }, va := s.cur.v64 (lead m) f.e1.toNat }

/-- The needs of a `LAUNCH`. -/
def launchNeeds (s : State) (f : XE) (near : Bool) : Needs :=
  { guard := f.guard, regs := f.e0.toNat :: pairRegs f.e1, reads := pairRegs f.e1, region := near && s.cur.windowRegion, mem := true
    issues := near }

theorem State.unitOf_new {n : Word} (h : ∀ u ∈ s.cur.units, u.1 ≠ n) : s.unitOf n = 64 + coreDie (slotCore s.cur.slot) := by
  have hnone : (s.cur.units.find? fun u => u.1 = n) = none := List.find?_eq_none.2 fun u hu => by simpa using h u hu
  rw [State.unitOf, hnone]

/-- What a `LAUNCH` of a global address (`near`), or of another one, does with nothing before it. -/
def launchAct (s0 : State) (f : XE) (near : Bool) (s : State) (m : Lanes) : Option State :=
  if m = 0 then some s.advance
  else if !near then some (s.setCur (s.cur.setReg f.e0.toNat m fun _ => 1)).advance
  else if 255 ≤ s.cur.rem.length then none
  else
    s.openWindow.map fun s =>
      let t := s.sendLead (.launch (s.launchOf s.iss.gid).ctx (s0.cur.v64 (lead m) f.e1.toNat)) 0 true (some f.e0.toNat) m
        (some (s.unitOf s.cur.wserial))
        { lane := lead m, place := { kind := 0, pa := (s0.cur.v64 (lead m) f.e1.toNat).toNat % 2 ^ 48 }, va := s0.cur.v64 (lead m) f.e1.toNat }
      (t.setCur ((t.cur.addRem s.cur.wserial).asked s.cur.wserial (s.unitOf s.cur.wserial))).advance

section launch
variable {near : Bool} (hm : m ≠ 0) (h : s.Clear (launchNeeds s f near) m)
  (hn : decide (s.classOf s.iss.gid (s.cur.v64 (lead m) f.e1.toNat) = 0) = near)
include hm h hn

theorem State.exec_launch : exec (.launch f) s = .next (s.runX (launchNeeds s f near)
    (fun m => if near then s.serialFault m (s.cur.v64 (lead m) f.e1.toNat) else none) (launchAct s f near)) := by
  have hact : (s.cur.active s.iss.run f.guard != 0
      && s.classOf s.iss.gid (s.cur.v64 (lead (s.cur.active s.iss.run f.guard)) f.e1.toNat) = 0) = near := by
    have ha : s.cur.active s.iss.run f.guard = m := h.active.symm
    rw [ha, hn, bne_iff_ne.2 hm, Bool.true_and]
  show execLaunch f s = _
  unfold execLaunch
  dsimp only
  rw [hact]
  rfl

theorem State.launch_far (hfar : near = false) :
    ∃ t, exec (.launch f) s = .next t ∧ Loaded s t m f.e0.toNat 1 (fun _ => [1]) ∧ s.onlyCur t := by
  subst hfar
  exact ⟨_, State.exec_launch hm h hn, State.runX_loads h rfl (by rw [launchAct, if_neg hm]; rfl)⟩

theorem State.launch_last (hnear : near = true) (hl : s.lastSerial = true) :
    exec (.launch f) s = .next (s.takeTrap 0x11 m (s.cur.v64 (lead m) f.e1.toNat) 0) := by
  rw [State.exec_launch hm h hn, State.runX_fault (d := { cause := 0x11, lanes := m, addr := s.cur.v64 (lead m) f.e1.toNat }) h]
  rw [if_pos hnear, State.serialFault, bne_iff_ne.2 hm, hl]
  rfl

theorem State.launch_asks (hnear : near = true) (hl : s.lastSerial = false) (hr : s.cur.rem.length < 255) (hw : s.cur.window = .free) :
    exec (.launch f) s = .next (((s.sendLaunch f m).setCur (((s.sendLaunch f m).cur.addRem s.cur.wserial).asked s.cur.wserial
      (s.unitOf s.cur.wserial))).advance).afterX := by
  subst hnear
  rw [State.exec_launch hm h hn, State.runX_next h (by simp [State.serialFault, hl])]
  rw [launchAct, if_neg hm, if_neg (by simp), if_neg (Nat.not_le.2 hr), State.openWindow_free hw]
  rfl

end launch

end system
end Sys2Proof.Machine

namespace Sys2Proof
open Machine

/-- Settles O38: each word is one case of its own; a `LAUNCH` and an `SVC` first say whether they act at once, which fixes their needs. -/
theorem specialState : Obligations.SpecialState := by
  unfold Obligations.SpecialState
  refine ⟨fun s f m => ?_, fun s f m => ?_⟩
  · intro g d n narrow wide svcReads hi
    refine ⟨fun x hx h => ?_, fun x hx h => ?_, fun hd hm h => ?_, fun hd hr hg hu => ?_, fun hm => ?_⟩
    · have hs : Shape.stateWidth n = some 32 ∧ (s.special' n).setWidth 32 = x := by
        simp only [narrow, List.mem_cons, Prod.mk.injEq, List.not_mem_nil, or_false] at hx
        rcases hx with ⟨hn, rfl⟩ | ⟨hn, rfl⟩ | ⟨hn, rfl⟩ | ⟨hn, rfl⟩ | ⟨hn, rfl⟩ | ⟨hn, rfl⟩ <;> rw [hn] <;> refine ⟨rfl, ?_⟩
        · exact BitVec.setWidth_ofNat_of_le (by decide) _
        · exact setWidth_word_twice _
        · exact setWidth_word_twice _
        · exact setWidth_word_twice _
        · exact setWidth_word_twice _
        · show BitVec.setWidth 32 (if (s.launchOf s.iss.gid).determ = true then (1 : Dword) else 0) = _
          split <;> rfl
      exact State.rdsr_narrow hs.1 hs.2 h
    · have hs : Shape.stateWidth n = some 64 ∧ s.special' n = x ∧ decide (n = 5) = false := by
        simp only [wide, List.mem_cons, Prod.mk.injEq, List.not_mem_nil, or_false] at hx
        rcases hx with ⟨hn, rfl⟩ | ⟨hn, rfl⟩ | ⟨hn, rfl⟩ | ⟨hn, rfl⟩ | ⟨hn, rfl⟩ <;> rw [hn] <;> exact ⟨rfl, rfl, rfl⟩
      exact State.rdsr_wide hs.1 hs.2.1 hs.2.2 h
    · exact State.wrsr_flags hd hm h
    · exact State.wrsr_privilege hd hr hg hu
    · intro id clear
      refine ⟨fun hp h => State.svc_absent hm h.active hp h rfl, fun hp h => ⟨_, State.svc_posts hm h.active hp h rfl hi, ?_, ?_⟩,
        fun hp h hw => State.svc_waits hm h.active hp h rfl hw⟩
      · exact State.mailbox_park ..
      · rw [State.mailbox_park]
        rfl
  · intro g d va near hm h
    by_cases hn : near
    · rw [decide_eq_true hn] at h
      refine ⟨fun hf => absurd hn hf, fun _ hl => State.launch_last hm h (decide_eq_true hn) rfl hl, fun _ hl hr hw => ?_⟩
      obtain ⟨o, ho⟩ := s.sendLead_sent (.launch (s.launchOf s.iss.gid).ctx va) 0 true (some d) m (some (s.unitOf s.cur.wserial))
        { lane := lead m, place := { kind := 0, pa := va.toNat % 2 ^ 48 }, va }
      rw [← State.sendLaunch] at ho
      obtain ⟨x, hx, hdst, hregs, hready⟩ := ho.late d rfl
      obtain ⟨hwm, hser, hop, -⟩ := ho.sentAs
      have hg : (s.sendLaunch f m).cur = _ := ho.group
      refine ⟨_, o, x, State.launch_asks hm h (decide_eq_true hn) rfl hl hr hw, ?_⟩
      rw [State.cur_next]
      refine ⟨?_, State.stands_passed ?_ ?_, ?_, ?_, ?_, hop, ho.owner, hser, hwm, ho.lanes, fun hu => ?_, ?_, hdst, hregs, hready, fun a => ?_⟩
      · refine (State.v_passed).trans (Group.v_of_regs ?_)
        rw [State.cur_setCur, Group.asked, Group.addRem, hg]
        exact Group.regs_took ..
      · rw [State.cur_setCur, Group.asked, Group.addRem, hg]
        exact Group.pcs_took ..
      · rw [State.iss_setCur, State.iss_sameSend ho.frame]
      · rw [State.wserial_passed, State.cur_setCur, Group.asked, Group.addRem, hg]
        rfl
      · rw [State.nRem_passed, State.cur_setCur, Group.asked, Group.addRem, hg]
        rfl
      · rw [State.outs_passed, State.cur_setCur]
        exact ho.mem
      · exact ho.owner.trans (State.unitOf_new hu)
      · rw [State.late_passed, State.cur_setCur]
        exact hx
      · rw [State.rd_next]
        exact State.rd_sameSend ho.frame a
    · rw [decide_eq_false hn] at h
      exact ⟨fun _ => State.launch_far hm h (decide_eq_false hn) rfl, fun hc => absurd hc hn, fun hc => absurd hc hn⟩

end Sys2Proof

/-! SUPPORT. Words that stop at a trap of their own, and regions that begin: the issue stage stays as it was (spec/05_cores_and_execution.md R117,
R108). -/
namespace Sys2Proof.Machine

section traps
variable (s : State) (gid : Nat)

@[simp] theorem State.iss_releaseA : (s.releaseA gid).iss = s.iss := by
  unfold State.releaseA
  dsimp only
  split
  · split <;> rfl
  · rfl

@[simp] theorem State.iss_fatal (t : TrapState) : (s.fatal gid t).iss = s.iss := by
  rw [State.fatal, State.sameButLog_log]

@[simp] theorem State.iss_endLaunch (h : Word) (cause team : Nat) : (s.endLaunch h cause team).iss = s.iss := by
  unfold State.endLaunch
  dsimp only
  split
  · rfl
  · rfl
  · split <;> rfl
  · rfl

@[simp] theorem State.iss_takeTrap (cause : Nat) (lanes : Lanes) (addr info : Dword) : (s.takeTrap cause lanes addr info).iss = s.iss := by
  unfold State.takeTrap
  dsimp only
  split <;> simp

@[simp] theorem State.iss_trapUnknown (u : Unknown) : (s.trapUnknown u).iss = s.iss := State.iss_takeTrap ..

@[simp] theorem State.iss_regionAfter : s.regionAfter.iss = s.iss := by simp [State.regionAfter]
@[simp] theorem State.iss_regionBefore : s.regionBefore.iss = s.iss := by simp [State.regionBefore]

end traps

/-- A collective word that changes the state and stays to be done again. -/
theorem State.runM_keeps {s u : State} {n : Needs} {m : Lanes} {check : Option DataFault} {act : State → Lanes → Option State}
    (h : s.Clear { n with coll := true } m) (hm : m ≠ 0) (hc : check = none) (ha : act s m = some u) (hi : u.iss.issued = false) :
    s.runM n check act = .next u := by
  rw [State.runM, State.runX_parked h _ _ hi]
  · rw [if_neg hm, hc]
  · rw [if_neg hm, ha]

end Sys2Proof.Machine

/-! PROOF. `WAITC` and `CNTRD` (spec/16_isa_copy_matrix.md R352, R355, R356, spec/05_cores_and_execution.md R113, R116,
spec/02_fabric_and_exactly_once.md R42). -/
namespace Sys2Proof.Machine

section waitc
variable {s : State} {f : XE} {m : Lanes}

/-- A `WAITC` with active lanes whose class has no more than its count outstanding ends, or delivers what it finds. -/
theorem State.exec_waitc_end (h : s.Clear { guard := f.guard } m) (hm : m ≠ 0) (hn : s.cur.outstanding f.flags.toNat ≤ f.e0.toNat)
    {u : State} (hu : s.waitcEnd s f.flags.toNat f.e0.toNat = u) :
    exec (.waitc f) s = .next (if u.iss.issued then u.afterX else u) := by
  have ha : some (if m = 0 then s.advance else if f.e0.toNat < s.cur.outstanding f.flags.toNat then s.park (.waitc f) m
      else s.waitcEnd s f.flags.toNat f.e0.toNat) = some u := by
    rw [if_neg hm, if_neg (Nat.not_lt.2 hn), hu]
  refine (show exec (.waitc f) s = .next (s.runX { guard := f.guard } noFault _) from rfl).trans (congrArg _ ?_)
  by_cases hi : u.iss.issued = true
  · rw [if_pos hi]
    exact State.runX_go h rfl ha hi
  · rw [if_neg hi]
    exact State.runX_parked h rfl ha (by simpa using hi)

theorem State.waitc_passes (h : s.Clear { guard := f.guard } m) (hend : m = 0 ∨ m ≠ 0 ∧ s.cur.outstanding f.flags.toNat ≤ f.e0.toNat
      ∧ s.waitcEnd s f.flags.toNat f.e0.toNat = s.advance) :
    ∃ t, exec (.waitc f) s = .next t ∧ XDone s t (s.cur.advance s.iss.run) := by
  refine ⟨_, rfl, State.runX_advance h rfl ?_⟩
  obtain rfl | ⟨hm, hn, he⟩ := hend
  · rfl
  · rw [if_neg hm, if_neg (Nat.not_lt.2 hn), he]

theorem State.waitc_parks (h : s.Clear { guard := f.guard } m) (hm : m ≠ 0) (hi : s.iss.issued = false)
    (hn : f.e0.toNat < s.cur.outstanding f.flags.toNat) : exec (.waitc f) s = .next (s.park (.waitc f) m) :=
  congrArg _ (State.runX_parks h rfl (by rw [if_neg hm, if_pos hn]) rfl hi)

/-! ### What a `WAITC` finds (R42, R116, R352) -/

section finds
variable {g : Group} {cls n : Nat} {u : Unknown} {d : Deferred} {α : Type} {p : α → Bool} {xs before after : List α} {x : α}

theorem find?_eq_first (he : xs = before ++ x :: after) (hb : ∀ y ∈ before, p y = false) (hx : p x = true) : xs.find? p = some x := by
  rw [he, List.find?_append, List.find?_eq_none.2 fun y hy => by rw [hb y hy]; exact Bool.false_ne_true, Option.none_or,
    List.find?_cons_of_pos hx]

theorem erase_first [DecidableEq α] (hb : ∀ y ∈ before, p y = false) (hx : p x = true) :
    (before ++ x :: after).erase x = before ++ after := by
  have hnot : x ∉ before := fun hmem => by
    rw [hb x hmem] at hx
    cases hx
  rw [List.erase_append_right _ hnot, List.erase_cons_head]

/-- The outcome is that of an operation of the class that a count `n` covers. -/
def Unknown.coveredBy (u : Unknown) (cls n issued : Nat) : Bool :=
  match u.cls with
  | some c => c.1 = cls && c.2 + n < issued
  | none => false

theorem Unknown.coveredBy_iff {issued : Nat} : u.coveredBy cls n issued = true ↔ ∃ k, u.cls = some (cls, k) ∧ k + n < issued := by
  rw [Unknown.coveredBy]
  cases u.cls with
  | none => simp
  | some c =>
    obtain ⟨a, b⟩ := c
    simp only [Bool.and_eq_true, decide_eq_true_eq, Option.some.injEq, Prod.mk.injEq]
    constructor
    · rintro ⟨rfl, h⟩
      exact ⟨b, ⟨rfl, rfl⟩, h⟩
    · rintro ⟨k, ⟨rfl, rfl⟩, h⟩
      exact ⟨rfl, h⟩

theorem Group.clsUnknown_eq : g.clsUnknown cls n = g.unknowns.find? fun u => u.coveredBy cls n (g.issuedOf cls) := rfl

theorem State.waitcEnd_unknown (h : s.cur.clsUnknown cls n = some u) : s.waitcEnd s cls n = s.trapUnknown u := by
  unfold State.waitcEnd
  dsimp only
  rw [h]

/-- Without an unknown outcome the oldest failure of a copy or a tile operation is delivered. -/
def State.waitcFails (s : State) (cls n : Nat) : Option State :=
  match cls with
  | 0 => (s.cur.copyFailure n).map fun d => s.deliverFailure (s.cur.giveCopy d) d
  | 2 => (s.cur.tileFailure n).map fun d => s.deliverFailure (s.cur.giveTile d) d
  | _ => none

theorem State.waitcEnd_known (h : s.cur.clsUnknown cls n = none) : s.waitcEnd s cls n = (s.waitcFails cls n).getD s.advance := by
  unfold State.waitcEnd
  dsimp only
  rw [h]
  rfl

theorem Group.copyFailure_none (h : ∀ d ∈ g.copyFails, g.nCopy ≤ d.seq + n) : g.copyFailure n = none :=
  List.find?_eq_none.2 fun d hd => by simpa using h d hd

theorem Group.copyFailure_first {before after : List Deferred} (he : g.copyFails = before ++ d :: after) (hb : ∀ x ∈ before, g.nCopy ≤ x.seq + n)
    (hd : d.seq + n < g.nCopy) : g.copyFailure n = some d :=
  find?_eq_first he (fun y hy => by simpa using hb y hy) (by simpa using hd)

theorem Group.giveCopy_first {before after : List Deferred} (he : g.copyFails = before ++ d :: after) (hb : ∀ x ∈ before, g.nCopy ≤ x.seq + n)
    (hd : d.seq + n < g.nCopy) : g.giveCopy d = { g with copyFails := before ++ after, ckpt := g.ckpt.map fun c => c.keepCopy d } := by
  rw [Group.giveCopy, he, erase_first (p := fun x => decide (x.seq + n < g.nCopy)) (fun y hy => by simpa using hb y hy) (by simpa using hd)]

theorem Group.tileFailure_none (h : ∀ d, g.tileFail = some d → g.nTile ≤ d.seq + n) : g.tileFailure n = none := by
  rw [Group.tileFailure]
  cases ht : g.tileFail with
  | none => rfl
  | some d => exact if_neg (Nat.not_lt.2 (h d ht))

theorem Group.tileFailure_some (ht : g.tileFail = some d) (hd : d.seq + n < g.nTile) : g.tileFailure n = some d := by
  rw [Group.tileFailure, ht]
  exact if_pos hd

end finds

/-- A `WAITC` that finds a failure delivers it. -/
theorem State.waitc_fails {g : Group} {d : Deferred} (h : s.Clear { guard := f.guard } m) (hm : m ≠ 0) (hi : s.iss.issued = false)
    (hn : s.cur.outstanding f.flags.toNat ≤ f.e0.toNat) (hu : s.cur.clsUnknown f.flags.toNat f.e0.toNat = none)
    (hf : s.waitcFails f.flags.toNat f.e0.toNat = some (s.deliverFailure g d)) :
    exec (.waitc f) s = .next ((s.setCur g).takeTrap d.cause d.lanes d.addr (BitVec.ofNat 64 (distance d.pc s.iss.pc))) := by
  rw [State.exec_waitc_end h hm hn (State.waitcEnd_known hu), hf, Option.getD_some, if_neg]
  · rfl
  · rw [State.deliverFailure, State.iss_takeTrap, State.iss_setCur, hi]
    exact Bool.false_ne_true

end waitc

end Sys2Proof.Machine

namespace Sys2Proof
open Machine

/-- Settles O28: a `WAITC` with nothing more to wait for looks first for an unknown outcome of its class, then for a failure of it, and passes when there is
none. -/
theorem counters : Obligations.Counters := by
  unfold Obligations.Counters
  intro s f m g n cls count issued covered passes fails
  have hcount (k : Nat) : count k = g.outstanding k := by
    match k with
    | 0 => rfl
    | 1 => rfl
    | 2 => rfl
    | k + 3 => rfl
  have hissued : issued = g.issuedOf cls := by
    have : ∀ k, (if k = 0 then g.nCopy else if k = 1 then g.nMat else if k = 2 then g.nTile else g.nRem) = g.issuedOf k
      | 0 => rfl
      | 1 => rfl
      | 2 => rfl
      | k + 3 => rfl
    exact this cls
  refine ⟨fun hi hc h => ⟨fun hm => State.waitc_passes h (.inl hm), fun hm hn => State.waitc_parks h hm hi (hcount cls ▸ hn), fun hm hn => ?_⟩, fun h => ?_⟩
  · rw [hcount] at hn
    have hcov (u : Unknown) : covered u ↔ u.coveredBy cls n (g.issuedOf cls) = true := by
      rw [Unknown.coveredBy_iff, ← hissued]
    refine ⟨fun before u after he hb hu => ?_, fun hnone => ?_⟩
    · have hfind : g.clsUnknown cls n = some u := Group.clsUnknown_eq.trans (find?_eq_first he (fun y hy => by simpa [hcov] using hb y hy) ((hcov u).1 hu))
      rw [State.exec_waitc_end h hm hn (State.waitcEnd_unknown hfind), State.iss_trapUnknown, hi]
      rfl
    · have hunk : g.clsUnknown cls n = none :=
        Group.clsUnknown_eq.trans (List.find?_eq_none.2 fun u hu => by rw [← hcov]; exact hnone u hu)
      have hpass (hf : s.waitcFails cls n = none) : passes :=
        State.waitc_passes h (.inr ⟨hm, hn, by rw [State.waitcEnd_known hunk, hf]; rfl⟩)
      refine ⟨fun hcl => hpass ?_, fun hcl hall => hpass ?_, fun hcl before d after he hb hd => ?_, fun hcl hall => hpass ?_, fun hcl d ht hd => ?_⟩
      · obtain hcl | hcl := hcl <;> rw [hcl] <;> rfl
      · rw [hcl, State.waitcFails, Group.copyFailure_none hall]
        rfl
      · refine State.waitc_fails h hm hi hn hunk ?_
        show s.waitcFails cls n = _
        rw [hcl, State.waitcFails, Group.copyFailure_first he hb hd, Option.map_some, Group.giveCopy_first he hb hd]
        rfl
      · rw [hcl, State.waitcFails, Group.tileFailure_none hall]
        rfl
      · refine State.waitc_fails h hm hi hn hunk ?_
        show s.waitcFails cls n = _
        rw [hcl, State.waitcFails, Group.tileFailure_some ht hd]
        rfl
  · simp only [hcount]
    exact ⟨_, rfl, (State.runX_loads h rfl rfl).symm⟩

end Sys2Proof

/-! PROOF. Reservations of the operand buffer and the engine priority (spec/16_isa_copy_matrix.md R357, R361, R362, spec/04_scheduler.md R88). -/
namespace Sys2Proof.Machine

/-! ### The lowest run of free granules (R357) -/

section run
variable {x : Quad} {n k : Nat}

/-- The granules `k` to `k + n` are free. -/
def Quad.runFree (x : Quad) (n k : Nat) : Prop := ∀ i, i < n → x.granuleFree (k + i) = true

theorem Quad.runFree_iff : x.runFree n k ↔ ((List.range n).all fun i => x.granuleFree (k + i)) = true := by
  simp [Quad.runFree, List.all_eq_true]

theorem Quad.findRun_none (hn : n ≤ 448) : x.findRun n = none ↔ ∀ k, k + n ≤ 448 → ¬ x.runFree n k := by
  rw [Quad.findRun, List.find?_eq_none]
  simp only [List.mem_range, Quad.runFree_iff, show Config.granules = 448 from rfl]
  exact ⟨fun h k hk => h k (by omega), fun h k hk => h k (by omega)⟩

theorem Quad.findRun_some (hn : n ≤ 448) (h : x.findRun n = some k) : k + n ≤ 448 ∧ x.runFree n k ∧ ∀ j, j < k → ¬ x.runFree n j := by
  rw [Quad.findRun, List.find?_range_eq_some] at h
  obtain ⟨hfree, hk, hlow⟩ := h
  rw [List.mem_range, show Config.granules = 448 from rfl] at hk
  refine ⟨by omega, Quad.runFree_iff.2 hfree, fun j hj hf => ?_⟩
  have hnot := hlow j hj
  rw [Quad.runFree_iff.1 hf] at hnot
  cases hnot

end run

/-! ### The number of a handle (R361) -/

section number
variable {x : Quad} {tk last k : Nat}

/-- A reservation of the team has the number. -/
def Quad.numberUsed (x : Quad) (tk k : Nat) : Prop := ∃ r ∈ x.resvs, r.team = tk ∧ r.handle.toNat % 256 = k

theorem Quad.numberUsed_iff : x.numberUsed tk k ↔ (x.resvs.any fun r => r.team = tk && r.handle.toNat % 256 = k) = true := by
  simp [Quad.numberUsed, List.any_eq_true]

/-- The numbers that are tried are 1 to 255. -/
theorem mem_resvNumbers : k ∈ (List.range 255).map (fun i => (last + i) % 255 + 1) ↔ 1 ≤ k ∧ k ≤ 255 := by
  simp only [List.mem_map, List.mem_range]
  constructor
  · rintro ⟨i, -, rfl⟩
    omega
  · rintro ⟨h1, h2⟩
    exact ⟨(k - 1 + 255 - last % 255) % 255, by omega, by omega⟩

theorem nextResv_none : nextResv x tk last = none ↔ ∀ k, 1 ≤ k → k ≤ 255 → x.numberUsed tk k := by
  rw [nextResv, List.find?_eq_none]
  simp only [mem_resvNumbers, Bool.not_eq_true, Bool.not_eq_false', ← Quad.numberUsed_iff]
  exact ⟨fun h k h1 h2 => h k ⟨h1, h2⟩, fun h k hk => h k hk.1 hk.2⟩

theorem nextResv_some (h : nextResv x tk last = some k) : 1 ≤ k ∧ k ≤ 255 ∧ ¬ x.numberUsed tk k := by
  obtain ⟨h1, h2⟩ := mem_resvNumbers.1 (List.mem_of_find?_eq_some h)
  have hf := List.find?_some h
  refine ⟨h1, h2, fun hu => ?_⟩
  rw [Quad.numberUsed_iff.1 hu] at hf
  cases hf

/-- A handle's fields are the team's index and the number. -/
theorem handle_fields (hk : k ≤ 255) :
    (BitVec.ofNat 32 (teamIndex tk * 256 + k)).toNat / 256 = teamIndex tk ∧ (BitVec.ofNat 32 (teamIndex tk * 256 + k)).toNat % 256 = k := by
  have hlt : teamIndex tk < 2 ^ 24 := Nat.mod_lt _ (by decide)
  rw [BitVec.toNat_ofNat, Nat.mod_eq_of_lt (by omega)]
  omega

end number

/-! ### `OBRES` (R357) -/

section reserve
variable {s : State} {gid size : Nat}

/-- Granules of a size in bytes. -/
def granulesOf (size : Nat) : Nat := (size + 4095) / 4096

theorem State.reserve_none : s.reserve gid size = none ↔ 64 ≤ (s.quad (s.quadOf gid)).resvs.length
    ∨ (s.quad (s.quadOf gid)).findRun (granulesOf size) = none
    ∨ nextResv (s.quad (s.quadOf gid)) (groupTeam gid) (s.team (groupTeam gid)).lastResv = none
    ∨ s.poolAlloc (s.quadOf gid / 36) (granulesOf size * 4096) = none := by
  unfold State.reserve State.takeArea granulesOf
  simp only [show Config.reservations = 64 from rfl, show Config.quads = 36 from rfl]
  by_cases hlen : 64 ≤ (s.quad (s.quadOf gid)).resvs.length
  · simp [hlen]
  · rw [if_neg hlen]
    cases (s.quad (s.quadOf gid)).findRun ((size + 4095) / 4096) with
    | none => simp
    | some k =>
      cases nextResv (s.quad (s.quadOf gid)) (groupTeam gid) (s.team (groupTeam gid)).lastResv with
      | none => simp
      | some num =>
        cases s.poolAlloc (s.quadOf gid / 36) ((size + 4095) / 4096 * 4096) with
        | none => simp
        | some save => simp [hlen]

/-- What a reservation takes. -/
structure Reserved (s u : State) (gid size : Nat) (w : Word) (k num : Nat) (r : Resv) : Prop where
  run : (s.quad (s.quadOf gid)).findRun (granulesOf size) = some k
  number : nextResv (s.quad (s.quadOf gid)) (groupTeam gid) (s.team (groupTeam gid)).lastResv = some num
  handle : w = BitVec.ofNat 32 (teamIndex (groupTeam gid) * 256 + num)
  same : s.sameButUnits u
  quad : (u.quad (s.quadOf gid)).resvs = (s.quad (s.quadOf gid)).resvs ++ [r]
  resv : r.handle = w ∧ r.launch = keyHandle (groupTeam gid) ∧ r.team = groupTeam gid ∧ r.granule = k ∧ r.count = granulesOf size ∧ r.record = unsetRec

theorem State.reserve_some {u : State} {w : Word} (h : s.reserve gid size = some (u, w)) : ∃ k num r, Reserved s u gid size w k num r := by
  unfold State.reserve State.takeArea at h
  dsimp only at h
  split at h
  · cases h
  · simp only [Option.bind_eq_bind, Option.bind_eq_some_iff, Option.map_eq_some_iff] at h
    obtain ⟨k, hk, num, hnum, save, -, t, ⟨base, -, rfl⟩, h⟩ := h
    obtain ⟨rfl, rfl⟩ := Prod.mk.inj (Option.some.inj h)
    exact ⟨k, num, _, hk, hnum, rfl, rfl, by rw [State.quad_setQuad]; rfl, ⟨rfl, rfl, rfl, rfl, rfl, rfl⟩⟩

end reserve

/-! ### Words that end on a changed package (R103, R105) -/

section ends
variable {s u t : State} {m : Lanes} {d k : Nat} {val : Nat → List Word}

theorem Loaded.of_cur (h : Loaded u t m d k val) (hc : u.cur = s.cur) (hi : u.iss = s.iss) : Loaded s t m d k val := by
  obtain ⟨hregs, hpcs, hflags, hlatches⟩ := h
  unfold Stands at hpcs
  rw [hc] at hregs hpcs hflags
  rw [hi] at hpcs
  exact ⟨hregs, hpcs, hflags, hlatches⟩

/-- Registers are loaded, and nothing else of the package changes. -/
theorem State.loads_now (s : State) : Loaded s ((s.setCur (s.cur.setRegs d m val k)).advance).afterX m d k val
    ∧ s.onlyCur ((s.setCur (s.cur.setRegs d m val k)).advance).afterX := by
  rw [State.setCur_advance]
  exact XDone.loaded (s.afterX_done _ (by rw [Group.advance, Group.setRegs_only]))

/-- Registers are loaded in a package that the word has changed besides. -/
theorem State.loads_changed (hu : s.sameButUnits u) : Loaded s ((u.setCur (u.cur.setRegs d m val k)).advance).afterX m d k val := by
  exact u.loads_now.1.of_cur (State.cur_of_sameButUnits hu) (s.iss_of_sameButUnits hu)

theorem State.quads_advance : (s.advance.afterX).quads = s.quads := by
  rw [State.afterX_only]
  rfl

theorem State.quad_ended (q : Nat) : (s.advance.afterX).quad q = s.quad q := by
  rw [State.quad, State.quads_advance, State.quad]

theorem State.quad_loaded (q : Nat) (g : Group) : ((s.setCur g).advance.afterX).quad q = s.quad q := State.quad_ended q

end ends

section words
variable {s : State} {f : XE} {m : Lanes}

/-- The needs of an `OBRES`. -/
def obresNeeds (f : XE) : Needs := { guard := f.guard, regs := [f.e0.toNat, f.e1.toNat], reads := [f.e1.toNat], coll := true }

theorem execObres_bad (h : s.Clear (obresNeeds f) m) (hm : m ≠ 0)
    (hz : (s.cur.v 0 f.e1.toNat).toNat = 0 ∨ 1835008 < (s.cur.v 0 f.e1.toNat).toNat) :
    exec (.obres f) s = .next (s.takeTrap 0x0D allLanes 0 8) :=
  State.runM_fault (d := handleFault 8) h hm (if_pos (by simpa using hz))

/-- The state after an `OBRES` whose size is one. -/
theorem execObres_ends (h : s.Clear (obresNeeds f) m) (hm : m ≠ 0) {size : Nat} (hs : (s.cur.v 0 f.e1.toNat).toNat = size) (h0 : size ≠ 0)
    (hmax : size ≤ 1835008) {u : State} {w : Word} (hr : (s.reserve s.iss.gid size).getD (s, 0) = (u, w)) :
    exec (.obres f) s = .next ((u.setCur (u.cur.setRegs f.e0.toNat m (fun _ => [w]) 1)).advance).afterX := by
  subst hs
  refine State.runM_go h hm (if_neg ?_) ?_ rfl
  · simp only [Bool.or_eq_true, decide_eq_true_eq]
    omega
  · dsimp only
    rw [hr]
    rfl

/-! ### `OBREL`, `OBSET`, `MPRI` (R362, R361, R88) -/

/-- What `OBREL` checks. -/
def State.relCheck (s : State) (h : Word) : Option DataFault :=
  match s.resvOf s.iss.gid h with
  | none => some (handleFault 1)
  | some x => if x.team != groupTeam s.iss.gid then some (handleFault 9) else none

/-- What `OBREL` does. -/
def relAct (f : XE) (h : Word) (s : State) (m : Lanes) : Option State :=
  if s.handleBusy s.iss.gid h then some (s.park (.obrel f) m)
  else
    match s.resvOf s.iss.gid h with
    | some x => some (s.freeResv (s.quadOf s.iss.gid) x).advance
    | none => some s.advance

theorem State.relCheck_none {h : Word} (hr : s.resvOf s.iss.gid h = none) : s.relCheck h = some (handleFault 1) := by
  rw [State.relCheck, hr]

theorem State.relCheck_other {h : Word} {x : Resv} (hr : s.resvOf s.iss.gid h = some x) (ht : x.team ≠ groupTeam s.iss.gid) :
    s.relCheck h = some (handleFault 9) := by
  rw [State.relCheck, hr]
  exact if_pos (bne_iff_ne.2 ht)

theorem State.relCheck_own {h : Word} {x : Resv} (hr : s.resvOf s.iss.gid h = some x) (ht : x.team = groupTeam s.iss.gid) :
    s.relCheck h = none := by
  rw [State.relCheck, hr]
  exact if_neg (by simp [ht])

theorem relAct_busy {h : Word} (hb : s.handleBusy s.iss.gid h = true) : relAct f h s m = some (s.park (.obrel f) m) := if_pos hb

theorem relAct_free {h : Word} {x : Resv} (hb : s.handleBusy s.iss.gid h = false) (hr : s.resvOf s.iss.gid h = some x) :
    relAct f h s m = some (s.freeResv (s.quadOf s.iss.gid) x).advance := by
  rw [relAct, if_neg (by rw [hb]; exact Bool.false_ne_true), hr]

theorem execObrel_eq : exec (.obrel f) s = s.runM { guard := f.guard, regs := [f.e0.toNat], reads := [f.e0.toNat] }
    (s.relCheck (s.cur.v 0 f.e0.toNat)) (relAct f (s.cur.v 0 f.e0.toNat)) := rfl

/-- What `OBSET` checks. -/
def State.setCheck (s : State) (h : Word) (rec_ : Dword) : Option DataFault :=
  match s.resvOf s.iss.gid h with
  | none => some (handleFault 1)
  | some x => (recReason x rec_).map handleFault

theorem State.setCheck_none {h : Word} {rec_ : Dword} (hr : s.resvOf s.iss.gid h = none) : s.setCheck h rec_ = some (handleFault 1) := by
  rw [State.setCheck, hr]

theorem State.setCheck_some {h : Word} {rec_ : Dword} {x : Resv} (hr : s.resvOf s.iss.gid h = some x) :
    s.setCheck h rec_ = (recReason x rec_).map handleFault := by
  rw [State.setCheck, hr]

/-- The quad with the record of a handle's reservation set. -/
def Quad.setRec (x : Quad) (h launch : Word) (rec_ : Dword) : Quad :=
  { x with resvs := x.resvs.map fun r => if r.handle = h && r.launch = launch then { r with record := rec_ } else r }

theorem execObset_eq : exec (.obset f) s = s.runM { guard := f.guard, regs := f.e0.toNat :: pairRegs f.e1, reads := f.e0.toNat :: pairRegs f.e1 }
    (s.setCheck (s.cur.v 0 f.e0.toNat) (s.cur.v64 0 f.e1.toNat)) (fun s _ =>
      some (s.setQuad (s.quadOf s.iss.gid) ((s.quad (s.quadOf s.iss.gid)).setRec (s.cur.v 0 f.e0.toNat) (keyHandle (groupTeam s.iss.gid))
        (s.cur.v64 0 f.e1.toNat))).advance) := rfl

theorem State.quad_foldl {α : Type} {f : State → α → State} (hf : ∀ (s : State) a, (f s a).quads = s.quads) (l : List α) (s : State) (q : Nat) :
    (l.foldl f s).quad q = s.quad q := by
  rw [State.quad, State.quads_foldl hf, State.quad]

theorem State.quad_freeResv (q : Nat) (r : Resv) : (s.freeResv q r).quad q =
    { s.quad q with
      resvs := (s.quad q).resvs.filter fun y => !(y.handle = r.handle && y.launch = r.launch)
      ob := tabClear (s.quad q).ob (r.granule * 4096) ((r.granule + r.count) * 4096)
      clearing := (s.quad q).clearing ++ range' r.granule r.count } := by
  unfold State.freeResv
  refine (State.quad_foldl ?_ _ _ q).trans (State.quad_setQuad ..)
  exact fun _ _ => rfl

end words

end Sys2Proof.Machine

namespace Sys2Proof
open Machine

/-- Settles O29: `OBRES` by what `reserve` finds and takes; the other words by the reservation that their handle names. -/
theorem reservations : Obligations.Reservations := by
  unfold Obligations.Reservations
  intro s f m g gid tk q r0 size n free h rec_ trap hi hm
  have hq {u : State} (hu : s.sameButUnits u) : u.advance.afterX.cur = { g.advance s.iss.run with lvalid := 0 } ∧ s.quiet u.advance.afterX := by
    obtain ⟨hcur, hquiet, -⟩ := State.advance_afterX_spec hu
    exact ⟨hcur, hquiet⟩
  refine ⟨fun hc => ⟨execObres_bad hc hm, fun h0 hmax => ?_⟩, fun hc => ⟨fun hnone => ?_, fun r hr => ⟨fun ht => ?_, fun ht hb => ?_, fun ht hb => ?_⟩, ?_⟩,
    fun hc => ⟨fun hnone => ?_, fun r hr => ⟨fun k hk => ?_, fun hk => ?_⟩⟩⟩
  · have hn : n ≤ 448 := by omega
    refine ⟨?_, fun hnone => ?_, fun u w hsome => ?_⟩
    · rw [State.reserve_none, Quad.findRun_none (n := granulesOf size) hn, nextResv_none]
      rfl
    · exact ⟨_, execObres_ends hc hm rfl h0 hmax (by rw [show s.reserve s.iss.gid size = none from hnone]; rfl),
        s.loads_now⟩
    · obtain ⟨k, num, r, hres⟩ := State.reserve_some hsome
      obtain ⟨hrun, hnumber, rfl, hsame, hquad, hh, hlaunch, hteam, hgranule, hcount, hrec⟩ := hres
      obtain ⟨hk, hfree, hlow⟩ := Quad.findRun_some hn hrun
      obtain ⟨h1, h255, hnew⟩ := nextResv_some hnumber
      obtain ⟨hidx, hnum⟩ := handle_fields (tk := tk) h255
      refine ⟨_, k, r, execObres_ends hc hm rfl h0 hmax (by rw [show s.reserve s.iss.gid size = _ from hsome]; rfl), State.loads_changed hsame, ?_, hh, hlaunch,
        hteam, hgranule, hcount, hrec, hk, hfree, hlow, hidx, ?_, ?_, fun x hx hxt hxn => hnew ⟨x, hx, hxt, hxn.trans hnum⟩⟩
      · rw [State.quad_loaded]
        exact hquad
      · rw [hnum]; exact h1
      · rw [hnum]; exact h255
  · exact execObrel_eq.trans (State.runM_fault hc hm (State.relCheck_none hnone))
  · exact execObrel_eq.trans (State.runM_fault hc hm (State.relCheck_other hr ht))
  · exact execObrel_eq.trans (State.runM_keeps hc hm (State.relCheck_own hr ht) (relAct_busy hb) ((State.iss_park ..).symm ▸ hi))
  · obtain ⟨hcur, hquiet⟩ := hq (s.sameButUnits_freeResv q r)
    refine ⟨_, execObrel_eq.trans (State.runM_go hc hm (State.relCheck_own hr ht) (relAct_free hb hr) rfl), hcur, hquiet, ?_⟩
    rw [State.quad_ended]
    rw [State.quad_freeResv]
    refine ⟨rfl, fun i hlt => ?_, fun o h1 h2 => ?_⟩
    · exact List.contains_iff_mem.2 (List.mem_append_right _ (List.mem_map.2 ⟨i, List.mem_range.2 hlt, rfl⟩))
    · rw [State.obByte, State.quad_ended, State.quad_freeResv]
      exact tabGet_tabClear_in _ ⟨h1, h2⟩
  · refine ⟨_, rfl, ?_⟩
    refine State.runX_done hc (by rw [if_neg hm]) ?_ (by rw [Group.advance])
    rw [if_neg hm]
    dsimp only
    rw [State.setCur_advance]
    rfl
  · exact execObset_eq.trans (State.runM_fault hc hm (State.setCheck_none hnone))
  · exact execObset_eq.trans (State.runM_fault hc hm ((State.setCheck_some hr).trans (by rw [show recReason r (s.cur.v64 0 f.e1.toNat) = some k from hk]; rfl)))
  · obtain ⟨hcur, hquiet⟩ := hq (u := s.setQuad q ((s.quad q).setRec h (keyHandle tk) rec_)) rfl
    refine ⟨_, execObset_eq.trans (State.runM_go hc hm
      ((State.setCheck_some hr).trans (by rw [show recReason r (s.cur.v64 0 f.e1.toNat) = none from hk]; rfl)) rfl rfl), hcur, hquiet, ?_⟩
    rw [State.quad_ended, State.quad_setQuad]
    exact ⟨List.map_congr_left fun r _ => by
      simp only [Bool.and_eq_true, decide_eq_true_eq]
      rfl, rfl⟩

end Sys2Proof

/-! PROOF. Full/empty words: lanes that step one by one, and the ranges of `FEINIT` (spec/15_isa_memory_atomics_sync.md R325, R326,
spec/05_cores_and_execution.md R108). -/
namespace Sys2Proof.Machine

/-! ### The state of a word (R124) -/

section words
variable (s : State) (p q : Place) (b : Bool)

theorem State.cores_setFull : (s.setFull p b).cores
    = tabSet {} s.cores p.core { s.core p.core with full := tabSet false (s.core p.core).full (p.pa / 4) b } := rfl

@[simp] theorem State.iss_setFull : (s.setFull p b).iss = s.iss := rfl

theorem State.core_setFull_same : (s.setFull p b).core p.core
    = { s.core p.core with full := tabSet false (s.core p.core).full (p.pa / 4) b } := by
  rw [State.core, State.cores_setFull, tabGet_tabSet_same]

theorem State.isFull_setFull : (s.setFull p b).isFull p = b := by
  rw [State.isFull, State.core_setFull_same]
  exact tabGet_tabSet_same ..

theorem State.readPlace_setFull (hk : p.kind = 3) (n : Nat) : (s.setFull p b).readPlace 0 p n = s.readPlace 0 p n := by
  simp only [State.readPlace, State.placeByte, if_pos hk, State.padByte, State.core_setFull_same]

/-- A change of a word's state marks the steps of parked groups alone. -/
theorem State.cur_setFull : (s.setFull p b).cur = { s.cur with wait := s.cur.wait.map fun w => w.note p.core p.pa } :=
  tabGet_map (d := ({} : Group)) (fun g : Group => { g with wait := g.wait.map fun w => w.note p.core p.pa }) rfl s.groups s.iss.gid

theorem State.v_setFull : (s.setFull p b).cur.v = s.cur.v := by
  rw [State.cur_setFull]
  exact Group.v_of_regs rfl

@[simp] theorem State.iss_padWrite (core pa : Nat) (bs : List Byte) : (s.padWrite core pa bs).iss = s.iss := rfl
@[simp] theorem State.cur_padWrite (core pa : Nat) (bs : List Byte) : (s.padWrite core pa bs).cur = s.cur := rfl

/-- A scratchpad place reads the bytes that were written to it. -/
theorem State.readPlace_padWrite (hk : p.kind = 3) (n x : Nat) : (s.padWrite p.core p.pa (leBytes n x)).readPlace 0 p n = x % 256 ^ n := by
  have hbytes : ((List.range n).map fun i => (s.padWrite p.core p.pa (leBytes n x)).placeByte 0 p i) = leBytes n x := by
    refine List.ext_getElem (by simp) fun i hi hi' => ?_
    rw [List.getElem_map, List.getElem_range, State.placeByte, if_pos hk, State.padByte_padWrite _ i hi']
  rw [State.readPlace, hbytes, leVal_leBytes]

end words

/-! ### One lane's step (R325) -/

section step
variable {s t : State} {load : Bool} {f : XM} {x : LaneAcc}

/-- A lane that has not stepped before. -/
def State.noStep (s : State) (l : Nat) : Prop := ∀ y ∈ s.cur.steps, y.1 = s.iss.pc → y.2.1 ≠ l

theorem State.find?_noStep (h : s.noStep x.lane) : (s.cur.steps.find? fun y => y.1 = s.iss.pc && y.2.1 = x.lane) = none :=
  List.find?_eq_none.2 fun y hy => by simpa using h y hy

theorem State.feStep_kept {k : Dword × Nat × Word} (h : (s.cur.steps.find? fun y => y.1 = s.iss.pc && y.2.1 = x.lane) = some k) :
    s.feStep load f x = some (if load then s.setCur (s.cur.setReg f.data.toNat (BitVec.ofNat 32 (2 ^ x.lane)) fun _ => k.2.2) else s) := by
  rw [State.feStep, h]

/-- What a load leaves: the register written, the word empty. -/
def State.feLoad (s : State) (f : XM) (x : LaneAcc) : State :=
  (s.setCur (s.cur.setReg f.data.toNat (BitVec.ofNat 32 (2 ^ x.lane)) fun _ => BitVec.ofNat 32 (s.readPlace 0 x.place 4))).setFull x.place false

/-- What a store leaves: the word written, and full. -/
def State.feStore (s : State) (f : XM) (x : LaneAcc) : State :=
  (s.padWrite x.place.core x.place.pa (leBytes 4 (s.cur.v x.lane f.data.toNat).toNat)).setFull x.place true

theorem State.feStep_new (h : s.noStep x.lane) : s.feStep load f x =
    if s.absent x.place || s.isFull x.place != load then none else some (if load then s.feLoad f x else s.feStore f x) := by
  rw [State.feStep, State.find?_noStep h]
  cases load <;> rfl

theorem State.feStep_none (h : s.noStep x.lane) : s.feStep load f x = none ↔ s.absent x.place = true ∨ s.isFull x.place ≠ load := by
  rw [State.feStep_new h, ite_eq_left_iff, Bool.not_eq_true, Bool.or_eq_false_iff, bne_eq_false_iff_eq]
  simp only [reduceCtorEq, imp_false, not_and_or, Bool.not_eq_false, ne_eq]

theorem State.feStep_some (h : s.noStep x.lane) (ht : s.feStep load f x = some t) :
    s.isFull x.place = load ∧ t = if load then s.feLoad f x else s.feStore f x := by
  rw [State.feStep_new h] at ht
  split at ht
  · cases ht
  · next hc =>
    simp only [Bool.or_eq_true, not_or, bne_iff_ne, ne_eq, not_not] at hc
    exact ⟨hc.2, (Option.some.inj ht).symm⟩

theorem State.v_feLoad (l q : Nat) : (s.feLoad f x).cur.v l q =
    if q = f.data.toNat && (BitVec.ofNat 32 (2 ^ x.lane)).getLsbD l then BitVec.ofNat 32 (s.readPlace 0 x.place 4) else s.cur.v l q := by
  rw [State.feLoad, State.v_setFull, State.cur_setCur, Group.v_setReg]

theorem State.iss_feStep (h : s.feStep load f x = some t) : t.iss = s.iss := by
  unfold State.feStep at h
  split at h
  · cases h
    split <;> rfl
  · split at h
    · cases h
    · split at h <;> cases h <;> rfl

/-- The steps of the lanes leave the issue stage as it is. -/
theorem State.iss_feSteps (left : Lanes) : (s.feSteps load f left).1.iss = s.iss := by
  unfold State.feSteps
  refine List.foldlRecOn _ _ (motive := fun p : State × Lanes => p.1.iss = s.iss) rfl fun p hp y _ => ?_
  split
  · next he => exact (State.iss_feStep he).trans hp
  · exact hp

theorem State.issued_feDone : s.feDone.iss.issued = true := by
  rw [State.feDone, State.iss_regionAfter]
  rfl

theorem State.iss_took (ts : List FeStep) : (s.took ts).iss = s.iss := rfl

end step

/-! ### The words -/

section exec
variable {s : State} {f : XM} {m : Lanes} {i : Instr}

/-- The fault of a lane of `LDFE` and `STFE` (R325). -/
def feFault (m : Lanes) (res : Resolver) (l : Nat) : Option (Nat × Dword) :=
  match (res l).2 with
  | .error c => some (c, (res l).1)
  | .ok p => if (lanePlaces m res).any fun x => x.lane < l && x.place.core = p.core && x.place.pa = p.pa then some (0x0C, (res l).1) else none

theorem feFaults_eq (res : Resolver) : feFaults m res = laneFaults m (feFault m res) := by
  unfold feFaults feFault
  dsimp only
  congr 1
  funext l
  obtain ⟨a, c | p⟩ := res l <;> rfl

/-- The needs of `LDFE` and `STFE`. -/
def feNeeds (load : Bool) (f : XM) : Needs :=
  { guard := f.guard, regs := addrRegs f ++ [f.data.toNat], reads := addrRegs f ++ (if load then [] else [f.data.toNat]), region := true,
    mem := true, rel := !load, deliver := !load && f.scope == 7 }

/-- What `LDFE` and `STFE` do once their lanes' lines are present. -/
def feAct (load : Bool) (i : Instr) (f : XM) (s : State) (m : Lanes) : Option State :=
  if !s.cur.canBegin then none
  else
    let r := s.feSteps load f m
    some (if r.2 = 0 then r.1.feDone else (r.1.park i r.2).took (s.feTaken f (m &&& ~~~r.2)))

theorem State.fe_eq (load : Bool) : s.fe load i f = .next (s.runX (feNeeds load f) (fun m => feFaults m (s.feRes f fun _ => 4)) fun t m =>
    t.present i m (lanePlaces m (s.feRes f fun _ => 4)) fun u => feAct load i f u m) := rfl

/-- `LDFE` and `STFE`: they end with no lane left, and otherwise park. -/
theorem State.fe_steps {load : Bool} (h : s.Clear (feNeeds load f) m) (hi : s.iss.issued = false) (hb : s.cur.canBegin = true)
    (hf : feFaults m (s.feRes f fun _ => 4) = none) (hp : ∀ x ∈ lanePlaces m (s.feRes f fun _ => 4), s.absent x.place = false) :
    ((s.feSteps load f m).2 = 0 → s.fe load i f = .next (s.feSteps load f m).1.feDone.afterX)
      ∧ ((s.feSteps load f m).2 ≠ 0 → s.fe load i f = .next
        (((s.feSteps load f m).1.park i (s.feSteps load f m).2).took (s.feTaken f (m &&& ~~~(s.feSteps load f m).2)))) := by
  have ha := (State.present_go (i := i) (m := m) (go := fun u => feAct load i f u m) hp).trans (if_neg (by simp [hb]))
  dsimp only at ha
  rw [State.fe_eq]
  refine ⟨fun h0 => congrArg _ (State.runX_go h hf (ha.trans ?_) State.issued_feDone),
    fun h0 => congrArg _ (State.runX_parked h hf (ha.trans ?_) ?_)⟩
  · rw [if_pos h0]
  · rw [if_neg h0]
  · rw [State.iss_took, State.iss_park, State.iss_feSteps, hi]

/-- The words of the ranges of `FEINIT`. -/
def State.feWords (s : State) (f : XM) (m : Lanes) : List LaneAcc :=
  (lanesList m).flatMap fun l => (s.feRange f l).map fun p => ({ lane := l, va := 0, place := p } : LaneAcc)

/-- The needs of `FEINIT`. -/
def feinitNeeds (f : XM) : Needs :=
  { guard := f.guard, regs := addrRegs f ++ [f.data.toNat], reads := addrRegs f ++ [f.data.toNat], region := true
    mem := true, rel := 2 ≤ f.ord.toNat, deliver := releaseFab f.scope f.ord }

theorem execFeinit_eq : exec (.feinit f) s = .next (s.runX (feinitNeeds f)
    (fun m => resFaults m (s.feRes f fun l => 4 * (s.cur.v l f.data.toNat).toNat)) fun t m =>
      t.present (.feinit f) m (t.feWords f m) fun u =>
        if !u.cur.canBegin then none else some ((t.feWords f m).foldl (fun v x => v.setFull x.place f.rb) u).feDone) := rfl

/-- `FEINIT` sets its words and begins a region. -/
theorem execFeinit_sets (h : s.Clear (feinitNeeds f) m) (hb : s.cur.canBegin = true)
    (hf : resFaults m (s.feRes f fun l => 4 * (s.cur.v l f.data.toNat).toNat) = none) (hp : ∀ x ∈ s.feWords f m, s.absent x.place = false) :
    exec (.feinit f) s = .next ((s.feWords f m).foldl (fun v x => v.setFull x.place f.rb) s).feDone.afterX := by
  rw [execFeinit_eq]
  exact congrArg _ (State.runX_go h hf ((State.present_go hp).trans (if_neg (by simp [hb]))) State.issued_feDone)

end exec

end Sys2Proof.Machine

namespace Sys2Proof
open Machine

/-- Settles O18: the words by their lanes' steps, and one lane's step by its cases. -/
theorem fullEmpty : Obligations.FullEmpty := by
  unfold Obligations.FullEmpty
  refine ⟨fun s f m hi hb => ⟨fun hc => ⟨?_, State.fe_steps (i := .ldfe f) hc hi hb⟩, fun hc => ⟨?_, State.fe_steps (i := .stfe f) hc hi hb⟩,
    fun hc => ⟨?_, execFeinit_sets hc hb⟩⟩, fun s load f x k hk => State.feStep_kept hk, ?_⟩
  · exact State.runX_faultsAs (n := feNeeds true f) hc (State.fe_eq true) (feFaults_eq _)
  · exact State.runX_faultsAs (n := feNeeds false f) hc (State.fe_eq false) (feFaults_eq _)
  · exact State.runX_faultsAs (n := feinitNeeds f) hc execFeinit_eq (resFaults_eq _)
  · intro s t f x hk hl hnew
    refine ⟨fun ht => ?_, fun ht => ?_, ?_, ?_⟩
    · obtain ⟨hfull, rfl⟩ := State.feStep_some hnew ht
      refine ⟨hfull, State.isFull_setFull .., ?_, fun l q hne => ?_⟩
      · rw [if_pos rfl, State.v_feLoad, getLsbD_one_lane hl]
        simp
      · rw [if_pos rfl, State.v_feLoad, if_neg]
        rw [Bool.and_eq_true, decide_eq_true_eq]
        rintro ⟨rfl, hlane⟩
        rw [getLsbD_one_lane hl] at hlane
        simp_all
    · obtain ⟨hfull, rfl⟩ := State.feStep_some hnew ht
      refine ⟨hfull, State.isFull_setFull .., ?_, ?_⟩
      · rw [if_neg Bool.false_ne_true, State.feStore, State.readPlace_setFull _ _ _ hk, State.readPlace_padWrite _ _ hk]
        exact Nat.mod_eq_of_lt (s.cur.v x.lane f.data.toNat).isLt
      · rw [if_neg Bool.false_ne_true, State.feStore, State.cur_setFull, State.cur_padWrite]
    · rw [State.feStep_none hnew, ne_eq, Bool.not_eq_true]
    · rw [State.feStep_none hnew, ne_eq, Bool.not_eq_false]

end Sys2Proof

/-! SUPPORT. The requests of the far lanes of a word, as the word leaves them (spec/02_fabric_and_exactly_once.md R38, R41,
spec/05_cores_and_execution.md R107). -/
namespace Sys2Proof.Machine

section far
variable {m : Lanes} {res : Resolver} {l : Nat}

/-- Of the lanes of a word, the far ones are those whose place is on another package. -/
theorem mem_remotes_lane (mk : LaneAcc → ReqLane) (hmk : ∀ x, (mk x).lane = x.lane) :
    (∃ y ∈ (remotes (lanePlaces m res)).map mk, y.lane = l) ↔ m.getLsbD l = true ∧ farLane res l = true := by
  constructor
  · rintro ⟨y, hy, rfl⟩
    obtain ⟨x, hx, rfl⟩ := List.mem_map.1 hy
    obtain ⟨hx, hk⟩ := List.mem_filter.1 hx
    obtain ⟨hm, hr⟩ := mem_lanePlaces.1 hx
    rw [hmk]
    exact ⟨hm, by rw [farLane, hr]; simpa using hk⟩
  · rintro ⟨hm, hf⟩
    rw [farLane] at hf
    split at hf
    · next p hp => exact ⟨_, List.mem_map_of_mem (List.mem_filter.2 ⟨lanePlaces_of_ok hm hp, by simpa using hf⟩), hmk _⟩
    · cases hf

/-- A word has far lanes when one of its accesses leaves the package. -/
theorem remotes_isEmpty_map (mk : LaneAcc → ReqLane) (xs : List LaneAcc) : ((remotes xs).map mk).isEmpty = (remotes xs).isEmpty := by
  rw [List.isEmpty_map]

end far

section requests
variable {s0 s t : State} {op : OwnerOp} {scope : BitVec 3} {ord : BitVec 2} {wm : Bool} {dst : List Nat} {ls : List ReqLane} {m : Lanes}
  {far : Nat → Bool} {n : Word}

theorem Requested.of_sendAll (houts : s.cur.outs = s0.cur.outs) (hpc : s.iss.pc = s0.iss.pc)
    (ht : t.cur.outs = (s.sendAll op scope ord wm dst ls).cur.outs) (hn : (if wm then s.cur.wserial else BitVec.ofNat 32 s.cur.nextOp) = n)
    (hl : ∀ l, l < 32 → ((∃ x ∈ ls, x.lane = l) ↔ m.getLsbD l = true ∧ far l = true)) : Requested s0 t m far op wm n := by
  obtain ⟨-, -, reqs, ⟨keep, hkeep, hgrow⟩, hsent, hlanes⟩ := s.sendAll_spec op scope ord wm dst ls
  rw [hn] at hkeep hsent
  rw [hpc] at hsent
  rw [houts, ← ht] at hgrow
  exact ⟨reqs, ⟨keep, hkeep, hgrow⟩, hsent, fun l h => (hlanes l h).trans (hl l h)⟩

theorem Awaited.of_sendAll (hd : dst ≠ []) (ht : t.cur.outs = (s.sendAll op scope ord wm dst ls).cur.outs)
    (hlate : t.cur.late = (s.sendAll op scope ord wm dst ls).cur.late) (hn : (if wm then s.cur.wserial else BitVec.ofNat 32 s.cur.nextOp) = n)
    (hl : ∀ l, l < 32 → ((∃ x ∈ ls, x.lane = l) ↔ m.getLsbD l = true ∧ far l = true)) : Awaited t m far wm n dst := by
  intro l hm hf
  have h32 := BitVec.lt_of_getLsbD hm
  obtain ⟨o, ho, x, hx, -, hrest⟩ := s.sendAll_awaits (wm := wm) op scope ord hd ((hl l h32).2 ⟨hm, hf⟩) h32
  rw [← ht] at ho
  rw [← hlate] at hx
  rw [hn] at hrest
  exact ⟨o, ho, x, hx, hrest⟩

variable (s op scope ord wm dst ls)

theorem State.sameSend_sendAll : s.sameSend (s.sendAll op scope ord wm dst ls) := (s.sendAll_spec op scope ord wm dst ls).1

@[simp] theorem State.iss_sendAll : (s.sendAll op scope ord wm dst ls).iss = s.iss := State.iss_sameSend (s.sameSend_sendAll op scope ord wm dst ls)

@[simp] theorem State.rd_sendAll (a : Nat) : (s.sendAll op scope ord wm dst ls).rd a = s.rd a :=
  State.rd_sameSend (s.sameSend_sendAll op scope ord wm dst ls) a

@[simp] theorem State.regs_sendAll : (s.sendAll op scope ord wm dst ls).cur.regs = s.cur.regs := by
  obtain ⟨-, ⟨O, L, U, Q, N, hcur⟩, -⟩ := s.sendAll_spec op scope ord wm dst ls
  rw [hcur]

@[simp] theorem State.pcs_sendAll : (s.sendAll op scope ord wm dst ls).cur.pcs = s.cur.pcs := by
  obtain ⟨-, ⟨O, L, U, Q, N, hcur⟩, -⟩ := s.sendAll_spec op scope ord wm dst ls
  rw [hcur]

@[simp] theorem State.fpflags_sendAll : (s.sendAll op scope ord wm dst ls).cur.fpflags = s.cur.fpflags := by
  obtain ⟨-, ⟨O, L, U, Q, N, hcur⟩, -⟩ := s.sendAll_spec op scope ord wm dst ls
  rw [hcur]

@[simp] theorem State.v_sendAll : (s.sendAll op scope ord wm dst ls).cur.v = s.cur.v := Group.v_of_regs (s.regs_sendAll ..)

end requests

section written
variable (g : Group) (d : Nat) (m : Lanes) (f : Nat → List Word) (n : Nat)

@[simp] theorem Group.outs_setRegs : (g.setRegs d m f n).outs = g.outs := by rw [Group.setRegs_only]
@[simp] theorem Group.pcs_setRegs : (g.setRegs d m f n).pcs = g.pcs := by rw [Group.setRegs_only]
@[simp] theorem Group.fpflags_setRegs : (g.setRegs d m f n).fpflags = g.fpflags := by rw [Group.setRegs_only]
@[simp] theorem Group.nextOp_setRegs : (g.setRegs d m f n).nextOp = g.nextOp := by rw [Group.setRegs_only]
@[simp] theorem Group.wserial_setRegs : (g.setRegs d m f n).wserial = g.wserial := by rw [Group.setRegs_only]

end written

end Sys2Proof.Machine

/-! PROOF. Loads: near lanes take their bytes, far ones send requests (spec/15_isa_memory_atomics_sync.md R318 to R320,
spec/02_fabric_and_exactly_once.md R41). -/
namespace Sys2Proof.Machine

section load
variable {s : State} {f : XM} {m : Lanes} {res : Resolver} {n l : Nat}

theorem getLsbD_accLanes_locals : (accLanes (locals (lanePlaces m res))).getLsbD l = true ↔ m.getLsbD l = true ∧ ∃ p, (res l).2 = .ok p ∧ p.kind ≠ 2 := by
  by_cases h : l < 32
  · rw [getLsbD_accLanes h, List.any_eq_true]
    constructor
    · rintro ⟨x, hx, hl⟩
      obtain ⟨hx, hk⟩ := List.mem_filter.1 hx
      obtain ⟨hm, hr⟩ := mem_lanePlaces.1 hx
      obtain rfl : x.lane = l := by simpa using hl
      exact ⟨hm, x.place, by rw [hr], by simpa using hk⟩
    · rintro ⟨hm, p, hp, hk⟩
      exact ⟨_, List.mem_filter.2 ⟨lanePlaces_of_ok hm hp, by simpa using hk⟩, by simp⟩
  · rw [BitVec.getLsbD_of_ge _ _ (by omega), BitVec.getLsbD_of_ge m l (by omega)]
    simp

/-- The near lanes of accesses that resolve. -/
theorem accLanes_locals (h : ∀ l, m.getLsbD l = true → ∃ p, (res l).2 = .ok p) :
    accLanes (locals (lanePlaces m res)) = lanesOf fun l => m.getLsbD l && !farLane res l := by
  refine BitVec.eq_of_getLsbD_eq fun l hl => ?_
  rw [Bool.eq_iff_iff, getLsbD_accLanes_locals, getLsbD_lanesOf]
  simp only [hl, decide_true, Bool.true_and, Bool.and_eq_true, Bool.not_eq_true']
  refine and_congr_right fun hm => ?_
  obtain ⟨p, hp⟩ := h l hm
  rw [farLane, hp]
  simp

/-- What a near lane loads. -/
def State.nearWords (s : State) (f : XM) (xs : List LaneAcc) (l : Nat) : List Word :=
  match (locals xs).find? fun x => x.lane = l with
  | some x => loadWords (widthBytes f.width) (f.pln.getLsbD 0) (s.readPlace (groupTeam s.iss.gid) x.place (widthBytes f.width))
  | none => []

theorem State.nearWords_of_ok {p : Place} (hm : m.getLsbD l = true) (hp : (res l).2 = .ok p) (hk : p.kind ≠ 2) :
    s.nearWords f (lanePlaces m res) l
      = loadWords (widthBytes f.width) (f.pln.getLsbD 0) (s.readPlace (groupTeam s.iss.gid) p (widthBytes f.width)) := by
  have hx : (⟨l, (res l).1, p⟩ : LaneAcc) ∈ locals (lanePlaces m res) :=
    List.mem_filter.2 ⟨lanePlaces_of_ok hm hp, by simpa using hk⟩
  have hfind := find?_lane (lanePlaces_sorted.filter _) hx
  dsimp only at hfind
  rw [State.nearWords, locals, hfind]

/-- The record of a far lane. -/
def farLoad (x : LaneAcc) : ReqLane := { lane := x.lane, place := x.place, va := x.va }

/-- The near lanes' registers are loaded; then the far lanes send their requests. -/
def State.loadSend (s : State) (f : XM) (xs : List LaneAcc) : State :=
  let u := s.countPages s.iss.gid (xs.map (·.place))
  let u := u.setCur (u.cur.setRegs f.data.toNat (accLanes (locals xs)) (s.nearWords f xs) (widthRegs f.width))
  u.sendAll (.load (widthBytes f.width) (f.pln.getLsbD 0)) f.scope f.ord false (dataRegs f)
    ((remotes xs).map farLoad)

/-- The resolution of a load's lanes, and its needs. -/
def State.ldRes (s : State) (f : XM) : Resolver := s.plainRes f.addr (offWhole f) (widthBytes f.width) (widthBytes f.width) false

def State.ldNeeds (s : State) (f : XM) (m : Lanes) : Needs :=
  { guard := f.guard, regs := addrRegs f ++ dataRegs f, reads := addrRegs f, mem := true
    about := s.updatedBy (widthBytes f.width) (lanePlaces m (s.ldRes f)) }

/-- What a load does. -/
def ldAct (s0 : State) (f : XM) (s : State) (m : Lanes) : Option State :=
  s.present (.ld f) m (lanePlaces m (s0.ldRes f)) fun s =>
    if s.clash (fun _ => false) (widthBytes f.width) (lanePlaces m (s0.ldRes f)) then none
    else s.intact (s.badRead (widthBytes f.width)) (lanePlaces m (s0.ldRes f)) fun s => some (s.loadSend f (lanePlaces m (s0.ldRes f))).advance

theorem State.exec_ld (h : s.Clear (s.ldNeeds f m) m) :
    exec (.ld f) s = .next (s.runX (s.ldNeeds f m) (fun m => resFaults m (s.ldRes f)) (ldAct s f)) := by
  have hact : s.cur.active s.iss.run f.guard = m := h.active.symm
  show execLd f s = _
  unfold execLd State.reach
  dsimp only
  rw [hact]
  rfl

theorem dataRegs_ne_nil : dataRegs f ≠ [] := by
  have hw : 0 < widthRegs f.width := by
    unfold widthRegs
    split
    · exact Nat.one_pos
    · exact Nat.two_pow_pos _
  intro h
  have hlen := congrArg List.length h
  simp only [dataRegs, range', List.length_map, List.length_range, List.length_nil] at hlen
  omega

theorem State.exec_ld_loads (h : s.Clear (s.ldNeeds f m) m) (hr : Reached s m (s.ldRes f))
    (hc : s.clash (fun _ => false) (widthBytes f.width) (lanePlaces m (s.ldRes f)) = false) :
    exec (.ld f) s = .next (s.loadSend f (lanePlaces m (s.ldRes f))).advance.afterX := by
  rw [State.exec_ld h, State.runX_next h (resFaults_none hr.ok)]
  rw [ldAct, State.present_go fun x hx => (hr.place hx).1, if_neg (by rw [hc]; exact Bool.false_ne_true),
    State.intact_go fun x hx => State.badRead_of_good (hr.place hx).2]

end load

section sent
variable (s : State) (f : XM) (xs : List LaneAcc)

/-- The state with the near lanes' registers loaded. -/
def State.nearLoaded : State :=
  (s.countPages s.iss.gid (xs.map (·.place))).setCur
    (s.cur.setRegs f.data.toNat (accLanes (locals xs)) (s.nearWords f xs) (widthRegs f.width))

theorem State.loadSend_eq : s.loadSend f xs = (s.nearLoaded f xs).sendAll (.load (widthBytes f.width) (f.pln.getLsbD 0)) f.scope f.ord false
    (dataRegs f) ((remotes xs).map farLoad) := by
  rw [State.loadSend, State.cur_countPages, State.nearLoaded]

@[simp] theorem State.cur_nearLoaded : (s.nearLoaded f xs).cur
    = s.cur.setRegs f.data.toNat (accLanes (locals xs)) (s.nearWords f xs) (widthRegs f.width) := State.cur_setCur ..

@[simp] theorem State.iss_nearLoaded : (s.nearLoaded f xs).iss = s.iss := by
  rw [State.nearLoaded, State.iss_setCur, State.iss_countPages]

theorem State.outs_loadSend : (s.loadSend f xs).advance.afterX.cur.outs = ((s.nearLoaded f xs).sendAll (.load (widthBytes f.width) (f.pln.getLsbD 0))
    f.scope f.ord false (dataRegs f) ((remotes xs).map farLoad)).cur.outs := by
  rw [State.cur_next, State.outs_passed, State.loadSend_eq]

theorem State.late_loadSend : (s.loadSend f xs).advance.afterX.cur.late = ((s.nearLoaded f xs).sendAll (.load (widthBytes f.width) (f.pln.getLsbD 0))
    f.scope f.ord false (dataRegs f) ((remotes xs).map farLoad)).cur.late := by
  rw [State.cur_next, State.late_passed, State.loadSend_eq]

theorem State.rd_loadSend {m : Lanes} (hu : Uncounted m (s.ldRes f)) (a : Nat) : (s.loadSend f (lanePlaces m (s.ldRes f))).rd a = s.rd a := by
  rw [State.loadSend_eq, State.rd_sendAll, State.nearLoaded, State.countPages_uncounted _ _ _ _ (uncounted_places hu)]
  rfl

end sent

section loaded
variable {s : State} {f : XM} {m : Lanes} (hok : ∀ l, m.getLsbD l = true → ∃ p, (s.ldRes f l).2 = .ok p)
include hok

theorem State.loadSend_loaded : Loaded s (s.loadSend f (lanePlaces m (s.ldRes f))).advance.afterX
    (lanesOf fun l => m.getLsbD l && !farLane (s.ldRes f) l) f.data.toNat (widthRegs f.width) (fun l =>
      match (s.ldRes f l).2 with
      | .ok p => loadWords (widthBytes f.width) (f.pln.getLsbD 0) (s.readPlace (groupTeam s.iss.gid) p (widthBytes f.width))
      | .error _ => []) := by
  rw [State.loadSend_eq]
  refine ⟨fun l q => ?_, ?_, ?_, ?_⟩ <;> rw [State.cur_next]
  · rw [State.v_passed, State.v_sendAll, State.cur_nearLoaded, Group.v_setRegs, accLanes_locals hok]
    by_cases hl : (lanesOf fun l => m.getLsbD l && !farLane (s.ldRes f) l).getLsbD l = true
    · have hl' := hl
      rw [← accLanes_locals hok, getLsbD_accLanes_locals] at hl'
      obtain ⟨hm, p, hp, hk⟩ := hl'
      rw [hl, State.nearWords_of_ok hm hp hk, hp]
      simp
    · rw [Bool.not_eq_true] at hl
      rw [hl]
      simp
  · exact State.stands_passed (by simp) (by simp)
  · simp
  · simp

end loaded

end Sys2Proof.Machine

namespace Sys2Proof
open Machine

/-- Settles O14: the near lanes' registers are written, then the far lanes' requests enter the outstanding list. -/
theorem loads : Obligations.Loads := by
  unfold Obligations.Loads
  intro s f m n res hc
  refine ⟨State.runX_faultsAs hc (State.exec_ld hc) (resFaults_eq _), fun hr hclash => ?_⟩
  refine ⟨_, State.exec_ld_loads hc hr hclash, State.loadSend_loaded hr.ok, ?_, ?_, fun hu a => ?_⟩
  · exact Requested.of_sendAll (by simp) (by simp) (s.outs_loadSend f _) (by simp) fun l _ => mem_remotes_lane farLoad fun _ => rfl
  · exact Awaited.of_sendAll dataRegs_ne_nil (s.outs_loadSend f _) (s.late_loadSend f _) (by simp) fun l _ => mem_remotes_lane farLoad fun _ => rfl
  · rw [State.rd_next, State.rd_loadSend s f hu]

end Sys2Proof

/-! SUPPORT. Reads of a range that the package can answer at once (spec/16_isa_copy_matrix.md R353), and the serials of a group whose words asked
for are dropped (spec/02_fabric_and_exactly_once.md R40). -/
namespace Sys2Proof.Machine

/-! ### The window of a group (R40) -/

section window
variable {g h : Group}

@[simp] theorem Group.oldestOut_dropHidden : g.dropHidden.oldestOut = g.oldestOut := by
  have houts : g.dropHidden.outs.filter (fun o => o.watermarked && !o.restored) = g.outs.filter fun o => o.watermarked && !o.restored := by
    unfold Group.dropHidden
    rw [List.filter_filter]
    exact List.filter_congr fun o _ => by cases o.watermarked <;> simp
  unfold Group.oldestOut
  rw [houts]
  rfl

theorem Group.window_congr (hw : h.wserial = g.wserial) (hr : h.rstart = g.rstart) (ht : h.tstart = g.tstart) (hh : h.hold = g.hold)
    (ho : h.oldestOut = g.oldestOut) : h.window = g.window := by
  unfold Group.window Group.ackpt
  rw [hw, hr, ht, hh, ho]

@[simp] theorem Group.window_dropHidden : g.dropHidden.window = g.window := Group.window_congr rfl rfl rfl rfl Group.oldestOut_dropHidden

theorem Group.v_dropHidden : g.dropHidden.v = g.v := Group.v_of_regs rfl

end window

/-! ### Ranges that are there (R353) -/

section table
variable {s : State} {l n blk j : Nat} {a : Dword} {p : Place} {bs : List Byte} {i : Instr} {use : State → List Byte → Option State}

/-- The bytes of a range are all on the package, present and good. -/
def State.readable (s : State) (l : Nat) (a : Dword) (n : Nat) : Prop :=
  ∀ b ∈ blocksOf a n, ∃ p, s.resolve s.iss.gid l (BitVec.ofNat 64 (b * 16)) 1 1 false = .ok p ∧ p.kind ≠ 2 ∧ s.absent p = false ∧ s.bad p = false

theorem State.tableBlock_have (hp : s.resolve s.iss.gid l (BitVec.ofNat 64 (blk * 16)) 1 1 false = .ok p) (hk : p.kind ≠ 2)
    (ha : s.absent p = false) (hb : s.bad p = false) :
    s.tableBlock l blk j = .have ((List.range 16).map fun i => s.placeByte (groupTeam s.iss.gid) p i) := by
  rw [State.tableBlock, hp]
  dsimp only
  rw [if_neg hk, if_neg (by rw [ha]; exact Bool.false_ne_true), if_neg (by rw [State.badRead_of_good hb]; exact Bool.false_ne_true)]

/-- Blocks that are all there give their bytes. -/
theorem State.readBlocks_have {blks : List Nat} (h : ∀ b ∈ blks, ∀ j, ∃ c, s.tableBlock l b j = .have c) :
    ∃ bs, s.readBlocks l blks = .bytes bs := by
  have hx : ∀ x ∈ blks.zipIdx.map fun x => (x, s.tableBlock l x.1 x.2), ∃ c, x.2 = .have c := by
    intro x hx
    obtain ⟨y, hy, rfl⟩ := List.mem_map.1 hx
    exact h y.1 (List.fst_mem_of_mem_zipIdx hy) y.2
  unfold State.readBlocks
  dsimp only
  rw [List.findSome?_eq_none_iff.2 fun x h => by obtain ⟨c, hc⟩ := hx x h; rw [hc]]
  dsimp only
  rw [if_neg]
  · rw [List.filterMap_eq_nil_iff.2 fun x h => by obtain ⟨c, hc⟩ := hx x h; rw [hc]]
    exact ⟨_, rfl⟩
  · rw [List.any_eq_true]
    rintro ⟨x, h, hcase⟩
    obtain ⟨c, hc⟩ := hx x h
    rw [hc] at hcase
    cases hcase

theorem State.tableBlocks_readable (h : s.readable l a n) : ∃ bs, s.tableBlocks l a n = .bytes bs := by
  obtain ⟨bs, hbs⟩ := State.readBlocks_have (s := s) (l := l) (blks := blocksOf a n) fun b hb j => by
    obtain ⟨p, hp, hk, ha, hbad⟩ := h b hb
    exact ⟨_, State.tableBlock_have hp hk ha hbad⟩
  exact ⟨_, by rw [State.tableBlocks, hbs]⟩

theorem State.peek_readable (h : s.readable l a n) : ∃ bs, s.peek l a n = some bs := by
  obtain ⟨bs, hbs⟩ := State.tableBlocks_readable h
  exact ⟨bs, by rw [State.peek, hbs]⟩

theorem State.tableBlocks_of_peek (h : s.peek l a n = some bs) : s.tableBlocks l a n = .bytes bs := by
  rw [State.peek] at h
  split at h
  · next hb => rw [hb, Option.some.inj h]
  · cases h

theorem State.loadRead_bytes (hu : (s.cur.unknowns.find? fun u => u.regs.any fun p => 0x1000 ≤ p.1) = none) :
    s.loadRead i l (.bytes bs) use = use (s.setCur s.cur.dropHidden) bs := by
  rw [State.loadRead, hu]

/-- A range that can be read at once is read, and its pages count. -/
theorem State.tableLoad_go (hc : s.clash (fun _ => false) 16 (s.blockAccs l a n) = false)
    (hu : (s.cur.unknowns.find? fun u => u.regs.any fun p => 0x1000 ≤ p.1) = none) (hb : s.peek l a n = some bs) :
    s.tableLoad i l a n use
      = use ((s.setCur s.cur.dropHidden).countPages s.iss.gid ((s.blockAccs l a n).map (·.place))) bs := by
  rw [State.tableLoad, if_neg (by rw [hc]; exact Bool.false_ne_true), State.tableBlocks_of_peek hb, State.loadRead_bytes hu]
  rfl

theorem State.uncounted_accs {xs : List LaneAcc} (h : ∀ x ∈ xs, x.place.ac = none) : ∀ p ∈ xs.map (·.place), p.ac = none := by
  intro p hp
  obtain ⟨x, hx, rfl⟩ := List.mem_map.1 hp
  exact h x hx

end table

end Sys2Proof.Machine

/-! PROOF. `OSGD` and `OADAM`: lane J's record is read, and every active lane's element travels to its owner
(spec/17_isa_tiles_updates_system.md R376 to R379, spec/02_fabric_and_exactly_once.md R38). -/
namespace Sys2Proof.Machine

section update
variable {s : State} {f : XE} {m : Lanes} {i : Instr} {adam : Bool} {bs : List Byte}

/-- The gradient's registers, and all registers of an update. -/
def gradRegs (f : XE) : List Nat := range' f.e1.toNat (if f.flags == 1 then 2 else 1)
def optRegs (f : XE) : List Nat := pairRegs f.e0 ++ gradRegs f ++ pairRegs f.e2

/-- The elements of an update's lanes, and the address of its record. -/
def State.optRes (s : State) (f : XE) (adam : Bool) : Resolver := s.planeRes f.e0 0 (optPlanes adam (f.flags == 1)) 2 2 true
def State.optAddr (s : State) (f : XE) (m : Lanes) : Dword := s.cur.v64 (lead m) f.e2.toNat

/-- The operation, and a lane's record, of an update's requests. -/
def optOp (f : XE) (adam : Bool) (bs : List Byte) : OwnerOp := .opt adam (f.flags == 1) (f.e4.setWidth 3) 0 (optParams bs)
def Group.optLane (g : Group) (f : XE) (x : LaneAcc) : ReqLane :=
  { lane := x.lane, place := x.place, va := x.va, data := g.words x.lane (gradRegs f) ++ valWords 3 (x.place.stride + x.va.toNat * 2 ^ 32) }

/-- The needs of an update that some lane is active in. -/
def optNeeds (s : State) (f : XE) : Needs :=
  { guard := f.guard, regs := optRegs f, reads := optRegs f, region := s.cur.windowRegion, mem := true, issues := true }

/-- The faults of an update's lanes. -/
def State.optFault (s : State) (f : XE) (adam : Bool) (m : Lanes) (l : Nat) : Option (Nat × Dword) :=
  lowestFault ((if l = lead m then s.paramFaults l (s.optAddr f m) else []) ++
    match s.optRes f adam l with
    | (a, .error c) => [(c, a)]
    | (a, .ok _) => if s.lastSerial then [(0x11, a)] else [])

/-- The requests of an update whose record's bytes have been read, its serial counted. -/
def State.optSent (s : State) (g : Group) (f : XE) (adam : Bool) (m : Lanes) (bs : List Byte) (xs : List LaneAcc) : State :=
  let u := s.countPages s.iss.gid (xs.map (·.place)) ((s.blockAccs (lead m) (g.v64 (lead m) f.e2.toNat) 64).map (·.place))
  let t := u.sendAll (optOp f adam bs) 5 0 true [] (xs.map (g.optLane f))
  t.setCur (t.cur.addRem u.cur.wserial)

/-- What an update does. -/
def optAct (s0 : State) (i : Instr) (adam : Bool) (f : XE) (s : State) (m : Lanes) : Option State :=
  let xs := lanePlaces m (s0.optRes f adam)
  if m = 0 then some s.advance
  else if s.clash (fun _ => true) 2 xs then none
  else if 255 ≤ s.cur.rem.length || s.cur.window == .outstanding then none
  else s.tableLoad i (lead m) (s0.optAddr f m) 64 fun s bs => s.openWindow.map fun s => (s.optSent s0.cur f adam m bs xs).advance

theorem State.optUpdate_eq (h : s.Clear (optNeeds s f) m) (hm : m ≠ 0) : s.optUpdate i adam f = .next (s.runX (optNeeds s f)
    (fun m => laneFaults m (s.optFault f adam m)) (optAct s i adam f)) := by
  have hact : (s.cur.active s.iss.run f.guard != 0 && s.cur.windowRegion) = s.cur.windowRegion := by
    rw [show s.cur.active s.iss.run f.guard = m from h.active.symm, bne_iff_ne.2 hm, Bool.true_and]
  unfold State.optUpdate
  dsimp only
  rw [hact]
  rfl

theorem State.paramFaults_nil {l : Nat} {a : Dword} (h : ∀ k, k < 8 → ∃ p, s.resolve s.iss.gid l (a + BitVec.ofNat 64 (8 * k)) 8 8 false = .ok p) :
    s.paramFaults l a = [] := by
  refine List.filterMap_eq_nil_iff.2 fun k hk => ?_
  obtain ⟨p, hp⟩ := h k (List.mem_range.1 hk)
  dsimp only
  rw [hp]

theorem State.optFault_none {l : Nat} (hrec : s.paramFaults (lead m) (s.optAddr f m) = []) (hok : ∃ p, (s.optRes f adam l).2 = .ok p)
    (hlast : s.lastSerial = false) : s.optFault f adam m l = none := by
  obtain ⟨p, hp⟩ := hok
  have hparam : (if l = lead m then s.paramFaults l (s.optAddr f m) else []) = [] := by
    split
    · next hl => rw [hl, hrec]
    · rfl
  rw [State.optFault, hparam, show s.optRes f adam l = (_, .ok p) from Prod.ext rfl hp, hlast]
  rfl

/-- The state in which lane J's record has been read. -/
def State.optRead (s : State) (f : XE) (m : Lanes) : State :=
  (s.setCur s.cur.dropHidden).countPages s.iss.gid ((s.blockAccs (lead m) (s.optAddr f m) 64).map (·.place))

@[simp] theorem State.iss_optRead : (s.optRead f m).iss = s.iss := by
  rw [State.optRead, State.iss_countPages]
  rfl

@[simp] theorem State.cur_optRead : (s.optRead f m).cur = s.cur.dropHidden := by rw [State.optRead, State.cur_countPages, State.cur_setCur]

end update

section sent
variable {s : State} {f : XE} {m : Lanes} {adam : Bool} {bs : List Byte} (xs : List LaneAcc)

/-- The state before the requests: the pages of the elements are counted too. -/
def State.optCounted (s : State) (f : XE) (m : Lanes) (xs : List LaneAcc) : State :=
  (s.optRead f m).countPages s.iss.gid (xs.map (·.place)) (((s.optRead f m).blockAccs (lead m) (s.optAddr f m) 64).map (·.place))

@[simp] theorem State.iss_optCounted : (s.optCounted f m xs).iss = s.iss := by rw [State.optCounted, State.iss_countPages, State.iss_optRead]
@[simp] theorem State.cur_optCounted : (s.optCounted f m xs).cur = s.cur.dropHidden := by
  rw [State.optCounted, State.cur_countPages, State.cur_optRead]

/-- The state after the requests. -/
def State.optRequests (s : State) (f : XE) (adam : Bool) (m : Lanes) (bs : List Byte) (xs : List LaneAcc) : State :=
  (s.optCounted f m xs).sendAll (optOp f adam bs) 5 0 true [] (xs.map (s.cur.optLane f))

theorem State.optSent_eq : (s.optRead f m).optSent s.cur f adam m bs xs
    = (s.optRequests f adam m bs xs).setCur ((s.optRequests f adam m bs xs).cur.addRem s.cur.wserial) := by
  have hw : (s.optCounted f m xs).cur.wserial = s.cur.wserial := by rw [State.cur_optCounted]; rfl
  unfold State.optSent
  dsimp only
  rw [State.iss_optRead]
  exact congrArg (fun n => (s.optRequests f adam m bs xs).setCur ((s.optRequests f adam m bs xs).cur.addRem n)) hw

theorem State.cur_optRequests (hne : xs ≠ []) : ∃ O L U Q N, (s.optRequests f adam m bs xs).cur =
    { s.cur.dropHidden with outs := O, late := L, unknowns := U, nReq := Q, notices := N, wserial := s.cur.wserial + 1 } := by
  obtain ⟨-, ⟨O, L, U, Q, N, hcur⟩, -⟩ := (s.optCounted f m xs).sendAll_spec (optOp f adam bs) 5 0 true [] (xs.map (s.cur.optLane f))
  refine ⟨O, L, U, Q, N, hcur.trans ?_⟩
  simp [hne, Group.dropHidden]

theorem State.iss_optRequests : (s.optRequests f adam m bs xs).iss = s.iss := by rw [State.optRequests, State.iss_sendAll, State.iss_optCounted]

theorem State.rd_optRequests (hx : ∀ x ∈ xs, x.place.ac = none) (hr : ∀ x ∈ s.blockAccs (lead m) (s.optAddr f m) 64, x.place.ac = none) (a : Nat) :
    (s.optRequests f adam m bs xs).rd a = s.rd a := by
  rw [State.optRequests, State.rd_sendAll, State.optCounted, State.countPages_uncounted _ _ _ _ (State.uncounted_accs hx), State.optRead,
    State.countPages_uncounted _ _ _ _ (State.uncounted_accs hr)]
  rfl

end sent

end Sys2Proof.Machine

namespace Sys2Proof
open Machine

/-- Settles O36: the record is read, then the lanes' requests enter the outstanding list under the group's serial. -/
theorem optimiserUpdates : Obligations.OptimiserUpdates := by
  unfold Obligations.OptimiserUpdates
  intro s f m i adam hi g wide res j a regs hm hc hclash hblocks hwords hread hunk hok hlast hrem hwin
  have he : exec i s = s.optUpdate i adam f := by
    rcases List.mem_cons.1 hi with h | h
    · cases h; rfl
    · rcases List.mem_cons.1 h with h | h
      · cases h; rfl
      · cases h
  obtain ⟨bs, hbs⟩ := State.peek_readable (s := s) (l := j) (a := a) (n := 64) hread
  obtain ⟨l0, hl0⟩ : ∃ l, m.getLsbD l = true := ⟨_, getLsbD_lead hm⟩
  have hne : lanePlaces m res ≠ [] := List.ne_nil_of_mem (lanePlaces_of_ok hl0 (hok l0 hl0).choose_spec)
  have hact : optAct s i adam f s m = some ((s.optRead f m).optSent s.cur f adam m bs (lanePlaces m res)).advance := by
    have hw : (s.optRead f m).openWindow = some (s.optRead f m) := State.openWindow_free (by rw [State.cur_optRead, Group.window_dropHidden]; exact hwin)
    unfold optAct
    dsimp only
    rw [if_neg hm, if_neg (by rw [show s.clash _ 2 (lanePlaces m (s.optRes f adam)) = false from hclash]; exact Bool.false_ne_true),
      if_neg (by rw [show s.cur.window = .free from hwin]; simpa using hrem)]
    exact (State.tableLoad_go hblocks hunk hbs).trans (congrArg (Option.map _) hw)
  have hfault : laneFaults m (s.optFault f adam m) = none := laneFaults_none fun l hl =>
    State.optFault_none (State.paramFaults_nil hwords) (hok l hl) hlast
  obtain ⟨O, L, U, Q, N, hcur⟩ := State.cur_optRequests (s := s) (f := f) (adam := adam) (m := m) (bs := bs) (lanePlaces m res) hne
  rw [State.optSent_eq] at hact
  refine ⟨_, bs, he.trans ((State.optUpdate_eq hc hm).trans (congrArg _ (State.runX_next hc hfault hact))), hbs, ?_, ?_, ?_, ?_, ?_, ?_, fun hx hr a => ?_⟩
  · rw [State.cur_next, State.v_passed, State.cur_setCur, hcur]
    exact Group.v_of_regs rfl
  · rw [State.cur_next, State.fpflags_passed, State.cur_setCur, hcur]
    rfl
  · rw [State.cur_next]
    refine State.stands_passed ?_ ?_
    · rw [State.cur_setCur, hcur]
      rfl
    · rw [State.iss_setCur, State.iss_optRequests]
  · rw [State.cur_next, State.wserial_passed, State.cur_setCur, hcur]
    rfl
  · rw [State.cur_next, State.nRem_passed, State.cur_setCur, hcur]
    rfl
  · refine Requested.of_sendAll (s := s.optCounted f m (lanePlaces m res)) (scope := 5) (ord := 0) (dst := [])
      (ls := (lanePlaces m res).map (s.cur.optLane f)) ?_ ?_ ?_ ?_ fun l _ => ?_
    · rw [State.cur_optCounted, State.cur_setCur]
    · rw [State.iss_optCounted, State.iss_setCur]
    · rw [State.cur_next, State.outs_passed, State.cur_setCur]
      rfl
    · rw [if_pos rfl, State.cur_optCounted]
      rfl
    · constructor
      · rintro ⟨y, hy, rfl⟩
        obtain ⟨x, hx, rfl⟩ := List.mem_map.1 hy
        exact ⟨(mem_lanePlaces.1 hx).1, rfl⟩
      · rintro ⟨hl, -⟩
        exact ⟨_, List.mem_map_of_mem (lanePlaces_of_ok hl (hok l hl).choose_spec), rfl⟩
  · rw [State.rd_next]
    refine (State.rd_optRequests (lanePlaces m res) (fun x h => ?_) hr a : _)
    obtain ⟨hl, hp⟩ := mem_lanePlaces.1 h
    exact hx _ _ hl (by rw [hp])

end Sys2Proof

/-! SUPPORT. An implicit commit: the team's held stores are released, and a region begins before the word (spec/10_determinism_and_reliability.md R240,
R241, spec/05_cores_and_execution.md R108). -/
namespace Sys2Proof.Machine

section commit
variable (s : State) (tk k : Nat)

/-- The package but for memory, poison marks, teams, groups and slots is as it was. -/
def State.sameButCommit (s t : State) : Prop :=
  t = { s with mem := t.mem, poison := t.poison, teams := t.teams, groups := t.groups, slots := t.slots }

theorem State.sameButCommit_trans {s t u : State} (h : s.sameButCommit t) (h' : t.sameButCommit u) : s.sameButCommit u := by
  unfold State.sameButCommit at *
  rw [h', h]

theorem State.sameButCommit_foldl {α : Type} {f : State → α → State} (hf : ∀ (s : State) a, s.sameButCommit (f s a)) (l : List α) (s : State) :
    s.sameButCommit (l.foldl f s) :=
  List.foldlRecOn l f (motive := s.sameButCommit) rfl fun _ ht a _ => State.sameButCommit_trans ht (hf _ a)

theorem State.sameButCommit_clearCovered (ps : List (Nat × List Byte)) : s.sameButCommit (s.clearCovered ps) := by
  unfold State.sameButCommit
  rw [State.clearCovered_only]

theorem State.sameButCommit_flushHeld : s.sameButCommit (s.flushHeld tk) := by
  refine State.sameButCommit_trans (t := ((s.team tk).buffer.foldl State.flushChunk s).setTeam tk
    { ((s.team tk).buffer.foldl State.flushChunk s).team tk with buffer := [] }) ?_ (State.sameButCommit_clearCovered ..)
  refine State.sameButCommit_trans (State.sameButCommit_foldl (fun t c => State.sameButCommit_foldl (fun u i => ?_) _ t) _ s) rfl
  unfold State.flushByte
  split <;> rfl

theorem State.sameButCommit_commitTeam : s.sameButCommit (s.commitTeam tk) :=
  State.sameButCommit_trans (State.sameButCommit_flushHeld s tk)
    (State.sameButCommit_trans (t := (s.flushHeld tk).setTeam tk { (s.flushHeld tk).team tk with committed := true }) rfl
      (State.sameButCommit_foldl (fun t g => by rfl) _ _))

theorem State.sameButCommit_releaseA (gid : Nat) : s.sameButCommit (s.releaseA gid) := by
  unfold State.releaseA
  dsimp only
  split
  · split <;> rfl
  · rfl

theorem State.sameButCommit_regionBefore : s.sameButCommit s.regionBefore :=
  State.sameButCommit_trans (t := s.setCur s.cur.beginBefore) rfl (State.sameButCommit_releaseA ..)

section frame
variable {s} {t : State} (h : s.sameButCommit t)
include h

theorem State.iss_of_sameButCommit : t.iss = s.iss := by rw [h]
theorem State.cores_of_sameButCommit : t.cores = s.cores := by rw [h]
theorem State.fresh_of_sameButCommit : t.fresh = s.fresh := by rw [h]

end frame

/-! ### Teams and memory -/

theorem State.team_congr {s t : State} (h : t.teams = s.teams) (k : Nat) : t.team k = s.team k := by rw [State.team, h, State.team]

theorem State.team_setTeam_ite (j : Nat) (x : Team) : (s.setTeam j x).team k = if k = j then x else s.team k := by
  split
  · next h => rw [h, State.team_setTeam]
  · next h => exact State.team_setTeam_ne _ _ _ x h

theorem State.teams_clearHold (gs : List Nat) : (gs.foldl (fun s g => s.setGroup g { s.group g with hold := false }) s).teams = s.teams :=
  State.teams_foldl (f := fun s g => s.setGroup g { s.group g with hold := false }) (fun _ _ => rfl) gs s

theorem State.teams_flushChunks (cs : List Chunk) : (cs.foldl State.flushChunk s).teams = s.teams :=
  State.teams_foldl (fun t c => State.teams_foldl (fun u i => by unfold State.flushByte; split <;> rfl) _ t) _ s

theorem State.team_flushHeld : (s.flushHeld tk).team k = if k = tk then { s.team tk with buffer := [] } else s.team k := by
  have h : (s.flushHeld tk).team k = (((s.team tk).buffer.foldl State.flushChunk s).setTeam tk
      { ((s.team tk).buffer.foldl State.flushChunk s).team tk with buffer := [] }).team k :=
    State.team_congr (by rw [State.flushHeld, State.clearCovered_only]; rfl) k
  rw [h, State.team_setTeam_ite, State.team_congr (s.teams_flushChunks _), State.team_congr (s.teams_flushChunks _)]

/-- A commit empties the team's buffer, and marks it committed. -/
theorem State.team_commitTeam : (s.commitTeam tk).team k
    = if k = tk then { s.team tk with buffer := [], committed := true } else s.team k := by
  have h : (s.commitTeam tk).team k = ((s.flushHeld tk).setTeam tk { (s.flushHeld tk).team tk with committed := true }).team k :=
    State.team_congr (State.teams_clearHold _ _) k
  rw [h, State.team_setTeam_ite, State.team_flushHeld, State.team_flushHeld, if_pos rfl]
  split <;> rfl

/-- A commit writes the held bytes, and no other memory. -/
theorem State.rd_commitTeam (a : Nat) : (s.commitTeam tk).rd a = (s.flushHeld tk).rd a := by
  refine List.foldlRecOn _ _ (motive := fun t : State => t.rd a = (s.flushHeld tk).rd a) rfl fun t ht g _ => ht

/-! ### The group in hand -/

theorem State.groups_flushHeld : (s.flushHeld tk).groups = s.groups := by
  rw [State.flushHeld, State.clearCovered_only]
  exact List.foldlRecOn _ _ (motive := fun t : State => t.groups = s.groups) rfl fun t ht c _ =>
    List.foldlRecOn _ _ (motive := fun t : State => t.groups = s.groups) ht fun u hu i _ => by
      split
      · exact hu
      · exact hu

theorem State.group_clearHold (gs : List Nat) (t : State) : (gs.foldl (fun s g => s.setGroup g { s.group g with hold := false }) t).group k
    = if k ∈ gs then { t.group k with hold := false } else t.group k := by
  induction gs generalizing t with
  | nil => simp
  | cons g gs ih =>
    rw [List.foldl_cons, ih]
    by_cases h : k = g
    · subst h
      rw [State.group_setGroup]
      simp
    · rw [State.group_setGroup_ne _ _ _ _ h]
      simp [h]

/-- A commit clears the HOLD of its team's groups. -/
theorem State.cur_commitTeam : (s.commitTeam tk).cur = if s.iss.gid ∈ s.groupsOf tk then { s.cur with hold := false } else s.cur := by
  have hg : ((s.flushHeld tk).setTeam tk { (s.flushHeld tk).team tk with committed := true }).groupsOf tk = s.groupsOf tk := by
    rw [State.groupsOf, State.groupsOf, State.launch, State.launch, show (State.setTeam _ _ _).launches = s.launches by
      rw [show (State.setTeam _ _ _).launches = (s.flushHeld tk).launches from rfl, s.sameButCommit_flushHeld tk]]
  have hc : ((s.flushHeld tk).setTeam tk { (s.flushHeld tk).team tk with committed := true }).group s.iss.gid = s.cur := by
    rw [State.group, show (State.setTeam _ _ _).groups = (s.flushHeld tk).groups from rfl, State.groups_flushHeld]
    rfl
  rw [State.cur, State.iss_of_sameButCommit (s.sameButCommit_commitTeam tk), State.commitTeam]
  dsimp only
  rw [State.group_clearHold, hg, hc]

theorem State.hold_commitTeam : ∃ h, (s.commitTeam tk).cur = { s.cur with hold := h } := by
  rw [State.cur_commitTeam]
  split
  · exact ⟨_, rfl⟩
  · exact ⟨_, rfl⟩

/-! ### The commit of a word (R240) -/

theorem State.groups_releaseA (gid : Nat) : (s.releaseA gid).groups = s.groups := by
  unfold State.releaseA
  dsimp only
  split
  · split <;> rfl
  · rfl

theorem State.cur_regionBefore : s.regionBefore.cur = s.cur.beginBefore := by
  rw [State.cur, State.iss_regionBefore, State.regionBefore, State.group, State.groups_releaseA]
  exact s.cur_setCur _

theorem State.teams_regionBefore : s.regionBefore.teams = s.teams := by
  rw [State.regionBefore]
  unfold State.releaseA
  dsimp only
  split
  · split <;> rfl
  · rfl

theorem State.rd_regionBefore (a : Nat) : s.regionBefore.rd a = s.rd a := by
  rw [State.regionBefore]
  unfold State.releaseA
  dsimp only
  split
  · split <;> rfl
  · rfl

/-- The state after the commit of a word. -/
def State.afterCommit (s : State) : State := (s.commitTeam (groupTeam s.iss.gid)).regionBefore

theorem State.implicitCommit_may (h : s.cur.mayCommit = true) : s.implicitCommit = some s.afterCommit := by
  have hb : (s.commitTeam (groupTeam s.iss.gid)).cur.canBegin = true := by
    obtain ⟨b, hb⟩ := s.hold_commitTeam (groupTeam s.iss.gid)
    rw [hb]
    unfold Group.mayCommit at h
    simp only [Bool.and_eq_true] at h
    exact h.1.1
  rw [State.implicitCommit, if_pos h, State.beginRegion, if_pos hb, State.afterCommit]

theorem State.implicitCommit_waits (h : s.cur.mayCommit = false) : s.implicitCommit = none := by
  rw [State.implicitCommit, if_neg (by rw [h]; exact Bool.false_ne_true)]

theorem State.sameButCommit_afterCommit : s.sameButCommit s.afterCommit :=
  State.sameButCommit_trans (s.sameButCommit_commitTeam _) (State.sameButCommit_regionBefore _)

@[simp] theorem State.iss_afterCommit : s.afterCommit.iss = s.iss := State.iss_of_sameButCommit s.sameButCommit_afterCommit

theorem State.cur_afterCommit : ∃ h, s.afterCommit.cur = Group.beginBefore { s.cur with hold := h } := by
  obtain ⟨b, hb⟩ := s.hold_commitTeam (groupTeam s.iss.gid)
  exact ⟨b, by rw [State.afterCommit, State.cur_regionBefore, hb]⟩

theorem State.team_afterCommit : s.afterCommit.team k
    = if k = groupTeam s.iss.gid then { s.team k with buffer := [], committed := true } else s.team k := by
  rw [State.afterCommit, State.team_congr (State.teams_regionBefore _), State.team_commitTeam]
  split
  · next h => rw [h]
  · rfl

theorem State.rd_afterCommit (a : Nat) : s.afterCommit.rd a = (s.flushHeld (groupTeam s.iss.gid)).rd a := by
  rw [State.afterCommit, State.rd_regionBefore, State.rd_commitTeam]

end commit

end Sys2Proof.Machine

/-! PROOF. The issue of a copy: the checks of its range, the counts of its lines, the commit of a held team, and its entry into the group's list
(spec/16_isa_copy_matrix.md R348 to R351, spec/06_address_spaces.md R123, spec/10_determinism_and_reliability.md R241). -/
namespace Sys2Proof.Machine

/-! ### The counts of scratchpad lines (R123) -/

section lines
variable (s : State) (x : Nat × Nat) (n : Nat) (xs : List (Nat × Nat))

/-- The package but for its cores and teams is as it was; of a team, its buffer too. -/
def State.sameButLines (s t : State) : Prop := t = { s with cores := t.cores, teams := t.teams } ∧ ∀ k, (t.team k).buffer = (s.team k).buffer

theorem State.sameButLines_setPending : s.sameButLines (s.setPending x n) := by
  unfold State.setPending
  dsimp only
  split
  · exact ⟨rfl, fun _ => rfl⟩
  · refine ⟨rfl, fun k => ?_⟩
    rw [State.team_setTeam_ite]
    split
    · next h => rw [h]
    · rfl

theorem State.sameButLines_addLines : s.sameButLines (s.addLines xs) :=
  List.foldlRecOn xs _ (motive := s.sameButLines) ⟨rfl, fun _ => rfl⟩ fun t ht x _ => by
    obtain ⟨h, hb⟩ := ht
    obtain ⟨h', hb'⟩ := t.sameButLines_setPending x (t.pending x + 1)
    exact ⟨by rw [h', h], fun k => (hb' k).trans (hb k)⟩

/-- Two packages count their lines alike: their cores are the same, and so are their teams but for what a commit changes. -/
def State.sameLines (s t : State) : Prop :=
  t.cores = s.cores ∧ ∀ k, ∃ b c, t.team k = { s.team k with buffer := b, committed := c }

variable {s}

theorem State.sameLines_setPending {t : State} (h : s.sameLines t) : (s.setPending x n).sameLines (t.setPending x n) := by
  obtain ⟨hc, ht⟩ := h
  obtain ⟨b, c, hx⟩ := ht x.1
  have hcore (k : Nat) : t.core k = s.core k := by rw [State.core, hc, State.core]
  have hy : t.physLine x = s.physLine x := by
    unfold State.physLine
    rw [hx]
  unfold State.setPending
  dsimp only
  rw [show (t.team x.1).resident = (s.team x.1).resident by rw [hx], hy, hcore]
  split
  · refine ⟨?_, ht⟩
    show tabSet {} t.cores _ _ = tabSet {} s.cores _ _
    rw [hc]
  · refine ⟨hc, fun k => ?_⟩
    rw [State.team_setTeam_ite, State.team_setTeam_ite]
    split
    · exact ⟨b, c, by rw [hx]⟩
    · exact ht k

theorem State.sameLines_pending {t : State} (h : s.sameLines t) : t.pending x = s.pending x := by
  obtain ⟨hc, ht⟩ := h
  obtain ⟨b, c, hx⟩ := ht x.1
  have hcore (k : Nat) : t.core k = s.core k := by rw [State.core, hc, State.core]
  unfold State.pending State.physLine
  dsimp only
  rw [hx, hcore]

theorem State.sameLines_addLines {t : State} (h : s.sameLines t) : (s.addLines xs).sameLines (t.addLines xs) := by
  induction xs generalizing s t with
  | nil => exact h
  | cons x xs ih => exact ih (by dsimp only; rw [State.sameLines_pending x h]; exact State.sameLines_setPending x _ h)

end lines

/-! ### A word that may commit first (R240, R241) -/

section committing
variable (s : State) (commit : Bool)

/-- The state that a word finds, its commit done if it makes one. -/
def State.committing : State := if commit then s.afterCommit else s

theorem State.cur_committing : ∃ H C R I S, (s.committing commit).cur = { s.cur with hold := H, ckpt := C, rstart := R, inBar := I, steps := S } := by
  unfold State.committing
  split
  · obtain ⟨b, hb⟩ := s.cur_afterCommit
    exact ⟨b, _, _, _, _, hb⟩
  · exact ⟨_, _, _, _, _, rfl⟩

theorem State.sameButCommit_committing : s.sameButCommit (s.committing commit) := by
  unfold State.committing
  split
  · exact s.sameButCommit_afterCommit
  · rfl

theorem State.sameLines_committing : s.sameLines (s.committing commit) := by
  refine ⟨State.cores_of_sameButCommit (s.sameButCommit_committing commit), fun k => ?_⟩
  unfold State.committing
  split
  · rw [State.team_afterCommit]
    split
    · exact ⟨_, _, rfl⟩
    · exact ⟨_, _, rfl⟩
  · exact ⟨_, _, rfl⟩

end committing

/-! ### The issue (R348) -/

section issue
variable {s : State} {f : XE} {m : Lanes} {i : Instr} {kind n : Nat} {regs : List Nat} {guard : BitVec 7} {mk : Nat → Copy} {bad : Copy → Bool}
  {commit : Bool}

/-- The needs of a copy. -/
def copyNeeds (guard : BitVec 7) (regs : List Nat) (commit : Bool) : Needs :=
  { guard, regs, reads := regs, region := commit, deliver := commit, after := true }

/-- The fault of a copy. -/
def State.copyFaultOf (s : State) (mk : Nat → Copy) (bad : Copy → Bool) (m : Lanes) : Option DataFault :=
  if m = 0 then none
  else
    let c := mk (lead m)
    let fault (n : Nat) : Option DataFault := some { cause := 0x0D, lanes := BitVec.ofNat 32 (2 ^ lead m), info := BitVec.ofNat 64 n }
    match if c.ob then s.obReason s.iss.gid c else none with
    | some n => fault n
    | none => if bad c then fault 13 else none

/-- What a copy does at its issue. -/
def copyAct (s0 : State) (mk : Nat → Copy) (commit : Bool) (s : State) (m : Lanes) : Option State :=
  if m = 0 then some s.advance
  else
    let c := mk (lead m)
    let lines := s.copyLines s0.iss.gid c 0 c.size
    if 255 ≤ s.cur.outstanding 0 || s.linesFull lines then none
    else (if commit then s.implicitCommit else some s).map fun s => (s.addCopy c lines).advance

theorem State.copyIssue_eq (h : s.Clear (copyNeeds guard regs commit) m) (hm : m ≠ 0)
    (hc : (s.cur.hold && s.copyGlobal s.iss.gid (mk (lead m))) = commit) :
    s.copyIssue guard regs mk bad = .next (s.runX (copyNeeds guard regs commit) (s.copyFaultOf mk bad) (copyAct s mk commit)) := by
  have hact : s.cur.active s.iss.run guard = m := h.active.symm
  have hcommit : (s.cur.active s.iss.run guard != 0 && s.cur.hold && s.copyGlobal s.iss.gid (mk (lead (s.cur.active s.iss.run guard)))) = commit := by
    rw [hact, bne_iff_ne.2 hm, Bool.true_and, hc]
  unfold State.copyIssue
  dsimp only
  rw [hcommit]
  rfl

theorem State.copyFaultOf_range (hm : m ≠ 0) (hob : (mk (lead m)).ob = true) (hr : s.obReason s.iss.gid (mk (lead m)) = some n) :
    s.copyFaultOf mk bad m = some { cause := 0x0D, lanes := BitVec.ofNat 32 (2 ^ lead m), info := BitVec.ofNat 64 n } := by
  rw [State.copyFaultOf, if_neg hm]
  dsimp only
  rw [if_pos hob, hr]

theorem State.copyFaultOf_own (hm : m ≠ 0) (hr : (mk (lead m)).ob = true → s.obReason s.iss.gid (mk (lead m)) = none) :
    s.copyFaultOf mk bad m
      = if bad (mk (lead m)) then some { cause := 0x0D, lanes := BitVec.ofNat 32 (2 ^ lead m), info := BitVec.ofNat 64 13 } else none := by
  have hnone : (if (mk (lead m)).ob = true then s.obReason s.iss.gid (mk (lead m)) else none) = none := by
    split
    · next h => exact hr h
    · rfl
  rw [State.copyFaultOf, if_neg hm]
  dsimp only
  rw [hnone]

/-- A copy whose range or own fields are bad traps; the others may wait, and then enter the list. -/
theorem copyAct_waits (hm : m ≠ 0) {c : Copy} {lines : List (Nat × Nat)} (hmk : mk (lead m) = c) (hl : s.copyLines s.iss.gid c 0 c.size = lines)
    (hw : 255 ≤ s.cur.copies.length ∨ s.linesFull lines = true) : copyAct s mk commit s m = none := by
  subst hmk hl
  rw [copyAct, if_neg hm]
  exact if_pos (by simpa [Group.outstanding] using hw)

theorem copyAct_goes (hm : m ≠ 0) {c : Copy} {lines : List (Nat × Nat)} (hmk : mk (lead m) = c) (hl : s.copyLines s.iss.gid c 0 c.size = lines)
    (hlen : s.cur.copies.length < 255) (hfull : s.linesFull lines = false) (hmay : commit = true → s.cur.mayCommit = true) :
    copyAct s mk commit s m = some ((s.committing commit).addCopy c lines).advance := by
  subst hmk hl
  have hcommit : (if commit then s.implicitCommit else some s) = some (s.committing commit) := by
    cases hb : commit with
    | false => rfl
    | true => exact s.implicitCommit_may (hmay hb)
  rw [copyAct, if_neg hm]
  dsimp only
  rw [if_neg (by rw [hfull, Bool.or_false, decide_eq_true_eq]; exact Nat.not_le.2 hlen), hcommit]
  rfl

/-- The check that a copy's own fields pass. -/
def copyBad (kind : Nat) : Copy → Bool := if kind = 3 then cpypBad else fun _ => false

/-- The words of copies, each with its kind and its registers of lengths and rows. -/
theorem exec_copy {args : List Nat} (hi : (i, kind, args) ∈ [(.cpy f, 0, [f.e2.toNat]), (.cpy2 f, 1, range' f.e2.toNat 4), (.cpyx f, 2, [f.e2.toNat]),
    (.cpyp f, 3, range' f.e2.toNat 2)]) :
    exec i s = s.copyIssue f.guard (pairRegs f.e0 ++ pairRegs f.e1 ++ args) (s.mkCopy f kind) (copyBad kind) := by
  simp only [List.mem_cons, List.not_mem_nil, or_false] at hi
  obtain hi | hi | hi | hi := hi <;> cases hi <;> rfl

end issue

/-! ### What a copy's issue leaves -/

section issued
variable {u : State} {c : Copy} {lines : List (Nat × Nat)}

/-- The entry of a copy in its group's list. -/
def State.copyEntry (u : State) (c : Copy) (lines : List (Nat × Nat)) : Copy :=
  { c with id := u.cur.nextOp, seq := u.cur.nCopy, lines, born := u.fresh, state := if c.size = 0 then .done else .running }

theorem State.cur_addLines : (u.addLines lines).cur = u.cur := by
  obtain ⟨h, -⟩ := u.sameButLines_addLines lines
  exact State.cur_of_eq (by rw [h]) (by rw [h])

theorem State.cur_addCopy : (u.addCopy c lines).cur =
    { u.cur with copies := u.cur.copies ++ [u.copyEntry c lines], nextOp := u.cur.nextOp + 1, nCopy := u.cur.nCopy + 1 } := by
  rw [State.addCopy]
  dsimp only
  rw [State.cur_setCur, State.cur_addLines]
  rfl

theorem State.iss_addCopy : (u.addCopy c lines).iss = u.iss := by
  obtain ⟨h, -⟩ := u.sameButLines_addLines lines
  rw [State.addCopy, State.iss_setCur, h]

theorem State.rd_addCopy (a : Nat) : (u.addCopy c lines).rd a = u.rd a := by
  obtain ⟨h, -⟩ := u.sameButLines_addLines lines
  show (u.addLines lines).rd a = u.rd a
  rw [State.rd, h, State.rd]

theorem State.buffer_addCopy (k : Nat) : ((u.addCopy c lines).team k).buffer = (u.team k).buffer := (u.sameButLines_addLines lines).2 k

end issued

end Sys2Proof.Machine

namespace Sys2Proof
open Machine

/-- Settles O26: the checks in their order, then the commit if there is one, the lines' counts and the entry in the list. -/
theorem copyIssues : Obligations.CopyIssues := by
  unfold Obligations.CopyIssues
  intro s f m i kind args hi regs gid tk j c lines commit trap hm hc
  have he := (exec_copy (s := s) hi).trans (State.copyIssue_eq (bad := copyBad kind) hc hm rfl)
  refine ⟨fun n hob hr => ?_, fun hr hk hbad => ?_, fun hr hbad => ?_⟩
  · exact he.trans (congrArg _ (State.runX_fault hc (State.copyFaultOf_range hm hob hr)))
  · exact he.trans (congrArg _ (State.runX_fault hc ((State.copyFaultOf_own hm hr).trans (if_pos (by rw [copyBad, if_pos hk]; exact hbad)))))
  · have hgood : copyBad kind c = false := by
      unfold copyBad
      split
      · next hk => exact hbad hk
      · rfl
    have hfault : s.copyFaultOf (s.mkCopy f kind) (copyBad kind) m = none :=
      (State.copyFaultOf_own hm hr).trans (if_neg (by rw [show copyBad kind (s.mkCopy f kind (lead m)) = false from hgood]; exact Bool.false_ne_true))
    refine ⟨fun hw => he.trans (congrArg _ (State.runX_stall hc hfault (copyAct_waits hm rfl rfl hw))), fun hlen hfull hmay => ?_⟩
    obtain ⟨H, C, R, I, S, hcur⟩ := s.cur_committing commit
    have hfresh : (s.committing commit).fresh = s.fresh := State.fresh_of_sameButCommit (s.sameButCommit_committing commit)
    refine ⟨_, (s.committing commit).copyEntry c lines,
      he.trans (congrArg _ (State.runX_next hc hfault (copyAct_goes hm rfl rfl hlen hfull hmay))), ?_, ?_, rfl, rfl, fun hob => ?_, fun hob => ?_, ?_, ?_, ?_, ?_,
      ?_, fun hn a => ?_, fun hy => ⟨?_, fun a => ?_⟩⟩
    · rw [State.cur_next, State.passed, State.cur_addCopy, Group.advance, hcur]
    · rw [State.copyEntry, hcur, hfresh]
    · exact if_neg (show ¬ c.ob = true by rw [show c.ob = false from hob]; exact Bool.false_ne_true)
    · exact ⟨if_pos hob, if_pos hob⟩
    · rw [State.cur_next, State.passed, State.cur_addCopy, Group.advance, hcur]
    · rw [State.cur_next, State.v_passed, State.cur_addCopy, hcur]
      exact Group.v_of_regs rfl
    · rw [State.cur_next]
      refine State.stands_passed ?_ ?_
      · rw [State.cur_addCopy, hcur]
      · rw [State.iss_addCopy, State.iss_of_sameButCommit (s.sameButCommit_committing commit)]
    · rw [State.cur_next, State.fpflags_passed, State.cur_addCopy, hcur]
    · rw [State.cores_afterX]
      exact (State.sameLines_addLines lines (s.sameLines_committing commit)).1
    · rw [State.rd_next, State.rd_addCopy, hn]
      rfl
    · rw [State.team_afterX, State.team_advance, State.buffer_addCopy, hy]
      show (s.afterCommit.team tk).buffer = []
      rw [State.team_afterCommit, if_pos rfl]
    · rw [State.rd_next, State.rd_addCopy, hy]
      exact s.rd_afterCommit a

end Sys2Proof

/-! PROOF. Read-modify-write words: scratchpad lanes act at the core, the others ask their owners (spec/15_isa_memory_atomics_sync.md R330 to R336,
spec/02_fabric_and_exactly_once.md R38, spec/10_determinism_and_reliability.md R218). -/
namespace Sys2Proof.Machine

/-! ### Faults (R334, R218) -/

section faults
variable {s : State} {k : RmwKind} {f : XM} {m : Lanes} {n : Nat} {res : Resolver} {l : Nat} {p : Place}

/-- R218 permits the word on global addresses. -/
def State.rmwPermitted (s : State) (k : RmwKind) (f : XM) : Bool :=
  !(s.launchOf s.iss.gid).determ || (k == .red && !s.lastSerial) || (k == .atomv && !f.rb && rmwCode f < 8 && !s.lastSerial)

theorem State.rmwForbidden_eq : s.rmwForbidden k f p = (isGlobal p && !s.rmwPermitted k f) := by
  have hcode : decide (8 ≤ rmwCode f) = !decide (rmwCode f < 8) := by simp only [← decide_not, Nat.not_lt]
  unfold State.rmwForbidden State.rmwPermitted
  rw [hcode]
  cases isGlobal p
  · rfl
  cases (s.launchOf s.iss.gid).determ
  · rfl
  cases s.lastSerial <;> cases f.rb <;> cases decide (rmwCode f < 8) <;> cases k <;> rfl

/-- The lane's access overlaps one of a lower lane, and is not equal to it (R334). -/
def rmwMeets (k : RmwKind) (m : Lanes) (res : Resolver) (n l : Nat) (p : Place) : Bool :=
  k == .atomv && (lanePlaces m res).any fun x => x.lane < l && overlaps x.place p n && x.place.pa != p.pa

/-- The fault of a lane. -/
def State.rmwFault (s : State) (k : RmwKind) (f : XM) (m : Lanes) (res : Resolver) (n l : Nat) : Option (Nat × Dword) :=
  match (res l).2 with
  | .error c => some (c, (res l).1)
  | .ok p => if rmwMeets k m res n l p then some (0x0C, (res l).1)
      else if p.kind != 3 && !s.rmwPermitted k f then some (0x11, (res l).1) else none

theorem State.rmwFaults_eq : s.rmwFaults k f n res m = laneFaults m (s.rmwFault k f m res n) := by
  unfold State.rmwFaults State.rmwFault rmwMeets
  dsimp only
  congr 1
  funext l
  obtain ⟨a, c | p⟩ := res l
  · rfl
  · dsimp only
    rw [State.rmwForbidden_eq]
    cases k <;> rfl

theorem State.rmwFault_none (hp : (res l).2 = .ok p) (hm : rmwMeets k m res n l p = false) (hg : p.kind ≠ 3 → s.rmwPermitted k f = true) :
    s.rmwFault k f m res n l = none := by
  rw [State.rmwFault, hp]
  dsimp only
  rw [if_neg (by rw [hm]; exact Bool.false_ne_true), if_neg]
  rw [Bool.and_eq_true, Bool.not_eq_true', bne_iff_ne]
  rintro ⟨hk, hf⟩
  rw [hg hk] at hf
  cases hf

end faults

/-! ### The lanes in a scratchpad (R335) -/

section near
variable {s t : State} {op : OwnerOp} {n : Nat} {d : List Nat} {operands : Nat → List Word} {xs : List LaneAcc}

theorem Group.setWords_only (g : Group) (rs : List Nat) (l : Nat) (ws : List Word) :
    g.setWords rs l ws = { g with regs := (g.setWords rs l ws).regs, late := (g.setWords rs l ws).late, unknowns := (g.setWords rs l ws).unknowns } :=
  List.foldlRecOn _ _ (motive := fun h : Group => h = { g with regs := h.regs, late := h.late, unknowns := h.unknowns }) rfl
    fun h hh x _ => by
      dsimp only [Group.setReg, Group.supersede]
      rw [hh]

/-- One lane's operation at the core. -/
def State.rmwLane (s : State) (op : OwnerOp) (n : Nat) (d : List Nat) (operands : Nat → List Word) (x : LaneAcc) : State :=
  let old := s.readPlace (groupTeam s.iss.gid) x.place n
  let r := rmwApply op old (operands x.lane)
  let u := s.padWrite x.place.core x.place.pa (leBytes n r.1)
  let g := if d.isEmpty then s.cur else s.cur.setWords d x.lane (valWords d.length old)
  u.setCur { g with fpflags := mergeFlags g.fpflags r.2 }

theorem State.rmwLocal_eq : s.rmwLocal op n d operands xs = xs.foldl (fun u x => u.rmwLane op n d operands x) s := rfl

/-- Two packages with the same group in hand and the same scratchpads. -/
def State.sameCore (s t : State) : Prop := t.iss = s.iss ∧ t.cur = s.cur ∧ t.cores = s.cores

theorem State.sameCore_rmwLane {x : LaneAcc} (hk : x.place.kind = 3) (h : s.sameCore t) :
    (s.rmwLane op n d operands x).sameCore (t.rmwLane op n d operands x) := by
  obtain ⟨hi, hc, hx⟩ := h
  have hcore (c : Nat) : t.core c = s.core c := by rw [State.core, hx, State.core]
  have hread : t.readPlace (groupTeam t.iss.gid) x.place n = s.readPlace (groupTeam s.iss.gid) x.place n := by
    simp only [State.readPlace, State.placeByte, if_pos hk, State.padByte, hcore]
  refine ⟨hi, ?_, ?_⟩
  · rw [State.rmwLane, State.rmwLane, State.cur_setCur, State.cur_setCur, hread, hc]
  · rw [State.rmwLane, State.rmwLane, hread]
    show tabSet {} t.cores _ _ = tabSet {} s.cores _ _
    rw [hx, hcore]

theorem State.sameCore_rmwLocal (hk : ∀ x ∈ xs, x.place.kind = 3) (h : s.sameCore t) :
    (s.rmwLocal op n d operands xs).sameCore (t.rmwLocal op n d operands xs) := by
  induction xs generalizing s t with
  | nil => exact h
  | cons x xs ih => exact ih (fun y hy => hk y (List.mem_cons_of_mem _ hy)) (State.sameCore_rmwLane (hk x List.mem_cons_self) h)

theorem State.cur_rmwLocal : ∃ R L U F, (s.rmwLocal op n d operands xs).cur = { s.cur with regs := R, late := L, unknowns := U, fpflags := F } := by
  rw [State.rmwLocal_eq]
  refine List.foldlRecOn xs _ (motive := fun t : State => ∃ R L U F, t.cur = { s.cur with regs := R, late := L, unknowns := U, fpflags := F })
    ⟨_, _, _, _, rfl⟩ fun t ht x _ => ?_
  obtain ⟨R, L, U, F, ht⟩ := ht
  rw [State.rmwLane]
  dsimp only
  rw [State.cur_setCur]
  split
  · rw [ht]
    exact ⟨_, _, _, _, rfl⟩
  · rw [Group.setWords_only, ht]
    exact ⟨_, _, _, _, rfl⟩

@[simp] theorem State.iss_rmwLocal : (s.rmwLocal op n d operands xs).iss = s.iss := State.iss_foldl (f := fun u x => u.rmwLane op n d operands x) (fun _ _ => rfl) xs s

@[simp] theorem State.rd_rmwLocal (a : Nat) : (s.rmwLocal op n d operands xs).rd a = s.rd a := by rw [State.rd, State.mem_rmwLocal, State.rd]

theorem State.sameCore_countPages (s : State) (gid : Nat) (ps done : List Place) : s.sameCore (s.countPages gid ps done) :=
  ⟨State.iss_countPages .., State.cur_countPages .., by rw [s.sameButLog_countPages gid ps done]⟩

end near

/-! ### The word -/

section word
variable {s : State} {k : RmwKind} {f : XM} {m : Lanes} {i : Instr}

/-- The far accesses of the lanes, and the near ones. -/
def globals (xs : List LaneAcc) : List LaneAcc := xs.filter fun x => isGlobal x.place
def pads (xs : List LaneAcc) : List LaneAcc := xs.filter fun x => !isGlobal x.place

theorem pads_eq (xs : List LaneAcc) : pads xs = xs.filter fun x => decide (x.place.kind = 3) :=
  List.filter_congr fun x _ => by
    rw [isGlobal, bne, Bool.not_not]
    rfl

/-- The registers that take old values. -/
def rmwDst (k : RmwKind) (f : XM) : List Nat := if rmwReturns k f then rmwRegs k f else []

/-- The needs of the word. -/
def State.rmwNeeds (s : State) (k : RmwKind) (f : XM) (xs : List LaneAcc) : Needs :=
  { guard := f.guard, regs := addrRegs f ++ rmwOperands k f, reads := addrRegs f ++ rmwOperands k f, mem := true
    rel := xs.any fun x => isRelease f.ord x.place, issues := !rmwReturns k f
    deliver := rmwReturns k f || (f.scope == 7 && xs.any fun x => isRelease f.ord x.place)
    region := !(globals xs).isEmpty && s.cur.windowRegion }

/-- The record of a far lane. -/
def Group.rmwRec (g : Group) (k : RmwKind) (f : XM) (x : LaneAcc) : ReqLane :=
  { lane := x.lane, place := x.place, va := x.va, data := g.words x.lane (rmwOperands k f) }

/-- The state with the pages counted and the near lanes' operations done. -/
def State.rmwNear (s : State) (g : Group) (k : RmwKind) (f : XM) (xs : List LaneAcc) : State :=
  (s.countPages s.iss.gid (xs.map (·.place))).rmwLocal (rmwOp k f (s.launchOf s.iss.gid).determ) (rmwBytes k f) (rmwDst k f)
    (fun l => g.words l (rmwOperands k f)) (pads xs)

/-- The state with the far lanes' requests sent too. -/
def State.rmwSent (s : State) (g : Group) (k : RmwKind) (f : XM) (xs : List LaneAcc) : State :=
  (s.rmwNear g k f xs).sendAll (rmwOp k f (s.launchOf s.iss.gid).determ) f.scope f.ord true (rmwDst k f) ((globals xs).map (g.rmwRec k f))

/-- What the word does. -/
def rmwAct (s0 : State) (i : Instr) (k : RmwKind) (f : XM) (xs : List LaneAcc) (s : State) (m : Lanes) : Option State :=
  s.present i m xs fun s =>
    if s.clash (fun _ => true) (rmwBytes k f) (globals xs) then none
    else if !rmwReturns k f && !xs.isEmpty && 255 ≤ s0.cur.rem.length then none
    else
      (if (globals xs).isEmpty then some s else s.openWindow).map fun s =>
        let t := s.rmwSent s0.cur k f xs
        (if !rmwReturns k f && !xs.isEmpty then
          t.setCur (if (globals xs).isEmpty then t.cur.nearRem else t.cur.addRem (s.rmwNear s0.cur k f xs).cur.wserial) else t).advance

theorem State.rmw_eq (h : s.Clear (s.rmwNeeds k f (lanePlaces m (s.rmwRes f (rmwBytes k f) true))) m) :
    s.rmw i k f = .next (s.runX (s.rmwNeeds k f (lanePlaces m (s.rmwRes f (rmwBytes k f) true)))
      (fun m => s.rmwFaults k f (rmwBytes k f) (s.rmwRes f (rmwBytes k f) true) m) (rmwAct s i k f (lanePlaces m (s.rmwRes f (rmwBytes k f) true)))) := by
  have hact : s.cur.active s.iss.run f.guard = m := h.active.symm
  unfold State.rmw State.reach
  dsimp only
  rw [hact]
  rfl

theorem exec_rmw (hi : (i, k) ∈ [(.atom f, RmwKind.atom), (.red f, .red), (.atomv f, .atomv)]) : exec i s = s.rmw i k f := by
  simp only [List.mem_cons, List.not_mem_nil, or_false] at hi
  obtain hi | hi | hi := hi <;> cases hi <;> rfl

/-- The state after the requests, the operation counted. -/
def State.rmwDone (s : State) (k : RmwKind) (f : XM) (xs : List LaneAcc) : State :=
  if !rmwReturns k f && !xs.isEmpty then
    (s.rmwSent s.cur k f xs).setCur (if (globals xs).isEmpty then (s.rmwSent s.cur k f xs).cur.nearRem
      else (s.rmwSent s.cur k f xs).cur.addRem s.cur.wserial)
  else s.rmwSent s.cur k f xs

section act
variable {xs : List LaneAcc}

theorem State.cur_rmwNear (g : Group) : ∃ R L U F, (s.rmwNear g k f xs).cur = { s.cur with regs := R, late := L, unknowns := U, fpflags := F } := by
  obtain ⟨R, L, U, F, h⟩ := State.cur_rmwLocal (s := s.countPages s.iss.gid (xs.map (·.place))) (op := rmwOp k f (s.launchOf s.iss.gid).determ)
    (n := rmwBytes k f) (d := rmwDst k f) (operands := fun l => g.words l (rmwOperands k f)) (xs := pads xs)
  rw [State.cur_countPages] at h
  exact ⟨R, L, U, F, h⟩

@[simp] theorem State.iss_rmwNear (g : Group) : (s.rmwNear g k f xs).iss = s.iss := by rw [State.rmwNear, State.iss_rmwLocal, State.iss_countPages]

/-- A word that may issue acts, and passes. -/
theorem rmwAct_goes (hp : ∀ x ∈ xs, s.absent x.place = false) (hc : s.clash (fun _ => true) (rmwBytes k f) (globals xs) = false)
    (hr : rmwReturns k f = false → xs ≠ [] → s.cur.rem.length < 255) (hw : (globals xs).isEmpty = false → s.cur.window = .free) :
    rmwAct s i k f xs s m = some (s.rmwDone k f xs).advance := by
  have hopen : (if (globals xs).isEmpty then some s else s.openWindow) = some s := by
    cases he : (globals xs).isEmpty with
    | true => rfl
    | false => exact State.openWindow_free (hw he)
  have hroom : (!rmwReturns k f && !xs.isEmpty && decide (255 ≤ s.cur.rem.length)) = false := by
    cases hret : rmwReturns k f
    · cases xs with
      | nil => rfl
      | cons x xs =>
        have := hr hret (List.cons_ne_nil x xs)
        simpa using this
    · rfl
  have hser : (s.rmwNear s.cur k f xs).cur.wserial = s.cur.wserial := by
    obtain ⟨R, L, U, F, h⟩ := s.cur_rmwNear (k := k) (f := f) (xs := xs) s.cur
    rw [h]
  rw [rmwAct, State.present_go hp, if_neg (by rw [hc]; exact Bool.false_ne_true), if_neg (by rw [hroom]; exact Bool.false_ne_true), hopen, Option.map_some]
  dsimp only
  rw [hser]
  rfl

theorem State.cur_rmwDone : ∃ R, (s.rmwDone k f xs).cur
    = { (s.rmwSent s.cur k f xs).cur with rem := R, nRem := (s.rmwSent s.cur k f xs).cur.nRem + if !rmwReturns k f && !xs.isEmpty then 1 else 0 } := by
  unfold State.rmwDone
  split
  · rw [State.cur_setCur]
    split
    · exact ⟨_, rfl⟩
    · exact ⟨_, rfl⟩
  · exact ⟨_, rfl⟩

theorem State.cur_rmwSent : ∃ O L U Q N, (s.rmwSent s.cur k f xs).cur = { (s.rmwNear s.cur k f xs).cur with
    outs := O, late := L, unknowns := U, nReq := Q, notices := N
    wserial := if !(globals xs).isEmpty then (s.rmwNear s.cur k f xs).cur.wserial + 1 else (s.rmwNear s.cur k f xs).cur.wserial } := by
  obtain ⟨-, ⟨O, L, U, Q, N, hcur⟩, -⟩ := (s.rmwNear s.cur k f xs).sendAll_spec (rmwOp k f (s.launchOf s.iss.gid).determ) f.scope f.ord true
    (rmwDst k f) ((globals xs).map (s.cur.rmwRec k f))
  refine ⟨O, L, U, Q, N, hcur.trans ?_⟩
  simp

theorem State.sameSend_rmwDone : (s.rmwNear s.cur k f xs).sameSend (s.rmwDone k f xs) := by
  have h := State.sameSend_sendAll (s.rmwNear s.cur k f xs) (rmwOp k f (s.launchOf s.iss.gid).determ) f.scope f.ord true
    (rmwDst k f) ((globals xs).map (s.cur.rmwRec k f))
  unfold State.rmwDone
  split
  · unfold State.sameSend at *
    rw [State.rmwSent, h]
    rfl
  · exact h

theorem State.cores_sameSend {t u : State} (h : t.sameSend u) : u.cores = t.cores := by rw [h]

/-- The near lanes' operations do not see the pages' counts. -/
theorem State.sameCore_rmwNear (g : Group) : (s.rmwLocal (rmwOp k f (s.launchOf s.iss.gid).determ) (rmwBytes k f) (rmwDst k f)
    (fun l => g.words l (rmwOperands k f)) (pads xs)).sameCore (s.rmwNear g k f xs) := by
  refine State.sameCore_rmwLocal (fun x hx => ?_) (s.sameCore_countPages _ _ _)
  rw [pads_eq] at hx
  simpa using (List.mem_filter.1 hx).2

end act

end word

end Sys2Proof.Machine

namespace Sys2Proof
open Machine

/-- Settles O20: the near lanes' operations, then the far lanes' requests, then the count. -/
theorem atomics : Obligations.Atomics := by
  unfold Obligations.Atomics
  intro s f m k i hi n ops res xs near far some_ farLane returns d determ op permitted meets hc
  have he : exec i s = _ := (exec_rmw hi).trans (State.rmw_eq hc)
  refine ⟨State.runX_faultsAs hc he State.rmwFaults_eq, fun hok hfar hclash hrem => ?_⟩
  intro u
  have hplace : ∀ x ∈ xs, s.absent x.place = false := fun x hx => by
    obtain ⟨hm, hr⟩ := mem_lanePlaces.1 hx
    obtain ⟨p, hp, ha, -⟩ := hok x.lane hm
    rw [hr] at hp
    cases hp
    exact ha
  have hfault : s.rmwFaults k f n res m = none := by
    refine State.rmwFaults_eq.trans (laneFaults_none fun l hl => ?_)
    obtain ⟨p, hp, -, hm⟩ := hok l hl
    refine State.rmwFault_none hp hm fun hk => (hfar ?_).1
    have hx : (⟨l, (res l).1, p⟩ : LaneAcc) ∈ far := List.mem_filter.2 ⟨lanePlaces_of_ok hl hp, bne_iff_ne.2 hk⟩
    show (!far.isEmpty) = true
    rw [List.isEmpty_eq_false_iff.2 (List.ne_nil_of_mem hx)]
    rfl
  have hnil : xs ≠ [] ↔ m ≠ 0 := by
    constructor
    · rintro hx rfl
      obtain ⟨x, hx⟩ := List.exists_mem_of_ne_nil _ hx
      simpa using (mem_lanePlaces.1 hx).1
    · intro hm
      obtain ⟨p, hp, -⟩ := hok (lead m) (getLsbD_lead hm)
      exact List.ne_nil_of_mem (lanePlaces_of_ok (getLsbD_lead hm) hp)
  have hgo := rmwAct_goes (i := i) (m := m) hplace hclash (fun hret hx => hrem hret (hnil.1 hx)) fun hf => (hfar (by
    show (!far.isEmpty) = true
    rw [show far.isEmpty = false from hf]
    rfl)).2
  obtain ⟨hiss, hcur, hcores⟩ := s.sameCore_rmwNear (k := k) (f := f) (xs := xs) s.cur
  obtain ⟨E, hdone⟩ := s.cur_rmwDone (k := k) (f := f) (xs := xs)
  obtain ⟨O, L, U, Q, N, hsent⟩ := s.cur_rmwSent (k := k) (f := f) (xs := xs)
  obtain ⟨R, L', U', F, hnear⟩ := s.cur_rmwNear (k := k) (f := f) (xs := xs) s.cur
  have hu : u = s.rmwLocal (rmwOp k f (s.launchOf s.iss.gid).determ) (rmwBytes k f) (rmwDst k f) (fun l => s.cur.words l (rmwOperands k f)) (pads xs) := by
    rw [pads_eq]
    rfl
  rw [← hu] at hcur hcores
  have houts : (s.rmwDone k f xs).advance.afterX.cur.outs = ((s.rmwNear s.cur k f xs).sendAll (rmwOp k f (s.launchOf s.iss.gid).determ) f.scope f.ord
      true (rmwDst k f) ((globals xs).map (s.cur.rmwRec k f))).cur.outs := by
    rw [State.cur_next, State.outs_passed, hdone]
    rfl
  have hlanes (l : Nat) (_ : l < 32) : (∃ y ∈ (globals xs).map (s.cur.rmwRec k f), y.lane = l) ↔ m.getLsbD l = true ∧ farLane l = true := by
    rw [List.any_eq_true]
    constructor
    · rintro ⟨y, hy, rfl⟩
      obtain ⟨x, hx, rfl⟩ := List.mem_map.1 hy
      exact ⟨(mem_lanePlaces.1 (List.mem_filter.1 hx).1).1, x, hx, decide_eq_true rfl⟩
    · rintro ⟨-, x, hx, hl⟩
      exact ⟨_, List.mem_map_of_mem hx, of_decide_eq_true hl⟩
  refine ⟨_, he.trans (congrArg _ (State.runX_next hc hfault hgo)), fun l q => ?_, ?_, fun c a => ?_, ?_, ?_, ?_, ?_, fun hd => ?_, fun hx a => ?_⟩
  · rw [State.cur_next, State.v_passed, ← hcur, hdone, hsent]
    rfl
  · rw [State.cur_next, State.fpflags_passed, ← hcur, hdone, hsent]
  · rw [State.padByte, State.core_afterX, State.core_advance, State.core, State.cores_sameSend s.sameSend_rmwDone, hcores]
    rfl
  · rw [State.cur_next]
    refine State.stands_passed ?_ ?_
    · rw [hdone, hsent, hnear]
    · rw [State.iss_sameSend s.sameSend_rmwDone, State.iss_rmwNear]
  · rw [State.cur_next, State.wserial_passed, hdone, hsent, hnear]
    show (if (!far.isEmpty) = true then s.cur.wserial + 1 else s.cur.wserial) = s.cur.wserial + if (!far.isEmpty) = true then 1 else 0
    split
    · rfl
    · exact (BitVec.add_zero _).symm
  · rw [State.cur_next, State.nRem_passed, hdone, hsent, hnear]
    refine congrArg (s.cur.nRem + ·) ?_
    by_cases hret : rmwReturns k f = true
    · rw [if_neg (by rw [hret]; exact Bool.false_ne_true), if_pos (.inl hret)]
    · by_cases hm : m = 0
      · have hxs : xs = [] := by_contra fun hx => hnil.1 hx hm
        rw [if_neg (by rw [hxs]; simp), if_pos (.inr hm)]
      · have hxs : xs.isEmpty = false := List.isEmpty_eq_false_iff.2 (hnil.2 hm)
        rw [if_pos (by rw [hxs]; simpa using hret), if_neg (not_or.2 ⟨hret, hm⟩)]
  · refine Requested.of_sendAll (s := s.rmwNear s.cur k f xs) (by rw [hnear]) (by rw [State.iss_rmwNear]) houts ?_ hlanes
    rw [if_pos rfl, hnear]
  · refine Awaited.of_sendAll (s := s.rmwNear s.cur k f xs) hd houts ?_ ?_ hlanes
    · rw [State.cur_next, State.late_passed, hdone]
      rfl
    · rw [if_pos rfl, hnear]
  · rw [State.rd_next, State.rd_sameSend s.sameSend_rmwDone, State.rmwNear, State.rd_rmwLocal,
      State.countPages_uncounted _ _ _ _ (uncounted_places hx)]

end Sys2Proof

/-! PROOF. Stores: near lanes write in lane order, to memory or to the team's buffer, far ones send requests; a full buffer commits first
(spec/15_isa_memory_atomics_sync.md R318 to R321, spec/07_memory_model.md R159, spec/10_determinism_and_reliability.md R240). -/
namespace Sys2Proof.Machine

/-! ### A list of writes (R320, R159) -/

/-- Writes one after another; the whole does not happen when one finds no chunk of the buffer. -/
def State.writeAll (s : State) (held : Bool) (ws : List (Place × List Byte)) : Option State :=
  ws.foldl (fun so w => so.bind fun s => s.writePlace (groupTeam s.iss.gid) held w.1 w.2) (some s)

section writes
variable {s w t : State} {held : Bool} {p : Place} {bs : List Byte} {ws : List (Place × List Byte)} {tk : Nat}

theorem State.writeLanes_eq (xs : List LaneAcc) (bytes : Nat → List (Place × List Byte)) :
    s.writeLanes held xs bytes = s.writeAll held (xs.flatMap fun x => bytes x.lane) := by
  rw [State.writeLanes, State.writeAll, List.foldl_flatMap]

theorem foldl_bind_none {α β : Type} (f : α → β → Option α) (l : List β) : l.foldl (fun so b => so.bind fun a => f a b) none = none := by
  induction l with
  | nil => rfl
  | cons b l ih => exact ih

theorem State.writeAll_cons (x : Place × List Byte) :
    s.writeAll held (x :: ws) = (s.writePlace (groupTeam s.iss.gid) held x.1 x.2).bind fun t => t.writeAll held ws := by
  rw [State.writeAll, List.foldl_cons, Option.bind_some]
  cases s.writePlace (groupTeam s.iss.gid) held x.1 x.2 with
  | none => exact foldl_bind_none (fun s w => State.writePlace s (groupTeam s.iss.gid) held w.1 w.2) ws
  | some t => rfl

/-- The package but for its memory, scratchpads, store buffers and hart reservations is as it was. -/
def State.sameButStore (s t : State) : Prop := t = { s with mem := t.mem, harts := t.harts, cores := t.cores, teams := t.teams }

theorem State.sameButStore_writePlace (h : s.writePlace tk held p bs = some w) : s.sameButStore w ∧ (held = false → w.teams = s.teams) := by
  by_cases hk : p.kind = 3
  · rw [State.writePlace_pad hk h]
    exact ⟨rfl, fun _ => rfl⟩
  · cases hh : held with
    | true =>
      obtain ⟨t, rfl⟩ := State.writePlace_held hk hh h
      exact ⟨rfl, fun hf => by cases hf⟩
    | false =>
      rw [State.writePlace_memory hk hh h]
      have hb := s.sameButBytes_memWrite p.pa bs
      unfold State.sameButBytes State.sameButStore at *
      rw [hb]
      exact ⟨rfl, fun _ => rfl⟩

theorem State.sameButStore_writeAll (h : s.writeAll held ws = some w) : s.sameButStore w ∧ (held = false → w.teams = s.teams) := by
  induction ws generalizing s with
  | nil =>
    obtain rfl := Option.some.inj h
    exact ⟨rfl, fun _ => rfl⟩
  | cons x ws ih =>
    rw [State.writeAll_cons, Option.bind_eq_some_iff] at h
    obtain ⟨t, ht, h⟩ := h
    obtain ⟨h1, ht1⟩ := State.sameButStore_writePlace ht
    obtain ⟨h2, ht2⟩ := ih h
    refine ⟨?_, fun hh => (ht2 hh).trans (ht1 hh)⟩
    unfold State.sameButStore at *
    rw [h2, h1]

/-- Writes that are not held all happen. -/
theorem State.writeAll_unheld (s : State) (ws : List (Place × List Byte)) : ∃ w, s.writeAll false ws = some w := by
  induction ws generalizing s with
  | nil => exact ⟨s, rfl⟩
  | cons x ws ih =>
    obtain ⟨t, ht⟩ : ∃ t, s.writePlace (groupTeam s.iss.gid) false x.1 x.2 = some t := by
      unfold State.writePlace
      split
      · exact ⟨_, rfl⟩
      · exact ⟨_, rfl⟩
    rw [State.writeAll_cons, ht]
    exact ih t

/-- A held store takes at most one chunk more, and happens while one is free (R240). -/
theorem Team.holdBytes_room {t : Team} (pa : Nat) (page : Nat × Nat) (h : t.buffer.length < Config.holdChunks) :
    ∃ u, t.holdBytes pa page bs = some u ∧ u.buffer.length ≤ t.buffer.length + 1 := by
  unfold Team.holdBytes
  dsimp only
  split
  · exact ⟨_, rfl, by simp⟩
  · rw [if_neg (Nat.not_le.2 h)]
    exact ⟨_, rfl, by simp⟩

theorem State.writePlace_room (p : Place) (bs : List Byte) (h : (s.team tk).buffer.length < Config.holdChunks) :
    ∃ w, s.writePlace tk true p bs = some w ∧ (w.team tk).buffer.length ≤ (s.team tk).buffer.length + 1 := by
  unfold State.writePlace
  split
  · exact ⟨_, rfl, Nat.le_succ _⟩
  · obtain ⟨t, ht, hlen⟩ := Team.holdBytes_room (bs := bs) p.pa (p.va.toNat / 2 ^ p.shift, p.shift) h
    rw [if_pos rfl, ht]
    exact ⟨_, rfl, by rw [State.team_setTeam]; exact hlen⟩

/-- Writes for each of which a chunk is free all happen. -/
theorem State.writeAll_room (s : State) (ws : List (Place × List Byte))
    (h : (s.team (groupTeam s.iss.gid)).buffer.length + ws.length ≤ Config.holdChunks) : ∃ w, s.writeAll true ws = some w := by
  induction ws generalizing s with
  | nil => exact ⟨s, rfl⟩
  | cons x ws ih =>
    rw [List.length_cons] at h
    obtain ⟨t, ht, hlen⟩ := State.writePlace_room (s := s) (tk := groupTeam s.iss.gid) x.1 x.2 (by omega)
    have hi : t.iss = s.iss := by rw [(State.sameButStore_writePlace ht).1]
    rw [State.writeAll_cons, ht]
    exact ih t (by rw [hi]; omega)

end writes

section lanes
variable {m : Lanes} {res : Resolver} {xs : List LaneAcc} {x : LaneAcc}

/-- Of accesses in lane order, those of a lane are its own one. -/
theorem filter_lane (hs : xs.Pairwise (·.lane < ·.lane)) (hx : x ∈ xs) : (xs.filter fun y => y.lane = x.lane) = [x] := by
  induction xs with
  | nil => cases hx
  | cons y ys ih =>
    have hlt := fun z hz => List.rel_of_pairwise_cons (a' := z) hs hz
    rcases List.mem_cons.1 hx with rfl | hx
    · rw [List.filter_cons_of_pos (by simp), List.filter_eq_nil_iff.2 fun z hz => by have := hlt z hz; simp; omega]
    · rw [List.filter_cons_of_neg (by have := hlt x hx; simp; omega), ih hs.of_cons hx]

theorem length_lanePlaces : (lanePlaces m res).length ≤ 32 :=
  (List.length_filterMap_le _ _).trans ((List.length_filter_le _ _).trans (by simp))

end lanes

/-! ### The word (R320, R321) -/

section word
variable {s v w : State} {f : XM} {m : Lanes}

/-- The resolution of a store's lanes, and their accesses. -/
def State.stRes (s : State) (f : XM) : Resolver := s.plainRes f.addr (offWhole f) (widthBytes f.width) (widthBytes f.width) true
def State.stAccs (s : State) (f : XM) (m : Lanes) : List LaneAcc := lanePlaces m (s.stRes f)

/-- The bytes that a lane writes. -/
def Group.stPut (g : Group) (f : XM) (xs : List LaneAcc) (l : Nat) : List (Place × List Byte) :=
  (xs.filter fun x => x.lane = l).map fun x => (x.place, leBytes (widthBytes f.width) (wordsVal (g.words l (dataRegs f))))

/-- The record of a far lane. -/
def Group.stRec (g : Group) (f : XM) (x : LaneAcc) : ReqLane :=
  { lane := x.lane, place := x.place, va := x.va, data := g.words x.lane (dataRegs f) }

/-- The needs of a store, whose bytes find the buffer full or not. -/
def State.stNeeds (s : State) (f : XM) (xs : List LaneAcc) (full : Bool) : Needs :=
  s.storeNeeds { guard := f.guard, regs := addrRegs f ++ dataRegs f, reads := addrRegs f ++ dataRegs f } f xs full

/-- The fault of a lane's store. -/
def State.stFault (s : State) (f : XM) (l : Nat) : Option (Nat × Dword) :=
  match (s.stRes f l).2 with
  | .error c => some (c, (s.stRes f l).1)
  | .ok p => if p.kind = 2 ∧ s.lastSerial = true then some (0x11, (s.stRes f l).1) else none

/-- The requests of the far lanes, and their count in `.rem`. -/
def State.stSent (v : State) (g : Group) (f : XM) (xs : List LaneAcc) : State :=
  let u := v.countPages v.iss.gid (xs.map (·.place))
  let t := u.sendAll (.store (widthBytes f.width)) f.scope f.ord true [] ((remotes xs).map (g.stRec f))
  if (remotes xs).isEmpty then t else t.setCur (t.cur.addRem u.cur.wserial)

/-- What a store does. -/
def stAct (s0 : State) (f : XM) (xs : List LaneAcc) (s : State) (m : Lanes) : Option State :=
  s.present (.st f) m xs fun s =>
    if s.clash (fun x => x.place.kind = 2) (widthBytes f.width) xs then none
    else if !(remotes xs).isEmpty && 255 ≤ s0.cur.rem.length then none
    else
      (if (remotes xs).isEmpty then some s else s.openWindow).bind fun s =>
        (s.storeLanes (locals xs) (s0.cur.stPut f xs)).map fun s => (s.stSent s0.cur f xs).advance

theorem State.exec_st (h : s.Clear (s.stNeeds f (s.stAccs f m) (s.writeLanes s.cur.hold (locals (s.stAccs f m)) (s.cur.stPut f (s.stAccs f m))).isNone) m) :
    exec (.st f) s = .next (s.runX
      (s.stNeeds f (s.stAccs f m) (s.writeLanes s.cur.hold (locals (s.stAccs f m)) (s.cur.stPut f (s.stAccs f m))).isNone)
      (fun m => laneFaults m (s.stFault f)) (stAct s f (s.stAccs f m))) := by
  have hact : s.cur.active s.iss.run f.guard = m := h.active.symm
  have hfault (m : Lanes) : (laneFaults m fun l => match s.stRes f l with
      | (a, .error c) => some (c, a)
      | (a, .ok p) => if p.kind = 2 && s.lastSerial then some (0x11, a) else none) = laneFaults m (s.stFault f) := by
    congr 1
    funext l
    unfold State.stFault
    obtain ⟨a, c | p⟩ := s.stRes f l
    · rfl
    · simp
  show execSt f s = _
  unfold execSt State.reach
  dsimp only
  rw [hact]
  exact congrArg (fun d : Lanes → Option DataFault => (.next (s.runX _ d _) : Out)) (funext hfault)

theorem State.putLanes_some {xs : List LaneAcc} {bytes : Nat → List (Place × List Byte)} (h : s.writeLanes s.cur.hold xs bytes = some w) :
    ∃ v, s.putLanes xs bytes = some v ∧ v = { w with poison := v.poison } := by
  rw [State.putLanes, h]
  refine ⟨_, rfl, ?_⟩
  split
  · rfl
  · exact State.clearCovered_only ..

theorem State.putLanes_none {xs : List LaneAcc} {bytes : Nat → List (Place × List Byte)} (h : s.writeLanes s.cur.hold xs bytes = none) :
    s.putLanes xs bytes = none := by
  rw [State.putLanes, h]
  rfl

theorem State.cur_of_sameButStore {t : State} (h : s.sameButStore t) : t.cur = s.cur := State.cur_of_eq (by rw [h]) (by rw [h])

theorem State.iss_of_sameButStore {t : State} (h : s.sameButStore t) : t.iss = s.iss := by rw [h]

/-- The requests of a store, and its count, change of the package the group's lists and counters alone. -/
theorem State.cur_stSent (g : Group) (xs : List LaneAcc) : ∃ O L U Q N R, (v.stSent g f xs).cur = { v.cur with
    outs := O, late := L, unknowns := U, nReq := Q, notices := N, rem := R
    wserial := if (remotes xs).isEmpty then v.cur.wserial else v.cur.wserial + 1
    nRem := if (remotes xs).isEmpty then v.cur.nRem else v.cur.nRem + 1 } := by
  obtain ⟨-, ⟨O, L, U, Q, N, hcur⟩, -⟩ := (v.countPages v.iss.gid (xs.map (·.place))).sendAll_spec (.store (widthBytes f.width)) f.scope f.ord true []
    ((remotes xs).map (g.stRec f))
  rw [State.cur_countPages] at hcur
  unfold State.stSent
  dsimp only
  cases he : (remotes xs).isEmpty with
  | true => exact ⟨O, L, U, Q, N, v.cur.rem, hcur.trans (by simp [he])⟩
  | false =>
    rw [List.isEmpty_map, he] at hcur
    refine ⟨O, L, U, Q, N, v.cur.rem ++ [{ serial := some v.cur.wserial, seq := v.cur.nRem, done := false }], (State.cur_setCur ..).trans ?_⟩
    rw [Group.addRem, hcur, State.cur_countPages]
    rfl

theorem State.outs_stSent (g : Group) (xs : List LaneAcc) : (v.stSent g f xs).advance.afterX.cur.outs
    = ((v.countPages v.iss.gid (xs.map (·.place))).sendAll (.store (widthBytes f.width)) f.scope f.ord true [] ((remotes xs).map (g.stRec f))).cur.outs := by
  rw [State.cur_next, State.outs_passed]
  unfold State.stSent
  dsimp only
  split
  · rfl
  · rw [State.cur_setCur]
    rfl

theorem State.sameSend_stSent (g : Group) (xs : List LaneAcc) : (v.countPages v.iss.gid (xs.map (·.place))).sameSend (v.stSent g f xs) := by
  have h := State.sameSend_sendAll (v.countPages v.iss.gid (xs.map (·.place))) (.store (widthBytes f.width)) f.scope f.ord true []
    ((remotes xs).map (g.stRec f))
  unfold State.stSent
  dsimp only
  split
  · exact h
  · unfold State.sameSend at *
    rw [h]
    rfl

theorem State.iss_stSent (g : Group) (xs : List LaneAcc) : (v.stSent g f xs).iss = v.iss := by
  rw [State.iss_sameSend (State.sameSend_stSent g xs), State.iss_countPages]

theorem State.teams_stSent (g : Group) (xs : List LaneAcc) : (v.stSent g f xs).teams = v.teams := by
  rw [State.sameSend_stSent g xs, State.sameButLog_countPages]

theorem State.cores_stSent (g : Group) (xs : List LaneAcc) : (v.stSent g f xs).cores = v.cores := by
  rw [State.sameSend_stSent g xs, State.sameButLog_countPages]

theorem State.rd_stSent (g : Group) {xs : List LaneAcc} (h : ∀ p ∈ xs.map (·.place), p.ac = none) (a : Nat) : (v.stSent g f xs).rd a = v.rd a := by
  rw [State.rd_sameSend (State.sameSend_stSent g xs), State.countPages_uncounted _ _ _ _ h]

/-- The lanes' requests may go at once. -/
def State.stOpen (s : State) (f : XM) (xs : List LaneAcc) : Prop :=
  (∀ x ∈ xs, s.absent x.place = false) ∧ s.clash (fun x => x.place.kind = 2) (widthBytes f.width) xs = false
    ∧ ((remotes xs).isEmpty = false → s.cur.rem.length < 255 ∧ s.cur.window = .free)

theorem stAct_open {xs : List LaneAcc} (h : s.stOpen f xs) :
    stAct s f xs s m = (s.storeLanes (locals xs) (s.cur.stPut f xs)).map fun v => (v.stSent s.cur f xs).advance := by
  obtain ⟨hp, hc, hr⟩ := h
  have hopen : (if (remotes xs).isEmpty then some s else s.openWindow) = some s := by
    cases he : (remotes xs).isEmpty with
    | true => rfl
    | false => exact State.openWindow_free (hr he).2
  have hroom : (!(remotes xs).isEmpty && decide (255 ≤ s.cur.rem.length)) = false := by
    cases he : (remotes xs).isEmpty with
    | true => rfl
    | false => simpa using (hr he).1
  rw [stAct, State.present_go hp, if_neg (by rw [hc]; exact Bool.false_ne_true), if_neg (by rw [hroom]; exact Bool.false_ne_true), hopen, Option.bind_some]

theorem State.mem_stRemotes (g : Group) {l : Nat} :
    (∃ y ∈ (remotes (s.stAccs f m)).map (g.stRec f), y.lane = l) ↔ m.getLsbD l = true ∧ farLane (s.stRes f) l = true :=
  mem_remotes_lane (g.stRec f) fun _ => rfl

/-- The far lanes' requests, sent from a state whose outstanding list is that of `s`. -/
theorem State.requested_st {u : State} (houts : v.cur.outs = s.cur.outs) (hi : v.iss.pc = s.iss.pc) (hn : v.cur.wserial = s.cur.wserial)
    (hu : u.cur.outs = ((v.countPages v.iss.gid ((s.stAccs f m).map (·.place))).sendAll (.store (widthBytes f.width)) f.scope f.ord true []
      ((remotes (s.stAccs f m)).map (s.cur.stRec f))).cur.outs) :
    Requested s u m (farLane (s.stRes f)) (.store (widthBytes f.width)) true s.cur.wserial := by
  refine Requested.of_sendAll (dst := []) ?_ ?_ hu ?_ fun l _ => State.mem_stRemotes s.cur
  · rw [State.cur_countPages, houts]
  · rw [State.iss_countPages, hi]
  · rw [if_pos rfl, State.cur_countPages, hn]

/-- A store issued from the state `u`, which is `s` or `s` after a commit, and its near lanes' bytes make `w`. -/
structure StoredAs (s u w t : State) (f : XM) (m : Lanes) : Prop where
  regs : t.cur.v = s.cur.v
  pcs : Stands s t.cur 0 fun _ => 0
  flags : t.cur.fpflags = s.cur.fpflags
  hold : t.cur.hold = u.cur.hold
  serial : t.cur.wserial = s.cur.wserial + if (!(remotes (s.stAccs f m)).isEmpty) = true then 1 else 0
  count : t.cur.nRem = s.cur.nRem + if (!(remotes (s.stAccs f m)).isEmpty) = true then 1 else 0
  requests : Requested s t m (farLane (s.stRes f)) (.store (widthBytes f.width)) true s.cur.wserial
  team : t.teams = w.teams
  pads : t.cores = w.cores
  mem : Uncounted m (s.stRes f) → ∀ a, t.rd a = w.rd a
  region : t.cur.ckpt = u.cur.ckpt

theorem State.storedAs {u : State} (hu : ∃ H C R I S, u.cur = { s.cur with hold := H, ckpt := C, rstart := R, inBar := I, steps := S })
    (hi : u.iss = s.iss) (hw : u.sameButStore w) (hv : v = { w with poison := v.poison }) :
    StoredAs s u w (v.stSent s.cur f (s.stAccs f m)).advance.afterX f m := by
  obtain ⟨H, C, R, I, S, hu⟩ := hu
  have hvu : v.cur = u.cur := (State.cur_of_eq (by rw [hv]) (by rw [hv])).trans (State.cur_of_sameButStore hw)
  have hvi : v.iss = s.iss := by rw [hv, ← hi, State.iss_of_sameButStore hw]
  obtain ⟨O, L, U, Q, N, R', hcur⟩ := State.cur_stSent (v := v) (f := f) s.cur (s.stAccs f m)
  rw [hvu] at hcur
  constructor
  case regs =>
    rw [State.cur_next, State.v_passed, hcur, hu]
    exact Group.v_of_regs rfl
  case pcs =>
    rw [State.cur_next]
    refine State.stands_passed ?_ ?_
    · rw [hcur, hu]
    · rw [State.iss_stSent, hvi]
  case flags => rw [State.cur_next, State.fpflags_passed, hcur, hu]
  case hold => rw [State.cur_next, State.passed, Group.advance, hcur]
  case serial =>
    rw [State.cur_next, State.wserial_passed, hcur, hu]
    cases (remotes (s.stAccs f m)).isEmpty with
    | true => exact (BitVec.add_zero _).symm
    | false => rfl
  case count =>
    rw [State.cur_next, State.nRem_passed, hcur, hu]
    cases (remotes (s.stAccs f m)).isEmpty <;> rfl
  case requests =>
    exact State.requested_st (by rw [hvu, hu]) (by rw [hvi]) (by rw [hvu, hu]) (State.outs_stSent s.cur (s.stAccs f m))
  case team => rw [State.teams_afterX, show (State.advance _).teams = (v.stSent s.cur f (s.stAccs f m)).teams from rfl, State.teams_stSent, hv]
  case pads => rw [State.cores_afterX, show (State.advance _).cores = (v.stSent s.cur f (s.stAccs f m)).cores from rfl, State.cores_stSent, hv]
  case mem =>
    intro hx a
    exact (State.rd_next a).trans ((State.rd_stSent s.cur (xs := s.stAccs f m) (uncounted_places hx) a).trans (by rw [State.rd, hv, State.rd]))
  case region => rw [State.cur_next, State.passed, Group.advance, hcur]

/-- The near lanes' bytes are at most 32 writes. -/
theorem State.length_stPut (s : State) (f : XM) (m : Lanes) :
    ((locals (s.stAccs f m)).flatMap fun x => s.cur.stPut f (s.stAccs f m) x.lane).length ≤ 32 := by
  have hone : ∀ x ∈ locals (s.stAccs f m), (s.cur.stPut f (s.stAccs f m) x.lane).length = 1 := fun x hx => by
    rw [Group.stPut, State.stAccs, filter_lane lanePlaces_sorted (List.mem_filter.1 hx).1]
    rfl
  rw [List.length_flatMap, List.map_congr_left hone, List.map_const', List.sum_replicate, smul_eq_mul, mul_one]
  exact (List.length_filter_le _ _).trans length_lanePlaces

/-- A store whose bytes find a chunk each is not held up by the buffer. -/
theorem State.writeLanes_room (h : (s.team (groupTeam s.iss.gid)).buffer.length + 32 ≤ Config.holdChunks) :
    ∃ w, s.writeLanes s.cur.hold (locals (s.stAccs f m)) (s.cur.stPut f (s.stAccs f m)) = some w := by
  rw [State.writeLanes_eq]
  cases hh : s.cur.hold with
  | false => exact State.writeAll_unheld ..
  | true => exact State.writeAll_room _ _ (by have := s.length_stPut f m; omega)

end word



end Sys2Proof.Machine

namespace Sys2Proof
open Machine

/-- Settles O15: the near lanes' writes, after a commit when the buffer is full, then the far lanes' requests. -/
theorem stores : Obligations.Stores := by
  unfold Obligations.Stores
  intro s f m n res xs some_ tk put regs full needs ready stored
  have hopen (hr : ready) : s.stOpen f xs ∧ laneFaults m (s.stFault f) = none := by
    obtain ⟨hok, hclash, hfar⟩ := hr
    have hfar' : (remotes xs).isEmpty = false → s.lastSerial = false ∧ s.cur.rem.length < 255 ∧ s.cur.window = .free := fun h =>
      hfar (by show (!(remotes xs).isEmpty) = true; rw [h]; rfl)
    refine ⟨⟨fun x hx => ?_, hclash, fun h => (hfar' h).2⟩, laneFaults_none fun l hl => ?_⟩
    · obtain ⟨hm, hr⟩ := mem_lanePlaces.1 hx
      obtain ⟨p, hp, ha⟩ := hok x.lane hm
      rw [hr] at hp
      cases hp
      exact ha
    · obtain ⟨p, hp, -⟩ := hok l hl
      rw [State.stFault, show (s.stRes f l).2 = .ok p from hp]
      refine if_neg ?_
      rintro ⟨hk, hlast⟩
      have hx : (⟨l, (res l).1, p⟩ : LaneAcc) ∈ remotes xs := List.mem_filter.2 ⟨lanePlaces_of_ok hl hp, decide_eq_true hk⟩
      rw [(hfar' (List.isEmpty_eq_false_iff.2 (List.ne_nil_of_mem hx))).1] at hlast
      cases hlast
  have hdone {u w t : State} (h : StoredAs s u w t f m) (hw : u.writeLanes u.cur.hold (locals xs) put = some w) : stored u t :=
    ⟨h.regs, h.pcs, h.flags, h.hold, h.serial, h.count, h.requests, w, hw, by rw [State.team, h.team, State.team],
      fun c a => by rw [State.padByte, State.core, h.pads, State.padByte, State.core], h.mem⟩
  refine ⟨fun hc => State.runX_faultsAs hc (State.exec_st hc) rfl, fun hc hr hroom => ?_, fun hc hr hfull => ?_⟩
  · obtain ⟨w, hw⟩ : ∃ w, s.writeLanes s.cur.hold (locals xs) put = some w := by
      rcases hroom with hfull | hroom
      · exact Option.isSome_iff_exists.1 (by simpa [full] using hfull)
      · exact State.writeLanes_room hroom
    have hfull : (s.writeLanes s.cur.hold (locals xs) put).isNone = false := by rw [hw]; rfl
    obtain ⟨v, hput, hv⟩ := State.putLanes_some hw
    obtain ⟨ho, hf⟩ := hopen hr
    have hc' : s.Clear (s.stNeeds f xs (s.writeLanes s.cur.hold (locals xs) put).isNone) m := by
      rw [hfull]
      exact hc
    have hst := State.storedAs (s := s) (f := f) (m := m) ⟨_, _, _, _, _, rfl⟩ rfl (State.sameButStore_writeAll ((State.writeLanes_eq ..).symm.trans hw)).1 hv
    refine ⟨_, (State.exec_st hc').trans (congrArg _ (State.runX_next hc' hf ((stAct_open ho).trans ?_))), hdone hst hw, hst.region⟩
    rw [State.storeLanes, show s.putLanes (locals xs) (s.cur.stPut f xs) = some v from hput]
    rfl
  · have hnone : s.writeLanes s.cur.hold (locals xs) put = none := Option.isNone_iff_eq_none.1 hfull
    obtain ⟨ho, hf⟩ := hopen hr
    have hc' : s.Clear (s.stNeeds f xs (s.writeLanes s.cur.hold (locals xs) put).isNone) m := by
      rw [show (s.writeLanes s.cur.hold (locals xs) put).isNone = true from hfull]
      exact hc
    have hstore : s.storeLanes (locals xs) (s.cur.stPut f xs) = s.implicitCommit.bind fun s' => s'.putLanes (locals xs) (s.cur.stPut f xs) := by
      rw [State.storeLanes, show s.putLanes (locals xs) (s.cur.stPut f xs) = none from State.putLanes_none hnone]
    refine ⟨fun hmay => (State.exec_st hc').trans (congrArg _ (State.runX_stall hc' hf ((stAct_open ho).trans ?_))), fun hmay hgid => ?_⟩
    · rw [hstore, s.implicitCommit_waits hmay]
      rfl
    · have hcur : s.afterCommit.cur = Group.beginBefore { s.cur with hold := false } := by
        rw [State.afterCommit, State.cur_regionBefore, State.cur_commitTeam, if_pos hgid]
      have hhold : s.afterCommit.cur.hold = false := by rw [hcur]; rfl
      obtain ⟨w, hw⟩ := State.writeAll_unheld s.afterCommit ((locals xs).flatMap fun x => put x.lane)
      have hw' : s.afterCommit.writeLanes s.afterCommit.cur.hold (locals xs) put = some w := by rw [hhold, State.writeLanes_eq, hw]
      obtain ⟨v, hput, hv⟩ := State.putLanes_some hw'
      obtain ⟨hsame, hteams⟩ := State.sameButStore_writeAll hw
      have hst := State.storedAs (s := s) (f := f) (m := m) ⟨_, _, _, _, _, hcur⟩ s.iss_afterCommit hsame hv
      have hteam : (v.stSent s.cur f (s.stAccs f m)).advance.afterX.team tk = s.afterCommit.team tk := by
        rw [State.team, hst.team, hteams rfl, State.team]
      refine ⟨_, (State.exec_st hc').trans (congrArg _ (State.runX_next hc' hf ((stAct_open ho).trans ?_))), hdone hst hw', hst.hold.trans hhold,
        ?_, ?_, _, hst.region.trans (by rw [hcur]; rfl), rfl, rfl⟩
      · rw [hstore, s.implicitCommit_may hmay, Option.bind_some, show s.afterCommit.putLanes (locals xs) (s.cur.stPut f xs) = some v from hput]
        rfl
      · rw [hteam, State.team_afterCommit, if_pos rfl]
      · rw [hteam, State.team_afterCommit, if_pos rfl]

end Sys2Proof

/-! SUPPORT. The issue of an `.mat` operation: the pass of its group, and its entry in the list (spec/04_scheduler.md R88, R92,
spec/16_isa_copy_matrix.md R360). -/
namespace Sys2Proof.Machine

/-! ### Passes (R88) -/

section pass
variable (s : State) (gid n : Nat) (ranges : List Word)

@[simp] theorem State.iss_requestPass : (s.requestPass gid).iss = s.iss := by
  unfold State.requestPass
  dsimp only
  split
  · rfl
  · split <;> rfl

@[simp] theorem State.cur_requestPass : (s.requestPass gid).cur = s.cur := by
  unfold State.requestPass
  dsimp only
  split
  · rfl
  · split <;> rfl

/-- The use of a pass changes its quad alone. -/
theorem State.usePass_only : s.usePass n ranges = { s with quads := (s.usePass n ranges).quads } := by
  unfold State.usePass
  dsimp only
  split <;> rfl

theorem State.cur_usePass : (s.usePass n ranges).cur = s.cur := by
  rw [State.usePass_only]
  exact State.cur_of_eq rfl rfl

end pass

/-! ### The entry of an operation -/

section add
variable (s : State) (o : MatOp) (late : List Late)

/-- The group with the operation at the end of its list. -/
def Group.withMat (g : Group) (o : MatOp) (late : List Late) : Group :=
  { g.claim (late.flatMap (·.regs)) with
    mats := g.mats ++ [o], matOps := g.matOps ++ [{ serial := o.serial, seq := g.nMat, done := false, id := o.id, names := [o.b, o.c] }]
    nextOp := g.nextOp + 1, nMat := g.nMat + 1, nReq := g.nReq + 1, late := g.late ++ late }

theorem State.addMat_eq : s.addMat o late = (s.setCur (s.cur.withMat o late)).usePass o.id ([o.b, o.c].filter (· != 0)) := rfl

theorem State.cur_addMat : (s.addMat o late).cur = s.cur.withMat o late := by rw [State.addMat_eq, State.cur_usePass, State.cur_setCur]

theorem State.addMat_only : s.addMat o late = { s with groups := (s.setCur (s.cur.withMat o late)).groups, quads := (s.addMat o late).quads } := by
  rw [State.addMat_eq, State.usePass_only]
  rfl

@[simp] theorem State.iss_addMat : (s.addMat o late).iss = s.iss := by rw [State.addMat_only]

theorem State.group_addMat_ne (k : Nat) (h : k ≠ s.iss.gid) : (s.addMat o late).group k = s.group k := by
  rw [State.group, State.addMat_only]
  exact s.group_setCur_ne k _ h

theorem State.rd_addMat (a : Nat) : (s.addMat o late).rd a = s.rd a := by
  rw [State.rd, State.addMat_only]
  rfl

theorem State.slots_addMat : (s.addMat o late).slots = s.slots := by rw [State.addMat_only]

end add

/-! ### The issue -/

section issue
variable {s u : State} {i : Instr} {o : MatOp} {late : List Late} {n : Needs} {m : Lanes} {check : Option DataFault}
  {act : State → Lanes → Option State} {mk : State → MatOp × List Late}

/-- The operation joined the group's list. -/
def State.Joined (s t : State) (o : MatOp) (late : List Late) : Prop :=
  t.cur.mats = s.cur.mats ++ [o] ∧ t.cur.late = s.cur.late ++ late ∧ t.cur.nextOp = s.cur.nextOp + 1
    ∧ t.cur.matOps = s.cur.matOps ++ [{ serial := o.serial, seq := s.cur.nMat, done := false, id := o.id, names := [o.b, o.c] }]
    ∧ t.cur.nMat = s.cur.nMat + 1 ∧ t.cur.nReq = s.cur.nReq + 1
    ∧ t.cur.wserial = s.cur.wserial + (if o.serial.isSome then 1 else 0) ∧ t.cur.v = s.cur.v ∧ t.cur.fpflags = s.cur.fpflags
    ∧ Stands s t.cur 0 (fun _ => 0) ∧ s.quiet t

/-- The group after a word that joined an operation, its serial taken if it has one. -/
def Group.joins (g : Group) (o : MatOp) (late : List Late) : Group :=
  { g.withMat o late with wserial := if o.serial.isSome then g.wserial + 1 else g.wserial }

theorem Group.joins_unserialled {g : Group} (h : o.serial = none) : g.joins o late = g.withMat o late := by
  rw [Group.joins, h]
  rfl

/-- A word that joins an operation, and what else it changes, has passed. -/
theorem State.joined (hc : u.cur = s.cur.joins o late) (hi : u.iss = s.iss)
    (hg : ∀ k, k ≠ s.iss.gid → u.group k = s.group k) (hr : ∀ a, u.rd a = s.rd a) : s.Joined u.advance.afterX o late := by
  refine ⟨?_, ?_, ?_, ?_, ?_, ?_, ?_, ?_, ?_, ?_, fun k hk => ?_, fun a => ?_⟩
  · rw [State.cur_next, State.passed, Group.advance, hc]; rfl
  · rw [State.cur_next, State.late_passed, hc]; rfl
  · rw [State.cur_next, State.passed, Group.advance, hc]; rfl
  · rw [State.cur_next, State.passed, Group.advance, hc]; rfl
  · rw [State.cur_next, State.passed, Group.advance, hc]; rfl
  · rw [State.cur_next, State.passed, Group.advance, hc]; rfl
  · rw [State.cur_next, State.wserial_passed, hc]
    show (if o.serial.isSome = true then s.cur.wserial + 1 else s.cur.wserial) = _
    split
    · rfl
    · exact (BitVec.add_zero _).symm
  · rw [State.cur_next, State.v_passed, hc]
    exact Group.v_of_regs rfl
  · rw [State.cur_next, State.fpflags_passed, hc]; rfl
  · rw [State.cur_next]
    exact State.stands_passed (by rw [hc]; rfl) (by rw [hi])
  · rw [State.group_afterX_ne _ _ (by rw [show u.advance.iss.gid = u.iss.gid from rfl, hi]; exact hk), State.group_advance_ne _ _ (by rw [hi]; exact hk), hg k hk]
  · rw [State.rd_next, hr]

theorem State.joined_addMat (h : o.serial = none) : s.Joined (s.addMat o late).advance.afterX o late :=
  State.joined ((s.cur_addMat o late).trans (Group.joins_unserialled h).symm) (s.iss_addMat o late) (s.group_addMat_ne o late) (s.rd_addMat o late)

/-- The three cases of an issue: in a pass, without one, and at 255 outstanding. -/
def State.Issues (s : State) (i : Instr) (o : MatOp) (late : List Late) : Prop :=
  (s.cur.outstanding 1 < 255 → s.holdsPass s.iss.gid = true → ∃ t, exec i s = .next t ∧ s.Joined t o late)
    ∧ (s.cur.outstanding 1 < 255 → s.holdsPass s.iss.gid = false → exec i s = .next (s.requestPass s.iss.gid))
    ∧ (255 ≤ s.cur.outstanding 1 → exec i s = .next s)

theorem State.issueMat_waits (h : 255 ≤ s.cur.outstanding 1) : s.issueMat mk = none := if_pos h

theorem State.issueMat_asks (h : s.cur.outstanding 1 < 255) (hp : s.holdsPass s.iss.gid = false) : s.issueMat mk = some (s.requestPass s.iss.gid) := by
  rw [State.issueMat, if_neg (Nat.not_le.2 h), State.withPass, if_neg (by rw [hp]; exact Bool.false_ne_true)]

theorem State.issueMat_adds (h : s.cur.outstanding 1 < 255) (hp : s.holdsPass s.iss.gid = true) (hmk : mk s = (o, late)) :
    s.issueMat mk = some (s.addMat o late) := by
  rw [State.issueMat, if_neg (Nat.not_le.2 h), State.withPass, if_pos hp, hmk]

theorem advanceIf_asked (gid : Nat) : advanceIf s (s.requestPass gid) = s.requestPass gid := if_pos (by rw [State.cur_requestPass])

theorem advanceIf_added : advanceIf s (s.addMat o late) = (s.addMat o late).advance := by
  refine if_neg ?_
  rw [State.cur_addMat]
  exact Nat.succ_ne_self s.cur.nextOp

/-- A word that only joins an operation. -/
theorem State.issues_of (hc : s.Clear { n with coll := true } m) (hm : m ≠ 0) (hi : s.iss.issued = false) (he : exec i s = s.runM n check act)
    (hcheck : check = none) (ha : act s m = (s.issueMat mk).map (advanceIf s)) (hmk : mk s = (o, late)) (hs : o.serial = none) : s.Issues i o late := by
  refine ⟨fun hlt hp => ⟨_, he.trans (State.runM_go hc hm hcheck (u := (s.addMat o late).advance) ?_ rfl), State.joined_addMat hs⟩, fun hlt hp => ?_,
    fun hge => he.trans (State.runM_stall hc hm hcheck ?_)⟩
  · rw [ha, State.issueMat_adds hlt hp hmk, Option.map_some, advanceIf_added]
  · refine he.trans (State.runM_keeps hc hm hcheck ?_ ((s.iss_requestPass _).symm ▸ hi))
    rw [ha, State.issueMat_asks hlt hp, Option.map_some, advanceIf_asked]
  · rw [ha, State.issueMat_waits hge]
    rfl

end issue

end Sys2Proof.Machine

/-! PROOF. The issue of `MRD`, `MWR`, `MZERO` and `MWR.mem` (spec/16_isa_copy_matrix.md R360, R366, spec/04_scheduler.md R88). -/
namespace Sys2Proof.Machine

section rows
variable {s : State} {f : XE} {m : Lanes} {r : Resv} {x n : Nat} {chk : Except DataFault (Resv × Nat × Nat)}

/-- The entry that awaits the registers of an `MRD`. -/
def mrdLate (s : State) (f : XE) (r : Resv) (x n : Nat) : Late :=
  { serial := BitVec.ofNat 32 s.cur.nextOp, owner := none, dst := [], rows := [], ready := false
    regs := (range' f.e0.toNat (rowSpan (matRec r.record).fmt n)).map fun k => (k, lanesOf fun i => i < x) }

/-- What `MRD` does after its check. -/
def mrdAct (f : XE) (chk : Except DataFault (Resv × Nat × Nat)) (s : State) (_ : Lanes) : Option State :=
  match chk with
  | .error _ => none
  | .ok (r, x, n) => (s.issueMat fun s => (rangeOp s (.mrd f.e0.toNat x n) r, [mrdLate s f r x n])).map (advanceIf s)

theorem execMrd_eq : exec (.mrd f) s = s.runM { guard := f.guard, regs := f.e0.toNat :: f.e1.toNat :: range' f.e2.toNat 2
                                                reads := f.e1.toNat :: range' f.e2.toNat 2, after := true }
    (faultOf (s.spanCheck (s.cur.v 0 f.e1.toNat) f.e2.toNat f.e0.toNat)) (mrdAct f (s.spanCheck (s.cur.v 0 f.e1.toNat) f.e2.toNat f.e0.toNat)) := rfl

/-- What `MWR` reads and does after its check. -/
def mwrSpan (f : XE) (chk : Except DataFault (Resv × Nat × Nat)) : List Nat :=
  match chk with
  | .ok (r, _, n) => range' f.e1.toNat (rowSpan (matRec r.record).fmt n)
  | .error _ => []

def mwrAct (f : XE) (chk : Except DataFault (Resv × Nat × Nat)) (s : State) (_ : Lanes) : Option State :=
  match chk with
  | .error _ => none
  | .ok (r, x, n) => (s.issueMat fun s => (rangeOp s (.mwr x n ((mwrSpan f chk).map s.cur.reg)) r, [])).map (advanceIf s)

theorem execMwr_eq : exec (.mwr f) s = s.runM { guard := f.guard, regs := f.e1.toNat :: f.e0.toNat :: range' f.e2.toNat 2
                                                reads := f.e0.toNat :: range' f.e2.toNat 2
                                                  ++ mwrSpan f (s.spanCheck (s.cur.v 0 f.e0.toNat) f.e2.toNat f.e1.toNat), after := true }
    (faultOf (s.spanCheck (s.cur.v 0 f.e0.toNat) f.e2.toNat f.e1.toNat))
    (mwrAct f (s.spanCheck (s.cur.v 0 f.e0.toNat) f.e2.toNat f.e1.toNat)) := rfl

/-- The fault of a handle's check, and what `MZERO` does after it. -/
def recordFault (chk : Except Nat Resv) : Option DataFault :=
  match chk with
  | .error n => some (handleFault n)
  | .ok _ => none

def mzeroAct (chk : Except Nat Resv) (s : State) (_ : Lanes) : Option State :=
  match chk with
  | .error _ => none
  | .ok x => (s.issueMat fun s => (rangeOp s .mzero x, [])).map (advanceIf s)

theorem execMzero_eq : exec (.mzero f) s = s.runM { guard := f.guard, regs := [f.e0.toNat], reads := [f.e0.toNat], after := true }
    (recordFault (s.setRecord s.iss.gid (s.cur.v 0 f.e0.toNat))) (mzeroAct (s.setRecord s.iss.gid (s.cur.v 0 f.e0.toNat))) := rfl

end rows

/-! ### `MWR.mem` (R366) -/

section mem
variable {s : State} {f : XE} {m : Lanes} {r : Resv} {x n : Nat} {xs : List LaneAcc} {far : Bool}

/-- The cells of an operation, as it keeps them. -/
def cellTarget (a : LaneAcc) : Target :=
  { kind := a.place.kind, core := a.place.core, pa := a.place.pa, pkg := a.place.pkg, va := a.va, pf := a.place.pf
    stride := a.place.stride, order := a.place.order }

/-- The operation. -/
def memOp (s : State) (r : Resv) (x n : Nat) (xs : List LaneAcc) (far : Bool) : MatOp :=
  { rangeOp s (.mwrMem x n (xs.map cellTarget)) r with serial := if far then some s.cur.wserial else none }

/-- Its issue. -/
def State.memIssue (u : State) (r : Resv) (x n : Nat) (xs : List LaneAcc) (far : Bool) : Option State :=
  let u := u.countPages u.iss.gid (xs.map (·.place))
  (u.issueMat fun v => (memOp v r x n xs far, [])).map fun t => if far then (advanceIf u t).takeSerial else advanceIf u t

/-- What the word does after its check. -/
def memAct (f : XE) (chk : Except DataFault (Resv × Nat × Nat × List LaneAcc)) (commit far : Bool) (s : State) (m : Lanes) : Option State :=
  match chk with
  | .error _ => none
  | .ok (r, x, n, xs) => s.present (.mwrMem f) m xs fun s =>
      if 255 ≤ s.cur.outstanding 1 then none
      else (s.opened commit far).bind fun u => if s.holdsPass s.iss.gid then u.memIssue r x n xs far else some (s.requestPass s.iss.gid)

/-- The registers of the word, and its needs. -/
def memRegs (f : XE) : List Nat := pairRegs f.e0 ++ [f.e1.toNat, f.e3.toNat] ++ range' f.e2.toNat 2
def memNeeds (s : State) (f : XE) (far : Bool) : Needs :=
  { guard := f.guard, regs := memRegs f, reads := memRegs f, coll := true, region := far && s.cur.windowRegion, after := true }

/-- The checks of the word: of its range and cells, and of its serial. -/
def State.memFaultOf (s : State) (f : XE) (far : Bool) : Option DataFault :=
  if far && s.lastSerial then some { cause := 0x11, lanes := allLanes, addr := s.cur.v64 0 f.e0.toNat } else faultOf (s.memCheck f)

theorem execMwrMem_eq (h : s.Clear (memNeeds s f far) m) (hm : m ≠ 0) (hchk : s.memCheck f = .ok (r, x, n, xs))
    (hhold : s.cur.hold = false ∨ ∀ a ∈ xs, a.place.kind = 3) (hfar : (xs.any fun a => a.place.kind = 2) = far) :
    exec (.mwrMem f) s = s.runM (memNeeds s f far) (s.memFaultOf f far) (memAct f (s.memCheck f) false far) := by
  have hact : (s.cur.active s.iss.run f.guard != 0) = true := bne_iff_ne.2 fun h0 => hm (h.active.trans h0)
  have hcommit : (s.cur.hold && xs.any fun a => a.place.kind != 3) = false := by
    rcases hhold with hh | hh
    · rw [hh, Bool.false_and]
    · rw [List.any_eq_false.2 fun a ha => by simp [hh a ha], Bool.and_false]
  show execMwrMem f s = _
  unfold execMwrMem State.memFaultOf
  dsimp only
  rw [hact, hchk]
  dsimp only
  rw [Bool.true_and, Bool.true_and, hcommit, hfar, Bool.false_or]
  rfl

theorem advance_takeSerial (u : State) : u.advance.takeSerial = u.takeSerial.advance := by
  unfold State.takeSerial State.advance
  rw [State.markIssued_cur, State.cur_setCur, State.markIssued_setCur, State.setCur_setCur, State.cur_setCur, State.iss_setCur]
  simp only [Group.advance]

theorem State.opened_free {commit : Bool} (hc : commit = false) (hw : far = true → s.cur.window = .free) : s.opened commit far = some s := by
  subst hc
  rw [State.opened, if_neg Bool.false_ne_true, Option.bind_some]
  cases far with
  | false => rfl
  | true => exact State.openWindow_free (hw rfl)

/-- The word issues in a pass of its group. -/
theorem State.memIssue_adds (hac : ∀ a ∈ xs, a.place.ac = none) (hlt : s.cur.outstanding 1 < 255) (hp : s.holdsPass s.iss.gid = true) :
    s.memIssue r x n xs far = some (if far then (s.addMat (memOp s r x n xs far) []).takeSerial else s.addMat (memOp s r x n xs far) []).advance := by
  have huncounted : ∀ p ∈ xs.map (·.place), p.ac = none := fun p h => by
    obtain ⟨a, ha, rfl⟩ := List.mem_map.1 h
    exact hac a ha
  rw [State.memIssue, State.countPages_uncounted _ _ _ _ huncounted]
  rw [State.issueMat_adds hlt hp rfl, Option.map_some, advanceIf_added, advance_takeSerial]
  cases far <;> rfl

theorem State.joined_memOp : s.Joined (if far then (s.addMat (memOp s r x n xs far) []).takeSerial
    else s.addMat (memOp s r x n xs far) []).advance.afterX (memOp s r x n xs far) [] := by
  cases far with
  | false => exact State.joined_addMat rfl
  | true =>
    refine State.joined ?_ ?_ (fun k hk => ?_) fun a => ?_
    · rw [if_pos rfl, State.takeSerial, State.cur_setCur, State.cur_addMat]
      rfl
    · rw [if_pos rfl, State.takeSerial, State.iss_setCur, State.iss_addMat]
    · rw [if_pos rfl, State.takeSerial, State.group_setCur_ne _ _ _ (by rw [State.iss_addMat]; exact hk), State.group_addMat_ne _ _ _ _ hk]
    · exact State.rd_addMat ..

end mem

end Sys2Proof.Machine

namespace Sys2Proof
open Machine

/-- Settles O30: after their checks the words join one operation each, in a pass; `MWR.mem` takes a serial besides. -/
theorem matrixIssues : Obligations.MatrixIssues := by
  unfold Obligations.MatrixIssues
  intro s f m g gid op joins issues span hi hm
  refine ⟨fun r x n hchk hc => ?_, fun r x n hchk hc => ?_, fun r hchk hc => ?_, fun r x n xs hchk hxs => ?_⟩
  · refine State.issues_of (mk := fun s => (rangeOp s (.mrd f.e0.toNat x n) r, [mrdLate s f r x n])) hc hm hi execMrd_eq (by rw [hchk]; rfl) ?_ rfl rfl
    rw [hchk]
    rfl
  · refine State.issues_of (n := { guard := f.guard, regs := f.e1.toNat :: f.e0.toNat :: range' f.e2.toNat 2
                                   reads := f.e0.toNat :: range' f.e2.toNat 2
                                     ++ mwrSpan f (s.spanCheck (s.cur.v 0 f.e0.toNat) f.e2.toNat f.e1.toNat), after := true })
      (mk := fun s => (rangeOp s (.mwr x n ((range' f.e1.toNat (rowSpan (matRec r.record).fmt n)).map s.cur.reg)) r, [])) ?_ hm hi execMwr_eq (by rw [hchk]; rfl) ?_ rfl rfl
    · rw [hchk]
      exact hc
    · rw [hchk]
      rfl
  · refine State.issues_of (mk := fun s => (rangeOp s .mzero r, [])) hc hm hi execMzero_eq (by rw [hchk]; rfl) ?_ rfl rfl
    rw [hchk]
    rfl
  · intro regs far hhold hc
    refine ⟨fun hfar hlast => ?_, fun hfree => ?_⟩
    · refine (execMwrMem_eq hc hm hchk hhold rfl).trans (State.runM_fault (d := { cause := 0x11, lanes := allLanes, addr := g.v64 0 f.e0.toNat }) hc hm ?_)
      exact if_pos (by rw [hlast, Bool.and_true]; exact hfar)
    · have he := execMwrMem_eq hc hm hchk hhold rfl
      have hcheck : s.memFaultOf f far = none := by
        refine (if_neg ?_).trans (by rw [hchk]; rfl)
        rw [Bool.and_eq_true]
        rintro ⟨hfar, hlast⟩
        rw [(hfree hfar).1] at hlast
        cases hlast
      have hopen : s.opened false far = some s := State.opened_free rfl fun hfar => (hfree hfar).2
      have hact : memAct f (s.memCheck f) false far s m = if 255 ≤ s.cur.outstanding 1 then none
          else if s.holdsPass s.iss.gid then s.memIssue r x n xs far else some (s.requestPass s.iss.gid) := by
        rw [hchk, memAct]
        rw [State.present_go fun a ha => (hxs a ha).1, hopen]
        rfl
      refine ⟨fun hlt hp => ⟨_, he.trans (State.runM_go hc hm hcheck (hact.trans ?_) rfl), State.joined_memOp⟩, fun hlt hp => ?_, fun hge => ?_⟩
      · rw [if_neg (Nat.not_le.2 hlt), if_pos hp, State.memIssue_adds (fun a ha => (hxs a ha).2) hlt hp]
      · refine he.trans (State.runM_keeps hc hm hcheck (hact.trans ?_) ((s.iss_requestPass _).symm ▸ hi))
        rw [if_neg (Nat.not_le.2 hlt), if_neg (by rw [show s.holdsPass s.iss.gid = false from hp]; exact Bool.false_ne_true)]
      · exact he.trans (State.runM_stall hc hm hcheck (hact.trans (if_pos hge)))

end Sys2Proof

/-! PROOF. The issue of `MMA`, and the A that a slot holds (spec/16_isa_copy_matrix.md R361, R363, R365). -/
namespace Sys2Proof.Machine

section checks
variable {s : State} {f : XE} {b c : Resv} {h : Word} {limit : Nat}

/-- A handle's reservation has the handle. -/
theorem State.resvOf_handle {gid : Nat} {r : Resv} (hr : s.resvOf gid h = some r) : r.handle = h := by
  have hp := List.find?_some hr
  simp only [Bool.and_eq_true, decide_eq_true_eq] at hp
  exact hp.1

theorem State.setRecord_ok {gid : Nat} {r : Resv} (hr : s.resvOf gid h = some r) (ho : (matRec r.record).ok = true) : s.setRecord gid h = .ok r := by
  rw [State.setRecord, hr]
  exact if_pos ho

/-- Lane 0's M, N and K. -/
def State.mmaArg (s : State) (f : XE) (i : Nat) : Nat := (s.cur.v 0 (f.e3.toNat + i)).toNat

theorem mmaLimit_of {b c : Nat} (hl : (b, c, limit) ∈ [(0, 0, 64), (1, 1, 128), (2, 1, 256), (3, 1, 256), (4, 1, 256)]) : mmaLimit b c = some limit := by
  simp only [List.mem_cons, List.not_mem_nil, or_false] at hl
  obtain hl | hl | hl | hl | hl := hl <;> cases hl <;> rfl

/-- The operands of an `MMA` that passes every check of R363. -/
structure State.MmaFits (s : State) (f : XE) (b c : Resv) (limit : Nat) : Prop where
  rangeB : s.resvOf s.iss.gid (s.cur.v 0 f.e1.toNat) = some b
  rangeC : s.resvOf s.iss.gid (s.cur.v 0 f.e2.toNat) = some c
  setB : (matRec b.record).ok = true
  setC : (matRec c.record).ok = true
  formats : mmaLimit (matRec b.record).fmt (matRec c.record).fmt = some limit
  sizeM : 1 ≤ s.mmaArg f 0 ∧ s.mmaArg f 0 ≤ 32
  sizeN : 1 ≤ s.mmaArg f 1 ∧ s.mmaArg f 1 ≤ 256
  sizeK : 1 ≤ s.mmaArg f 2 ∧ s.mmaArg f 2 ≤ limit
  span : f.e0.toNat + rowSpan (matRec b.record).fmt (s.mmaArg f 2) ≤ s.cur.nregs
  shapeB : s.mmaArg f 2 ≤ (matRec b.record).rows ∧ s.mmaArg f 1 ≤ (matRec b.record).cols
  shapeC : s.mmaArg f 0 ≤ (matRec c.record).rows ∧ s.mmaArg f 1 ≤ (matRec c.record).cols
  apart : s.cur.v 0 f.e1.toNat ≠ s.cur.v 0 f.e2.toNat
  heldA : ∀ a, s.heldOf s.iss.gid = some a → a.va = f.e0.toNat ∧ a.fmt = (matRec b.record).fmt ∧ s.mmaArg f 2 ≤ a.k

variable (hf : s.MmaFits f b c limit)
include hf

theorem State.operandFault_none : s.operandFault f = none := by
  rw [State.operandFault, State.setRecord_ok hf.rangeB hf.setB]
  dsimp only
  split
  · rfl
  · exact if_neg (Nat.not_lt.2 hf.span)

theorem State.mmaReasons_ok : s.mmaReasons f = .ok (b, c) := by
  obtain ⟨hm1, hm32⟩ := hf.sizeM
  obtain ⟨hn1, hn256⟩ := hf.sizeN
  obtain ⟨hk1, hkl⟩ := hf.sizeK
  obtain ⟨hbr, hbc⟩ := hf.shapeB
  obtain ⟨hcr, hcc⟩ := hf.shapeC
  unfold State.mmaArg at hm1 hm32 hn1 hn256 hk1 hkl hbr hbc hcr hcc
  unfold State.mmaReasons
  dsimp only
  rw [hf.rangeB, hf.rangeC]
  dsimp only
  rw [if_neg (by rw [hf.setB, hf.setC]; exact Bool.false_ne_true), hf.formats]
  dsimp only
  rw [if_neg (by simp only [Bool.or_eq_true, decide_eq_true_eq]; simp only [Nat.add_zero] at *; omega),
    if_neg (by simp only [Bool.or_eq_true, decide_eq_true_eq]; simp only [Nat.add_zero] at *; omega), if_neg hf.apart]
  cases hh : s.heldOf s.iss.gid with
  | none => rfl
  | some a =>
    obtain ⟨hva, hfmt, hk⟩ := hf.heldA a hh
    unfold State.mmaArg at hk
    exact if_pos (by rw [hva, hfmt]; simpa using hk)

theorem State.mmaCheck_ok : s.mmaCheck f = .ok (b, c) := by rw [State.mmaCheck, State.operandFault_none hf, State.mmaReasons_ok hf]

theorem State.mmaSpan_ok : s.mmaSpan f
    = if (s.heldOf s.iss.gid).isNone then range' f.e0.toNat (rowSpan (matRec b.record).fmt (s.mmaArg f 2)) else [] := by
  rw [State.mmaSpan, State.mmaCheck_ok hf]
  cases s.heldOf s.iss.gid <;> rfl

end checks

/-! ### The word -/

section word
variable {s : State} {f : XE} {b c : Resv} {m : Lanes} {limit : Nat}

/-- The rows of A: those held, or the registers of the span. -/
def State.mmaRows (s : State) (f : XE) : List Row :=
  match s.heldOf s.iss.gid with
  | some a => a.rows
  | none => (s.mmaSpan f).map s.cur.reg

/-- The operation. -/
def mmaOp (s0 s : State) (f : XE) (b c : Resv) : MatOp :=
  { id := s.cur.nextOp, kind := .mma (s0.mmaArg f 0) (s0.mmaArg f 1) (s0.mmaArg f 2) (f.e4.setWidth 3) (s0.mmaRows f), b := b.handle, c := c.handle
    recB := b.record, recC := c.record, pc := s.iss.pc, serial := none, order := s.cur.nReq }

/-- The A that `.r` leaves in the slot. -/
def State.mmaHeld (s : State) (f : XE) (b : Resv) : HeldA :=
  (s.heldOf s.iss.gid).getD { gid := s.iss.gid, va := f.e0.toNat, fmt := (matRec b.record).fmt, k := s.mmaArg f 2, rows := s.mmaRows f }

/-- The slot after the operation joined: the A held, or released. -/
def State.mmaSlot (t s : State) (f : XE) (b : Resv) : State :=
  if f.flags == 1 then t.setSlot s.cur.slot { t.slot s.cur.slot with heldA := some (s.mmaHeld f b) } else t.releaseA s.iss.gid

/-- Another group's A is held, and the word would hold its own. -/
def State.mmaOther (s : State) (f : XE) : Bool :=
  f.flags == 1 && (match (s.slot s.cur.slot).heldA with
    | some h => h.gid != s.iss.gid
    | none => false)

/-- What `MMA` does after its checks. -/
def mmaAct (f : XE) (other : Bool) (s : State) (_ : Lanes) : Option State :=
  if other then none
  else
    match s.mmaCheck f with
    | .error _ => none
    | .ok (b, c) =>
      (s.issueMat fun t => (mmaOp s t f b c, [])).map fun t => if t.cur.nextOp = s.cur.nextOp then t else (t.mmaSlot s f b).advance

/-- The registers of the word but for A, and its needs. -/
def mmaFixed (f : XE) : List Nat := [f.e1.toNat, f.e2.toNat] ++ range' f.e3.toNat 3
def State.mmaNeeds (s : State) (f : XE) : Needs :=
  { guard := f.guard, regs := f.e0.toNat :: mmaFixed f, reads := mmaFixed f ++ s.mmaSpan f, after := true }

theorem execMma_eq : exec (.mma f) s = s.runM (s.mmaNeeds f) (faultOf (s.mmaCheck f)) (mmaAct f (s.mmaOther f)) := rfl

theorem State.mmaOther_iff : s.mmaOther f = true ↔ f.flags = 1 ∧ ∃ a, (s.slot s.cur.slot).heldA = some a ∧ a.gid ≠ s.iss.gid := by
  unfold State.mmaOther
  cases (s.slot s.cur.slot).heldA <;> simp

theorem mmaAct_joins (hf : s.MmaFits f b c limit) (ho : s.mmaOther f = false) :
    mmaAct f (s.mmaOther f) s m
      = (s.issueMat fun t => (mmaOp s t f b c, [])).map fun t => if t.cur.nextOp = s.cur.nextOp then t else (t.mmaSlot s f b).advance := by
  rw [mmaAct, if_neg (by rw [ho]; exact Bool.false_ne_true), State.mmaCheck_ok hf]

/-- The A that `.r` leaves is the group's, of the operands' format, with the rows of the operation. -/
theorem State.mmaHeld_fields (hf : s.MmaFits f b c limit) : (s.mmaHeld f b).gid = s.iss.gid ∧ (s.mmaHeld f b).rows = s.mmaRows f
    ∧ (s.mmaHeld f b).va = f.e0.toNat ∧ (s.mmaHeld f b).fmt = (matRec b.record).fmt := by
  cases hh : s.heldOf s.iss.gid with
  | none =>
    rw [State.mmaHeld, hh]
    exact ⟨rfl, rfl, rfl, rfl⟩
  | some a =>
    obtain ⟨hva, hfmt, -⟩ := hf.heldA a hh
    have hgid : a.gid = s.iss.gid := by
      rw [State.heldOf] at hh
      split at hh
      · split at hh
        · next hg => cases hh; exact hg
        · cases hh
      · cases hh
    rw [State.mmaHeld, State.mmaRows, hh]
    exact ⟨hgid, rfl, hva, hfmt⟩

end word

/-! ### The slot -/

section slot
variable {s t : State} {f : XE} {b : Resv}

theorem State.mmaSlot_only : t.mmaSlot s f b = { t with slots := (t.mmaSlot s f b).slots } := by
  unfold State.mmaSlot
  split
  · rfl
  · unfold State.releaseA
    dsimp only
    split
    · split <;> rfl
    · rfl

theorem State.heldA_mmaSlot_holds (h : f.flags = 1) : ((t.mmaSlot s f b).slot s.cur.slot).heldA = some (s.mmaHeld f b) := by
  rw [State.mmaSlot, if_pos (by rw [h]; rfl), State.slot_setSlot]

/-- The A of the group goes from its slot. -/
theorem State.heldA_releaseA {gid : Nat} (h : ∀ a, (t.slot (t.group gid).slot).heldA = some a → a.gid = gid) :
    ((t.releaseA gid).slot (t.group gid).slot).heldA = none := by
  unfold State.releaseA
  dsimp only
  split
  · next a ha =>
    rw [if_pos (h a ha), State.slot_setSlot]
  · next ha => exact ha

theorem State.heldA_ended (k : Nat) : (t.advance.afterX.slot k).heldA = (t.slot k).heldA := by
  rw [State.afterX, State.setCache_slot]
  rfl

end slot

end Sys2Proof.Machine

namespace Sys2Proof
open Machine

/-- Settles O31: the operands pass every check; the operation joins the list in a pass, and the slot keeps its A or not. -/
theorem mmaIssues : Obligations.MmaIssues := by
  unfold Obligations.MmaIssues
  intro s f m b c limit g gid hb hc arg rb rc width held span rows fixed o hi hm hB hC hokB hokC hfmt hm1 hm32 hn1 hn256 hk1 hkl hspan hbr hbc hcr hcc hapart
    hheld hclear
  have hfits : s.MmaFits f b c limit := ⟨hB, hC, hokB, hokC, mmaLimit_of hfmt, ⟨hm1, hm32⟩, ⟨hn1, hn256⟩, ⟨hk1, hkl⟩, hspan, ⟨hbr, hbc⟩, ⟨hcr, hcc⟩,
    hapart, hheld⟩
  have hspanEq : s.mmaSpan f = span := State.mmaSpan_ok hfits
  have hcl : s.Clear { s.mmaNeeds f with coll := true } m := by
    rw [State.mmaNeeds, hspanEq]
    exact hclear
  have hcheck : faultOf (s.mmaCheck f) = none := by rw [State.mmaCheck_ok hfits]; rfl
  have hrows : s.mmaRows f = rows := by rw [State.mmaRows, hspanEq] <;> rfl
  have hop : mmaOp s s f b c = o := by rw [mmaOp, hrows]; rfl
  have hfree (h : ∀ a, (s.slot g.slot).heldA = some a → a.gid = gid) : s.mmaOther f = false :=
    Bool.eq_false_iff.2 fun ho => by
      obtain ⟨-, a, ha, hne⟩ := State.mmaOther_iff.1 ho
      exact hne (h a ha)
  refine ⟨fun hflag hother => ?_, fun hown hlt hp => ?_, fun hown hlt hp => ?_⟩
  · exact execMma_eq.trans (State.runM_stall hcl hm hcheck (if_pos (State.mmaOther_iff.2 ⟨hflag, hother⟩)))
  · refine execMma_eq.trans (State.runM_keeps hcl hm hcheck ((mmaAct_joins hfits (hfree hown)).trans ?_) ((s.iss_requestPass _).symm ▸ hi))
    rw [State.issueMat_asks hlt hp, Option.map_some, if_pos (by rw [State.cur_requestPass])]
  · have hadd : ¬ (s.addMat o []).cur.nextOp = s.cur.nextOp := by
      rw [State.cur_addMat]
      exact Nat.succ_ne_self s.cur.nextOp
    have hnames : o.b = hb ∧ o.c = hc := ⟨State.resvOf_handle hB, State.resvOf_handle hC⟩
    obtain ⟨hnb, hnc⟩ := hnames
    have hjoin : s.Joined ((s.addMat o []).mmaSlot s f b).advance.afterX o [] := by
      refine State.joined ?_ ?_ (fun k hk => ?_) fun a => ?_
      · rw [State.mmaSlot_only]
        exact (State.cur_of_eq rfl rfl).trans ((s.cur_addMat o []).trans (Group.joins_unserialled rfl).symm)
      · rw [State.mmaSlot_only]
        exact s.iss_addMat o []
      · rw [State.mmaSlot_only]
        exact s.group_addMat_ne o [] k hk
      · rw [State.mmaSlot_only]
        exact s.rd_addMat o [] a
    obtain ⟨h1, h2, h3, h4, h5, h6, -, h8, h9, h10, h11⟩ := hjoin
    refine ⟨_, execMma_eq.trans (State.runM_go hcl hm hcheck ((mmaAct_joins hfits (hfree hown)).trans ?_) rfl), h1, by rw [h2, List.append_nil], h3, ?_, h5, h6, h8,
      h9, h10, h11, fun hflag => ?_, fun hflag => ?_⟩
    · rw [State.issueMat_adds hlt hp (Prod.ext hop rfl), Option.map_some, if_neg hadd]
    · rw [h4, hnb, hnc]
    · obtain ⟨hgid, hr, hva, hf⟩ := State.mmaHeld_fields hfits
      exact ⟨s.mmaHeld f b, (State.heldA_ended _).trans (State.heldA_mmaSlot_holds hflag), hgid, hr.trans hrows, hva, hf⟩
    · have hslot : ((s.addMat o []).group s.iss.gid).slot = s.cur.slot := by
        have h := s.cur_addMat o []
        rw [State.cur, State.iss_addMat] at h
        rw [h]
        rfl
      have hsl (k : Nat) : (s.addMat o []).slot k = s.slot k := by rw [State.slot, State.slots_addMat, State.slot]
      have hrel := State.heldA_releaseA (t := s.addMat o []) (gid := s.iss.gid) fun a ha => hown a (by rw [← hsl, ← hslot]; exact ha)
      rw [hslot] at hrel
      rw [State.heldA_ended, State.mmaSlot, if_neg (by simpa using hflag)]
      exact hrel

end Sys2Proof

/-! SUPPORT. What the checks of a tile word look at: of the groups, where the group stands, and no more (spec/09_tile_arithmetic.md R213,
spec/06_address_spaces.md R130 to R132). -/
namespace Sys2Proof.Machine

/-! ### Translation -/

section groups
variable {s : State} {G : Tab Group}

theorem State.inOrdinary_groups (pa : Nat) : ({ s with groups := G } : State).inOrdinary pa = s.inOrdinary pa := rfl

theorem State.leafBad_groups (level e : Nat) : ({ s with groups := G } : State).leafBad level e = s.leafBad level e := rfl

theorem State.walk_groups (va level table : Nat) : ({ s with groups := G } : State).walk va level table = s.walk va level table := by
  induction level generalizing table with
  | zero => rfl
  | succ level ih =>
    unfold State.walk
    simp only [State.inOrdinary_groups, State.leafBad_groups, ih]
    rfl

theorem State.walkCtx_groups (ctx : BitVec 16) (va : Dword) : ({ s with groups := G } : State).walkCtx ctx va = s.walkCtx ctx va := by
  unfold State.walkCtx
  rw [State.walk_groups]
  rfl

variable {gid : Nat} (hslot : (tabGet {} G gid).slot = (s.group gid).slot)
include hslot

/-- A core's access depends on where its group stands. -/
theorem State.coreAccess_groups (va : Dword) (write : Bool) (k : Nat) :
    ({ s with groups := G } : State).coreAccess gid va write k = s.coreAccess gid va write k := by
  have hd : (({ s with groups := G } : State).group gid).slot = (s.group gid).slot := hslot
  unfold State.coreAccess State.translate
  rw [hd]
  simp only [State.walkCtx_groups]
  rfl

theorem State.tileXlate_groups (va last : Nat) (write planes : Bool) :
    ({ s with groups := G } : State).tileXlate gid va last write planes = s.tileXlate gid va last write planes := by
  unfold State.tileXlate
  dsimp only
  rw [State.coreAccess_groups hslot]
  rfl

theorem State.tileRange_groups (a n : Nat) (write planes : Bool) :
    ({ s with groups := G } : State).tileRange gid a n write planes = s.tileRange gid a n write planes := by
  unfold State.tileRange
  simp only [State.tileXlate_groups hslot]

theorem State.deckPages_groups (d : Deckle) (write : Bool) : ({ s with groups := G } : State).deckPages gid d write = s.deckPages gid d write := by
  unfold State.deckPages
  simp only [State.tileRange_groups hslot]

theorem State.deckAddr_groups (a : Dword) (write : Bool) (other : Nat) :
    ({ s with groups := G } : State).deckAddr gid a write other = s.deckAddr gid a write other := by
  unfold State.deckAddr
  rw [State.tileXlate_groups hslot]

theorem State.deckAddrs_groups (as : List Dword) : ({ s with groups := G } : State).deckAddrs gid as = s.deckAddrs gid as := by
  unfold State.deckAddrs
  simp only [State.deckAddr_groups hslot]

theorem State.deckFine_groups (as : List Dword) : ({ s with groups := G } : State).deckFine gid as = s.deckFine gid as := by
  unfold State.deckFine
  simp only [State.deckAddr_groups hslot]

theorem State.tilePlaces_groups (pages : List TilePage) : ({ s with groups := G } : State).tilePlaces gid pages = s.tilePlaces gid pages := by
  unfold State.tilePlaces
  simp only [State.coreAccess_groups hslot]

end groups

/-! ### The bytes of operands -/

section bytes
variable {s : State} {G : Tab Group}

theorem State.tileByte_groups (pages : List TilePage) (va plane : Nat) :
    ({ s with groups := G } : State).tileByte pages va plane = s.tileByte pages va plane := rfl

theorem State.tileVal_groups (pages : List TilePage) (va plane n : Nat) :
    ({ s with groups := G } : State).tileVal pages va plane n = s.tileVal pages va plane n := rfl

theorem State.tileValue_groups (pages : List TilePage) (d : Deckle) : ({ s with groups := G } : State).tileValue pages d = s.tileValue pages d := by
  unfold State.tileValue State.tileMat State.tileBits
  simp only [State.tileVal_groups]

theorem State.readFlags_groups (pages : List TilePage) (d : Deckle) : ({ s with groups := G } : State).readFlags pages d = s.readFlags pages d := by
  unfold State.readFlags
  simp only [State.tileVal_groups]

theorem State.deckAt_groups (pages : List TilePage) (a : Dword) : ({ s with groups := G } : State).deckAt pages a = s.deckAt pages a := by
  unfold State.deckAt
  simp only [State.tileByte_groups]

theorem State.tileRes_groups (o : TileOp) : ({ s with groups := G } : State).tileRes o = s.tileRes o := by
  unfold State.tileRes State.deckC
  simp only [funext (State.deckAt_groups (s := s) (G := G) o.pages), State.deckAt_groups, State.tileValue_groups, State.readFlags_groups]

theorem State.freesTwice_groups (gid : Nat) (o : TileOp) : ({ s with groups := G } : State).freesTwice gid o = s.freesTwice gid o := by
  unfold State.freesTwice State.tilePlaced State.deckC
  simp only [State.tileRes_groups, State.deckAt_groups]
  rfl

end bytes

/-! ### The checks of a word whose words asked for are dropped -/

section hidden
variable {s : State}

/-- The state in which the words that the instruction asked for are dropped. -/
def State.noHidden (s : State) : State := s.setCur s.cur.dropHidden

theorem State.noHidden_groups : s.noHidden = { s with groups := s.noHidden.groups } := rfl

@[simp] theorem State.cur_noHidden : s.noHidden.cur = s.cur.dropHidden := s.cur_setCur _
@[simp] theorem State.iss_noHidden : s.noHidden.iss = s.iss := rfl

theorem State.slot_noHidden : (tabGet {} s.noHidden.groups s.iss.gid).slot = (s.group s.iss.gid).slot := by
  rw [show tabGet {} s.noHidden.groups s.iss.gid = s.cur.dropHidden from s.cur_noHidden]
  rfl

theorem State.tileOp_noHidden (kind : TileKind) (flags : BitVec 3) (as : List Dword) (x : TileIssue) :
    s.noHidden.tileOp kind flags as x = s.tileOp kind flags as x := by
  unfold State.tileOp
  rw [State.cur_noHidden]
  rfl

/-- The checks find what they found. -/
theorem State.tileCheck_noHidden (kind : TileKind) (flags : BitVec 3) (as : List Dword) (bs : List Byte) :
    s.noHidden.tileCheck kind flags as bs = s.tileCheck kind flags as bs := by
  unfold State.tileCheck
  simp only [State.tileOp_noHidden]
  rw [State.noHidden_groups]
  simp only [State.deckFine_groups State.slot_noHidden, State.deckPages_groups State.slot_noHidden, State.tileRange_groups State.slot_noHidden,
    State.deckAddrs_groups State.slot_noHidden, State.freesTwice_groups]
  rfl

end hidden

end Sys2Proof.Machine

/-! PROOF. The issue of the tile words, `TSAMP` and `TINFO` (spec/17_isa_tiles_updates_system.md R368, R369, R374, R375,
spec/09_tile_arithmetic.md R211, R213). -/
namespace Sys2Proof.Machine

/-! ### What an instruction begins before it acts (R40, R240) -/

section opened
variable {s u : State} {commit far : Bool}

theorem Group.mayCommit_begun (g : Group) (h : Bool) : (Group.beginBefore { g with hold := h }).mayCommit = g.mayCommit := rfl

theorem Group.canBegin_of_mayCommit {g : Group} (h : g.mayCommit = true) : g.canBegin = true := by
  unfold Group.mayCommit at h
  simp only [Bool.and_eq_true] at h
  exact h.1.1

/-- With nothing outstanding a full window opens: a region begins, or the team commits. -/
theorem State.openWindow_may (h : s.cur.mayCommit = true) : ∃ u, s.openWindow = some u ∧ s.sameButCommit u
    ∧ ∃ H C R I S, u.cur = { s.cur with hold := H, ckpt := C, rstart := R, inBar := I, steps := S } := by
  have hb := Group.canBegin_of_mayCommit h
  unfold State.openWindow
  split
  · exact ⟨s, rfl, rfl, _, _, _, _, _, rfl⟩
  · next hw =>
    have hnone : s.cur.oldestOut = none := by
      unfold Group.canBegin at hb
      simp only [Bool.and_eq_true, Option.isNone_iff_eq_none] at hb
      exact hb.1
    exfalso
    unfold Group.window at hw
    rw [hnone] at hw
    split at hw
    · cases hw
    · rw [if_neg (by simp)] at hw
      split at hw <;> cases hw
  · exact ⟨_, if_pos hb, s.sameButCommit_regionBefore, _, _, _, _, _, s.cur_regionBefore⟩
  · obtain ⟨b, hc⟩ := s.cur_afterCommit
    exact ⟨_, s.implicitCommit_may h, s.sameButCommit_afterCommit, _, _, _, _, _, hc⟩

/-- The words that may commit, or whose window is free, go on. -/
theorem State.opened_some (hc : commit = true → s.cur.mayCommit = true) (hf : far = true → commit = false → s.cur.window = .free) :
    ∃ u, s.opened commit far = some u ∧ (commit = false → u = s) ∧ u.iss = s.iss
      ∧ ∃ H C R I S, u.cur = { s.cur with hold := H, ckpt := C, rstart := R, inBar := I, steps := S } := by
  unfold State.opened
  cases commit with
  | false =>
    refine ⟨s, ?_, fun _ => rfl, rfl, _, _, _, _, _, rfl⟩
    rw [if_neg Bool.false_ne_true, Option.bind_some]
    cases far with
    | false => rfl
    | true => exact State.openWindow_free (hf rfl rfl)
  | true =>
    have hmay := hc rfl
    obtain ⟨b, hcur⟩ := s.cur_afterCommit
    rw [if_pos rfl, s.implicitCommit_may hmay, Option.bind_some]
    cases far with
    | false => exact ⟨_, rfl, fun h => (by cases h), s.iss_afterCommit, _, _, _, _, _, hcur⟩
    | true =>
      have hmay' : s.afterCommit.cur.mayCommit = true := by rw [hcur, Group.mayCommit_begun, hmay]
      obtain ⟨u, hu, hsame, H, C, R, I, S, hcu⟩ := State.openWindow_may hmay'
      refine ⟨u, hu, fun h => (by cases h), (State.iss_of_sameButCommit hsame).trans s.iss_afterCommit, H, C, R, I, S, ?_⟩
      rw [hcu, hcur]
      rfl

/-- A group whose words asked for are dropped has no more outstanding than before. -/
theorem Group.mayCommit_dropHidden {g : Group} (h : g.mayCommit = true) : g.dropHidden.mayCommit = true := by
  have hsub : ∀ o ∈ g.dropHidden.outs, o ∈ g.outs := fun o ho => (List.mem_filter.1 ho).1
  have hlate : ∀ x ∈ g.dropHidden.late, x ∈ g.late := fun x hx => (List.mem_filter.1 hx).1
  unfold Group.mayCommit Group.canBegin at *
  simp only [Bool.and_eq_true, Bool.not_eq_true', Group.oldestOut_dropHidden] at *
  obtain ⟨⟨⟨hold, hawait⟩, hpend⟩, hstore⟩ := h
  refine ⟨⟨⟨hold, ?_⟩, ?_⟩, ?_⟩
  · rw [Bool.and_eq_false_iff] at hawait ⊢
    refine hawait.imp (fun h => h) fun h => ?_
    unfold Group.awaits at h ⊢
    rw [List.any_eq_false] at h ⊢
    exact fun x hx => h x (hlate x hx)
  · unfold Group.pending at hpend ⊢
    rw [List.any_eq_false] at hpend ⊢
    exact fun o ho => hpend o (hsub o ho)
  · unfold Group.storesOut at hstore ⊢
    rw [List.any_eq_false] at hstore ⊢
    exact fun o ho => hstore o (hsub o ho)

end opened

/-! ### The entry of an operation (R88, R116) -/

section add
variable (s : State) (kind : TileKind) (flags : BitVec 3) (as : List Dword) (x : TileIssue)

/-- The group with the operation at the end of its list, or without it after a failure. -/
def Group.withTile (g : Group) (o : TileOp) (far : Bool) : Group :=
  { g with
    tiles := if g.tileFail.isSome then g.tiles else g.tiles ++ [o]
    nextOp := g.nextOp + 1, nReq := g.nReq + 1, nTile := g.nTile + 1, wserial := if far then g.wserial + 1 else g.wserial }

theorem State.cur_addTile : (s.addTile kind flags as x).cur = s.cur.withTile (s.tileOp kind flags as x) x.far := by
  unfold State.addTile
  dsimp only
  cases x.far with
  | false =>
    rw [if_neg Bool.false_ne_true, State.cur_usePass, State.cur_setCur]
    rfl
  | true =>
    rw [if_pos rfl, State.takeSerial, State.cur_setCur, State.cur_usePass, State.cur_setCur]
    rfl

/-- The entry changes the groups and the quad alone. -/
theorem State.addTile_only : ∃ G Q, s.addTile kind flags as x = { s with groups := G, quads := Q } := by
  unfold State.addTile
  dsimp only
  rw [State.usePass_only]
  split
  · exact ⟨_, _, rfl⟩
  · exact ⟨_, _, rfl⟩

@[simp] theorem State.iss_addTile : (s.addTile kind flags as x).iss = s.iss := by
  obtain ⟨G, Q, h⟩ := s.addTile_only kind flags as x
  rw [h]

theorem State.rd_addTile (a : Nat) : (s.addTile kind flags as x).rd a = s.rd a := by
  obtain ⟨G, Q, h⟩ := s.addTile_only kind flags as x
  rw [h]
  rfl

theorem State.group_usePass (n : Nat) (ranges : List Word) (k : Nat) : (s.usePass n ranges).group k = s.group k := by
  rw [State.usePass_only]
  rfl

theorem State.group_addTile_ne (k : Nat) (h : k ≠ s.iss.gid) : (s.addTile kind flags as x).group k = s.group k := by
  unfold State.addTile
  dsimp only
  split
  · rw [State.takeSerial, State.group_setCur_ne _ _ _ (by rw [State.usePass_only]; exact h), State.group_usePass, State.group_setCur_ne _ _ _ h]
  · rw [State.group_usePass, State.group_setCur_ne _ _ _ h]

end add

/-! ### What the issue of a tile operation leaves -/

section left
variable {s u : State} {kind : TileKind} {flags : BitVec 3} {as : List Dword} {x : TileIssue}

/-- The pages counted and the operation entered, from the state that the word found once it had begun what it begins. -/
def State.tileEnter (u : State) (kind : TileKind) (flags : BitVec 3) (as : List Dword) (x : TileIssue) : State :=
  (u.countTiles u.iss.gid x.pages).addTile kind flags as x

/-- The group that a tile word leaves joined its operation. -/
structure TileJoined (s t : State) (kind : TileKind) (flags : BitVec 3) (as : List Dword) (x : TileIssue) (o : TileOp) : Prop where
  tiles : t.cur.tiles = if s.cur.tileFail.isSome then s.cur.tiles else s.cur.tiles ++ [o]
  what : o.kind = kind ∧ o.c = as.getD 0 0 ∧ o.a = as.getD 1 0 ∧ o.b = as.getD 2 0 ∧ o.flags = flags ∧ o.pages = x.pages
  place : o.seq = s.cur.nTile ∧ o.pc = s.iss.pc ∧ o.order = s.cur.nReq
  serial : o.serial = if x.far then some s.cur.wserial else none
  nReq : t.cur.nReq = s.cur.nReq + 1
  wserial : t.cur.wserial = s.cur.wserial + if x.far then 1 else 0
  nTile : t.cur.nTile = s.cur.nTile + 1
  regs : t.cur.v = s.cur.v
  flagged : t.cur.fpflags = s.cur.fpflags
  pcs : Stands s t.cur 0 fun _ => 0

theorem State.cur_countTiles (gid : Nat) (pages done : List TilePage) : (u.countTiles gid pages done).cur = u.cur := State.cur_countPages ..
theorem State.iss_countTiles (gid : Nat) (pages done : List TilePage) : (u.countTiles gid pages done).iss = u.iss := State.iss_countPages ..

/-- A group that differs in its region, its hold and the words that its instruction asked for. -/
def Group.sameIssue (g h : Group) : Prop :=
  ∃ H C R I S O L U, h = { g with hold := H, ckpt := C, rstart := R, inBar := I, steps := S, outs := O, late := L, unknowns := U }

theorem State.tileJoined (hi : u.iss = s.iss) (hc : s.cur.sameIssue u.cur) :
    TileJoined s (u.tileEnter kind flags as x).advance.afterX kind flags as x ((u.countTiles u.iss.gid x.pages).tileOp kind flags as x) := by
  obtain ⟨H, C, R, I, S, O, L, U, hc⟩ := hc
  have hcur : (u.tileEnter kind flags as x).cur = u.cur.withTile ((u.countTiles u.iss.gid x.pages).tileOp kind flags as x) x.far := by
    rw [State.tileEnter, State.cur_addTile, State.cur_countTiles]
  have hop : (u.countTiles u.iss.gid x.pages).cur = u.cur := State.cur_countTiles ..
  constructor
  case tiles =>
    rw [State.cur_next, State.passed, Group.advance, hcur, hc]
    rfl
  case what => exact ⟨rfl, rfl, rfl, rfl, rfl, rfl⟩
  case place =>
    unfold State.tileOp
    dsimp only
    rw [hop, hc, State.iss_countTiles, hi]
    exact ⟨rfl, rfl, rfl⟩
  case serial =>
    unfold State.tileOp
    dsimp only
    rw [hop, hc]
  case nReq =>
    rw [State.cur_next, State.passed, Group.advance, hcur, hc]
    rfl
  case wserial =>
    rw [State.cur_next, State.wserial_passed, hcur, hc]
    show (if x.far = true then s.cur.wserial + 1 else s.cur.wserial) = _
    split
    · rfl
    · exact (BitVec.add_zero _).symm
  case nTile =>
    rw [State.cur_next, State.passed, Group.advance, hcur, hc]
    rfl
  case regs =>
    rw [State.cur_next, State.v_passed, hcur, hc]
    exact Group.v_of_regs rfl
  case flagged =>
    rw [State.cur_next, State.fpflags_passed, hcur, hc]
    rfl
  case pcs =>
    rw [State.cur_next]
    refine State.stands_passed ?_ ?_
    · rw [hcur, hc]
      rfl
    · rw [State.tileEnter, State.iss_addTile, State.iss_countTiles, hi]

/-- With no commit and no counted page among its own, a word changes no other group, and no memory. -/
theorem State.quiet_tileEnter (hx : ∀ p ∈ x.pages, ∀ y, s.coreAccess s.iss.gid (BitVec.ofNat 64 (p.page * 4096)) false 0 = .ok y → y.ac = none) :
    s.quiet (s.noHidden.tileEnter kind flags as x).advance.afterX := by
  have hplaces : ∀ p ∈ s.noHidden.tilePlaces s.iss.gid x.pages, p.ac = none := by
    rw [State.noHidden_groups, State.tilePlaces_groups State.slot_noHidden]
    intro y hy
    obtain ⟨p, hp, hy⟩ := List.mem_filterMap.1 hy
    refine hx p hp y ?_
    cases he : s.coreAccess s.iss.gid (BitVec.ofNat 64 (p.page * 4096)) false 0 with
    | error e => rw [he] at hy; cases hy
    | ok z =>
      rw [he] at hy
      cases hy
      rfl
  have henter : s.noHidden.tileEnter kind flags as x = s.noHidden.addTile kind flags as x := by
    rw [State.tileEnter, State.countTiles, State.iss_noHidden, State.countPages_uncounted _ _ _ _ hplaces]
  rw [henter]
  refine ⟨fun k hk => ?_, fun a => ?_⟩
  · have hgid : (s.noHidden.addTile kind flags as x).iss.gid = s.iss.gid := by rw [State.iss_addTile, State.iss_noHidden]
    have hdropped : s.noHidden.group k = s.group k := s.group_setCur_ne k _ hk
    rw [← hdropped, ← State.group_addTile_ne s.noHidden kind flags as x k hk]
    generalize s.noHidden.addTile kind flags as x = v at hgid
    exact (State.group_afterX_ne v.advance k (hgid.symm ▸ hk)).trans (State.group_advance_ne v k (hgid.symm ▸ hk))
  · rw [State.rd_next, State.rd_addTile]
    rfl

end left

/-! ### The words with deckle registers (R369) -/

section word
variable {s : State} {i : Instr} {kind : TileKind} {f : XE} {regs : List (BitVec 8)} {m : Lanes} {far : Bool}

/-- Lane 0's deckle addresses. -/
def State.deckRegs (s : State) (regs : List (BitVec 8)) : List Dword := regs.map fun r => s.cur.v64 0 r.toNat

/-- What the checks found may write another package. -/
def knownFar (known : Option (Except (Nat × Dword) TileIssue)) : Bool :=
  match known with
  | some (.ok x) => x.far
  | _ => false

/-- The needs of a tile word. -/
def State.tileNeeds (s : State) (f : XE) (regs : List (BitVec 8)) (far : Bool) : Needs :=
  { guard := f.guard, regs := regs.flatMap pairRegs, reads := regs.flatMap pairRegs, region := s.cur.hold || (far && s.cur.windowRegion)
    deliver := s.cur.hold, after := true }

/-- The fault of a tile word. -/
def State.tileFaultOf (s : State) (known : Option (Except (Nat × Dword) TileIssue)) (far : Bool) (a : Dword) : Option DataFault :=
  if s.cur.tileBusy then none
  else
    match known with
    | some (.error x) => some (tileFault x)
    | _ => if far && s.lastSerial then some (tileFault (0x11, a)) else none

/-- What a tile word does after its checks. -/
def tileAct (i : Instr) (kind : TileKind) (f : XE) (gid : Nat) (as : List Dword) (commit far : Bool) (s : State) (_ : Lanes) : Option State :=
  if s.cur.tileBusy || 255 ≤ s.cur.outstanding 2 then none
  else if (s.opened commit far).isNone then none
  else if !s.holdsPass gid then some (s.requestPass gid)
  else s.loadRead i 0 (s.readBlocks 0 (deckBlocks ((s.deckFine gid as).map (·.1)))) fun s bs =>
    match s.tileCheck kind f.flags as bs with
    | .error _ => none
    | .ok x => (s.opened commit x.far).map fun s => ((s.countTiles gid x.pages).addTile kind f.flags as x).advance

theorem State.tileWord_eq (h : s.Clear { s.tileNeeds f regs far with coll := true } m) (hm : m ≠ 0)
    (hfar : knownFar (s.tileKnown kind f.flags (s.deckRegs regs)) = far) :
    s.tileWord i kind f regs = s.runM (s.tileNeeds f regs far) (s.tileFaultOf (s.tileKnown kind f.flags (s.deckRegs regs)) far ((s.deckRegs regs).headD 0))
      (tileAct i kind f s.iss.gid (s.deckRegs regs) s.cur.hold far) := by
  have hact : (s.cur.active s.iss.run f.guard != 0) = true := bne_iff_ne.2 fun h0 => hm (h.active.trans h0)
  subst hfar
  unfold State.tileWord
  dsimp only
  rw [hact, Bool.true_and, Bool.true_and]
  rfl

theorem exec_tileWord (hi : (i, kind, regs) ∈ [(.tzero f, TileKind.tzero, [f.e0]), (.tmac f, .tmac, [f.e0, f.e1, f.e2]), (.tadd f, .tadd, [f.e0, f.e1]),
    (.trnd f, .trnd, [f.e0]), (.tdense f, .tdense, [f.e0]), (.tcomp f, .tcomp, [f.e0]), (.tlu f, .tlu, [f.e0]), (.ttrs f, .ttrs, [f.e0, f.e1])]) :
    exec i s = s.tileWord i kind f regs := by
  simp only [List.mem_cons, List.not_mem_nil, or_false] at hi
  obtain hi | hi | hi | hi | hi | hi | hi | hi := hi <;> cases hi <;> rfl

theorem Group.tileBusy_false {g : Group} (h : g.tileBusy = false) : g.tiles = [] ∧ g.outstanding 2 = 0 := by
  unfold Group.tileBusy at h
  simp only [Bool.or_eq_false_iff, Bool.not_eq_false', List.isEmpty_iff] at h
  obtain ⟨ht, he⟩ := h
  exact ⟨ht, by simp only [Group.outstanding, ht, he, List.length_nil]⟩

theorem State.tileFaultOf_none {x : TileIssue} (hb : s.cur.tileBusy = false) (hx : x.far = true → s.lastSerial = false) (a : Dword) :
    s.tileFaultOf (some (.ok x)) x.far a = none := by
  unfold State.tileFaultOf
  rw [if_neg (by rw [hb]; exact Bool.false_ne_true)]
  refine if_neg ?_
  rw [Bool.and_eq_true]
  rintro ⟨hf, hl⟩
  rw [hx hf] at hl
  cases hl

/-- What the checks found is what they find once the deckles' bytes are read. -/
theorem State.tileKnown_bytes {as : List Dword} {r : Except (Nat × Dword) TileIssue} (h : s.tileKnown kind f.flags as = some r) :
    ∃ bs, s.readBlocks 0 (deckBlocks ((s.deckFine s.iss.gid as).map (·.1))) = .bytes bs ∧ s.tileCheck kind f.flags as bs = r := by
  rw [State.tileKnown] at h
  split at h
  · next bs hb => exact ⟨bs, hb, Option.some.inj h⟩
  · cases h

/-- A word that issues enters its operation. -/
theorem tileAct_enters {as : List Dword} {x : TileIssue} (hb : s.cur.tileBusy = false) (hk : s.tileKnown kind f.flags as = some (.ok x))
    (hfree : x.far = true → s.cur.hold = false → s.cur.window = .free) (hmay : s.cur.hold = true → s.cur.mayCommit = true)
    (hu : (s.cur.unknowns.find? fun u => u.regs.any fun p => 0x1000 ≤ p.1) = none) (hp : s.holdsPass s.iss.gid = true) :
    ∃ u : State, tileAct i kind f s.iss.gid as s.cur.hold x.far s m = some (u.tileEnter kind f.flags as x).advance ∧ u.iss = s.iss ∧ s.cur.sameIssue u.cur
      ∧ (s.cur.hold = false → u = s.noHidden) := by
  obtain ⟨bs, hbs, hcheck⟩ := State.tileKnown_bytes hk
  obtain ⟨u0, hopen0, -⟩ := State.opened_some (s := s) (commit := s.cur.hold) (far := x.far) hmay hfree
  obtain ⟨u, hopen, hsame, hiss, H, C, R, I, S, hcur⟩ := State.opened_some (s := s.noHidden) (commit := s.cur.hold) (far := x.far)
    (fun h => by rw [State.cur_noHidden]; exact Group.mayCommit_dropHidden (hmay h))
    (fun h h' => by rw [State.cur_noHidden, Group.window_dropHidden]; exact hfree h h')
  refine ⟨u, ?_, hiss.trans s.iss_noHidden, ⟨H, C, R, I, S, _, _, _, by rw [hcur, State.cur_noHidden]; rfl⟩, hsame⟩
  have hgid : u.iss.gid = s.iss.gid := by rw [hiss, State.iss_noHidden]
  rw [tileAct, if_neg (by rw [hb, (Group.tileBusy_false hb).2]; decide), if_neg (by rw [hopen0]; exact Bool.false_ne_true), if_neg (by rw [hp]; decide), hbs,
    State.loadRead_bytes hu]
  show (match s.noHidden.tileCheck kind f.flags as bs with
    | .error _ => none
    | .ok x => (s.noHidden.opened s.cur.hold x.far).map fun v : State => ((v.countTiles s.iss.gid x.pages).addTile kind f.flags as x).advance) = _
  rw [State.tileCheck_noHidden, hcheck]
  dsimp only
  rw [hopen, Option.map_some, State.tileEnter, hgid]

theorem tileAct_asks {as : List Dword} {commit : Bool} (hb : s.cur.tileBusy = false) (hfree : far = true → commit = false → s.cur.window = .free)
    (hmay : commit = true → s.cur.mayCommit = true) (hp : s.holdsPass s.iss.gid = false) :
    tileAct i kind f s.iss.gid as commit far s m = some (s.requestPass s.iss.gid) := by
  obtain ⟨u0, hopen0, -⟩ := State.opened_some hmay hfree
  rw [tileAct, if_neg (by rw [hb, (Group.tileBusy_false hb).2]; decide), if_neg (by rw [hopen0]; exact Bool.false_ne_true), if_pos (by rw [hp]; rfl)]

section issue
variable (h : s.Clear { s.tileNeeds f regs far with coll := true } m) (hm : m ≠ 0) (hi : s.iss.issued = false)
  (hfar : knownFar (s.tileKnown kind f.flags (s.deckRegs regs)) = far)
include h hm hfar

theorem State.tileWord_waits (hb : s.cur.tileBusy = true) : s.tileWord i kind f regs = .next s := by
  rw [State.tileWord_eq h hm hfar]
  refine State.runM_stall h hm (if_pos hb) (if_pos ?_)
  rw [hb]
  rfl

theorem State.tileWord_bad {c : Nat} {a : Dword} (hb : s.cur.tileBusy = false)
    (hk : s.tileKnown kind f.flags (s.deckRegs regs) = some (.error (c, a))) : s.tileWord i kind f regs = .next (s.takeTrap c allLanes a 0) := by
  rw [State.tileWord_eq h hm hfar]
  refine State.runM_fault (d := tileFault (c, a)) h hm ?_
  unfold State.tileFaultOf
  rw [hb, hk]
  rfl

theorem State.tileWord_last (hb : s.cur.tileBusy = false) (hf : far = true) (hl : s.lastSerial = true) :
    s.tileWord i kind f regs = .next (s.takeTrap 0x11 allLanes ((s.deckRegs regs).headD 0) 0) := by
  rw [State.tileWord_eq h hm hfar]
  refine State.runM_fault (d := tileFault (0x11, (s.deckRegs regs).headD 0)) h hm ?_
  unfold State.tileFaultOf
  rw [hb, hf, hl]
  subst hf
  cases hk : s.tileKnown kind f.flags (s.deckRegs regs) with
  | none => rfl
  | some r =>
    cases r with
    | ok x => rfl
    | error e =>
      rw [hk] at hfar
      cases hfar

section fine
variable {x : TileIssue} (hb : s.cur.tileBusy = false) (hk : s.tileKnown kind f.flags (s.deckRegs regs) = some (.ok x))
  (hx : x.far = true → s.lastSerial = false ∧ (s.cur.hold = false → s.cur.window = .free)) (hmay : s.cur.hold = true → s.cur.mayCommit = true)
include hb hk hx hmay

include hi in
theorem State.tileWord_asks (hp : s.holdsPass s.iss.gid = false) : s.tileWord i kind f regs = .next (s.requestPass s.iss.gid) := by
  rw [State.tileWord_eq h hm hfar, hk]
  rw [hk] at hfar
  subst hfar
  refine State.runM_keeps h hm (State.tileFaultOf_none hb (fun hf => (hx hf).1) _) (tileAct_asks hb (fun hf => (hx hf).2) hmay hp) ?_
  rw [State.iss_requestPass, hi]

theorem State.tileWord_enters (hu : (s.cur.unknowns.find? fun u => u.regs.any fun p => 0x1000 ≤ p.1) = none) (hp : s.holdsPass s.iss.gid = true) :
    ∃ u : State, s.tileWord i kind f regs = .next (u.tileEnter kind f.flags (s.deckRegs regs) x).advance.afterX
      ∧ u.iss = s.iss ∧ s.cur.sameIssue u.cur ∧ (s.cur.hold = false → u = s.noHidden) := by
  obtain ⟨u, hact, hleft⟩ := tileAct_enters (i := i) (m := m) hb hk (fun hf => (hx hf).2) hmay hu hp
  refine ⟨u, ?_, hleft⟩
  rw [State.tileWord_eq h hm hfar, hk]
  rw [hk] at hfar
  subst hfar
  exact State.runM_go h hm (State.tileFaultOf_none hb (fun hf => (hx hf).1) _) hact rfl

end fine
end issue

end word

/-! ### `TSAMP` (R211, R375) -/

section tsamp
variable {s : State} {f : XE} {m : Lanes}

/-- A keyed word that a register's value makes reserved traps for its run, whatever its guard holds (R271). -/
theorem State.pre_reserved {n : Needs} {w : Dword} {keys : List Nat} (hk : n.keys = keys) (hne : keys ≠ []) (hr : ∀ r ∈ keys, r < s.cur.nregs)
    (hg : s.cur.awaits keys s.iss.run = false) (hw : n.reserved = some w) : s.pre n = .trap 0x02 s.iss.run 0 w := by
  subst hk
  have hkeyed : (!n.keys.isEmpty && n.keys.all (· < s.cur.nregs)) = true := by
    rw [Bool.and_eq_true, Bool.not_eq_true', List.isEmpty_eq_false_iff, List.all_eq_true]
    exact ⟨hne, fun r h => decide_eq_true (hr r h)⟩
  unfold State.pre
  dsimp only
  rw [hkeyed, hg, hw]
  rfl

/-- What a `TSAMP` found of its record. -/
def State.sampIssue (s : State) (clr : Bool) (a : Dword) : TileIssue :=
  { pages := (valuesOf [s.tsampPages a]).flatten, far := clr && (valuesOf [s.tsampPages a]).flatten.any fun p => p.kind = 2 }

/-- The needs of a `TSAMP`. -/
def State.sampNeeds (s : State) (f : XE) (commit far : Bool) (w : Option Dword) : Needs :=
  { guard := f.guard, regs := pairRegs f.e0, reads := pairRegs f.e0, region := commit || (far && s.cur.windowRegion)
    deliver := commit, after := true, keys := if f.flags == 1 then pairRegs f.e0 else [], reserved := w }

/-- What a `TSAMP` does after its checks. -/
def sampAct (gid : Nat) (f : XE) (a : Dword) (x : TileIssue) (commit far : Bool) (s : State) (_ : Lanes) : Option State :=
  if s.cur.tileBusy || 255 ≤ s.cur.outstanding 2 then none
  else
    (s.opened commit far).bind fun u =>
      if s.holdsPass gid then some ((u.countTiles gid x.pages).addTile .tsamp f.flags [a] x).advance else some (s.requestPass gid)

/-- The fault of a `TSAMP`. -/
def State.sampFault (s : State) (a : Dword) (far : Bool) : Option DataFault :=
  (lowestFault (errorsOf [s.tsampPages a] ++ if far && s.lastSerial then [(0x11, a)] else [])).map tileFault

theorem execTsamp_eq {a : Dword} {commit far : Bool} {w : Option Dword} (ha : s.cur.v64 0 f.e0.toNat = a)
    (hc : (s.cur.active s.iss.run f.guard != 0 && s.cur.hold && f.flags == 1) = commit)
    (hf : (s.cur.active s.iss.run f.guard != 0 && (s.sampIssue (f.flags == 1) a).far) = far)
    (hw : (if f.flags == 1 && a = 0 then some (instrWord (.tsamp f)) else none) = w) :
    exec (.tsamp f) s = s.runM (s.sampNeeds f commit far w) (s.sampFault a far) (sampAct s.iss.gid f a (s.sampIssue (f.flags == 1) a) commit far) := by
  subst hc hf hw ha
  rfl

/-- `TSAMP.clr` with address zero is a reserved word (R271). -/
theorem tsamp_reserved (hclr : (f.flags == 1) = true) (ha : s.cur.v64 0 f.e0.toNat = 0) (hr : ∀ r ∈ pairRegs f.e0, r < s.cur.nregs)
    (hg : s.cur.awaits (pairRegs f.e0) s.iss.run = false) :
    exec (.tsamp f) s = .next (s.takeTrap 0x02 s.iss.run 0 (instrWord (.tsamp f))) := by
  have hw : (if f.flags == 1 && (0 : Dword) = 0 then some (instrWord (.tsamp f)) else none) = some (instrWord (.tsamp f)) :=
    if_pos (by rw [hclr]; rfl)
  rw [execTsamp_eq ha rfl rfl hw, State.runM, State.runX, State.pre_reserved (keys := pairRegs f.e0) (if_pos hclr) (List.cons_ne_nil _ _) hr hg rfl]
  rfl

section act
variable {a : Dword} {commit far clr : Bool} {ps : List TilePage}

theorem State.sampFault_bad {c : Nat} {b : Dword} (h : s.tsampPages a = .error (c, b)) (hfar : far = false) :
    s.sampFault a far = some (tileFault (c, b)) := by
  rw [State.sampFault, h, hfar]
  rfl

theorem State.sampFault_none (h : s.tsampPages a = .ok ps) (hfar : far = true → s.lastSerial = false) : s.sampFault a far = none := by
  have hlast : (far && s.lastSerial) = false := by
    cases far with
    | false => rfl
    | true => exact hfar rfl
  rw [State.sampFault, h, hlast]
  rfl

theorem State.sampIssue_ok (h : s.tsampPages a = .ok ps) : (s.sampIssue clr a).pages = ps := by
  rw [State.sampIssue, h]
  exact List.append_nil ps

theorem State.sampIssue_error {e : Nat × Dword} (h : s.tsampPages a = .error e) : (s.sampIssue clr a).far = false := by
  rw [State.sampIssue, h]
  exact Bool.and_false _

theorem sampAct_asks {x : TileIssue} (hb : s.cur.tileBusy = false) (hfree : far = true → commit = false → s.cur.window = .free)
    (hmay : commit = true → s.cur.mayCommit = true) (hp : s.holdsPass s.iss.gid = false) :
    sampAct s.iss.gid f a x commit far s m = some (s.requestPass s.iss.gid) := by
  obtain ⟨u, hopen, -⟩ := State.opened_some hmay hfree
  rw [sampAct, if_neg (by rw [hb, (Group.tileBusy_false hb).2]; decide), hopen, Option.bind_some, if_neg (by rw [hp]; exact Bool.false_ne_true)]

theorem sampAct_enters {x : TileIssue} (hb : s.cur.tileBusy = false) (hfree : far = true → commit = false → s.cur.window = .free)
    (hmay : commit = true → s.cur.mayCommit = true) (hp : s.holdsPass s.iss.gid = true) :
    ∃ u : State, sampAct s.iss.gid f a x commit far s m = some (u.tileEnter .tsamp f.flags [a] x).advance ∧ u.iss = s.iss ∧ s.cur.sameIssue u.cur := by
  obtain ⟨u, hopen, -, hiss, H, C, R, I, S, hcur⟩ := State.opened_some hmay hfree
  refine ⟨u, ?_, hiss, ⟨H, C, R, I, S, _, _, _, hcur⟩⟩
  rw [sampAct, if_neg (by rw [hb, (Group.tileBusy_false hb).2]; decide), hopen, Option.bind_some, if_pos hp, State.tileEnter, hiss]

end act

section issue
variable (h : s.Clear { s.sampNeeds f (s.cur.hold && f.flags == 1) far none with coll := true } m) (hm : m ≠ 0) (hi : s.iss.issued = false)
  {a : Dword} (ha : s.cur.v64 0 f.e0.toNat = a) {x : TileIssue} (hx : s.sampIssue (f.flags == 1) a = x) (hfar : x.far = far)
  (hw : ¬ ((f.flags == 1) = true ∧ a = 0))
include h hm ha hx hfar hw

theorem execTsamp_clear :
    exec (.tsamp f) s = s.runM (s.sampNeeds f (s.cur.hold && f.flags == 1) far none) (s.sampFault a far)
      (sampAct s.iss.gid f a x (s.cur.hold && f.flags == 1) far) := by
  have hact : (s.cur.active s.iss.run f.guard != 0) = true := bne_iff_ne.2 fun h0 => hm (h.active.trans h0)
  subst hx
  refine execTsamp_eq ha ?_ ?_ (if_neg ?_)
  · rw [hact, Bool.true_and]
  · rw [hact, Bool.true_and, hfar]
  · rwa [Bool.and_eq_true, decide_eq_true_iff]

theorem tsamp_bad {c : Nat} {b : Dword} (hp : s.tsampPages a = .error (c, b)) : exec (.tsamp f) s = .next (s.takeTrap c allLanes b 0) := by
  rw [execTsamp_clear h hm ha hx hfar hw]
  refine State.runM_fault (d := tileFault (c, b)) h hm (State.sampFault_bad hp ?_)
  rw [← hfar, ← hx, State.sampIssue_error hp]

section fine
variable {ps : List TilePage} (hps : s.tsampPages a = .ok ps) (hb : s.cur.tileBusy = false)
  (hfree : far = true → s.lastSerial = false ∧ (s.cur.hold = false → s.cur.window = .free))
  (hmay : s.cur.hold = true → (f.flags == 1) = true → s.cur.mayCommit = true)
include hps hb hfree hmay

omit h hm ha hw hps hb hmay in
/-- A record of another package is of a word that commits with its team's hold. -/
theorem samp_free (hf : far = true) (hc : (s.cur.hold && f.flags == 1) = false) : s.cur.window = .free := by
  have hclr : (f.flags == 1) = true := by
    rw [← hfar, ← hx, State.sampIssue] at hf
    exact (Bool.and_eq_true _ _ ▸ hf).1
  rw [hclr, Bool.and_true] at hc
  exact (hfree hf).2 hc

include hi in
theorem tsamp_asks (hp : s.holdsPass s.iss.gid = false) : exec (.tsamp f) s = .next (s.requestPass s.iss.gid) := by
  rw [execTsamp_clear h hm ha hx hfar hw]
  refine State.runM_keeps h hm (State.sampFault_none hps fun hf => (hfree hf).1)
    (sampAct_asks hb (samp_free hx hfar hfree) (fun hc => ?_) hp) ?_
  · rw [Bool.and_eq_true] at hc
    exact hmay hc.1 hc.2
  · rw [State.iss_requestPass, hi]

theorem tsamp_enters (hp : s.holdsPass s.iss.gid = true) :
    ∃ u : State, exec (.tsamp f) s = .next (u.tileEnter .tsamp f.flags [a] x).advance.afterX ∧ u.iss = s.iss ∧ s.cur.sameIssue u.cur := by
  obtain ⟨u, hact, hleft⟩ := sampAct_enters (f := f) (m := m) (a := a) (x := x) hb (samp_free hx hfar hfree)
    (fun hc => hmay (Bool.and_eq_true _ _ ▸ hc).1 (Bool.and_eq_true _ _ ▸ hc).2) hp
  refine ⟨u, ?_, hleft⟩
  rw [execTsamp_clear h hm ha hx hfar hw]
  exact State.runM_go h hm (State.sampFault_none hps fun hf => (hfree hf).1) hact rfl

end fine
end issue

end tsamp

/-! ### `TINFO` (R374) -/

section tinfo
variable {s : State} {f : XE} {m : Lanes} {bs : List Byte}

/-- Registers are loaded in a state with the same group, but for the words that its instruction asked for. -/
theorem Loaded.of_dropHidden {t u : State} {d k : Nat} {val : Nat → List Word} (h : Loaded u t m d k val) (hc : u.cur = s.cur.dropHidden)
    (hi : u.iss = s.iss) : Loaded s t m d k val := by
  obtain ⟨hregs, hpcs, hflags, hlatches⟩ := h
  unfold Stands at hpcs
  rw [hc] at hregs hpcs hflags
  rw [hi] at hpcs
  exact ⟨hregs, hpcs, hflags, hlatches⟩

/-- The needs of a `TINFO`. -/
def tinfoNeeds (f : XE) : Needs :=
  { guard := f.guard, regs := range' f.e0.toNat 4 ++ pairRegs f.e1, reads := pairRegs f.e1, after := true }

/-- What a `TINFO` leaves when it has read its deckle. -/
def State.tinfoEnd (s : State) (f : XE) (m : Lanes) (a : Dword) (bs : List Byte) : State :=
  let u := s.countTiles s.iss.gid (valuesOf [s.deckAddr s.iss.gid a false 0x07])
  (u.setCur (u.cur.setRegs f.e0.toNat m (fun _ => tinfoWords (s.team (groupTeam s.iss.gid)) (deckleOf bs)) 4)).advance

/-- What a `TINFO` does after its checks. -/
def tinfoAct (f : XE) (a : Dword) (s : State) (m : Lanes) : Option State :=
  if s.cur.tileBusy then none
  else s.loadRead (.tinfo f) 0 (s.readBlocks 0 (deckBlocks [a])) fun s bs => some (s.tinfoEnd f m a bs)

theorem execTinfo_eq : exec (.tinfo f) s = s.runM (tinfoNeeds f)
    (if s.cur.tileBusy then none else (errorsOf [s.deckAddr s.iss.gid (s.cur.v64 0 f.e1.toNat) false 0x07]).head?.map tileFault)
    (tinfoAct f (s.cur.v64 0 f.e1.toNat)) := rfl

theorem tinfo_loads (h : s.Clear { tinfoNeeds f with coll := true } m) (hm : m ≠ 0) (hb : s.cur.tileBusy = false)
    (haddr : errorsOf [s.deckAddr s.iss.gid (s.cur.v64 0 f.e1.toNat) false 0x07] = [])
    (hbs : s.readBlocks 0 (deckBlocks [s.cur.v64 0 f.e1.toNat]) = .bytes bs)
    (hu : (s.cur.unknowns.find? fun u => u.regs.any fun p => 0x1000 ≤ p.1) = none) :
    ∃ t, exec (.tinfo f) s = .next t ∧ Loaded s t m f.e0.toNat 4 fun _ => tinfoWords (s.team (groupTeam s.iss.gid)) (deckleOf bs) := by
  refine ⟨(s.noHidden.tinfoEnd f m (s.cur.v64 0 f.e1.toNat) bs).afterX, ?_, ?_⟩
  · rw [execTinfo_eq]
    refine State.runM_go h hm ?_ ?_ rfl
    · rw [hb, haddr]
      rfl
    · rw [tinfoAct, if_neg (by rw [hb]; exact Bool.false_ne_true), hbs, State.loadRead_bytes hu]
      rfl
  · exact (State.loads_now _).1.of_dropHidden ((State.cur_countTiles ..).trans s.cur_noHidden) ((State.iss_countTiles ..).trans s.iss_noHidden)

end tinfo

end Sys2Proof.Machine
namespace Sys2Proof
open Machine

/-- Settles O33: a word that goes on enters its operation in the state that it found, or in the one that its commit or its region left;
the stalls, the faults and the request for a pass come before. -/
theorem tileIssues : Obligations.TileIssues := by
  refine ⟨fun s f m i kind regs hmem => ?_, fun s f m bs => ⟨?_, ?_, ?_⟩⟩
  · rw [exec_tileWord hmem]
    intro g gid as rs known trap far hi hm h
    have hfar : knownFar (s.tileKnown kind f.flags (s.deckRegs regs)) = far := rfl
    refine ⟨State.tileWord_waits h hm hfar, fun hb => ⟨fun c a hk => State.tileWord_bad h hm hfar hb hk, State.tileWord_last h hm hfar hb,
      fun x hk hx hmay hu => ⟨State.tileWord_asks h hm hi hfar hb hk hx hmay, fun hp => ?_⟩⟩⟩
    obtain ⟨u, he, hiss, hsame, hquiet⟩ := State.tileWord_enters (i := i) h hm hfar hb hk hx hmay hu hp
    obtain ⟨htiles, ⟨hkind, hc, ha, hb', hflags, -⟩, ⟨hseq, hpc, horder⟩, hserial, hreq, hws, htile, hregs, hfl, hpcs⟩ :=
      State.tileJoined (kind := kind) (flags := f.flags) (as := as) (x := x) hiss hsame
    rw [(Group.tileBusy_false hb).1, List.nil_append] at htiles
    refine ⟨_, _, he, htiles, hkind, hc, ha, hb', hflags, hseq, hpc, horder, hreq, hserial, hws, htile, hregs, hfl, hpcs, fun hh hpages => ?_⟩
    rw [hquiet hh]
    exact State.quiet_tileEnter hpages
  · exact tsamp_reserved
  · intro hi hm hb hw h
    refine ⟨fun c b hp => tsamp_bad h hm rfl rfl rfl hw hp, fun ps hps hfree hmay =>
      ⟨tsamp_asks h hm hi rfl rfl rfl hw hps hb hfree hmay, fun hp => ?_⟩⟩
    obtain ⟨u, he, hiss, hsame⟩ := tsamp_enters h hm rfl rfl rfl hw hps hb hfree hmay hp
    obtain ⟨htiles, ⟨hkind, hc, -, -, hflags, hpages⟩, -, -, -, -, htile, hregs, -, hpcs⟩ := State.tileJoined (kind := .tsamp) (flags := f.flags)
      (as := [s.cur.v64 0 f.e0.toNat]) (x := s.sampIssue (f.flags == 1) (s.cur.v64 0 f.e0.toNat)) hiss hsame
    rw [(Group.tileBusy_false hb).1, List.nil_append] at htiles
    exact ⟨_, _, he, htiles, hkind, hc, hflags, hpages.trans (State.sampIssue_ok hps), htile, hregs, hpcs⟩
  · intro _ hm hb h
    exact tinfo_loads h hm hb

end Sys2Proof
